-- ==== Sys2Proof/Word.lean ====
section
/-! DEFINITION. The plainest words of the model: bytes, modular wraps, two's complement readings. -/
namespace Sys2Proof

/-- One byte of a memory, a record or a frame (R8: little-endian in memory, records and files). -/
abbrev Byte := BitVec 8

/-- Reduction modulo 2^16, 2^32 and 2^64 (R11: every wrap is written explicitly). -/
def wrap16 (n : Nat) : Nat := n % 2 ^ 16
def wrap32 (n : Nat) : Nat := n % 2 ^ 32
def wrap64 (n : Nat) : Nat := n % 2 ^ 64

/-- The two's complement reading of the low `w` bits of `n`. -/
def signedOf (w n : Nat) : Int :=
  if n % 2 ^ w < 2 ^ (w - 1) then (n % 2 ^ w : Nat) else (n % 2 ^ w : Nat) - (2 ^ w : Nat)

/-- The `w`-bit two's complement code of an integer. -/
def codeOf (w : Nat) (z : Int) : Nat := (z % (2 ^ w : Nat)).toNat

end Sys2Proof
end

