-- ==== Sys2Proof/Syntax.lean ====
section
/-! DEFINITION. The commands of the block: one constructor of `Instr` per row of spec/opcode_table.json, with the operands the
row's rule gives it. What a rule leaves to the outside (the result of a self-check, a measured value, which unit does the
work, the bytes a host or a network delivers) is an operand; what the part itself holds (a tile's next record, a ring's next
position, a queued load) is read from the state. -/
namespace Sys2Proof

/-- R379: the three origins of a dictionary request. -/
inductive Origin where
  | host | net | peer
deriving DecidableEq, Repr

/-- The unit of accepted work (R424): frame `j` of a stream context, or frame `i` of the job at position `pos` of a ring pair. -/
inductive WorkId where
  | frame (ctx j : Nat)
  | job (ring pos i : Nat)
deriving DecidableEq, Repr

/-- R322: the units that code pictures or scale them. -/
inductive CoreKind where
  | encode | decode | scaler
deriving DecidableEq, Repr

/-- R334: what decides whether a media port keeps a frame: its VLAN tag, its FCS, the uncorrectable RS codewords among those that
carried it (#6001.0C), whether it is a MAC control frame or an IP fragment, whether it has IPv6 extension headers and these are no
more than a Hop-by-Hop Options header with a Router Alert (`alert`), its checksum, and the bytes of its IP packet. -/
structure PortFrame where
  vid       : Option Nat := none
  fcsOk     : Bool := true
  badWords  : Nat := 0
  control   : Bool := false
  fragment  : Bool := false
  extHeader : Bool := false
  alert     : Bool := false
  sumOk     : Bool := true
  length    : Nat := 0
deriving DecidableEq, Repr

/-- A frame that is no RTP datagram, and the media port it comes in by (R334). -/
structure PortArrival where
  port  : Nat
  frame : PortFrame := {}
deriving DecidableEq, Repr

/-- The bytes of a dictionary write or of a request frame, and whether package flash takes the class f writes among them (R384). -/
structure FlashBytes where
  bytes   : List Byte
  flashOk : Bool := true
deriving DecidableEq, Repr

/-- R411, R414: what the other members enter into a collective, in rank order, and when each member entered: (fabric address, ns of the
fabric-aligned time base). -/
structure Entered where
  others : List (List Byte)
  times  : List (Nat × Nat) := []
deriving DecidableEq, Repr

/-- A UDP datagram carrying RTP as a media port receives it (R334, R337, R340): `csrc` counts the CSRC identifiers, `ext` and `pad` say
that a header extension and padding are there, and `payload` is everything behind the fixed header, these among it. -/
structure RtpPacket where
  frame   : PortFrame
  src     : Nat
  dst     : Nat
  udpPort : Nat
  version : Nat
  csrc    : Nat := 0
  ext     : Bool := false
  pad     : Bool := false
  marker  : Bool
  ptype   : Nat
  seq     : Nat
  stamp   : Nat
  payload : List Byte
deriving DecidableEq, Repr

/-- R449, R450: one rail's answer to a telemetry read; `none` when its regulator does not answer. -/
structure RailReading where
  rail : Nat
  mV   : Nat
  mA   : Nat
deriving DecidableEq, Repr

/-- R401, R404: what a hello carries. -/
structure HelloData where
  serial     : Nat
  address    : Nat
  stored     : Nat
  root       : Nat
  hops       : Nat
  link       : Nat
  rate       : Nat
  precedence : Nat
  modeBits   : Nat
  edition    : Nat
  txTime     : Nat
  echo       : Nat
  hold       : Nat
  free       : Nat
deriving DecidableEq, Repr

/-- R401: a received Palton data frame, link header and transport header apart from the 256 data bytes. -/
structure PaltonFrame where
  seq    : Nat
  ack    : Nat
  credit : Nat
  level  : Nat
  dst    : Nat
  src    : Nat
  flow   : Nat
  msg    : Nat
  index  : Nat
  last   : Bool
  cls    : Nat
  data   : List Byte
  crcOk  : Bool
deriving DecidableEq, Repr

/-- R250: one record of an umpire scorecard frame. -/
structure CardRecord where
  card  : Nat
  frame : Nat
  flags : Nat
  ctx   : Nat
deriving DecidableEq, Repr

/-- R470: what a run of the start sequence finds. `failed` lists the (step, unit) pairs that fail their step, `failedTwice`
those whose retry or second form fails too, `lockedAt` the (step, unit) at which power is lost or the part locks up, `badLanes` the
(bridge, lane) pairs that fail training, `badRows` the (stack, row) pairs that fail the stack test, `shadowOk` that the shadow
bitmap of R478 passes its CRC-32C, and `layers` the first self-test layer that differs on each failing tile (R240). `copyAOk` and `copyBOk` say that both signatures of a manifest copy verify under Yaring root keys. -/
structure StartFindings where
  failed      : List (Nat × Nat)
  failedTwice : List (Nat × Nat)
  lockedAt    : Option (Nat × Nat)
  copyAOk     : Bool
  copyBOk     : Bool
  copiesOk    : Bool
  timeMs      : Nat
  badLanes    : List (Nat × Nat) := []
  badRows     : List (Nat × Nat) := []
  shadowOk    : Bool := true
  layers      : List (Nat × Nat) := []
deriving DecidableEq, Repr

/-- R442: what one message of the mirror flow carries: an entry with its state and card, an input, one of the two buffers of a state
region, a dictionary subentry, a loaded package. -/
inductive MirrorItem where
  | entry (work : WorkId) (state card : Nat)
  | input (work : WorkId) (bytes : List Byte)
  | stateRegion (ctx region buffer : Nat) (bytes : List Byte)
  | object (index sub : Nat) (bytes : List Byte)
  | package (slot : Nat) (digest : List Byte)
deriving DecidableEq, Repr

/-- One constructor per row of spec/opcode_table.json, in the table's order. Times (`dt`) are nanoseconds since the last
command that carried a time; `flashOk` says that writes to package flash succeed (R380, R387). -/
inductive Instr where
  -- the tick, rounds and tick sources
  | tickBoundary
  | lagLimit (ctx : Nat)
  | sourceQualified (src dt : Nat)
  | sourceLost (src dt : Nat)
  | sourceAdoptionHold (src dt : Nat)
  | timebaseStep (ns : Int)
  -- the service loop and the clusters
  | serviceLoopPass (hostWrites : List (Nat × Byte)) (failedReads : List Nat)
  | heartbeat (arrived : Bool)
  | standbyTakeover
  -- the dictionary
  | dictWindowRequest (token : Nat) (frame : FlashBytes)
  | dtpNetRequest (port : Nat) (frame : FlashBytes)
  | dtpPeerRequest (peer : Nat) (frame : FlashBytes)
  | dictWrite (origin : Origin) (index sub : Nat) (data : FlashBytes)
  | deviceFlagsClear (mask : Nat)
  | tileFlagsClear (mask : Nat)
  -- function slots, table sets, packages
  | functionSlotLoad (diesOk : Bool)
  | functionSlotUnload
  | functionSlotSwitch (slot : Nat)
  | functionBankRelease (slot : Nat)
  | tableSetAdd (diesOk : Bool)
  | tableSetRemove (diesOk : Bool)
  | cdfBankSwap
  | cdfBankFree (bank : Nat)
  | packageLoad (slot : Nat)
  | packageLoadRun
  | packageUnload (slot : Nat)
  -- stream contexts
  | contextBind (ctx value : Nat)
  | contextUnbind (ctx : Nat)
  | contextStart (ctx : Nat)
  | contextStartCheck (ctx : Nat)
  | contextStop (ctx : Nat)
  | contextTimeout (ctx : Nat)
  | snapshotWrite (ctx : Nat)
  | contextResume (ctx : Nat)
  | contextSwitch (ctx slot : Nat)
  | switchTakeEffect (ctx : Nat)
  | referenceRequest (ctx slot j0 : Nat)
  -- umpire mode
  | umpireEnable
  | umpireScorecardFrame (partner : Nat) (records : List CardRecord)
  | umpireHaltNotice (partner ctx frame : Nat)
  | umpireLagEvent (ctx frame : Nat)
  | umpireResume
  | umpireStop
  -- scaler filter sets
  | filterSetLoad
  | filterSetUnload
  | filterSetSwitch (set : Nat)
  -- stacks, the scorebook copies and allocations
  | stackRetireCommand (stack : Nat)
  | stackMigrationComplete (stack : Nat)
  | scorebookCopyRebuilt
  | allocate
  | free
  | allocationRelease (base : Nat)
  | fabricCopyStart
  | fabricCopyDone
  -- resets, park, keys, attestation, fault log
  | warmReset
  | dieRecovery
  | parkEnter
  | parkLeave
  | readmit (value : Nat)
  | clearReverted
  | keyRequest (origin : Origin)
  | attestationReport
  | faultLogAcknowledge (sequence : Nat)
  -- tile parts and the tile command set
  | tilePartDispatch (tile : Nat) (work : WorkId) (part : Nat)
  | nop (tile : Nat)
  | mma (tile : Nat)
  | conv (tile : Nat)
  | anchor (tile : Nat)
  | stacc (tile : Nat)
  | ldacc (tile : Nat)
  | rndacc (tile : Nat)
  | vew (tile : Nat)
  | vred (tile : Nat)
  | gather (tile : Nat)
  | scadd (tile : Nat)
  | scaddr (tile : Nat)
  | sfn (tile : Nat)
  | smax (tile : Nat)
  | nstat (tile : Nat)
  | move (tile : Nat)
  | stream (tile : Nat)
  | swap (tile : Nat)
  | dgstore (tile : Nat)
  | endPart (tile : Nat)
  | syncTimeout (tile : Nat)
  | descriptorStart (tile queue : Nat)
  | descriptorComplete (tile order : Nat)
  | syncWindowAllocate (work : WorkId)
  | syncWindowRelease (work : WorkId)
  | tileWatchdog (tile : Nat)
  | tileFault (tile : Nat)
  | tileSelfCheck (tile : Nat) (passed : Bool)
  | weightCacheParity (die line : Nat)
  | weightWindowFill (die slot : Nat)
  | class3Stop (tile : Nat)
  -- the entropy coder
  | segmentEncode (lane : Nat) (work : WorkId) (seg : Nat)
  | segmentDecode (lane : Nat) (work : WorkId) (seg : Nat)
  | laneFault (lane : Nat)
  | laneWatchdog (lane : Nat)
  | parseInputPicture (work : WorkId)
  | rateControlBand (ctx band : Nat)
  -- collectives
  | collectiveMaxAnchors (work : WorkId) (record : Nat) (others : Entered)
  | collectiveSumExact (work : WorkId) (record : Nat) (others : Entered)
  | collectiveSumAnchored (work : WorkId) (record : Nat) (others : Entered)
  | collectiveBroadcast (work : WorkId) (record : Nat) (others : Entered)
  | collectiveElementwiseMax (work : WorkId) (record : Nat) (others : Entered)
  | tickBarrier (group n : Nat) (entries : List (Nat × Nat))
  -- block video, scaling, lossless engines
  | motionSearchRow (core ctx j row : Nat)
  | codecTileJob (core : Nat) (work : WorkId) (tile : Nat)
  | scalerFrame (unit : Nat) (work : WorkId)
  | codecCoreFault (kind : CoreKind) (core : Nat)
  | codecCoreWatchdog (kind : CoreKind) (core : Nat)
  | engineCompress (engine : Nat) (work : WorkId)
  | engineDecompress (engine : Nat) (work : WorkId)
  | engineFault (engine : Nat)
  | engineWatchdog (engine : Nat)
  -- commit and completion
  | frameCommit (work : WorkId)
  | completionPost (ring : Nat)
  -- media ports
  | rtpPacketReceive (port : Nat) (packet : RtpPacket) (dt : Nat)
  | mergeWindowExpiry (ctx seq dt : Nat)
  | inputFrameComplete (ctx : Nat)
  | inputFrameTimeout (ctx : Nat)
  | icmpEcho (port : PortArrival) (src dst ident seq : Nat) (data : List Byte)
  | arpRequest (port : PortArrival) (target sender senderMac : Nat)
  | neighbourDiscovery (port : PortArrival) (target sender senderMac : Nat)
  | multicastQuery (port : PortArrival) (group : Nat) (v6 : Bool)
  | packetSend (port : Nat)
  | receiverBench (flow receiver : Nat)
  | receiverReady (flow receiver : Nat)
  | mediaPortFault (port : Nat)
  | mediaLinkUp (port : Nat)
  -- the PCI Express function
  | bar2Read (offset length : Nat)
  | bar2Write (offset : Nat) (data : List Byte)
  | bar0BadAccess (offset width : Nat)
  | pcieHotReset
  | pciePowerStateChange (d3hot : Bool)
  | hostDmaError (work : WorkId)
  | bridgeError (bridge : Nat)
  | controlCoreFail (die core : Nat)
  -- Palton links and the fabric
  | paltonDataFrame (link : Nat) (frame : PaltonFrame)
  | paltonControlFrame (link ack credit level : Nat)
  | retryRequest (link expected : Nat)
  | linkAckTimeout (link : Nat)
  | linkTraining (link : Nat) (passed : Bool) (dt : Nat)
  | hello (link : Nat) (data : HelloData) (dt : Nat)
  | helloSend (dt : Nat)
  | addressMap (root : Nat) (map : List (Nat × Nat))
  | routeFlood (src : Nat) (upLinks : List (Nat × Nat))
  | flowUnpin (src flow : Nat)
  | messageAck (peer flow msg : Nat)
  | fabricTickMessage (link counter rate precedence serial ptp free : Nat)
  | peerLost (peer : Nat)
  | peerRegained (peer : Nat)
  | fabricOutputMessage (sender flow ctx j : Nat) (data : List Byte)
  | mirrorMessage (sender : Nat) (item : MirrorItem)
  | mirrorUnprotected
  -- power, current, droop and heat
  | powerEstimate (die mW dt : Nat)
  | estimateRecalibrate (die : Nat)
  | railTelemetry (readings : List RailReading) (dt : Nat)
  | currentStepUp (die dt : Nat)
  | budgetBroker (dt : Nat)
  | operatingPointStep (die : Nat) (up : Bool)
  | droopDetect (die dt : Nat)
  | droopRelease (die dt : Nat)
  | dieTemperatureStep (die : Nat) (tenths : Int) (dt : Nat)
  | stackTemperature (stack : Nat) (tenths : Int) (dt : Nat)
  | thermtrip (unit : Nat)
  | regulatorWarning (rail status dt : Nat)
  | regulatorWarningClear (rail dt : Nat)
  | railLost (rail : Nat)
  | throttleEpisodeEnd (reason dt : Nat)
  -- memory protection
  | correctedError (stack row address : Nat)
  | patrolScrub (stack : Nat)
  | rowSpare (stack row : Nat)
  | uncorrectedError (stack row address : Nat)
  | stackRateLimit (stack : Nat)
  -- power-on, PERST#, the start
  | powerOn (vstbyHeld : Bool)
  | perstAssert
  | perstDeassert (vmemHeld : Bool)
  | stbyOkFall
  | mainOkFall
  | startSequence (found : StartFindings)
  | mirrorRecovery
  | laneSelfCheck (lane : Nat) (passed : Bool)
  | codecCoreSelfCheck (kind : CoreKind) (core : Nat) (passed : Bool)
  | engineSelfCheck (engine : Nat) (passed : Bool)
  | parkEntered
  | umpireConfigurationDigest (partner : Nat) (digest : List Byte)
  | spanGroupBlob (group member : Nat) (blob : List Byte) (modes : Nat)
  | fabricCopyReceive (sender address : Nat) (data : List Byte)
  | powerLoss
  | busMasterEnable (on : Bool)
deriving DecidableEq, Repr

end Sys2Proof
end

