-- ==== Sys2Proof/Decode.lean ====
section
/-! DEFINITION. The command a word spells. No row of spec/opcode_table.json has bits: the block's commands are events and
register accesses, not words, so no word spells one. -/
namespace Sys2Proof

/-- The command that the low `nbits` bits of `w` spell by the table: none of its rows gives bits. -/
def decodeTableWord (_nbits _w : Nat) : Option Instr := none

end Sys2Proof
end

