-- ==== Sys2Proof/Config.lean ====
section
/-! DEFINITION. The free values: what the spec leaves open and no rule fixes. None has a body, so no proof can rest on a value. -/
namespace Sys2Proof.Config

/-- Where firmware places allocation number `n` (R446; log 5): taken when it is free and aligned, else the lowest fit. -/
opaque allocPlace : Nat → Nat

/-- The compute die on whose stacks firmware places allocation number `n` when it belongs to no stream (R24, R166; log 5). -/
opaque allocDie : Nat → Nat

/-- V of a loaded table at an argument (mantissa, exponent) that none of its groups covers (R181; log 8). -/
opaque tableGap : Nat → Int → Int → Int × Int

/-- Field `i` (length, escapes, version, symbols) of the result record of a failed segment, of its status, its record and its inputs
(R211; log 11). -/
opaque failedSegment : List Nat → Nat → Nat

/-- The version field of the result record of a decode of no symbols, whose payload has no version (R208, R211; log 11). -/
opaque noVersion : Nat

/-- R239: the b of the motion (0) and hyper (1) segments of a picture, for which the rule names none (log 66). -/
opaque leadBand : Nat → Nat

/-- R259: is a SHA-384 one of the Yaring root-key hashes held in ROM, for RSA (false) or SLH-DSA (true); log 12. -/
opaque romKey : Bool → List Byte → Bool

/-- The status that names a load that failed on some die (R193; log 13). -/
opaque dieFailure : Nat → Nat

/-- The reference profile (R273), as its code less 1 modulo 2, of the video package with an identifier: no field of a package names
it (log 25). -/
opaque packageProfile : Nat → Nat

/-- Where a codec package of an identifier keeps what R279, R282 and R283 surround its networks with: 0 the extended input, 1 the extended
warped reference, 2 the synthesis output; as region, byte offset and, of the synthesis output, format modulo 3. No field of a package
names these; used only where it lies in a writable region (log 68). -/
opaque packagePlace : Nat → Nat → Nat × Nat × Nat

/-- The sync object, by index, on which the parts of a package of an identifier wait for its motion vectors (R307): no field of a package names
it; used only below its n_sync (log 68). -/
opaque motionObject : Nat → Nat

/-- The sample of a synthesis output code that is not a number (R283, R296; log 70). -/
opaque nanSample : Nat → Int

/-- The slot that a switch command written through the dictionary names: no subentry is given for it (R270; log 26). -/
opaque switchTarget : Nat → Nat

/-- R411: the status with which every member fails a collective whose members disagree, less 0x0200 and modulo 0x600 (log 41). -/
opaque collectiveStatus : Nat

/-! ### The identity keys (R481, R485; log 42): an RSA key where the flag is clear, an SLH-DSA key where it is set -/

/-- The key pair that the part of a serial number derives from its SRAM pattern. -/
opaque identityKey : Nat → Nat

/-- Its public key, as #1300.02 (a hash) and #1300.03 hold it. -/
opaque identityPublic : Bool → Nat → List Byte

/-- A signature by it: free value, then the digest signed (the salt is random). -/
opaque identitySign : Bool → Nat → Nat → List Byte → List Byte

/-- R193, R222: whether every die answered a command written through the dictionary (log 13). -/
opaque diesAnswer : Nat → Bool

/-- R59: the measured phase offset of the local time to the selected external source, in ns, by local time (log 44). -/
opaque phaseOffset : Nat → Int

/-- R422: the transmit preset of a link that is up, by link and number of trainings (log 45). -/
opaque linkPreset : Nat → Nat → Nat

/-! ### What R325 leaves open of a compressed stream (log 27) -/

/-- How a dynamic block spells its code lengths: HLIT + 257, HDIST + 1, HCLEN + 4 and the code-length symbols with their extra
values; used only where it spells those lengths (log 27). -/
opaque lengthRuns : List Nat → List Nat → Nat × Nat × Nat × List (Nat × Nat)

/-- FLEVEL of zlib for a level, modulo 4; XFL of gzip for a level, modulo 256. -/
opaque zlibLevel : Nat → Nat
opaque gzipExtra : Nat → Nat

/-- The width flag of the frame content size in a Zstandard frame, used only where it can hold the size: input length, window
logarithm (log 27). -/
opaque contentFlag : Nat → Nat → Nat

/-- The choices that R325 and RFC 8878 leave an encoder in a Zstandard block, each modulo the number of forms that hold what is coded: input,
level, window logarithm, then the block and the choice (log 27). -/
opaque zstdChoice : List Byte → Nat → Nat → Nat × Nat → Nat

/-- The lengths of a Huffman code of literals by the counts of the 256 symbols, used only where they are as short as package-merge's, and the
description of its weights, used only where it spells them (log 27). -/
opaque literalLengths : List Nat → List Nat
opaque literalWeights : List Nat → List Byte

/-- The step code of a band whose unit is missing, by picture × 65,536 + band: R290 gives it none (log 28). -/
opaque missingStep : Nat → Nat

/-- R277: the motion scale of a package's sequence header: no field of a package holds it (log 25). -/
opaque motionScale : Nat → Nat

/-! ### The published codecs (R297 to R303; log 29)

The standards decide these; a service code, the settings of R301 and what the codec keeps of earlier pictures are their first
arguments. -/

/-- Parameter sets, sequence, picture and slice headers of a frame, from its facts: frame, key picture, phase, the rows coded as intra from and
up to, recovery_poc_cnt, constrained_intra_pred_flag, the long-term slot referenced and the one stored into (−1 for none), then the quantisers
of the tiles' first rows (R310 to R312). -/
opaque codecHeader : Nat → List Byte → List Byte → List Int → List Byte

/-- Bits, bytes and unfiltered samples of one coding row, from the picture, its references, its vectors with the reference of each block, the
tile's bytes and samples so far, and the row's facts: frame, tile, row, quantiser, its change from the row above, whether the row is intra, and
the reference rows it may read (−1 for all) (R302, R303, R308, R310, R311). -/
opaque codecRow : Nat → List Byte → List Byte → List (List Byte) → List (Int × Int) → List Nat → List Byte × List Byte → List Int →
  Nat × List Byte × List Byte

/-- The bitstream of a picture from its header and its tiles' bytes (R298). -/
opaque codecPicture : Nat → List Byte → List Byte → List (List Byte) → List Byte

/-- The filter pass over a whole picture: the bitstream and the tiles' unfiltered samples give the reconstruction (R302). -/
opaque codecFilter : Nat → List Byte → List Byte → List (List Byte) → List Byte

/-- What else an encoder keeps after a picture: the state before, its bitstream, frame j. -/
opaque codecNext : Nat → List Byte → List Byte → List Byte → Nat → List Byte

/-- What the published standards say of an access unit (R298, R299, R321): an unparseable parameter set or sequence header in it, a valid one in
it, a random-access point, an unsupported tool, a reference to a missing picture, a picture that is decoded but never output, its tiles, the rectangles (plane, left, top, width, height)
of the coding units that an error affects, and the access units that are output after it, in output order. -/
structure AuFacts where
  badParams : Bool
  params    : Bool
  rap       : Bool
  badTool   : Bool
  missing   : Bool
  hidden    : Bool
  tiles     : Nat
  bad       : List (Nat × Nat × Nat × Nat × Nat)
  outputs   : List Nat
deriving DecidableEq, Repr, Inhabited

/-- The facts of access unit j with what the decoder keeps (R298, R299, R321). -/
opaque codecFacts : Nat → List Byte → List Byte → Nat → List Byte → AuFacts

/-- The picture that an access unit decodes to, with what the standard generates for unavailable references (R298, R321). -/
opaque codecReconstruct : Nat → List Byte → List Byte → Nat → List Byte → List Byte

/-- What a decoder keeps after an access unit: the state before, frame j, the unit, its picture as concealed (R321). -/
opaque codecKeep : Nat → List Byte → List Byte → Nat → List Byte → List Byte → List Byte

/-- The access units that a decoder outputs when no more will come, in output order (R321). -/
opaque codecFlush : Nat → List Byte → List Byte → List Nat

/-- R305: a luma plane of a width and height subsampled n:1 on each axis (log 30). -/
opaque subsample : Nat → Nat → Nat → List Nat → List Nat

/-- R309: how many blocks of a coding row of a tile its budget of cycles refines. -/
opaque earlyStop : Nat → Nat

/-- R318: a sample of a chroma plane made from a monochrome picture, by bit depth. -/
opaque monoChroma : Nat → Nat

end Sys2Proof.Config
end

