-- ==== Sys2Proof/Machine/State.lean ====
section
/-! DEFINITION. The block's state as plain data, the reasons a step can stop, and the state after reset. The object dictionary
(R377 to R398) is the part's register file: every scalar subentry is one entry of `Dict.regs`, every str or blob one of
`Dict.blobs`, each keyed by index × 256 + subindex and listed only while it differs from its default. -/
namespace Sys2Proof.Machine

/-- A byte-addressed memory: address and byte pairs, addresses strictly rising, no entry equal to the byte 0 that an unlisted
address reads as (R470 step 0x07 zeroes allocatable memory, R112 zeroes both halves; log 2 for the rest). -/
abbrev Memory := List Host.Cell

/-- A sparse map keyed by number, keys strictly rising. -/
abbrev NMap (α : Type) := List (Nat × α)

/-- The reasons the machine could stop with a fault. No rule stops the block: errors of the part are effects on the state. -/
inductive Fault where
  /-- Raised by no meaning; kept so that the outcome type is inhabited. Safe. -/
  | none_
deriving DecidableEq, Repr

/-- The reasons a command has no meaning. -/
inductive Refusal where
  /-- Raised by `exec` alone for a row that has no meaning yet. Safe. -/
  | notModelled (mnemonic : String)
deriving DecidableEq, Repr

/-! ### Records authored in packages or written by a host -/

/-- R118: a command record without its opcode byte. `rsvd` is the value of its reserved bits. -/
structure CmdRec where
  func      : Nat := 0
  waitCount : Nat := 0
  sigObj    : Nat := 0
  waitObj   : Nat := 0
  imm       : Nat := 0
  rowLen    : Nat := 0
  idxBase   : Nat := 0
  strOut    : Nat := 0
  strC      : Nat := 0
  strB      : Nat := 0
  strA      : Nat := 0
  locOut    : Nat := 0xF0000000
  locC      : Nat := 0xF0000000
  locB      : Nat := 0xF0000000
  locA      : Nat := 0xF0000000
  k         : Nat := 0
  n         : Nat := 0
  m         : Nat := 0
  tensorId  : Nat := 0
  fmtC      : Nat := 0
  pscale    : Nat := 0
  rnd       : Nat := 0
  fmtOut    : Nat := 0
  fmtB      : Nat := 0
  fmtA      : Nat := 0
  ctl       : Nat := 0
  rsvd      : Nat := 0
deriving DecidableEq, Repr

/-- R147: a stream descriptor; dimension 0 comes first in the three lists. -/
structure Desc where
  ctl       : Nat := 0
  sigObj    : Nat := 0
  holdObj   : Nat := 0
  holdCount : Nat := 0
  elemSize  : Nat := 1
  dstKind   : Nat := 0
  dstRegion : Nat := 0
  dstOff    : Nat := 0
  srcKind   : Nat := 0
  srcRegion : Nat := 0
  srcOff    : Nat := 0
  counts    : List Nat := [1, 1, 1, 1]
  sstr      : List Int := [0, 0, 0, 0]
  dstr      : List Int := [0, 0, 0, 0]
deriving DecidableEq, Repr

/-- R209: a segment record. Locators are 48-bit numbers. -/
structure SegRec where
  opcode    : Nat
  ctl       : Nat := 0
  waitObj   : Nat := 0
  waitCount : Nat := 0
  sigObj    : Nat := 0
  mapShift  : Nat := 0
  mapLo     : Nat := 0
  mapCount  : Nat := 1
  mapSlot   : Nat := 0
  pins      : List Nat := [0xFFFF, 0xFFFF, 0xFFFF, 0xFFFF]
  count     : Nat := 0
  payCap    : Nat := 0
  locRes    : Nat := 0xFF0000000000
  locPay    : Nat := 0xFF0000000000
  locQ      : Nat := 0xFF0000000000
  locY      : Nat := 0xFF0000000000
  locMs     : Nat := 0xFF0000000000
  rsvd      : Nat := 0
deriving DecidableEq, Repr

/-- R410: a collective record; `run` tells the collective runs of a frame program apart. -/
structure CollRec where
  waitCount : Nat := 0
  waitObj   : Nat := 0
  sigObj    : Nat := 0
  ctl       : Nat := 0
  op        : Nat
  fmt       : Nat := 0
  root      : Nat := 0
  tag       : Nat := 0
  count     : Nat := 0
  loc       : Nat := 0
  rsvd      : Nat := 0
  run       : Nat := 0
deriving DecidableEq, Repr

/-- R263: one region declaration; for source 0x01 `sect` is where its weights section begins in the file. -/
structure RegionDecl where
  num    : Nat
  source : Nat
  right  : Nat
  snap   : Nat
  sect   : Nat
  len    : Nat
deriving DecidableEq, Repr

/-- R261: one entry of a cost declaration. -/
structure Cost where
  tile   : Nat := 0
  sym    : Nat := 0
  stack  : Nat := 0
  motion : Nat := 0
deriving DecidableEq, Repr

/-- R293: rate-control parameters. -/
structure RcParams where
  region  : Nat
  lag     : Nat
  bandObj : Nat
  off     : Nat
  sw      : Nat
  refresh : Nat
deriving DecidableEq, Repr

/-- R264: one tile part of a frame program, with its command records read from its section. -/
structure PartPlan where
  idx   : Nat
  place : Nat
  sect  : Nat
  cmds  : List (Nat × CmdRec)
deriving DecidableEq, Repr

/-- What a package declares for one resolution class (R260 to R264, R410). -/
structure ClassInfo where
  cls     : Nat
  cost    : Cost
  regions : List RegionDecl
  parts   : List PartPlan
  segs    : List SegRec
  colls   : List CollRec
  rc      : Option RcParams
deriving DecidableEq, Repr

/-- R219, R224: a table set; `base` is where it lies in its bank (R220). -/
structure TableSet where
  id      : Nat
  version : Nat
  kinds   : List Bool
  slots   : List (List Nat)
  base    : Nat := 0
deriving DecidableEq, Repr

/-- R190, R191: a loaded function table. Weights are as the header gives them; `nodes` are the i32 node values. -/
structure FnTable where
  edition   : Nat
  geometry  : Nat
  reduction : Nat
  symmetry  : Nat
  h         : Int
  p2        : Int
  tailNeg   : Nat
  tailPos   : Nat
  smallX0   : Nat
  smallE    : Int
  kMul      : Nat
  c0        : Int
  c1        : Int
  c2        : Int
  c3        : Int
  limNeg    : Nat
  limPos    : Nat
  scales    : List Int
  kinds     : List Nat
  nodes     : List Int
  digest    : List Byte := []
deriving DecidableEq, Repr

/-- A loaded package (R255 to R266). `copy` is the base of the read-only copy in allocatable memory. -/
structure Pkg where
  id      : Nat
  version : Nat
  kind    : Nat
  mode    : Nat
  nSync   : Nat
  tableId : Nat
  digest  : List Byte
  signer  : Nat
  copy    : Nat
  len     : Nat
  image   : Option (Nat × Nat)
  classes : List ClassInfo
  tables  : List TableSet
  fns     : List (Nat × FnTable)
  lost    : Bool := false
  leaving : Bool := false
deriving DecidableEq, Repr

/-- R365 with R328: a job record. -/
structure JobRec where
  seq       : Nat
  pkgSlot   : Nat
  cls       : Nat
  prio      : Nat
  frames    : Nat
  seed      : Nat
  inAddr    : Nat
  inStride  : Nat
  outAddr   : Nat
  outStride : Nat
  space     : Nat
  outCap    : Nat := 0
  inLen     : Nat := 0
  windowLog : Nat := 0
  level     : Nat := 0
  format    : Nat := 0
  op        : Nat := 0
  rsvd      : Nat := 0
deriving DecidableEq, Repr

/-- R369: the fields of a completion record. -/
structure Completion where
  seq       : Nat
  status    : Nat
  flags     : Nat := 0
  nonStrict : Bool := false
  concealed : Bool := false
  inputLoss : Bool := false
  repeated  : Bool := false
  lagLimit  : Bool := false
  lag       : Nat := 0
  detail    : Nat := 0
  card      : Nat := 0
  length    : Nat := 0
  tick      : Nat := 0
  count     : Nat := 0
deriving DecidableEq, Repr

/-! ### What leaves the part -/

/-- What the block sends out of its pins. -/
inductive Emission where
  | msix (vector : Nat)
  | dtpResponse (origin : Origin) (dest : Nat) (frame : List Byte)
  | hostRead (bytes : List Byte)
  | unsupportedRequest
  | thermtrip
  | rtp (port : Nat) (tag : Option Nat) (dst dscp hops udpPort : Nat) (ptype seq stamp ssrc : Nat) (marker : Bool) (payload : List Byte)
  | echoReply (port : Nat) (tag : Option Nat) (dst ident seq : Nat) (data : List Byte)
  | arpReply (port : Nat) (tag : Option Nat) (dst dstMac mac : Nat)
  | neighbourAdvert (port : Nat) (tag : Option Nat) (dst dstMac mac : Nat)
  | membershipReport (port : Nat) (tag : Option Nat) (alert : Bool) (groups : List (Nat × Nat))
  | groupJoin (port : Nat) (tag : Option Nat) (alert : Bool) (group source : Nat)
  | groupLeave (port : Nat) (tag : Option Nat) (alert : Bool) (group : Nat)
  | palton (link : Nat) (frame : PaltonFrame)
  | paltonControl (link ack credit level : Nat)
  | paltonRetry (link expected : Nat)
  | helloOut (link : Nat) (data : HelloData)
  | mapDown (link root : Nat) (map : List (Nat × Nat))
  | reportUp (link serial stored : Nat)
  | flood (link src : Nat) (upLinks : List (Nat × Nat))
  | fabricMessage (peer flow msg : Nat) (bytes : List Byte)
  | messageAcked (peer flow msg : Nat)
  | tickMessage (link counter rate precedence serial ptp free : Nat)
  | cards (partner : Nat) (records : List CardRecord)
  | configDigest (partner : Nat) (digest : List Byte)
  | haltNotice (partner ctx frame : Nat)
  | groupBlob (peer group : Nat) (blob : List Byte) (modes : Nat)
  | collective (peer group tag frame : Nat) (bytes : List Byte)
  | mirrorOut (peer : Nat) (item : MirrorItem)
  | avsVoltage (die mV : Nat)
  | avsTable (die : Nat) (points : List (Nat × Nat))
deriving DecidableEq, Repr

/-! ### The dictionary, time and control -/

/-- R377: the object dictionary. `inForce` is `regs` as of the last tick boundary (R380: an effect whose rule states no other
moment begins at the next tick boundary). -/
structure Dict where
  regs    : NMap Nat := []
  blobs   : NMap (List Byte) := []
  inForce : NMap Nat := []
deriving DecidableEq, Repr

/-- R38 to R41: one of the three external tick sources. -/
structure TickSource where
  qualified : Bool := false
  since     : Nat := 0
  held30    : Bool := false
  holdover  : Bool := false
deriving DecidableEq, Repr

/-- R33 to R42: the local timebase. `now` counts thirds of a nanosecond of PTP time, in which every period of R33 is whole. -/
structure Timebase where
  now        : Nat := 0
  rate       : Nat := 7
  free       : Nat := 20000
  ptpEver    : Bool := false
  seeded     : Bool := false
  seed       : Nat := 0
  sources    : List TickSource := [{}, {}, {}]
  holdSince  : Option Nat := none
  following  : Option Nat := none
  offers     : List (Nat × Nat × Nat × Nat) := []
deriving DecidableEq, Repr

/-- Where the part is between power and service (R359, R470, R474). -/
inductive Phase where
  | off        -- a supply is missing (R494)
  | reset      -- supplies in range, PERST# asserted (R493 step 9)
  | starting   -- the ROM runs the start steps
  | service
  | failed     -- the start stopped, or a rail was lost (R463, R470)
  | halted     -- every clock stopped (R462, R496)
deriving DecidableEq, Repr

/-- R470: the kinds of start. -/
inductive StartKind where
  | cold | warm
deriving DecidableEq, Repr

/-- R396: one entry of the fault log. -/
structure LogEntry where
  code     : Nat
  severity : Nat
  kind     : Nat
  unit     : Nat
  ctx      : Nat
  sequence : Nat
  detail   : Nat
  tick     : Nat
deriving DecidableEq, Repr

/-- R472: one entry of the start journal. -/
structure JournalEntry where
  step     : Nat
  kind     : Nat
  unit     : Nat
  event    : Nat
  detail   : Nat
  sequence : Nat
  start    : Nat
deriving DecidableEq, Repr

/-- R468: what the test manifest gives this part; `rsvd` is the value of its reserved fields. -/
structure Manifest where
  magic    : Nat := 0x4D4E4654
  format   : Nat := 1
  stepping : Nat := 2
  rsvd     : Nat := 0
  helperHash : List Byte := []
  grade    : Nat := 0
  serial   : Nat := 1
  vendorId : Nat := 0
  mgmtMac  : Nat := 0
  portMacs : List Nat := [0, 0, 0, 0]
  pbase    : Nat := 560
  pfull    : Nat := 2066
  spare    : List Nat := []
  disabled : List Nat := []
  volts    : List (Nat × Nat) := []
  hash     : List Byte := []
  rsaCert  : List Byte := []
  slhCert  : List Byte := []
deriving DecidableEq, Repr

/-- R17, R470: a bridge as the last start trained it: at half width, and the failed lanes in whose place a spare lane stands. -/
structure Bridge where
  half   : Bool := false
  spared : List Nat := []
deriving DecidableEq, Repr

/-- The package controller and the PCI Express function. `resetKind` is the reset that PERST# deassertion ends, as #1200.04 numbers
it; `lossOfW` that the next start must be a power-on; `vstbyOff` that the VSTBY domain was off. `reverted` and `revertAll` are the
bits of #1200.09, `linksOut` the links that start policy disabled, `readmits` the (unit kind, unit) pairs that the next start re-admits,
`statusHeld` the status bits that a takeover keeps showing (R359), `excluded` the (unit kind, unit) pairs that a start excluded (R470),
`retireDue` those whose retirement waits for a cluster that may write flash (R30), `bridges` the bridges as trained (R17), `identity` the
identity keys, `copyA` and `copyB` the two manifest copies in flash (R468), `helper` the identity helper data beside them. -/
structure Control where
  phase      : Phase := .reset
  kind       : StartKind := .cold
  resetKind  : Nat := 0
  lossOfW    : Bool := false
  vstbyOff   : Bool := true
  inCharge   : Option Nat := none
  clusterOk  : List Bool := [true, true]
  missed     : Nat := 0
  takeover   : Bool := false
  statusHeld : Nat := 0
  coreDown   : List Nat := []
  roles      : NMap Nat := []
  roleMoves  : NMap Nat := []
  recovering : Option Nat := none
  recoverQ   : List Nat := []
  msix       : List Nat := []
  reqToken   : Nat := 0
  respToken  : Nat := 0
  response   : List Byte := []
  counterTop : Nat := 0
  d3hot      : Bool := false
  busMaster  : Bool := false
  linkUp     : Bool := true
  tripped    : Option Nat := none
  reverted   : List Nat := []
  revertAll  : Bool := false
  linksOut   : List Nat := []
  readmits   : List (Nat × Nat) := []
  excluded   : List (Nat × Nat) := []
  retireDue  : List (Nat × Nat) := []
  bridges    : NMap Bridge := []
  identity   : Option Nat := none
  custRsa    : Nat := 0
  custExp    : Nat := 0
  manifest   : Manifest := {}
  copyA      : Manifest := {}
  copyB      : Manifest := {}
  helper     : List Byte := []
  log        : List LogEntry := []
  journal    : List JournalEntry := []
deriving DecidableEq, Repr

/-! ### Tiles, sync objects, lanes -/

/-- R110: an accumulator entry that is not empty. An anchored window occupies two adjacent entries, `anch` at the lower and
`high` at the upper; `anchor` is `none` for 0x8000. -/
inductive Acc where
  | exact (sum : Int) (tag count : Nat)
  | anch (window : Int) (tag count : Nat) (trunc : Bool) (anchor : Option Int)
  | high
deriving DecidableEq, Repr

/-- R108, R138: the hand-over register. -/
structure Hand where
  m     : Nat
  n     : Nat
  fmt   : Nat
  codes : List Nat
deriving DecidableEq, Repr

/-- R155, R157: a descriptor on a queue; `order` is the place of its STREAM among the commands of part `idx` of `work`, `hi`
tells which half its kind 0x1 endpoint was bound to, `since` the tick it was enqueued or, after a stop, restored (R161). Once started
it holds the first byte of each device-memory region it was bound to, the stack whose stream engine runs it (R164), and `arrived`,
its place in the order in which transfers were issued (R18, R164). -/
structure QDesc where
  work    : WorkId
  idx     : Nat
  order   : Nat
  queue   : Nat
  desc    : Desc
  hi      : Bool
  since   : Nat := 0
  started : Bool := false
  srcBase : Nat := 0
  dstBase : Nat := 0
  engine  : Option Nat := none
  arrived : Nat := 0
deriving DecidableEq, Repr

/-- R150: one entry of a bound region table. -/
structure Region where
  num    : Nat
  base   : Nat
  len    : Nat
  rw     : Bool
  source : Nat
deriving DecidableEq, Repr

/-- R111: the tile part a tile executes. `todo` is what is left of its command records, `cmds` all of them. -/
structure Part where
  work      : WorkId
  idx       : Nat
  prio      : Nat
  cmds      : List (Nat × CmdRec)
  todo      : List (Nat × CmdRec)
  flags     : Nat := 0
  nonStrict : Bool := false
  waitSince : Option Nat := none
  resumed   : Bool := false
deriving DecidableEq, Repr

/-- R108: one tensor tile. -/
structure Tile where
  part     : Option Part := none
  lo       : Memory := []
  hi       : Memory := []
  workHi   : Bool := false
  acc      : NMap Acc := []
  hand     : Option Hand := none
  digest   : Nat := 0
  queue    : List QDesc := []
  faultAt  : Option Nat := none
  checking : Bool := false
deriving DecidableEq, Repr

/-- R145: a stopped class 3 part in the spill area, with the die that it ran on and resumes on. -/
structure Image where
  work : WorkId
  idx  : Nat
  tile : Tile
  die  : Nat
deriving DecidableEq, Repr

/-- R162, R163: a package's weight window on a die. -/
structure Window where
  die    : Nat
  slot   : Nat
  base   : Nat
  len    : Nat
  filled : Bool
deriving DecidableEq, Repr

/-- R167: a window of sync objects. -/
structure SyncWindow where
  work : WorkId
  base : Nat
  n    : Nat
deriving DecidableEq, Repr

/-- R216 to R218: one entropy-coder lane; `rows` are the resident rows, most recently used first, as bank × 8192 + slot, `last` the
package slot and the pins of the segment it coded last. -/
structure Lane where
  rows     : List Nat := []
  pins     : List Nat := []
  last     : Option (Nat × List Nat) := none
  faultAt  : Option Nat := none
  checking : Bool := false
deriving DecidableEq, Repr

/-- R219, R222: one CDF bank. -/
structure Bank where
  gen  : Nat := 0
  sets : List TableSet := []
deriving DecidableEq, Repr

/-- R222: a change of table sets. `owner` is the package slot it serves, or none for a #5200 command, `asked` the tick in which it
was asked for. -/
structure CdfChange where
  asked  : Nat := 0
  owner  : Option Nat
  add    : List TableSet
  remove : List (Nat × Nat)
deriving DecidableEq, Repr

/-- R222, R223: the CDF store. `shown` says that #5200.0D tells of the pending change: no later command has replaced its status. -/
structure CdfStore where
  active  : Nat := 0
  banks   : List Bank := [{}, {}]
  held    : List Nat := []
  pending : Option CdfChange := none
  shown   : Bool := false
  waiting : List CdfChange := []
deriving DecidableEq, Repr

/-- R193: one function slot; `next` is a pending switch, to a table or to empty, asked for in tick `asked`, `byCmd` that a command asked
for it, `shown` that #5100.25 still tells of it. -/
structure FnSlot where
  cur     : Option FnTable := none
  next    : Option (Option FnTable) := none
  asked   : Nat := 0
  old     : Option FnTable := none
  oldHeld : Bool := false
  version : Nat := 0
  binders : List Nat := []
  byCmd   : Bool := false
  shown   : Bool := false
deriving DecidableEq, Repr

/-- R144, R227, R322, R332: a core or engine that can fault. -/
structure CoreRun where
  faultAt  : Option Nat := none
  checking : Bool := false
deriving DecidableEq, Repr

/-! ### Work, the scorebook, allocations, packages' queue -/

/-- R113: what a tile part reported at its end, and the tile it ran on. -/
structure PartRes where
  idx    : Nat
  status : Nat
  flags  : Nat
  card   : Nat
  tile   : Nat
deriving DecidableEq, Repr

/-- R211: what a segment left, and the lane it ran on (0 for what a codec core or engine did). -/
structure SegRes where
  idx    : Nat
  status : Nat
  card   : Nat
  len    : Nat
  conceal : Bool := false
  lane   : Nat := 0
deriving DecidableEq, Repr

/-- R49, R313: what a running context is charged. Media charges are (unit kind, unit, amount): kind 0 estimator, 1 encode
pipeline, 2 decode core, 3 scaler. `jobs` is the core that each tile job of a block-codec service is assigned to (R304, R315). -/
structure Charge where
  tile  : Nat := 0
  sym   : Nat := 0
  stack : Nat := 0
  media : List (Nat × Nat × Nat) := []
  jobs  : List (Nat × Nat) := []
deriving DecidableEq, Repr

/-- R278, R296: what a picture or frame header says: picture number, start or independent, reference, store, phase. -/
structure PicHeader where
  number : Nat
  start  : Bool
  ref    : Nat
  store  : Nat
  phase  : Nat
deriving DecidableEq, Repr

/-- R302, R310: one coded tile of a picture: the quantisers and bits of its rows, its bytes, and its samples before the filter pass. -/
structure TileOut where
  tile  : Nat
  qs    : List Nat
  bits  : List Nat
  bytes : List Byte
  recon : List Byte
deriving DecidableEq, Repr

/-- Work issued and not yet committed (R43, R52). `note` is a status that the parser decided and that commits (R287, R289),
`alloc` its buffers' allocation, `aim` how many codec tile jobs or engine slices it has, `output` what a codec core or engine
has made of it, `raw` where its input lies that the scaler has not taken yet (R318),
`searched` that the motion vectors it needs stand in its regions (R306, R307), `tilesOut` its coded tiles, `buffer` the F of R291 that
latency-aware rate control read at its first tile (R295, R310), `head` its picture header once parsed (R290), `order` its place in the
output order of a decode (R321), `newSeq` that it is the first picture issued on a new package (R277), `stamp` the RTP timestamp of its input and `samples` the sample count of an OLA frame (R338). Of a class 3 work, `slice` is what the
round in progress charges and `left` what of its declared cost no round has charged yet (R52, R55). `segLanes` are the segments that a
lane fault has moved to another lane (R227), and the tile jobs that a core fault has moved to another core (R322). -/
structure Work where
  id        : WorkId
  slot      : Nat
  cls       : Nat
  prio      : Nat
  seed      : Nat
  issued    : Nat
  lag       : Nat := 0
  die       : Nat := 0
  bank      : Nat := 0
  regions   : List Region := []
  inBase    : Nat := 0
  inLen     : Nat := 0
  parts     : List PartRes := []
  segs      : List SegRes := []
  colls     : List (Nat × Nat) := []
  tiles     : List (Nat × Nat) := []
  units     : List (Nat × Nat × Nat) := []
  delivered : List (Nat × Nat) := []
  oldSlots  : List Nat := []
  steps     : List Nat := []
  flags     : Nat := 0
  nonStrict : Bool := false
  started   : Bool := false
  stopped   : Bool := false
  replay    : Bool := false
  oldCard   : Option Nat := none
  result    : Option Nat := none
  detail    : Nat := 0
  outLen    : Nat := 0
  valid     : Nat := 0
  inputLoss : Bool := false
  repeated  : Bool := false
  concealed : Bool := false
  parsed    : Bool := false
  startPic  : Bool := false
  note      : Nat := 0
  alloc     : Option Nat := none
  aim       : Nat := 0
  output    : List Byte := []
  raw       : Option (Nat × Nat) := none
  stamp     : Nat := 0
  samples   : Nat := 0
  searched  : Bool := true
  slice     : Charge := {}
  left      : Charge := {}
  segLanes  : List (Nat × Nat) := []
  tilesOut  : List TileOut := []
  buffer    : Option Int := none
  head      : Option PicHeader := none
  order     : Option Nat := none
  newSeq    : Bool := false
deriving DecidableEq, Repr

/-- R428, R429: a job's scorebook entry. `cut` says that no more of its frames are issued (R52), `done` counts its frames that have ended,
`staged` holds by frame the allocation, address and length of each output, `output` an engine's bytes, `units` the tiles and lanes it ran
on (R241). -/
structure JobEntry where
  ring     : Nat
  pos      : Nat
  job      : JobRec
  state    : Nat
  accepted : Nat
  cut      : Bool := false
  done     : Nat := 0
  issued   : Nat := 0
  staged   : List (Nat × Nat × Nat) := []
  output   : List Byte := []
  oldCard  : Option Nat := none
  units    : List (Nat × Nat) := []
  image    : Completion
deriving DecidableEq, Repr

/-- R428, R430: a frame's scorebook entry; `outBase`, `outLen` are its committed output in device memory. `waiting` lists what
still holds it: (flow, receiver) pairs, and (0xFFFF, 0) until the next tick, (0xFFFE, ring) for a report, (0xFFFD, 0) for the
umpire's gate, (0xFFFC, 0) for the mirror, (0xFFFB, 0) for the umpire's comparison with the gate clear. `kind`: bit 0 begins a refresh
sweep, bit 1 ends one, bit 2 start picture, bit 3 sequence header. `seqs` is the first RTP sequence number of its packets on a flow, `packed` the flows it is queued on (R346, R437),
`units` the tiles and lanes that it ran on (R241). -/
structure FrameEntry where
  ctx     : Nat
  j       : Nat
  state   : Nat
  card    : Nat := 0
  status  : Nat := 0
  lag     : Nat := 0
  oflags  : Nat := 0
  flags   : Nat := 0
  outBase : Nat := 0
  outLen  : Nat := 0
  tick    : Nat := 0
  waiting : List (Nat × Nat) := []
  alloc   : Option Nat := none
  kind    : Nat := 0
  stamp   : Nat := 0
  seqs    : List (Nat × Nat) := []
  packed  : List Nat := []
  oldCard : Option Nat := none
  units   : List (Nat × Nat) := []
  place   : Nat := 0
deriving DecidableEq, Repr

/-- R446: an allocation of device memory; `owner` 0 is a host allocation, anything else firmware's. `die` is the compute die on whose
three stacks it lies (R24, R31, R166). -/
structure Alloc where
  base  : Nat
  size  : Nat
  owner : Nat := 0
  freed : Bool := false
  die   : Nat := 0
deriving DecidableEq, Repr

/-- R266, R484: an entry of the package controller's single queue. -/
inductive QueueItem where
  | load (slot address length : Nat)
  | unload (slot : Nat)
  | key (origin : Origin) (address length : Nat)
deriving DecidableEq, Repr

/-! ### Stream contexts, media, flows -/

/-- R45, R343: an input frame that is arriving or waits for issue. `first` is when its first packet came, in thirds of a nanosecond,
`key` what its packets share: their timestamp, or the tick of their audio samples; a frame that `waits` is complete, its bits fixed, and
waits for stream-store space before it is accepted (R343, R351). -/
structure InFrame where
  j        : Nat
  bytes    : List Byte
  complete : Bool
  tick     : Nat := 0
  first    : Nat := 0
  stamp    : Nat := 0
  key      : Nat := 0
  loss     : Bool := false
  repeated : Bool := false
  waits    : Bool := false
deriving DecidableEq, Repr

/-- R291, R310: the rate-control state of a stream. `bits` and `q` are the bands of the picture in progress. -/
structure RcState where
  full     : Int := 0
  prevErr  : Int := 0
  qprev    : List Nat := []
  prevbits : List Nat := []
  bits     : List Nat := []
  q        : List Nat := []
deriving DecidableEq, Repr

/-- R277: what a decoder keeps of the sequence header in force. -/
structure SeqHeader where
  profile : Nat
  chroma  : Nat
  depth   : Nat
  width   : Nat
  height  : Nat
  tableId : Nat
  version : Nat
  refresh : Nat
  restricted : Bool
  motion  : Nat := 0
  rateN   : Nat := 0
  rateD   : Nat := 0
deriving DecidableEq, Repr

/-- R342: one packet held until its frame is complete; `at_` is when it came, in thirds of a
nanosecond; for audio `stamp` is the number of its first sample. -/
structure HeldPacket where
  key    : Nat
  seq    : Nat
  stamp  : Nat
  marker : Bool
  at_    : Nat
  data   : List Byte
deriving DecidableEq, Repr

/-- A stream context beside its dictionary record (R268, R270, R271, R281, R288). `lastSeq` is the highest sequence number of the frames
that take no more packets, `doneKeys` their latest keys, `laterAt` when a discarded later frame's first packet came (R342 to R344).
`failedCap` is the capacity with which a timeout failed (R391). `prevPic`, `prevPic2` and `ltInputs` are the input pictures of an OLV
encode (R281, R288), or the reference pictures of a block encode (R308, R312); `vecRefs` tells which of two references each vector of an
archive search is against (R308), `budget` how many more blocks of the coding row in progress each tile refines (R309). Of a block decode,
`mute` is the status with which no output is given until a random-access point, `noParams` that a valid parameter set must come first (R299, R321), `lastOut` the most recent output picture,
`outSeq` the next place in output order. `snapCard` is the scorecard of
its last snapshot (R239). -/
structure Ctx where
  startTick  : Nat := 0
  firstJ     : Nat := 0
  cls        : Nat := 0
  stopDue    : Bool := false
  fromSnap   : Bool := false
  switchTo   : Option Nat := none
  switchAsked : Nat := 0
  charge     : Charge := {}
  release    : Bool := false
  inputs     : List InFrame := []
  nextIn     : Nat := 0
  lastLate   : Bool := false
  stateBufs  : List (Nat × Nat × Nat) := []
  rc         : RcState := {}
  ltSlots    : List (Nat × Nat) := []
  requests   : List (Nat × Nat) := []
  lastPic    : Option Nat := none
  joined     : Bool := false
  seqHeader  : Option SeqHeader := none
  packets    : List HeldPacket := []
  highSeq    : Option Nat := none
  lostSeqs   : List Nat := []
  lastSeq    : Option Nat := none
  doneKeys   : List Nat := []
  laterAt    : Option Nat := none
  failedCap  : Option Nat := none
  vecs       : NMap (List (Int × Int)) := []
  vecRefs    : NMap (List Nat) := []
  budget     : List Nat := []
  prevVecs   : List (Int × Int) := []
  prevPic    : List Byte := []
  prevPic2   : List Byte := []
  ltInputs   : NMap (List Byte) := []
  prevInput  : List Byte := []
  prevStamp  : Nat := 0
  lastFrom   : Option Nat := none
  codec      : List Byte := []
  mute       : Option Nat := none
  noParams   : Bool := false
  lastOut    : List Byte := []
  outSeq     : Nat := 0
  seqDue     : Bool := false
  sweeping   : Bool := false
  snap       : List Byte := []
  snapCard   : Nat := 0
  emitted    : Nat := 0
deriving DecidableEq, Repr

/-- R346: one packet waiting for its send time. -/
structure OutPacket where
  ctx     : Nat
  j       : Nat
  recv    : Nat
  port    : Nat
  flow    : Nat
  time    : Nat
  dst     : Nat
  dscp    : Nat
  hops    : Nat
  udpPort : Nat
  ptype   : Nat
  seq     : Nat
  stamp   : Nat
  marker  : Bool
  payload : List Byte
deriving DecidableEq, Repr

/-- R348: an output held for an acknowledged receiver; `msg` is its message or ring position once it is sent. -/
structure HeldOutput where
  receiver : Nat
  ctx      : Nat
  j        : Nat
  round    : Nat
  sent     : Bool := false
  msg      : Nat := 0
deriving DecidableEq, Repr

/-- R345 to R349: an egress flow beside its dictionary record. `recs` are the receivers in force (R347), `active` those that take
outputs, `ready` those that resume with the next sweep. -/
structure Flow where
  nextSeq  : Nat := 0
  held     : List HeldOutput := []
  ready    : List Nat := []
  recs     : NMap (List Byte) := []
  active   : List Nat := []
deriving DecidableEq, Repr

/-- R373: a stream ring's run, positions taken or written, and the (position, context, frame) each holds. -/
structure StreamRing where
  index : Nat := 0
  acked : Nat := 0
  put   : List (Nat × Nat × Nat) := []
deriving DecidableEq, Repr

/-- R364: a ring pair's run; `shown` is the device index last written. -/
structure RingRun where
  accepted : Nat := 0
  posted   : Nat := 0
  consumed : Nat := 0
  shown    : Nat := 0
deriving DecidableEq, Repr

/-- R350 to R352: `firmware` is what firmware's own engine work has been charged this round (R330); the media services' packets, run-ahead that was spilled (pool, context, bytes) and waiters (context, pool); pools 0
and 1 are the staging of MD0 and MD1, 2 the stream store. -/
structure Media where
  egress  : List OutPacket := []
  spilled : List (Nat × Nat × Nat) := []
  waiters : List (Nat × Nat) := []
  firmware : List Nat := []
  filters : NMap (List Int) := []
  filterNext : Option (Nat × Option (List Int)) := none
  filterAsked : Nat := 0
  filterOld  : NMap (List Int) := []
  filterAt   : NMap Nat := []
deriving DecidableEq, Repr

/-! ### The fabric, umpire mode, power -/

/-- R400 to R403, R406: one Palton link. `queue` are data frames that wait to leave, `turn` the frames that left while one of level 4
waited. -/
structure Link where
  sendSeq   : Nat := 0
  expect    : Nat := 0
  replay    : List (Nat × PaltonFrame) := []
  queue     : List PaltonFrame := []
  turn      : Nat := 0
  discard   : Bool := false
  retrySeq  : Nat := 0
  retries   : Nat := 0
  attempts  : List Nat := []
  credits   : NMap Nat := []
  echo      : Nat := 0
  echoAt    : Nat := 0
  delays    : List Nat := []
  reduced   : Bool := false
  rate      : Nat := 0
  freeRate  : Nat := 0
  root      : Nat := 0
  hops      : Nat := 0
  prec      : Nat := 4
deriving DecidableEq, Repr

/-- R408: the receiving side of a flow: partial message, and the last complete one. -/
structure FlowIn where
  src  : Nat
  flow : Nat
  done : Option Nat := none
  msg  : Nat := 0
  next : Nat := 0
  data : List Byte := []
deriving DecidableEq, Repr

/-- R408: a message kept at its source until acknowledged. -/
structure KeptMsg where
  peer : Nat
  flow : Nat
  msg  : Nat
  data : List Byte
deriving DecidableEq, Repr

/-- R407: a pinned flow. -/
structure Pin where
  src  : Nat
  dst  : Nat
  flow : Nat
  link : Nat
  used : Nat
deriving DecidableEq, Repr

/-- R404 to R420: the fabric beside its dictionary records. `results` are the kept results of collectives: work, record, bytes, status, flags
(R85, R412). `lost` are the peers lost now, `gone` those lost since they last sent a span
group's blob. `flooded` is the list of up links that this device flooded last (R406). -/
structure Fabric where
  links     : NMap Link := []
  parent    : Option Nat := none
  hops      : Nat := 0
  quiet     : Nat := 0
  map       : List (Nat × Nat) := []
  graph     : NMap (List (Nat × Nat)) := []
  flooded   : List (Nat × Nat) := []
  pins      : List Pin := []
  flowsIn   : List FlowIn := []
  kept      : List KeptMsg := []
  nextMsg   : List (Nat × Nat × Nat) := []
  missing   : NMap Nat := []
  lost      : List Nat := []
  gone      : List Nat := []
  blobs     : List (Nat × Nat × List Byte × Nat) := []
  results   : List (WorkId × Nat × List Byte × Nat × Nat) := []
  barrier   : NMap Nat := []
  copyMsgs  : List Nat := []
  restored  : List MirrorItem := []
  mirror    : List (Nat × MirrorItem) := []
  mirrorGap : Nat := 0
  resync    : Bool := false
  toMirror  : List MirrorItem := []
deriving DecidableEq, Repr

/-- R249 to R252: umpire mode beside #5020. `fresh` are the records of the round in progress, `localR` those that wait for partners' records,
with their commit ticks, `remote` the partners', `seen` the (partner, context, frame) of the pairs compared, `late` those whose lag is
counted, `out` the partners that left, `held` compared outputs that a halt holds, `status` the status of the last enable or pairing. -/
structure Umpire where
  digests : List (Nat × List Byte) := []
  fresh   : List CardRecord := []
  localR  : List (CardRecord × Nat) := []
  remote  : List (Nat × CardRecord) := []
  seen    : List (Nat × Nat × Nat) := []
  late    : List (Nat × Nat) := []
  status  : Nat := 0
  haltDue : Bool := false
  out     : List Nat := []
  held    : List (Nat × Nat) := []
deriving DecidableEq, Repr

/-- R451 to R463: one die's power loop (media dies are 8 and 9). `current`, `temp`, `stack`, `broker` and `warned` are the highest points
that each reason allows; the times are in thirds of a nanosecond. `scale` is in millionths. -/
structure DiePower where
  point     : Nat := 12
  current   : Nat := 15
  temp      : Nat := 15
  stack     : Nat := 15
  broker    : Nat := 15
  warned    : Nat := 15
  breachAt  : Option Nat := none
  upAt      : Nat := 0
  tempAt    : Option Nat := none
  coolAt    : Option Nat := none
  stackAt   : Option Nat := none
  sCoolAt   : Option Nat := none
  estimate  : Nat := 0
  sumEst    : Nat := 0
  nEst      : Nat := 0
  sumAvs    : Nat := 0
  nAvs      : Nat := 0
  scale     : Nat := 1000000
  hotTenths : Int := 0
deriving DecidableEq, Repr

/-- R451 to R464: the package's power loops. `rails` are the latest readings (mV, mA), `droopAt` the stretched dies and since when,
`warnings` the rails whose warning holds and when it was last reported, `cleared` the reasons that stopped holding and when, `parts` what
their counters have beyond whole microseconds, `at_` the time up to which they are counted. -/
structure Power where
  dies      : NMap DiePower := []
  mediaTill : Nat := 0
  mediaHot  : List Nat := []
  droopAt   : NMap Nat := []
  refresh2x : List Nat := []
  warnings  : NMap Nat := []
  rails     : NMap (Nat × Nat) := []
  cleared   : NMap Nat := []
  parts     : NMap Nat := []
  at_       : Nat := 0
  sumPower  : Nat := 0
  nPower    : Nat := 0
deriving DecidableEq, Repr

/-- R438 to R441: memory protection beside #4000 and #4001 …. -/
structure Protect where
  rowErrors : List (Nat × Nat × Nat) := []
  spared    : List (Nat × Nat) := []
  migrating : Option Nat := none
  migratedWhy : Nat := 0
  rebuild   : Option (Nat × Nat) := none
deriving DecidableEq, Repr

/-! ### The whole block -/

/-- The block's state (INVENTORY.md, '## State'). -/
structure State where
  pending  : List Instr := []
  dict     : Dict := {}
  mem      : Memory := []
  host     : Memory := []
  clk      : Timebase := {}
  ctl      : Control := {}
  tiles    : NMap Tile := []
  flags    : NMap Nat := []
  libero   : NMap Nat := []
  images   : List Image := []
  cache    : NMap Memory := []
  windows  : List Window := []
  sync     : NMap Nat := []
  syncWins : List SyncWindow := []
  lanes    : NMap Lane := []
  cdf      : CdfStore := {}
  fns      : NMap FnSlot := []
  pkgs     : NMap Pkg := []
  queue    : List QueueItem := []
  works    : List Work := []
  jobs     : List JobEntry := []
  frames   : List FrameEntry := []
  allocs   : List Alloc := []
  ctxs     : NMap Ctx := []
  rings    : NMap RingRun := []
  srings   : NMap StreamRing := []
  flows    : NMap Flow := []
  media    : Media := {}
  cores    : NMap CoreRun := []
  fabric   : Fabric := {}
  umpire   : Umpire := {}
  power    : Power := {}
  protect  : Protect := {}
  carried  : Bool := false
  traceAt  : Nat := 0
  out      : List Emission := []
  free     : Nat := 0
deriving DecidableEq, Repr

/-- SHA-384 of no bytes (FIPS 180-4). -/
def State.emptyHash : List Byte :=
  [56, 176, 96, 167, 81, 172, 150, 56, 76, 217, 50, 126, 177, 177, 227, 106, 33, 253, 183, 17, 20, 190, 7, 67,
   76, 12, 199, 191, 99, 246, 225, 218, 39, 78, 222, 191, 231, 111, 101, 251, 213, 26, 210, 241, 72, 152, 185, 91]

/-- The manifest of the part at reset: grade H, tiles 44 … 47 of each compute die spare, and the typical voltages of R453
(DESIGN CHOICE, log 3: R3 leaves these to each part's manifest). -/
def State.resetManifest : Manifest :=
  { helperHash := State.emptyHash
    spare := (List.range 8).flatMap fun d => [48 * d + 44, 48 * d + 45, 48 * d + 46, 48 * d + 47]
    volts := (List.range 8).flatMap fun _ =>
      [(350, 600), (400, 610), (450, 620), (500, 630), (550, 640), (600, 650), (650, 660), (700, 670),
       (750, 680), (800, 690), (900, 710), (1000, 730), (1050, 750), (1100, 770), (1200, 820), (1250, 850)] }

/-- The block right after reset: supplies applied for the first time, PERST# still asserted (R493 step 9), every dictionary
subentry at its default, every memory empty, no command waiting. -/
def State.reset : State :=
  { ctl := { manifest := State.resetManifest, copyA := State.resetManifest, copyB := State.resetManifest } }

end Sys2Proof.Machine
end

