-- ==== Sys2Proof/Machine/Bits.lean ====
section
/-! DEFINITION. Byte strings and their numbers, sparse maps by number, and the byte-addressed memory (R8). -/
namespace Sys2Proof.Machine
open Sys2Proof

/-! ### Numbers and byte strings -/

/-- The `k` low bytes of `n`, least significant first. -/
def leBytes : Nat → Nat → List Byte
  | 0, _ => []
  | k + 1, n => BitVec.ofNat 8 n :: leBytes k (n / 256)

/-- The number a little-endian byte string spells. -/
def leNat : List Byte → Nat
  | [] => 0
  | b :: r => b.toNat + 256 * leNat r

/-- The `k` low bytes of `n`, most significant first (network byte order). -/
def beBytes (k n : Nat) : List Byte := (leBytes k n).reverse

/-- The number a big-endian byte string spells. -/
def beNat (bs : List Byte) : Nat := leNat bs.reverse

/-- `n` bytes of `bs` from offset `off`; shorter when `bs` ends first. -/
def sliceAt (bs : List Byte) (off n : Nat) : List Byte := (bs.drop off).take n

/-- The little-endian number in `n` bytes at offset `off`. -/
def numAt (bs : List Byte) (off n : Nat) : Nat := leNat (sliceAt bs off n)

/-- Bits `hi … lo` of `n`. -/
def bitsOf (n hi lo : Nat) : Nat := n / 2 ^ lo % 2 ^ (hi + 1 - lo)

/-- `n` with bit `i` set, and with bit `i` clear. -/
def setBitAt (n i : Nat) : Nat := if n.testBit i then n else n + 2 ^ i
def clearBitAt (n i : Nat) : Nat := if n.testBit i then n - 2 ^ i else n

/-- Zero padding of `bs` to `n` bytes. -/
def padTo (n : Nat) (bs : List Byte) : List Byte := bs ++ List.replicate (n - bs.length) 0

/-- `n` rounded up to a multiple of `m`. -/
def alignUp (m n : Nat) : Nat := (n + m - 1) / m * m

/-- ceil(a / b). -/
def ceilDiv (a b : Nat) : Nat := (a + b - 1) / b

/-- The 64-bit two's complement code of `z`, and the integer a 64-bit code spells. -/
def i64Code (z : Int) : Nat := codeOf 64 z
def i64Of (n : Nat) : Int := signedOf 64 n

/-- The smallest of a list of numbers, `d` for the empty list. -/
def minOf (d : Nat) (l : List Nat) : Nat := match l with
  | [] => d
  | x :: r => r.foldl Nat.min x

/-- The number of set bits among the `w` low bits of `n`. -/
def popCount (w n : Nat) : Nat := ((List.range w).filter n.testBit).length

/-- The list with position `i` replaced. -/
def setAt {α : Type} (l : List α) (i : Nat) (a : α) : List α := l.set i a

/-! ### Sparse maps -/

/-- The entry of key `k`. -/
def nget {α : Type} : NMap α → Nat → Option α
  | [], _ => none
  | (x, a) :: r, k => if x = k then some a else nget r k

/-- The entry of key `k`, `d` where there is none. -/
def ngetD {α : Type} (m : NMap α) (k : Nat) (d : α) : α := (nget m k).getD d

/-- The map with `a` at key `k`, keys kept rising. -/
def nset {α : Type} : NMap α → Nat → α → NMap α
  | [], k, a => [(k, a)]
  | (x, b) :: r, k, a => if k < x then (k, a) :: (x, b) :: r else if k = x then (k, a) :: r else (x, b) :: nset r k a

/-- The map without key `k`. -/
def ndel {α : Type} (m : NMap α) (k : Nat) : NMap α := m.filter fun e => e.1 != k

/-! ### Memory -/

/-- The byte at address `a`: 0 where nothing is listed (log 2). -/
def Memory.get : Memory → Nat → Byte
  | [], _ => 0
  | (x, b) :: r, a => if x = a then b else Memory.get r a

/-- The memory with byte `b` at address `a`, in canonical form. -/
def Memory.set : Memory → Nat → Byte → Memory
  | [], a, b => if b = 0 then [] else [(a, b)]
  | (x, c) :: r, a, b =>
    if a < x then (if b = 0 then (x, c) :: r else (a, b) :: (x, c) :: r)
    else if a = x then (if b = 0 then r else (a, b) :: r)
    else (x, c) :: Memory.set r a b

/-- The canonical form: addresses strictly rising, no listed byte 0. -/
def Memory.wf (m : Memory) : Bool :=
  match m with
  | [] => true
  | (a, b) :: r => (b != 0) && r.all (fun c => decide (a < c.1)) && Memory.wf r

/-- `n` bytes from address `a`. -/
def Memory.read (m : Memory) (a : Nat) : Nat → List Byte
  | 0 => []
  | n + 1 => m.get a :: Memory.read m (a + 1) n

/-- The memory after the bytes are written from address `a` upward. -/
def Memory.write (m : Memory) (a : Nat) : List Byte → Memory
  | [] => m
  | b :: r => Memory.write (m.set a b) (a + 1) r

/-- The memory with `n` bytes from address `a` at 0. -/
def Memory.zero (m : Memory) (a n : Nat) : Memory := m.filter fun c => !(decide (a ≤ c.1) && decide (c.1 < a + n))

/-- The little-endian number in the `n` bytes at `a`. -/
def Memory.num (m : Memory) (a n : Nat) : Nat := leNat (m.read a n)

end Sys2Proof.Machine
end

