-- ==== Sys2Proof/Machine/Crypto.lean ====
section
/-! DEFINITION. The published algorithms that R258, R481 and R483 name: SHA-384 and SHA-512 (FIPS 180-4), HMAC (RFC 2104), RSASSA-PSS
verification (RFC 8017), SLH-DSA verification (FIPS 205) and CRC-32C. Written from the published standards (PRESUMED, log 10). -/
namespace Sys2Proof.Machine
open Sys2Proof

/-- The primes below 410. -/
def primes80 : List Nat :=
  ((List.range 410).drop 2).filter fun n => ((List.range n).drop 2).all fun d => n % d != 0

/-- Newton's integer cube root: the greatest r with r³ ≤ n, by bisection on bits. -/
def icbrt (n : Nat) : Nat :=
  (List.range 80).foldl (fun r i =>
    let b := r + 2 ^ (79 - i)
    if b * b * b ≤ n then b else r) 0

/-- The greatest r with r² ≤ n, for r below 2^80. -/
def isqrt80 (n : Nat) : Nat :=
  (List.range 80).foldl (fun r i =>
    let b := r + 2 ^ (79 - i)
    if b * b ≤ n then b else r) 0

/-- The 80 round constants of SHA-512: fractions of cube roots of primes. -/
def shaK : List Nat := primes80.map fun p => wrap64 (icbrt (p * 2 ^ 192))

/-- The initial hash value of SHA-384: fractions of square roots of the 9th to the 16th prime. -/
def sha384Init : List Nat := ((primes80.drop 8).take 8).map fun p => wrap64 (isqrt80 (p * 2 ^ 128))

/-- Rotation of a 64-bit word to the right. -/
def rotr64 (x n : Nat) : Nat := x / 2 ^ n ||| wrap64 (x * 2 ^ (64 - n))

/-- One word of the message schedule, kept newest first. -/
def shaExpand (w : List Nat) : List Nat :=
  let a := w.getD 14 0
  let b := w.getD 1 0
  let s0 := rotr64 a 1 ^^^ rotr64 a 8 ^^^ a / 2 ^ 7
  let s1 := rotr64 b 19 ^^^ rotr64 b 61 ^^^ b / 2 ^ 6
  wrap64 (w.getD 15 0 + s0 + w.getD 6 0 + s1) :: w

/-- One round on the eight working variables. -/
def shaRound (v : List Nat) (kw : Nat × Nat) : List Nat :=
  match v with
  | [a, b, c, d, e, f, g, h] =>
    let s1 := rotr64 e 14 ^^^ rotr64 e 18 ^^^ rotr64 e 41
    let ch := (e &&& f) ^^^ ((2 ^ 64 - 1 - e) &&& g)
    let t1 := h + s1 + ch + kw.1 + kw.2
    let s0 := rotr64 a 28 ^^^ rotr64 a 34 ^^^ rotr64 a 39
    let mj := (a &&& b) ^^^ (a &&& c) ^^^ (b &&& c)
    [wrap64 (t1 + s0 + mj), a, b, c, wrap64 (d + t1), e, f, g]
  | _ => v

/-- One 128-byte block. -/
def shaBlock (h : List Nat) (block : List Byte) : List Nat :=
  let w0 := ((List.range 16).map fun i => beNat (sliceAt block (8 * i) 8)).reverse
  let w := ((List.range 64).foldl (fun w _ => shaExpand w) w0).reverse
  (h.zip ((shaK.zip w).foldl shaRound h)).map fun p => wrap64 (p.1 + p.2)

/-- SHA-384 of a byte string. -/
def sha384 (m : List Byte) : List Byte :=
  let z := (128 - (m.length + 17) % 128) % 128
  let p := m ++ [0x80] ++ List.replicate z 0 ++ beBytes 16 (8 * m.length)
  let h := (List.range (p.length / 128)).foldl (fun h i => shaBlock h (sliceAt p (128 * i) 128)) sha384Init
  (h.take 6).flatMap fun x => beBytes 8 x

/-- HMAC-SHA-384. -/
def hmac384 (key m : List Byte) : List Byte :=
  let k := padTo 128 (if key.length > 128 then sha384 key else key)
  sha384 ((k.map (· ^^^ 0x5C)) ++ sha384 ((k.map (· ^^^ 0x36)) ++ m))

/-! ### SHA-256 and HMAC-SHA-256 (R385; log 10) -/

/-- The round constants and the initial state: the 32 high bits of SHA-512's and of the square roots of the first 8 primes. -/
def sha256K : List Nat := (shaK.take 64).map (· / 2 ^ 32)
def sha256Init : List Nat := (primes80.take 8).map fun p => isqrt80 (p * 2 ^ 128) % 2 ^ 64 / 2 ^ 32

def rotr32 (x n : Nat) : Nat := x / 2 ^ n ||| wrap32 (x * 2 ^ (32 - n))

/-- The 64 words of a block's message schedule. -/
def sha256Expand (w : List Nat) : List Nat :=
  (List.range 48).foldl (fun w i =>
    let a := w.getD (i + 1) 0
    let b := w.getD (i + 14) 0
    let s0 := rotr32 a 7 ^^^ rotr32 a 18 ^^^ a / 8
    let s1 := rotr32 b 17 ^^^ rotr32 b 19 ^^^ b / 1024
    w ++ [wrap32 (w.getD i 0 + s0 + w.getD (i + 9) 0 + s1)]) w

/-- One round on the eight working variables. -/
def sha256Round (v : List Nat) (kw : Nat × Nat) : List Nat :=
  match v with
  | [a, b, c, d, e, f, g, h] =>
    let t1 := h + (rotr32 e 6 ^^^ rotr32 e 11 ^^^ rotr32 e 25) + ((e &&& f) ^^^ ((0xFFFFFFFF - e) &&& g)) + kw.1 + kw.2
    let t2 := (rotr32 a 2 ^^^ rotr32 a 13 ^^^ rotr32 a 22) + ((a &&& b) ^^^ (a &&& c) ^^^ (b &&& c))
    [wrap32 (t1 + t2), a, b, c, wrap32 (d + t1), e, f, g]
  | v => v

/-- One block of 64 bytes. -/
def sha256Block (h : List Nat) (block : List Byte) : List Nat :=
  let w := sha256Expand ((List.range 16).map fun i => beNat (sliceAt block (4 * i) 4))
  let v := (sha256K.zip w).foldl sha256Round h
  (h.zip v).map fun p => wrap32 (p.1 + p.2)

/-- SHA-256 of a byte string. -/
def sha256 (m : List Byte) : List Byte :=
  let z := (64 - (m.length + 9) % 64) % 64
  let p := m ++ [0x80] ++ List.replicate z 0 ++ beBytes 8 (8 * m.length)
  ((List.range (p.length / 64)).foldl (fun h i => sha256Block h (sliceAt p (64 * i) 64)) sha256Init).flatMap fun x => beBytes 4 x

/-- HMAC-SHA-256. -/
def hmac256 (key m : List Byte) : List Byte :=
  let k := padTo 64 (if key.length > 64 then sha256 key else key)
  sha256 ((k.map (· ^^^ 0x5C)) ++ sha256 ((k.map (· ^^^ 0x36)) ++ m))

/-- a^e mod n by squaring, over the `bits` low bits of e. -/
def powMod (a e n : Nat) : Nat → Nat
  | 0 => 1 % n
  | bits + 1 =>
    let r := powMod a e n bits
    -- the bit handled here is the one below those already used
    let i := bits
    if e.testBit i then r * powTwo a i % n else r
where
  /-- a^(2^i) mod n. -/
  powTwo (a : Nat) : Nat → Nat
    | 0 => a % n
    | i + 1 => let h := powTwo a i; h * h % n

/-- MGF1 with SHA-384. -/
def mgf1 (seed : List Byte) (n : Nat) : List Byte :=
  ((List.range (ceilDiv n 48)).flatMap fun i => sha384 (seed ++ beBytes 4 i)).take n

/-- RSASSA-PSS verification with SHA-384, MGF1 and a 48-byte salt, modulus and signature octet strings of 384 bytes. -/
def rsaPssVerify (modulus : List Byte) (e : Nat) (msg sig : List Byte) : Bool :=
  let n := beNat modulus
  let s := beNat sig
  if n = 0 ∨ s ≥ n then false
  else
    let bits := Nat.log2 n
    let em := beBytes (ceilDiv bits 8) (powMod s e n 17)  -- 65,537 has 17 bits
    let k := em.length
    if k < 98 ∨ em.getLast? ≠ some 0xBC then false
    else
      let db := em.take (k - 49)
      let h := sliceAt em (k - 49) 48
      let spare := 8 * k - bits
      let x := (db.zip (mgf1 h (k - 49))).map fun p => p.1 ^^^ p.2
      let x := match x with
        | b :: r => BitVec.ofNat 8 (b.toNat % 2 ^ (8 - spare)) :: r
        | [] => []
      (db.headD 0).toNat / 2 ^ (8 - spare) == 0
        && x.take (k - 98) == List.replicate (k - 98) 0 && x.getD (k - 98) 0 == 1
        && sha384 (List.replicate 8 0 ++ sha384 msg ++ x.drop (k - 97)) == h

/-! ### SLH-DSA-SHA2-192s verification (FIPS 205; R258, R483; log 10) -/

/-- SHA-512 of a byte string, and its initial hash value. -/
def sha512Init : List Nat := (primes80.take 8).map fun p => wrap64 (isqrt80 (p * 2 ^ 128))
def sha512 (m : List Byte) : List Byte :=
  let z := (128 - (m.length + 17) % 128) % 128
  let p := m ++ [0x80] ++ List.replicate z 0 ++ beBytes 16 (8 * m.length)
  ((List.range (p.length / 128)).foldl (fun h i => shaBlock h (sliceAt p (128 * i) 128)) sha512Init).flatMap fun x => beBytes 8 x

/-- MGF1 with SHA-512. -/
def mgf1Sha512 (seed : List Byte) (n : Nat) : List Byte :=
  ((List.range (ceilDiv n 64)).flatMap fun i => sha512 (seed ++ beBytes 4 i)).take n

/-- Where in the structure a hash is taken, in its compressed form of 22 bytes: layer, tree, type and three words. -/
def slhPlace (layer tree type a b c : Nat) : List Byte :=
  beBytes 1 layer ++ beBytes 8 tree ++ beBytes 1 type ++ beBytes 4 a ++ beBytes 4 b ++ beBytes 4 c

/-- The one-block hash and the hash of several blocks, both cut to 24 bytes. -/
def slhF (seed place m : List Byte) : List Byte := (sha256 (padTo 64 seed ++ place ++ m)).take 24
def slhH (seed place m : List Byte) : List Byte := (sha512 (padTo 128 seed ++ place ++ m)).take 24

/-- The first `n` digits of `b` bits of a byte string, most significant first. -/
def slhDigits (b n : Nat) (bs : List Byte) : List Nat :=
  let v := beNat bs
  (List.range n).map fun i => v / 2 ^ (8 * bs.length - b * (i + 1)) % 2 ^ b

/-- Steps `i` … of a Winternitz chain. -/
def slhChain (seed : List Byte) (place : Nat → List Byte) (x : List Byte) (i n : Nat) : List Byte :=
  (List.range n).foldl (fun x j => slhF seed (place (i + j)) x) x

/-- The root that a leaf and its path of neighbours give; `place` is that of the node of a height and index. -/
def slhRoot (seed : List Byte) (place : Nat → Nat → List Byte) (leaf : List Byte) (idx : Nat) (path : List (List Byte)) : List Byte :=
  (((List.range path.length).zip path).foldl (fun (n : List Byte × Nat) e =>
    let up := n.2 / 2
    (slhH seed (place (e.1 + 1) up) (if n.2 % 2 = 0 then n.1 ++ e.2 else e.2 ++ n.1), up)) (leaf, idx)).1

/-- The pieces of 24 bytes of a byte string from piece `i`. -/
def slhPieces (bs : List Byte) (i n : Nat) : List (List Byte) := (List.range n).map fun k => sliceAt bs (24 * (i + k)) 24

/-- The Winternitz public key of key pair `idx` that a signature over `m` gives. -/
def slhWots (seed : List Byte) (layer tree idx : Nat) (sig m : List Byte) : List Byte :=
  let digits := slhDigits 4 48 m
  let sum := (digits.map fun d => 15 - d).foldl (· + ·) 0
  let digits := digits ++ slhDigits 4 3 (beBytes 2 (16 * sum))
  let ends := ((List.range 51).zip digits).flatMap fun e =>
    slhChain seed (fun j => slhPlace layer tree 0 idx e.1 j) (sliceAt sig (24 * e.1) 24) e.2 (15 - e.2)
  slhH seed (slhPlace layer tree 1 idx 0 0) ends

/-- The root of one layer's tree from its part of the signature. -/
def slhLayer (seed : List Byte) (layer tree idx : Nat) (sig m : List Byte) : List Byte :=
  slhRoot seed (fun h i => slhPlace layer tree 2 0 h i) (slhWots seed layer tree idx sig m) idx (slhPieces sig 51 9)

/-- The public key of the few-time signature over the digest `md`. -/
def slhFors (seed : List Byte) (tree idx : Nat) (sig md : List Byte) : List Byte :=
  let roots := ((List.range 17).zip (slhDigits 14 17 md)).flatMap fun e =>
    let leaf := e.1 * 2 ^ 14 + e.2
    slhRoot seed (fun h i => slhPlace 0 tree 3 idx h i) (slhF seed (slhPlace 0 tree 3 idx 0 leaf) (sliceAt sig (360 * e.1) 24)) leaf
      (slhPieces sig (15 * e.1 + 1) 14)
  slhH seed (slhPlace 0 tree 4 idx 0 0) roots

/-- Pure SLH-DSA-SHA2-192s with an empty context: public key of 48 bytes, message, signature of 16,224 bytes. -/
def slhVerify (key msg sig : List Byte) : Bool :=
  let seed := key.take 24
  let root := key.drop 24
  let r := sig.take 24
  let d := mgf1Sha512 (r ++ seed ++ sha512 (r ++ seed ++ root ++ [0, 0] ++ msg)) 39
  let tree := beNat (sliceAt d 30 7) % 2 ^ 54
  let leaf := beNat (sliceAt d 37 2) % 2 ^ 9
  let top := (List.range 7).foldl (fun (a : List Byte × Nat × Nat) j =>
    (slhLayer seed j a.2.1 a.2.2 (sliceAt sig (24 + 6120 + 1440 * j) 1440) a.1, a.2.1 / 512, a.2.1 % 512))
    (slhFors seed tree leaf (sliceAt sig 24 6120) (d.take 30), tree, leaf)
  key.length == 48 && sig.length == 16224 && top.1 == root

/-- One byte into a CRC-32C (reflected, polynomial 0x82F63B78). -/
def crcByte (c : Nat) (b : Byte) : Nat :=
  (List.range 8).foldl (fun c _ => if c % 2 = 1 then c / 2 ^^^ 0x82F63B78 else c / 2) (c ^^^ b.toNat)

/-- CRC-32C of a byte string (R401, R427). -/
def crc32c (bs : List Byte) : Nat := 0xFFFFFFFF ^^^ bs.foldl crcByte 0xFFFFFFFF

/-- CRC-32 (RFC 1952): reflected, polynomial 0xEDB88320 (R326). -/
def crc32 (bs : List Byte) : Nat :=
  0xFFFFFFFF ^^^ bs.foldl (fun c b =>
    (List.range 8).foldl (fun c _ => if c % 2 = 1 then c / 2 ^^^ 0xEDB88320 else c / 2) (c ^^^ b.toNat)) 0xFFFFFFFF

/-- Adler-32 (RFC 1950). -/
def adler32 (bs : List Byte) : Nat :=
  let (a, b) := bs.foldl (fun (p : Nat × Nat) x =>
    let a := (p.1 + x.toNat) % 65521
    (a, (p.2 + a) % 65521)) (1, 0)
  b * 65536 + a

end Sys2Proof.Machine
end

