-- ==== Sys2Proof/Machine/Status.lean ====
section
/-! DEFINITION. Statuses (R375, R448, R488), entropy-coder error codes (R215) and decompressor error codes (R331). -/
namespace Sys2Proof.Machine

def stOk : Nat := 0x0000
def stPending : Nat := 0x0001
def stCancelled : Nat := 0x0002
def stEntropyConcealed : Nat := 0x0100
def stBitstreamConcealed : Nat := 0x0101
def stPartialRefresh : Nat := 0x0102
def stMissingReference : Nat := 0x0103
def stDecompressError : Nat := 0x0104
def stReplayDiverged : Nat := 0x0105
def stUmpireMismatch : Nat := 0x0106
def stBadDescriptor : Nat := 0x0200
def stBadOpcode : Nat := 0x0201
def stBadFormat : Nat := 0x0202
def stBadRounding : Nat := 0x0203
def stBadAddress : Nat := 0x0204
def stOverlap : Nat := 0x0205
def stReadOnly : Nat := 0x0206
def stReductionTooLong : Nat := 0x0207
def stAccKind : Nat := 0x0208
def stAnchorUnset : Nat := 0x0209
def stAnchorMismatch : Nat := 0x020A
def stEmptyRow : Nat := 0x020B
def stEmptySlot : Nat := 0x020C
def stBadFunction : Nat := 0x020D
def stChainBroken : Nat := 0x020E
def stChainMismatch : Nat := 0x020F
def stSyncTimeout : Nat := 0x0210
def stStrictForbids : Nat := 0x0211
def stEntropyError : Nat := 0x0212
def stOutputOverflow : Nat := 0x0213
def stBadSequence : Nat := 0x0214
def stHostDmaError : Nat := 0x0215
def stBadPackage : Nat := 0x0300
def stBadSignature : Nat := 0x0301
def stUntrustedKey : Nat := 0x0302
def stBadTable : Nat := 0x0303
def stBadCdf : Nat := 0x0304
def stTableConflict : Nat := 0x0305
def stNoTableSpace : Nat := 0x0306
def stBankInUse : Nat := 0x0307
def stSlotBusy : Nat := 0x0308
def stSlotConflict : Nat := 0x0309
def stSlotInUse : Nat := 0x030A
def stSlotOccupied : Nat := 0x030B
def stPackageConflict : Nat := 0x030C
def stPackageInUse : Nat := 0x030D
def stNoPackage : Nat := 0x030E
def stCostUnderstated : Nat := 0x030F
def stNoMemory : Nat := 0x0310
def stNoCapacity : Nat := 0x0400
def stCostExceedsRound : Nat := 0x0401
def stNoCostClass : Nat := 0x0402
def stBadCadence : Nat := 0x0403
def stModeMismatch : Nat := 0x0404
def stKindMismatch : Nat := 0x0405
def stBadState : Nat := 0x0406
def stSwitchIncompatible : Nat := 0x0407
def stSnapshotMismatch : Nat := 0x0408
def stUmpireConfig : Nat := 0x0409
def stTooLate : Nat := 0x040A
def stKeyPicture : Nat := 0x040B
def stProfileLimit : Nat := 0x0500
def stBadBitstream : Nat := 0x0501
def stSequenceMismatch : Nat := 0x0502
def stUnsupportedTool : Nat := 0x0503
def stScaleRange : Nat := 0x0504
def stMemoryLost : Nat := 0x0600
def stNoIdentity : Nat := 0x0700
def stBadKeyRequest : Nat := 0x0701

def ecOk : Nat := 0x0000
def ecNanOperand : Nat := 0x0001
def ecBadMap : Nat := 0x0002
def ecBadPin : Nat := 0x0003
def ecPayloadOverflow : Nat := 0x0004
def ecBadLength : Nat := 0x0005
def ecBadHeader : Nat := 0x0006
def ecTableVersion : Nat := 0x0007
def ecInitialState : Nat := 0x0008
def ecTruncated : Nat := 0x0009
def ecEscapeRange : Nat := 0x000A
def ecFinalState : Nat := 0x000B
def ecTrailingData : Nat := 0x000C

def dzIllegalCode : Nat := 0x0001
def dzDistanceBeyondHistory : Nat := 0x0002
def dzLengthOverrun : Nat := 0x0003
def dzTruncated : Nat := 0x0004
def dzChecksum : Nat := 0x0005
def dzWindowTooLarge : Nat := 0x0006

/-- R375: does a status report an output that was committed. -/
def statusCommits (st : Nat) : Bool := st == stOk || (decide (0x0100 ≤ st) && decide (st ≤ 0x01FF))

end Sys2Proof.Machine
end

