-- ==== Sys2Proof/Machine/Inflate.lean ====
section
/-! DEFINITION. Decompression of DEFLATE, zlib and gzip (R323, R331), written from RFC 1950, 1951 and 1952 (log 10). -/
namespace Sys2Proof.Machine
open Sys2Proof

/-! ### Bits -/

/-- A source of bits: byte by byte, least significant bit first. -/
structure BitSrc where
  src : Array Byte
  pos : Nat := 0

/-- Bits in all. -/
def srcBits (b : BitSrc) : Nat := 8 * b.src.size

/-- The bit at a position. -/
def srcBit (b : BitSrc) (p : Nat) : Nat := ((b.src.getD (p / 8) 0).toNat / 2 ^ (p % 8)) % 2

/-- `n` bits as a number, the first the least significant; none when the source ends. -/
def takeBits (b : BitSrc) (n : Nat) : Option (Nat × BitSrc) :=
  if b.pos + n > srcBits b then none
  else some ((List.range n).foldl (fun v i => v + srcBit b (b.pos + i) * 2 ^ i) 0, { b with pos := b.pos + n })

/-- What a decompressor leaves: the code of R331, the valid bytes, the input bytes consumed. -/
structure DzOut where
  dz    : Nat
  out   : List Byte
  used  : Nat
deriving DecidableEq, Repr

/-- The bytes decoded so far, and the source. -/
structure DzState where
  bits : BitSrc
  out  : Array Byte

/-- A step that may meet a fault: its code, with what was valid then. -/
abbrev Dz (α : Type) := Except (Nat × DzState) α

/-! ### Canonical Huffman codes (RFC 1951, 3.2.2) -/

/-- A code: how many symbols have each length, and the symbols by length, then by value. -/
structure Huff where
  counts : List Nat
  syms   : List Nat
deriving DecidableEq, Repr

/-- The code of a list of lengths. -/
def mkHuff (lens : List Nat) : Huff :=
  { counts := (List.range 16).map fun l => if l = 0 then 0 else (lens.filter (· == l)).length
    syms := (List.range 15).flatMap fun l => (List.range lens.length).filter fun s => lens.getD s 0 == l + 1 }

/-- More symbols than a length has codes for. -/
def oversubscribed (h : Huff) : Bool :=
  decide (2 ^ 15 < ((List.range 16).map fun l => h.counts.getD l 0 * 2 ^ (15 - l)).foldl (· + ·) 0)

/-- Do longer codes than `len` bits begin with the prefix that stands `gap` behind the last code of that length. -/
def longerCodes (h : Huff) (len gap : Nat) : Bool :=
  decide (gap * 2 ^ (15 - len) < ((List.range 16).map fun l => if len < l then h.counts.getD l 0 * 2 ^ (15 - l) else 0).foldl (· + ·) 0)

/-- One symbol: walks the lengths with the code so far, the first code of the length and the symbols before it; undecodable as soon as no
code begins so (R331). -/
def huffStep (h : Huff) : Nat → Nat → Nat → Nat → Nat → BitSrc → Except Nat (Nat × BitSrc)
  | 0, _, _, _, _, _ => .error dzIllegalCode
  | fuel + 1, len, code, first, index, b =>
    match takeBits b 1 with
    | none => .error dzTruncated
    | some (bit, b) =>
      let code := code + bit
      let count := h.counts.getD len 0
      if code < first + count then .ok (h.syms.getD (index + (code - first)) 0, b)
      else if !longerCodes h len (code - (first + count)) then .error dzIllegalCode
      else huffStep h fuel (len + 1) (2 * code) (2 * (first + count)) (index + count) b

def huffSym (h : Huff) (b : BitSrc) : Except Nat (Nat × BitSrc) := huffStep h 15 1 0 0 0 b

/-- Base values and extra bits of length symbols 257 … 285 and of distance symbols. -/
def lenBase : List Nat :=
  [3, 4, 5, 6, 7, 8, 9, 10, 11, 13, 15, 17, 19, 23, 27, 31, 35, 43, 51, 59, 67, 83, 99, 115, 131, 163, 195, 227, 258]
def lenExtra : List Nat := [0, 0, 0, 0, 0, 0, 0, 0, 1, 1, 1, 1, 2, 2, 2, 2, 3, 3, 3, 3, 4, 4, 4, 4, 5, 5, 5, 5, 0]
def distBase : List Nat :=
  [1, 2, 3, 4, 5, 7, 9, 13, 17, 25, 33, 49, 65, 97, 129, 193, 257, 385, 513, 769, 1025, 1537, 2049, 3073, 4097, 6145, 8193,
   12289, 16385, 24577]
def distExtra : List Nat := [0, 0, 0, 0, 1, 1, 2, 2, 3, 3, 4, 4, 5, 5, 6, 6, 7, 7, 8, 8, 9, 9, 10, 10, 11, 11, 12, 12, 13, 13]

def fixedLens : List Nat := List.replicate 144 8 ++ List.replicate 112 9 ++ List.replicate 24 7 ++ List.replicate 8 8
def fixedLit : Huff := mkHuff fixedLens
def fixedDist : Huff := mkHuff (List.replicate 30 5)

/-! ### Blocks -/

/-- Where a frame's bytes begin in the output, the window, and the output capacity. -/
structure DzEnv where
  base   : Nat
  window : Nat
  cap    : Nat

/-- A fault in state `st`. -/
def dzFail {α : Type} (code : Nat) (st : DzState) : Dz α := .error (code, st)

/-- A value with its source, or its fault. -/
def dzGet {α : Type} (st : DzState) (r : Except Nat (α × BitSrc)) : Dz (α × DzState) :=
  match r with
  | .ok (a, b) => .ok (a, { st with bits := b })
  | .error c => .error (c, st)

def dzBits (st : DzState) (n : Nat) : Dz (Nat × DzState) :=
  match takeBits st.bits n with
  | some (v, b) => .ok (v, { st with bits := b })
  | none => dzFail dzTruncated st

/-- `n` bytes copied from `d` back. -/
def copyBack (out : Array Byte) (d : Nat) : Nat → Array Byte
  | 0 => out
  | n + 1 => copyBack (out.push (out.getD (out.size - d) 0)) d n

/-- R331: the fault of a match that the input's end cuts short: the first class that what is known of its length and distance raises. -/
def cutMatch (env : DzEnv) (st : DzState) (n d : Nat) : Nat :=
  if d > st.out.size - env.base ∨ d > env.window then dzDistanceBeyondHistory
  else if st.out.size + n > env.cap then dzLengthOverrun
  else dzTruncated

/-- The symbols of a coded block, each one unit: what precedes a faulty one stays. -/
def inflateCodes (env : DzEnv) (lit dist : Huff) : Nat → DzState → Dz DzState
  | 0, st => dzFail dzTruncated st
  | fuel + 1, st =>
    match huffSym lit st.bits with
    | .error c => dzFail c st
    | .ok (sym, b) =>
      if sym < 256 then
        if st.out.size ≥ env.cap then dzFail dzLengthOverrun st
        else inflateCodes env lit dist fuel ⟨b, st.out.push (BitVec.ofNat 8 sym)⟩
      else if sym = 256 then .ok ⟨b, st.out⟩
      else if sym > 285 then dzFail dzIllegalCode st
      else
        match takeBits b (lenExtra.getD (sym - 257) 0) with
        | none => dzFail (cutMatch env st (lenBase.getD (sym - 257) 0) 0) st
        | some (le, b) =>
          match huffSym dist b with
          | .error c => dzFail (if c = dzTruncated then cutMatch env st (lenBase.getD (sym - 257) 0 + le) 0 else c) st
          | .ok (ds, b) =>
            if ds > 29 then dzFail dzIllegalCode st
            else
              match takeBits b (distExtra.getD ds 0) with
              | none => dzFail (cutMatch env st (lenBase.getD (sym - 257) 0 + le) (distBase.getD ds 0)) st
              | some (de, b) =>
                let n := lenBase.getD (sym - 257) 0 + le
                let d := distBase.getD ds 0 + de
                if d > st.out.size - env.base ∨ d > env.window then dzFail dzDistanceBeyondHistory st
                else if st.out.size + n > env.cap then dzFail dzLengthOverrun st
                else inflateCodes env lit dist fuel ⟨b, copyBack st.out d n⟩

/-- The bytes of a stored block, each one unit. -/
def inflateStored (env : DzEnv) : Nat → DzState → Dz DzState
  | 0, st => .ok st
  | n + 1, st => do
    if st.out.size ≥ env.cap then dzFail dzLengthOverrun st
    let (v, st') ← dzBits st 8
    inflateStored env n { st' with out := st.out.push (BitVec.ofNat 8 v) }

/-- RFC 1951, 3.2.7: the code lengths of a dynamic block, run lengths expanded. -/
def readLens (h : Huff) (want : Nat) (st0 : DzState) : Nat → List Nat → BitSrc → Dz (List Nat × BitSrc)
  | 0, acc, b => if acc.length = want then .ok (acc, b) else dzFail dzIllegalCode st0
  | fuel + 1, acc, b =>
    if acc.length = want then .ok (acc, b)
    else
      match huffSym h b with
      | .error c => dzFail c st0
      | .ok (sym, b) =>
        if sym < 16 then readLens h want st0 fuel (acc ++ [sym]) b
        else
          let (bits, base) := if sym = 16 then (2, 3) else if sym = 17 then (3, 3) else (7, 11)
          if acc.length + base > want ∨ (sym = 16 ∧ acc = []) then dzFail dzIllegalCode st0
          else
          match takeBits b bits with
          | none => dzFail dzTruncated st0
          | some (e, b) =>
            let n := base + e
            if acc.length + n > want then dzFail dzIllegalCode st0
            else readLens h want st0 fuel (acc ++ List.replicate n (if sym = 16 then acc.getLastD 0 else 0)) b

def codeOrder : List Nat := [16, 17, 18, 0, 8, 7, 9, 6, 10, 5, 11, 4, 12, 3, 13, 2, 14, 1, 15]

/-- The codes of a dynamic block. -/
def dynamicCodes (st : DzState) : Dz (Huff × Huff × DzState) := do
  let (hlit, b) ← dzGet st (match takeBits st.bits 5 with | some p => .ok p | none => .error dzTruncated)
  if hlit > 29 then dzFail dzIllegalCode st
  let (hdist, b) ← dzBits b 5
  let (hclen, b) ← dzBits b 4
  let fields := (List.range (hclen + 4)).map fun i => takeBits { b.bits with pos := b.bits.pos + 3 * i } 3
  if fields.any (·.isNone) then dzFail dzTruncated st
  let vals := fields.map fun f => (f.map (·.1)).getD 0
  let cl := (List.range 19).map fun s => ((codeOrder.zip vals).find? fun p => p.1 == s).elim 0 (·.2)
  let hcl := mkHuff cl
  if oversubscribed hcl then dzFail dzIllegalCode st
  let want := hlit + 257 + (hdist + 1)
  let (lens, bits) ← readLens hcl want st want [] { b.bits with pos := b.bits.pos + 3 * (hclen + 4) }
  let lit := mkHuff (lens.take (hlit + 257))
  let dist := mkHuff (lens.drop (hlit + 257))
  if oversubscribed lit ∨ oversubscribed dist then dzFail dzIllegalCode st
  .ok (lit, dist, ⟨bits, st.out⟩)

/-- DEFLATE blocks until the last. -/
def inflateBlocks (env : DzEnv) : Nat → DzState → Dz DzState
  | 0, st => dzFail dzTruncated st
  | fuel + 1, st => do
    let (last, s1) ← dzBits st 1
    let (ty, s1) ← dzBits s1 2
    let s2 ← (
      if ty = 0 then do
        let s1 := { s1 with bits := { s1.bits with pos := alignUp 8 s1.bits.pos } }
        let (n, s1) ← dzBits s1 16
        let (m, s1) ← dzBits s1 16
        if n + m ≠ 0xFFFF then dzFail dzIllegalCode { s1 with out := st.out }
        inflateStored env n s1
      else if ty = 1 then inflateCodes env fixedLit fixedDist (srcBits s1.bits + 1) s1
      else if ty = 2 then do
        let (l, d, s1) ← dynamicCodes s1
        inflateCodes env l d (srcBits s1.bits + 1) s1
      else dzFail dzIllegalCode s1)
    if last = 1 then .ok s2 else inflateBlocks env fuel s2

/-- The source moved to a byte boundary, and its byte position. -/
def byteAlign (st : DzState) : DzState := { st with bits := { st.bits with pos := alignUp 8 st.bits.pos } }

/-- `n` whole bytes. -/
def dzBytes (st : DzState) (n : Nat) : Dz (List Byte × DzState) :=
  let p := st.bits.pos / 8
  if p + n > st.bits.src.size then dzFail dzTruncated st
  else .ok ((List.range n).map fun i => st.bits.src.getD (p + i) 0, { st with bits := { st.bits with pos := st.bits.pos + 8 * n } })

/-- What a run of the decompressor reports. -/
def dzReport (r : Dz DzState) : DzOut :=
  match r with
  | .ok st => ⟨0, st.out.toList, ceilDiv st.bits.pos 8⟩
  | .error (c, st) => ⟨c, st.out.toList, ceilDiv st.bits.pos 8⟩

def startDz (bs : List Byte) : DzState := ⟨⟨bs.toArray, 0⟩, #[]⟩

/-- RFC 1951. -/
def inflateRaw (bs : List Byte) (cap : Nat) : Dz DzState :=
  let st := startDz bs
  inflateBlocks ⟨0, 32768, cap⟩ (srcBits st.bits + 1) st

/-- RFC 1950, R323: CINFO 0 … 7, no FDICT, Adler-32. -/
def inflateZlib (bs : List Byte) (cap : Nat) : Dz DzState := do
  let (h, st) ← dzBytes (startDz bs) 2
  let cmf := numAt h 0 1
  let flg := numAt h 1 1
  if (cmf * 256 + flg) % 31 ≠ 0 ∨ cmf % 16 ≠ 8 ∨ cmf / 16 > 7 ∨ flg.testBit 5 then dzFail dzIllegalCode st
  let st ← inflateBlocks ⟨0, 2 ^ (cmf / 16 + 8), cap⟩ (srcBits st.bits + 1) st
  let (t, st) ← dzBytes (byteAlign st) 4
  if beNat t ≠ adler32 st.out.toList then dzFail dzChecksum st
  .ok st

/-- A zero-terminated string skipped. -/
def skipString : Nat → DzState → Dz DzState
  | 0, st => dzFail dzTruncated st
  | fuel + 1, st => do
    let (b, st) ← dzBytes st 1
    if b = [0] then .ok st else skipString fuel st

/-- RFC 1952: one member. -/
def gzipMember (cap : Nat) (st : DzState) : Dz DzState := do
  let start := st.bits.pos / 8
  let (h, st) ← dzBytes st 10
  let flg := numAt h 3 1
  if numAt h 0 2 ≠ 0x8B1F ∨ numAt h 2 1 ≠ 8 ∨ flg / 32 ≠ 0 then dzFail dzIllegalCode st
  let st ← (if flg.testBit 2 then do
      let (x, st) ← dzBytes st 2
      let (_, st) ← dzBytes st (leNat x)
      .ok st
    else .ok st)
  let fuel := st.bits.src.size + 1
  let st ← (if flg.testBit 3 then skipString fuel st else .ok st)
  let st ← (if flg.testBit 4 then skipString fuel st else .ok st)
  let st ← (if flg.testBit 1 then do
      let stop := st.bits.pos / 8
      let (c, st') ← dzBytes st 2
      let head := (List.range (stop - start)).map fun i => st.bits.src.getD (start + i) 0
      if leNat c ≠ crc32 head % 65536 then dzFail dzChecksum st
      .ok st'
    else .ok st)
  let base := st.out.size
  let st ← inflateBlocks ⟨base, 32768, cap⟩ (srcBits st.bits + 1) st
  let (t, st) ← dzBytes (byteAlign st) 8
  let got := st.out.toList.drop base
  if leNat (t.take 4) ≠ crc32 got ∨ leNat (t.drop 4) ≠ got.length % 2 ^ 32 then dzFail dzChecksum st
  .ok st

/-- R323: consecutive members are decoded in turn; a fault in a later member's header keeps the earlier members. -/
def gzipMembers (cap : Nat) : Nat → DzState → Dz DzState
  | 0, st => .ok st
  | fuel + 1, st => do
    let st ← gzipMember cap st
    if st.bits.pos / 8 < st.bits.src.size then gzipMembers cap fuel st else .ok st

end Sys2Proof.Machine
end

