-- ==== Sys2Proof/Machine/Zstd.lean ====
section
/-! DEFINITION. Decompression of Zstandard (R323, R331), written from RFC 8878 (log 10). -/
namespace Sys2Proof.Machine
open Sys2Proof

/-! ### XXH64 -/

def xp1 : Nat := 0x9E3779B185EBCA87
def xp2 : Nat := 0xC2B2AE3D27D4EB4F
def xp3 : Nat := 0x165667B19E3779F9
def xp4 : Nat := 0x85EBCA77C2B2AE63
def xp5 : Nat := 0x27D4EB2F165667C5

def rotl64 (x r : Nat) : Nat := wrap64 (x * 2 ^ r) ||| wrap64 x / 2 ^ (64 - r)

def xxRound (acc lane : Nat) : Nat := wrap64 (rotl64 (wrap64 (acc + lane * xp2)) 31 * xp1)

/-- The four accumulators over 32-byte stripes, and the bytes left. -/
def xxStripes : Nat → Nat × Nat × Nat × Nat → List Byte → (Nat × Nat × Nat × Nat) × List Byte
  | 0, a, bs => (a, bs)
  | fuel + 1, (a, b, c, d), bs =>
    if bs.length < 32 then ((a, b, c, d), bs)
    else
      xxStripes fuel (xxRound a (numAt bs 0 8), xxRound b (numAt bs 8 8), xxRound c (numAt bs 16 8), xxRound d (numAt bs 24 8))
        (bs.drop 32)

def xxMerge (h a : Nat) : Nat := wrap64 (((h ^^^ xxRound 0 a) * xp1) + xp4)

/-- The last bytes, 8, 4 and 1 at a time. -/
def xxTail : Nat → Nat → List Byte → Nat
  | 0, h, _ => h
  | fuel + 1, h, bs =>
    if bs.length ≥ 8 then xxTail fuel (wrap64 (rotl64 (h ^^^ xxRound 0 (numAt bs 0 8)) 27 * xp1 + xp4)) (bs.drop 8)
    else if bs.length ≥ 4 then xxTail fuel (wrap64 (rotl64 (h ^^^ wrap64 (numAt bs 0 4 * xp1)) 23 * xp2 + xp3)) (bs.drop 4)
    else if bs.length ≥ 1 then xxTail fuel (wrap64 (rotl64 (h ^^^ wrap64 (numAt bs 0 1 * xp5)) 11 * xp1)) (bs.drop 1)
    else h

/-- XXH64 with seed 0. -/
def xxh64 (bs : List Byte) : Nat :=
  let n := bs.length
  let ((a, b, c, d), rest) := xxStripes (n / 32) (wrap64 (xp1 + xp2), xp2, 0, wrap64 (2 ^ 64 - xp1)) bs
  let h := if n ≥ 32 then
      xxMerge (xxMerge (xxMerge (xxMerge (wrap64 (rotl64 a 1 + rotl64 b 7 + rotl64 c 12 + rotl64 d 18)) a) b) c) d
    else xp5
  let h := xxTail (n + 1) (wrap64 (h + n)) rest
  let h := wrap64 ((h ^^^ h / 2 ^ 33) * xp2)
  let h := wrap64 ((h ^^^ h / 2 ^ 29) * xp3)
  h ^^^ h / 2 ^ 32

/-! ### Backward bit streams -/

/-- A bit stream read from its last set bit downward; bits below the first byte read as zero. -/
structure BackBits where
  num : Nat
  pos : Int
deriving DecidableEq, Repr

/-- The stream in some bytes; none when the last byte is 0. -/
def backStream (bs : List Byte) : Option BackBits :=
  let n := leNat bs
  if bs = [] ∨ bs.getLastD 0 = 0 then none else some ⟨n, Nat.log2 n⟩

/-- The `n` bits below the position, and the stream after them. -/
def backPeek (b : BackBits) (n : Nat) : Nat :=
  if b.pos - n ≥ 0 then b.num / 2 ^ (b.pos - n).toNat % 2 ^ n else b.num * 2 ^ ((n : Int) - b.pos).toNat % 2 ^ n
def backTake (b : BackBits) (n : Nat) : Nat × BackBits := (backPeek b n, { b with pos := b.pos - n })

/-! ### FSE (RFC 8878, 4.1) -/

/-- A decoding table: accuracy log, and (symbol, bits, base) per state. -/
structure FseTable where
  log   : Nat
  cells : Array (Nat × Nat × Nat)

/-- The repeat flags after a probability of zero. -/
def fseZeros : Nat → BitSrc → List Int → Option (List Int × BitSrc)
  | 0, _, _ => none
  | f + 1, b, acc =>
    match takeBits b 2 with
    | none => none
    | some (r, b) => if r = 3 then fseZeros f b (acc ++ [0, 0, 0]) else some (acc ++ List.replicate r 0, b)

/-- The probabilities of a table description; −1 is a probability below one. -/
def fseProbs : Nat → Nat → BitSrc → List Int → Option (List Int × BitSrc)
  | 0, _, _, _ => none
  | fuel + 1, remaining, b, acc =>
    if remaining = 0 then some (acc, b)
    else
      let n := Nat.log2 (remaining + 1) + 1
      match takeBits b n with
      | none => none
      | some (v, b') =>
        let low := 2 ^ (n - 1)
        let thr := 2 ^ n - 1 - (remaining + 1)
        let (v, b') := if v % low < thr then (v % low, { b' with pos := b'.pos - 1 }) else (if v ≥ low then v - thr else v, b')
        let p : Int := (v : Int) - 1
        if p.natAbs > remaining then none
        else if p = 0 then
          match fseZeros 128 b' (acc ++ [0]) with
          | none => none
          | some (acc, b) => fseProbs fuel remaining b acc
        else fseProbs fuel (remaining - p.natAbs) b' (acc ++ [p])

/-- The next free cell from a position, stepping over the cells at or above `high`. -/
def fseSkip (size high step : Nat) : Nat → Nat → Nat
  | 0, p => p
  | f + 1, p => let q := (p + step) % size; if q ≥ high then fseSkip size high step f q else q

/-- The table of a list of probabilities. -/
def fseBuild (log : Nat) (probs : List Int) : FseTable :=
  let size := 2 ^ log
  let idx := (List.range probs.length).zip probs
  let rare := (idx.filter fun p => p.2 == -1).map (·.1)
  let high := size - rare.length
  let cells : Array Nat := ((List.range rare.length).zip rare).foldl (fun a p => a.setIfInBounds (size - 1 - p.1) p.2)
    (Array.replicate size 0)
  let step := size / 2 + size / 8 + 3
  let (cells, _) := idx.foldl (fun acc p =>
    (List.range p.2.toNat).foldl (fun acc _ => (acc.1.setIfInBounds acc.2 p.1, fseSkip size high step size acc.2)) acc) (cells, 0)
  let count (s : Nat) : Nat := (probs.getD s 0).natAbs
  let (out, _) := cells.toList.foldl (fun (acc : Array (Nat × Nat × Nat) × NMap Nat) s =>
    let x := ngetD acc.2 s (count s)
    let nb := log - Nat.log2 x
    (acc.1.push (s, nb, x * 2 ^ nb - size), nset acc.2 s (x + 1))) (#[], [])
  ⟨log, out⟩

/-- R331: a described table whose accuracy is at most `maxLog` and whose symbols are at most `maxSym`. -/
def fseRead (maxLog maxSym : Nat) (src : Array Byte) (pos : Nat) : Option (FseTable × Nat) :=
  match takeBits ⟨src, 8 * pos⟩ 4 with
  | none => none
  | some (a, b) =>
    let log := a + 5
    if log > maxLog then none
    else
      match fseProbs (2 * (maxSym + 2)) (2 ^ log) b [] with
      | none => none
      | some (ps, b) => if ps.length > maxSym + 1 then none else some (fseBuild log ps, ceilDiv b.pos 8)

def fseRle (s : Nat) : FseTable := ⟨0, #[(s, 0, 0)]⟩

def fseCell (t : FseTable) (st : Nat) : Nat × Nat × Nat := t.cells.getD st (0, 0, 0)
def fseNext (t : FseTable) (st : Nat) (b : BackBits) : Nat × BackBits :=
  let (_, nb, base) := fseCell t st
  let (v, b) := backTake b nb
  (base + v, b)

def llDefault : FseTable := fseBuild 6
  [4, 3, 2, 2, 2, 2, 2, 2, 2, 2, 2, 2, 2, 1, 1, 1, 2, 2, 2, 2, 2, 2, 2, 2, 2, 3, 2, 1, 1, 1, 1, 1, -1, -1, -1, -1]
def mlDefault : FseTable := fseBuild 6
  ([1, 4, 3, 2, 2, 2, 2, 2, 2] ++ List.replicate 37 1 ++ List.replicate 7 (-1))
def ofDefault : FseTable := fseBuild 5
  ([1, 1, 1, 1, 1, 1, 2, 2, 2] ++ List.replicate 15 1 ++ List.replicate 5 (-1))

def llCodes : List (Nat × Nat) :=
  ((List.range 16).map fun c => (c, 0)) ++
  [(16, 1), (18, 1), (20, 1), (22, 1), (24, 2), (28, 2), (32, 3), (40, 3), (48, 4), (64, 6), (128, 7), (256, 8), (512, 9), (1024, 10),
   (2048, 11), (4096, 12), (8192, 13), (16384, 14), (32768, 15), (65536, 16)]
def mlCodes : List (Nat × Nat) :=
  ((List.range 32).map fun c => (c + 3, 0)) ++
  [(35, 1), (37, 1), (39, 1), (41, 1), (43, 2), (47, 2), (51, 3), (59, 3), (67, 4), (83, 4), (99, 5), (131, 7), (259, 8), (515, 9),
   (1027, 10), (2051, 11), (4099, 12), (8195, 13), (16387, 14), (32771, 15), (65539, 16)]

/-! ### Huffman-coded literals (RFC 8878, 4.2) -/

/-- A literal code: its greatest length, and (symbol, length) per value of that many bits. -/
structure LitCode where
  bits  : Nat
  cells : Array (Nat × Nat)

/-- The code of a list of weights, the last left out; none when they complete to no power of two. -/
def litCode (ws : List Nat) : Option LitCode :=
  let sum := (ws.map fun w => if w = 0 then 0 else 2 ^ (w - 1)).foldl (· + ·) 0
  let bits := Nat.log2 sum + 1
  let rest := 2 ^ bits - sum
  if sum = 0 ∨ bits > 11 ∨ 2 ^ Nat.log2 rest ≠ rest ∨ ws.length > 255 then none
  else
    let ws := ws ++ [Nat.log2 rest + 1]
    let cells := (List.range bits).flatMap fun w =>
      ((List.range ws.length).filter fun s => ws.getD s 0 == w + 1).flatMap fun s => List.replicate (2 ^ w) (s, bits - w)
    some ⟨bits, cells.toArray⟩

/-- FSE-coded weights: two interleaved states until the stream is spent. -/
def fseWeights (t : FseTable) : Nat → Nat → Nat → BackBits → List Nat → Option (List Nat)
  | 0, _, _, _, _ => none
  | fuel + 1, s1, s2, b, acc =>
    let acc := acc ++ [(fseCell t s1).1]
    let (n1, b) := fseNext t s1 b
    if b.pos < 0 then some (acc ++ [(fseCell t s2).1])
    else fseWeights t fuel s2 n1 b acc

/-- The code described at a byte position, and the position after it. -/
def readLitCode (src : Array Byte) (pos limit : Nat) : Option (LitCode × Nat) :=
  let hb := (src.getD pos 0).toNat
  if pos ≥ limit then none
  else if hb ≥ 128 then
    let n := hb - 127
    let len := (n + 1) / 2
    if pos + 1 + len > limit then none
    else
      let ws := (List.range n).map fun i =>
        let b := (src.getD (pos + 1 + i / 2) 0).toNat
        if i % 2 = 0 then b / 16 else b % 16
      (litCode ws).map fun c => (c, pos + 1 + len)
  else
    let stop := pos + 1 + hb
    if stop > limit then none
    else
      match fseRead 6 255 src (pos + 1) with
      | none => none
      | some (t, p) =>
        if p ≥ stop then none
        else
          match backStream ((List.range (stop - p)).map fun i => src.getD (p + i) 0) with
          | none => none
          | some b =>
            let (s1, b) := backTake b t.log
            let (s2, b) := backTake b t.log
            match fseWeights t 300 s1 s2 b [] with
            | none => none
            | some ws => (litCode ws).map fun c => (c, stop)

/-- `n` literals of one stream, which they must use up. -/
def litStream (c : LitCode) : Nat → BackBits → List Byte → Option (List Byte)
  | 0, b, acc => if b.pos = 0 then some acc.reverse else none
  | n + 1, b, acc =>
    let (s, len) := c.cells.getD (backPeek b c.bits) (0, 0)
    if b.pos - len < 0 then none else litStream c n { b with pos := b.pos - len } (BitVec.ofNat 8 s :: acc)

def bytesAt (src : Array Byte) (pos n : Nat) : List Byte := (List.range n).map fun i => src.getD (pos + i) 0

/-- The streams at (position, bytes, literals). -/
def litStreams (src : Array Byte) (c : LitCode) : List (Nat × Nat × Nat) → Option (List Byte)
  | [] => some []
  | (p, n, k) :: r =>
    match backStream (bytesAt src p n) with
    | none => none
    | some b =>
      match litStream c k b [], litStreams src c r with
      | some l, some m => some (l ++ m)
      | _, _ => none

/-- What a frame keeps from block to block. -/
structure ZCtx where
  lit : Option LitCode := none
  ll  : Option FseTable := none
  of  : Option FseTable := none
  ml  : Option FseTable := none
  rep : Nat × Nat × Nat := (1, 4, 8)

/-- The literals section at `pos`: the literals, the code kept, and the position after it; or the fault class. -/
def readLiterals (src : Array Byte) (pos limit : Nat) (z : ZCtx) : Except Nat (List Byte × ZCtx × Nat) :=
  let b0 := (src.getD pos 0).toNat
  let ty := b0 % 4
  let fmt := b0 / 4 % 4
  if pos ≥ limit then .error dzIllegalCode
  else if ty ≤ 1 then
    let h := leNat (bytesAt src pos 3)
    let (hl, n) := if fmt % 2 = 0 then (1, b0 / 8) else if fmt = 1 then (2, h / 16 % 4096) else (3, h / 16)
    let body := if ty = 0 then n else 1
    if pos + hl + body > limit then .error dzIllegalCode
    else .ok (if ty = 0 then bytesAt src (pos + hl) n else List.replicate n (src.getD (pos + hl) 0), z, pos + hl + body)
  else
    let h := leNat (bytesAt src pos 5)
    let (hl, w) := if fmt ≤ 1 then (3, 10) else if fmt = 2 then (4, 14) else (5, 18)
    let n := h / 16 % 2 ^ w
    let m := h / 2 ^ (4 + w) % 2 ^ w
    let p := pos + hl
    let stop := p + m
    if stop > limit then .error dzIllegalCode
    else
      match (if ty = 2 then readLitCode src p stop else z.lit.map fun c => (c, p)) with
      | none => .error dzIllegalCode
      | some (c, p) =>
        let streams : Option (List (Nat × Nat × Nat)) :=
          if fmt = 0 then some [(p, stop - p, n)]
          else
            let (a, b, d) := (leNat (bytesAt src p 2), leNat (bytesAt src (p + 2) 2), leNat (bytesAt src (p + 4) 2))
            let q := (n + 3) / 4
            if p + 6 + a + b + d > stop ∨ n < 3 * q then none
            else some [(p + 6, a, q), (p + 6 + a, b, q), (p + 6 + a + b, d, q), (p + 6 + a + b + d, stop - (p + 6 + a + b + d), n - 3 * q)]
        match streams.bind (litStreams src c) with
        | none => .error dzIllegalCode
        | some l => .ok (l, { z with lit := some c }, stop)

/-! ### Sequences (RFC 8878, 3.1.1.3.2) -/

/-- One of the three tables by its mode. -/
def seqTable (mode maxLog maxSym : Nat) (dflt : FseTable) (old : Option FseTable) (src : Array Byte) (pos limit : Nat) :
    Option (FseTable × Nat) :=
  if mode = 0 then some (dflt, pos)
  else if mode = 1 then
    if pos < limit ∧ (src.getD pos 0).toNat ≤ maxSym then some (fseRle (src.getD pos 0).toNat, pos + 1) else none
  else if mode = 2 then
    match fseRead maxLog maxSym src pos with
    | some (t, p) => if p ≤ limit then some (t, p) else none
    | none => none
  else old.map fun t => (t, pos)

/-- A sequence: literal length, match length, offset value. -/
abbrev Seq3 := Nat × Nat × Nat

/-- `n` sequences; the stream must be used up. -/
def readSeqs (tl to' tm : FseTable) : Nat → Nat → Nat → Nat → BackBits → List Seq3 → Option (List Seq3)
  | 0, _, _, _, b, acc => if b.pos = 0 then some acc.reverse else none
  | n + 1, sl, so, sm, b, acc =>
    let oc := (fseCell to' so).1
    let (lb, lx) := llCodes.getD (fseCell tl sl).1 (0, 0)
    let (mb, mx) := mlCodes.getD (fseCell tm sm).1 (0, 0)
    let (ov, b) := backTake b oc
    let (mv, b) := backTake b mx
    let (lv, b) := backTake b lx
    if b.pos < 0 then none
    else
      let acc := (lb + lv, mb + mv, 2 ^ oc + ov) :: acc
      if n = 0 then readSeqs tl to' tm 0 sl so sm b acc
      else
        let (sl, b) := fseNext tl sl b
        let (sm, b) := fseNext tm sm b
        let (so, b) := fseNext to' so b
        if b.pos < 0 then none else readSeqs tl to' tm n sl so sm b acc

/-- The sequences section at `pos`, which ends at `limit`. -/
def readSequences (src : Array Byte) (pos limit : Nat) (z : ZCtx) : Option (List Seq3 × ZCtx) :=
  let b0 := (src.getD pos 0).toNat
  if pos ≥ limit then none
  else if b0 = 0 then (if pos + 1 = limit then some ([], z) else none)
  else
    let (n, p) := if b0 < 128 then (b0, pos + 1)
      else if b0 < 255 then ((b0 - 128) * 256 + (src.getD (pos + 1) 0).toNat, pos + 2)
      else (leNat (bytesAt src (pos + 1) 2) + 0x7F00, pos + 3)
    let modes := (src.getD p 0).toNat
    if p ≥ limit ∨ modes % 4 ≠ 0 then none
    else
      match seqTable (modes / 64) 9 35 llDefault z.ll src (p + 1) limit with
      | none => none
      | some (tl, p) =>
        match seqTable (modes / 16 % 4) 8 31 ofDefault z.of src p limit with
        | none => none
        | some (to', p) =>
          match seqTable (modes / 4 % 4) 9 52 mlDefault z.ml src p limit with
          | none => none
          | some (tm, p) =>
            match backStream (bytesAt src p (limit - p)) with
            | none => none
            | some b =>
              let (sl, b) := backTake b tl.log
              let (so, b) := backTake b to'.log
              let (sm, b) := backTake b tm.log
              if b.pos < 0 then none
              else (readSeqs tl to' tm n sl so sm b []).map fun l => (l, { z with ll := some tl, of := some to', ml := some tm })

/-- An offset value with the repeat offsets: the offset and the offsets after it. -/
def repOffset (rep : Nat × Nat × Nat) (ll v : Nat) : Nat × Nat × Nat × Nat :=
  let (a, b, c) := rep
  if v > 3 then (v - 3, v - 3, a, b)
  else
    let i := if ll = 0 then v else v - 1
    if i = 0 then (a, a, b, c)
    else if i = 1 then (b, b, a, c)
    else if i = 2 then (c, c, a, b)
    else (a - 1, a - 1, a, b)

/-- The offsets of the sequences in turn. -/
def seqOffsets : List Seq3 → Nat × Nat × Nat → List (Nat × Nat × Nat) × (Nat × Nat × Nat)
  | [], rep => ([], rep)
  | (ll, ml, v) :: r, rep =>
    let (o, rep) := repOffset rep ll v
    let (l, rep) := seqOffsets r rep
    ((ll, ml, o) :: l, rep)

/-- The output after sequences and the last literals; the first match that reaches too far back stops it. -/
def runSeqs (env : DzEnv) : List (Nat × Nat × Nat) → List Byte → Array Byte → Option (Array Byte)
  | [], lits, out => some (lits.foldl Array.push out)
  | (ll, ml, o) :: r, lits, out =>
    let out := (lits.take ll).foldl Array.push out
    if o > out.size - env.base ∨ o > env.window then none else runSeqs env r (lits.drop ll) (copyBack out o ml)

/-- R331: a compressed block at `pos`, `n` bytes. -/
def zstdBlock (env : DzEnv) (z : ZCtx) (src : Array Byte) (pos n : Nat) (out : Array Byte) : Except Nat (Array Byte × ZCtx) := do
  let (lits, z, p) ← readLiterals src pos (pos + n) z
  match readSequences src p (pos + n) z with
  | none => .error dzIllegalCode
  | some (seqs, z) =>
    let (offs, rep) := seqOffsets seqs z.rep
    let used := (offs.map (·.1)).foldl (· + ·) 0
    let made := lits.length + (offs.map (·.2.1)).foldl (· + ·) 0
    if used > lits.length ∨ offs.any (fun o => o.2.2 == 0) then .error dzIllegalCode
    match runSeqs env offs lits out with
    | none => .error dzDistanceBeyondHistory
    | some out' => if made > 131072 ∨ out'.size > env.cap then .error dzLengthOverrun else .ok (out', { z with rep })

/-! ### Frames -/

/-- Blocks until the last; each is one unit. -/
def zstdBlocks (env : DzEnv) : Nat → ZCtx → DzState → Dz DzState
  | 0, _, st => dzFail dzTruncated st
  | fuel + 1, z, st => do
    let (h, s1) ← dzBytes st 3
    let hv := leNat h
    let ty := hv / 2 % 4
    let n := hv / 8
    let p := s1.bits.pos / 8
    let body := if ty = 1 then 1 else n
    if ty = 3 then dzFail dzIllegalCode st
    if n > 131072 ∨ (ty ≤ 1 ∧ st.out.size + n > env.cap) then
      (if ty = 2 ∧ p + body > s1.bits.src.size ∧ n ≤ 131072 then dzFail dzTruncated st else dzFail dzLengthOverrun st)
    if p + body > s1.bits.src.size then dzFail dzTruncated st
    let done (out : Array Byte) : DzState := ⟨{ s1.bits with pos := 8 * (p + body) }, out⟩
    let (z, s2) ← (
      if ty = 0 then .ok (z, done ((bytesAt s1.bits.src p n).foldl Array.push st.out))
      else if ty = 1 then .ok (z, done ((List.replicate n (s1.bits.src.getD p 0)).foldl Array.push st.out))
      else
        match zstdBlock env z s1.bits.src p n st.out with
        | .ok (out, z) => .ok (z, done out)
        | .error c => dzFail c st)
    if hv % 2 = 1 then .ok s2 else zstdBlocks env fuel z s2

/-- The `n`-byte little-endian field next. -/
def dzNum (st : DzState) (n : Nat) : Dz (Nat × DzState) := do
  let (b, st) ← dzBytes st n
  .ok (leNat b, st)

/-- One frame, skippable ones included. -/
def zstdFrame (cap : Nat) (st0 : DzState) : Dz DzState := do
  let (magic, st) ← dzNum st0 4
  if magic / 16 = 0x184D2A5 then
    let (n, st) ← dzNum st 4
    if st.bits.pos / 8 + n > st.bits.src.size then dzFail dzTruncated st0
    .ok { st with bits := { st.bits with pos := st.bits.pos + 8 * n } }
  else if magic ≠ 0xFD2FB528 then dzFail dzIllegalCode st0
  else
    let (d, st) ← dzNum st 1
    if d.testBit 3 then dzFail dzIllegalCode st0
    let single := d.testBit 5
    let (wd, st) ← (if single then .ok (0, st) else dzNum st 1)
    let (did, st) ← dzNum st (if d % 4 = 3 then 4 else d % 4)
    if did ≠ 0 then dzFail dzIllegalCode st0
    let flag := d / 64
    let size := if flag = 0 then (if single then 1 else 0) else 2 ^ flag
    let (fcs, st) ← dzNum st size
    let content : Option Nat := if size = 0 then none else some (if flag = 1 then fcs + 256 else fcs)
    let base := 2 ^ (10 + wd / 8)
    let window := if single then content.getD 0 else base + base / 8 * (wd % 8)
    if window > 2 ^ 23 then dzFail dzWindowTooLarge st0
    let start := st.out.size
    let limit := match content with
      | some n => Nat.min cap (start + n)
      | none => cap
    let st ← zstdBlocks ⟨start, window, limit⟩ (st.bits.src.size + 1) {} st
    let got := st.out.toList.drop start
    let st' ← (if d.testBit 2 then do
        let (x, st') ← dzNum st 4
        if x ≠ xxh64 got % 2 ^ 32 then dzFail dzChecksum st
        .ok st'
      else .ok st)
    if (content.map fun n => decide (got.length < n)) = some true then dzFail dzChecksum st
    .ok st'

/-- R323: concatenated frames are decoded in turn. -/
def zstdFrames (cap : Nat) : Nat → DzState → Dz DzState
  | 0, st => .ok st
  | fuel + 1, st => do
    let st ← zstdFrame cap st
    if st.bits.pos / 8 < st.bits.src.size then zstdFrames cap fuel st else .ok st

/-- R323, R331: decompression of `bs` under a format code into at most `cap` bytes. -/
def decompress (format : Nat) (bs : List Byte) (cap : Nat) : DzOut :=
  if bs = [] then ⟨dzTruncated, [], 0⟩
  else if format = 0 then dzReport (inflateRaw bs cap)
  else if format = 1 then dzReport (inflateZlib bs cap)
  else if format = 2 then dzReport (gzipMembers cap (bs.length + 1) (startDz bs))
  else dzReport (zstdFrames cap (bs.length + 1) (startDz bs))

end Sys2Proof.Machine
end

