-- ==== Sys2Proof/Machine/Lossless.lean ====
section
/-! DEFINITION. The edition 1 encoder of the lossless engines: the parse, DEFLATE and Zstandard coding, the three wrappers (R323 to
R327). What R325 leaves open of the bits is free (log 27). -/
namespace Sys2Proof.Machine
open Sys2Proof

/-! ### The parse (R325, R327) -/

/-- R327: chain candidates and lazy depth of a level. -/
def levelChain (l : Nat) : Nat := [4, 8, 16, 32, 64, 128, 256, 1024, 4096].getD (l - 1) 4
def levelLazy (l : Nat) : Nat := [0, 0, 1, 1, 2, 2, 3, 3, 3].getD (l - 1) 0

/-- R325: the hash of the four bytes at a position. -/
def hashAt (src : Array Byte) (i : Nat) : Nat :=
  let x := (src.getD i 0).toNat + 256 * ((src.getD (i + 1) 0).toNat + 256 * ((src.getD (i + 2) 0).toNat + 256 * (src.getD (i + 3) 0).toNat))
  wrap32 (x * 0xA54F2C93) / 2 ^ 17

/-- R325: the candidates of every position: earlier positions of equal hash, most recent first, within the window, at most the
chain count. -/
def candidateLists (src : Array Byte) (chain window : Nat) : Array (List Nat) :=
  ((List.range src.size).foldl (fun (acc : Array (List Nat) × Array (List Nat)) i =>
    if i + 4 > src.size then (acc.1.push [], acc.2)
    else
      let h := hashAt src i
      let l := acc.2.getD h []
      (acc.1.push ((l.filter fun j => decide (i - j ≤ window)).take chain), acc.2.setIfInBounds h (i :: l)))
    (#[], (List.replicate 32768 []).toArray)).1

/-- The equal bytes from two positions, at most `fuel`. -/
def matchLen (src : Array Byte) : Nat → Nat → Nat → Nat
  | 0, _, _ => 0
  | fuel + 1, i, j => if src.getD i 0 = src.getD j 0 then matchLen src fuel (i + 1) (j + 1) + 1 else 0

/-- R325: the longest match at a position, the nearest among equals: (length, distance); none below 4 bytes. -/
def bestMatch (src : Array Byte) (cands : Array (List Nat)) (most i : Nat) : Option (Nat × Nat) :=
  let b := (cands.getD i []).foldl (fun (b : Nat × Nat) j =>
    let n := matchLen src most i j
    if b.1 < n then (n, i - j) else b) (0, 0)
  if b.1 < 4 then none else some b

/-- How a parse runs: source, candidates, greatest length, lazy depth. -/
structure LzEnv where
  src   : Array Byte
  cands : Array (List Nat)
  most  : Nat
  depth : Nat

/-- The match at a position of a block that ends at `top`. -/
def lzMatch (e : LzEnv) (top i : Nat) : Option (Nat × Nat) := bestMatch e.src e.cands (Nat.min e.most (top - i)) i

/-- R325: where the match that is taken begins: a later longer one within the lazy depth displaces it, and so on. -/
def settleMatch (e : LzEnv) (top : Nat) : Nat → Nat → Nat
  | 0, i => i
  | fuel + 1, i =>
    let n := ((lzMatch e top i).map (·.1)).getD 0
    match (List.range e.depth).find? fun d => decide (i + d + 1 < top) && decide (n < ((lzMatch e top (i + d + 1)).map (·.1)).getD 0) with
    | some d => settleMatch e top fuel (i + d + 1)
    | none => i

/-- One step of the parse of a block: a literal (length 0) or a match. -/
structure LzToken where
  lit  : Byte
  len  : Nat
  dist : Nat
deriving DecidableEq, Repr

/-- R325: the tokens of the block from `i` to `top`. -/
def parseBlock (e : LzEnv) (top : Nat) : Nat → Nat → List LzToken
  | 0, _ => []
  | fuel + 1, i =>
    if top ≤ i then []
    else
      match lzMatch e top i with
      | none => ⟨e.src.getD i 0, 0, 0⟩ :: parseBlock e top fuel (i + 1)
      | some _ =>
        let p := settleMatch e top (top - i) i
        match lzMatch e top p with
        | some (n, d) =>
          ((List.range (p - i)).map fun q => (⟨e.src.getD (i + q) 0, 0, 0⟩ : LzToken)) ++ ⟨0, n, d⟩ :: parseBlock e top fuel (p + n)
        | none => ⟨e.src.getD i 0, 0, 0⟩ :: parseBlock e top fuel (i + 1)

/-- R325: the blocks of an input: (first byte, end), cut every `size` bytes; one empty block for an empty input. -/
def blockCuts (n size : Nat) : List (Nat × Nat) :=
  (List.range (Nat.max 1 (ceilDiv n size))).map fun b => (size * b, Nat.min n (size * (b + 1)))

/-! ### Code lengths (R325) -/

/-- A coin of package-merge: weight, smallest symbol, every symbol in it. -/
structure Coin where
  weight : Nat
  first  : Nat
  syms   : List Nat
deriving DecidableEq, Repr

def insertCoin (c : Coin) : List Coin → List Coin
  | [] => [c]
  | x :: r => if c.weight < x.weight ∨ (c.weight = x.weight ∧ c.first < x.first) then c :: x :: r else x :: insertCoin c r

/-- Coins in pairs. -/
def packCoins : List Coin → List Coin
  | a :: b :: r => ⟨a.weight + b.weight, Nat.min a.first b.first, a.syms ++ b.syms⟩ :: packCoins r
  | _ => []

/-- The list after `n` rounds of packaging and merging. -/
def mergeCoins (leaves : List Coin) : Nat → List Coin
  | 0 => leaves
  | n + 1 => (packCoins (mergeCoins leaves n)).foldr insertCoin leaves

/-- R325: code lengths of at most `limit` bits for the counts of the symbols, by package-merge, ties by symbol value. -/
def codeLengths (counts : List Nat) (limit : Nat) : List Nat :=
  let used := (List.range counts.length).filter fun i => counts.getD i 0 != 0
  let leaves := (used.map fun i => (⟨counts.getD i 0, i, [i]⟩ : Coin)).foldr insertCoin []
  if used.length ≤ 1 then (List.range counts.length).map fun i => if used.contains i then 1 else 0
  else
    let chosen := ((mergeCoins leaves (limit - 1)).take (2 * used.length - 2)).flatMap (·.syms)
    (List.range counts.length).map fun i => (chosen.filter (· == i)).length

/-! ### DEFLATE (R323, R325) -/

/-- `n` bits of a number, least significant first; a code of `n` bits, most significant first. -/
def bitsLow (v n : Nat) : List Bool := (List.range n).map v.testBit
def bitsHigh (v n : Nat) : List Bool := (bitsLow v n).reverse

/-- The number that up to eight bits spell, least significant first. -/
def bitsByte (l : List Bool) : Nat := l.foldr (fun b a => 2 * a + if b then 1 else 0) 0

/-- Bits packed into bytes, least significant first. -/
def packBits : List Bool → List Byte
  | a :: b :: c :: d :: e :: f :: g :: h :: r => BitVec.ofNat 8 (bitsByte [a, b, c, d, e, f, g, h]) :: packBits r
  | [] => []
  | l => [BitVec.ofNat 8 (bitsByte l)]

/-- The canonical code of a symbol: its number and length. -/
def canonical (lens : List Nat) (s : Nat) : List Bool :=
  let l := lens.getD s 0
  let count (n : Nat) : Nat := (lens.filter (· == n)).length
  let first := (List.range l).foldl (fun a n => (a + if n = 0 then 0 else count n) * 2) 0
  bitsHigh (first + ((lens.take s).filter (· == l)).length) l

/-- The symbol of a base table, the extra value. -/
def symFor (bases : List Nat) (v : Nat) : Nat := ((List.range bases.length).filter fun i => decide (bases.getD i 0 ≤ v)).length - 1

/-- Literal and length symbol, distance symbol of a token. -/
def tokenLit (t : LzToken) : Nat := if t.len = 0 then t.lit.toNat else 257 + symFor lenBase t.len
def tokenDist (t : LzToken) : Option Nat := if t.len = 0 then none else some (symFor distBase t.dist)

/-- The bits of a token under two codes. -/
def tokenBits (lit dist : List Nat) (t : LzToken) : List Bool :=
  if t.len = 0 then canonical lit t.lit.toNat
  else
    let a := symFor lenBase t.len
    let b := symFor distBase t.dist
    canonical lit (257 + a) ++ bitsLow (t.len - lenBase.getD a 0) (lenExtra.getD a 0)
      ++ canonical dist b ++ bitsLow (t.dist - distBase.getD b 0) (distExtra.getD b 0)

/-- The bits of a block's tokens with the end of block. -/
def bodyBits (lit dist : List Nat) (ts : List LzToken) : List Bool := ts.flatMap (tokenBits lit dist) ++ canonical lit 256

/-- How often each of `n` symbols stands in a list. -/
def countSyms (n : Nat) (l : List Nat) : List Nat := (List.range n).map fun i => (l.filter (· == i)).length

/-- The lengths that code-length symbols spell, `acc` backwards (RFC 1951). -/
def expandRuns : List (Nat × Nat) → List Nat → Option (List Nat)
  | [], acc => some acc.reverse
  | (s, x) :: r, acc =>
    if s < 16 ∧ x = 0 then expandRuns r (s :: acc)
    else if s = 16 ∧ x < 4 then
      match acc with
      | [] => none
      | p :: _ => expandRuns r (List.replicate (3 + x) p ++ acc)
    else if s = 17 ∧ x < 8 then expandRuns r (List.replicate (3 + x) 0 ++ acc)
    else if s = 18 ∧ x < 128 then expandRuns r (List.replicate (11 + x) 0 ++ acc)
    else none

/-- The code lengths of a dynamic block: the spelling is free among those that spell them (log 27), each length by itself where the
free one does not; the code-length code by package-merge (R325). -/
def dynamicHeader (lit dist : List Nat) : List Bool :=
  let (hl, hd, hc, free) := Config.lengthRuns lit dist
  let ok := decide (257 ≤ hl) && decide (hl ≤ 286) && decide (1 ≤ hd) && decide (hd ≤ 30)
    && (lit.drop hl ++ dist.drop hd).all (· == 0) && expandRuns free [] == some (lit.take hl ++ dist.take hd)
  let (hl, hd, runs) := if ok then (hl, hd, free) else (286, 30, (lit ++ dist).map fun n => (n, 0))
  let cl := codeLengths (countSyms 19 (runs.map (·.1))) 7
  let len (s : Nat) : Nat := cl.getD s 0
  let hc := if 4 ≤ hc ∧ hc ≤ 19 ∧ (codeOrder.drop hc).all (fun s => len s == 0) then hc else 19
  bitsLow (hl - 257) 5 ++ bitsLow (hd - 1) 5 ++ bitsLow (hc - 4) 4 ++ ((codeOrder.take hc).flatMap fun s => bitsLow (len s) 3)
    ++ runs.flatMap fun (s, x) => canonical cl s ++ bitsLow x (if s = 16 then 2 else if s = 17 then 3 else if s = 18 then 7 else 0)

/-- R325: one DEFLATE block appended to the bits so far: the smallest of stored, fixed and dynamic, ties in that order. -/
def deflateBlock (bytes : List Byte) (ts : List LzToken) (final : Bool) (at' : Nat) : List Bool :=
  let head (type : Nat) : List Bool := final :: bitsLow type 2
  let pad := (8 - (at' + 3) % 8) % 8
  let stored := head 0 ++ List.replicate pad false ++ bitsLow bytes.length 16 ++ bitsLow (65535 - bytes.length) 16
    ++ bytes.flatMap fun b => bitsLow b.toNat 8
  let fixed := head 1 ++ bodyBits fixedLens (List.replicate 30 5) ts
  let lit := codeLengths (countSyms 286 (ts.map tokenLit ++ [256])) 15
  let dist := codeLengths (countSyms 30 (ts.filterMap tokenDist)) 15
  let dynamic := head 2 ++ dynamicHeader lit dist ++ bodyBits lit dist ts
  if stored.length ≤ fixed.length ∧ stored.length ≤ dynamic.length then stored
  else if fixed.length ≤ dynamic.length then fixed
  else dynamic

/-- R325: the blocks of an input as DEFLATE bits. -/
def deflateBits (e : LzEnv) (bs : List Byte) : List (Nat × Nat) → List Bool → List Bool
  | [], acc => acc
  | (a, b) :: r, acc =>
    deflateBits e bs r (acc ++ deflateBlock (sliceAt bs a (b - a)) (parseBlock e b (b - a + 1) a) r.isEmpty acc.length)

/-- What a parse needs for an input. -/
def lzEnv (bs : List Byte) (level window most : Nat) : LzEnv :=
  let src := bs.toArray
  ⟨src, candidateLists src (levelChain level) window, most, levelLazy level⟩

/-- R325: raw DEFLATE. -/
def deflateRaw (bs : List Byte) (level : Nat) : List Byte :=
  packBits (deflateBits (lzEnv bs level 32768 258) bs (blockCuts bs.length 16384) [])

/-! ### Zstandard (R323, R325) -/

/-- The literals of a block, and its sequences: literals before, offset, length. -/
def zstdSeqs : List LzToken → Nat → List Byte × List (Nat × Nat × Nat)
  | [], _ => ([], [])
  | t :: r, run =>
    if t.len = 0 then let (l, q) := zstdSeqs r (run + 1); (t.lit :: l, q)
    else let (l, q) := zstdSeqs r 0; (l, (run, t.dist, t.len) :: q)

/-- Bits in the order in which a backward stream is read, as its bytes: the set bit that ends it stands above them. -/
def backBytes (bits : List Bool) : List Byte :=
  leBytes (bits.length / 8 + 1) (bits.foldl (fun a b => 2 * a + if b then 1 else 0) 1)

/-- What decides the open choices of a block (log 27): input, level, window logarithm, block. -/
structure ZPick where
  input  : List Byte
  level  : Nat
  window : Nat
  block  : Nat

/-- One of several forms. -/
def pickForm {α : Type} (p : ZPick) (tag : Nat) (l : List α) (dflt : α) : α :=
  l.getD (Config.zstdChoice p.input p.level p.window (p.block, tag) % Nat.max 1 l.length) dflt

/-- R325: the lengths of the literals' Huffman code, at most 11 bits: those of package-merge, or others as short. -/
def literalLengths (counts : List Nat) : List Nat :=
  let merged := codeLengths counts 11
  let bits (l : List Nat) : Nat := ((counts.zip l).map fun (e : Nat × Nat) => e.1 * e.2).foldl (· + ·) 0
  let free := Config.literalLengths counts
  let room := (free.map fun n => if n = 0 then 0 else 2 ^ (11 - n)).foldl (· + ·) 0
  if free.length = 256 ∧ free.all (fun n => decide (n ≤ 11)) ∧ room = 2 ^ 11
      ∧ (counts.zip free).all (fun (e : Nat × Nat) => e.2 != 0 || e.1 == 0) ∧ bits free = bits merged then free else merged

/-- The weights of all symbols but the last of a code. -/
def lengthWeights (lens : List Nat) : List Nat :=
  let top := lens.foldl Nat.max 0
  let used := (List.range lens.length).filter fun s => lens.getD s 0 != 0
  (lens.take (used.getLastD 0)).map fun n => if n = 0 then 0 else top + 1 - n

/-- Weights of four bits each, two to a byte. -/
def directWeights (ws : List Nat) : List Byte :=
  leBytes 1 (127 + ws.length) ++ (List.range ((ws.length + 1) / 2)).map fun i => BitVec.ofNat 8 (16 * ws.getD (2 * i) 0 + ws.getD (2 * i + 1) 0)

/-- Does a description spell a code, and take all its bytes. -/
def spells (desc : List Byte) (c : LitCode) : Bool :=
  match readLitCode desc.toArray 0 desc.length with
  | some (x, p) => x.bits == c.bits && x.cells == c.cells && p == desc.length
  | none => false

/-- The description of a code's weights: the free one where it spells them, else four bits each where there are at most 128. -/
def weightBytes (lens : List Nat) (c : LitCode) : Option (List Byte) :=
  let ws := lengthWeights lens
  let free := Config.literalWeights lens
  if spells free c then some free else if ws.length ≤ 128 then some (directWeights ws) else none

/-- The bits of a literal. -/
def literalBits (c : LitCode) (s : Byte) : List Bool :=
  let at' := (c.cells.toList.findIdx? fun e => e.1 == s.toNat).getD 0
  let len := (c.cells.getD at' (0, 0)).2
  bitsHigh (at' / 2 ^ (c.bits - len)) len

/-- Literals as one stream, or as four with their jump table. -/
def literalStreams (c : LitCode) (four : Bool) (lits : List Byte) : List Byte :=
  let coded (l : List Byte) : List Byte := backBytes (l.flatMap (literalBits c))
  if !four then coded lits
  else
    let q := (lits.length + 3) / 4
    let ss := (List.range 4).map fun i => coded (if i = 3 then lits.drop (3 * q) else sliceAt lits (i * q) q)
    ((ss.take 3).flatMap fun x => leBytes 2 x.length) ++ ss.flatMap id

/-- A literals section of type 0 (raw): one of the headers that hold the number of literals. -/
def rawLiterals (p : ZPick) (lits : List Byte) : List Byte :=
  let n := lits.length
  let forms := [(0, 1, 3, 32), (1, 2, 4, 4096), (3, 3, 4, 2 ^ 20)].filter fun f => decide (n < f.2.2.2)
  let (fmt, bytes, low, _) := pickForm p 0 forms (3, 3, 4, 2 ^ 20)
  leBytes bytes (4 * fmt + n * 2 ^ low) ++ lits

/-- A literals section of type 2 (Huffman-coded): each form that holds its sizes. None where the literals have fewer than two symbols. -/
def codedLiterals (p : ZPick) (lits : List Byte) : Option (List Byte) :=
  let lens := literalLengths (countSyms 256 (lits.map (·.toNat)))
  match litCode (lengthWeights lens) with
  | none => none
  | some c =>
    (weightBytes lens c).bind fun desc =>
      let n := lits.length
      let form (f : Nat × Nat × Nat) : Option (List Byte) :=
        let body := desc ++ literalStreams c (f.1 != 0) lits
        if n < 2 ^ f.2.2 ∧ body.length < 2 ^ f.2.2 ∧ (f.1 = 0 ∨ 6 ≤ n) then
          some (leBytes f.2.1 (2 + 4 * f.1 + 16 * n + 2 ^ (4 + f.2.2) * body.length) ++ body)
        else none
      let forms := [(0, 3, 10), (1, 3, 10), (2, 4, 14), (3, 5, 18)].filterMap form
      if forms = [] then none else some (pickForm p 1 forms [])

/-- R325: literals are Huffman-coded, and raw where raw is no larger. -/
def literalsSection (p : ZPick) (lits : List Byte) : List Byte :=
  let raw := rawLiterals p lits
  match codedLiterals p lits with
  | some coded => if raw.length ≤ coded.length then raw else coded
  | none => raw

/-- R325: offset values: repeat offsets wherever the RFC permits them. -/
def offsetValues : List (Nat × Nat × Nat) → Nat × Nat × Nat → List Seq3 × (Nat × Nat × Nat)
  | [], rep => ([], rep)
  | (ll, d, ml) :: r, rep =>
    let v := ([1, 2, 3].find? fun v => (repOffset rep ll v).1 == d).getD (d + 3)
    let (q, rep) := offsetValues r (repOffset rep ll v).2
    ((ll, ml, v) :: q, rep)

/-- The code and the extra bits of a number in a table of (base, bits). -/
def codeFor (t : List (Nat × Nat)) (v : Nat) : Nat × List Bool :=
  let c := symFor (t.map (·.1)) v
  (c, bitsHigh (v - (t.getD c (0, 0)).1) (t.getD c (0, 0)).2)

/-- The states of a table that stand for a symbol; the one of them from which the next state is reached, with the bits that reach it. -/
def statesOf (t : FseTable) (sym : Nat) : List Nat := (List.range t.cells.size).filter fun s => (fseCell t s).1 == sym
def stateBefore (t : FseTable) (sym next : Nat) : Nat × List Bool :=
  let s := ((statesOf t sym).find? fun s =>
    decide ((fseCell t s).2.2 ≤ next) && decide (next < (fseCell t s).2.2 + 2 ^ (fseCell t s).2.1)).getD 0
  (s, bitsHigh (next - (fseCell t s).2.2) (fseCell t s).2.1)

/-- The states in which the codes of a table's symbols are read, with the bits to the next one: the last state is one of its symbol's. -/
def fsePath (t : FseTable) (last : Nat) : List Nat → List (Nat × List Bool)
  | [] => []
  | [_] => [(last, [])]
  | c :: r =>
    let path := fsePath t last r
    stateBefore t c ((path.headD (0, [])).1) :: path

/-- The path of a table over its codes, with a free last state. -/
def pickPath (p : ZPick) (tag : Nat) (t : FseTable) (codes : List Nat) : List (Nat × List Bool) :=
  let ends := statesOf t (codes.getLastD 0)
  fsePath t (pickForm p tag ends (ends.headD 0)) codes

/-- R325: the sequences section, by the predefined distributions. -/
def sequencesSection (p : ZPick) (seqs : List Seq3) : List Byte :=
  let n := seqs.length
  if n = 0 then [0]
  else
    let count := if n < 128 then leBytes 1 n else if n < 0x7F00 then beBytes 2 (n + 0x8000) else leBytes 1 255 ++ leBytes 2 (n - 0x7F00)
    let ll := seqs.map fun q => codeFor llCodes q.1
    let ml := seqs.map fun q => codeFor mlCodes q.2.1
    let of := seqs.map fun q => (Nat.log2 q.2.2, bitsHigh (q.2.2 - 2 ^ Nat.log2 q.2.2) (Nat.log2 q.2.2))
    let pl := pickPath p 2 llDefault (ll.map (·.1))
    let po := pickPath p 3 ofDefault (of.map (·.1))
    let pm := pickPath p 4 mlDefault (ml.map (·.1))
    let first (q : List (Nat × List Bool)) (log : Nat) : List Bool := bitsHigh (q.headD (0, [])).1 log
    let body := (List.range n).flatMap fun i =>
      (of.getD i (0, [])).2 ++ (ml.getD i (0, [])).2 ++ (ll.getD i (0, [])).2
        ++ (pl.getD i (0, [])).2 ++ (pm.getD i (0, [])).2 ++ (po.getD i (0, [])).2
    count ++ [0] ++ backBytes (first pl 6 ++ first po 5 ++ first pm 6 ++ body)

/-- R325: one block with its header, and the repeat offsets after it; raw where its coding is larger than its bytes. -/
def zstdCodeBlock (p : ZPick) (rep : Nat × Nat × Nat) (bytes : List Byte) (ts : List LzToken) (final : Bool) :
    List Byte × (Nat × Nat × Nat) :=
  let (lits, seqs) := zstdSeqs ts 0
  let (q, after) := offsetValues seqs rep
  let coded := literalsSection p lits ++ sequencesSection p q
  let raw := decide (bytes.length < coded.length)
  let body := if raw then bytes else coded
  (leBytes 3 ((if final then 1 else 0) + (if raw then 0 else 2 * 2) + 8 * body.length) ++ body, if raw then rep else after)

/-- The blocks of a frame, in order. -/
def zstdBlocksOf (e : LzEnv) (p : ZPick) : List (Nat × Nat) → Nat × Nat × Nat → List Byte
  | [], _ => []
  | (a, b) :: r, rep =>
    let (x, rep) := zstdCodeBlock p rep (sliceAt p.input a (b - a)) (parseBlock e b (b - a + 1) a) r.isEmpty
    x ++ zstdBlocksOf e { p with block := p.block + 1 } r rep

/-- R323: the frame header: single-segment when the input is at most the window, content size and checksum present, no dictionary
identifier; the width of the content size is free among those that hold it (log 27). -/
def zstdHead (n windowLog : Nat) : List Byte :=
  let single := decide (n ≤ 2 ^ windowLog)
  let fits (f : Nat) : Bool :=
    if f = 0 then single && decide (n < 256) else if f = 1 then decide (256 ≤ n) && decide (n < 65792) else decide (n < 2 ^ (8 * 2 ^ f))
  let free := Config.contentFlag n windowLog % 4
  let flag := if fits free then free else 3
  leBytes 1 (64 * flag + (if single then 32 else 0) + 4) ++ (if single then [] else leBytes 1 (8 * (windowLog - 10)))
    ++ leBytes (2 ^ flag) (if flag = 1 then n - 256 else n)

/-- R323, R324, R325: one frame: header, blocks of 131,072 bytes, checksum. -/
def zstdCompress (bs : List Byte) (level windowLog : Nat) : List Byte :=
  let e := lzEnv bs level (2 ^ windowLog) 4096
  leBytes 4 0xFD2FB528 ++ zstdHead bs.length windowLog ++ zstdBlocksOf e ⟨bs, level, windowLog, 0⟩ (blockCuts bs.length 131072) (1, 4, 8)
    ++ leBytes 4 (xxh64 bs)

/-- R327: the compress rate of a level in hundredths of a byte per cycle. -/
def levelRate (l : Nat) : Nat := [200, 160, 120, 90, 60, 40, 25, 12, 5].getD (l - 1) 5

/-- R323 to R325: compression of `bs` under a format code, a level and a window setting (0 means 23). -/
def compress (format level windowLog : Nat) (bs : List Byte) : List Byte :=
  if format = 0 then deflateRaw bs level
  else if format = 1 then
    let flevel := Config.zlibLevel level % 4
    let head := 0x78 * 256 + flevel * 64
    beBytes 2 (head + (31 - head % 31) % 31) ++ deflateRaw bs level ++ beBytes 4 (adler32 bs)
  else if format = 2 then
    leBytes 4 0x00088B1F ++ leBytes 4 0 ++ leBytes 1 (Config.gzipExtra level) ++ leBytes 1 255 ++ deflateRaw bs level
      ++ leBytes 4 (crc32 bs) ++ leBytes 4 bs.length
  else zstdCompress bs level (if windowLog = 0 then 23 else windowLog)

end Sys2Proof.Machine
end

