-- ==== Sys2Proof/Machine/Dict.lean ====
section
/-! DEFINITION. The object dictionary as a register file (R377 to R381): what subentries exist, their types, rights,
persistence and defaults, who reaches them, and reading and writing their stored values. -/
namespace Sys2Proof.Machine
open Sys2Proof

/-- R378: the type of a subentry. A str or blob carries its greatest length, and whether it is written whole. -/
inductive ObjType where
  | bool | u8 | u16 | u32 | u64 | i32 | i64
  | str (max : Nat)
  | blob (max : Nat) (whole : Bool)
deriving DecidableEq, Repr

/-- R379: access rights. -/
inductive Access where
  | ro | rw | rwi | wo | const
deriving DecidableEq, Repr

/-- R379: persistence classes. -/
inductive Pers where
  | none | v | w | f
deriving DecidableEq, Repr

/-- One row of an owning table: subindices `first … last` share it. -/
structure Obj where
  first  : Nat
  last   : Nat
  ty     : ObjType
  access : Access
  pers   : Pers
  dflt   : Nat
deriving DecidableEq, Repr

/-- The subentries of #1000 (R377, R378). -/
def objs1000 : List Obj :=
  [⟨0x00, 0x00, .u8, .const, .none, 14⟩,
   ⟨0x01, 0x01, (.str 255), .const, .none, 0⟩,
   ⟨0x02, 0x02, (.str 255), .const, .none, 0⟩,
   ⟨0x03, 0x03, .u8, .const, .none, 0⟩,
   ⟨0x04, 0x04, .u8, .const, .none, 2⟩,
   ⟨0x05, 0x05, .u64, .const, .none, 0⟩,
   ⟨0x06, 0x06, .u16, .const, .none, 0⟩,
   ⟨0x07, 0x07, .u16, .const, .none, 1⟩,
   ⟨0x08, 0x08, (.blob 48 true), .const, .none, 0⟩,
   ⟨0x09, 0x09, .u16, .const, .none, 0⟩,
   ⟨0x0A, 0x0A, .u16, .const, .none, 0⟩,
   ⟨0x0B, 0x0B, (.blob 48 true), .const, .none, 0⟩,
   ⟨0x0C, 0x0C, (.blob 48 true), .const, .none, 0⟩,
   ⟨0x0D, 0x0D, (.blob 48 true), .ro, .f, 0⟩,
   ⟨0x0E, 0x0E, (.blob 6 true), .const, .none, 0⟩]

/-- The subentries of #1100 (R377, R378). -/
def objs1100 : List Obj :=
  [⟨0x00, 0x00, .u8, .const, .none, 12⟩,
   ⟨0x01, 0x01, .u8, .rw, .w, 0⟩,
   ⟨0x02, 0x02, .u8, .rw, .f, 1⟩,
   ⟨0x03, 0x03, .u32, .rw, .f, 0⟩,
   ⟨0x04, 0x04, .u8, .rw, .f, 24⟩,
   ⟨0x05, 0x05, .u32, .rw, .f, 0⟩,
   ⟨0x06, 0x06, (.blob 16 true), .rw, .f, 0⟩,
   ⟨0x07, 0x07, .bool, .rw, .f, 1⟩,
   ⟨0x08, 0x08, (.blob 32 true), .wo, .f, 0⟩,
   ⟨0x09, 0x09, .u64, .ro, .f, 0⟩,
   ⟨0x0A, 0x0A, .bool, .rw, .f, 1⟩,
   ⟨0x0B, 0x0B, .u64, .ro, .w, 0⟩,
   ⟨0x0C, 0x0C, .u64, .ro, .w, 0⟩]

/-- The subentries of #1110 (R377, R378). -/
def objs1110 : List Obj :=
  [⟨0x00, 0x00, .u8, .const, .none, 8⟩,
   ⟨0x01, 0x01, .u8, .rwi, .w, 0⟩,
   ⟨0x02, 0x02, .u64, .rwi, .w, 0⟩,
   ⟨0x03, 0x03, .u64, .rwi, .w, 0⟩,
   ⟨0x04, 0x04, .u64, .rwi, .w, 0⟩,
   ⟨0x05, 0x05, .u32, .rwi, .w, 0⟩,
   ⟨0x06, 0x06, .u64, .rwi, .w, 1⟩,
   ⟨0x07, 0x07, .u16, .rwi, .w, 0xffff⟩,
   ⟨0x08, 0x08, .u64, .ro, .v, 0⟩]

/-- The subentries of #1130 (R377, R378). -/
def objs1130 : List Obj :=
  [⟨0x00, 0x00, .u8, .const, .none, 6⟩,
   ⟨0x01, 0x01, .u8, .rwi, .w, 0⟩,
   ⟨0x02, 0x02, .u64, .rwi, .w, 0⟩,
   ⟨0x03, 0x03, .u64, .rwi, .w, 0⟩,
   ⟨0x04, 0x04, .u64, .rwi, .w, 0⟩,
   ⟨0x05, 0x05, .u32, .rwi, .w, 0⟩,
   ⟨0x06, 0x06, .u32, .rwi, .w, 0⟩]

/-- The subentries of #1200 (R377, R378). -/
def objs1200 : List Obj :=
  [⟨0x00, 0x00, .u8, .const, .none, 17⟩,
   ⟨0x01, 0x01, .u8, .wo, .v, 0⟩,
   ⟨0x02, 0x02, .u8, .rw, .v, 0⟩,
   ⟨0x03, 0x03, .u16, .ro, .v, 0⟩,
   ⟨0x04, 0x04, .u8, .ro, .v, 0⟩,
   ⟨0x05, 0x05, (.blob 28 true), .ro, .f, 0⟩,
   ⟨0x06, 0x06, .u32, .ro, .f, 0⟩,
   ⟨0x07, 0x07, .u32, .ro, .v, 0⟩,
   ⟨0x08, 0x08, .u32, .ro, .v, 0⟩,
   ⟨0x09, 0x09, (.blob 8192 true), .ro, .v, 0⟩,
   ⟨0x0A, 0x0A, .bool, .ro, .v, 0⟩,
   ⟨0x0B, 0x0B, .u32, .ro, .f, 0⟩,
   ⟨0x0C, 0x0C, .u32, .rw, .v, 1⟩,
   ⟨0x0D, 0x0D, (.blob 16 true), .ro, .v, 0⟩,
   ⟨0x0E, 0x0E, .u32, .wo, .v, 0⟩,
   ⟨0x0F, 0x0F, .u16, .ro, .v, 0⟩,
   ⟨0x10, 0x10, .u8, .ro, .v, 0⟩,
   ⟨0x11, 0x11, .u8, .wo, .v, 0⟩]

/-- The subentries of #1300 (R377, R378). -/
def objs1300 : List Obj :=
  [⟨0x00, 0x00, .u8, .const, .none, 19⟩,
   ⟨0x01, 0x01, .u8, .ro, .v, 0⟩,
   ⟨0x02, 0x02, (.blob 48 true), .ro, .v, 0⟩,
   ⟨0x03, 0x03, (.blob 48 true), .ro, .v, 0⟩,
   ⟨0x04, 0x04, .bool, .ro, .f, 0⟩,
   ⟨0x05, 0x05, (.blob 48 true), .ro, .f, 0⟩,
   ⟨0x06, 0x06, (.blob 48 true), .ro, .f, 0⟩,
   ⟨0x07, 0x07, .u32, .ro, .f, 0⟩,
   ⟨0x08, 0x08, .u64, .rw, .v, 0⟩,
   ⟨0x09, 0x09, .u32, .rw, .v, 0⟩,
   ⟨0x0A, 0x0A, .u8, .wo, .v, 0⟩,
   ⟨0x0B, 0x0B, .u16, .ro, .v, 0⟩,
   ⟨0x0C, 0x0C, (.blob 32 true), .rw, .v, 0⟩,
   ⟨0x0D, 0x0D, .u64, .rw, .v, 0⟩,
   ⟨0x0E, 0x0E, .u32, .rw, .v, 0⟩,
   ⟨0x0F, 0x0F, .u8, .wo, .v, 0⟩,
   ⟨0x10, 0x10, .u16, .ro, .v, 0⟩,
   ⟨0x11, 0x11, .u32, .ro, .v, 0⟩,
   ⟨0x12, 0x12, (.blob 65535 false), .const, .none, 0⟩,
   ⟨0x13, 0x13, (.blob 65535 false), .const, .none, 0⟩]

/-- The subentries of #2000 (R377, R378). -/
def objs2000 : List Obj :=
  [⟨0x00, 0x00, .u8, .const, .none, 13⟩,
   ⟨0x01, 0x01, .u8, .rwi, .f, 7⟩,
   ⟨0x02, 0x02, .u32, .rwi, .f, 0x4e20⟩,
   ⟨0x03, 0x03, .u16, .rw, .f, 30⟩,
   ⟨0x04, 0x04, .u8, .rw, .f, 7⟩,
   ⟨0x05, 0x05, .u8, .rw, .f, 0⟩,
   ⟨0x06, 0x06, .u8, .rw, .f, 127⟩,
   ⟨0x07, 0x07, .u8, .ro, .v, 4⟩,
   ⟨0x08, 0x08, .u32, .ro, .v, 0x3111⟩,
   ⟨0x09, 0x09, .u64, .ro, .v, 0⟩,
   ⟨0x0A, 0x0A, .i64, .ro, .v, 0⟩,
   ⟨0x0B, 0x0B, .u32, .ro, .w, 0⟩,
   ⟨0x0C, 0x0C, .u64, .ro, .w, 0⟩,
   ⟨0x0D, 0x0D, .u64, .wo, .v, 0⟩]

/-- The subentries of #2100 (R377, R378). -/
def objs2100 : List Obj :=
  [⟨0x00, 0x00, .u8, .const, .none, 10⟩,
   ⟨0x01, 0x01, .u16, .rw, .f, 0x384⟩,
   ⟨0x02, 0x02, .u16, .rw, .f, 200⟩,
   ⟨0x03, 0x03, .u16, .rw, .f, 200⟩,
   ⟨0x04, 0x04, .u64, .ro, .v, 0⟩,
   ⟨0x05, 0x05, .u64, .ro, .w, 0⟩,
   ⟨0x06, 0x06, .u16, .ro, .v, 0⟩,
   ⟨0x07, 0x07, .u64, .ro, .w, 0⟩,
   ⟨0x08, 0x08, .u16, .ro, .v, 0x384⟩,
   ⟨0x09, 0x09, .u16, .rw, .f, 8⟩,
   ⟨0x0A, 0x0A, .u32, .ro, .w, 0⟩]

/-- The subentries of #3000 (R377, R378). -/
def objs3000 : List Obj :=
  [⟨0x00, 0x00, .u8, .const, .none, 24⟩,
   ⟨0x01, 0x01, .u16, .rw, .f, 0x898⟩,
   ⟨0x02, 0x02, .bool, .rw, .f, 1⟩,
   ⟨0x03, 0x03, .u8, .rw, .f, 100⟩,
   ⟨0x04, 0x04, .u8, .rw, .f, 90⟩,
   ⟨0x05, 0x05, .u32, .ro, .v, 0⟩,
   ⟨0x06, 0x06, .u16, .ro, .v, 0x3e8⟩,
   ⟨0x07, 0x07, .u16, .const, .none, 0⟩,
   ⟨0x08, 0x08, .u16, .const, .none, 0⟩,
   ⟨0x09, 0x09, .u8, .ro, .v, 0⟩,
   ⟨0x0A, 0x10, .u64, .ro, .w, 0⟩,
   ⟨0x11, 0x11, (.blob 8 true), .ro, .v, 0⟩,
   ⟨0x12, 0x12, (.blob 20 true), .ro, .v, 0⟩,
   ⟨0x13, 0x13, (.blob 48 true), .ro, .v, 0⟩,
   ⟨0x14, 0x14, (.blob 160 true), .ro, .v, 0⟩,
   ⟨0x15, 0x15, (.blob 80 true), .rw, .f, 0⟩,
   ⟨0x16, 0x16, (.blob 512 true), .const, .none, 0⟩,
   ⟨0x17, 0x17, .u64, .ro, .w, 0⟩,
   ⟨0x18, 0x18, .u32, .ro, .f, 0⟩]

/-- The subentries of #4000 (R377, R378). -/
def objs4000 : List Obj :=
  [⟨0x00, 0x00, .u8, .const, .none, 19⟩,
   ⟨0x01, 0x01, .u64, .ro, .v, 0x1802ba9f400⟩,
   ⟨0x02, 0x02, .u64, .ro, .v, 0⟩,
   ⟨0x03, 0x03, .u32, .ro, .f, 0⟩,
   ⟨0x04, 0x04, .u8, .ro, .v, 0⟩,
   ⟨0x05, 0x05, .u16, .ro, .v, 0x1700⟩,
   ⟨0x06, 0x06, .bool, .rw, .f, 1⟩,
   ⟨0x07, 0x07, .u64, .rwi, .f, 0⟩,
   ⟨0x08, 0x08, .u8, .ro, .v, 0⟩,
   ⟨0x09, 0x09, (.blob 204800 false), .ro, .v, 0⟩,
   ⟨0x0A, 0x0A, .u64, .ro, .w, 0⟩,
   ⟨0x0B, 0x0B, .u64, .ro, .w, 0⟩,
   ⟨0x0C, 0x0C, .u64, .ro, .w, 0⟩,
   ⟨0x0D, 0x0D, .u64, .ro, .w, 0⟩,
   ⟨0x0E, 0x0E, .u8, .wo, .v, 0⟩,
   ⟨0x0F, 0x0F, .u16, .ro, .v, 0⟩,
   ⟨0x10, 0x10, .u64, .rw, .v, 0⟩,
   ⟨0x11, 0x11, .u64, .rw, .v, 0⟩,
   ⟨0x12, 0x12, .u8, .wo, .v, 0⟩,
   ⟨0x13, 0x13, .u16, .ro, .v, 0⟩]

/-- The subentries of #4001 (R377, R378). -/
def objs4001 : List Obj :=
  [⟨0x00, 0x00, .u8, .const, .none, 7⟩,
   ⟨0x01, 0x01, .u8, .ro, .f, 0⟩,
   ⟨0x02, 0x02, .u64, .ro, .w, 0⟩,
   ⟨0x03, 0x03, .u64, .ro, .w, 0⟩,
   ⟨0x04, 0x04, .u16, .ro, .f, 0⟩,
   ⟨0x05, 0x05, .u32, .ro, .w, 0⟩,
   ⟨0x06, 0x06, .u64, .ro, .v, 0⟩,
   ⟨0x07, 0x07, .u32, .rw, .f, 0x3e8⟩]

/-- The subentries of #4100 (R377, R378). -/
def objs4100 : List Obj :=
  [⟨0x00, 0x00, .u8, .const, .none, 81⟩,
   ⟨0x01, 0x01, .u16, .ro, .v, 0xffff⟩,
   ⟨0x02, 0x02, .u16, .ro, .f, 0xffff⟩,
   ⟨0x03, 0x03, .u16, .rw, .f, 0xffff⟩,
   ⟨0x04, 0x04, .u64, .ro, .v, 0⟩,
   ⟨0x05, 0x05, .u16, .ro, .v, 0⟩,
   ⟨0x06, 0x06, .u8, .ro, .v, 0⟩,
   ⟨0x07, 0x07, .u32, .ro, .w, 0⟩,
   ⟨0x08, 0x08, (.blob 32768 true), .ro, .v, 0⟩,
   ⟨0x09, 0x09, .u16, .rwi, .f, 0xffff⟩,
   ⟨0x0A, 0x0A, .u16, .rw, .v, 0xffff⟩,
   ⟨0x0B, 0x0B, .u64, .rw, .v, 0⟩,
   ⟨0x0C, 0x0C, .u64, .rw, .v, 0⟩,
   ⟨0x0D, 0x0D, .u64, .rw, .v, 0⟩,
   ⟨0x0E, 0x0E, .u8, .wo, .v, 0⟩,
   ⟨0x0F, 0x0F, .u16, .ro, .v, 0⟩,
   ⟨0x10, 0x10, .u64, .ro, .w, 0⟩,
   ⟨0x11, 0x11, .u32, .ro, .w, 0⟩,
   ⟨0x12, 0x31, (.blob 132 true), .rwi, .f, 0⟩,
   ⟨0x32, 0x51, (.blob 512 true), .ro, .v, 0⟩]

/-- The subentries of #4101 (R377, R378). -/
def objs4101 : List Obj :=
  [⟨0x00, 0x00, .u8, .const, .none, 12⟩,
   ⟨0x01, 0x01, .bool, .rw, .f, 1⟩,
   ⟨0x02, 0x02, .u8, .ro, .v, 0⟩,
   ⟨0x03, 0x03, .u64, .ro, .v, 0⟩,
   ⟨0x04, 0x04, .u16, .ro, .v, 0xffff⟩,
   ⟨0x05, 0x05, .u8, .ro, .v, 255⟩,
   ⟨0x06, 0x06, .u8, .ro, .v, 0⟩,
   ⟨0x07, 0x07, .u64, .ro, .w, 0⟩,
   ⟨0x08, 0x08, .u64, .ro, .w, 0⟩,
   ⟨0x09, 0x09, .u64, .ro, .w, 0⟩,
   ⟨0x0A, 0x0A, .u64, .ro, .w, 0⟩,
   ⟨0x0B, 0x0B, .u32, .ro, .w, 0⟩,
   ⟨0x0C, 0x0C, .u32, .ro, .v, 0⟩]

/-- The subentries of #5000 (R377, R378). -/
def objs5000 : List Obj :=
  [⟨0x00, 0x00, .u8, .const, .none, 5⟩,
   ⟨0x01, 0x01, .bool, .rwi, .f, 1⟩,
   ⟨0x02, 0x02, .bool, .rwi, .f, 0⟩,
   ⟨0x03, 0x03, .u8, .rw, .v, 0⟩,
   ⟨0x04, 0x04, .u16, .rw, .v, 0⟩,
   ⟨0x05, 0x05, .u8, .rw, .v, 0⟩]

/-- The subentries of #5010 (R377, R378). -/
def objs5010 : List Obj :=
  [⟨0x00, 0x00, .u8, .const, .none, 7⟩,
   ⟨0x01, 0x01, .u64, .ro, .w, 0⟩,
   ⟨0x02, 0x02, .u16, .rw, .v, 0xffff⟩,
   ⟨0x03, 0x03, .u64, .rw, .v, 0⟩,
   ⟨0x04, 0x04, .u32, .rw, .v, 0⟩,
   ⟨0x05, 0x05, .u32, .ro, .v, 0⟩,
   ⟨0x06, 0x06, .u32, .ro, .v, 0⟩,
   ⟨0x07, 0x07, .u64, .ro, .w, 0⟩]

/-- The subentries of #5020 (R377, R378). -/
def objs5020 : List Obj :=
  [⟨0x00, 0x00, .u8, .const, .none, 12⟩,
   ⟨0x01, 0x01, .u8, .rwi, .f, 0⟩,
   ⟨0x02, 0x02, .u16, .rwi, .f, 0xffff⟩,
   ⟨0x03, 0x03, .u16, .rwi, .f, 0xffff⟩,
   ⟨0x04, 0x04, .u8, .rw, .f, 0⟩,
   ⟨0x05, 0x05, .bool, .rw, .f, 0⟩,
   ⟨0x06, 0x06, .u16, .rw, .f, 8⟩,
   ⟨0x07, 0x07, .u8, .ro, .v, 0⟩,
   ⟨0x08, 0x08, .u64, .ro, .w, 0⟩,
   ⟨0x09, 0x09, .u64, .ro, .w, 0⟩,
   ⟨0x0A, 0x0A, (.blob 34 true), .ro, .v, 0⟩,
   ⟨0x0B, 0x0B, .u64, .ro, .w, 0⟩,
   ⟨0x0C, 0x0C, .u8, .wo, .v, 0⟩]

/-- The subentries of #5100 (R377, R378). -/
def objs5100 : List Obj :=
  [⟨0x00, 0x00, .u8, .const, .none, 37⟩,
   ⟨0x01, 0x20, .u32, .ro, .w, 0⟩,
   ⟨0x21, 0x21, .u8, .rw, .v, 0⟩,
   ⟨0x22, 0x22, .u64, .rw, .v, 0⟩,
   ⟨0x23, 0x23, .u32, .rw, .v, 0⟩,
   ⟨0x24, 0x24, .u8, .wo, .v, 0⟩,
   ⟨0x25, 0x25, .u16, .ro, .v, 0⟩]

/-- The subentries of #5200 (R377, R378). -/
def objs5200 : List Obj :=
  [⟨0x00, 0x00, .u8, .const, .none, 18⟩,
   ⟨0x01, 0x01, .u8, .ro, .v, 0⟩,
   ⟨0x02, 0x02, .u32, .ro, .v, 0⟩,
   ⟨0x03, 0x03, .u32, .ro, .v, 0⟩,
   ⟨0x04, 0x04, .u16, .ro, .v, 0⟩,
   ⟨0x05, 0x05, .u16, .ro, .v, 0⟩,
   ⟨0x06, 0x06, (.blob 81920 false), .ro, .v, 0⟩,
   ⟨0x07, 0x07, .u8, .rw, .v, 0⟩,
   ⟨0x08, 0x08, .u64, .rw, .v, 0⟩,
   ⟨0x09, 0x09, .u32, .rw, .v, 0⟩,
   ⟨0x0A, 0x0A, .u32, .rw, .v, 0⟩,
   ⟨0x0B, 0x0B, .u16, .rw, .v, 0⟩,
   ⟨0x0C, 0x0C, .u8, .wo, .v, 0⟩,
   ⟨0x0D, 0x0D, .u16, .ro, .v, 0⟩,
   ⟨0x0E, 0x0E, .u64, .ro, .w, 0⟩,
   ⟨0x0F, 0x0F, .u64, .ro, .w, 0⟩,
   ⟨0x10, 0x10, .u64, .ro, .w, 0⟩,
   ⟨0x11, 0x11, .u64, .ro, .f, 0⟩,
   ⟨0x12, 0x12, .u64, .ro, .f, 0⟩]

/-- The subentries of #6000 (R377, R378). -/
def objs6000 : List Obj :=
  [⟨0x00, 0x00, .u8, .const, .none, 7⟩,
   ⟨0x01, 0x01, .u64, .rwi, .f, 0xee6b28000⟩,
   ⟨0x02, 0x02, .u32, .ro, .v, 0⟩,
   ⟨0x03, 0x03, .u32, .ro, .v, 0⟩,
   ⟨0x04, 0x04, .u64, .ro, .w, 0⟩,
   ⟨0x05, 0x05, .u64, .ro, .w, 0⟩,
   ⟨0x06, 0x06, .u64, .ro, .w, 0⟩,
   ⟨0x07, 0x07, .u64, .ro, .w, 0⟩]

/-- The subentries of #6001 (R377, R378). -/
def objs6001 : List Obj :=
  [⟨0x00, 0x00, .u8, .const, .none, 12⟩,
   ⟨0x01, 0x01, .bool, .rwi, .f, 0⟩,
   ⟨0x02, 0x02, .u8, .ro, .v, 0⟩,
   ⟨0x03, 0x03, (.blob 6 true), .const, .none, 0⟩,
   ⟨0x04, 0x04, .u32, .rwi, .f, 0⟩,
   ⟨0x05, 0x05, .u8, .rwi, .f, 24⟩,
   ⟨0x06, 0x06, .u32, .rwi, .f, 0⟩,
   ⟨0x07, 0x07, (.blob 16 true), .rwi, .f, 0⟩,
   ⟨0x08, 0x08, .u16, .rwi, .f, 0xffff⟩,
   ⟨0x09, 0x09, .u16, .rwi, .f, 0x5dc⟩,
   ⟨0x0A, 0x0A, .u64, .ro, .w, 0⟩,
   ⟨0x0B, 0x0B, .u64, .ro, .w, 0⟩,
   ⟨0x0C, 0x0C, .u64, .ro, .w, 0⟩]

/-- The subentries of #6100 (R377, R378). -/
def objs6100 : List Obj :=
  [⟨0x00, 0x00, .u8, .const, .none, 9⟩,
   ⟨0x01, 0x01, .u8, .const, .none, 1⟩,
   ⟨0x02, 0x02, .u16, .ro, .f, 0⟩,
   ⟨0x03, 0x03, .u16, .ro, .f, 0⟩,
   ⟨0x04, 0x04, .u8, .ro, .f, 0⟩,
   ⟨0x05, 0x05, .u8, .ro, .w, 1⟩,
   ⟨0x06, 0x06, .u8, .rw, .v, 1⟩,
   ⟨0x07, 0x07, .u64, .rw, .v, 0⟩,
   ⟨0x08, 0x08, .u8, .wo, .v, 0⟩,
   ⟨0x09, 0x09, .u16, .ro, .v, 0⟩]

/-- The subentries of #6200 (R377, R378). -/
def objs6200 : List Obj :=
  [⟨0x00, 0x00, .u8, .const, .none, 5⟩,
   ⟨0x01, 0x01, .u8, .const, .none, 1⟩,
   ⟨0x02, 0x02, .u8, .ro, .f, 0⟩,
   ⟨0x03, 0x03, .u64, .ro, .w, 0⟩,
   ⟨0x04, 0x04, .u64, .ro, .w, 0⟩,
   ⟨0x05, 0x05, .u64, .ro, .w, 0⟩]

/-- The subentries of #7000 (R377, R378). -/
def objs7000 : List Obj :=
  [⟨0x00, 0x00, .u8, .const, .none, 13⟩,
   ⟨0x01, 0x01, .u8, .ro, .w, 0⟩,
   ⟨0x02, 0x02, .u64, .rw, .v, 0⟩,
   ⟨0x03, 0x03, .u64, .rw, .v, 0⟩,
   ⟨0x04, 0x04, .u8, .wo, .v, 0⟩,
   ⟨0x05, 0x05, .u16, .ro, .v, 0⟩,
   ⟨0x06, 0x06, .u32, .ro, .w, 0⟩,
   ⟨0x07, 0x07, .u16, .ro, .w, 0⟩,
   ⟨0x08, 0x08, (.blob 48 true), .ro, .w, 0⟩,
   ⟨0x09, 0x09, .u8, .ro, .w, 0⟩,
   ⟨0x0A, 0x0A, .u8, .ro, .w, 0⟩,
   ⟨0x0B, 0x0B, .u16, .ro, .v, 0⟩,
   ⟨0x0C, 0x0C, .u8, .ro, .w, 0⟩,
   ⟨0x0D, 0x0D, .u8, .ro, .w, 0⟩]

/-- The subentries of #8000 (R377, R378). -/
def objs8000 : List Obj :=
  [⟨0x00, 0x00, .u8, .const, .none, 66⟩,
   ⟨0x01, 0x01, .u16, .rwi, .w, 0xffff⟩,
   ⟨0x02, 0x02, .u8, .ro, .w, 0⟩,
   ⟨0x03, 0x03, .u8, .wo, .v, 0⟩,
   ⟨0x04, 0x04, .u16, .ro, .v, 0⟩,
   ⟨0x05, 0x05, .u16, .ro, .v, 0⟩,
   ⟨0x06, 0x07, .u16, .rwi, .w, 0⟩,
   ⟨0x08, 0x08, .u32, .rwi, .w, 60⟩,
   ⟨0x09, 0x09, .u32, .rwi, .w, 1⟩,
   ⟨0x0A, 0x0A, .u8, .rwi, .w, 0⟩,
   ⟨0x0B, 0x0B, .u8, .rwi, .w, 10⟩,
   ⟨0x0C, 0x0C, .u8, .rwi, .w, 2⟩,
   ⟨0x0D, 0x0D, .u8, .rwi, .w, 2⟩,
   ⟨0x0E, 0x0E, .u64, .rwi, .w, 0⟩,
   ⟨0x0F, 0x0F, .u64, .rwi, .w, 0⟩,
   ⟨0x10, 0x10, .u64, .rwi, .w, 0⟩,
   ⟨0x11, 0x11, .u16, .rwi, .w, 0⟩,
   ⟨0x12, 0x12, .u16, .rwi, .w, 0xffff⟩,
   ⟨0x13, 0x13, .u16, .rwi, .w, 0xffff⟩,
   ⟨0x14, 0x14, .bool, .rwi, .w, 0⟩,
   ⟨0x15, 0x15, .u8, .rwi, .w, 2⟩,
   ⟨0x16, 0x16, .u8, .rwi, .w, 32⟩,
   ⟨0x17, 0x17, .u16, .rwi, .w, 0⟩,
   ⟨0x18, 0x18, .bool, .rwi, .w, 0⟩,
   ⟨0x19, 0x19, .u16, .rwi, .w, 0⟩,
   ⟨0x1A, 0x1A, .u16, .rwi, .w, 0⟩,
   ⟨0x1B, 0x1B, .u8, .rwi, .w, 1⟩,
   ⟨0x1C, 0x1C, .u64, .wo, .v, 0⟩,
   ⟨0x1D, 0x1D, .u16, .ro, .v, 0⟩,
   ⟨0x1E, 0x1E, .u8, .rwi, .w, 255⟩,
   ⟨0x1F, 0x1F, .u8, .rwi, .w, 51⟩,
   ⟨0x20, 0x20, .u8, .rwi, .w, 0⟩,
   ⟨0x21, 0x21, .u8, .rwi, .w, 1⟩,
   ⟨0x22, 0x22, .u8, .rwi, .w, 0⟩,
   ⟨0x23, 0x23, .bool, .rwi, .w, 0⟩,
   ⟨0x24, 0x24, .u8, .rwi, .w, 4⟩,
   ⟨0x25, 0x25, (.blob 24 true), .rwi, .w, 0⟩,
   ⟨0x26, 0x26, .u8, .rwi, .w, 0⟩,
   ⟨0x27, 0x27, .u16, .rwi, .w, 0xffff⟩,
   ⟨0x28, 0x29, (.blob 40 true), .rwi, .w, 0⟩,
   ⟨0x2A, 0x2A, .u8, .rwi, .w, 0⟩,
   ⟨0x2B, 0x2B, .u8, .rwi, .w, 96⟩,
   ⟨0x2C, 0x2C, .u8, .rwi, .w, 10⟩,
   ⟨0x2D, 0x2D, (.str 255), .rwi, .w, 0⟩,
   ⟨0x2E, 0x31, .u16, .rwi, .w, 0xffff⟩,
   ⟨0x32, 0x32, .bool, .rwi, .w, 0⟩,
   ⟨0x33, 0x34, .u64, .rw, .v, 0⟩,
   ⟨0x35, 0x36, .u64, .rw, .v, 0⟩,
   ⟨0x37, 0x37, .u64, .ro, .v, 0⟩,
   ⟨0x38, 0x38, .u8, .ro, .v, 255⟩,
   ⟨0x39, 0x39, .u64, .ro, .w, 0⟩,
   ⟨0x3A, 0x3A, .u16, .ro, .v, 0⟩,
   ⟨0x3B, 0x3B, .u8, .ro, .v, 0⟩,
   ⟨0x3C, 0x3C, .u64, .ro, .w, 0⟩,
   ⟨0x3D, 0x3D, .u64, .ro, .w, 0⟩,
   ⟨0x3E, 0x3E, .u64, .ro, .w, 0⟩,
   ⟨0x3F, 0x3F, .u64, .ro, .w, 0⟩,
   ⟨0x40, 0x40, .u64, .ro, .w, 0⟩,
   ⟨0x41, 0x41, .u64, .ro, .w, 0⟩,
   ⟨0x42, 0x42, .u64, .ro, .w, 0⟩]

/-- The subentries of #C000 (R377, R378). -/
def objsC000 : List Obj :=
  [⟨0x00, 0x00, .u8, .const, .none, 75⟩,
   ⟨0x01, 0x01, .u16, .ro, .v, 0xffff⟩,
   ⟨0x02, 0x02, .u16, .rwi, .w, 0x4b0⟩,
   ⟨0x03, 0x03, .u8, .rwi, .w, 2⟩,
   ⟨0x04, 0x04, .u8, .rwi, .w, 96⟩,
   ⟨0x05, 0x05, .u8, .ro, .v, 0⟩,
   ⟨0x06, 0x06, .u64, .ro, .v, 0⟩,
   ⟨0x07, 0x07, .u64, .ro, .v, 0⟩,
   ⟨0x08, 0x08, .u64, .ro, .v, 0⟩,
   ⟨0x09, 0x09, .u64, .ro, .w, 0⟩,
   ⟨0x0A, 0x0A, .u64, .ro, .w, 0⟩,
   ⟨0x0B, 0x0B, .u64, .ro, .w, 0⟩,
   ⟨0x0C, 0x4B, (.blob 32 true), .rw, .w, 0⟩]

/-- The subentries of #E000 (R377, R378). -/
def objsE000 : List Obj :=
  [⟨0x00, 0x00, .u8, .const, .none, 5⟩,
   ⟨0x01, 0x01, .u64, .ro, .w, 0⟩,
   ⟨0x02, 0x02, .u64, .rw, .v, 1⟩,
   ⟨0x03, 0x03, (.blob 32 true), .ro, .v, 0⟩,
   ⟨0x04, 0x04, .u64, .rw, .w, 0⟩,
   ⟨0x05, 0x05, .u64, .ro, .w, 0⟩]

/-- R381: the record class an index belongs to, named by the first index of the class; none where no record exists. -/
def recordOf (index : Nat) : Option Nat :=
  if index = 0x1000 ∨ index = 0x1100 ∨ index = 0x1200 ∨ index = 0x1300 ∨ index = 0x2000 ∨ index = 0x2100 ∨ index = 0x3000
    ∨ index = 0x4000 ∨ index = 0x4100 ∨ index = 0x5000 ∨ index = 0x5010 ∨ index = 0x5020 ∨ index = 0x5100
    ∨ index = 0x5200 ∨ index = 0x6000 ∨ index = 0x6100 ∨ index = 0x6200 ∨ index = 0xE000 then some index
  else if 0x1110 ≤ index ∧ index < 0x1120 then some 0x1110
  else if 0x1130 ≤ index ∧ index < 0x1170 then some 0x1130
  else if 0x4001 ≤ index ∧ index ≤ 0x4018 then some 0x4001
  else if 0x4101 ≤ index ∧ index ≤ 0x4160 then some 0x4101
  else if 0x6001 ≤ index ∧ index ≤ 0x6004 then some 0x6001
  else if 0x7000 ≤ index ∧ index ≤ 0x7FFF then some 0x7000
  else if 0x8000 ≤ index ∧ index ≤ 0xBFFF then some 0x8000
  else if 0xC000 ≤ index ∧ index ≤ 0xCFFF then some 0xC000
  else none

/-- The owning table of a record class. -/
def objsOf (cls : Nat) : List Obj :=
  if cls = 0x1000 then objs1000
  else if cls = 0x1100 then objs1100
  else if cls = 0x1110 then objs1110
  else if cls = 0x1130 then objs1130
  else if cls = 0x1200 then objs1200
  else if cls = 0x1300 then objs1300
  else if cls = 0x2000 then objs2000
  else if cls = 0x2100 then objs2100
  else if cls = 0x3000 then objs3000
  else if cls = 0x4000 then objs4000
  else if cls = 0x4001 then objs4001
  else if cls = 0x4100 then objs4100
  else if cls = 0x4101 then objs4101
  else if cls = 0x5000 then objs5000
  else if cls = 0x5010 then objs5010
  else if cls = 0x5020 then objs5020
  else if cls = 0x5100 then objs5100
  else if cls = 0x5200 then objs5200
  else if cls = 0x6000 then objs6000
  else if cls = 0x6001 then objs6001
  else if cls = 0x6100 then objs6100
  else if cls = 0x6200 then objs6200
  else if cls = 0x7000 then objs7000
  else if cls = 0x8000 then objs8000
  else if cls = 0xC000 then objsC000
  else if cls = 0xE000 then objsE000
  else []

/-- The row of subentry #index.sub; none where it does not exist (R377). -/
def findObj (index sub : Nat) : Option Obj :=
  match recordOf index with
  | some c => (objsOf c).find? fun o => decide (o.first ≤ sub) && decide (sub ≤ o.last)
  | none => none

/-- The default of a scalar subentry; 0 for anything else. -/
def defaultOf (index sub : Nat) : Nat := ((findObj index sub).map (·.dflt)).getD 0

/-- R378: the bytes of a scalar type; none for str and blob. -/
def ObjType.width : ObjType → Option Nat
  | .bool => some 1
  | .u8 => some 1
  | .u16 => some 2
  | .u32 => some 4
  | .u64 => some 8
  | .i32 => some 4
  | .i64 => some 8
  | .str _ => none
  | .blob _ _ => none

/-- R378: type codes. -/
def ObjType.code : ObjType → Nat
  | .bool => 0x01
  | .u8 => 0x02
  | .u16 => 0x03
  | .u32 => 0x04
  | .u64 => 0x05
  | .i32 => 0x06
  | .i64 => 0x07
  | .str _ => 0x0A
  | .blob _ _ => 0x0B

/-- R383: the access and persistence codes of a describe. -/
def Access.code : Access → Nat
  | .ro => 0
  | .rw => 1
  | .rwi => 2
  | .wo => 3
  | .const => 4

def Pers.code : Pers → Nat
  | .none => 0
  | .v => 1
  | .w => 2
  | .f => 3

/-- The key of a subentry in `Dict.regs` and `Dict.blobs`. -/
def objKey (index sub : Nat) : Nat := index * 256 + sub

/-- The stored value of a scalar subentry. -/
def getReg (s : State) (index sub : Nat) : Nat := ngetD s.dict.regs (objKey index sub) (defaultOf index sub)

/-- The value a scalar subentry had at the last tick boundary (R380). -/
def inForceReg (s : State) (index sub : Nat) : Nat := ngetD s.dict.inForce (objKey index sub) (defaultOf index sub)

/-- The registers with a value stored; a default value is not listed. -/
def putReg (d : Dict) (index sub v : Nat) : Dict :=
  { d with regs := (if v = defaultOf index sub then ndel d.regs (objKey index sub) else nset d.regs (objKey index sub) v) }

/-- Store a scalar subentry. -/
def setReg (s : State) (index sub v : Nat) : State := { s with dict := putReg s.dict index sub v }

/-- Add to a counter subentry, wrapping at its width. -/
def addReg (s : State) (index sub n : Nat) : State :=
  match findObj index sub with
  | some o => setReg s index sub ((getReg s index sub + n) % 256 ^ (o.ty.width.getD 8))
  | none => s

/-- R392: a leg that was never written is unused: its port byte is 0xFF (log 3). -/
def unusedLeg : List Byte := 0xFF :: List.replicate 39 0

/-- The value of a str or blob subentry that was never written: the legs unused, a blob of stated size all zero, any other
empty (log 3). -/
def defaultBlob (index sub : Nat) : List Byte :=
  if recordOf index = some 0x8000 ∧ (sub = 0x28 ∨ sub = 0x29) then unusedLeg
  else if recordOf index = some 0x3000 ∧ sub = 0x15 then
    -- R449: every rail is enforced at its rating by default
    (List.range 20).flatMap fun r => leBytes 4 (if r < 8 then 300000 else if r < 16 then 120000 else if r = 16 then 160000
      else if r = 17 then 40000 else if r = 18 then 10000 else 3000)
  else match findObj index sub with
  | some ⟨_, _, .blob m true, _, _, _⟩ => List.replicate m 0
  | _ => []

/-- The stored value of a str or blob subentry. -/
def getBlob (s : State) (index sub : Nat) : List Byte := ngetD s.dict.blobs (objKey index sub) (defaultBlob index sub)

/-- Store a str or blob subentry; a default value is not listed. -/
def setBlob (s : State) (index sub : Nat) (v : List Byte) : State :=
  { s with dict := { s.dict with blobs :=
      (if v = defaultBlob index sub then ndel s.dict.blobs (objKey index sub) else nset s.dict.blobs (objKey index sub) v) } }

/-- The indices of stream context k, package slot k and egress flow k (R11's table). -/
def ctxIndex (k : Nat) : Nat := 0x8000 + k
def slotIndex (k : Nat) : Nat := 0x7000 + k
def flowIndex (k : Nat) : Nat := 0xC000 + k
def ringIndex (r : Nat) : Nat := 0x1110 + r
def streamRingIndex (r : Nat) : Nat := 0x1130 + r
def stackIndex (k : Nat) : Nat := 0x4001 + k
def linkIndex (i : Nat) : Nat := 0x4101 + i
def portIndex (p : Nat) : Nat := 0x6001 + p

/-- R379 with each owning table: does an origin reach #index.sub. -/
def reaches (o : Origin) (index sub : Nat) : Bool :=
  match recordOf index with
  | none => false
  | some c =>
    match o with
    | .host => true
    | .net =>
      if c = 0x1100 then (decide (1 ≤ sub) && decide (sub ≤ 0x06)) || sub == 0x09 || sub == 0x0B || sub == 0x0C
      else true
    | .peer =>
      if c = 0x1000 then true
      else if c = 0x1100 then sub == 0x0B || sub == 0x0C
      else if c = 0x1110 ∨ c = 0x1130 then false
      else if c = 0x1200 then (decide (4 ≤ sub) && decide (sub ≤ 8)) || sub == 0x0A
      else if c = 0x1300 then (decide (1 ≤ sub) && decide (sub ≤ 7)) || sub == 0x12 || sub == 0x13
      else if c = 0x2000 then sub != 0x0D
      else if c = 0x2100 then true
      else if c = 0x3000 then sub == 5 || sub == 6 || (decide (9 ≤ sub) && decide (sub ≤ 0x10))
      else if c = 0x4000 then sub == 3 || sub == 4 || sub == 8
      else if c = 0x4001 then sub == 1
      else if c = 0x4100 then sub == 1 || sub == 4 || sub == 5
      else if c = 0x4101 then true
      else if c = 0x5000 then true
      else if c = 0x5010 then sub == 1 || sub == 7
      else if c = 0x5020 then decide (7 ≤ sub) && decide (sub ≤ 0xB)
      else if c = 0x5100 then decide (1 ≤ sub) && decide (sub ≤ 0x20)
      else if c = 0x5200 then decide (sub < 7) || decide (0xC < sub)
      else if c = 0x6000 then decide (2 ≤ sub) && decide (sub ≤ 7)
      else if c = 0x6001 then sub == 2 || (decide (0xA ≤ sub) && decide (sub ≤ 0xC))
      else if c = 0x6100 then decide (1 ≤ sub) && decide (sub ≤ 4)
      else if c = 0x6200 then true
      else if c = 0x7000 then sub == 1 || (decide (5 ≤ sub) && decide (sub ≤ 0xD))
      else if c = 0x8000 then true
      else if c = 0xC000 then sub == 1 || (decide (5 ≤ sub) && decide (sub ≤ 0xB))
      else sub == 1 || sub == 5

/-- R379, R391: does an origin that reaches #index.sub also may write it, as far as its table limits it. -/
def mayWrite (o : Origin) (index sub : Nat) : Bool :=
  reaches o index sub &&
  (match o with
   | .peer => if recordOf index = some 0x8000 then sub == 0x03 || sub == 0x35 || sub == 0x36 else true
   | _ => true)

end Sys2Proof.Machine
end

