-- ==== Sys2Proof/Machine/Ops.lean ====
section
/-! DEFINITION. The named operations every family shares: when a command acts at all, time and the tick counter, the fault log,
the start journal, device-memory allocations, pending interrupts, and the table of issued work. -/
namespace Sys2Proof.Machine
open Sys2Proof

/-! ### When a command acts -/

/-- The part is in service (R359). -/
def inService (s : State) : Bool := s.ctl.phase == .service

/-- A cluster is in control of the part in service (R29). -/
def controlled (s : State) : Bool := inService s && s.ctl.inCharge.isSome

/-- R480: the part is in park, entering it or leaving it: no start, package, table-set or function-slot command is accepted. -/
def parked (s : State) : Bool := getReg s 0x1200 0x10 != 0

/-- The effect `f` while the part is in service, nothing otherwise (log 6). -/
def whenService (s : State) (f : State → State) : Host.Outcome State Fault Refusal :=
  .next (if inService s then f s else s)

/-- The effect `f` while a cluster is in control of the part in service, nothing otherwise (log 6). -/
def whenControlled (s : State) (f : State → State) : Host.Outcome State Fault Refusal :=
  .next (if controlled s then f s else s)

/-! ### Time (R33 to R36) -/

/-- The period P of a house-rate code in thirds of a nanosecond; `free` is the free period in µs (R33, R34). -/
def periodOf (code free : Nat) : Nat :=
  if code = 0x00 then 125125000
  else if code = 0x01 then 125000000
  else if code = 0x02 then 120000000
  else if code = 0x03 then 100100000
  else if code = 0x04 then 100000000
  else if code = 0x05 then 60000000
  else if code = 0x06 then 50050000
  else if code = 0x07 then 50000000
  else if code = 0x08 then 30000000
  else if code = 0x09 then 25025000
  else if code = 0x0A then 25000000
  else free * 3000

/-- The period in force. -/
def period (s : State) : Nat := periodOf s.clk.rate s.clk.free

/-- R36: the tick counter, floor(t / P). -/
def counterOf (s : State) : Nat := s.clk.now / period s

/-- Time passes by `dt` nanoseconds, up to but not past the next tick boundary (log 7). -/
def passTime (s : State) (dt : Nat) : State :=
  { s with clk := { s.clk with now := Nat.min (s.clk.now + 3 * dt) ((counterOf s + 1) * period s - 1) } }

/-- Local time in whole nanoseconds and microseconds. -/
def nowNs (s : State) : Nat := s.clk.now / 3
def nowUs (s : State) : Nat := s.clk.now / 3000

/-! ### What leaves the part -/

/-- Something leaves the pins. -/
def emit (s : State) (e : Emission) : State := { s with out := s.out ++ [e] }

/-- R362: a vector is due at the next pass of the service loop; each is sent at most once per pass. -/
def raiseVector (s : State) (v : Nat) : State :=
  if s.ctl.msix.contains v then s else { s with ctl := { s.ctl with msix := s.ctl.msix ++ [v] } }

/-- The next free value. -/
def fresh (s : State) : Nat × State := (s.free, { s with free := s.free + 1 })

/-! ### The mirror (R442) -/

/-- R442: a change goes to the mirror peer while one is named and the mirror synchronises or protects; it is kept until the peer has
acknowledged it. -/
def mirrorOn (s : State) : Bool :=
  getReg s 0x4100 0x09 != 0xFFFF && (getReg s 0x4000 0x08 == 1 || getReg s 0x4000 0x08 == 2)
def toMirror (s : State) (i : MirrorItem) : State :=
  if mirrorOn s then
    let s := emit s (.mirrorOut (getReg s 0x4100 0x09) i)
    { s with fabric := { s.fabric with toMirror := s.fabric.toMirror ++ [i] } }
  else s

/-! ### The fault log (R396) -/

/-- A new entry: sequence numbers rise by 1, the oldest of 4,096 is overwritten, vector 49 is due. `kind` is the unit kind. -/
def logFault (s : State) (code severity kind unit ctx detail : Nat) : State :=
  let seq := getReg s 0xE000 0x01 + 1
  let lost := match s.ctl.log with
    | e :: _ => s.ctl.log.length ≥ 4096 && decide (getReg s 0xE000 0x04 < e.sequence)
    | [] => false
  let s := if lost then addReg s 0xE000 0x05 1 else s
  let s := setReg s 0xE000 0x01 seq
  let kept := if s.ctl.log.length ≥ 4096 then s.ctl.log.drop 1 else s.ctl.log
  let entry : LogEntry := ⟨code, severity, kind, unit, ctx, seq, detail, counterOf s⟩
  raiseVector { s with ctl := { s.ctl with log := kept ++ [entry] } } 49

/-- R396, R359: the fault bit, set until #E000.04 reaches #E000.01. -/
def faultBit (s : State) : Bool := decide (getReg s 0xE000 0x04 < getReg s 0xE000 0x01)

/-! ### The start journal (R472) -/

/-- A new journal entry in flash; the oldest of 65,536 is overwritten. -/
def addJournal (s : State) (step kind unit event detail : Nat) : State :=
  let seq := getReg s 0x1200 0x0B + 1
  let s := setReg s 0x1200 0x0B seq
  let kept := if s.ctl.journal.length ≥ 65536 then s.ctl.journal.drop 1 else s.ctl.journal
  { s with ctl := { s.ctl with journal := kept ++ [⟨step, kind, unit, event, detail % 2 ^ 24, seq, getReg s 0x1200 0x06⟩] } }

/-! ### Allocations of device memory (R446) -/

/-- Two byte ranges share a byte. -/
def overlaps (a n b m : Nat) : Bool := decide (0 < n) && decide (0 < m) && decide (a < b + m) && decide (b < a + n)

/-- The bytes allocated, host's and firmware's together (#4000.02). -/
def allocatedBytes (s : State) : Nat := (s.allocs.map (·.size)).foldl (· + ·) 0

/-- The first byte address above allocatable memory, which lies from 0 upward (log 5). -/
def allocTop : Nat := 1650000000000

/-- `n` bytes from `base` are free allocatable memory. -/
def rangeFree (s : State) (base n : Nat) : Bool :=
  decide (base + n ≤ allocTop) && s.allocs.all fun a => !overlaps a.base a.size base n

/-- R23: how a stack's 72 GB are divided: allocatable, headroom for retirement, scorebook and spill area. -/
def stackAllocatable : Nat := 68750000000
def stackHeadroom : Nat := 3000000000
def stackFirmware : Nat := 250000000

/-- #4000.01 (R23, R440): the allocatable capacity. The headroom absorbs the first retired stack, each later one takes its own
allocatable portion with it: what the class f bitmap #4000.03 says, so the loss outlives a restart. -/
def allocCapacity (s : State) : Nat :=
  getReg s 0x4000 0x01 - stackAllocatable * (popCount 24 (getReg s 0x4000 0x03) - 1)

/-- The range reserved for `n` bytes (a multiple of 4 KiB): firmware's own choice where it is a free aligned range, else the
lowest free one; none when no range is free or the allocatable capacity #4000.01 would be passed. -/
def placeRange (s : State) (n : Nat) : Option Nat :=
  if allocatedBytes s + n > allocCapacity s then none
  else
    let hint := Config.allocPlace s.free
    if hint % 4096 = 0 ∧ rangeFree s hint n then some hint
    else
      match ((0 :: s.allocs.map fun a => alignUp 4096 (a.base + a.size)).filter fun b => rangeFree s b n) with
      | [] => none
      | b :: r => some (r.foldl Nat.min b)

/-- A range enters the table of allocations. -/
def grantRange (s : State) (base n owner die : Nat) : State :=
  { s with allocs := s.allocs ++ [⟨base, n, owner, false, die⟩], free := s.free + 1 }

/-- Reserve `n` bytes, rounded up to 4 KiB, for `owner` (0: the host), interleaved over the stacks of a die (R166). -/
def reserveOn (s : State) (n owner die : Nat) : Option (Nat × State) :=
  (placeRange s (alignUp 4096 n)).map fun b => (b, grantRange s b (alignUp 4096 n) owner die)

/-- R24, R166: the die of an allocation that belongs to no stream: firmware's own choice. -/
def anyDie (s : State) : Nat := Config.allocDie s.free % 8

/-- Reserve `n` bytes on a die of firmware's choice. -/
def reserve (s : State) (n owner : Nat) : Option (Nat × State) := reserveOn s n owner (anyDie s)

/-- R166: the stack that holds a byte of allocatable memory: an allocation's 4 KiB granules alternate over the three stacks of its die
(those of unallocated memory, which no rule places, by address; log 5). -/
def stackOf (s : State) (a : Nat) : Nat :=
  match s.allocs.find? fun x => decide (x.base ≤ a) && decide (a < x.base + x.size) with
  | some x => 3 * x.die + (a - x.base) / 4096 % 3
  | none => 3 * (a / 206250000000 % 8) + a / 4096 % 3

/-- Give the allocation at `base` back. -/
def releaseRange (s : State) (base : Nat) : State := { s with allocs := s.allocs.filter fun a => a.base != base }

/-- The host allocation whose first byte is `base`. -/
def hostAlloc (s : State) (base : Nat) : Option Alloc := s.allocs.find? fun a => a.base == base && a.owner == 0 && !a.freed

/-- R446: `n` bytes from `addr` lie wholly within one host allocation. -/
def inHostAlloc (s : State) (addr n : Nat) : Bool :=
  s.allocs.any fun a => a.owner == 0 && !a.freed && decide (a.base ≤ addr) && decide (addr + n ≤ a.base + a.size)

/-- R446: a file or buffer that a command names is misaligned or not wholly within one host allocation. -/
def badRange (s : State) (addr n : Nat) : Bool := addr % 64 != 0 || !inHostAlloc s addr n

/-! ### Bits of a blob (R389) -/

def blobBit (bs : List Byte) (i : Nat) : Bool := (bs.getD (i / 8) 0).toNat.testBit (i % 8)

def setBlobBit (bs : List Byte) (i : Nat) : List Byte :=
  bs.set (i / 8) (BitVec.ofNat 8 (setBitAt (bs.getD (i / 8) 0).toNat (i % 8)))

def clearBlobBit (bs : List Byte) (i : Nat) : List Byte :=
  bs.set (i / 8) (BitVec.ofNat 8 (clearBitAt (bs.getD (i / 8) 0).toNat (i % 8)))

/-- A 48-byte tile bitmap (R389). -/
def tileBitmap (tiles : List Nat) : List Byte := tiles.foldl setBlobBit (List.replicate 48 0)

/-! ### Units -/

/-- R144: a retired tile. -/
def tileRetired (s : State) (t : Nat) : Bool := blobBit (getBlob s 0x1000 0x0D) t

/-- A tile that the manifest disables. -/
def tileDisabled (s : State) (t : Nat) : Bool := s.ctl.manifest.disabled.contains t

/-- A tile that may take work: an active tile not retired, or a libero that stands in for a retired one (R144). -/
def tileUsable (s : State) (t : Nat) : Bool :=
  decide (t < 384) && !tileDisabled s t && !tileRetired s t && s.ctl.recovering != some (t / 48) &&
  (!s.ctl.manifest.spare.contains t || s.libero.any fun e => e.2 == t)

/-- The tile, idle where nothing is listed. -/
def tileOf (s : State) (t : Nat) : Tile := ngetD s.tiles t {}
def putTile (s : State) (t : Nat) (x : Tile) : State :=
  { s with tiles := if x = {} then ndel s.tiles t else nset s.tiles t x }

/-- The lane, idle where nothing is listed. -/
def laneOf (s : State) (l : Nat) : Lane := ngetD s.lanes l {}
def putLane (s : State) (l : Nat) (x : Lane) : State := { s with lanes := nset s.lanes l x }

def laneRetired (s : State) (l : Nat) : Bool :=
  if l < 64 then (getReg s 0x5200 0x11).testBit l else (getReg s 0x5200 0x12).testBit (l - 64)

/-- The stream context's run state. -/
def ctxOf (s : State) (k : Nat) : Ctx := ngetD s.ctxs k {}
def putCtx (s : State) (k : Nat) (c : Ctx) : State := { s with ctxs := nset s.ctxs k c }
def ctxState (s : State) (k : Nat) : Nat := getReg s (ctxIndex k) 0x02
def setCtxState (s : State) (k v : Nat) : State := setReg s (ctxIndex k) 0x02 v

/-- The states in which a stream context counts as running: 2 … 5 and 7 (R268). -/
def runningState (v : Nat) : Bool := (decide (2 ≤ v) && decide (v ≤ 5)) || v == 7

/-- The contexts that have a record in the state map and are in one of `running` states. -/
def runningCtxs (s : State) : List Nat := (s.ctxs.map (·.1)).filter fun k => runningState (ctxState s k)

/-- R30: no cluster is in control, so none writes flash: the retirement of a unit, of a kind of R396, waits for the one that takes over. -/
def flashHeld (s : State) : Bool := s.ctl.inCharge.isNone
def retireLater (s : State) (kind unit : Nat) : State := { s with ctl := { s.ctl with retireDue := s.ctl.retireDue ++ [(kind, unit)] } }
def retirePending (s : State) (kind unit : Nat) : Bool := s.ctl.retireDue.contains (kind, unit)

/-! ### Issued work and the frames it makes -/

/-- R428: the scorebook entry of frame j of a context. -/
def findFrame (s : State) (k j : Nat) : Option FrameEntry := s.frames.find? fun f => f.ctx == k && f.j == j

/-- R271: where the committed output of frame j of a context's upstream context lies. -/
def upstreamBase (s : State) (k j : Nat) : Nat := ((findFrame s (getReg s (ctxIndex k) 0x27) j).map (·.outBase)).getD 0

def findWork (s : State) (id : WorkId) : Option Work := s.works.find? fun w => w.id == id

def putWork (s : State) (w : Work) : State :=
  { s with works := s.works.map fun x => if x.id == w.id then w else x }

/-- R168: objects are never shared between frames: what an earlier work of the same name left, its window and the signals of its
descriptors still in flight, serves the new one no more. -/
def muteDesc (id : WorkId) (q : QDesc) : QDesc := if q.work == id then { q with desc := { q.desc with ctl := q.desc.ctl % 64 } } else q
def forgetWork (s : State) (id : WorkId) : State :=
  { s with syncWins := s.syncWins.filter fun x => !(x.work == id)
           tiles := s.tiles.map fun e => (e.1, { e.2 with queue := e.2.queue.map (muteDesc id) }) }

/-- Work enters the table of issued work. -/
def addWork (s : State) (w : Work) : State := let s := forgetWork s w.id; { s with works := s.works ++ [w] }

/-- R54: the carried works that stand before `w`: they run before it on the same units, in the order in which they were issued. -/
def carriedAhead (s : State) (w : Work) : List Work :=
  (s.works.takeWhile fun x => !(x.id == w.id)).filter fun x => x.lag != 0 && !x.stopped && x.result.isNone

def dropWork (s : State) (id : WorkId) : State := { s with works := s.works.filter fun w => !(w.id == id) }

/-- The sticky-flag register of a physical tile (R83, R86). -/
def tileFlagsOf (s : State) (t : Nat) : Nat := ngetD s.flags t 0

def orTileFlags (s : State) (t f : Nat) : State :=
  { s with flags := if tileFlagsOf s t ||| f = 0 then ndel s.flags t else nset s.flags t (tileFlagsOf s t ||| f) }

/-! ### Sync objects (R167, R168) -/

def syncValue (s : State) (o : Nat) : Nat := ngetD s.sync o 0

/-- R168: a signal adds 1 to a sync object's counter, wrapping at 2^32. -/
def signalSync (s : State) (o : Nat) : State := { s with sync := nset s.sync o (wrap32 (syncValue s o + 1)) }

end Sys2Proof.Machine
end

