-- ==== Sys2Proof/Machine/Bridges.lean ====
section
/-! DEFINITION. The die-to-die bridges: their ends, the one fixed route between two dies, and whether a transfer crosses them (R17, R18).
Compute dies are numbered 0 … 7, MD0 is 8 and MD1 is 9. -/
namespace Sys2Proof.Machine
open Sys2Proof

/-- R17: the two dies of each bridge, in the order of the rule. -/
def bridgeEnds : List (Nat × Nat) :=
  [(0, 1), (1, 2), (2, 3), (4, 5), (5, 6), (6, 7), (0, 4), (1, 5), (2, 6), (3, 7), (8, 0), (8, 4), (9, 3), (9, 7)]

/-- The bridges of a die. -/
def dieBridges (d : Nat) : List Nat :=
  (List.range 14).filter fun b => (bridgeEnds.getD b (0, 0)).1 == d || (bridgeEnds.getD b (0, 0)).2 == d

/-- The bridge between two neighbouring dies. -/
def bridgeBetween (a b : Nat) : Option Nat := bridgeEnds.findIdx? fun e => e == (a, b) || e == (b, a)

/-- The dies of a row from one column to another, both included. -/
def rowPath (row c c' : Nat) : List Nat :=
  if c ≤ c' then (List.range (c' - c + 1)).map fun i => 4 * row + c + i else (List.range (c - c' + 1)).map fun i => 4 * row + c - i

/-- The column next to a media die. -/
def mediaColumn (d : Nat) : Nat := if d = 8 then 0 else 3

/-- R18: the dies that traffic from one die to another passes, both ends included. -/
def dieRoute (a b : Nat) : List Nat :=
  if a = b then [a]
  else if a < 8 ∧ b < 8 then rowPath (a / 4) (a % 4) (b % 4) ++ if a / 4 = b / 4 then [] else [b]
  else if b < 8 then a :: rowPath (b / 4) (mediaColumn a) (b % 4)
  else if a < 8 then rowPath (a / 4) (a % 4) (mediaColumn b) ++ [b]
  else a :: rowPath 0 (mediaColumn a) (mediaColumn b) ++ [b]

/-- R18: the bridges of a route, in the order of travel; none where two of its dies have no bridge. -/
def routeBridges (a b : Nat) : List (Option Nat) :=
  let r := dieRoute a b
  (r.zip (r.drop 1)).map fun e => bridgeBetween e.1 e.2

/-- Does traffic between two dies cross a bridge. -/
def crossesBridge (a b : Nat) : Bool := routeBridges a b != []

/-- R17, R474: the compute die that a bridge error restarts: the higher-numbered one, or the one at the other end of a media die's bridge. -/
def bridgeDie (b : Nat) : Nat :=
  let e := bridgeEnds.getD b (0, 0)
  if e.1 ≥ 8 then e.2 else Nat.max e.1 e.2

/-- R17, R470: the lanes that failed training on a bridge; its two spare lanes can stand in for at most two. -/
def failedLanes (found : StartFindings) (b : Nat) : List Nat := ((found.badLanes.filter fun e => e.1 == b).map (·.2)).eraseDups
def lanesSpared (found : StartFindings) (b : Nat) : Bool := decide ((failedLanes found b).length ≤ 2)

end Sys2Proof.Machine
end

