-- ==== Sys2Proof/Machine/Flags.lean ====
section
/-! DEFINITION. The four sticky flags (R83) and the registers that collect them (R85, R86). -/
namespace Sys2Proof.Machine
open Sys2Proof

/-- R83: the bits of a flag set. -/
def fInvalid : Nat := 1
def fInexact : Nat := 2
def fUnderflow : Nat := 4
def fOverflow : Nat := 8

/-- The flag a condition raises. -/
def flagIf (c : Bool) (f : Nat) : Nat := if c then f else 0

/-- R87: the OR of every tile's register (#5000.03). -/
def deviceFlags (s : State) : Nat := s.flags.foldl (fun a e => a ||| e.2) 0

/-- R86: write one to clear: the bits of a register that `mask` names are cleared. -/
def clearFlagBits (r mask : Nat) : Nat := (r % 16) &&& (15 - mask % 16)

/-- R86: writing `mask` to #5000.03 clears its bits in every tile. -/
def clearDeviceFlags (s : State) (mask : Nat) : State :=
  { s with flags := (s.flags.map fun e => (e.1, clearFlagBits e.2 mask)).filter fun e => e.2 != 0 }

/-- R86, R87: writing `mask` to #5000.05 clears its bits in the tile that #5000.04 selects; a disabled tile ignores it. -/
def clearTileFlags (s : State) (mask : Nat) : State :=
  let t := getReg s 0x5000 0x04
  if tileDisabled s t then s
  else
    let r := clearFlagBits (tileFlagsOf s t) mask
    { s with flags := if r = 0 then ndel s.flags t else nset s.flags t r }

/-- DEVICE_FLAGS_CLEAR (R86). -/
def execDeviceFlagsClear (mask : Nat) (s : State) : Host.Outcome State Fault Refusal :=
  whenService s fun s => clearDeviceFlags s mask

/-- TILE_FLAGS_CLEAR (R86). -/
def execTileFlagsClear (mask : Nat) (s : State) : Host.Outcome State Fault Refusal :=
  whenService s fun s => clearTileFlags s mask

end Sys2Proof.Machine
end

