-- ==== Sys2Proof/Machine/Operands.lean ====
section
/-! DEFINITION. The four number formats, their decoding, the one rounding of an exact value, conversions and output
normalisation (R60 to R82), and the seed mixer (R76, R77). Format codes are R60's; flag sets are R83's. -/
namespace Sys2Proof.Machine
open Sys2Proof

/-! ### Formats (R63) -/

/-- Bytes of an element. -/
def fmtBytes (f : Nat) : Nat := if f = 2 then 4 else if f = 3 then 8 else 2

/-- Fraction bits p of R72. -/
def fmtFrac (f : Nat) : Nat := if f = 2 then 23 else if f = 3 then 52 else 10

def fmtBias (f : Nat) : Nat := if f = 2 then 127 else if f = 3 then 1023 else 15

/-- The smallest normal exponent emin of R72. -/
def fmtEmin (f : Nat) : Int := if f = 2 then -126 else if f = 3 then -1022 else -14

/-- The exponent field of infinities and NaN; F16S has none. -/
def fmtTop (f : Nat) : Nat := if f = 2 then 255 else if f = 3 then 2047 else 31

def fmtSignBit (f : Nat) : Nat := if f = 2 then 31 else if f = 3 then 63 else 15

/-- R63: canonical NaN, +∞ (F16S: none), and the largest finite code. -/
def fmtNan (f : Nat) : Nat :=
  if f = 0 then 0x7E00 else if f = 1 then 0x8000 else if f = 2 then 0x7FC00000 else 0x7FF8000000000000

def fmtInf (f : Nat) : Nat :=
  if f = 0 then 0x7C00 else if f = 1 then 0x7FFF else if f = 2 then 0x7F800000 else 0x7FF0000000000000

def fmtMax (f : Nat) : Nat :=
  if f = 0 then 0x7BFF else if f = 1 then 0x7FFF else if f = 2 then 0x7F7FFFFF else 0x7FEFFFFFFFFFFFFF

/-- The exponent of the unit of the largest finite magnitude, which is (2^(p+1) − 1) units. -/
def fmtMaxExp (f : Nat) : Int := if f = 0 then 5 else if f = 1 then 6 else if f = 2 then 104 else 971

/-- The code with its sign bit set when `neg`. -/
def withSign (f : Nat) (neg : Bool) (code : Nat) : Nat := if neg then code + 2 ^ fmtSignBit f else code

/-! ### Values -/

/-- What a code denotes: NaN (quiet or signalling), an infinity, a zero, or (−1)^neg × mant × 2^exp with mant above 0. -/
inductive FVal where
  | nan (signalling : Bool)
  | inf (neg : Bool)
  | zero (neg : Bool)
  | fin (neg : Bool) (mant : Nat) (exp : Int)
deriving DecidableEq, Repr

/-- R63, R64: the value of code `c` in format `f`. -/
def decodeF (f c : Nat) : FVal :=
  let neg := c.testBit (fmtSignBit f)
  let p := fmtFrac f
  let frac := c % 2 ^ p
  let e := c / 2 ^ p % (fmtTop f + 1)
  if f = 1 ∧ c = 0x8000 then .nan false
  else if f ≠ 1 ∧ e = fmtTop f then
    (if frac = 0 then .inf neg else .nan (!frac.testBit (p - 1)))
  else if e = 0 then (if frac = 0 then .zero neg else .fin neg frac (fmtEmin f - p))
  else .fin neg (2 ^ p + frac) ((e : Int) - fmtBias f - p)

def FVal.isNan : FVal → Bool
  | .nan _ => true
  | .inf _ => false
  | .zero _ => false
  | .fin _ _ _ => false

/-- The finite value as a signed mantissa and an exponent; zero for anything not finite. -/
def FVal.mant : FVal → Int
  | .nan _ => 0
  | .inf _ => 0
  | .zero _ => 0
  | .fin true m _ => -(m : Int)
  | .fin false m _ => m

def FVal.exp : FVal → Int
  | .nan _ => 0
  | .inf _ => 0
  | .zero _ => 0
  | .fin _ _ e => e

/-- floor(log2 (m × 2^e)) for m above 0. -/
def floorLog2 (m : Nat) (e : Int) : Int := (Nat.log2 m : Int) + e

/-- m × 2^k for k at least 0. -/
def shiftUp (m : Int) (k : Int) : Int := m * (2 ^ k.toNat : Nat)

/-- The sum of two dyadic numbers, at the smaller of their exponents. -/
def dyAdd (m1 : Int) (e1 : Int) (m2 : Int) (e2 : Int) : Int × Int :=
  if m1 = 0 then (m2, e2) else if m2 = 0 then (m1, e1)
  else if e1 ≤ e2 then (m1 + shiftUp m2 (e2 - e1), e1) else (shiftUp m1 (e1 - e2) + m2, e2)

/-! ### The one rounding (R72 to R74) -/

/-- Does the magnitude round up: quotient `t`, remainder `r` of `d` parts, mode, sign and stochastic draw. -/
def roundsUp (mode : Nat) (neg : Bool) (t r d draw : Nat) : Bool :=
  if mode = 0 then decide (2 * r > d) || (decide (2 * r = d) && t % 2 == 1)
  else if mode = 2 then r != 0 && !neg
  else if mode = 3 then r != 0 && neg
  else if mode = 4 then decide (r * 65536 / d + draw ≥ 65536)
  else false

/-- floor(log2 (n / d × 2^e)). -/
def ratioLog2 (n d : Nat) (e : Int) : Int :=
  let l : Int := (Nat.log2 n : Int) - (Nat.log2 d : Int)
  let ge := if l ≥ 0 then decide (n ≥ d * 2 ^ l.toNat) else decide (n * 2 ^ (-l).toNat ≥ d)
  (if ge then l else l - 1) + e

/-- n / d × 2^e as a quotient and remainder in units of 2^qe: (t, r, D) with value (t + r / D) × 2^qe. -/
def inUnits (n d : Nat) (e qe : Int) : Nat × Nat × Nat :=
  let sh := e - qe
  let n' := if sh ≥ 0 then n * 2 ^ sh.toNat else n
  let d' := if sh ≥ 0 then d else d * 2 ^ (-sh).toNat
  (n' / d', n' % d', d')

/-- t × 2^a is above m × 2^b. -/
def scaledGt (t : Nat) (a : Int) (m : Nat) (b : Int) : Bool :=
  if a ≥ b then decide (t * 2 ^ (a - b).toNat > m) else decide (t > m * 2 ^ (b - a).toNat)

/-- R73: the code an overflow delivers. -/
def overflowCode (f mode : Nat) (neg : Bool) : Nat :=
  if f = 1 then withSign f neg (fmtMax f)
  else if mode = 1 ∨ (mode = 2 ∧ neg) ∨ (mode = 3 ∧ !neg) then withSign f neg (fmtMax f)
  else withSign f neg (fmtInf f)

/-- R72 to R74: the magnitude n / d × 2^e (n and d above 0) with its sign, rounded once to format `f`: code and flags. The
result is +0 when it rounds to zero. -/
def roundMag (f mode draw : Nat) (neg : Bool) (n d : Nat) (e : Int) : Nat × Nat :=
  let p := fmtFrac f
  let ex := ratioLog2 n d e
  let qe := max ex (fmtEmin f) - p
  let (t, r, dd) := inUnits n d e qe
  let t' := if roundsUp mode neg t r dd draw then t + 1 else t
  let inexact := r != 0
  if scaledGt t' qe (2 ^ (p + 1) - 1) (fmtMaxExp f) then (overflowCode f mode neg, fOverflow ||| fInexact)
  else
    let (ut, ur, ud) := inUnits n d e (ex - p)
    let u' := if roundsUp mode neg ut ur ud draw then ut + 1 else ut
    let tiny := decide (ex < fmtEmin f) && !(decide (u' = 2 ^ (p + 1)) && decide (ex + 1 = fmtEmin f))
    let flags := flagIf inexact fInexact ||| flagIf (inexact && tiny) fUnderflow
    let code :=
      if t' = 0 then 0
      else if t' < 2 ^ p then withSign f neg t'
      else
        let (m, q) := if t' = 2 ^ (p + 1) then (2 ^ p, qe + 1) else (t', qe)
        withSign f neg ((q + p + fmtBias f).toNat * 2 ^ p + (m - 2 ^ p))
    (code, flags)

/-- The exact value num / den × 2^e rounded to format `f`; exact zero is +0 without a flag. -/
def roundExact (f mode draw : Nat) (num : Int) (den : Nat) (e : Int) : Nat × Nat :=
  if num = 0 then (0, 0) else roundMag f mode draw (decide (num < 0)) num.natAbs den e

/-! ### Conversions and normalisation (R78 to R80) -/

/-- R80: −0 becomes +0 and any NaN the canonical NaN of its format. -/
def normalise (f c : Nat) : Nat :=
  match decodeF f c with
  | .nan _ => fmtNan f
  | .zero _ => 0
  | .inf _ => c
  | .fin _ _ _ => c

/-- R78, R79: a value read in format `f` converted to format `g` with rounding `mode`, normalised as it is stored. -/
def convertF (f g mode : Nat) (v : FVal) : Nat × Nat :=
  match v with
  | .nan sg => (fmtNan g, flagIf (f == 1 || g == 1 || sg) fInvalid)
  | .inf neg => if g = 1 then (withSign g neg (fmtMax g), fOverflow ||| fInexact) else (withSign g neg (fmtInf g), 0)
  | .zero _ => (0, 0)
  | .fin neg m e => roundMag g mode 0 neg m 1 e

/-- R129: an operand read in format `f` brought into the working format `g` (never narrower): its value and the flags of the
conversion. -/
def toWorking (f g : Nat) (v : FVal) : FVal × Nat :=
  if f = g then (v, 0)
  else match v with
    | .nan sg => (.nan false, flagIf (f == 1 || sg) fInvalid)
    | .inf n => (.inf n, 0)
    | .zero n => (.zero n, 0)
    | .fin n m e => (.fin n m e, 0)

/-- R129: a result that is already a value of the working format `g`, delivered in `out`: converted when `out` is another
format, else copied; normalised. -/
def fromWorking (g out mode : Nat) (v : FVal) : Nat × Nat :=
  if g = out then ((convertF g g mode v).1, 0) else convertF g out mode v

/-! ### The seed mixer (R76, R77) -/

def mix64 (z : Nat) : Nat :=
  let z := z ^^^ (z >>> 31)
  let z := wrap64 (z * 0xD3A65F19C8B27E45)
  let z := z ^^^ (z >>> 29)
  let z := wrap64 (z * 0x94E10B7D36CAF253)
  z ^^^ (z >>> 32)

/-- The draw r of element `index` of tensor `tensorId`. -/
def seedMix (seed tensorId index : Nat) : Nat :=
  let a := mix64 (seed ^^^ 0x5B8E2C41F07AD963)
  let b := mix64 (a ^^^ wrap64 (tensorId * 0x8F1D6A3B42C5E097))
  let c := mix64 (wrap64 (b + index))
  c >>> 48

/-! ### Order (R81, R82) -/

/-- Comparison of two values that are not NaN: is the first below the second. -/
def fLt (a b : FVal) : Bool :=
  match a, b with
  | .inf true, .inf true => false
  | .inf true, _ => true
  | _, .inf true => false
  | .inf false, _ => false
  | _, .inf false => true
  | x, y =>
    let (d, _) := dyAdd y.mant y.exp (-x.mant) x.exp
    decide (d > 0)

def fEq (a b : FVal) : Bool := !fLt a b && !fLt b a

/-- The larger (`big`) or smaller of two values, the first when they are equal; the flag is invalid when either is NaN. -/
def fExtreme (big : Bool) (a b : FVal) : FVal :=
  if a.isNan || b.isNan then .nan false
  else if big then (if fLt a b then b else a) else (if fLt b a then b else a)

end Sys2Proof.Machine
end

