-- ==== Sys2Proof/Machine/Sums.lean ====
section
/-! DEFINITION. Products, exact and anchored accumulation, raw records and their combination, and the statistics of a row
(R65 to R70, R88 to R107). -/
namespace Sys2Proof.Machine
open Sys2Proof

/-- The longest reduction (R90). -/
def maxProducts : Nat := 2 ^ 30

/-! ### Products (R65) -/

/-- One product: its exact value mant × 2^exp (0 when it contributes nothing), the tag bits it sets (R98: bit 2 −∞, bit 1 +∞,
bit 0 NaN) and whether forming it raises invalid. -/
structure Term where
  mant : Int
  exp  : Int
  tag  : Nat
  inv  : Bool
deriving DecidableEq, Repr

/-- R65: the product of two operands, scaled by 2^s (R89). -/
def formProduct (s : Int) (a b : FVal) : Term :=
  match a, b with
  | .nan _, _ => ⟨0, 0, 1, true⟩
  | _, .nan _ => ⟨0, 0, 1, true⟩
  | .inf _, .zero _ => ⟨0, 0, 1, true⟩
  | .zero _, .inf _ => ⟨0, 0, 1, true⟩
  | .inf n, .inf m => ⟨0, 0, if n != m then 4 else 2, false⟩
  | .inf n, .fin m _ _ => ⟨0, 0, if n != m then 4 else 2, false⟩
  | .fin n _ _, .inf m => ⟨0, 0, if n != m then 4 else 2, false⟩
  | .zero _, _ => ⟨0, 0, 0, false⟩
  | _, .zero _ => ⟨0, 0, 0, false⟩
  | x, y => ⟨x.mant * y.mant, x.exp + y.exp + s, 0, false⟩

/-- The value 1, as a finite operand. -/
def oneF : FVal := .fin false 1 0

/-- The flags and the tag of a list of products. -/
def termFlags (ts : List Term) : Nat := flagIf (ts.any (·.inv)) fInvalid
def termTag (ts : List Term) : Nat := ts.foldl (fun a t => a ||| t.tag) 0

/-- R92: the anchor of a list of products, none when no product qualifies. -/
def anchorOf (ts : List Term) : Option Int :=
  ts.foldl (fun (a : Option Int) (t : Term) =>
    if t.mant = 0 then a
    else
      let e := floorLog2 t.mant.natAbs t.exp
      match a with
      | none => some e
      | some x => some (max x e)) none

/-- The greater of two anchors; 0x8000 (none) loses to any other. -/
def maxAnchor (a b : Option Int) : Option Int :=
  match a, b with
  | none, y => y
  | x, none => x
  | some x, some y => some (max x y)

/-- R88: the exact sum of the products, in units of 2^-56. -/
def exactSum (ts : List Term) : Int := ts.foldl (fun a t => if t.mant = 0 then a else a + shiftUp t.mant (t.exp + 56)) 0

/-- R93 step 1: mant × 2^exp truncated toward zero to units of 2^u, and whether non-zero bits were lost. -/
def truncUnits (m : Int) (e u : Int) : Int × Bool :=
  if e ≥ u then (shiftUp m (e - u), false)
  else
    let d := 2 ^ (u - e).toNat
    let q : Int := (m.natAbs / d : Nat)
    (if m < 0 then -q else q, m.natAbs % d != 0)

/-- R93 steps 1 and 2: the window of the products under anchor E, and whether any product lost bits. -/
def windowSum (anchor : Int) (ts : List Term) : Int × Bool :=
  ts.foldl (fun (a : Int × Bool) (t : Term) =>
    let (v, lost) := truncUnits t.mant t.exp (anchor - 220)
    (a.1 + v, a.2 || lost)) (0, false)

/-! ### Accumulator entries (R110, R123) -/

/-- The count of an entry. -/
def accCount : Acc → Nat
  | .exact _ _ c => c
  | .anch _ _ c _ _ => c
  | .high => 0

/-- The target of a reduction, read at its entry: `none` when empty, a status when its kind is another (R123, R124). An anchored
window needs both its halves. -/
def targetAcc (m : NMap Acc) (e : Nat) (anchored : Bool) : Except Nat (Option Acc) :=
  match nget m e with
  | none => if anchored then (match nget m (e + 1) with
      | none => .ok none
      | some _ => .error stAccKind) else .ok none
  | some (.exact s t c) => if anchored then .error stAccKind else .ok (some (.exact s t c))
  | some (.anch w t c tr an) =>
    if anchored then (match nget m (e + 1) with
      | some .high => .ok (some (.anch w t c tr an))
      | some (.exact _ _ _) => .error stAccKind
      | some (.anch _ _ _ _ _) => .error stAccKind
      | none => .error stAccKind) else .error stAccKind
  | some .high => .error stAccKind

/-- Put an entry; an anchored window takes two. -/
def putAcc (m : NMap Acc) (e : Nat) (a : Acc) : NMap Acc :=
  match a with
  | .exact _ _ _ => nset m e a
  | .anch _ _ _ _ _ => nset (nset m e a) (e + 1) .high
  | .high => nset m e a

/-- Empty the entry (both entries of a window). -/
def clearAcc (m : NMap Acc) (e : Nat) (anchored : Bool) : NMap Acc :=
  if anchored then ndel (ndel m e) (e + 1) else ndel m e

/-! ### Combining records (R100) -/

/-- A sum kept in the `w` bits of its field. -/
def wrapSigned (w : Nat) (z : Int) : Int := signedOf w (codeOf w z)

/-- A window moved from anchor `a` up to `c`: truncated toward zero by c − a bits, with whether bits were dropped. -/
def realign (w : Int) (a c : Int) : Int × Bool := truncUnits w a c

/-- R100: two records of one reduction combined. The strict column needs equal anchors; the non-strict one realigns to the larger (lengths
are compared before anchors, log 43). -/
def combineAcc (strict : Bool) (x y : Acc) : Except Nat Acc :=
  match x, y with
  | .exact s t c, .exact s' t' c' =>
    if c + c' > maxProducts then .error stReductionTooLong
    else .ok (.exact (wrapSigned 128 (s + s')) (t ||| t') (c + c'))
  | .anch w t c tr a, .anch w' t' c' tr' a' =>
    if c + c' > maxProducts then .error stReductionTooLong
    else
      match a, a' with
      | none, none => .ok (.anch 0 (t ||| t') (c + c') (tr || tr') none)
      | none, some e => .ok (.anch w' (t ||| t') (c + c') (tr || tr') (some e))
      | some e, none => .ok (.anch w (t ||| t') (c + c') (tr || tr') (some e))
      | some e, some e' =>
        if e = e' then .ok (.anch (wrapSigned 256 (w + w')) (t ||| t') (c + c') (tr || tr') (some e))
        else if strict then .error stAnchorMismatch
        else
          let ec := max e e'
          let (u, l) := realign w e ec
          let (u', l') := realign w' e' ec
          .ok (.anch (wrapSigned 256 (u + u')) (t ||| t') (c + c') (tr || tr' || l || l') (some ec))
  | _, _ => .error stBadDescriptor

/-! ### Raw records (R98, R99) -/

/-- The bytes of the record of an entry; the anchored form when `anchored`. An empty entry gives the empty record (R126). -/
def exactRecord (s : Int) (tag count : Nat) : List Byte :=
  leBytes 16 (codeOf 128 s) ++ leBytes 4 count ++ leBytes 1 tag ++ leBytes 1 1 ++ List.replicate 10 0

def anchoredRecord (w : Int) (tag count : Nat) (trunc : Bool) (anchor : Option Int) : List Byte :=
  let a := match anchor with
    | none => 0x8000
    | some e => codeOf 16 e
  leBytes 32 (codeOf 256 w) ++ leBytes 4 count ++ leBytes 2 a ++ leBytes 1 (tag + if trunc then 8 else 0) ++ leBytes 1 2
    ++ List.replicate 8 0

def recordBytes (anchored : Bool) (a : Option Acc) : List Byte :=
  match a with
  | some (.exact s t c) => exactRecord s t c
  | some (.anch w t c tr an) => anchoredRecord w t c tr an
  | some .high => []
  | none => if anchored then anchoredRecord 0 0 0 false none else exactRecord 0 0 0

/-- Bytes of a record of the form. -/
def recordSize (anchored : Bool) : Nat := if anchored then 48 else 32

/-- R10, R99, R126: the record a command is supplied with, in the form it names, or the status that refuses it (the truncated bit of an
exact record and a window beside anchor 0x8000, log 43). -/
def parseRecord (anchored : Bool) (bs : List Byte) : Except Nat Acc :=
  let tagByte := numAt bs (if anchored then 38 else 20) 1
  let kind := numAt bs (if anchored then 39 else 21) 1
  let rest := numAt bs (if anchored then 40 else 22) 16
  let count := numAt bs (if anchored then 32 else 16) 4
  if kind ≠ (if anchored then 2 else 1) ∨ rest ≠ 0 ∨ tagByte ≥ 16 then .error stBadDescriptor
  else if count > maxProducts then .error stReductionTooLong
  else if anchored then
    let a := numAt bs 36 2
    let an : Option Int := if a = 0x8000 then none else some (signedOf 16 a)
    .ok (.anch (signedOf 256 (numAt bs 0 32)) (tagByte % 8) count (tagByte.testBit 3) an)
  else .ok (.exact (signedOf 128 (numAt bs 0 16)) (tagByte % 8) count)

/-! ### Rounding an entry (R67, R91, R93, R95, R127) -/

/-- R67: what a non-zero tag gives. -/
def tagOutput (f tag : Nat) : Nat × Nat :=
  if tag.testBit 0 then (fmtNan f, 0)
  else if tag.testBit 1 && tag.testBit 2 then (fmtNan f, fInvalid)
  else (withSign f (tag.testBit 2) (fmtInf f), flagIf (f == 1) (fOverflow ||| fInexact))

/-- The entry's sum divided by `d`, rounded once to format `f`: code and flags. -/
def roundAcc (f mode draw d : Nat) (a : Acc) : Nat × Nat :=
  match a with
  | .exact s t _ => if t ≠ 0 then tagOutput f t else roundExact f mode draw s d (-56)
  | .anch w t _ tr an =>
    if t ≠ 0 then tagOutput f t
    else
      match an with
      | none => (0, flagIf tr fInexact)
      | some e =>
        let (c, fl) := roundExact f mode draw w d (e - 220)
        (c, fl ||| flagIf tr fInexact)
  | .high => (0, 0)

/-! ### One element of a reduction (R121, R123, R124, R128) -/

/-- The sum of the products with their own anchor (pass one over these products, R92). -/
def ownSum (anchored : Bool) (ts : List Term) : Acc :=
  if anchored then
    match anchorOf ts with
    | none => .anch 0 (termTag ts) ts.length false none
    | some e =>
      let (w, lost) := windowSum e ts
      .anch w (termTag ts) ts.length lost (some e)
  else .exact (exactSum ts) (termTag ts) ts.length

/-- R124: does a product exceed the entry's anchor. -/
def exceedsAnchor (an : Option Int) (ts : List Term) : Bool :=
  match anchorOf ts, an with
  | none, _ => false
  | some _, none => true
  | some e, some a => decide (e > a)

/-- The entry after the products `ts` (bias included) are added. `old` is the target with CT, empty without (k = 0 and windows near their
ends, log 43). -/
def reduceElem (anchored aa strict : Bool) (old : Option Acc) (ts : List Term) : Except Nat Acc :=
  match anchored, aa, old with
  | false, _, none => .ok (ownSum false ts)
  | false, _, some a => combineAcc true a (ownSum false ts)
  | true, true, none => .ok (ownSum true ts)
  | true, true, some a => combineAcc strict a (ownSum true ts)
  | true, false, none => .error stAnchorUnset
  | true, false, some (.anch w t c tr an) =>
    if exceedsAnchor an ts then .error stAnchorMismatch
    else
      match an with
      | none => .ok (.anch w (t ||| termTag ts) (c + ts.length) tr none)
      | some e =>
        let (v, lost) := windowSum e ts
        .ok (.anch (w + v) (t ||| termTag ts) (c + ts.length) (tr || lost) (some e))
  | true, false, some (.exact _ _ _) => .error stAccKind
  | true, false, some .high => .error stAccKind

/-! ### Statistics of a row (R103 to R106) -/

/-- The squares of (x − μ), each exact and scaled by 2^s; elements that are not finite contribute nothing. -/
def squaredDeviations (s : Int) (mu : FVal) (xs : List FVal) : List Term :=
  xs.map fun x =>
    match x, mu with
    | .nan _, _ => ⟨0, 0, 1, true⟩
    | _, .nan _ => ⟨0, 0, 1, true⟩
    | .inf n, .inf m => if n = m then ⟨0, 0, 1, true⟩ else ⟨0, 0, 2, false⟩
    | .inf _, _ => ⟨0, 0, 2, false⟩
    | _, .inf _ => ⟨0, 0, 2, false⟩
    | a, b =>
      let (d, e) := dyAdd a.mant a.exp (-b.mant) b.exp
      ⟨d * d, 2 * e + s, 0, false⟩

/-- The products x × 1 of a row, scaled by 2^s. -/
def sumTerms (s : Int) (xs : List FVal) : List Term := xs.map fun x => formProduct s x oneF

/-- R103, R104, R106: mean and variance of a row of values read in format `f`, in format `g` with rounding `mode` and one draw
for each output: the two codes and the flags. The row is not empty. -/
def rowStats (f g mode draw0 draw1 : Nat) (xs : List FVal) : Nat × Nat × Nat :=
  let n := xs.length
  let ts := sumTerms 0 xs
  let s := ownSum (f == 2) ts
  let (muCode, muFl) := roundAcc f 0 0 n s
  let (mean, meanFl) := roundAcc g mode draw0 n s
  if termTag ts ≠ 0 then (mean, fmtNan g, termFlags ts ||| meanFl ||| muFl ||| fInvalid)
  else
    let q := ownSum (f == 2) (squaredDeviations 0 (decodeF f muCode) xs)
    let (var, varFl) := roundAcc g mode draw1 n q
    (mean, var, muFl ||| meanFl ||| varFl)

end Sys2Proof.Machine
end

