-- ==== Sys2Proof/Machine/Reals.lean ====
section
/-! DEFINITION. The real functions behind the built-in tables (R171, R183), in fixed point of 384 fraction bits: far beyond the
bits any node keeps, so that the node that R183's rule defines is the one computed. -/
namespace Sys2Proof.Machine
open Sys2Proof

/-- Fraction bits of the fixed-point reals of this file. -/
def fxBits : Nat := 384

/-- 1. -/
def fxOne : Nat := 2 ^ fxBits

def fxMul (a b : Nat) : Nat := a * b / fxOne
def fxDiv (a b : Nat) : Nat := a * fxOne / b

/-- One bit of an integer square root: the root so far of `n / 4^k`, extended to `n / 4^(k-1)`. -/
def isqrtLoop (n : Nat) : Nat → Nat → Nat
  | 0, r => r
  | k + 1, r =>
    let c := 2 * r + 1
    isqrtLoop n k (if c * c ≤ n / 4 ^ k then c else 2 * r)

/-- floor(√n). -/
def isqrt (n : Nat) : Nat := isqrtLoop n (Nat.log2 n / 2 + 1) 0

def fxSqrt (a : Nat) : Nat := isqrt (a * fxOne)

/-- Σ over n of x^(2n+1) / (2n+1), `k` terms: atanh x for x below 1. -/
def fxAtanhLoop (x2 : Nat) : Nat → Nat → Nat → Nat → Nat
  | 0, _, _, acc => acc
  | k + 1, p, n, acc => fxAtanhLoop x2 k (fxMul p x2) (n + 2) (acc + p / n)

def fxAtanh (x : Nat) : Nat := fxAtanhLoop (fxMul x x) 140 x 1 0

/-- ln 2 = 2 atanh(1/3). -/
def fxLn2 : Nat := 2 * fxAtanh (fxOne / 3)

/-- Σ of (−1)^n x^(2n+1) / (2n+1) for x = 1/d: arctan(1/d). -/
def fxAtanLoop (d2 : Nat) : Nat → Nat → Nat → Bool → Int → Int
  | 0, _, _, _, acc => acc
  | k + 1, p, n, neg, acc => fxAtanLoop d2 k (p / d2) (n + 2) (!neg) (if neg then acc - (p / n : Nat) else acc + (p / n : Nat))

def fxAtanInv (d : Nat) : Int := fxAtanLoop (d * d) 180 (fxOne / d) 1 false 0

/-- π, by Machin's formula. -/
def fxPi : Nat := (16 * fxAtanInv 5 - 4 * fxAtanInv 239).toNat

/-- ln y for y above 0 (in fixed point). -/
def fxLn (y : Nat) : Int :=
  let l := Nat.log2 y
  let m := y * fxOne / 2 ^ l
  ((l : Int) - fxBits) * fxLn2 + (2 * fxAtanh (fxDiv (m - fxOne) (m + fxOne)) : Nat)

/-- log2 y for y above 0. -/
def fxLog2 (y : Nat) : Int := fxLn y * fxOne / fxLn2

def fxExpLoop (r : Nat) : Nat → Nat → Nat → Nat → Nat
  | 0, _, _, acc => acc
  | k + 1, t, n, acc => fxExpLoop r k (fxMul t r / n) (n + 1) (acc + t)

/-- e^x for x at or above 0. -/
def fxExp (x : Nat) : Nat :=
  let k := x / fxLn2
  fxExpLoop (x - k * fxLn2) 110 fxOne 1 0 * 2 ^ k

/-- e^z for any z, given its magnitude and sign. -/
def fxExpS (neg : Bool) (x : Nat) : Nat := if neg then fxOne * fxOne / fxExp x else fxExp x

def fxErfLoop (x2 : Nat) : Nat → Nat → Nat → Nat → Nat
  | 0, _, _, acc => acc
  | k + 1, t, n, acc => fxErfLoop x2 k (2 * fxMul t x2 / n) (n + 2) (acc + t)

/-- erf x for x at or above 0: 2/√π × e^(−x²) × Σ 2^n x^(2n+1) / (2n+1)!!. -/
def fxErf (x : Nat) : Nat :=
  let x2 := fxMul x x
  let s := fxErfLoop x2 900 x 3 0
  fxMul (fxDiv (2 * s) (fxSqrt fxPi)) (fxExpS true x2)

/-- The magnitude of f(x) of a binade function of R182 as a quotient of two fixed-point numbers, at magnitude `x` and sign
`neg` of the argument. -/
def binadeValue (func : Nat) (neg : Bool) (x : Nat) : Nat × Nat :=
  if func = 0x07 then (fxOne, fxOne + fxExpS (!neg) x)
  else if func = 0x08 then (fxExp (2 * x) - fxOne, fxExp (2 * x) + fxOne)
  else if func = 0x09 then ((fxLn (fxOne + fxExpS neg x)).toNat, fxOne)
  else if func = 0x0A then (x, fxOne + fxExpS (!neg) x)
  else if func = 0x0B then (fxErf x, fxOne)
  else if func = 0x0C then
    let e := fxErf (fxDiv x (fxSqrt (2 * fxOne)))
    (fxMul x (if neg then fxOne - e else fxOne + e), 2 * fxOne)
  else if func = 0x0D then
    let u := fxMul (fxSqrt (fxDiv (2 * fxOne) fxPi)) (x + fxMul (44715 * fxOne / 1000000) (fxMul x (fxMul x x)))
    (x, fxOne + fxExpS (!neg) (2 * u))
  else (x, fxOne + fxExpS (!neg) (1702 * x / 1000))

/-- Is f(x) negative there: SiLU and the three GELU functions are, at negative arguments. -/
def binadeNeg (func : Nat) (neg : Bool) : Bool := neg && (func == 0x0A || func == 0x0C || func == 0x0D || func == 0x0E)

/-- g of R183 at the position: f itself (kind 0), log2 |f| (kinds 1, 2), log2(1 − |f|) (kind 3). -/
def binadeNode (func kind : Nat) (neg : Bool) (x : Nat) : Int :=
  if kind = 3 then
    (if func = 0x08 then fxLog2 (fxDiv (2 * fxOne) (fxExp (2 * x) + fxOne))
     else if func = 0x07 then fxLog2 (fxDiv (fxExpS (!neg) x) (fxOne + fxExpS (!neg) x))
     else
       let (n, d) := binadeValue func neg x
       fxLog2 (fxOne - fxDiv n d))
  else
    let (n, d) := binadeValue func neg x
    if kind = 0 then (if binadeNeg func neg then -(fxDiv n d : Int) else fxDiv n d)
    else (fxLn n - fxLn d) * fxOne / fxLn2

/-- g of the uniform and parity tables (R183) at w, or at m′, in fixed point. -/
def uniformNode (func pos : Nat) : Int :=
  if func ≤ 0x01 then fxExp (fxMul pos fxLn2)
  else if func ≤ 0x03 then fxLog2 (fxOne + pos)
  else if func = 0x04 then fxDiv fxOne (fxOne + pos)
  else if func = 0x05 then fxSqrt pos
  else fxDiv fxOne (fxSqrt pos)

/-- floor(log2 M) + 1 for the magnitude M of a node, 2^-200 of slack taking up the last places of an exact power of two. -/
def scaleOf (m : Nat) : Int := (Nat.log2 (m + 2 ^ (fxBits - 200)) : Int) - fxBits + 1

/-- round_nearest_even(g × 2^(29 − s)). -/
def nodeRound (g : Int) (s : Int) : Int :=
  let sh := ((fxBits : Int) - (29 - s)).toNat
  let a := g.natAbs
  let t := a / 2 ^ sh
  let r := a % 2 ^ sh
  let t := if roundsUp 0 false t r (2 ^ sh) 0 then t + 1 else t
  if g < 0 then -(t : Int) else t

end Sys2Proof.Machine
end

