-- ==== Sys2Proof/Machine/Sfn.lean ====
section
/-! DEFINITION. The special-function unit: tables, reductions, special arguments, flags (R171 to R196). An internal value V is a
dyadic pair (mantissa, exponent). -/
namespace Sys2Proof.Machine
open Sys2Proof

/-- A table in force: its parameters, and its scales, value kinds and node values by group. -/
structure Table where
  edition   : Nat
  geometry  : Nat
  reduction : Nat
  symmetry  : Nat
  h         : Int
  p2        : Int
  tailNeg   : Nat
  tailPos   : Nat
  smallX0   : Nat
  smallE    : Int
  kMul      : Nat
  c0        : Int
  c1        : Int
  c2        : Int
  c3        : Int
  limNeg    : Nat
  limPos    : Nat
  scale     : Nat → Int
  kind      : Nat → Nat
  node      : Nat → Nat → Int
  name      : Nat

/-! ### Evaluation inside a group (R176, R177) -/

/-- R176: segments S per group. -/
def segments (edition geometry : Nat) : Nat :=
  if edition = 1 then (if geometry = 0 then 1024 else if geometry = 1 then 512 else 32)
  else (if geometry = 0 then 512 else if geometry = 1 then 256 else 16)

/-- R176: groups of a geometry, and node values of a group. -/
def groupsOf (geometry : Nat) : Nat := if geometry = 0 then 1 else if geometry = 1 then 2 else 32
def groupNodes (edition geometry : Nat) : Nat :=
  if edition = 1 then 2 * segments 1 geometry + 1 else segments 0 geometry + 1

/-- R177. -/
def quadStep (y0 y1 y2 : Int) (t : Nat) : Int :=
  let d1 := 4 * y1 - 3 * y0 - y2
  let d2 := 2 * (y0 - 2 * y1 + y2)
  let a := ((t : Int) * d2).fdiv (2 ^ 24)
  let b := ((t : Int) * (d1 + a)).fdiv (2 ^ 24)
  y0 + b

def linStep (y0 y1 : Int) (t : Nat) : Int := y0 + ((t : Int) * (y1 - y0)).fdiv (2 ^ 24)

/-- P at segment `j`, offset `t` of a group's nodes. -/
def interpolate (edition : Nat) (node : Nat → Int) (j t : Nat) : Int :=
  if edition = 1 then quadStep (node (2 * j)) (node (2 * j + 1)) (node (2 * j + 2)) t
  else linStep (node j) (node (j + 1)) t

/-- The segment and offset of the fraction (m − 2^L) / 2^L of a group, for the mantissa `m` with L = floor(log2 m). -/
def segmentAt (s m : Nat) : Nat × Nat :=
  let l := Nat.log2 m
  let z := (m - 2 ^ l) * (s * 2 ^ 24) / 2 ^ l
  (z / 2 ^ 24, z % 2 ^ 24)

/-- G = P × 2^(s_g − 29) of a group at the mantissa's fraction. -/
def groupValue (t : Table) (g m : Nat) : Int × Int :=
  let (j, o) := segmentAt (segments t.edition t.geometry) m
  (interpolate t.edition (t.node g) j o, t.scale g - 29)

/-! ### Built-in tables (R182, R183) -/

/-- R182: the value kind of a group of a binade function, `b` its binade. In edition 0 every kind is plain (R196). -/
def builtinKind (func edition : Nat) (neg : Bool) (b : Int) : Nat :=
  if edition = 0 then 0
  else if func = 0x07 then (if neg ∧ b ≥ 0 then 1 else if !neg ∧ b ≥ 0 then 3 else 0)
  else if func = 0x08 ∨ func = 0x0B then (if b ≥ 0 then 3 else 0)
  else if func = 0x09 then (if neg ∧ b ≥ 0 then 1 else 0)
  else (if neg ∧ b ≥ 0 then 2 else 0)

/-- R181: sign and binade of group `g`. -/
def groupBinade (symmetry : Nat) (h : Int) (g : Nat) : Bool × Int :=
  if symmetry = 0 then (if g < 16 then (false, (g : Int) + h - 16) else (true, (g : Int) - 16 + h - 16))
  else (false, (g : Int) - 32 + h)

/-- 2^b × (1 + i/n) in fixed point. -/
def binadePoint (b : Int) (i n : Nat) : Nat := (n + i) * 2 ^ ((fxBits : Int) + b).toNat / n

/-- g of R183 at node `i` of group `grp` of built-in function `func`. -/
def builtinNodeReal (func edition grp i : Nat) : Int :=
  let geometry := if func ≤ 0x04 then 0 else if func ≤ 0x06 then 1 else 2
  let n := groupNodes edition geometry - 1
  if geometry = 0 then uniformNode func (i * fxOne / n)
  else if geometry = 1 then uniformNode func (binadePoint grp i n)
  else
    let sym := if func = 0x08 ∨ func = 0x0B then 1 else 0
    let (neg, b) := groupBinade sym (if func = 0x0B then 3 else 4) grp
    binadeNode func (builtinKind func edition neg b) neg (binadePoint b i n)

/-- R183: s_g = floor(log2 M) + 1. M, the largest |g| of the group, lies in the same binade as the larger of the two end nodes
in every built-in group. -/
def builtinScale (func edition grp : Nat) : Int :=
  let geometry := if func ≤ 0x04 then 0 else if func ≤ 0x06 then 1 else 2
  let a := (builtinNodeReal func edition grp 0).natAbs
  let b := (builtinNodeReal func edition grp (groupNodes edition geometry - 1)).natAbs
  scaleOf (Nat.max a b)

/-- R182: log2 e, ln 2, 1 and round(1.702 × log2 e × 2^62), each at weight 2^-62. -/
def builtinK (func : Nat) : Nat :=
  if func = 0x02 then 0x2C5C85FDF473DE6B
  else if func = 0x01 ∨ func = 0x03 then 0x4000000000000000
  else if func = 0x0E then 0x9D265EE3F7135968
  else 0x5C551D94AE0BF85E

/-- R182 with R183: small rule and tails of a built-in function; the c_i are rounded at weight 2^-30. -/
def builtinTable (func edition : Nat) : Table :=
  let c : Int × Int × Int × Int :=
    if func = 0x02 then (0, 1073741824, -536870912, 357913941)
    else if func = 0x03 then (0, 1549082005, -774541002, 516360668)
    else if func = 0x07 then (536870912, 268435456, 0, -22369621)
    else if func = 0x08 then (0, 1073741824, 0, -357913941)
    else if func = 0x09 then (744261118, 536870912, 134217728, 0)
    else if func = 0x0A then (0, 536870912, 268435456, 0)
    else if func = 0x0B then (0, 1211587905, 0, -403862635)
    else if func = 0x0C ∨ func = 0x0D then (0, 536870912, 428361012, 0)
    else if func = 0x0E then (0, 536870912, 456877146, 0)
    else (0, 0, 0, 0)
  { edition
    geometry := if func ≤ 0x04 then 0 else if func ≤ 0x06 then 1 else 2
    reduction := if func ≤ 0x01 then 1 else if func ≤ 0x03 then 2 else if func ≤ 0x06 then 3 else 0
    symmetry := if func = 0x08 ∨ func = 0x0B then 1 else 0
    h := if func = 0x0B then 3 else 4
    p2 := if func = 0x04 then -2 else if func = 0x05 then 1 else -1
    tailNeg := if func = 0x07 ∨ func = 0x09 then 2 else if func = 0x0A ∨ func = 0x0E then 3 else 0
    tailPos := if func = 0x07 ∨ func = 0x08 ∨ func = 0x0B then 0 else 1
    smallX0 := if func ≤ 0x03 then 1 else 0
    smallE := if func ≤ 0x01 then -128 else if func ≤ 0x03 then -10 else if func ≤ 0x06 then -128
              else if func = 0x08 then -28 else if func = 0x0B then -29 else -12
    kMul := builtinK func
    c0 := c.1
    c1 := c.2.1
    c2 := c.2.2.1
    c3 := c.2.2.2
    limNeg := if func = 0x08 ∨ func = 0x0B then 0xBF800000 else 0
    limPos := 0x3F800000
    scale := builtinScale func edition
    kind := fun g =>
      let (neg, b) := groupBinade (if func = 0x08 ∨ func = 0x0B then 1 else 0) (if func = 0x0B then 3 else 4) g
      if func ≤ 0x06 then 0 else builtinKind func edition neg b
    node := fun g i => nodeRound (builtinNodeReal func edition g i) (builtinScale func edition g)
    name := func }

/-- A loaded table (R190, R191). -/
def loadedTable (f : FnTable) : Table :=
  { edition := f.edition
    geometry := f.geometry
    reduction := f.reduction
    symmetry := f.symmetry
    h := f.h
    p2 := f.p2
    tailNeg := f.tailNeg
    tailPos := f.tailPos
    smallX0 := f.smallX0
    smallE := f.smallE
    kMul := f.kMul
    c0 := f.c0
    c1 := f.c1
    c2 := f.c2
    c3 := f.c3
    limNeg := f.limNeg
    limPos := f.limPos
    scale := fun g => f.scales.getD g 0
    kind := fun g => f.kinds.getD g 0
    node := fun g i => f.nodes.getD (g * groupNodes f.edition f.geometry + i) 0
    name := leNat f.digest }

/-! ### Reductions (R178 to R181) -/

/-- floor of a dyadic number × 2^k. -/
def dyFloor (m : Int) (e : Int) (k : Int) : Int :=
  if e + k ≥ 0 then shiftUp m (e + k) else m.fdiv (2 ^ (-(e + k)).toNat : Nat)

/-- R178: the exp2 path at the exact dyadic v, with the built-in exp2 table of `edition`. -/
def exp2Path (edition : Nat) (m e : Int) : Int × Int :=
  let vf := dyFloor m e 34
  if vf ≥ 256 * 2 ^ 34 then (1, 256)
  else if vf < -(256 * 2 ^ 34) then (1, -256)
  else
    let n := vf.fdiv (2 ^ 34)
    let uf := (vf - n * 2 ^ 34).toNat
    let t := builtinTable 0x01 edition
    let j := if edition = 1 then uf / 2 ^ 24 else uf / 2 ^ 25
    let o := if edition = 1 then uf % 2 ^ 24 else uf / 2 % 2 ^ 24
    (interpolate edition (t.node 0) j o, n + t.scale 0 - 29)

/-- R186 step 2, R178: V of exp at the exact dyadic a. -/
def expValue (edition : Nat) (m e : Int) : Int × Int := exp2Path edition (m * builtinK 0x00) (e - 62)

/-- |m × 2^e| < 2^k. -/
def dyBelow (m e k : Int) : Bool := m == 0 || decide (floorLog2 m.natAbs e < k)

/-- R181 step 1: c0 + c1 u + c2 u² + c3 u³ at weight 2^-30. -/
def smallPoly (t : Table) (m e : Int) : Int × Int :=
  let (m1, e1) := dyAdd (t.c3 * m) e t.c2 0
  let (m2, e2) := dyAdd (m1 * m) (e1 + e) t.c1 0
  let (m3, e3) := dyAdd (m2 * m) (e2 + e) t.c0 0
  (m3, e3 - 30)

/-- The small rule's argument u = a − x0 when the rule applies; the logarithmic reduction has x0 = 1 whatever the header says (R179). -/
def smallArg (t : Table) (m e : Int) : Option (Int × Int) :=
  if t.smallE = -128 then none
  else
    let (u, ue) := dyAdd m e (-((if t.reduction = 2 then 1 else t.smallX0 : Nat) : Int)) 0
    if dyBelow u ue t.smallE then some (u, ue) else none

/-- What a table gives for an argument: a value to round, or an infinity or NaN of a limit. -/
inductive SfnValue where
  | val (m e : Int)
  | special (v : FVal)
deriving DecidableEq, Repr

/-- A limit, an FP32 value. -/
def limitValue (c : Nat) : SfnValue :=
  match decodeF 2 c with
  | .nan s => .special (.nan s)
  | .inf n => .special (.inf n)
  | .zero _ => .val 0 0
  | .fin n m e => .val (if n then -(m : Int) else m) e

/-- R181 step 2: the tail of a's sign. -/
def tailValue (t : Table) (edition : Nat) (m e : Int) : SfnValue :=
  let k := if m < 0 then t.tailNeg else t.tailPos
  if k = 0 then limitValue (if m < 0 then t.limNeg else t.limPos)
  else if k = 1 then .val m e
  else
    let (p, w) := exp2Path edition (m * t.kMul) (e - 62)
    if k = 2 then .val p w else .val (m * p) (e + w)

/-- R181: the direct reduction at finite non-zero a. `edition` is that of the exp2 path. -/
def directValue (t : Table) (edition : Nat) (m e : Int) : SfnValue :=
  match smallArg t m e with
  | some (u, ue) =>
    let (v, w) := smallPoly t u ue
    .val v w
  | none =>
    if m ≠ 0 ∧ floorLog2 m.natAbs e ≥ t.h then
      -- an odd table's tail on the negative side is the mirror of its positive one for the built-in functions (R182)
      tailValue t edition m e
    else
      let b := floorLog2 m.natAbs e
      let g := if t.symmetry = 0 then b - t.h + 16 + (if m < 0 then 16 else 0) else b - t.h + 32
      let lowest := if t.symmetry = 0 then t.h - 16 else t.h - 32
      if m = 0 ∨ b < lowest then
        let (v, w) := Config.tableGap t.name m e
        .val v w
      else
        let (p, w) := groupValue t g.toNat m.natAbs
        let kind := t.kind g.toNat
        let (fm, fe) :=
          if kind = 0 then (p, w)
          else
            let (q, x) := exp2Path edition p w
            if kind = 1 then (q, x) else if kind = 2 then (-q, x) else dyAdd 1 0 (-q) x
        .val (if t.symmetry = 1 ∧ m < 0 then -fm else fm) fe

/-- V of a table at the finite non-zero a = m × 2^e (for the direct reduction also at 0). -/
def tableValue (t : Table) (edition : Nat) (m e : Int) : SfnValue :=
  if t.reduction = 0 then directValue t edition m e
  else if t.reduction = 1 then
    let (p, w) := exp2Path edition (m * t.kMul) (e - 62)
    .val p w
  else if t.reduction = 2 then
    match smallArg t m e with
    | some (u, ue) =>
      let (v, w) := smallPoly t u ue
      .val v w
    | none =>
      let n := floorLog2 m.natAbs e
      let (p, w) := groupValue t 0 m.natAbs
      let (s, se) := dyAdd n 0 p w
      .val (s * t.kMul) (se - 62)
  else
    let n := floorLog2 m.natAbs e
    if t.p2 = -2 then
      let (p, w) := groupValue t 0 m.natAbs
      .val (if m < 0 then -p else p) (w - n)
    else
      let odd := n % 2 ≠ 0
      let (p, w) := groupValue t (if odd then 1 else 0) m.natAbs
      .val p (w + (if odd then n - 1 else n) * t.p2 / 2)

/-! ### Special arguments, flags and delivery (R173 to R175, R185, R191) -/

/-- R185: the exact argument A − C. -/
def sfnArgument (a : FVal) (c : Option FVal) : FVal :=
  match c with
  | none => a
  | some y =>
    match a, y with
    | .nan s, _ => .nan s
    | _, .nan s => .nan s
    | .inf n, .inf m => if n = m then .nan false else .inf n
    | .inf n, _ => .inf n
    | _, .inf m => .inf (!m)
    | x, z =>
      let (d, e) := dyAdd x.mant x.exp (-z.mant) z.exp
      if d = 0 then .zero false else .fin (decide (d < 0)) d.natAbs e

/-- An infinite result: saturated in F16S with overflow and inexact (R175). -/
def deliverInf (g : Nat) (neg : Bool) : Nat × Nat :=
  (withSign g neg (fmtInf g), flagIf (g == 1) (fOverflow ||| fInexact))

/-- The family of R175's columns that a table belongs to: 0 exp, 1 log, 2 reciprocal, 3 sqrt, 4 rsqrt, 5 direct. -/
def sfnFamily (t : Table) : Nat :=
  if t.reduction = 1 then 0 else if t.reduction = 2 then 1 else if t.reduction = 0 then 5
  else if t.p2 = -2 then 2 else if t.p2 = 1 then 3 else 4

/-- R174: is the finite argument an exact point of a built-in function. -/
def exactPoint (func : Nat) (m e : Int) : Bool :=
  let pow2 := m != 0 && m.natAbs == 2 ^ Nat.log2 m.natAbs
  let l := floorLog2 m.natAbs e
  if func = 0x01 then m == 0 || decide (e ≥ 0) || m.natAbs % 2 ^ (-e).toNat == 0
  else if func = 0x02 then pow2 && decide (m > 0) && l == 0
  else if func = 0x03 then pow2 && decide (m > 0)
  else if func = 0x04 then pow2
  else if func = 0x05 ∨ func = 0x06 then pow2 && decide (m > 0) && l % 2 == 0
  else if func = 0x00 ∨ func = 0x07 ∨ func = 0x08 ∨ func = 0x0A ∨ func = 0x0B ∨ func = 0x0C ∨ func = 0x0D ∨ func = 0x0E then m == 0
  else false

/-- A result is tiny: below the smallest normal, zero included. -/
def tinyCode (g c : Nat) : Bool := decide (c % 2 ^ fmtSignBit g < 2 ^ fmtFrac g) && !(g == 1 && c == 0x8000)

/-- V rounded once to nearest in format `g` with R174's flags. `exact`: an exact point; `loaded`: a loaded function, of whose
zero result from a zero V nothing says that the true value is not zero (log 8). -/
def deliverValue (g : Nat) (exact loaded : Bool) (v : SfnValue) : Nat × Nat :=
  match v with
  | .special x =>
    let (c, f) := convertF 2 g 0 x
    (c, f ||| fInexact)
  | .val m e =>
    let (c, f) := roundExact g 0 0 m 1 e
    if exact then (c, f)
    else
      let tiny := tinyCode g c && !(loaded && m == 0)
      (c, f ||| fInexact ||| flagIf tiny fUnderflow)

/-- R175 and R191 for an infinite argument. -/
def infResult (g : Nat) (loaded : Bool) (func : Nat) (t : Table) (neg : Bool) : Nat × Nat :=
  let fam := sfnFamily t
  if fam = 0 then (if neg then (0, 0) else deliverInf g false)
  else if fam = 1 ∨ fam = 3 then (if neg then (fmtNan g, fInvalid) else deliverInf g false)
  else if fam = 2 then (0, 0)
  else if fam = 4 then (if neg then (fmtNan g, fInvalid) else (0, 0))
  else if loaded then
    -- the tail of its sign; an exponential tail of an infinity ends at its limit, 0 or ∞ (log 8)
    let k := if neg then t.tailNeg else t.tailPos
    if k = 0 then
      match limitValue (if neg then t.limNeg else t.limPos) with
      | .special x => convertF 2 g 0 x
      | .val m e => roundExact g 0 0 m 1 e
    else if k = 1 then deliverInf g neg
    else if neg then (0, 0) else deliverInf g false
  else if neg then
    (if func = 0x08 ∨ func = 0x0B then (roundExact g 0 0 (-1) 1 0).1 else 0, 0)
  else if func = 0x07 ∨ func = 0x08 ∨ func = 0x0B then ((roundExact g 0 0 1 1 0).1, 0)
  else deliverInf g false

/-- One element of SFN (R173 to R175): code and flags in format `g`. `edition` is the table's (R196). -/
def sfnElement (loaded : Bool) (func edition g : Nat) (t : Table) (a : FVal) : Nat × Nat :=
  let fam := sfnFamily t
  match a with
  | .nan _ => (fmtNan g, fInvalid)
  | .inf n => infResult g loaded func t n
  | .zero _ =>
    if fam = 0 then ((roundExact g 0 0 1 1 0).1, 0)
    else if fam = 1 then
      (withSign g true (fmtInf g), fOverflow ||| flagIf (g == 1) fInexact)
    else if fam = 2 ∨ fam = 4 then
      (fmtInf g, fOverflow ||| flagIf (g == 1) fInexact)
    else if fam = 3 then (0, 0)
    else if !loaded && func == 0x07 then ((roundExact g 0 0 1 2 0).1, 0)
    else if !loaded && func != 0x09 then (0, 0)
    else deliverValue g false loaded (tableValue t edition 0 0)
  | .fin n m e =>
    if n ∧ (fam = 1 ∨ fam = 3 ∨ fam = 4) then (fmtNan g, fInvalid)
    else
      let z : Int := if n then -(m : Int) else m
      deliverValue g (!loaded && exactPoint func z e) loaded (tableValue t edition z e)

end Sys2Proof.Machine
end

