-- ==== Sys2Proof/Machine/TileCheck.lean ====
section
/-! DEFINITION. Command records: reading one from its 64 bytes, and the static checks that a package load and a dispatch make of
it (R115 to R119, R121 to R139). Where a record breaks several rules the first of this file's order names the status (log 9). -/
namespace Sys2Proof.Machine
open Sys2Proof

def opNOP : Nat := 0x01
def opMMA : Nat := 0x10
def opCONV : Nat := 0x11
def opANCHOR : Nat := 0x12
def opSTACC : Nat := 0x13
def opLDACC : Nat := 0x14
def opRNDACC : Nat := 0x15
def opVEW : Nat := 0x20
def opVRED : Nat := 0x21
def opGATHER : Nat := 0x22
def opSCADD : Nat := 0x23
def opSCADDR : Nat := 0x24
def opSFN : Nat := 0x30
def opSMAX : Nat := 0x31
def opNSTAT : Nat := 0x32
def opMOVE : Nat := 0x40
def opSTREAM : Nat := 0x41
def opSWAP : Nat := 0x42
def opDGSTORE : Nat := 0x50
def opEND : Nat := 0x7F

/-- R120: the opcodes listed. -/
def opcodes : List Nat :=
  [opNOP, opMMA, opCONV, opANCHOR, opSTACC, opLDACC, opRNDACC, opVEW, opVRED, opGATHER, opSCADD, opSCADDR, opSFN, opSMAX,
   opNSTAT, opMOVE, opSTREAM, opSWAP, opDGSTORE, opEND]

/-- The locator that names nothing (R115). -/
def locNone : Nat := 0xF0000000
def locSpace (l : Nat) : Nat := l / 2 ^ 28
def locOff (l : Nat) : Nat := l % 2 ^ 28

/-! ### The record (R118) -/

/-- R118: opcode and fields of a 64-byte record. -/
def parseCmd (bs : List Byte) : Nat × CmdRec :=
  let w := leNat (bs.take 64)
  (bitsOf w 7 0,
   { ctl := bitsOf w 15 8, fmtA := bitsOf w 17 16, fmtB := bitsOf w 19 18, fmtOut := bitsOf w 21 20, rnd := bitsOf w 24 22
     pscale := bitsOf w 28 25, fmtC := bitsOf w 30 29, tensorId := bitsOf w 63 32, m := bitsOf w 79 64, n := bitsOf w 95 80
     k := bitsOf w 127 96, locA := bitsOf w 159 128, locB := bitsOf w 191 160, locC := bitsOf w 223 192
     locOut := bitsOf w 255 224, strA := bitsOf w 271 256, strB := bitsOf w 287 272, strC := bitsOf w 303 288
     strOut := bitsOf w 319 304, idxBase := bitsOf w 367 320, rowLen := bitsOf w 399 368, imm := bitsOf w 431 400
     waitObj := bitsOf w 447 432, sigObj := bitsOf w 463 448, waitCount := bitsOf w 495 464, func := bitsOf w 503 496
     rsvd := bitsOf w 31 31 + 2 * bitsOf w 511 504 })

/-- R119: the control bits. -/
def ctlCH (c : CmdRec) : Bool := c.ctl.testBit 7
def ctlTK (c : CmdRec) : Bool := c.ctl.testBit 6
def ctlKP (c : CmdRec) : Bool := c.ctl.testBit 5
def ctlCT (c : CmdRec) : Bool := c.ctl.testBit 4
def ctlDG (c : CmdRec) : Bool := c.ctl.testBit 3
def ctlWT (c : CmdRec) : Bool := c.ctl.testBit 2
def ctlSG (c : CmdRec) : Bool := c.ctl.testBit 1
def ctlAA (c : CmdRec) : Bool := c.ctl.testBit 0

/-- R89, R118: the product scale s of the i4 field. -/
def scaleS (c : CmdRec) : Int := signedOf 4 c.pscale

/-! ### Shapes -/

/-- Is the reduction of an array command anchored (R70, R121); ANCHOR always leaves anchored entries. -/
def anchoredCmd (op : Nat) (c : CmdRec) : Bool :=
  if op = opVRED then
    c.fmtA == 2 || ((c.func == 5 || c.func == 7) && c.fmtC == 2) || c.func == 6 || c.func == 7
  else op == opANCHOR || c.fmtA == 2 || c.fmtB == 2 || (c.locC != locNone && c.fmtC == 2)

/-- Does an array command read its A by CONV geometry (R122, R125). -/
def convGeometry (op : Nat) (c : CmdRec) : Bool := op == opCONV || (op == opANCHOR && c.imm.testBit 12)

/-- R122: kh, kw, horizontal stride and dilation. -/
def convKh (c : CmdRec) : Nat := bitsOf c.imm 2 0 + 1
def convKw (c : CmdRec) : Nat := bitsOf c.imm 5 3 + 1
def convStride (c : CmdRec) : Nat := bitsOf c.imm 7 6 + 1
def convDil (c : CmdRec) : Nat := bitsOf c.imm 9 8 + 1

/-- The accumulator base entry (R121, R122, R130, R186). -/
def accBase (c : CmdRec) : Nat := bitsOf c.imm 27 16

/-- Rows and columns of the output (GATHER leaves one row, log 43). -/
def outShape (op : Nat) (c : CmdRec) : Nat × Nat :=
  if op = opVRED ∨ (op = opSMAX ∧ c.imm % 4 = 1) then (c.m, 1)
  else if op = opNSTAT then (c.m, 2)
  else if op = opGATHER then (1, c.m)
  else (c.m, c.n)

/-- The element kind of the output (R238): a format, or 4 for the u32 of an arg reduction (R130). -/
def outKind (op : Nat) (c : CmdRec) : Nat :=
  if op = opVRED ∧ (c.func = 3 ∨ c.func = 4) then 4
  else if op = opSMAX ∧ c.imm % 4 = 1 then c.fmtA
  else if op = opSMAX ∧ c.imm % 4 = 2 then 2
  else c.fmtOut

def kindBytes (k : Nat) : Nat := if k = 4 then 4 else fmtBytes k

/-- The commands with an output of elements that carry R117 indices. -/
def outOps : List Nat := [opMMA, opCONV, opRNDACC, opVEW, opVRED, opGATHER, opSFN, opSMAX, opNSTAT]

/-- The commands with an m × n shape that a zero empties (R136). -/
def shapedOps : List Nat :=
  [opMMA, opCONV, opANCHOR, opSTACC, opLDACC, opRNDACC, opVEW, opVRED, opGATHER, opSCADD, opSFN, opSMAX]

/-- R136: m or n zero: the command waits and signals only. SCADDR has no n. -/
def emptyShape (op : Nat) (c : CmdRec) : Bool :=
  (shapedOps.contains op && (c.m == 0 || c.n == 0)) || (op == opSCADDR && c.m == 0)

/-- VEW functions with a B, and with a C (R129). -/
def vewHasB (f : Nat) : Bool := f == 1 || f == 2 || f == 3 || f == 4 || f == 5 || f == 7 || f == 8 || f == 0x0D || f == 0x0E
def vewHasC (f : Nat) : Bool := f == 4 || f == 0x0E

/-! ### Regions (R115, R116) -/

/-- The rows of an operand: locator, rows, columns, distance of rows and element size. -/
structure Ext where
  loc   : Nat
  rows  : Nat
  cols  : Nat
  pitch : Nat
  size  : Nat
deriving DecidableEq, Repr

/-- R116: an operand of `rows` × `cols` elements; a stride of zero packs it, and one row ignores the stride. -/
def mkExt (loc rows cols stride size : Nat) : Ext :=
  ⟨loc, rows, cols, if stride = 0 ∨ rows ≤ 1 then cols else stride, size⟩

/-- An m × k operand, or its k × m transpose. -/
def mkMat (loc rows cols stride size : Nat) (transposed : Bool) : Ext :=
  if transposed then mkExt loc cols rows stride size else mkExt loc rows cols stride size

/-- First byte and the byte after the last one. -/
def Ext.lo (e : Ext) : Nat := locOff e.loc
def Ext.hi (e : Ext) : Nat := locOff e.loc + ((e.rows - 1) * e.pitch + e.cols) * e.size
def Ext.empty (e : Ext) : Bool := e.rows == 0 || e.cols == 0

/-- R122: the input rows a CONV reads. -/
def convExt (c : CmdRec) : Ext :=
  let cin := c.k / (convKh c * convKw c)
  let span := ((c.m - 1) * convStride c + (convKw c - 1) * convDil c + 1) * cin
  let rows := (convKh c - 1) * convDil c + 1
  ⟨c.locA, if cin = 0 then 0 else rows, span, if c.strA = 0 ∨ rows ≤ 1 then span else c.strA, fmtBytes c.fmtA⟩

/-- The operand regions a command reads in SRAM or the weight cache. -/
def readExts (op : Nat) (c : CmdRec) : List Ext :=
  let wa := fmtBytes c.fmtA
  let wb := fmtBytes c.fmtB
  let wc := fmtBytes c.fmtC
  let a (e : Ext) : List Ext := if ctlTK c then [] else [e]
  if op = opMMA ∨ op = opCONV ∨ op = opANCHOR then
    a (if convGeometry op c then convExt c else mkMat c.locA c.m c.k c.strA wa (c.imm.testBit 0))
      ++ [mkMat c.locB c.k c.n c.strB wb (!convGeometry op c && c.imm.testBit 1)]
      ++ (if c.locC = locNone then [] else [mkExt c.locC 1 c.n 0 wc])
  else if op = opVEW then
    a (mkExt c.locA c.m c.n c.strA wa)
      ++ (if vewHasB c.func then [mkExt c.locB c.m c.n c.strB wb] else [])
      ++ (if vewHasC c.func then [mkExt c.locC c.m c.n c.strC wc] else [])
  else if op = opVRED then
    a (mkExt c.locA c.m c.n c.strA wa) ++ (if c.func = 5 ∨ c.func = 7 then [mkExt c.locC 1 1 0 wc] else [])
  else if op = opSFN then
    a (mkExt c.locA c.m c.n c.strA wa) ++ (if c.locC = locNone then [] else [mkExt c.locC 1 1 0 wc])
  else if op = opSMAX then
    [mkExt c.locA c.m c.n c.strA (if c.imm % 4 = 3 then 4 else wa)]
      ++ (if c.imm % 4 = 2 then [mkExt c.locC c.m 1 c.strC wa] else [])
  else if op = opNSTAT then [mkExt c.locA c.m c.n c.strA wa]
  else if op = opGATHER then [mkExt c.locA 1 c.n 0 wa, mkExt c.locC 1 c.m 0 4]
  else if op = opSCADD then [mkExt c.locB 1 c.m 0 wb, mkExt c.locC 1 c.m 0 4]
  else if op = opSCADDR then [mkExt c.locB 1 c.m 0 wb, mkExt c.locC 1 c.m 0 4, mkExt c.locOut 1 64 0 1]
  else if op = opLDACC then [mkExt c.locA 1 (c.m * c.n * recordSize (c.imm.testBit 0)) 0 1]
  else if op = opMOVE then [mkExt c.locA 1 c.k 0 1]
  else if op = opSTREAM then [mkExt c.locA 1 64 0 1]
  else []

/-- The regions a command writes. -/
def writeExts (op : Nat) (c : CmdRec) : List Ext :=
  if outOps.contains op then
    (if c.locOut = locNone then []
     else [mkExt c.locOut (outShape op c).1 (outShape op c).2 c.strOut (kindBytes (outKind op c))])
  else if op = opSTACC then [mkExt c.locOut 1 (c.m * c.n * recordSize (c.imm.testBit 0)) 0 1]
  else if op = opSCADD then [mkExt c.locA 1 c.n 0 (fmtBytes c.fmtA)]
  else if op = opMOVE then [mkExt c.locOut 1 c.k 0 1]
  else if op = opDGSTORE then [mkExt c.locOut 1 1 0 8]
  else []

/-- R115, R116: does the region lie whole and aligned in a space the access allows; `image` is the size of the package's weight-cache image
(R162); an empty region is accepted, log 43. -/
def extOk (image : Nat) (write : Bool) (e : Ext) : Bool :=
  if e.empty then true
  else
    let limit := if locSpace e.loc = 0 then 2 ^ 20 else if locSpace e.loc = 1 ∧ !write then Nat.min image (2 ^ 25) else 0
    e.lo % e.size == 0 && decide (e.hi ≤ limit)

/-- R116: regions of one space that share a byte. -/
def extClash (x y : Ext) : Bool :=
  !x.empty && !y.empty && locSpace x.loc == locSpace y.loc && decide (x.lo < y.hi) && decide (y.lo < x.hi)

/-- R116: only VEW and SFN may write over an input, and only over an identical region. -/
def overlapBad (op : Nat) (c : CmdRec) : Bool :=
  (writeExts op c).any fun w => (readExts op c).any fun r =>
    extClash w r && !(decide (w = r) && (op == opVEW || op == opSFN))

/-! ### Static checks (R139) -/

/-- R10, R119: fields that the opcode does not use are zero, its unused locators none. -/
def unusedClear (op : Nat) (c : CmdRec) : Bool :=
  let red := [opMMA, opCONV, opANCHOR]
  c.rsvd == 0
  && ([opVEW, opVRED, opSFN, opLDACC].contains op || c.func == 0)
  && ((red ++ [opSTACC, opLDACC, opRNDACC, opVEW, opVRED, opSMAX, opSTREAM, opDGSTORE]).contains op || c.imm == 0)
  && (outOps.contains op || (c.rowLen == 0 && c.idxBase == 0 && c.tensorId == 0 && c.fmtOut == 0 && c.strOut == 0))
  && ([opVEW, opSMAX].contains op || c.strC == 0)
  && ((red ++ [opVEW]).contains op || c.strB == 0)
  && ((red ++ [opVEW, opVRED, opSFN, opSMAX, opNSTAT]).contains op || c.strA == 0)
  && ((outOps ++ [opSTACC, opLDACC, opSCADDR, opMOVE, opDGSTORE]).contains op || c.locOut == locNone)
  && ((red ++ [opVEW, opVRED, opSFN, opSMAX, opGATHER, opSCADD, opSCADDR]).contains op || c.locC == locNone)
  && ((red ++ [opVEW, opSCADD, opSCADDR]).contains op || c.locB == locNone)
  && (! [opNOP, opSCADDR, opSWAP, opDGSTORE, opEND].contains op || c.locA == locNone)
  && ((red ++ [opMOVE]).contains op || c.k == 0)
  && ((shapedOps ++ [opNSTAT]).contains op || c.n == 0)
  && ((shapedOps ++ [opNSTAT, opSCADDR]).contains op || c.m == 0)
  && ((red ++ [opVEW, opVRED, opSFN, opSMAX]).contains op || c.fmtC == 0)
  && ((red ++ [opVRED]).contains op || c.pscale == 0)
  && ([opMMA, opCONV, opRNDACC, opVEW, opVRED, opGATHER, opSCADD, opSCADDR, opNSTAT, opSFN, opSMAX].contains op || c.rnd == 0)
  && ((red ++ [opVEW, opSCADD, opSCADDR]).contains op || c.fmtB == 0)
  && ((red ++ [opVEW, opVRED, opGATHER, opSCADD, opSCADDR, opSFN, opSMAX, opNSTAT]).contains op || c.fmtA == 0)
  && (ctlWT c || (c.waitObj == 0 && c.waitCount == 0))
  && (ctlSG c || c.sigObj == 0)
  && (!ctlKP c || [opMMA, opCONV, opANCHOR, opVRED, opRNDACC].contains op)
  && (!ctlCT c || [opMMA, opCONV, opANCHOR, opVRED, opLDACC].contains op)
  && (!ctlAA c || [opMMA, opCONV, opVRED].contains op)

/-- R119 to R134, R186: the reserved bits of imm are zero. -/
def immMask (op : Nat) (c : CmdRec) : Nat :=
  if op = opMMA then 0x0FFF0003
  else if op = opCONV then 0x0FFF03FF
  else if op = opANCHOR then (if c.imm.testBit 12 then 0x0FFF13FF else 0x0FFF0003)
  else if op = opSTACC ∨ op = opLDACC ∨ op = opDGSTORE then 1
  else if op = opSTREAM then 3
  else if op = opSMAX then (if c.imm % 4 = 2 ∨ c.imm % 4 = 3 then 0x0FFF0003 else 3)
  else if op = opVRED then
    (if c.func = 0 ∨ c.func = 5 ∨ c.func = 6 ∨ c.func = 7 then 0x0FFF0000 else if c.func = 3 ∨ c.func = 4 then 0xFFFF else 0)
  else if op = opVEW then (if c.func = 0x0B ∨ c.func = 0x0C then 0xFFFFFFFF else if c.func = 0x0D then 0xF else 0)
  else 0xFFFFFFFF

/-- R119: required locators are not none, and those that a rule wants none are. -/
def locatorsOk (op : Nat) (c : CmdRec) : Bool :=
  (readExts op c).all (fun e => e.loc != locNone)
  && (!ctlTK c || c.locA == locNone)
  && ([opSTACC, opMOVE, opDGSTORE].contains op → c.locOut != locNone)
  && (op == opSCADD → c.locA != locNone)
  && (!([opSTACC, opRNDACC].contains op) || c.locA != locNone)
  && (!(op == opLDACC) || c.locOut != locNone)
  && (if ctlKP c ∧ op ≠ opRNDACC then c.locOut == locNone
      else !outOps.contains op || ctlCH c || c.locOut != locNone)
  && (!(op == opVEW) || ((vewHasB c.func || c.locB == locNone) && (vewHasC c.func || c.locC == locNone)))
  && (!(op == opVRED) || c.func == 5 || c.func == 7 || c.locC == locNone)
  && (!(op == opSMAX) || c.imm % 4 == 2 || c.locC == locNone)

/-- R115: the spaces of the locators a command gives (LDACC may read the weight cache, log 43). -/
def spacesOk (op : Nat) (c : CmdRec) : Bool :=
  [c.locA, c.locB, c.locC, c.locOut].all (fun l =>
    decide (locSpace l ≤ 2) || l == locNone)
  && (if op = opSTACC ∨ op = opRNDACC then locSpace c.locA == 2 && decide (locOff c.locA < 4096) else c.locA == locNone || locSpace c.locA != 2)
  && (if op = opLDACC then locSpace c.locOut == 2 && decide (locOff c.locOut < 4096) else c.locOut == locNone || locSpace c.locOut != 2)
  && (c.locB == locNone || locSpace c.locB != 2) && (c.locC == locNone || locSpace c.locC != 2)

/-- R126, R129, R130, R172: an assigned func. -/
def funcOk (op : Nat) (c : CmdRec) : Bool :=
  if op = opLDACC then decide (c.func ≤ 1)
  else if op = opVEW then decide (c.func ≤ 0x0F)
  else if op = opVRED then decide (c.func ≤ 7)
  else if op = opSFN then decide (c.func ≤ 0x0E) || (decide (0x80 ≤ c.func) && decide (c.func ≤ 0x9F))
  else true

/-- R60, R130, R136, R172, R186: formats the unit accepts. -/
def formatsOk (op : Nat) (c : CmdRec) : Bool :=
  if op = opMMA ∨ op = opCONV ∨ op = opANCHOR then c.fmtA != 3 && c.fmtB != 3 && c.fmtC != 3 && c.fmtOut != 3
  else if op = opRNDACC then c.fmtOut != 3
  else if op = opSFN ∨ op = opSMAX ∨ op = opNSTAT then
    c.fmtA != 3 && c.fmtOut != 3 && c.fmtC != 3 && (op != opSMAX || c.imm % 4 != 2 || c.fmtC == c.fmtA)
  else if op = opVRED then
    (if c.func = 6 ∨ c.func = 7 then c.fmtA == 2 && c.fmtC != 3 && c.fmtOut != 3
     else if c.func = 0 ∨ c.func = 5 then c.fmtA != 3 && c.fmtC != 3 && c.fmtOut != 3
     else true)
  else true

/-- R71, R129, R131, R186: rounding codes the unit accepts. -/
def roundingOk (op : Nat) (c : CmdRec) : Bool :=
  if op = opSFN ∨ op = opSMAX then c.rnd == 0
  else if op = opMMA ∨ op = opCONV ∨ op = opRNDACC ∨ op = opNSTAT ∨ (op = opVRED ∧ [0, 5, 6, 7].contains c.func) then
    c.rnd == 0 || c.rnd == 1 || c.rnd == 4
  else decide (c.rnd ≤ 3)

/-- R117, R239: the largest index stays below 2^48 and the tensor identifier is not the device's. -/
def indicesOk (op : Nat) (c : CmdRec) : Bool :=
  !outOps.contains op ||
    (decide (c.tensorId < 0xFFFFFF00) &&
     (let (r, k) := outShape op c
      r == 0 || k == 0 || decide (c.idxBase + (r - 1) * (if c.rowLen = 0 then c.n else c.rowLen) + k - 1 < 2 ^ 48)))

/-- R90, R121: the reduction length, with one more product for a bias. -/
def lengthOk (op : Nat) (c : CmdRec) : Bool :=
  !([opMMA, opCONV, opANCHOR].contains op) || decide (c.k + (if c.locC = locNone then 0 else 1) ≤ maxProducts)

/-- R122, R125, R126, R130, R136: the remaining limits of a record with status ST_BAD_DESCRIPTOR. -/
def limitsOk (op : Nat) (c : CmdRec) : Bool :=
  (c.pscale == 0 || decide (c.pscale ≥ 8))
  && (!([opMMA, opCONV, opANCHOR].contains op) || (decide (c.m ≤ 64) && decide (c.n ≤ if anchoredCmd op c then 32 else 64)))
  && (!convGeometry op c || c.k % (convKh c * convKw c) == 0)
  && (op != opANCHOR || ctlKP c)
  && (op != opVRED || (c.func != 6 && c.func != 7) || (ctlKP c && !ctlAA c))
  && (op != opVRED || c.func == 0 || c.func == 5 || c.func == 6 || c.func == 7 || (!ctlKP c && !ctlCT c && !ctlAA c && c.pscale == 0))
  && (op != opLDACC || c.func != 1 || c.imm.testBit 0)

/-- R121: entries a block reaches (an odd base is accepted, log 43). -/
def blockOk (op : Nat) (c : CmdRec) : Bool :=
  let two (a : Bool) : Nat := if a then 2 else 1
  if op = opMMA ∨ op = opCONV ∨ op = opANCHOR then decide (accBase c + c.m * c.n * two (anchoredCmd op c) ≤ 4096)
  else if op = opVRED ∧ (c.func = 0 ∨ c.func = 5 ∨ c.func = 6 ∨ c.func = 7) then
    decide (accBase c + c.m * two (anchoredCmd op c) ≤ 4096)
  else if op = opSMAX ∧ (c.imm % 4 = 2 ∨ c.imm % 4 = 3) then decide (accBase c + 2 * c.m ≤ 4096)
  else if op = opSTACC then decide (locOff c.locA + c.m * c.n * two (c.imm.testBit 0) ≤ 4096)
  else if op = opRNDACC then decide (locOff c.locA + c.m * c.n ≤ 4096)
  else if op = opLDACC then decide (locOff c.locOut + c.m * c.n * two (c.imm.testBit 0) ≤ 4096)
  else true

/-- R139: the static status of one record, none when it breaks no rule. `nSync` is the package's count of sync objects (R167),
`image` the size of its weight-cache image. -/
def checkCmd (nSync image op : Nat) (c : CmdRec) : Option Nat :=
  if !opcodes.contains op then some stBadOpcode
  else if !unusedClear op c ∨ c.imm &&& immMask op c ≠ c.imm then some stBadDescriptor
  else if (ctlWT c ∧ c.waitObj ≥ nSync) ∨ (ctlSG c ∧ c.sigObj ≥ nSync) then some stBadDescriptor
  else if !funcOk op c then some stBadFunction
  else if !locatorsOk op c then some stBadDescriptor
  else if !spacesOk op c then some stBadAddress
  else if !formatsOk op c then some stBadFormat
  else if !roundingOk op c then some stBadRounding
  else if !lengthOk op c then some stReductionTooLong
  else if !limitsOk op c ∨ !indicesOk op c then some stBadDescriptor
  else if op = opNSTAT ∧ c.n = 0 then some stEmptyRow
  else if !blockOk op c then some stBadAddress
  else if op = opSTREAM ∧ (locSpace c.locA > 1 ∨ c.locA % 64 ≠ 0) then some stBadAddress
  else if emptyShape op c then none
  else if !((readExts op c).all (extOk image false) && (writeExts op c).all (extOk image true)) then some stBadAddress
  else if overlapBad op c then some stOverlap
  else none

/-! ### Chains (R137) -/

def linkOps : List Nat := [opMMA, opCONV, opVEW, opSFN, opVRED, opRNDACC]

/-- R137: the status of a command as a link after its predecessor; `run` is its place in the chain, from 1. -/
def checkLink (prev : Option (Nat × CmdRec)) (run op : Nat) (c : CmdRec) : Option Nat :=
  let prevCH := match prev with
    | some (_, p) => ctlCH p
    | none => false
  if (ctlCH c ∨ ctlTK c) ∧ !linkOps.contains op then some stChainBroken
  else if ctlCH c ∧ ctlKP c then some stChainBroken
  else if ctlTK c ∧ op = opRNDACC then some stChainBroken
  else if ctlTK c ≠ prevCH then some stChainBroken
  else if run > 8 then some stChainBroken
  else if ctlCH c ∧ op = opVRED ∧ (c.func = 3 ∨ c.func = 4) then some stChainMismatch
  else if (ctlCH c ∨ ctlTK c) ∧ c.m * c.n > 4096 then some stChainMismatch
  else if ctlTK c then
    match prev with
    | none => some stChainBroken
    | some (po, p) =>
      let (pm, pn) := outShape po p
      let shape := if op = opMMA ∨ op = opCONV then
          c.m == pm && c.k == pn && (op != opCONV || c.imm % 2 ^ 10 == 0)
        else c.m == pm && c.n == pn
      if shape ∧ c.fmtA = outKind po p then none else some stChainMismatch
  else none

/-- The first status among the commands of a part, in record order: each record's own, then its link. -/
def checkCmds (nSync image : Nat) : Option (Nat × CmdRec) → Nat → List (Nat × CmdRec) → Option Nat
  | _, _, [] => none
  | prev, run, (op, c) :: rest =>
    let run' := if ctlTK c then run + 1 else 1
    match checkCmd nSync image op c with
    | some st => some st
    | none =>
      match checkLink prev run' op c with
      | some st => some st
      | none => checkCmds nSync image (some (op, c)) run' rest

/-- R264, R139: the static status of a tile-part run: exactly one END, its last record, and no record that breaks a rule. -/
def checkPart (nSync image : Nat) (cmds : List (Nat × CmdRec)) : Option Nat :=
  let ops := cmds.map (·.1)
  if ops.getLast? ≠ some opEND ∨ ops.dropLast.contains opEND then some stBadDescriptor
  else checkCmds nSync image none 0 cmds

/-- R128, R132: an operation that strict mode refuses. -/
def strictForbids (cmds : List (Nat × CmdRec)) : Bool :=
  cmds.any fun e => (ctlAA e.2 && (ctlCT e.2 || ctlKP e.2)) || e.1 == opSCADDR

end Sys2Proof.Machine
end

