-- ==== Sys2Proof/Machine/TileRun.lean ====
section
/-! DEFINITION. What a tile command computes: operands from the work half, the weight window and the hand-over register, output
through the output stage, the digest unit (R108 to R138, R186 to R188, R237, R238). Each operation answers its result or the
status that refuses it. -/
namespace Sys2Proof.Machine
open Sys2Proof

/-- What a command needs from outside its tile: the strict bit (R233), the edition of the built-in tables (R196), the seed of
the frame (R76), the weight window (R162) and the loaded functions in force for the part (R131). -/
structure TEnv where
  strict  : Bool
  edition : Nat
  seed    : Nat
  weights : Memory
  wbase   : Nat
  fns     : List (Nat × FnTable)

/-- What a command leaves: the tile, the flags it raised, its output elements as (kind, index, bits) and whether it was an
operation that strict mode forbids. -/
structure TOut where
  tile      : Tile
  flags     : Nat := 0
  elems     : List (Nat × Nat × Nat) := []
  nonStrict : Bool := false

/-! ### SRAM and operands -/

/-- R108: the half with the work role, and the one with the fill role. -/
def workHalf (t : Tile) : Memory := if t.workHi then t.hi else t.lo
def putWorkHalf (t : Tile) (m : Memory) : Tile := if t.workHi then { t with hi := m } else { t with lo := m }

/-- `n` bytes at byte offset `off` of a locator's space. -/
def readSpace (env : TEnv) (t : Tile) (space off n : Nat) : List Byte :=
  if space = 1 then env.weights.read (env.wbase + off) n else (workHalf t).read off n

/-- The element code at row `i`, column `j` of an operand of format `f`. -/
def elemCode (env : TEnv) (t : Tile) (e : Ext) (i j : Nat) : Nat :=
  leNat (readSpace env t (locSpace e.loc) (locOff e.loc + (i * e.pitch + j) * e.size) e.size)

/-- The codes of an operand, row by row. -/
def extCodes (env : TEnv) (t : Tile) (e : Ext) : List Nat :=
  (List.range e.rows).flatMap fun i => (List.range e.cols).map fun j => elemCode env t e i j

/-- R137: operand A of `rows` × `cols` elements, from the hand-over register with TK. -/
def operandA (env : TEnv) (t : Tile) (c : CmdRec) (rows cols : Nat) : List Nat :=
  if ctlTK c then
    match t.hand with
    | some h => h.codes
    | none => []
  else extCodes env t (mkExt c.locA rows cols c.strA (fmtBytes c.fmtA))

/-- The element of a row-major list. -/
def at2 (l : List Nat) (cols i j : Nat) : Nat := l.getD (i * cols + j) 0

/-! ### The output stage -/

/-- R117: the global index of output element (i, j). -/
def elemIndex (c : CmdRec) (i j : Nat) : Nat := c.idxBase + i * (if c.rowLen = 0 then c.n else c.rowLen) + j

/-- R76: the draw of output element (i, j); 0 unless the rounding is stochastic. -/
def drawOf (env : TEnv) (c : CmdRec) (i j : Nat) : Nat :=
  if c.rnd = 4 then seedMix env.seed c.tensorId (elemIndex c i j) else 0

/-- Store the output codes (row-major, already normalised) and hand them over with CH. -/
def putOutput (op : Nat) (c : CmdRec) (t : Tile) (codes : List Nat) : Tile :=
  let (rows, cols) := outShape op c
  let kind := outKind op c
  let size := kindBytes kind
  let e := mkExt c.locOut rows cols c.strOut size
  let m :=
    if c.locOut = locNone then workHalf t
    else (List.range rows).foldl (fun m i =>
      m.write (locOff c.locOut + i * e.pitch * size) ((List.range cols).flatMap fun j => leBytes size (at2 codes cols i j))) (workHalf t)
  let t := putWorkHalf t m
  { t with hand := if ctlCH c then some ⟨rows, cols, kind, codes⟩ else t.hand }

/-- The output elements as the digest unit sees them (R117, R238). -/
def outElems (op : Nat) (c : CmdRec) (codes : List Nat) : List (Nat × Nat × Nat) :=
  let (rows, cols) := outShape op c
  (List.range rows).flatMap fun i => (List.range cols).map fun j => (outKind op c, elemIndex c i j, at2 codes cols i j)

/-- A command whose output is the list of (code, flags) pairs, row-major. -/
def finish (op : Nat) (c : CmdRec) (t : Tile) (outs : List (Nat × Nat)) (flags : Nat) : TOut :=
  let codes := outs.map fun o => normaliseKind (outKind op c) o.1
  { tile := putOutput op c t codes
    flags := outs.foldl (fun a o => a ||| o.2) flags
    elems := outElems op c codes }
where
  /-- R80: normalisation of a tensor element; an integer output has none. -/
  normaliseKind (kind code : Nat) : Nat := if kind = 4 then code else normalise kind code

/-! ### The array: MMA, CONV, ANCHOR (R121 to R125, R128) -/

/-- The operands of output (i, j): pairs of A and B values in reduction order. -/
def arrayPairs (env : TEnv) (t : Tile) (op : Nat) (c : CmdRec) (i j : Nat) : List (FVal × FVal) :=
  let fa (x : Nat) : FVal := decodeF c.fmtA x
  let fb (x : Nat) : FVal := decodeF c.fmtB x
  if convGeometry op c then
    let cin := c.k / (convKh c * convKw c)
    let e := convExt c
    let be := mkExt c.locB c.k c.n c.strB (fmtBytes c.fmtB)
    (List.range (convKh c)).flatMap fun dy => (List.range (convKw c)).flatMap fun dx => (List.range cin).map fun ch =>
      let a := if ctlTK c then at2 (operandA env t c c.m c.k) c.k i ch
        else elemCode env t e (dy * convDil c) ((i * convStride c + dx * convDil c) * cin + ch)
      (fa a, fb (elemCode env t be ((dy * convKw c + dx) * cin + ch) j))
  else
    let ta := c.imm.testBit 0
    let tb := c.imm.testBit 1
    let ae := mkMat c.locA c.m c.k c.strA (fmtBytes c.fmtA) ta
    let be := mkMat c.locB c.k c.n c.strB (fmtBytes c.fmtB) tb
    (List.range c.k).map fun q =>
      let a := if ctlTK c then at2 (operandA env t c c.m c.k) c.k i q
        else if ta then elemCode env t ae q i else elemCode env t ae i q
      (fa a, fb (if tb then elemCode env t be j q else elemCode env t be q j))

/-- The products of output (i, j): the pairs scaled by pscale, then the bias C(j) × 1 unscaled (R89, R121). -/
def arrayTerms (env : TEnv) (t : Tile) (op : Nat) (c : CmdRec) (i j : Nat) : List Term :=
  (arrayPairs env t op c i j).map (fun p => formProduct (scaleS c) p.1 p.2) ++
  (if c.locC = locNone then []
   else [formProduct 0 (decodeF c.fmtC (elemCode env t (mkExt c.locC 1 c.n 0 (fmtBytes c.fmtC)) 0 j)) oneF])

/-- The accumulator entry of the `q`-th output element. -/
def entryOf (base q : Nat) (anchored : Bool) : Nat := base + q * if anchored then 2 else 1

/-- R123: the targets with CT, each of the right kind and with room for its products; empty without CT. -/
def targetsOf (acc : NMap Acc) (base : Nat) (anchored ct : Bool) (terms : List (List Term)) : Except Nat (List (Option Acc)) := do
  let olds ← (List.range terms.length).mapM fun q =>
    if ct then targetAcc acc (entryOf base q anchored) anchored else .ok none
  if (olds.zip terms).any (fun p => decide (((p.1.map accCount).getD 0) + p.2.length > maxProducts)) then .error stReductionTooLong
  else .ok olds

/-- Put or empty the entries of a block. -/
def putBlock (acc : NMap Acc) (base : Nat) (anchored : Bool) (new : List (Option Acc)) : NMap Acc :=
  ((List.range new.length).zip new).foldl (fun m p =>
    match p.2 with
    | some a => putAcc m (entryOf base p.1 anchored) a
    | none => clearAcc m (entryOf base p.1 anchored) anchored) acc

/-- One reduction per element of the list, then either kept raw or rounded out through `draw` (R123). -/
def reduceAll (env : TEnv) (op : Nat) (c : CmdRec) (t : Tile) (base : Nat) (anchored : Bool) (terms : List (List Term))
    (draws : List Nat) : Except Nat TOut := do
  let aa := ctlAA c && anchored
  if env.strict && ctlAA c && (ctlCT c || ctlKP c) then .error stStrictForbids
  let olds ← targetsOf t.acc base anchored (ctlCT c) terms
  let sums ← (olds.zip terms).mapM fun p => reduceElem anchored aa env.strict p.1 p.2
  let formed := terms.foldl (fun a ts => a ||| termFlags ts) 0
  let nonStrict := aa && (ctlCT c || ctlKP c)
  if ctlKP c then
    .ok { tile := { t with acc := putBlock t.acc base anchored (sums.map some) }, flags := formed, nonStrict }
  else
    let outs := (sums.zip draws).map fun p => roundAcc c.fmtOut c.rnd p.2 1 p.1
    let t := { t with acc := putBlock t.acc base anchored (sums.map fun _ => none) }
    .ok { finish op c t outs formed with nonStrict }

/-- Rows × columns positions, row-major. -/
def positions (rows cols : Nat) : List (Nat × Nat) := (List.range rows).flatMap fun i => (List.range cols).map fun j => (i, j)

/-- MMA and CONV (R121, R122). -/
def runMatrix (env : TEnv) (op : Nat) (c : CmdRec) (t : Tile) : Except Nat TOut :=
  let ps := positions c.m c.n
  reduceAll env op c t (accBase c) (anchoredCmd op c) (ps.map fun p => arrayTerms env t op c p.1 p.2)
    (ps.map fun p => drawOf env c p.1 p.2)

/-- R125, R126, R130: entries left with a zero window, count 0 and the greater of the old and the new anchor (their tag becomes 0b000, log
43). -/
def anchorEntries (acc : NMap Acc) (base : Nat) (ct : Bool) (anchors : List (Option Int)) : Except Nat (NMap Acc) := do
  let olds ← (List.range anchors.length).mapM fun q =>
    if ct then targetAcc acc (entryOf base q true) true else .ok none
  let new := (olds.zip anchors).map fun p =>
    match p.1 with
    | some (.anch _ _ _ _ a) => some (Acc.anch 0 0 0 false (maxAnchor a p.2))
    | some (.exact _ _ _) => some (Acc.anch 0 0 0 false p.2)
    | some .high => some (Acc.anch 0 0 0 false p.2)
    | none => some (Acc.anch 0 0 0 false p.2)
  .ok (putBlock acc base true new)

/-- ANCHOR (R125): pass one of R92. -/
def runAnchor (env : TEnv) (c : CmdRec) (t : Tile) : Except Nat TOut := do
  let ts := (positions c.m c.n).map fun p => arrayTerms env t opANCHOR c p.1 p.2
  let acc ← anchorEntries t.acc (accBase c) (ctlCT c) (ts.map anchorOf)
  .ok { tile := { t with acc }, flags := ts.foldl (fun a x => a ||| termFlags x) 0 }

/-! ### Raw records and rounding out (R126, R127) -/

/-- STACC: one record per element, the entries unchanged. -/
def runStacc (c : CmdRec) (t : Tile) : Except Nat TOut := do
  let form := c.imm.testBit 0
  let recs ← (List.range (c.m * c.n)).mapM fun q => targetAcc t.acc (entryOf (locOff c.locA) q form) form
  let bytes := recs.flatMap fun r => recordBytes form r
  .ok { tile := putWorkHalf t ((workHalf t).write (locOff c.locOut) bytes) }

/-- LDACC: records into entries, whole or as anchors (with CT and without, log 43). -/
def runLdacc (env : TEnv) (c : CmdRec) (t : Tile) : Except Nat TOut := do
  let form := c.imm.testBit 0
  let base := locOff c.locOut
  let n := c.m * c.n
  let recs ← (List.range n).mapM fun q =>
    parseRecord form (readSpace env t (locSpace c.locA) (locOff c.locA + q * recordSize form) (recordSize form))
  if c.func = 1 then
    let acc ← anchorEntries t.acc base true (recs.map fun r =>
      match r with
      | .anch _ _ _ _ a => a
      | .exact _ _ _ => none
      | .high => none)
    .ok { tile := { t with acc } }
  else
    let olds ← (List.range n).mapM fun q =>
      if ctlCT c then targetAcc t.acc (entryOf base q form) form else .ok none
    let new ← (olds.zip recs).mapM fun p =>
      match p.1 with
      | none => Except.ok p.2
      | some a => combineAcc env.strict a p.2
    .ok { tile := { t with acc := putBlock t.acc base form (new.map some) } }

/-- Does the block at `base` hold windows: its first entry that is not empty is the low half of one. -/
def blockAnchored (acc : NMap Acc) (base n : Nat) : Bool :=
  match (List.range n).findSome? fun q => nget acc (base + q) with
  | some (.anch _ _ _ _ _) => true
  | some (.exact _ _ _) => false
  | some .high => true
  | none => false

/-- RNDACC: the entries divided by imm (0 meaning 1), rounded out; kept with KP. -/
def runRndacc (env : TEnv) (c : CmdRec) (t : Tile) : Except Nat TOut := do
  let n := c.m * c.n
  let base := locOff c.locA
  let form := blockAnchored t.acc base n
  if base + n * (if form then 2 else 1) > 4096 then .error stBadAddress
  let recs ← (List.range n).mapM fun q => targetAcc t.acc (entryOf base q form) form
  let d := if c.imm = 0 then 1 else c.imm
  let outs := (recs.zip (positions c.m c.n)).map fun p =>
    roundAcc c.fmtOut c.rnd (drawOf env c p.2.1 p.2.2) d (p.1.getD (.exact 0 0 0))
  let t := if ctlKP c then t else { t with acc := putBlock t.acc base form (recs.map fun _ => none) }
  .ok (finish opRNDACC c t outs 0)

/-! ### The vector unit (R129) -/

/-- A working-format result: either a value already in the format, or an exact number to round. -/
inductive VRes where
  | value (v : FVal)
  | exact (num : Int) (den : Nat) (e : Int)
  | sqrt (m : Nat) (e : Int)
deriving DecidableEq, Repr

/-- R75: a signalling NaN operand raises invalid. -/
def sigNan (v : FVal) : Bool := v == .nan true

/-- The IEEE sum of two working values. -/
def addV (a b : FVal) : VRes × Nat :=
  if a.isNan || b.isNan then (.value (.nan false), flagIf (sigNan a || sigNan b) fInvalid)
  else match a, b with
    | .inf n, .inf m => if n = m then (.value (.inf n), 0) else (.value (.nan false), fInvalid)
    | .inf n, _ => (.value (.inf n), 0)
    | _, .inf m => (.value (.inf m), 0)
    | x, y =>
      let (s, e) := dyAdd x.mant x.exp y.mant y.exp
      (.exact s 1 e, 0)

def negV (a : FVal) : FVal := match a with
  | .nan s => .nan s
  | .inf n => .inf (!n)
  | .zero n => .zero (!n)
  | .fin n m e => .fin (!n) m e

def signOfV (a : FVal) : Bool := match a with
  | .nan _ => false
  | .inf n => n
  | .zero n => n
  | .fin n _ _ => n

/-- R75: the product; a zero times an infinity is invalid. -/
def mulV (a b : FVal) : VRes × Nat :=
  if a.isNan || b.isNan then (.value (.nan false), flagIf (sigNan a || sigNan b) fInvalid)
  else
    let neg := signOfV a != signOfV b
    match a, b with
    | .inf _, .zero _ => (.value (.nan false), fInvalid)
    | .zero _, .inf _ => (.value (.nan false), fInvalid)
    | .inf _, _ => (.value (.inf neg), 0)
    | _, .inf _ => (.value (.inf neg), 0)
    | x, y => (.exact (x.mant * y.mant) 1 (x.exp + y.exp), 0)

/-- R75: A × B + C rounded once; zero times infinity is invalid whatever C is. -/
def fmaV (a b c : FVal) : VRes × Nat :=
  match a, b with
  | .inf _, .zero _ => (.value (.nan false), fInvalid)
  | .zero _, .inf _ => (.value (.nan false), fInvalid)
  | _, _ =>
    if a.isNan || b.isNan || c.isNan then (.value (.nan false), flagIf (sigNan a || sigNan b || sigNan c) fInvalid)
    else
      match mulV a b with
      | (.value p, _) => addV p c
      | (.exact m _ e, _) =>
        match c with
        | .inf n => (.value (.inf n), 0)
        | z =>
          let (s, x) := dyAdd m e z.mant z.exp
          (.exact s 1 x, 0)
      | (.sqrt _ _, _) => (.value (.nan false), 0)

/-- Division; a finite non-zero number over zero is an infinity and raises divideByZero, the overflow flag (R75). -/
def divV (a b : FVal) : VRes × Nat :=
  if a.isNan || b.isNan then (.value (.nan false), flagIf (sigNan a || sigNan b) fInvalid)
  else
    let neg := signOfV a != signOfV b
    match a, b with
    | .inf _, .inf _ => (.value (.nan false), fInvalid)
    | .zero _, .zero _ => (.value (.nan false), fInvalid)
    | .inf _, _ => (.value (.inf neg), 0)
    | _, .inf _ => (.value (.zero neg), 0)
    | .zero _, _ => (.value (.zero neg), 0)
    | _, .zero _ => (.value (.inf neg), fOverflow)
    | .fin _ m e, .fin _ m' e' => (.exact (if neg then -(m : Int) else m) m' (e - e'), 0)
    | _, _ => (.value (.nan false), 0)

def sqrtV (a : FVal) : VRes × Nat :=
  match a with
  | .nan s => (.value (.nan false), flagIf s fInvalid)
  | .inf n => if n then (.value (.nan false), fInvalid) else (.value (.inf false), 0)
  | .zero n => (.value (.zero n), 0)
  | .fin n m e => if n then (.value (.nan false), fInvalid) else (.sqrt m e, 0)

/-- R129: roundToIntegral in the mode, raising no inexact. -/
def integralV (mode : Nat) (a : FVal) : VRes × Nat :=
  match a with
  | .nan s => (.value (.nan false), flagIf s fInvalid)
  | .inf n => (.value (.inf n), 0)
  | .zero n => (.value (.zero n), 0)
  | .fin n m e =>
    if e ≥ 0 then (.value (.fin n m e), 0)
    else
      let d := 2 ^ (-e).toNat
      let t := if roundsUp mode n (m / d) (m % d) d 0 then m / d + 1 else m / d
      (.value (if t = 0 then .zero n else .fin n t 0), 0)

/-- R82: the extreme of two values; equal values give the first, −0 and +0 count as equal. -/
def extremeV (big : Bool) (a b : FVal) : VRes × Nat :=
  (.value (fExtreme big a b), flagIf (a.isNan || b.isNan) fInvalid)

/-- R81: the comparison predicate of imm bits 2 … 0, and the flags of the quiet or signalling form. -/
def compareV (pred : Nat) (signalling : Bool) (a b : FVal) : Bool × Nat :=
  let un := a.isNan || b.isNan
  let fl := flagIf (sigNan a || sigNan b || (signalling && un)) fInvalid
  let r :=
    if pred = 0 then !un && fEq a b
    else if pred = 1 then un || !fEq a b
    else if pred = 2 then !un && fLt a b
    else if pred = 3 then !un && !fLt b a
    else if pred = 4 then !un && fLt b a
    else if pred = 5 then !un && !fLt a b
    else if pred = 6 then un
    else !un
  (r, fl)

/-- One element of VEW on working values: the result and its own flags. `c` is the third operand or the scalar's value. -/
def vewOp (func rnd imm : Nat) (a b c : FVal) : VRes × Nat :=
  if func = 0x00 then (.value a, 0)
  else if func = 0x01 then addV a b
  else if func = 0x02 then addV a (negV b)
  else if func = 0x03 then mulV a b
  else if func = 0x04 then fmaV a b c
  else if func = 0x05 then divV a b
  else if func = 0x06 then sqrtV a
  else if func = 0x07 then extremeV false a b
  else if func = 0x08 then extremeV true a b
  else if func = 0x09 then (.value (if signOfV a then negV a else a), 0)
  else if func = 0x0A then (.value (negV a), 0)
  else if func = 0x0B then addV a c
  else if func = 0x0C then mulV a c
  else if func = 0x0D then
    let (r, f) := compareV (imm % 8) (imm.testBit 3) a b
    (.value (if r then .fin false 1 0 else .zero false), f)
  else if func = 0x0E then
    let (r, f) := compareV 1 false c (.zero false)
    (.value (if r then a else b), f)
  else integralV rnd a

/-- √(m × 2^e) as an exact quotient at most one part in 2^190 below it, an odd last place standing for the part dropped. -/
def sqrtApprox (m : Nat) (e : Int) : Nat × Int :=
  let odd := e % 2 ≠ 0
  let m2 := (if odd then 2 * m else m) * 2 ^ 400
  let e2 := (if odd then e - 1 else e) - 400
  let r := isqrt m2
  if r * r = m2 then (2 * r, e2 / 2 - 1) else (2 * r + 1, e2 / 2 - 1)

/-- The working result rounded to the working format `w`: its value and flags (R129's first rounding). -/
def workingValue (w rnd : Nat) (r : VRes) : FVal × Nat :=
  match r with
  | .value v => (v, 0)
  | .exact num den e =>
    let (c, f) := roundExact w rnd 0 num den e
    (decodeF w c, f)
  | .sqrt m e =>
    let (q, x) := sqrtApprox m e
    let (c, f) := roundMag w rnd 0 false q 1 x
    (decodeF w c, f)

/-- One element of VEW: operands in their formats to a code in `out` (R129's two roundings). -/
def vewElement (func rnd imm fa fb fc out : Nat) (useB useC : Bool) (a b c : Nat) : Nat × Nat :=
  let w := if fa = 3 ∨ out = 3 ∨ (useB ∧ fb = 3) ∨ (useC ∧ fc = 3) then 3 else 2
  let (va, f1) := toWorking fa w (decodeF fa a)
  let (vb, f2) := if useB then toWorking fb w (decodeF fb b) else (.zero false, 0)
  let (vc, f3) := if useC then toWorking fc w (decodeF fc c)
    else if func = 0x0B ∨ func = 0x0C then toWorking 2 w (decodeF 2 imm) else (.zero false, 0)
  let (r, f4) := vewOp func rnd imm va vb vc
  let (v, f5) := workingValue w rnd r
  let (code, f6) := fromWorking w out rnd v
  (code, f1 ||| f2 ||| f3 ||| f4 ||| f5 ||| f6)

def runVew (env : TEnv) (c : CmdRec) (t : Tile) : Except Nat TOut :=
  let as := operandA env t c c.m c.n
  let be := mkExt c.locB c.m c.n c.strB (fmtBytes c.fmtB)
  let ce := mkExt c.locC c.m c.n c.strC (fmtBytes c.fmtC)
  let outs := (positions c.m c.n).map fun p =>
    vewElement c.func c.rnd c.imm c.fmtA c.fmtB c.fmtC c.fmtOut (vewHasB c.func) (vewHasC c.func) (at2 as c.n p.1 p.2)
      (if vewHasB c.func then elemCode env t be p.1 p.2 else 0) (if vewHasC c.func then elemCode env t ce p.1 p.2 else 0)
  .ok (finish opVEW c t outs 0)

/-! ### Row reductions (R130) -/

/-- R82: index of the extreme of a row: the lowest among equals, or the lowest NaN with invalid. -/
def argExtreme (big : Bool) (xs : List FVal) : Nat × Nat :=
  match xs.findIdx? (·.isNan) with
  | some i => (i, fInvalid)
  | none =>
    let best := (List.range xs.length).foldl (fun b i =>
      let x := xs.getD i (.zero false)
      let y := xs.getD b (.zero false)
      if (if big then fLt y x else fLt x y) then i else b) 0
    (best, 0)

/-- R82: the extreme of a row that is not empty. -/
def rowExtreme (big : Bool) (xs : List FVal) : FVal × Nat :=
  match xs with
  | [] => (.zero false, 0)
  | x :: r => (r.foldl (fExtreme big) x, flagIf (xs.any (·.isNan)) fInvalid)

/-- The rows of values of an operand. -/
def rowsOf (f m n : Nat) (codes : List Nat) : List (List FVal) :=
  (List.range m).map fun i => (List.range n).map fun j => decodeF f (at2 codes n i j)

def runVred (env : TEnv) (c : CmdRec) (t : Tile) : Except Nat TOut := do
  let rows := rowsOf c.fmtA c.m c.n (operandA env t c c.m c.n)
  let scalar := decodeF c.fmtC (elemCode env t (mkExt c.locC 1 1 0 (fmtBytes c.fmtC)) 0 0)
  let terms := rows.map fun r =>
    if c.func = 5 ∨ c.func = 7 then squaredDeviations (scaleS c) scalar r else sumTerms (scaleS c) r
  if c.func = 0 ∨ c.func = 5 then
    reduceAll env opVRED c t (accBase c) (anchoredCmd opVRED c) terms ((List.range c.m).map fun i => drawOf env c i 0)
  else if c.func = 6 ∨ c.func = 7 then
    let acc ← anchorEntries t.acc (accBase c) (ctlCT c) (terms.map anchorOf)
    .ok { tile := { t with acc }, flags := terms.foldl (fun a x => a ||| termFlags x) 0 }
  else if c.func = 3 ∨ c.func = 4 then
    .ok (finish opVRED c t (rows.map fun r =>
      let (i, f) := argExtreme (c.func == 3) r
      (wrap32 (i + c.imm % 2 ^ 16), f)) 0)
  else
    .ok (finish opVRED c t (rows.map fun r =>
      let (v, f) := rowExtreme (c.func == 1) r
      let (code, f2) := if c.fmtA = c.fmtOut then ((convertF c.fmtA c.fmtA 0 v).1, 0) else
        convertF c.fmtA c.fmtOut c.rnd v
      (code, f ||| f2)) 0)

/-! ### GATHER, SCADD (R132) -/

/-- The u32 indices at loc_c. -/
def indicesOf (env : TEnv) (t : Tile) (c : CmdRec) : List Nat := extCodes env t (mkExt c.locC 1 c.m 0 4)

def runGather (env : TEnv) (c : CmdRec) (t : Tile) : Except Nat TOut := do
  let a := mkExt c.locA 1 c.n 0 (fmtBytes c.fmtA)
  let outs ← (indicesOf env t c).mapM fun i =>
    if i ≥ c.n then .error stBadAddress
    else
      let code := elemCode env t a 0 i
      Except.ok (if c.fmtA = c.fmtOut then (code, 0) else convertF c.fmtA c.fmtOut c.rnd (decodeF c.fmtA code))
  .ok (finish opGATHER c t outs 0)

/-- One addition of SCADD and SCADDR: an element and B(i), rounded as in VEW, stored in fmt_a. -/
def scatterAdd (c : CmdRec) (x b : Nat) : Nat × Nat :=
  let (code, f) := vewElement 0x01 c.rnd 0 c.fmtA c.fmtB 2 c.fmtA true false x b 0
  (normalise c.fmtA code, f)

def runScadd (env : TEnv) (c : CmdRec) (t : Tile) : Except Nat TOut := do
  let idx := indicesOf env t c
  let bs := extCodes env t (mkExt c.locB 1 c.m 0 (fmtBytes c.fmtB))
  if idx.any (fun i => decide (i ≥ c.n)) then .error stBadAddress
  let w := fmtBytes c.fmtA
  let (m, f) := (idx.zip bs).foldl (fun (acc : Memory × Nat) p =>
    let at_ := locOff c.locA + p.1 * w
    let (code, f) := scatterAdd c (acc.1.num at_ w) p.2
    (acc.1.write at_ (leBytes w code), acc.2 ||| f)) (workHalf t, 0)
  .ok { tile := putWorkHalf t m, flags := f }

/-! ### SFN, SMAX, NSTAT (R131, R185 to R188) -/

/-- The table that func selects for the part: a built-in function's, or a loaded slot's (R131, R196). -/
def tableFor (env : TEnv) (func : Nat) : Except Nat Table :=
  if func < 0x80 then .ok (builtinTable func env.edition)
  else
    match env.fns.find? fun e => e.1 == func - 0x80 with
    | some e => .ok (loadedTable e.2)
    | none => .error stEmptySlot

/-- SFN; a table's own edition serves its exp2 path too: a loaded slot's whatever #5000.02 says (R196). -/
def runSfn (env : TEnv) (c : CmdRec) (t : Tile) : Except Nat TOut := do
  let tab ← tableFor env c.func
  let offset := if c.locC = locNone then none
    else some (decodeF c.fmtC (elemCode env t (mkExt c.locC 1 1 0 (fmtBytes c.fmtC)) 0 0))
  let outs := (operandA env t c c.m c.n).map fun x =>
    sfnElement (decide (c.func ≥ 0x80)) c.func tab.edition c.fmtOut tab (sfnArgument (decodeF c.fmtA x) offset)
  .ok (finish opSFN c t outs 0)

/-- R186 step 2, R187: e_i as FP32 code and the flags of its rounding. -/
def smaxExp (edition : Nat) (x mx : FVal) : Nat × Nat :=
  if x = mx ∨ (!x.isNan ∧ !mx.isNan ∧ fEq x mx) then ((roundExact 2 0 0 1 1 0).1, 0)
  else
    match x with
    | .inf _ => (0, 0)
    | v =>
      match mx with
      | .inf _ => (0, 0)
      | w =>
        let (d, e) := dyAdd v.mant v.exp (-w.mant) w.exp
        let (m, y) := expValue edition d e
        roundExact 2 0 0 m 1 y

/-- R186 step 3: Z as an entry with anchor 0. A row that holds a NaN carries the NaN tag (R187). -/
def smaxSum (nan : Bool) (es : List Nat) : Acc :=
  if nan then .anch 0 1 es.length false (some 0)
  else
    let (w, _) := windowSum 0 (es.map fun x =>
      let v := decodeF 2 x
      ⟨v.mant, v.exp, 0, false⟩)
    .anch w 0 es.length false (some 0)

/-- R186 step 4: e / Z. -/
def smaxDivide (g : Nat) (z : Acc) (e : Nat) : Nat × Nat :=
  match z with
  | .anch w tag _ _ _ =>
    if tag ≠ 0 then (fmtNan g, fInvalid)
    else
      match decodeF 2 e with
      | .nan _ => (fmtNan g, fInvalid)
      | .fin neg m x =>
        if w = 0 then (withSign g neg (fmtInf g), fOverflow ||| flagIf (g == 1) fInexact)
        else roundExact g 0 0 ((if neg then -(m : Int) else m) * (if w < 0 then -1 else 1)) w.natAbs (x + 220)
      | .zero _ => if w = 0 then (fmtNan g, fInvalid) else (0, 0)
      | .inf neg => (withSign g (neg != decide (w < 0)) (fmtInf g), flagIf (g == 1) (fOverflow ||| fInexact))
  | .exact _ _ _ => (0, 0)
  | .high => (0, 0)

/-- The phases of SMAX (R186). -/
def runSmax (env : TEnv) (c : CmdRec) (t : Tile) : Except Nat TOut := do
  let phase := c.imm % 4
  if phase = 3 then
    let zs ← (List.range c.m).mapM fun i =>
      match targetAcc t.acc (entryOf (accBase c) i true) true with
      | .error st => .error st
      | .ok none => .error stAnchorUnset
      | .ok (some (.anch w g n tr a)) => if a = some 0 then Except.ok (Acc.anch w g n tr a) else .error stAnchorMismatch
      | .ok (some (.exact _ _ _)) => .error stAccKind
      | .ok (some .high) => .error stAccKind
    let es := extCodes env t (mkExt c.locA c.m c.n c.strA 4)
    let nan (i : Nat) : Bool := (List.range c.n).any fun j => (decodeF 2 (at2 es c.n i j)).isNan
    let outs := (positions c.m c.n).map fun p =>
      if nan p.1 then (fmtNan c.fmtOut, fInvalid) else smaxDivide c.fmtOut (zs.getD p.1 .high) (at2 es c.n p.1 p.2)
    let t := { t with acc := putBlock t.acc (accBase c) true (zs.map fun _ => none) }
    .ok (finish opSMAX c t outs 0)
  else
    let rows := rowsOf c.fmtA c.m c.n (extCodes env t (mkExt c.locA c.m c.n c.strA (fmtBytes c.fmtA)))
    if phase = 1 then
      .ok (finish opSMAX c t (rows.map fun r =>
        let (v, f) := rowExtreme true r
        ((convertF c.fmtA c.fmtA 0 v).1, f)) 0)
    else
      let ce := mkExt c.locC c.m 1 c.strC (fmtBytes c.fmtC)
      let maxima := (List.range c.m).map fun i =>
        if phase = 2 then decodeF c.fmtC (elemCode env t ce i 0) else (rowExtreme true (rows.getD i [])).1
      if (rows.zip maxima).any (fun p => !p.2.isNan && p.1.any fun x => !x.isNan && fLt p.2 x) then .error stAnchorMismatch
      let done := (rows.zip maxima).map fun p =>
        let nan := p.2.isNan || p.1.any (·.isNan)
        let es := p.1.map fun x => if nan then (fmtNan 2, fInvalid) else smaxExp env.edition x p.2
        (smaxSum nan (es.map (·.1)), es)
      if phase = 2 then
        let t := { t with acc := putBlock t.acc (accBase c) true (done.map fun d => some d.1) }
        .ok (finish opSMAX c t (done.flatMap (·.2)) 0)
      else
        .ok (finish opSMAX c t (done.flatMap fun d => d.2.map fun e =>
          let (code, f) := smaxDivide c.fmtOut d.1 e.1
          (code, e.2 ||| f)) 0)

def runNstat (env : TEnv) (c : CmdRec) (t : Tile) : Except Nat TOut :=
  if c.n = 0 then .error stEmptyRow
  else
    let rows := rowsOf c.fmtA c.m c.n (extCodes env t (mkExt c.locA c.m c.n c.strA (fmtBytes c.fmtA)))
    let outs := ((List.range c.m).zip rows).flatMap fun p =>
      let (mean, var, f) := rowStats c.fmtA c.fmtOut c.rnd (drawOf env c p.1 0) (drawOf env c p.1 1) p.2
      [(mean, f), (var, f)]
    .ok (finish opNSTAT c t outs 0)

/-! ### MOVE, DGSTORE (R133, R134) -/

def runMove (env : TEnv) (c : CmdRec) (t : Tile) : Except Nat TOut :=
  .ok { tile := putWorkHalf t ((workHalf t).write (locOff c.locOut) (readSpace env t (locSpace c.locA) (locOff c.locA) c.k)) }

def runDgstore (c : CmdRec) (t : Tile) : Except Nat TOut :=
  let t' := putWorkHalf t ((workHalf t).write (locOff c.locOut) (leBytes 8 t.digest))
  .ok { tile := { t' with digest := if c.imm.testBit 0 then 0 else t'.digest } }

/-! ### The digest unit (R237) -/

/-- R237. -/
def cardMix (tensorId index kind bits : Nat) : Nat :=
  let a := mix64 (((tensorId * 256) ^^^ kind) ^^^ 0x2E6B91D4C7F0385A)
  let b := mix64 (wrap64 (a + wrap64 (index * 0xB5C37E290D8A4F61)))
  mix64 ((b ^^^ bits) ^^^ 0x71A4D2E85C3B960F)

/-- The scorecard of elements (kind, index, bits) of one tensor. -/
def cardOf (tensorId : Nat) (es : List (Nat × Nat × Nat)) : Nat :=
  es.foldl (fun a e => wrap64 (a + cardMix tensorId e.2.1 e.1 e.2.2)) 0

/-- R238: the scorecard of a byte stream in the span of `m` indices from `b`. -/
def cardOfBytes (tensorId b m : Nat) (bs : List Byte) : Nat :=
  let words := (List.range (ceilDiv bs.length 8)).map fun w => (5, b + w, leNat (sliceAt bs (8 * w) 8))
  cardOf tensorId (words ++ [(6, b + m - 1, bs.length)])

end Sys2Proof.Machine
end

