-- ==== Sys2Proof/Machine/TileOps.lean ====
section
/-! DEFINITION. Tile parts at work: dispatch, retirement of a command with its signal, digest and trace record, refusal and END,
the stream queues, sync-object windows, faults and the libero, weight windows and the stop of class 3 parts (R111 to R114,
R133 to R170, R242). -/
namespace Sys2Proof.Machine
open Sys2Proof

/-! ### What a part sees of the block -/

/-- The package in slot `k`. -/
def pkgOf (s : State) (k : Nat) : Option Pkg := nget s.pkgs k

/-- What package `p` declares for class `c`. -/
def classOf (p : Pkg) (c : Nat) : Option ClassInfo := p.classes.find? fun i => i.cls == c

/-- The window of sync objects a frame or job slice holds (R167). -/
def syncBase (s : State) (w : WorkId) : Option Nat := (s.syncWins.find? fun x => x.work == w).map (·.base)

/-- R168: is a wait for `count` on object `obj` of the work's window satisfied. -/
def waitDone (s : State) (w : WorkId) (obj count : Nat) : Bool :=
  count == 0 ||
  match syncBase s w with
  | some b => decide (count ≤ syncValue s (b + obj))
  | none => false

/-- R135: may a command start. -/
def cmdReady (s : State) (w : WorkId) (c : CmdRec) : Bool := !ctlWT c || waitDone s w c.waitObj c.waitCount

/-- The die of a tile (R15). -/
def dieOfTile (t : Nat) : Nat := t / 48

/-- R162: the weight window of a package slot on a die. -/
def windowOf (s : State) (die slot : Nat) : Option Window := s.windows.find? fun w => w.die == die && w.slot == slot

/-- R193: the tables in force for a work: the one a slot held before its switch for work issued before it. -/
def functionsFor (s : State) (w : Work) : List (Nat × FnTable) :=
  s.fns.filterMap fun e =>
    match (if w.oldSlots.contains e.1 then e.2.old else e.2.cur) with
    | some f => some (e.1, f)
    | none => none

/-- R233: the strict bit in force. -/
def strictOn (s : State) : Bool := inForceReg s 0x5000 0x01 != 0

/-- R196: the edition of the built-in tables in force. -/
def editionOf (s : State) : Nat := if inForceReg s 0x5000 0x02 != 0 then 0 else 1

/-- What a command of work `w` needs from outside tile `t`. -/
def tileEnv (s : State) (w : Work) (t : Nat) : TEnv :=
  { strict := strictOn s
    edition := editionOf s
    seed := w.seed
    weights := ngetD s.cache (dieOfTile t) []
    wbase := ((windowOf s (dieOfTile t) w.slot).map (·.base)).getD 0
    fns := functionsFor s w }

/-! ### Signals (R119, R141, R168, R169) -/

/-- Deliver a signal of part `idx`, once per position: 2 × command index for the command, one more for its descriptor. -/
def deliver (s : State) (work : WorkId) (idx pos obj : Nat) : State :=
  match findWork s work, syncBase s work with
  | some w, some b =>
    if w.delivered.contains (idx, pos) then s
    else putWork (signalSync s (b + obj)) { w with delivered := w.delivered ++ [(idx, pos)] }
  | _, _ => s

/-! ### Scorecard tracing (R242) -/

/-- R446: the ring that #5010.03 and .04 give lies in one host allocation, one whose free waits for the trace included. -/
def traceOk (s : State) : Bool :=
  let a := inForceReg s 0x5010 0x03
  let n := inForceReg s 0x5010 0x04
  decide (32 ≤ n) && a % 64 == 0 && s.allocs.any fun x => x.owner == 0 && decide (x.base ≤ a) && decide (a + n ≤ x.base + x.size)

/-- Is the work traced: a frame of the context that #5010.02 names, with a ring of some length. -/
def traced (s : State) (w : WorkId) : Option Nat :=
  match w with
  | .frame k j => if k = inForceReg s 0x5010 0x02 ∧ traceOk s then some j else none
  | .job _ _ _ => none

/-- One trace record at the next place of the ring; a wrap overwrites the oldest. -/
def traceRecord (s : State) (w : WorkId) (c : CmdRec) (elems : List (Nat × Nat × Nat)) : State :=
  match traced s w with
  | none => s
  | some j =>
    let cap := inForceReg s 0x5010 0x04 / 32
    let bytes := leBytes 4 c.tensorId ++ leBytes 4 (Nat.min elems.length 0xFFFFFFFF) ++ leBytes 8 j
      ++ leBytes 8 (cardOf c.tensorId elems) ++ leBytes 8 (counterOf s)
    let s := { s with mem := s.mem.write (inForceReg s 0x5010 0x03 + s.traceAt % cap * 32) bytes }
    let s := if s.traceAt ≥ cap then addReg s 0x5010 0x06 1 else s
    addReg { s with traceAt := s.traceAt + 1 } 0x5010 0x05 1

/-! ### The end of a part (R113, R140, R170) -/

/-- R170: a tile without a part: descriptors not yet started are discarded. -/
def idleTile (x : Tile) : Tile := { x with part := none, queue := x.queue.filter (·.started) }

/-- The part of tile `t` ends with a status: it reports flags and digest, and a resume image it had is dropped. -/
def reportPart (s : State) (t : Nat) (x : Tile) (p : Part) (st : Nat) : State :=
  let s := putTile s t (idleTile x)
  let s := { s with images := s.images.filter fun i => !(i.work == p.work && i.idx == p.idx) }
  match findWork s p.work with
  | none => s
  | some w =>
    putWork s { w with parts := w.parts ++ [⟨p.idx, st, p.flags, if st = stOk then x.digest else 0, t⟩]
                       nonStrict := w.nonStrict || p.nonStrict }

/-- R140: a refused command, descriptor or wait ends the part of tile `t` at once. -/
def refusePart (s : State) (t st : Nat) : State :=
  let x := tileOf s t
  match x.part with
  | some p => reportPart s t x p st
  | none => s

/-! ### Commands (R111, R118, R120) -/

/-- The position of the command a part stands at. -/
def cmdIndex (p : Part) : Nat := p.cmds.length - p.todo.length

/-- R135: the tick since which a part's next command has been waiting. -/
def armWait (s : State) (p : Part) : Option Nat :=
  match p.todo with
  | (_, c) :: _ => if cmdReady s p.work c then none else some (counterOf s)
  | [] => none

/-- R113, R119, R134, R86: a command retires: its flags join the part's and the tile's, its output elements the digest with
DG, its signal is delivered, and the part stands at the next record. -/
def retireCmd (s : State) (t : Nat) (p : Part) (c : CmdRec) (o : TOut) : State :=
  let x := o.tile
  let x := if ctlDG c then { x with digest := wrap64 (x.digest + cardOf c.tensorId o.elems) } else x
  let s := orTileFlags s t o.flags
  let s := if ctlSG c then deliver s p.work p.idx (2 * cmdIndex p) c.sigObj else s
  let s := traceRecord s p.work c o.elems
  let p := { p with todo := p.todo.drop 1, flags := p.flags ||| o.flags, nonStrict := p.nonStrict || o.nonStrict }
  putTile s t { x with part := some { p with waitSince := armWait s p } }

/-- The command tile `t` may execute now when it is a record with opcode `op`: tile, part and record. -/
def headCmd (s : State) (t op : Nat) : Option (Tile × Part × CmdRec) :=
  let x := tileOf s t
  match x.part with
  | none => none
  | some p =>
    match p.todo with
    | [] => none
    | (o, c) :: _ => if o = op ∧ !x.checking ∧ cmdReady s p.work c then some (x, p, c) else none

/-- R111, R136, R140: tile `t` executes its next command, which has opcode `op` and computes by `run`. -/
def tileCommand (s : State) (t op : Nat) (run : TEnv → CmdRec → Tile → Except Nat TOut) : State :=
  match headCmd s t op with
  | none => s
  | some (x, p, c) =>
    if emptyShape op c then retireCmd s t p c { tile := x }
    else
      match findWork s p.work with
      | none => s
      | some w =>
        match run (tileEnv s w t) c x with
        | .ok o => retireCmd s t p c o
        | .error st => refusePart s t st

/-- NOP (R120): wait and signal only. -/
def execNop (tile : Nat) (s : State) : Host.Outcome State Fault Refusal :=
  whenService s fun s => tileCommand s tile opNOP fun _ _ t => .ok { tile := t }

/-- MMA (R121). -/
def execMma (tile : Nat) (s : State) : Host.Outcome State Fault Refusal :=
  whenService s fun s => tileCommand s tile opMMA fun env c t => runMatrix env opMMA c t

/-- CONV (R122). -/
def execConv (tile : Nat) (s : State) : Host.Outcome State Fault Refusal :=
  whenService s fun s => tileCommand s tile opCONV fun env c t => runMatrix env opCONV c t

/-- ANCHOR (R125). -/
def execAnchor (tile : Nat) (s : State) : Host.Outcome State Fault Refusal :=
  whenService s fun s => tileCommand s tile opANCHOR runAnchor

/-- STACC (R126). -/
def execStacc (tile : Nat) (s : State) : Host.Outcome State Fault Refusal :=
  whenService s fun s => tileCommand s tile opSTACC fun _ c t => runStacc c t

/-- LDACC (R126). -/
def execLdacc (tile : Nat) (s : State) : Host.Outcome State Fault Refusal :=
  whenService s fun s => tileCommand s tile opLDACC runLdacc

/-- RNDACC (R127). -/
def execRndacc (tile : Nat) (s : State) : Host.Outcome State Fault Refusal :=
  whenService s fun s => tileCommand s tile opRNDACC runRndacc

/-- VEW (R129). -/
def execVew (tile : Nat) (s : State) : Host.Outcome State Fault Refusal :=
  whenService s fun s => tileCommand s tile opVEW runVew

/-- VRED (R130). -/
def execVred (tile : Nat) (s : State) : Host.Outcome State Fault Refusal :=
  whenService s fun s => tileCommand s tile opVRED runVred

/-- GATHER (R132). -/
def execGather (tile : Nat) (s : State) : Host.Outcome State Fault Refusal :=
  whenService s fun s => tileCommand s tile opGATHER runGather

/-- SCADD (R132). -/
def execScadd (tile : Nat) (s : State) : Host.Outcome State Fault Refusal :=
  whenService s fun s => tileCommand s tile opSCADD runScadd

/-- SFN (R131). -/
def execSfn (tile : Nat) (s : State) : Host.Outcome State Fault Refusal :=
  whenService s fun s => tileCommand s tile opSFN runSfn

/-- SMAX (R131, R186). -/
def execSmax (tile : Nat) (s : State) : Host.Outcome State Fault Refusal :=
  whenService s fun s => tileCommand s tile opSMAX runSmax

/-- NSTAT (R131). -/
def execNstat (tile : Nat) (s : State) : Host.Outcome State Fault Refusal :=
  whenService s fun s => tileCommand s tile opNSTAT runNstat

/-- MOVE (R133). -/
def execMove (tile : Nat) (s : State) : Host.Outcome State Fault Refusal :=
  whenService s fun s => tileCommand s tile opMOVE runMove

/-- DGSTORE (R134). -/
def execDgstore (tile : Nat) (s : State) : Host.Outcome State Fault Refusal :=
  whenService s fun s => tileCommand s tile opDGSTORE fun _ c t => runDgstore c t

/-! ### Stream descriptors (R146 to R153) -/

/-- R147: the fields of a 64-byte descriptor. -/
def parseDesc (bs : List Byte) : Desc :=
  let w := leNat (bs.take 64)
  { ctl := bitsOf w 511 504, sigObj := bitsOf w 503 488, holdObj := bitsOf w 487 472, holdCount := bitsOf w 471 440
    elemSize := bitsOf w 439 424, dstKind := bitsOf w 423 420, dstRegion := bitsOf w 419 412, dstOff := bitsOf w 411 372
    srcKind := bitsOf w 371 368, srcRegion := bitsOf w 367 360, srcOff := bitsOf w 359 320
    counts := [bitsOf w 79 64, bitsOf w 159 144, bitsOf w 239 224, bitsOf w 319 304]
    sstr := [signedOf 32 (bitsOf w 63 32), signedOf 32 (bitsOf w 143 112), signedOf 32 (bitsOf w 223 192),
      signedOf 32 (bitsOf w 303 272)]
    dstr := [signedOf 32 (bitsOf w 31 0), signedOf 32 (bitsOf w 111 80), signedOf 32 (bitsOf w 191 160),
      signedOf 32 (bitsOf w 271 240)] }

/-- R148: the control bits of a descriptor. -/
def descHM (d : Desc) : Bool := d.ctl.testBit 7
def descSG (d : Desc) : Bool := d.ctl.testBit 6
def descFN (d : Desc) : Bool := d.ctl.testBit 5

/-- R10, R147 to R149, R152, R167: does a tile's descriptor stand by itself. -/
def descOk (nSync : Nat) (d : Desc) : Bool :=
  d.ctl % 32 == 0
  && (if descHM d then decide (d.holdObj < nSync) else d.holdObj == 0 && d.holdCount == 0)
  && (if descSG d then decide (d.sigObj < nSync) else d.sigObj == 0)
  && d.elemSize != 0
  && (if d.srcKind = 0 then decide (d.srcRegion ≤ 254)
      else (d.srcKind == 1 && d.srcRegion == 0) || (d.srcKind == 0xE && d.srcRegion == 0 && d.srcOff == 0))
  && (if d.dstKind = 0 then decide (d.dstRegion ≤ 254) else d.dstKind == 1 && d.dstRegion == 0)

/-- R150, R263: are the regions it names declared among `nums`. -/
def descDeclared (nums : List Nat) (d : Desc) : Bool :=
  (d.srcKind != 0 || nums.contains d.srcRegion) && (d.dstKind != 0 || nums.contains d.dstRegion)

/-- R152: a count of zero empties the descriptor. -/
def descEmpty (d : Desc) : Bool := d.counts.contains 0

/-- R153: lowest addressed byte and the byte after the highest. -/
def footprint (off : Nat) (size : Nat) (counts : List Nat) (strs : List Int) : Int × Int :=
  let ends := (counts.zip strs).map fun p => p.2 * ((p.1 : Int) - 1)
  (ends.foldl (fun a e => if e < 0 then a + e else a) (off : Int),
   ends.foldl (fun a e => if e > 0 then a + e else a) (off : Int) + size)

def srcFoot (d : Desc) : Int × Int := footprint d.srcOff d.elemSize d.counts d.sstr
def dstFoot (d : Desc) : Int × Int := footprint d.dstOff d.elemSize d.counts d.dstr

/-- R153: do the destination elements interleave in some dimension of `(count, stride)` pairs. -/
def interleaved : Nat → List (Nat × Int) → Bool
  | _, [] => false
  | span, (n, str) :: r =>
    (decide (n > 1) && decide (str.natAbs < span)) || interleaved (if n > 1 then str.natAbs * (n - 1) + span else span) r

/-- Two byte ranges share a byte. -/
def rangesMeet (a b : Int × Int) : Bool := decide (a.1 < b.2) && decide (b.1 < a.2)

/-- The region of a work with number `r`. -/
def regionOf (w : Work) (r : Nat) : Option Region := w.regions.find? fun x => x.num == r

/-- R153: does a footprint lie in its endpoint. -/
def footInside (w : Work) (kind region : Nat) (f : Int × Int) : Bool :=
  let limit := if kind = 0 then ((regionOf w region).map (·.len)).getD 0 else if kind = 1 then 2 ^ 20 else 2 ^ 40
  decide (0 ≤ f.1) && decide (f.2 ≤ (limit : Int))

/-- R153: the status that refuses a descriptor when its queue starts it. -/
def descRefused (w : Work) (d : Desc) : Option Nat :=
  if descEmpty d then none
  else if d.srcKind ≠ 0xE ∧ !footInside w d.srcKind d.srcRegion (srcFoot d) then some stBadAddress
  else if !footInside w d.dstKind d.dstRegion (dstFoot d) then some stBadAddress
  else if d.dstKind = 0 ∧ ((regionOf w d.dstRegion).map (·.rw)) ≠ some true then some stReadOnly
  else if interleaved d.elemSize (d.counts.zip d.dstr) then some stOverlap
  else if d.srcKind = d.dstKind ∧ d.srcRegion = d.dstRegion ∧ rangesMeet (srcFoot d) (dstFoot d) then some stOverlap
  else none

/-- R157: is `f` on endpoint (kind, region, half) and the destination of `q` met. -/
def meetsDst (q : QDesc) (kind region : Nat) (hi : Bool) (f : Int × Int) : Bool :=
  q.desc.dstKind == kind && (if kind = 1 then q.hi == hi else q.desc.dstRegion == region) && rangesMeet f (dstFoot q.desc)

/-- R157: two descriptors conflict when one's destination footprint overlaps the other's source or destination footprint. -/
def descConflict (a b : QDesc) : Bool :=
  !descEmpty a.desc && !descEmpty b.desc &&
  (meetsDst a b.desc.dstKind b.desc.dstRegion b.hi (dstFoot b.desc) ||
   meetsDst a b.desc.srcKind b.desc.srcRegion b.hi (srcFoot b.desc) ||
   meetsDst b a.desc.srcKind a.desc.srcRegion a.hi (srcFoot a.desc))

/-- R156: the descriptor that queue `q` of a tile may start next, before hold marks: the first not started, with at most three in
flight, alone if it is a fence. -/
def nextDesc (x : Tile) (q : Nat) : Option QDesc :=
  let mine := x.queue.filter fun d => d.queue == q
  match mine.find? fun d => !d.started with
  | none => none
  | some d =>
    let flying := (mine.filter (·.started)).length
    if flying ≥ 4 ∨ (descFN d.desc ∧ flying > 0) then none else some d

/-- R148: is a descriptor's hold mark satisfied. -/
def holdDone (s : State) (d : QDesc) : Bool := !descHM d.desc || waitDone s d.work d.desc.holdObj d.desc.holdCount

/-- R271, R434: the buffer a frame reads of a region: of a state region the other of its two buffers, of an upstream region the upstream
frame's committed output, which stands once the frame's parts may be dispatched. -/
def readBase (s : State) (w : WorkId) (r : Region) : Nat :=
  match w with
  | .frame k j =>
    if r.source = 4 then
      match (ctxOf s k).stateBufs.find? fun b => b.1 == r.num with
      | some (_, b0, b1) => if j % 2 = 0 then b1 else b0
      | none => r.base
    else if r.source = 6 then upstreamBase s k j
    else r.base
  | .job _ _ _ => r.base

/-- R146, R155: STREAM copies the descriptor at loc_a into its queue, checked, while the queue has room. -/
def streamStep (s : State) (t : Nat) : State :=
  match headCmd s t opSTREAM with
  | none => s
  | some (x, p, c) =>
    match findWork s p.work with
    | none => s
    | some w =>
      let d := parseDesc (readSpace (tileEnv s w t) x (locSpace c.locA) (locOff c.locA) 64)
      let q := c.imm % 4
      if (x.queue.filter fun e => e.queue == q).length ≥ 16 then s
      else if !(descOk (((pkgOf s w.slot).map (·.nSync)).getD 0) d && descDeclared (w.regions.map (·.num)) d) then
        refusePart s t stBadDescriptor
      else
        let e : QDesc := { work := p.work, idx := p.idx, order := cmdIndex p, queue := q, desc := d, hi := !x.workHi, since := counterOf s }
        retireCmd s t p c { tile := { x with queue := x.queue ++ [e] } }

/-- STREAM (R133). -/
def execStream (tile : Nat) (s : State) : Host.Outcome State Fault Refusal := whenService s fun s => streamStep s tile

/-- R159: does a descriptor have an endpoint in a half. -/
def touchesHalf (d : QDesc) : Bool := d.desc.srcKind == 1 || d.desc.dstKind == 1

/-- R133, R159: SWAP waits for every descriptor with an endpoint in a half, then exchanges the roles. -/
def swapStep (s : State) (t : Nat) : State :=
  match headCmd s t opSWAP with
  | none => s
  | some (x, p, c) =>
    if x.queue.any touchesHalf then s else retireCmd s t p c { tile := { x with workHi := !x.workHi } }

/-- SWAP (R133). -/
def execSwap (tile : Nat) (s : State) : Host.Outcome State Fault Refusal := whenService s fun s => swapStep s tile

/-- R113, R160: END waits until every descriptor has completed, then the part commits; a traced END leaves its record too (R242). -/
def endStep (s : State) (t : Nat) : State :=
  match headCmd s t opEND with
  | none => s
  | some (x, p, c) =>
    if !x.queue.isEmpty then s
    else
      let s := if ctlSG c then deliver s p.work p.idx (2 * cmdIndex p) c.sigObj else s
      reportPart (traceRecord s p.work c []) t x p stOk

/-- END (R113, R160). -/
def execEndPart (tile : Nat) (s : State) : Host.Outcome State Fault Refusal := whenService s fun s => endStep s tile

/-- R164: the descriptor of SCADDR uses only these fields. -/
def scaddrDescOk (c : CmdRec) (d : Desc) : Bool :=
  d.dstKind == 0 && decide (d.dstRegion ≤ 254) && d.elemSize == fmtBytes c.fmtA && d.ctl == 0 && d.sigObj == 0 && d.holdObj == 0
  && d.holdCount == 0 && d.srcKind == 0 && d.srcRegion == 0 && d.srcOff == 0 && d.counts.drop 1 == [1, 1, 1]
  && d.sstr == [0, 0, 0, 0] && d.dstr.drop 1 == [0, 0, 0]

/-- R132, R164: the additions of SCADDR, each read, rounded and written at the stack. -/
def scaddrAdds (c : CmdRec) (d : Desc) (base : Nat) (m : Memory) (pairs : List (Nat × Nat)) : Memory × Nat :=
  let w := fmtBytes c.fmtA
  pairs.foldl (fun acc p =>
    let at_ := base + ((d.dstOff : Int) + (p.1 : Int) * d.dstr.headD 0).toNat
    let (code, f) := scatterAdd c (acc.1.num at_ w) p.2
    (acc.1.write at_ (leBytes w code), acc.2 ||| f)) (m, 0)

/-- R132, R164: SCADDR in non-strict mode. -/
def scaddrStep (s : State) (t : Nat) : State :=
  match headCmd s t opSCADDR with
  | none => s
  | some (x, p, c) =>
    if strictOn s then refusePart s t stStrictForbids
    else if c.m = 0 then retireCmd s t p c { tile := x }
    else
      match findWork s p.work with
      | none => s
      | some w =>
        let env := tileEnv s w t
        let d := parseDesc (readSpace env x (locSpace c.locOut) (locOff c.locOut) 64)
        let idx := indicesOf env x c
        let bs := extCodes env x (mkExt c.locB 1 c.m 0 (fmtBytes c.fmtB))
        let str := d.dstr.headD 0
        let foot := footprint d.dstOff d.elemSize (d.counts.take 1) [str]
        if !scaddrDescOk c d then refusePart s t stBadDescriptor
        else
          match regionOf w d.dstRegion with
          | none => refusePart s t stBadDescriptor
          | some r =>
            if idx.any (fun i => decide (i ≥ d.counts.headD 0)) ∨ !footInside w 0 d.dstRegion foot then
              refusePart s t stBadAddress
            else if !r.rw then refusePart s t stReadOnly
            else
              let (m, f) := scaddrAdds c d r.base s.mem (idx.zip bs)
              retireCmd { s with mem := m } t p c { tile := x, flags := f, nonStrict := true }

/-- SCADDR (R132). -/
def execScaddr (tile : Nat) (s : State) : Host.Outcome State Fault Refusal := whenService s fun s => scaddrStep s tile

/-! ### Starting and completing descriptors (R153, R156, R157, R164) -/

/-- R164: a descriptor between device memory, or zero, and device memory runs on an engine of the stack that holds its destination's first
byte. -/
def engineStack (s : State) (d : QDesc) : Option Nat :=
  if d.desc.dstKind = 0 ∧ d.desc.srcKind ≠ 1 ∧ !descEmpty d.desc then some (stackOf s (d.dstBase + d.desc.dstOff)) else none

/-- R156, R157: queue `q` of a tile starts its next descriptor, or the part is refused. -/
def startDesc (s : State) (t q : Nat) : State :=
  let x := tileOf s t
  match nextDesc x q with
  | none => s
  | some d =>
    if x.part.isNone ∨ !holdDone s d ∨ x.queue.any (fun e => decide (e.order < d.order) && descConflict e d) then s
    else
      match findWork s d.work with
      | none => s
      | some w =>
        match descRefused w d.desc with
        | some st => refusePart s t st
        | none =>
          let base (f : Region → Nat) (kind r : Nat) : Nat := if kind = 0 then ((regionOf w r).map f).getD 0 else 0
          let d' := { d with started := true, srcBase := base (readBase s d.work) d.desc.srcKind d.desc.srcRegion
                             dstBase := base (·.base) d.desc.dstKind d.desc.dstRegion }
          let (n, s) := fresh s
          let d' := { d' with engine := engineStack s d', arrived := n }
          putTile s t { x with queue := x.queue.map fun e => if e.order = d.order then d' else e }

/-- DESCRIPTOR_START (R153, R156, R157). -/
def execDescriptorStart (tile queue : Nat) (s : State) : Host.Outcome State Fault Refusal :=
  whenService s fun s => startDesc s tile queue

/-- R151: the byte offsets of the elements of an endpoint, i0 fastest. -/
def elemOffsets (off : Nat) (counts : List Nat) (strs : List Int) : List Nat :=
  let step := fun (offs : List Int) (p : Nat × Int) =>
    (List.range p.1).flatMap fun (i : Nat) => offs.map fun o => o + (if p.1 = 1 then 0 else (i : Int) * p.2)
  ((counts.zip strs).foldl step [(off : Int)]).map Int.toNat

/-- R151, R154: the bytes a descriptor moves, as (destination offset, bytes), read from the source endpoint. -/
def movedBytes (s : State) (x : Tile) (d : QDesc) : List (Nat × List Byte) :=
  let n := d.desc.elemSize
  let half := if d.hi then x.hi else x.lo
  let read (o : Nat) : List Byte :=
    if d.desc.srcKind = 0 then s.mem.read (d.srcBase + o) n
    else if d.desc.srcKind = 1 then half.read o n
    else List.replicate n 0
  (elemOffsets d.desc.dstOff d.desc.counts d.desc.dstr).zip ((elemOffsets d.desc.srcOff d.desc.counts d.desc.sstr).map read)

/-- R154, R156: every byte of a descriptor in place. -/
def moveDesc (s : State) (t : Nat) (d : QDesc) : State :=
  let x := tileOf s t
  if descEmpty d.desc then s
  else
    let moves := movedBytes s x d
    if d.desc.dstKind = 0 then { s with mem := moves.foldl (fun m p => m.write (d.dstBase + p.1) p.2) s.mem }
    else
      let half := moves.foldl (fun m p => m.write p.1 p.2) (if d.hi then x.hi else x.lo)
      putTile s t (if d.hi then { x with hi := half } else { x with lo := half })

/-- The unit at an end of a transfer, with its die: a tile, or the one stack that holds all the bytes (384 + its number). -/
def transferEnd (s : State) (t kind base : Nat) (f : Int × Int) : Option (Nat × Nat) :=
  if kind = 1 then some (dieOfTile t, t)
  else if kind = 0 then
    let lo := stackOf s (base + f.1.toNat)
    if f.2 - f.1 ≤ 4096 ∧ stackOf s (base + (f.2 - 1).toNat) = lo then some (lo / 3, 384 + lo) else none
  else none

/-- The two units of a descriptor's transfer. -/
def transferUnits (s : State) (t : Nat) (d : QDesc) : Option ((Nat × Nat) × Nat × Nat) :=
  match transferEnd s t d.desc.srcKind d.srcBase (srcFoot d.desc), transferEnd s t d.desc.dstKind d.dstBase (dstFoot d.desc) with
  | some a, some b => some (a, b)
  | _, _ => none

/-- R18, R164: what was issued before a descriptor and must end first: transfers between the same two units over bridges, and on a stack
all but the three before it, for its engines are four and take descriptors as they arrive. -/
def aheadOf (s : State) (t : Nat) (d : QDesc) : Bool :=
  let earlier := s.tiles.flatMap fun e => (e.2.queue.filter fun q => q.started && decide (q.arrived < d.arrived)).map fun q => (e.1, q)
  let held := match transferUnits s t d with
    | some (a, b) => crossesBridge a.1 b.1 && earlier.any fun q => transferUnits s q.1 q.2 == some (a, b)
    | none => false
  held || (d.engine.isSome && decide (4 ≤ (earlier.filter fun q => q.2.engine == d.engine).length))

/-- R156: the descriptor of command `order` completes: its bytes are visible, its signal follows, its queue entry is free. -/
def completeDesc (s : State) (t order : Nat) : State :=
  match (tileOf s t).queue.find? fun d => d.order == order && d.started && !aheadOf s t d with
  | none => s
  | some d =>
    let s := moveDesc s t d
    let x := tileOf s t
    let s := putTile s t { x with queue := x.queue.filter fun e => e.order != order }
    if descSG d.desc then deliver s d.work d.idx (2 * order + 1) d.desc.sigObj else s

/-- DESCRIPTOR_COMPLETE (R156). -/
def execDescriptorComplete (tile order : Nat) (s : State) : Host.Outcome State Fault Refusal :=
  whenService s fun s => completeDesc s tile order

/-- R135, R160: a wait of a command or a hold mark of a queued descriptor has stood for 64 ticks. -/
def waitExpired (s : State) (x : Tile) (p : Part) : Bool :=
  (match p.waitSince, p.todo with
   | some n, (_, c) :: _ => !cmdReady s p.work c && decide (n + 64 ≤ counterOf s)
   | _, _ => false) ||
  x.queue.any fun d => !d.started && !holdDone s d && decide (d.since + 64 ≤ counterOf s)

/-- SYNC_TIMEOUT (R135, R160): the part ends with ST_SYNC_TIMEOUT. -/
def execSyncTimeout (tile : Nat) (s : State) : Host.Outcome State Fault Refusal :=
  whenService s fun s =>
    match (tileOf s tile).part with
    | some p => if waitExpired s (tileOf s tile) p then refusePart s tile stSyncTimeout else s
    | none => s

/-! ### Windows of sync objects (R167, R168) -/

/-- The lowest first object of `n` free ones below 65,536. -/
def placeSync (s : State) (n : Nat) : Option Nat :=
  let free (b : Nat) : Bool := decide (b + n ≤ 65536) && s.syncWins.all fun w => !overlaps w.base w.n b n
  match ((0 :: s.syncWins.map fun w => w.base + w.n).filter free) with
  | [] => none
  | b :: r => some (r.foldl Nat.min b)

/-- SYNC_WINDOW_ALLOCATE (R167, R168): the window of a work that has none yet, its counters at 0. -/
def allocSync (s : State) (work : WorkId) : State :=
  match findWork s work with
  | none => s
  | some w =>
    let n := ((pkgOf s w.slot).map (·.nSync)).getD 0
    if n = 0 ∨ (syncBase s work).isSome ∨ w.result.isSome then s
    else
      match placeSync s n with
      | none => s
      | some b =>
        { s with syncWins := s.syncWins ++ [⟨work, b, n⟩]
                 sync := s.sync.filter fun e => !(decide (b ≤ e.1) && decide (e.1 < b + n)) }

/-- Have every part, segment and collective of a work's frame program ended (R168). -/
def workEnded (s : State) (w : Work) : Bool :=
  match (pkgOf s w.slot).bind fun p => classOf p w.cls with
  | none => true
  | some c =>
    c.parts.all (fun p => w.parts.any fun r => r.idx == p.idx) &&
    decide (c.segs.length ≤ w.segs.length) && decide (c.colls.length ≤ w.colls.length)

/-- R168: no tile of the block still moves bytes for a work. -/
def workQuiet (s : State) (work : WorkId) : Bool := s.tiles.all fun e => e.2.queue.all fun d => !(d.work == work)

/-- SYNC_WINDOW_RELEASE (R168). -/
def releaseSync (s : State) (work : WorkId) : State :=
  let ended := match findWork s work with
    | some w => workEnded s w && workQuiet s work
    | none => true
  if ended then { s with syncWins := s.syncWins.filter fun x => !(x.work == work) } else s

def execSyncWindowRelease (work : WorkId) (s : State) : Host.Outcome State Fault Refusal :=
  whenControlled s fun s => releaseSync s work

/-! ### Dispatch (R111, R112, R139, R167, R271, R413, R434) -/

/-- R409: the span group of a context: its number, and the ranks' addresses. -/
def spanGroupOf (s : State) (k : Nat) : Option (Nat × List Nat) :=
  (List.range 32).findSome? fun g =>
    let b := getBlob s 0x4100 (0x12 + g)
    let n := numAt b 2 1
    if n ≥ 2 ∧ numAt b 0 2 = k then some (g, (List.range n).map fun r => numAt b (4 + 2 * r) 2) else none

/-- R290: a decoding package's input picture that core 1 has not parsed yet. -/
def unparsed (s : State) (w : Work) : Bool :=
  match pkgOf s w.slot with
  | some p => (p.kind == 2 || p.kind == 4) && !w.parsed
  | none => false

/-- R290, R307, R318, R434, R271, R413: what a frame's parts wait for before their dispatch. -/
def dispatchHeld (s : State) (w : Work) : Bool :=
  match w.id with
  | .job _ _ _ => false
  | .frame k j =>
    unparsed s w || w.raw.isSome || !w.searched
    || (w.regions.any (fun r => r.source == 4) &&
      s.works.any fun o => match o.id with
        | .frame k' j' => k' == k && decide (j' < j)
        | .job _ _ _ => false)
    || (w.regions.any (fun r => r.source == 6) &&
      !s.frames.any fun f => f.ctx == getReg s (ctxIndex k) 0x27 && f.j == j && decide (f.state ≥ 3))
    || (match spanGroupOf s k with
      | some (g, _) =>
        s.works.any (fun o => match o.id with
          | .frame k' _ => k' == k && decide (o.issued < w.issued)
          | .job _ _ _ => false) ||
        (decide (0 < j) && decide (ngetD s.fabric.barrier g 0 < w.issued))
      | none => false)

/-- Is a part of a work on some tile. -/
def partRunning (s : State) (work : WorkId) (idx : Nat) : Bool :=
  s.tiles.any fun e => match e.2.part with
    | some p => p.work == work && p.idx == idx
    | none => false

/-- R262, R162: the size of a package's weight-cache image. -/
def imageLen (p : Pkg) : Nat := (p.image.map (·.2)).getD 0

/-- R112: a tile at the start of a part. -/
def freshTile (x : Tile) (p : Part) : Tile :=
  { part := some p, faultAt := x.faultAt, checking := x.checking }

/-- R139, R128, R132, R233: the status with which a dispatch refuses a part. -/
def dispatchRefused (s : State) (p : Pkg) (plan : PartPlan) : Option Nat :=
  match checkPart p.nSync (imageLen p) plan.cmds with
  | some st => some st
  | none => if strictOn s && strictForbids plan.cmds then some stStrictForbids else none

/-- R144, R145, R163, R264: may tile `t` take the part: home die (or any with placement 1), a filled window, the tile or the die (384 +
its number) that the part was bound to by a replay, and the die of its resume image. -/
def placeOk (s : State) (w : Work) (p : Pkg) (plan : PartPlan) (t : Nat) : Bool :=
  (plan.place == 1 || dieOfTile t == w.die)
  && (p.image.isNone || ((windowOf s (dieOfTile t) w.slot).map (·.filled)) == some true)
  && (w.tiles.all fun b => b.1 != plan.idx || b.2 == t || b.2 == 384 + dieOfTile t)
  && s.images.all fun i => !(i.work == w.id && i.idx == plan.idx) || i.die == dieOfTile t

/-- The dispatch of a part that may start now on tile `t`: from its resume image (R145), refused at once (R139), or fresh. -/
def startPart (s : State) (t : Nat) (w : Work) (p : Pkg) (plan : PartPlan) : State :=
  let x := tileOf s t
  let s := putWork s { w with started := true }
  match s.images.find? fun i => i.work == w.id && i.idx == plan.idx with
  | some i =>
    let part := i.tile.part.map fun q => { q with resumed := true, waitSince := armWait s q }
    let again (q : QDesc) : QDesc := { q with since := counterOf s }
    putTile s t { i.tile with part, queue := i.tile.queue.map again, faultAt := x.faultAt, checking := x.checking }
  | none =>
    let part : Part := { work := w.id, idx := plan.idx, prio := w.prio, cmds := plan.cmds, todo := plan.cmds }
    match dispatchRefused s p plan with
    | some st => reportPart s t (freshTile x part) part st
    | none => putTile s t (freshTile x { part with waitSince := armWait s part })

/-- Is part `plan` of a work not run yet, nor on a tile. -/
def partOpen (s : State) (w : Work) (plan : PartPlan) : Bool :=
  !(w.parts.any fun r => r.idx == plan.idx) && !partRunning s w.id plan.idx

/-- R167: a work has its window of sync objects, needs none, or can have one. -/
def windowReady (s : State) (w : Work) (p : Pkg) : Bool :=
  p.nSync == 0 || (syncBase s w.id).isSome || (placeSync s p.nSync).isSome

/-- R54: a carried work before `w` has a part that tile `t` could take now. -/
def tileOwed (s : State) (w : Work) (t : Nat) : Bool :=
  (carriedAhead s w).any fun o =>
    match pkgOf s o.slot with
    | none => false
    | some p =>
      windowReady s o p && !dispatchHeld s o &&
        match classOf p o.cls with
        | some c => c.parts.any fun plan => partOpen s o plan && placeOk s o p plan t
        | none => false

/-- TILE_PART_DISPATCH (R54, R111, R112). -/
def dispatchPart (s : State) (t : Nat) (work : WorkId) (idx : Nat) : State :=
  match findWork s work with
  | none => s
  | some w =>
    match pkgOf s w.slot with
    | none => s
    | some p =>
      match (classOf p w.cls).bind fun c => c.parts.find? fun q => q.idx == idx with
      | none => s
      | some plan =>
        let x := tileOf s t
        if !tileUsable s t ∨ x.part.isSome ∨ x.checking ∨ !x.queue.isEmpty then s
        else if w.stopped ∨ w.result.isSome ∨ !partOpen s w plan then s
        else if (p.nSync > 0 ∧ (syncBase s work).isNone) ∨ dispatchHeld s w ∨ !placeOk s w p plan t ∨ tileOwed s w t then s
        else startPart s t w p plan

def execTilePartDispatch (tile : Nat) (work : WorkId) (part : Nat) (s : State) : Host.Outcome State Fault Refusal :=
  whenService s fun s => dispatchPart s tile work part

/-! ### Faults, self-check and the libero (R141 to R144) -/

/-- The lowest-numbered unused spare of a die (R144). -/
def nextLibero (s : State) (die : Nat) : Option Nat :=
  (List.range 48).findSome? fun i =>
    let t := 48 * die + i
    if s.ctl.manifest.spare.contains t && !tileDisabled s t && !tileRetired s t && s.libero.all fun e => e.2 != t
    then some t else none

/-- R144: a tile is retired: its position goes to the next libero, its replayed parts with it, or with no spare left to the other active
tiles of the die; log and journal say so. -/
def retireTile (s : State) (t : Nat) : State :=
  if tileRetired s t then s
  else
    let s := setBlob s 0x1000 0x0D (setBlobBit (getBlob s 0x1000 0x0D) t)
    let spare := nextLibero s (dieOfTile t)
    let owner := ((s.libero.find? fun e => e.2 == t).map (·.1)).getD t
    let s := { s with libero := match spare with
                      | some l => nset (ndel s.libero owner) owner l
                      | none => ndel s.libero owner }
    let s := { s with works := s.works.map fun w =>
      { w with tiles := match spare with
        | some l => w.tiles.map fun b => if b.2 = t then (b.1, l) else b
        | none => w.tiles.map fun b => if b.2 = t then (b.1, 384 + dieOfTile t) else b } }
    let s := putTile s t { idleTile (tileOf s t) with checking := false }
    let s := addJournal s 0x08 1 t 0x06 (spare.getD 0xFFFF)
    logFault s 0x0021 1 1 t 0xFFFF (spare.getD 0xFFFF)

/-- The context a work belongs to in the fault log. -/
def workCtx (w : WorkId) : Nat := match w with
  | .frame k _ => k
  | .job _ _ _ => 0xFFFF

/-- R141, R143, R144: a tile fault: the part is discarded and will replay on this tile; the tile checks itself, or is retired
when its last fault lies within 64 ticks. -/
def faultTile (s : State) (t : Nat) : State :=
  let x := tileOf s t
  let now := counterOf s
  let s := match x.part with
    | some p =>
      let s := logFault s 0x0020 0 1 t (workCtx p.work) p.idx
      (match findWork s p.work with
       | some w => putWork s { w with tiles := (p.idx, t) :: w.tiles.filter fun b => b.1 != p.idx }
       | none => s)
    | none => logFault s 0x0020 0 1 t 0xFFFF 0
  let again := match x.faultAt with
    | some n => decide (now ≤ n + 64)
    | none => false
  let s := putTile s t { idleTile x with faultAt := some now, checking := true }
  if !again then s else if flashHeld s then retireLater s 1 t else retireTile s t

/-- TILE_FAULT (R141). -/
def execTileFault (tile : Nat) (s : State) : Host.Outcome State Fault Refusal :=
  whenService s fun s => if tileUsable s tile ∧ !(tileOf s tile).checking then faultTile s tile else s

/-- R143: a part's next command waits on a sync object, a full queue, SWAP or END's descriptors. -/
def partWaits (s : State) (x : Tile) (p : Part) : Bool :=
  match p.todo with
  | [] => false
  | (op, c) :: _ =>
    !cmdReady s p.work c ||
    (op == opSTREAM && decide ((x.queue.filter fun e => e.queue == c.imm % 4).length ≥ 16)) ||
    (op == opSWAP && x.queue.any touchesHalf) || (op == opEND && !x.queue.isEmpty)

/-- TILE_WATCHDOG (R143): no progress for 65,536 cycles, and not waiting, is a tile fault. -/
def execTileWatchdog (tile : Nat) (s : State) : Host.Outcome State Fault Refusal :=
  whenService s fun s =>
    match (tileOf s tile).part with
    | some p =>
      if tileUsable s tile ∧ !(tileOf s tile).checking ∧ !partWaits s (tileOf s tile) p then faultTile s tile else s
    | none => s

/-- TILE_SELF_CHECK (R144): the self-check after a fault ends. -/
def execTileSelfCheck (tile : Nat) (passed : Bool) (s : State) : Host.Outcome State Fault Refusal :=
  whenService s fun s =>
    if (tileOf s tile).checking ∧ !retirePending s 1 tile then
      (if passed then putTile s tile { tileOf s tile with checking := false }
       else if flashHeld s then retireLater s 1 tile else retireTile s tile)
    else s

/-! ### The weight cache (R142, R162, R163) -/

/-- The device-memory address a cache line was filled from. -/
def lineSource (s : State) (die line : Nat) : Option Nat :=
  (s.windows.find? fun w => w.die == die && decide (w.base ≤ 256 * line) && decide (256 * line < w.base + w.len)).bind fun w =>
    ((pkgOf s w.slot).bind (·.image)).map fun i => i.1 + (256 * line - w.base)

/-- WEIGHT_CACHE_PARITY (R142): the line is refetched from the address it records, and the event logged. -/
def execWeightCacheParity (die line : Nat) (s : State) : Host.Outcome State Fault Refusal :=
  whenService s fun s =>
    match lineSource s die line with
    | none => s
    | some a =>
      let s := { s with cache := nset s.cache die ((ngetD s.cache die []).write (256 * line) (s.mem.read a 256)) }
      logFault s 0x0022 0 0 die 0xFFFF a

/-- WEIGHT_WINDOW_FILL (R163): core 0 of the die fills the window of a package slot with its image. -/
def fillWindow (s : State) (die slot : Nat) : State :=
  match windowOf s die slot, (pkgOf s slot).bind (·.image) with
  | some w, some (a, n) =>
    if w.filled then s
    else
      { s with cache := nset s.cache die ((ngetD s.cache die []).write w.base (s.mem.read a n))
               windows := s.windows.map fun x => if x.die = die ∧ x.slot = slot then { x with filled := true } else x }
  | _, _ => s

def execWeightWindowFill (die slot : Nat) (s : State) : Host.Outcome State Fault Refusal :=
  whenService s fun s => fillWindow s die slot

/-! ### Stopping class 3 parts (R145, R161) -/

/-- CLASS3_STOP (R145): a stopped class 3 part leaves the tile at a command boundary outside a chain, its in-flight descriptors
completed, as an image. -/
def stopPart (s : State) (t : Nat) : State :=
  let x := tileOf s t
  match x.part with
  | none => s
  | some p =>
    let stopped : Bool := match findWork s p.work with
      | some w => w.stopped
      | none => false
    let inChain : Bool := match p.todo with
      | (_, c) :: _ => ctlTK c
      | [] => false
    if p.prio ≠ 3 ∨ !stopped ∨ inChain ∨ x.checking ∨ x.queue.any (·.started) then s
    else
      let image : Image := ⟨p.work, p.idx, x, dieOfTile t⟩
      let s := { s with images := s.images.filter (fun i => !(i.work == p.work && i.idx == p.idx)) ++ [image] }
      putTile s t { faultAt := x.faultAt, checking := x.checking }

def execClass3Stop (tile : Nat) (s : State) : Host.Outcome State Fault Refusal := whenService s fun s => stopPart s tile

end Sys2Proof.Machine
end

