-- ==== Sys2Proof/Machine/Entropy.lean ====
section
/-! DEFINITION. The entropy coder: CDF rows, scale maps, the coding order, rANS, segment records, lanes and their pockets (R198 to
R218, R227). The segment commands run one segment whole on the lane named. -/
namespace Sys2Proof.Machine
open Sys2Proof

/-! ### Rows and maps (R199 to R203) -/

/-- R199: symbols, base residual and cumulative frequency of a row slot. -/
def rowN (r : List Nat) : Nat := r.headD 0 / 256 + 1
def rowBase (r : List Nat) : Int := signedOf 8 (r.headD 0 % 256)
def rowCum (r : List Nat) (k : Nat) : Nat := if k = 0 then 0 else if k = rowN r then 32768 else r.getD k 0

/-- R200: a valid row of 256 entries. -/
def rowValid (r : List Nat) : Bool :=
  let n := rowN r
  decide (2 ≤ n) && (List.range n).all (fun k => decide (rowCum r k < rowCum r (k + 1))) && (r.drop n).all (· == 0)

/-- R201: the bucket of a scale code. -/
def scaleBucket (sig lo shift count : Nat) : Nat :=
  let m := sig % 0x8000
  if m < lo then 0 else Nat.min ((m - lo) / 2 ^ shift) (count - 1)

/-- R202: an F16S code × 2^24. -/
def f16sFixed (c : Nat) : Int :=
  let e := c / 1024 % 32
  let m := if e > 0 then (1024 + c % 1024) * 2 ^ (e - 1) else c % 1024
  if c / 0x8000 % 2 = 1 then -(m : Int) else m

/-- R202: y − μ rounded to nearest, ties to even. -/
def quantise (y mu : Nat) : Int :=
  let d := f16sFixed y - f16sFixed mu
  let t := d / 2 ^ 24
  let r := d % 2 ^ 24
  if r > 0x800000 ∨ (r = 0x800000 ∧ t % 2 = 1) then t + 1 else t

/-- R203. -/
def zigzag (q : Int) : Nat := if q ≥ 0 then (2 * q).toNat else (-2 * q - 1).toNat
def unzigzag (u : Nat) : Int := if u % 2 = 0 then (u / 2 : Nat) else -((u / 2 : Nat) : Int) - 1

/-- R204: insertion of an element by row, after those of the same row. -/
def insertByRow (e : Nat × Nat) : List (Nat × Nat) → List (Nat × Nat)
  | [] => [e]
  | x :: r => if e.1 < x.1 then e :: x :: r else x :: insertByRow e r

/-- R204: the coding order: (row, element) sorted by row, stable. -/
def codingOrder (rows : List Nat) : List (Nat × Nat) :=
  (rows.zip (List.range rows.length)).foldl (fun acc e => insertByRow e acc) []

/-! ### The rANS arithmetic (R206, R207) -/

/-- R206: one encoder step: the new state and the word stack, newest word first. -/
def encStep (x c f : Nat) (ws : List Nat) : Nat × List Nat :=
  let (x, ws) := if x ≥ f * 2 ^ 17 then (x / 65536, x % 65536 :: ws) else (x, ws)
  (x / f * 32768 + x % f + c, ws)

/-- R206: one decoder step; none when no word remains. -/
def decStep (x c f : Nat) (ws : List Nat) : Option (Nat × List Nat) :=
  let y := f * (x / 32768) + x % 32768 - c
  if y ≥ 65536 then some (y, ws)
  else
    match ws with
    | [] => none
    | w :: r => some (y * 65536 + w, r)

/-- The four states and the words. -/
structure RansState where
  xs : List Nat
  ws : List Nat
deriving DecidableEq, Repr

/-- The three or one steps that code residual `q` in row `r` on state `i mod 4`; true when it escapes. -/
def encodeElem (r : List Nat) (q : Int) (i : Nat) (st : RansState) : RansState × Bool :=
  let s := i % 4
  let x := st.xs.getD s 0
  let k := q - rowBase r
  let n := rowN r
  if 0 ≤ k ∧ k ≤ (n : Int) - 2 then
    let j := k.toNat
    let (x, ws) := encStep x (rowCum r j) (rowCum r (j + 1) - rowCum r j) st.ws
    (⟨st.xs.set s x, ws⟩, false)
  else
    let u := zigzag q
    let (x, ws) := encStep x (u / 1024 * 32) 32 st.ws
    let (x, ws) := encStep x (u % 1024 * 32) 32 ws
    let (x, ws) := encStep x (rowCum r (n - 1)) (32768 - rowCum r (n - 1)) ws
    (⟨st.xs.set s x, ws⟩, true)

/-- R207: the states and words of a segment whose elements, in coding order, are (row, q); and its escapes. -/
def encodeElems (es : List (List Nat × Int)) : RansState × Nat :=
  ((List.range es.length).zip es).foldr (fun e acc =>
    let (st, esc) := encodeElem e.2.1 e.2.2 e.1 acc.1
    (st, if esc then acc.2 + 1 else acc.2)) (⟨List.replicate 4 65536, []⟩, 0)

/-- R208: the payload. -/
def payloadOf (version : Nat) (st : RansState) : List Byte :=
  leBytes 2 version ++ leBytes 2 0 ++ st.xs.flatMap (leBytes 4) ++ st.ws.flatMap (leBytes 2)

/-- R206: the symbol of a slot: the k with c_k ≤ slot < c_(k+1). -/
def symbolOf (r : List Nat) (slot : Nat) : Nat :=
  ((List.range (rowN r)).find? fun k => decide (slot < rowCum r (k + 1))).getD (rowN r - 1)

/-- R207: one element decoded: its residual, whether it escaped, whether the escape was needless (EC_ESCAPE_RANGE), and the state; none
when a word lacks (EC_TRUNCATED). -/
def decodeElem (r : List Nat) (i : Nat) (st : RansState) : Option (Int × Bool × Bool × RansState) := do
  let s := i % 4
  let x := st.xs.getD s 0
  let n := rowN r
  let k := symbolOf r (x % 32768)
  let (x, ws) ← decStep x (rowCum r k) (rowCum r (k + 1) - rowCum r k) st.ws
  if k < n - 1 then some (rowBase r + k, false, false, ⟨st.xs.set s x, ws⟩)
  else
    let lo := x % 32768 / 32
    let (x, ws) ← decStep x (32 * lo) 32 ws
    let hi := x % 32768 / 32
    let (x, ws) ← decStep x (32 * hi) 32 ws
    let q := unzigzag (lo + 1024 * hi)
    some (q, true, decide (rowBase r ≤ q ∧ q ≤ rowBase r + (n : Int) - 2), ⟨st.xs.set s x, ws⟩)

/-- What decoding a run of elements has given: residuals, escapes, whether one of them was needless, and the state at the end; none after
a word lacked. -/
structure DecodeRun where
  qs     : List Int := []
  esc    : Nat := 0
  bad    : Bool := false
  finish : Option RansState := none
deriving DecidableEq, Repr

/-- R207, R214: every element of a segment, rows in coding order. A needless escape does not end the run, so that a word lacking further
on is found too, which the table of R214 names first. -/
def decodeElems : List (List Nat) → Nat → RansState → DecodeRun
  | [], _, st => { finish := some st }
  | r :: rest, i, st =>
    match decodeElem r i st with
    | none => {}
    | some (q, esc, bad, st) =>
      let d := decodeElems rest (i + 1) st
      { d with qs := q :: d.qs, esc := if esc then d.esc + 1 else d.esc, bad := bad || d.bad }

/-! ### Table sets in the bank (R219 to R223) -/

/-- The set of an identifier and version in a bank. -/
def findSet (b : Bank) (id version : Nat) : Option TableSet := b.sets.find? fun t => t.id == id && t.version == version

/-- R201, R214: the rows of the map's buckets, or EC_BAD_MAP. -/
def mapRows (t : Option TableSet) (g : SegRec) : Except Nat (List Nat) :=
  match t with
  | none => .error ecBadMap
  | some t =>
    let n := ceilDiv g.mapCount 256
    if g.mapCount = 0 ∨ g.mapCount > 4096 ∨ g.mapShift > 10 ∨ g.mapSlot + n > t.slots.length
      ∨ !((List.range n).all fun i => t.kinds.getD (g.mapSlot + i) false) then .error ecBadMap
    else .ok ((((t.slots.drop g.mapSlot).take n).flatMap id).take g.mapCount)

/-- R214, R217: the distinct pins, or EC_BAD_PIN. -/
def pinRows (t : Option TableSet) (g : SegRec) : Except Nat (List Nat) :=
  let pins := (g.pins.filter (· != 0xFFFF)).eraseDups
  match t with
  | none => if pins = [] then .ok [] else .error ecBadPin
  | some t =>
    if pins.all fun p => decide (p < t.slots.length) && !t.kinds.getD p true then .ok pins else .error ecBadPin

/-! ### Pockets (R216, R217) -/

/-- One row used: moved to the front if resident, else loaded over the least recently used row that is not pinned. -/
def touchRow (keep : List Nat) (acc : List Nat × Nat) (row : Nat) : List Nat × Nat :=
  if acc.1.contains row then (row :: acc.1.filter (· != row), acc.2)
  else
    let room := if acc.1.length < 16 then acc.1
      else match (acc.1.reverse.find? fun r => !keep.contains r) with
        | some v => acc.1.filter (· != v)
        | none => acc.1
    (row :: room, acc.2 + 1)

/-- R216, R217: the pocket after a segment that pins `pins` and uses `used` in ascending order, and its misses: pins are loaded at the
start and kept, so a miss is the first use of an unpinned row that is not resident. -/
def pocketAfter (l : Lane) (pins used : List Nat) : Lane × Nat :=
  let rows := (pins.foldl (touchRow pins) (l.rows, 0)).1
  let (rows, misses) := used.foldl (touchRow pins) (rows, 0)
  ({ l with rows, pins }, misses)

/-! ### Segment records over the regions of their work (R209 to R215) -/

/-- The device-memory address of a 48-bit locator, to read or to write. -/
def segAddr (s : State) (w : Work) (loc : Nat) (write : Bool) : Nat :=
  match regionOf w (loc / 2 ^ 40) with
  | some r => (if write then r.base else readBase s w.id r) + loc % 2 ^ 40
  | none => 0

def segLocNone : Nat := 0xFF0000000000

/-- R290: the record as core 1 runs it for a work of a decoding package: unit ordinal, offset and length in place of loc_pay. -/
def boundSeg (p : Pkg) (w : Work) (g : SegRec) : SegRec :=
  let input := (regionOf w (g.locPay / 2 ^ 40)).map (·.source) == some 2
  if (p.kind = 2 ∨ p.kind = 4) ∧ g.opcode = 2 ∧ input then
    match w.units.find? fun u => u.1 == g.locPay % 2 ^ 40 with
    | some (_, off, len) => { g with locPay := g.locPay / 2 ^ 40 * 2 ^ 40 + off, payCap := len }
    | none => { g with locPay := g.locPay / 2 ^ 40 * 2 ^ 40, payCap := 0 }
  else g

/-- R290: the motion segment of a start picture, which codes nothing and leaves zero vectors. -/
def startMotion (p : Pkg) (w : Work) (g : SegRec) : Bool :=
  (p.kind == 2) && w.startPic && g.opcode == 2 && g.locPay % 2 ^ 40 == 0 &&
  (regionOf w (g.locPay / 2 ^ 40)).map (·.source) == some 2

/-- What a segment computes: status, payload (encode), residuals, length, escapes, version, symbols, rows used and pins; of one that
failed the version once its set was found, and the rows it used before (R216, R217). -/
structure SegOut where
  status  : Nat := ecOk
  payload : List Byte := []
  qs      : List Int := []
  length  : Nat := 0
  escapes : Nat := 0
  version : Option Nat := none
  symbols : Nat := 0
  used    : List Nat := []
  pins    : List Nat := []
deriving DecidableEq, Repr

/-- μ and σ codes of a segment. -/
def segPairs (s : State) (w : Work) (g : SegRec) : List (Nat × Nat) :=
  let a := segAddr s w g.locMs false
  (List.range g.count).map fun j => (s.mem.num (a + 4 * j) 2, s.mem.num (a + 4 * j + 2) 2)

/-- The row of each element. -/
def elemRows (map : List Nat) (g : SegRec) (ms : List (Nat × Nat)) : List Nat :=
  ms.map fun p => map.getD (scaleBucket p.2 g.mapLo g.mapShift g.mapCount) 0

/-- The rows a segment uses, distinct and ascending. -/
def usedRows (order : List (Nat × Nat)) : List Nat := (order.map (·.1)).eraseDups

/-- R214: the row of a segment's elements in coding order and its pins, or the first check on operands, map and pins that fails. -/
def segRows (t : Option TableSet) (g : SegRec) (ms : List (Nat × Nat)) (nan : Bool) : Except Nat (List (Nat × Nat) × List Nat) := do
  if nan then .error ecNanOperand
  let map ← mapRows t g
  let pins ← pinRows t g
  .ok (codingOrder (elemRows map g ms), pins)

/-- R207, R212, R214: an encode under table set `t` of version `v`. -/
def encodeSegment (s : State) (w : Work) (g : SegRec) (t : Option TableSet) (v : Nat) : SegOut :=
  let ms := segPairs s w g
  let y := segAddr s w g.locY false
  let ys := (List.range g.count).map fun j => s.mem.num (y + 2 * j) 2
  let version := t.map fun _ => v
  match segRows t g ms (ms.any (fun p => p.1 == 0x8000 || p.2 == 0x8000) || ys.contains 0x8000) with
  | .error ec => { status := ec, version }
  | .ok (order, pins) =>
    let slots := (t.map (·.slots)).getD []
    let qs := (ys.zip ms).map fun p => quantise p.1 p.2.1
    let (st, esc) := encodeElems (order.map fun e => (slots.getD e.1 [], qs.getD e.2 0))
    let payload := if g.count = 0 then [] else payloadOf v st
    let o : SegOut := { version, used := usedRows order, pins }
    if payload.length > g.payCap then { o with status := ecPayloadOverflow }
    else { o with payload, qs, length := payload.length, escapes := esc, symbols := g.count }

/-- R290: a decode of no symbols. -/
def decodeNothing (n : Nat) : SegOut := { qs := List.replicate n 0 }

/-- R207, R214: a decode of payload `pay` under table set `t`, of the version that the payload names, whose operands are `ms`. -/
def decodePayload (g : SegRec) (t : TableSet) (pay : List Byte) (ms : List (Nat × Nat)) : SegOut :=
  let version := some (numAt pay 0 2)
  match segRows (some t) g ms (ms.any fun p => p.1 == 0x8000 || p.2 == 0x8000) with
  | .error ec => { status := ec, version }
  | .ok (order, pins) =>
    let xs := (List.range 4).map fun i => numAt pay (4 + 4 * i) 4
    let ws := (List.range ((g.payCap - 20) / 2)).map fun i => numAt pay (20 + 2 * i) 2
    if xs.any fun x => decide (x < 65536) then { status := ecInitialState, version, pins }
    else
      let d := decodeElems (order.map fun e => t.slots.getD e.1 []) 0 ⟨xs, ws⟩
      let o : SegOut := { version, pins, used := usedRows order }
      match d.finish with
      | none => { o with status := ecTruncated, used := usedRows (order.take (d.qs.length + 1)) }
      | some st =>
        if d.bad then { o with status := ecEscapeRange }
        else if st.xs.any (· != 65536) then { o with status := ecFinalState }
        else if st.ws ≠ [] then { o with status := ecTrailingData }
        else
          let placed := order.zip d.qs
          { o with qs := (List.range g.count).map fun j => ((placed.find? fun e => e.1.2 == j).map (·.2)).getD 0
                   length := g.payCap, escapes := d.esc, symbols := g.count }

/-- R207, R214: a decode from bank `b` for table identifier `id`: length, header and version are checked first. -/
def decodeSegment (s : State) (w : Work) (g : SegRec) (b : Bank) (id : Nat) : SegOut :=
  let pay := s.mem.read (segAddr s w g.locPay false) g.payCap
  if g.payCap % 2 = 1 ∨ (g.count > 0 ∧ g.payCap < 20) ∨ (g.count = 0 ∧ g.payCap ≠ 0) then { status := ecBadLength }
  else if g.count = 0 then decodeNothing 0
  else if numAt pay 2 2 ≠ 0 then { status := ecBadHeader }
  else match findSet b id (numAt pay 0 2) with
    | none => { status := ecTableVersion }
    | some t => decodePayload g t pay (segPairs s w g)

/-- The FP32 code of a residual. -/
def qCode (q : Int) : Nat := (roundExact 2 0 0 q 1 0).1

/-- R211: the result record. -/
def resultRecord (symbols status version escapes length : Nat) : List Byte :=
  leBytes 4 symbols ++ leBytes 2 status ++ leBytes 2 version ++ leBytes 4 escapes ++ leBytes 4 length

/-- R239 (2): the digest of a segment of band `b`. -/
def segCard (encode : Bool) (b : Nat) (payload : List Byte) (qs : List Nat) : Nat :=
  if encode then cardOfBytes 0xFFFFFF00 (b * 2 ^ 24) (2 ^ 24) payload
  else cardOf 0xFFFFFF01 (((List.range qs.length).zip qs).map fun e => (2, b * 2 ^ 24 + e.1, e.2))

/-- R239: the b of segment `seg` of a package of a kind, in record order as R276 orders the units. An OLV or OLA package's latent segment
of band b has b itself. R239 names no b for a motion or hyper segment: theirs is free (log 66); a package without bands counts its segments. -/
def segBand (kind seg : Nat) : Nat :=
  let lead := if kind = 1 ∨ kind = 2 then 2 else if kind = 3 ∨ kind = 4 then 1 else 0
  if seg < lead then Config.leadBand (2 - lead + seg) % 2 ^ 24 else seg - lead

/-- A segment's place among the positions of `deliver`. -/
def segPart (seg : Nat) : Nat := 2 ^ 20 + seg

/-- The bank a work's segments are bound to (R223). -/
def bankOf (s : State) (w : Work) : Bank := s.cdf.banks.getD w.bank {}

/-- The version field of a result record: free where no version was used (log 11). -/
def versionField (o : SegOut) : Nat := o.version.getD (Config.noVersion % 2 ^ 16)

/-- R211, R212: the outputs of a segment that commits: q values, payload, result record. -/
def writeSegment (s : State) (w : Work) (g : SegRec) (encode : Bool) (o : SegOut) : State :=
  let m := s.mem
  let m := if g.locQ = segLocNone then m else m.write (segAddr s w g.locQ true) ((o.qs.map qCode).flatMap (leBytes 4))
  let m := if encode then m.write (segAddr s w g.locPay true) (padTo g.payCap o.payload) else m
  { s with mem := m.write (segAddr s w g.locRes true) (resultRecord o.symbols o.status (versionField o) o.escapes o.length) }

/-- R216 to R218: what a segment leaves on its lane: the pocket, its misses counted, and what it was of. -/
def usePocket (s : State) (w : Work) (g : SegRec) (lane base : Nat) (o : SegOut) : State :=
  let row (r : Nat) : Nat := w.bank * 8192 + base + r
  let (l, misses) := pocketAfter (laneOf s lane) (o.pins.map row) (o.used.map row)
  addReg (putLane s lane { l with last := some (w.slot, g.pins) }) 0x5200 0x10 misses

/-- R211: what a failed segment's free result fields depend on: its status, its record and its inputs (R229). -/
def failKey (s : State) (w : Work) (g : SegRec) (o : SegOut) : List Nat :=
  [o.status, g.opcode, g.count, g.payCap, g.mapShift, g.mapLo, g.mapCount, g.mapSlot, o.version.getD 65536,
   leNat (s.mem.read (segAddr s w g.locPay false) g.payCap), leNat (s.mem.read (segAddr s w g.locMs false) (4 * g.count)),
   leNat (s.mem.read (segAddr s w g.locY false) (2 * g.count))]

/-- R215: a segment that failed: concealed with CZ on a decode, else uncommitted. The version is the one used, where a set was found;
the other fields of its result record are free (log 11). -/
def failSegment (s : State) (w : Work) (p : Pkg) (g : SegRec) (seg lane : Nat) (f : SegOut) : State :=
  let conceal := g.opcode == 2 && g.ctl.testBit 5
  let key := failKey s w g f
  let o : SegOut := { status := f.status, qs := List.replicate g.count 0
                      length := Config.failedSegment key 0 % 2 ^ 32, escapes := Config.failedSegment key 1 % 2 ^ 32
                      version := some (f.version.getD (Config.failedSegment key 2 % 2 ^ 16))
                      symbols := Config.failedSegment key 3 % 2 ^ 32 }
  let s := addReg s 0x5200 0x0E 1
  if conceal then
    let s := addReg s 0x5200 0x0F 1
    let s := writeSegment s w g false o
    let s := if g.ctl.testBit 6 then deliver s w.id (segPart seg) 0 g.sigObj else s
    (match findWork s w.id with
     | some w =>
       putWork s { w with segs := w.segs ++ [⟨seg, f.status, segCard false (segBand p.kind seg) [] (o.qs.map qCode), o.length, true, lane⟩] }
     | none => s)
  else
    let record := resultRecord o.symbols o.status (versionField o) o.escapes o.length
    let s := { s with mem := s.mem.write (segAddr s w g.locRes true) record }
    let s := logFault s 0x0032 0 2 lane (workCtx w.id) f.status
    (match findWork s w.id with
     | some w => putWork s { w with segs := w.segs ++ [⟨seg, f.status, 0, 0, false, lane⟩] }
     | none => s)

/-- R211, R213: a segment that ends with EC_OK commits and signals. -/
def commitSegment (s : State) (w : Work) (p : Pkg) (g : SegRec) (seg lane : Nat) (encode : Bool) (o : SegOut) : State :=
  let s := writeSegment s w g encode o
  let s := if g.ctl.testBit 6 then deliver s w.id (segPart seg) 0 g.sigObj else s
  match findWork s w.id with
  | some w =>
    putWork s { w with segs := w.segs ++ [⟨seg, ecOk, segCard encode (segBand p.kind seg) o.payload (o.qs.map qCode), o.length, false, lane⟩] }
  | none => s

/-- A segment's end on its lane: the pocket, then what it leaves. -/
def endSegment (s : State) (w : Work) (p : Pkg) (g : SegRec) (seg lane : Nat) (encode : Bool) (base : Nat) (o : SegOut) : State :=
  let s := usePocket s w g lane base o
  if o.status = ecOk then commitSegment s w p g seg lane encode o else failSegment s w p g seg lane o

/-! ### Which segment a lane takes (R54, R218, R227) -/

/-- A lane that takes segments: not retired, not checking itself, its die in service. -/
def laneActive (s : State) (lane : Nat) : Bool :=
  decide (lane < 128) && !laneRetired s lane && !retirePending s 2 lane && !(laneOf s lane).checking && s.ctl.recovering != some (lane / 16)

/-- R227: the lane that a segment restarts on after a lane fault, while it is active. -/
def restartLane (s : State) (w : Work) (seg : Nat) : Option Nat :=
  ((w.segLanes.find? fun e => e.1 == seg).map (·.2)).filter (laneActive s)

/-- A segment of a work that could start now on a lane: its package and record. -/
def segWaiting (s : State) (lane : Nat) (w : Work) (seg : Nat) : Option (Pkg × SegRec) :=
  match pkgOf s w.slot with
  | none => none
  | some p =>
    match (classOf p w.cls).bind fun c => c.segs[seg]? with
    | none => none
    | some g =>
      if lane / 16 ≠ w.die ∨ !laneActive s lane ∨ !((restartLane s w seg).all (· == lane)) then none
      else if w.stopped ∨ w.result.isSome ∨ w.segs.any (fun r => r.idx == seg) ∨ dispatchHeld s w then none
      else if p.nSync > 0 ∧ (syncBase s w.id).isNone then none
      else if g.ctl.testBit 7 ∧ !waitDone s w.id g.waitObj g.waitCount then none
      else some (p, boundSeg p w g)

/-- Every segment that a lane could take now: its work, its number, package and record; works in the order of their issue. -/
def laneChoices (s : State) (lane : Nat) : List (Work × Nat × Pkg × SegRec) :=
  s.works.flatMap fun w =>
    (List.range ((((pkgOf s w.slot).bind fun p => classOf p w.cls).map (·.segs.length)).getD 0)).filterMap fun i =>
      (segWaiting s lane w i).map fun e => (w, i, e.1, e.2)

/-- The choices that satisfy `f`, or all where none does. -/
def preferred (f : Work × Nat × Pkg × SegRec → Bool) (l : List (Work × Nat × Pkg × SegRec)) : List (Work × Nat × Pkg × SegRec) :=
  if l.any f then l.filter f else l

/-- The lowest-numbered segment, among equals of the work issued first. -/
def lowestSeg : List (Work × Nat × Pkg × SegRec) → Option (Work × Nat × Pkg × SegRec)
  | [] => none
  | c :: r => some (r.foldl (fun a b => if b.2.1 < a.2.1 then b else a) c)

/-- R54, R218, R227: the segment that a lane takes next: one that restarts there, else carried work first, then one of the package and
pins that the lane coded last, then the lowest number. -/
def laneNext (s : State) (lane : Nat) : Option (Work × Nat × Pkg × SegRec) :=
  let all := laneChoices s lane
  let all := preferred (fun c => (restartLane s c.1 c.2.1).isSome) all
  let all := preferred (fun c => c.1.lag != 0) all
  lowestSeg (preferred (fun c => (laneOf s lane).last == some (c.1.slot, c.2.2.2.pins)) all)

/-- R218: lane `lane` takes segment `seg` of the work now: its work, package and record. -/
def segReady (s : State) (lane : Nat) (work : WorkId) (seg op : Nat) : Option (Work × Pkg × SegRec) :=
  match laneNext s lane with
  | some (w, i, p, g) => if w.id = work ∧ i = seg ∧ g.opcode = op then some (w, p, g) else none
  | none => none

/-- R221: the version an encoding stream codes under: that of its package's table set. -/
def packageVersion (p : Pkg) : Nat := ((p.tables.head?).map (·.version)).getD p.version

/-- The base in its bank of the set that a segment used (R220). -/
def setBase (s : State) (w : Work) (p : Pkg) (o : SegOut) : Nat :=
  ((o.version.bind (findSet (bankOf s w) p.tableId)).map (·.base)).getD 0

/-- SEGMENT_ENCODE (R207). -/
def encodeStep (s : State) (lane : Nat) (work : WorkId) (seg : Nat) : State :=
  match segReady s lane work seg 1 with
  | none => s
  | some (w, p, g) =>
    let s := putWork s { w with started := true }
    let o := encodeSegment s w g (findSet (bankOf s w) p.tableId (packageVersion p)) (packageVersion p)
    endSegment s w p g seg lane true (setBase s w p o) o

def execSegmentEncode (lane : Nat) (work : WorkId) (seg : Nat) (s : State) : Host.Outcome State Fault Refusal :=
  whenService s fun s => encodeStep s lane work seg

/-- R207, R215: a lane decodes a segment. -/
def decodeStep (s : State) (lane : Nat) (work : WorkId) (seg : Nat) : State :=
  match segReady s lane work seg 2 with
  | none => s
  | some (w, p, g) =>
    let s := putWork s { w with started := true }
    let o := if startMotion p w g then decodeNothing g.count else decodeSegment s w g (bankOf s w) p.tableId
    endSegment s w p g seg lane false (setBase s w p o) o

/-! ### Lane faults (R227) -/

/-- R227: a lane is retired; with no cluster to write flash, once one is in charge (R30). -/
def retireLane (s : State) (lane : Nat) : State :=
  if laneRetired s lane then s
  else if flashHeld s then retireLater s 2 lane
  else
    let sub := if lane < 64 then 0x11 else 0x12
    let s := setReg s 0x5200 sub (setBitAt (getReg s 0x5200 sub) (lane % 64))
    let s := putLane s lane {}
    logFault (addJournal s 0x09 2 lane 0x06 0) 0x0031 1 2 lane 0xFFFF 0

/-- R227: the segment that ran on a lane restarts on the lowest-numbered other active lane of the die. -/
def restartSegment (s : State) (lane : Nat) : Option (Work × Nat × Pkg × SegRec) → State
  | none => s
  | some (w, seg, _, _) =>
    match ((List.range 16).map (16 * (lane / 16) + ·)).find? fun l => l != lane && laneActive s l with
    | some l => putWork s { w with segLanes := (seg, l) :: w.segLanes.filter fun e => e.1 != seg }
    | none => s

/-- R227: a lane fault: logged, the segment on the lane restarts elsewhere, the lane checks itself, or is retired when its last fault lies
within 64 ticks. -/
def faultLane (s : State) (lane : Nat) : State :=
  let l := laneOf s lane
  let again := match l.faultAt with
    | some n => decide (counterOf s ≤ n + 64)
    | none => false
  let s := restartSegment s lane (laneNext s lane)
  let s := logFault s 0x0030 0 2 lane 0xFFFF 0
  let s := putLane s lane { l with faultAt := some (counterOf s), checking := true }
  if again then retireLane s lane else s

/-- A lane of the part that can fault now. -/
def laneLive (s : State) (lane : Nat) : Bool := decide (lane < 128) && !laneRetired s lane && !(laneOf s lane).checking

/-- LANE_FAULT (R227). -/
def execLaneFault (lane : Nat) (s : State) : Host.Outcome State Fault Refusal :=
  whenService s fun s => if laneLive s lane then faultLane s lane else s

/-- LANE_WATCHDOG (R227): no progress for 65,536 cycles is a lane fault, other than while waiting: on a lane that has a segment to run. -/
def execLaneWatchdog (lane : Nat) (s : State) : Host.Outcome State Fault Refusal :=
  whenService s fun s => if laneLive s lane ∧ (laneNext s lane).isSome then faultLane s lane else s

/-- LANE_SELF_CHECK (R227). -/
def execLaneSelfCheck (lane : Nat) (passed : Bool) (s : State) : Host.Outcome State Fault Refusal :=
  whenService s fun s =>
    if (laneOf s lane).checking then
      (if passed then putLane s lane { laneOf s lane with checking := false } else retireLane s lane)
    else s

end Sys2Proof.Machine
end

