-- ==== Sys2Proof/Machine/Tables.lean ====
section
/-! DEFINITION. Signed files, table sets and the CDF banks, and the function slots (R190 to R195, R219 to R225, R258, R259). -/
namespace Sys2Proof.Machine
open Sys2Proof

/-! ### Signature blocks (R258, R259) -/

/-- R258: the bytes of a signature block. -/
def sigBlockLen : Nat := 17088

/-- R259: is an RSA modulus and an SLH-DSA key pair one trusted signer of the class. -/
def trustedKeys (s : State) (cls : Nat) (modulus slh : List Byte) : Bool :=
  if cls = 1 then Config.romKey false (sha384 modulus) && Config.romKey true (sha384 slh)
  else getReg s 0x1300 0x04 != 0 && beNat modulus == s.ctl.custRsa && slh == getBlob s 0x1300 0x06

/-- R258, R259: the status of a signature block over `content`, none when it is accepted. -/
def checkSignature (s : State) (content block : List Byte) : Option Nat :=
  let cls := numAt block 4 1
  let digest := sha384 content
  if numAt block 0 4 ≠ 0x53474E42 ∨ (cls ≠ 1 ∧ cls ≠ 2) ∨ numAt block 8 4 ≠ 65537 then some stBadSignature
  else if numAt block 5 3 ≠ 0 ∨ numAt block 12 4 ≠ 0 ∨ numAt block 17056 32 ≠ 0 then some stBadDescriptor
  else if !trustedKeys s cls (sliceAt block 16 384) (sliceAt block 784 48) then some stUntrustedKey
  else if !(rsaPssVerify (sliceAt block 16 384) 65537 digest (sliceAt block 400 384)
    && slhVerify (sliceAt block 784 48) digest (sliceAt block 832 16224)) then some stBadSignature
  else none

/-! ### Table-set files (R224, R225) -/

/-- R224: the set a file or section holds, or the status that refuses it (R225). -/
def parseTableSet (bs : List Byte) : Except Nat TableSet :=
  let n := numAt bs 52 2
  if bs.length < 1088 then .error stBadTable
  else if numAt bs 60 4 ≠ 0x43444654 ∨ n = 0 ∨ n > 8192 then .error stBadTable
  else if bs.length < 1088 + 512 * n ∨ leNat (bs.take 52) ≠ 0 then .error stBadTable
  else
    let bit (i : Nat) : Bool := (bs.getD (64 + i / 8) 0).toNat.testBit (i % 8)
    let kinds := (List.range n).map bit
    let slots := (List.range n).map fun i => (List.range 256).map fun e => numAt bs (1088 + 512 * i + 2 * e) 2
    if (List.range (8192 - n)).any fun i => bit (n + i) then .error stBadTable
    else if !((slots.zip kinds).all fun p =>
      if p.2 then p.1.all fun e => decide (e < n) && !kinds.getD e true else rowValid p.1) then .error stBadCdf
    else .ok { id := numAt bs 56 4, version := numAt bs 54 2, kinds, slots }

/-! ### Changes of the banks (R219 to R223) -/

/-- R220: the sets laid one after another from slot 0. -/
def placeSets : Nat → List TableSet → List TableSet
  | _, [] => []
  | b, t :: r => { t with base := b } :: placeSets (b + t.slots.length) r

/-- The set list of a change over a bank's sets. -/
def changedSets (old : List TableSet) (c : CdfChange) : List TableSet :=
  (old.filter fun t => !c.remove.contains (t.id, t.version)) ++
  c.add.filter fun a => !old.any fun t => t.id == a.id && t.version == a.version && !c.remove.contains (t.id, t.version)

/-- R219, R220: the status that refuses a change. -/
def changeRefused (old : List TableSet) (c : CdfChange) : Option Nat :=
  if c.add.any fun a => old.any fun t => t.id == a.id && t.version == a.version && !(t.kinds == a.kinds && t.slots == a.slots) then
    some stTableConflict
  else if ((changedSets old c).map (·.slots.length)).foldl (· + ·) 0 > 8192 then some stNoTableSpace
  else none

/-- The sets of the active bank. -/
def activeSets (s : State) : List TableSet := (s.cdf.banks.getD s.cdf.active {}).sets

/-- The bank not in use. -/
def idleBank (s : State) : Nat := 1 - s.cdf.active

/-- R222 steps 1 and 2: the new content is composed and written into the inactive bank of every die; pockets lose its rows. -/
def composeChange (s : State) (c : CdfChange) : State :=
  let b := idleBank s
  let bank : Bank := ⟨wrap32 ((s.cdf.banks.getD s.cdf.active {}).gen + 1), placeSets 0 (changedSets (activeSets s) c)⟩
  { s with
    cdf := { s.cdf with banks := s.cdf.banks.set b bank, pending := some c }
    lanes := s.lanes.map fun e => (e.1, { e.2 with rows := e.2.rows.filter fun r => r / 8192 != b }) }

/-- R222: may the inactive bank be written now. -/
def bankFree (s : State) : Bool := s.cdf.pending.isNone && !s.cdf.held.contains (idleBank s)

/-- R222: the next waiting change of a package is composed once the bank is free; it swaps at the next boundary. -/
def nextChange (s : State) : State :=
  match s.cdf.waiting with
  | c :: r => if bankFree s then composeChange { s with cdf := { s.cdf with waiting := r } } { c with asked := counterOf s } else s
  | [] => s

/-- The change that a package load or unload makes, or a #5200 command (none), asked for now. -/
def tableChange (s : State) (owner : Option Nat) (add : List TableSet) (remove : List (Nat × Nat)) : CdfChange :=
  { asked := counterOf s, owner, add, remove }

/-- A change that a package load or unload makes: it waits for the bank, in order of acceptance. -/
def packageChange (s : State) (c : CdfChange) : State :=
  nextChange { s with cdf := { s.cdf with waiting := s.cdf.waiting ++ [c] } }

/-- The status of a #5200 command: of the last one, whose change it tells of while it pends. -/
def cdfStatus (s : State) (st : Nat) : State :=
  setReg { s with cdf := { s.cdf with shown := decide (st = stPending) } } 0x5200 0x0D st

/-- R21, R193, R222: a change that every die has to take, where the command does not carry the dies' answer: it is left open (log 13). -/
def diesCommand (s : State) (f : State → Bool → State) : State :=
  let (n, s) := fresh s
  f s (Config.diesAnswer n)

/-- R21: the status of a change that a die could not take: it names a failure (log 13). -/
def dieFailed (s : State) : Nat := 1 + Config.dieFailure s.free % 65535

/-- R222: does a #5200 command find its target bank in use. -/
def targetBusy (s : State) : Bool :=
  getReg s 0x5200 0x07 == s.cdf.active || !bankFree s

/-- A file in device memory that is named by an address and a length. -/
def fileAt (s : State) (addr len : Nat) : List Byte := s.mem.read addr len

/-- R224, R225, R259: the table set of a standalone file. -/
def checkTableFile (s : State) (bs : List Byte) : Except Nat TableSet := do
  let t ← parseTableSet bs
  let n := alignUp 64 (1088 + 512 * t.slots.length)
  if bs.length < n + sigBlockLen then .error stBadTable
  match checkSignature s (bs.take n) (sliceAt bs n sigBlockLen) with
  | some st => .error st
  | none => .ok t

/-- TABLE_SET_ADD (R222): command 0x01 of #5200.0C. -/
def addTableSet (s : State) (diesOk : Bool) : State :=
  let addr := getReg s 0x5200 0x08
  if parked s then cdfStatus s stBadState
  else if targetBusy s then cdfStatus s stBankInUse
  else if getReg s 0x5200 0x09 = 0 then cdfStatus s stBadTable
  else if badRange s addr (getReg s 0x5200 0x09) then cdfStatus s stBadAddress
  else
    match checkTableFile s (fileAt s addr (getReg s 0x5200 0x09)) with
    | .error st => cdfStatus s st
    | .ok t =>
      let c := tableChange s none [t] []
      match changeRefused (activeSets s) c with
      | some st => cdfStatus s st
      | none => if diesOk then cdfStatus (composeChange s c) stPending else cdfStatus s (dieFailed s)

def execTableSetAdd (diesOk : Bool) (s : State) : Host.Outcome State Fault Refusal :=
  whenControlled s fun s => addTableSet s diesOk

/-- TABLE_SET_REMOVE (R222): command 0x02 of #5200.0C. -/
def removeTableSet (s : State) (diesOk : Bool) : State :=
  let key := (getReg s 0x5200 0x0A, getReg s 0x5200 0x0B)
  if parked s then cdfStatus s stBadState
  else if targetBusy s then cdfStatus s stBankInUse
  else if !(activeSets s).any (fun t => (t.id, t.version) == key) then cdfStatus s stBadDescriptor
  else if diesOk then cdfStatus (composeChange s (tableChange s none [] [key])) stPending
  else cdfStatus s (dieFailed s)

def execTableSetRemove (diesOk : Bool) (s : State) : Host.Outcome State Fault Refusal :=
  whenControlled s fun s => removeTableSet s diesOk

/-- R223: is a segment of some issued work still bound to a bank. -/
def bankBound (s : State) (b : Nat) : Bool :=
  s.works.any fun w => w.bank == b && w.result.isNone &&
    match (pkgOf s w.slot).bind fun p => classOf p w.cls with
    | some c => decide (w.segs.length < c.segs.length)
    | none => false

/-- The state of a package slot, its status, and the package controller's head of queue. -/
def slotState (s : State) (k : Nat) : Nat := getReg s (slotIndex k) 0x01
def setSlotState (s : State) (k v : Nat) : State := setReg s (slotIndex k) 0x01 v
def setSlotStatus (s : State) (k st : Nat) : State := setReg s (slotIndex k) 0x05 st

/-- R266 step 6, R267: a package whose table change has been applied: a load is complete, an unload goes at the next tick. -/
def packageTablesDone (s : State) (k : Nat) : State :=
  if slotState s k = 4 then
    { s with pkgs := s.pkgs.map fun e => if e.1 = k then (e.1, { e.2 with leaving := true }) else e }
  else
    { setSlotStatus (setSlotState s k 3) k stOk with queue := s.queue.drop 1 }

/-- R222 step 3, R223: the banks swap; the old one is held while a segment is bound to it. -/
def swapBanks (s : State) : State :=
  match s.cdf.pending with
  | none => s
  | some c =>
    let old := s.cdf.active
    let held := if bankBound s old then [old] else []
    let s := { s with cdf := { s.cdf with active := 1 - old, held, pending := none } }
    let s := match c.owner with
      | none => if s.cdf.shown then cdfStatus s stOk else s
      | some k => packageTablesDone s k
    nextChange s

/-- Is now a tick boundary, and is it later than the round in which something was asked for (log 67). -/
def atBoundary (s : State) : Bool := s.clk.now % period s == 0
def boundaryAfter (s : State) (asked : Nat) : Bool := atBoundary s && decide (asked < counterOf s)

/-- R222: has the first boundary after the write of the pending change come. -/
def swapDue (s : State) : Bool := (s.cdf.pending.map fun c => boundaryAfter s c.asked).getD false

/-- R223: a held bank is free at the first boundary after the last segment bound to it has committed. -/
def freeBank (s : State) (b : Nat) : State :=
  if atBoundary s ∧ s.cdf.held.contains b ∧ !bankBound s b then
    nextChange { s with cdf := { s.cdf with held := s.cdf.held.filter (· != b) } }
  else s

/-- CDF_BANK_FREE (R223). -/
def execCdfBankFree (bank : Nat) (s : State) : Host.Outcome State Fault Refusal :=
  whenControlled s fun s => freeBank s bank

/-! ### Function tables (R190 to R195) -/

/-- R190, R191: the table a file or section holds, or ST_BAD_TABLE (R192). -/
def parseFnTable (bs : List Byte) : Except Nat FnTable :=
  let h := leNat (bs.take 64)
  let edition := bitsOf h 479 472
  let geometry := bitsOf h 471 464
  let reduction := bitsOf h 463 456
  let symmetry := bitsOf h 455 448
  let p2 := signedOf 8 (bitsOf h 439 432)
  let count := bitsOf h 143 128
  let groups := if geometry = 0 then 1 else if geometry = 1 then 2 else 32
  let want := (if edition = 1 then 2048 else 512) + groups
  let direct := reduction == 0
  let codes := edition ≤ 1 ∧ geometry ≤ 2 ∧ reduction ≤ 3 ∧ symmetry ≤ 2 ∧ (direct ∨ symmetry = 0)
    ∧ bitsOf h 431 424 ≤ 3 ∧ bitsOf h 423 416 ≤ 3 ∧ bitsOf h 415 408 ≤ 1
    ∧ (direct ∨ (bitsOf h 447 440 = 0 ∧ bitsOf h 431 424 = 0 ∧ bitsOf h 423 416 = 0))
    ∧ (if reduction = 3 then p2 = -2 ∨ p2 = 1 ∨ p2 = -1 else bitsOf h 439 432 = 0)
  let fits := (reduction = 0 ∧ geometry = 2) ∨ ((reduction = 1 ∨ reduction = 2) ∧ geometry = 0)
    ∨ (reduction = 3 ∧ p2 = -2 ∧ geometry = 0) ∨ (reduction = 3 ∧ (p2 = 1 ∨ p2 = -1) ∧ geometry = 1)
  let kinds := (List.range 32).map fun g => numAt bs (96 + g) 1
  let scales := (List.range 32).map fun g => numAt bs (64 + g) 1
  let rest := decide ((kinds.drop groups).all (· == 0) ∧ (scales.drop groups).all (· == 0) ∧ kinds.all fun k => decide (k ≤ 3))
  if bs.length < 128 ∨ bitsOf h 511 480 ≠ 0x53464E54 ∨ ¬ codes ∨ ¬ fits ∨ count ≠ want ∨ h % 2 ^ 128 ≠ 0
    ∨ !rest ∨ bs.length < 128 + 4 * count then .error stBadTable
  else
    .ok { edition, geometry, reduction, symmetry, h := signedOf 8 (bitsOf h 447 440), p2
          tailNeg := bitsOf h 431 424, tailPos := bitsOf h 423 416, smallX0 := bitsOf h 415 408
          smallE := signedOf 8 (bitsOf h 407 400), kMul := bitsOf h 399 336
          c0 := signedOf 32 (bitsOf h 335 304), c1 := signedOf 32 (bitsOf h 303 272)
          c2 := signedOf 32 (bitsOf h 271 240), c3 := signedOf 32 (bitsOf h 239 208)
          limNeg := bitsOf h 207 176, limPos := bitsOf h 175 144
          scales := scales.map (signedOf 8), kinds
          nodes := (List.range count).map fun i => signedOf 32 (numAt bs (128 + 4 * i) 4)
          digest := sha384 (bs.take (128 + 4 * count)) }

/-- The slot, empty where nothing is listed. -/
def fnSlot (s : State) (k : Nat) : FnSlot := ngetD s.fns k {}
def putFnSlot (s : State) (k : Nat) (f : FnSlot) : State := { s with fns := nset s.fns k f }

/-- The status of a #5100 command: of the last one, so the switch of an earlier one is shown no more. -/
def fnStatus (s : State) (st : Nat) : State :=
  setReg { s with fns := s.fns.map fun e => (e.1, { e.2 with shown := false }) } 0x5100 0x25 st

/-- A load or unload by command waits for its switch. -/
def fnPending (s : State) (k : Nat) (next : Option FnTable) : State :=
  let s := fnStatus s stPending
  putFnSlot s k { fnSlot s k with next := some next, asked := counterOf s, byCmd := true, shown := true }

/-- R193: is a switch pending or the old bank held. -/
def fnBusy (f : FnSlot) : Bool := f.next.isSome || f.oldHeld

/-- FUNCTION_SLOT_LOAD (R193, R194): command 0x01 of #5100.24. -/
def loadFunction (s : State) (diesOk : Bool) : State :=
  let k := getReg s 0x5100 0x21
  let addr := getReg s 0x5100 0x22
  let bs := fileAt s addr (getReg s 0x5100 0x23)
  let f := fnSlot s k
  if parked s then fnStatus s stBadState
  else if !f.binders.isEmpty then fnStatus s stSlotInUse
  else if fnBusy f then fnStatus s stSlotBusy
  else if getReg s 0x5100 0x23 = 0 then fnStatus s stBadTable
  else if badRange s addr (getReg s 0x5100 0x23) then fnStatus s stBadAddress
  else
    match parseFnTable bs with
    | .error st => fnStatus s st
    | .ok t =>
      let n := alignUp 64 (128 + 4 * t.nodes.length)
      if bs.length < n + sigBlockLen then fnStatus s stBadTable
      else
        match checkSignature s (bs.take n) (sliceAt bs n sigBlockLen) with
        | some st => fnStatus s st
        | none =>
          if diesOk then fnPending s k (some t) else fnStatus s (dieFailed s)

def execFunctionSlotLoad (diesOk : Bool) (s : State) : Host.Outcome State Fault Refusal :=
  whenControlled s fun s => loadFunction s diesOk

/-- FUNCTION_SLOT_UNLOAD (R193, R194): command 0x02 of #5100.24. -/
def unloadFunction (s : State) : State :=
  let k := getReg s 0x5100 0x21
  let f := fnSlot s k
  if parked s then fnStatus s stBadState
  else if !f.binders.isEmpty then fnStatus s stSlotInUse
  else if fnBusy f then fnStatus s stSlotBusy
  else fnPending s k none

def execFunctionSlotUnload (s : State) : Host.Outcome State Fault Refusal := whenControlled s unloadFunction

/-- R193: the slot switches banks and increments its version; parts issued before keep the old bank. -/
def switchFunction (s : State) (k : Nat) : State :=
  let f := fnSlot s k
  match f.next with
  | none => s
  | some t =>
    let busy := s.works.any fun w => w.slot < 4096
    let f' : FnSlot :=
      { cur := t, old := if busy then f.cur else none, oldHeld := busy
        version := if t.isSome then (f.version + 1) % 256 else f.version, binders := f.binders }
    let s := putFnSlot s k f'
    let s := { s with works := s.works.map fun w => { w with oldSlots := k :: w.oldSlots.filter (· != k) } }
    if f.shown then fnStatus s stOk else s

/-- R193: has the first boundary after a slot's load come. -/
def fnDue (s : State) (k : Nat) : Bool := (fnSlot s k).next.isSome && boundaryAfter s (fnSlot s k).asked

/-- FUNCTION_SLOT_SWITCH (R193). -/
def execFunctionSlotSwitch (slot : Nat) (s : State) : Host.Outcome State Fault Refusal :=
  whenControlled s fun s => if slot < 32 ∧ fnDue s slot then switchFunction s slot else s

/-- FUNCTION_BANK_RELEASE (R193): the old bank goes once every part issued before the switch has committed. -/
def releaseFunction (s : State) (k : Nat) : State :=
  let f := fnSlot s k
  if f.oldHeld ∧ s.works.all (fun w => !w.oldSlots.contains k) then putFnSlot s k { f with old := none, oldHeld := false } else s

def execFunctionBankRelease (slot : Nat) (s : State) : Host.Outcome State Fault Refusal :=
  whenControlled s fun s => releaseFunction s slot

/-- R195: the value of slot state #5100.(0x01 + k). -/
def fnSlotWord (s : State) (k : Nat) : Nat :=
  let f := fnSlot s k
  f.binders.eraseDups.length * 65536 + f.version * 256 + (if f.oldHeld then 4 else 0) + (if f.next.isSome then 2 else 0)
    + (if f.cur.isSome then 1 else 0)

end Sys2Proof.Machine
end

