-- ==== Sys2Proof/Machine/Packages.lean ====
section
/-! DEFINITION. Packages: the file, its checks at load, the package controller's queue of loads, unloads and key requests, and
weight windows (R10, R139, R146, R163, R210, R234, R255 to R267, R293, R410, R483, R484). -/
namespace Sys2Proof.Machine
open Sys2Proof

/-! ### The directory (R255 to R257) -/

/-- R256: one directory entry. -/
structure Section where
  kind  : Nat
  inst  : Nat
  cls   : Nat
  flags : Nat
  off   : Nat
  len   : Nat
  rsvd  : Nat
deriving DecidableEq, Repr

def parseSection (bs : List Byte) : Section :=
  { kind := numAt bs 0 2, inst := numAt bs 2 2, cls := numAt bs 4 1, flags := numAt bs 5 1, off := numAt bs 8 8
    len := numAt bs 16 8, rsvd := numAt bs 6 2 + numAt bs 24 8 }

/-- The bytes of a section. -/
def sectionBytes (bs : List Byte) (x : Section) : List Byte := sliceAt bs x.off x.len

/-- The section of a kind, an instance number and a class, else the one for every class (R264). -/
def findSection (ss : List Section) (kind inst cls : Nat) : Option Section :=
  match ss.find? fun x => x.kind == kind && x.inst == inst && x.cls == cls with
  | some x => some x
  | none => ss.find? fun x => x.kind == kind && x.inst == inst && x.cls == 0xFF

/-- R260: the classes. -/
def classKnown (c : Nat) : Bool := decide (c ≤ 5) || c == 0x10

/-- R255: does the header stand. -/
def headerOk (bs : List Byte) : Bool :=
  decide (17664 ≤ bs.length) && decide (bs.length ≤ 2 ^ 34)
  && numAt bs 0 4 == 0x504B4731 && numAt bs 4 2 == 1 && decide (1 ≤ numAt bs 6 1) && decide (numAt bs 6 1 ≤ 6)
  && decide (numAt bs 7 1 ≤ 2) && decide (5 ≤ numAt bs 14 2) && decide (numAt bs 14 2 ≤ 1024)
  && numAt bs 16 8 == bs.length && decide (numAt bs 24 2 ≤ 1024) && numAt bs 26 2 == 0 && numAt bs 64 64 == 0

/-- R255, R257: the table identifier is 0 in a package without a CDF section, and the records of a section fill it whole. -/
def recordsFit (bs : List Byte) (ss : List Section) : Bool :=
  (numAt bs 28 4 == 0 || ss.any fun x => x.kind == 9)
  && ss.all fun x => if x.kind = 4 ∨ x.kind = 5 then x.len % 64 == 0 else if x.kind = 6 then x.len % 4 == 0 else true

/-- R256: one entry by itself. -/
def sectionOk (top : Nat) (x : Section) : Bool :=
  x.rsvd == 0 && x.off % 64 == 0 && x.len != 0 && decide (top ≤ x.off)
  && (if x.kind = 4 then decide (x.flags ≤ 1) else x.flags == 0)
  && (classKnown x.cls || x.cls == 0xFF)
  && ((decide (1 ≤ x.kind) && decide (x.kind ≤ 11)) || x.kind == 0xFFFF)
  && (x.kind != 10 || decide (x.inst < 32))

/-- No two of a list satisfy a relation. -/
def noPair {α : Type} (r : α → α → Bool) : List α → Bool
  | [] => true
  | x :: l => l.all (fun y => !r x y) && noPair r l

/-- R255 to R257: does the directory stand as a whole, with `classes` the declared classes. -/
def directoryOk (bs : List Byte) (ss : List Section) (classes : List Nat) : Bool :=
  let top := 128 + 32 * numAt bs 14 2
  let count (k : Nat) : Nat := (ss.filter fun x => x.kind == k).length
  let onePer (k : Nat) : Bool := classes.all fun c => ((ss.filter fun x => x.kind == k && x.cls == c).length) == 1
  let sameKey (x y : Section) : Bool := x.kind == y.kind && x.inst == y.inst && x.cls == y.cls
  ss.all (sectionOk top)
  && noPair (fun x y => overlaps x.off x.len y.off y.len) ss && noPair sameKey ss
  && (match ss.getLast? with
      | some g => g.kind == 0xFFFF && g.len == sigBlockLen && g.off + g.len == bs.length
          && ss.dropLast.all fun x => decide (x.off + x.len ≤ g.off)
      | none => false)
  && count 0xFFFF == 1 && count 1 == 1 && ss.all (fun x => x.kind != 1 || x.cls == 0xFF)
  && onePer 2 && count 2 == classes.length && onePer 3 && count 3 == classes.length
  && decide (count 6 ≤ 1) && decide (count 7 ≤ 1) && ss.all (fun x => x.kind != 7 || decide (x.len ≤ 2 ^ 25))
  && noPair (fun x y => x.kind == 11 && y.kind == 11 && x.cls == y.cls) ss

/-! ### What a class declares (R261, R263, R264, R293) -/

/-- R261: class and cost of one entry. -/
def parseCost (e : List Byte) : Nat × Cost :=
  (numAt e 0 1, { tile := numAt e 8 8, sym := numAt e 16 8, stack := numAt e 24 8, motion := numAt e 32 8 })

/-- R261: the cost declaration, one entry per class in ascending order. -/
def parseCosts (bs : List Byte) : Except Nat (List (Nat × Cost)) :=
  let es := (List.range (bs.length / 48)).map fun i => sliceAt bs (48 * i) 48
  let cs := es.map parseCost
  let ks := cs.map (·.1)
  if bs.length % 48 ≠ 0 ∨ !ks.all classKnown ∨ !(ks.zip (ks.drop 1)).all (fun p => decide (p.1 < p.2)) then .error stBadPackage
  else if es.any fun e => numAt e 1 7 != 0 || numAt e 40 8 != 0 then .error stBadDescriptor
  else .ok cs

/-- R263: one region declaration; `sect` becomes the offset of its weights section. -/
def parseRegion (ss : List Section) (cls : Nat) (e : List Byte) : Except Nat RegionDecl :=
  let src := numAt e 1 1
  let right := numAt e 2 1
  let snap := numAt e 3 1
  let len := numAt e 8 8
  let weights := findSection ss 8 (numAt e 4 2) cls
  if numAt e 6 2 ≠ 0 then .error stBadDescriptor
  else if numAt e 0 1 = 255 ∨ src = 0 ∨ src > 6 ∨ len = 0 ∨ right ≠ (if src = 3 ∨ src = 4 ∨ src = 5 then 1 else 0)
    ∨ (if src = 4 then snap ≠ 1 ∧ snap ≠ 2 else snap ≠ 0) ∨ (src = 1 ∧ weights.map (·.len) ≠ some len) then .error stBadPackage
  else .ok ⟨numAt e 0 1, src, right, snap, if src = 1 then (weights.map (·.off)).getD 0 else 0, len⟩

def parseRegions (ss : List Section) (cls : Nat) (bs : List Byte) : Except Nat (List RegionDecl) := do
  if bs.length % 16 ≠ 0 then .error stBadPackage
  let rs ← (List.range (bs.length / 16)).mapM fun i => parseRegion ss cls (sliceAt bs (16 * i) 16)
  if noPair (fun a b : RegionDecl => a.num == b.num) rs then .ok rs else .error stBadPackage

/-- R209: the fields of a segment record. -/
def parseSeg (bs : List Byte) : SegRec :=
  let w := leNat (bs.take 64)
  { opcode := bitsOf w 511 504, ctl := bitsOf w 503 496, waitObj := bitsOf w 495 480, waitCount := bitsOf w 479 448
    sigObj := bitsOf w 447 432, mapShift := bitsOf w 431 424, mapLo := bitsOf w 423 408, mapCount := bitsOf w 407 392
    mapSlot := bitsOf w 391 376
    pins := [bitsOf w 327 312, bitsOf w 343 328, bitsOf w 359 344, bitsOf w 375 360]
    count := bitsOf w 311 280, payCap := bitsOf w 279 248, locRes := bitsOf w 247 200, locPay := bitsOf w 199 152
    locQ := bitsOf w 151 104, locY := bitsOf w 103 56, locMs := bitsOf w 55 8, rsvd := bitsOf w 7 0 }

/-- R410: the fields of a collective record. -/
def parseColl (bs : List Byte) : CollRec :=
  let w := leNat (bs.take 64)
  { waitCount := bitsOf w 511 480, waitObj := bitsOf w 479 464, sigObj := bitsOf w 463 448, ctl := bitsOf w 447 440
    op := bitsOf w 439 432, fmt := bitsOf w 431 430, root := bitsOf w 423 416, tag := bitsOf w 415 400
    count := bitsOf w 399 368, loc := bitsOf w 367 320, rsvd := bitsOf w 429 424 + bitsOf w 319 0 }

/-- R293: the rate-control section of a class of a package of kind `kind`. -/
def parseRc (kind nSync : Nat) (regions : List RegionDecl) (bs : List Byte) : Except Nat RcParams :=
  let enc := kind == 1 || kind == 3
  let r : RcParams := ⟨numAt bs 0 1, numAt bs 1 1, numAt bs 2 2, numAt bs 4 4, numAt bs 8 2, numAt bs 10 2⟩
  let scratch := regions.any fun d => d.num == r.region && d.source == 5
  let sets := if enc then decide (1 ≤ r.lag) && decide (r.lag ≤ 8) && decide (16 ≤ r.sw) && decide (r.sw ≤ 255)
      && decide (1 ≤ r.refresh) && decide (r.refresh ≤ 256)
    else r.lag == 0 && r.sw == 0 && r.refresh == 0
  if bs.length ≠ 32 ∨ r.bandObj ≥ nSync ∨ r.off % 2 ≠ 0 ∨ !scratch ∨ (kind ≤ 4 ∧ !sets) then .error stBadPackage
  else if numAt bs 12 20 ≠ 0 then .error stBadDescriptor
  else .ok r

/-- R264: one entry of a frame program: what it adds to the class. -/
def parseEntry (bs : List Byte) (ss : List Section) (cls : Nat) (e : List Byte) (c : ClassInfo) : Except Nat ClassInfo :=
  let type := numAt e 0 1
  let kind := if type = 1 then 4 else if type = 2 then 5 else 8
  let first := numAt e 8 4
  let n := numAt e 12 4
  if type = 0 ∨ type > 3 then .error stBadPackage
  else
    match findSection ss kind (numAt e 4 2) cls with
    | none => .error stBadPackage
    | some x =>
      if n = 0 ∨ 64 * (first + n) > x.len then .error stBadPackage
      else if numAt e 6 2 ≠ 0 ∨ numAt e 1 1 > 1 ∨ (type ≠ 1 ∧ numAt e 2 2 ≠ 0) then .error stBadDescriptor
      else
        let recs := (List.range n).map fun i => sliceAt bs (x.off + 64 * (first + i)) 64
        if type = 1 then
          if c.parts.any fun p => p.idx == numAt e 2 2 then .error stBadPackage
          else .ok { c with parts := c.parts ++ [⟨numAt e 2 2, numAt e 1 1, x.inst, recs.map parseCmd⟩] }
        else if type = 2 then .ok { c with segs := c.segs ++ recs.map parseSeg }
        else .ok { c with colls := c.colls ++ recs.map fun r => { parseColl r with run := c.colls.length } }

/-- One class of a package, from its sections. -/
def parseClass (bs : List Byte) (ss : List Section) (kind nSync : Nat) (cc : Nat × Cost) : Except Nat ClassInfo := do
  let cls := cc.1
  let sec (k : Nat) : List Byte := ((ss.find? fun x => x.kind == k && x.cls == cls).map (sectionBytes bs)).getD []
  let regions ← parseRegions ss cls (sec 2)
  let prog := sec 3
  if prog.length % 16 ≠ 0 then .error stBadPackage
  let rcSec := match ss.find? fun x => x.kind == 11 && x.cls == cls with
    | some x => some (sectionBytes bs x)
    | none => (ss.find? fun x => x.kind == 11 && x.cls == 0xFF).map (sectionBytes bs)
  let rc ← match rcSec with
    | some b => (parseRc kind nSync regions b).map some
    | none => if kind ≤ 4 then .error stBadPackage else .ok none
  (List.range (prog.length / 16)).foldlM (fun c i => parseEntry bs ss cls (sliceAt prog (16 * i) 16) c)
    ({ cls, cost := cc.2, regions, parts := [], segs := [], colls := [], rc } : ClassInfo)

/-! ### Record checks at load (R139, R146, R167, R210, R234, R262) -/

/-- R210: a footprint of `n` bytes at a locator. -/
def segFoot (rs : List RegionDecl) (loc n : Nat) (write : Bool) : Option Nat :=
  if loc = segLocNone then none
  else
    match rs.find? fun r => r.num == loc / 2 ^ 40 with
    | none => some stBadDescriptor
    | some r =>
      if loc % 2 ^ 40 + n > r.len then some stBadAddress else if write ∧ r.right = 0 then some stReadOnly else none

/-- The first status of a list of checks. -/
def firstStatus : List (Option Nat) → Option Nat
  | [] => none
  | some st :: _ => some st
  | none :: r => firstStatus r

/-- The status for a condition. -/
def refuseIf (c : Bool) (st : Nat) : Option Nat := if c then some st else none

/-- R209, R210: the fields of a segment record, whichever class runs it. -/
def checkSegFields (nSync : Nat) (g : SegRec) : Option Nat :=
  let dec := g.opcode == 2
  let need (l : Nat) : Bool := l == segLocNone
  firstStatus
    [refuseIf (g.opcode != 1 && g.opcode != 2) stBadOpcode,
     refuseIf (g.rsvd != 0 || g.ctl % 32 != 0 || (!dec && g.ctl.testBit 5) || need g.locRes || need g.locPay || need g.locMs
       || (dec && need g.locQ) || (!dec && need g.locY) || (dec && !need g.locY)
       || (if g.ctl.testBit 7 then decide (g.waitObj ≥ nSync) else g.waitObj != 0 || g.waitCount != 0)
       || (if g.ctl.testBit 6 then decide (g.sigObj ≥ nSync) else g.sigObj != 0) || decide (g.count > 16777216)) stBadDescriptor]

/-- R209, R210, R263: a segment record of a class of a package of kind `kind`. -/
def checkSeg (kind nSync : Nat) (rs : List RegionDecl) (g : SegRec) : Option Nat :=
  let dec := g.opcode == 2
  let bound := dec && (kind == 2 || kind == 4) && (rs.any fun r => r.num == g.locPay / 2 ^ 40 && r.source == 2)
  firstStatus
    [checkSegFields nSync g,
     segFoot rs g.locMs (4 * g.count) false, segFoot rs g.locY (2 * g.count) false, segFoot rs g.locQ (4 * g.count) true,
     segFoot rs g.locRes 16 true, if bound then none else segFoot rs g.locPay g.payCap (!dec)]

/-- R411: the bytes of one record or element of a collective. -/
def collUnit (c : CollRec) : Nat :=
  if c.op = 1 ∨ c.op = 3 then 48 else if c.op = 2 then 32 else if c.op = 4 then 1 else fmtBytes c.fmt

/-- R410: a collective record; its tag unique within the class. -/
def checkColl (nSync : Nat) (rs : List RegionDecl) (c : CollRec) : Option Nat :=
  let inside := match rs.find? fun r => r.num == c.loc / 2 ^ 40 with
    | some r => decide (c.loc % 2 ^ 40 + c.count * collUnit c ≤ r.len) && r.right == 1
    | none => false
  refuseIf (c.rsvd != 0 || c.ctl % 64 != 0 || c.op == 0 || decide (c.op > 5) || (c.op != 5 && c.fmt != 0) || (c.op != 4 && c.root != 0)
    || (if c.ctl.testBit 7 then decide (c.waitObj ≥ nSync) else c.waitObj != 0 || c.waitCount != 0)
    || (if c.ctl.testBit 6 then decide (c.sigObj ≥ nSync) else c.sigObj != 0)
    || decide (c.count * collUnit c > 2 ^ 24) || !inside) stBadDescriptor

/-- The STREAM commands of a class whose descriptor stands in the weight-cache image: its offset. -/
def imageStreams (c : ClassInfo) : List Nat :=
  (c.parts.flatMap (·.cmds)).filterMap fun e =>
    if e.1 = opSTREAM ∧ locSpace e.2.locA = 1 then some (locOff e.2.locA) else none

/-- R262: cycles of one command per product. -/
def formatCost (a b : Nat) : Nat := (if a = 2 then 2 else 1) * if b = 2 then 2 else 1

/-- R262: the lower bounds of a class: tile work, symbols and stack bytes; `image` is the weight-cache image. -/
def costBound (c : ClassInfo) (image : List Byte) : Cost :=
  let cmds := c.parts.flatMap (·.cmds)
  let moved (o : Nat) : Nat :=
    let d := parseDesc (sliceAt image o 64)
    d.elemSize * d.counts.foldl (· * ·) 1 * ((if d.srcKind = 0 then 1 else 0) + if d.dstKind = 0 then 1 else 0)
  { tile := cmds.foldl (fun a e => a + if [opMMA, opCONV, opANCHOR].contains e.1 then
      e.2.m * e.2.n * e.2.k * formatCost e.2.fmtA e.2.fmtB else 0) 0
    sym := (c.segs.map (·.count)).foldl (· + ·) 0
    stack := ((imageStreams c).map moved).foldl (· + ·) 0 }

/-- R139, R146, R210, R262, R263, R410: every record of a class; `index` lists the offsets of the descriptor index. -/
def checkClass (kind nSync : Nat) (image : List Byte) (index : List Nat) (c : ClassInfo) : Option Nat :=
  let nums := c.regions.map (·.num)
  let b := costBound c image
  firstStatus
    ((c.parts.map fun p => checkPart nSync image.length p.cmds)
      ++ (c.segs.map fun g => checkSeg kind nSync c.regions g)
      ++ (c.colls.map fun g => checkColl nSync c.regions g)
      ++ [refuseIf (!noPair (fun a b : CollRec => a.tag == b.tag) c.colls) stBadDescriptor,
          refuseIf ((imageStreams c).any fun o => !index.contains o) stBadDescriptor,
          refuseIf ((imageStreams c).any fun o => !descDeclared nums (parseDesc (sliceAt image o 64))) stBadDescriptor,
          refuseIf (decide (c.cost.tile < b.tile) || decide (c.cost.sym < b.sym) || decide (c.cost.stack < b.stack)) stCostUnderstated])

/-- The 64-byte records of a section. -/
def sectionRecords (bs : List Byte) (x : Section) : List (List Byte) :=
  (List.range (x.len / 64)).map fun i => sliceAt bs (x.off + 64 * i) 64

/-- R139, R210: every command record and every segment record of the file, whether or not a frame program runs it. -/
def checkSection (nSync image : Nat) (bs : List Byte) (x : Section) : Option Nat :=
  if x.kind = 4 then firstStatus ((sectionRecords bs x).map fun r => checkCmd nSync image (parseCmd r).1 (parseCmd r).2)
  else if x.kind = 5 then firstStatus ((sectionRecords bs x).map fun r => checkSegFields nSync (parseSeg r))
  else none

/-- R234: does a section stand on the entropy-model path of a package and hold an operation that strict mode forbids. -/
def modelForbids (kind : Nat) (bs : List Byte) (x : Section) : Bool :=
  x.kind == 4 && (kind == 2 || kind == 4 || x.flags == 1) && strictForbids ((sectionRecords bs x).map parseCmd)

/-- R255 to R264: the package a file holds, without its place in memory, or the status that refuses it. -/
def checkPackage (s : State) (bs : List Byte) : Except Nat Pkg := do
  if !headerOk bs then .error stBadPackage
  let count := numAt bs 14 2
  let kind := numAt bs 6 1
  let nSync := numAt bs 24 2
  if 128 + 32 * count > bs.length then .error stBadPackage
  let ss := (List.range count).map fun i => parseSection (sliceAt bs (128 + 32 * i) 32)
  let secs (k : Nat) : List Section := ss.filter fun x => x.kind == k
  let costSec := ((secs 1).head?.map (sectionBytes bs)).getD []
  if !directoryOk bs ss (((List.range (costSec.length / 48)).map fun i => numAt costSec (48 * i) 1)) ∨ !recordsFit bs ss then
    .error stBadPackage
  let cut := bs.length - sigBlockLen
  match checkSignature s (bs.take cut) (bs.drop cut) with
  | some st => .error st
  | none =>
    let costs ← parseCosts costSec
    let classes ← costs.mapM (parseClass bs ss kind nSync)
    let imageSec := (secs 7).head?
    let image := (imageSec.map (sectionBytes bs)).getD []
    let indexSec := ((secs 6).head?.map (sectionBytes bs)).getD []
    let index := (List.range (indexSec.length / 4)).map fun i => numAt indexSec (4 * i) 4
    if index.any fun o => o % 64 != 0 || decide (o + 64 > image.length) then .error stBadAddress
    if index.any fun o => !descOk nSync (parseDesc (sliceAt image o 64)) then .error stBadDescriptor
    match firstStatus (ss.map (checkSection nSync image.length bs) ++ classes.map (checkClass kind nSync image index)) with
    | some st => .error st
    | none =>
      if ss.any (modelForbids kind bs) then .error stStrictForbids
      let tables ← (secs 9).mapM fun x => parseTableSet (sectionBytes bs x)
      if tables.any fun t => t.id != numAt bs 28 4 then .error stBadPackage
      if !noPair (fun a b : TableSet => a.version == b.version && !(a.kinds == b.kinds && a.slots == b.slots)) tables then
        .error stTableConflict
      let fns ← (secs 10).mapM fun x => (parseFnTable (sectionBytes bs x)).map fun t => (x.inst, t)
      .ok { id := numAt bs 8 4, version := numAt bs 12 2, kind, mode := numAt bs 7 1, nSync, tableId := numAt bs 28 4
            digest := sha384 (bs.take cut), signer := numAt bs (cut + 4) 1, copy := 0, len := bs.length
            image := imageSec.map fun x => (x.off, x.len), classes, tables, fns }

/-! ### Loading (R265, R266) -/

/-- PACKAGE_LOAD (R266 step 1). -/
def acceptLoad (s : State) (k : Nat) : State :=
  let a := getReg s (slotIndex k) 0x02
  let n := getReg s (slotIndex k) 0x03
  if parked s then setSlotStatus s k stBadState
  else if slotState s k ≠ 0 then setSlotStatus s k stSlotOccupied
  else if n = 0 ∨ n > 2 ^ 34 then setSlotStatus s k stBadPackage
  else if badRange s a n then setSlotStatus s k stBadAddress
  else if s.mem.num (a + 16) 8 ≠ n then setSlotStatus s k stBadPackage
  else
    let s := setSlotStatus (setSlotState s k 1) k stPending
    { s with queue := s.queue ++ [.load k a n] }

def execPackageLoad (slot : Nat) (s : State) : Host.Outcome State Fault Refusal :=
  whenControlled s fun s => if slot < 4096 then acceptLoad s slot else s

/-- R194: the status that refuses a function-table section. -/
def fnConflict (s : State) (e : Nat × FnTable) : Option Nat :=
  let f := fnSlot s e.1
  match f.next with
  | some (some t) => refuseIf (t.digest != e.2.digest) stSlotConflict
  | some none => some stSlotBusy
  | none =>
    match f.cur with
    | some t => refuseIf (t.digest != e.2.digest) stSlotConflict
    | none => refuseIf f.oldHeld stSlotBusy

/-- R194: a section's table goes into its slot, which is empty. -/
def fnLoads (s : State) (e : Nat × FnTable) : Bool := (fnSlot s e.1).cur.isNone && (fnSlot s e.1).next.isNone

/-- R194: a section's table is bound to its slot by package slot `k`, and loaded into it when it is empty. -/
def bindFn (k : Nat) (s : State) (e : Nat × FnTable) : State :=
  let f := fnSlot s e.1
  if fnLoads s e then putFnSlot s e.1 { f with binders := f.binders ++ [k], next := some (some e.2), asked := counterOf s }
  else putFnSlot s e.1 { f with binders := f.binders ++ [k] }

/-- R265: the class bitmap of #(0x7000 + k).0D. -/
def classBits (p : Pkg) : Nat := (p.classes.map fun c => if c.cls = 0x10 then 128 else 2 ^ c.cls).foldl (· ||| ·) 0

/-- R265, R442: the subentries that describe a loaded package; for an empty slot their defaults. The mirror peer gets slot and digest. -/
def showPackage (s : State) (k : Nat) (p : Option Pkg) : State :=
  let i := slotIndex k
  let v (f : Pkg → Nat) : Nat := (p.map f).getD 0
  let s := setReg (setReg (setReg s i 0x06 (v (·.id))) i 0x07 (v (·.version))) i 0x09 (v (·.kind))
  let s := setReg (setReg (setReg s i 0x0A (v (·.mode))) i 0x0C (v (·.signer))) i 0x0D (v classBits)
  toMirror (setBlob s i 0x08 ((p.map (·.digest)).getD (List.replicate 48 0))) (.package k ((p.map (·.digest)).getD []))

/-- The content that the bank in use will have once a pending swap has taken effect. -/
def futureSets (s : State) : List TableSet :=
  if s.cdf.pending.isSome then (s.cdf.banks.getD (idleBank s) {}).sets else activeSets s

/-- R194: the status that refuses the function tables of a package: two sections for one slot hold one table. -/
def fnsConflict (s : State) (fns : List (Nat × FnTable)) : Option Nat :=
  firstStatus (fns.map (fnConflict s)
    ++ [refuseIf (!noPair (fun a b : Nat × FnTable => a.1 == b.1 && a.2.digest != b.2.digest) fns) stSlotConflict])

/-- R223, R266: every table set of a package is in the store already, or will be when the changes before it have taken effect. -/
def tablesPresent (s : State) (p : Pkg) : Bool := p.tables.all fun t => (futureSets s).any fun x => x.id == t.id && x.version == t.version

/-- R21, R193: loading a package writes a table that every die has to take. -/
def writesDies (s : State) (p : Pkg) : Bool := !tablesPresent s p || p.fns.any (fnLoads s)

/-- R266 steps 2 to 6 for the load at the head of the queue: the new state, or the status that refuses it. `diesOk` says that every
die took the tables written to it (R21, R193). -/
def runLoad (s : State) (k a n : Nat) (diesOk : Bool) : Except Nat State := do
  let bs := fileAt s a n
  let p ← checkPackage s bs
  if s.pkgs.any fun e => e.2.id == p.id && e.2.version == p.version && e.2.digest != p.digest then .error stPackageConflict
  match reserve s n (k + 1) with
  | none => .error stNoMemory
  | some (base, s) =>
    match fnsConflict s p.fns with
    | some st => .error st
    | none =>
      let change := tableChange s (some k) p.tables []
      let present := tablesPresent s p
      match firstStatus [changeRefused (futureSets s) change, refuseIf (!diesOk && writesDies s p) (dieFailed s)] with
      | some st => .error st
      | none =>
        let p := { p with copy := base, image := p.image.map fun i => (base + i.1, i.2) }
        let s := { s with mem := s.mem.write base bs, pkgs := nset s.pkgs k p }
        let s := showPackage (p.fns.foldl (bindFn k) s) k (some p)
        if present then
          .ok { setSlotStatus (setSlotState s k 3) k stOk with queue := s.queue.drop 1 }
        else .ok (packageChange (setSlotState s k 2) change)

/-! ### Key requests (R483, R484) -/

/-- R483, R484: the status of a key request file, none when it is accepted. -/
def keyRefused (s : State) (origin : Origin) (bs : List Byte) : Option Nat :=
  let op := numAt bs 4 1
  let enrolled := getReg s 0x1300 0x04 != 0
  let modulus := beNat (sliceAt bs 48 384)
  let digest := sha384 (bs.take 512)
  let bad := numAt bs 0 4 != 0x4B455952 || op == 0 || decide (op > 3) || numAt bs 5 3 != 0 || numAt bs 8 8 != s.ctl.manifest.serial
    || numAt bs 16 4 != getReg s 0x1300 0x07 + 1 || numAt bs 20 12 != 0 || numAt bs 36 12 != 0 || numAt bs 480 32 != 0
    || bs.length != (if op = 1 then 512 else 17120)
    || (if op = 3 then numAt bs 32 4 != 0 || modulus != 0 || numAt bs 432 48 != 0
        else numAt bs 32 4 != 65537 || modulus % 2 == 0 || decide (modulus < 2 ^ 3071))
    || (op == 1 && (enrolled || decide (origin ≠ .host))) || (op != 1 && !enrolled)
  if bad then some stBadKeyRequest
  else if op ≠ 1 ∧ !(rsaPssVerify (beBytes 384 s.ctl.custRsa) 65537 digest (sliceAt bs 512 384)
    && slhVerify (getBlob s 0x1300 0x06) digest (sliceAt bs 896 16224)) then some stBadSignature
  else none

/-- R484: a key request's turn: it writes flash and raises the counter, or its status says why not. -/
def applyKey (s : State) (origin : Origin) (a n : Nat) : State :=
  let bs := fileAt s a n
  match keyRefused s origin bs with
  | some st => setReg s 0x1300 0x0B st
  | none =>
    let op := numAt bs 4 1
    let m := sliceAt bs 48 384
    let zero : List Byte := List.replicate 48 0
    let s := setReg s 0x1300 0x04 (if op = 3 then 0 else 1)
    let s := setBlob s 0x1300 0x05 (if op = 3 then zero else sha384 m)
    let s := setBlob s 0x1300 0x06 (if op = 3 then zero else sliceAt bs 432 48)
    let s := addReg { s with ctl := { s.ctl with custRsa := beNat m, custExp := numAt bs 32 4 } } 0x1300 0x07 1
    setReg s 0x1300 0x0B stOk

/-! ### Unloading and the queue (R266, R267) -/

/-- R267: the sets of a package that no other loaded package carries. -/
def ownSets (s : State) (k : Nat) (p : Pkg) : List (Nat × Nat) :=
  (p.tables.filter fun t => s.pkgs.all fun e => e.1 == k ||
    e.2.tables.all fun x => !(x.id == t.id && x.version == t.version)).map fun t => (t.id, t.version)

/-- R267: an unload's turn: its table sets go first, else it goes at the next tick. -/
def startUnload (s : State) (k : Nat) : State :=
  match pkgOf s k with
  | none => s
  | some p =>
    let gone := ownSets s k p
    if gone = [] then packageTablesDone s k else packageChange s (tableChange s (some k) [] gone)

/-- The queue's head when its turn comes: key requests and unloads start at once, a load waits for PACKAGE_LOAD_RUN. -/
def advanceQueue : Nat → State → State
  | 0, s => s
  | fuel + 1, s =>
    match s.queue with
    | .key o a n :: r => advanceQueue fuel (applyKey { s with queue := r } o a n)
    | .unload k :: _ => startUnload s k
    | .load _ _ _ :: _ => s
    | [] => s

/-- The queue after its head has ended. -/
def pumpQueue (s : State) : State := advanceQueue s.queue.length s

/-- R266: what the end of a queued load leaves: the next items of the queue run, or a refused load empties its slot again. -/
def endLoad (s : State) (k : Nat) (rest : List QueueItem) : Except Nat State → State
  | .ok s' => if slotState s' k = 3 then pumpQueue s' else s'
  | .error st => pumpQueue { setSlotStatus (setSlotState s k 0) k st with queue := rest }

/-- PACKAGE_LOAD_RUN (R266): the load at the head of the queue. -/
def runQueuedLoad (s : State) : State :=
  match s.queue with
  | .load k a n :: r => if slotState s k = 1 then diesCommand s fun s diesOk => endLoad s k r (runLoad s k a n diesOk) else s
  | _ => s

def execPackageLoadRun (s : State) : Host.Outcome State Fault Refusal := whenControlled s runQueuedLoad

/-- R265, R267, R270: the users of a slot: contexts bound, frames still on it, pending switches, and jobs not completed. -/
def slotUsers (s : State) (k : Nat) : Nat :=
  (s.ctxs.filter fun e => (ctxState s e.1 != 0 && getReg s (ctxIndex e.1) 0x01 == k) || e.2.switchTo == some k
    || s.works.any fun w => w.slot == k && match w.id with
      | .frame c _ => c == e.1
      | .job _ _ _ => false).length +
  (s.jobs.filter fun j => j.job.pkgSlot == k && decide (j.state < 3)).length

/-- PACKAGE_UNLOAD (R267). -/
def acceptUnload (s : State) (k : Nat) : State :=
  let st := slotState s k
  if parked s then setSlotStatus s k stBadState
  else if st = 0 then setSlotStatus s k stNoPackage
  else if st ≠ 3 then setSlotStatus s k stBadState
  else if slotUsers s k ≠ 0 then setSlotStatus s k stPackageInUse
  else
    let empty := s.queue.isEmpty
    let s := setSlotStatus (setSlotState s k 4) k stPending
    let s := { s with queue := s.queue ++ [.unload k] }
    if empty then pumpQueue s else s

def execPackageUnload (slot : Nat) (s : State) : Host.Outcome State Fault Refusal :=
  whenControlled s fun s => if slot < 4096 then acceptUnload s slot else s

/-- R267: at the tick an unload whose tables are gone releases memory, windows and bindings, and the slot is empty. -/
def finishUnload (s : State) : State :=
  match s.queue with
  | .unload k :: r =>
    match pkgOf s k with
    | some p =>
      if !p.leaving then s
      else
        let s := releaseRange s p.copy
        let s := { s with queue := r, pkgs := ndel s.pkgs k, windows := s.windows.filter fun w => w.slot != k
                          fns := s.fns.map fun e => (e.1, { e.2 with binders := e.2.binders.filter (· != k) }) }
        pumpQueue (setSlotStatus (setSlotState (showPackage s k none) k 0) k stOk)
    | none => s
  | _ => s

/-- KEY_REQUEST (R483, R484): command 0x01 of #1300.0A joins the queue. -/
def acceptKey (s : State) (origin : Origin) : State :=
  let a := getReg s 0x1300 0x08
  let n := getReg s 0x1300 0x09
  if n ≠ 512 ∧ n ≠ 17120 then setReg s 0x1300 0x0B stBadKeyRequest
  else if badRange s a n then setReg s 0x1300 0x0B stBadAddress
  else
    let empty := s.queue.isEmpty
    let s := setReg s 0x1300 0x0B stPending
    let s := { s with queue := s.queue ++ [.key origin a n] }
    if empty then pumpQueue s else s

def execKeyRequest (origin : Origin) (s : State) : Host.Outcome State Fault Refusal :=
  whenControlled s fun s => acceptKey s origin

/-! ### The banks (R222, R223) -/

/-- R222 step 3: the banks swap and the command or package the change served goes on. -/
def takeSwap (s : State) : State :=
  let loading := match s.cdf.pending.bind (·.owner) with
    | some k => slotState s k == 2
    | none => false
  if loading then pumpQueue (swapBanks s) else swapBanks s

/-- CDF_BANK_SWAP (R222 step 3). -/
def execCdfBankSwap (s : State) : Host.Outcome State Fault Refusal :=
  whenControlled s fun s => if swapDue s then takeSwap s else s

/-- R193, R222, R223: what of the tables takes effect at the boundary that has come, before the round is issued: banks become free, a
written bank is swapped in, and function slots switch. -/
def tablesAtTick (s : State) : State :=
  let s := freeBank (freeBank s 0) 1
  let s := if swapDue s then takeSwap s else s
  (List.range 32).foldl (fun s k => if fnDue s k then switchFunction s k else s) s

/-! ### Weight windows (R162, R163) -/

/-- Windows lie at 64 KiB granularity in a die's 32 MiB. -/
def windowLen (n : Nat) : Nat := alignUp 65536 n

/-- The windows of a die laid one after another, their bytes with them (R163: a move affects only timing). -/
def packWindows (s : State) (die : Nat) : State :=
  let mine := s.windows.filter fun w => w.die == die
  let cache := ngetD s.cache die []
  let (ws, m, _) := mine.foldl (fun acc w =>
    (acc.1 ++ [{ w with base := acc.2.2 }], Memory.write acc.2.1 acc.2.2 (Memory.read cache w.base w.len), acc.2.2 + windowLen w.len))
    (([] : List Window), ([] : Memory), 0)
  { s with windows := s.windows.filter (fun w => w.die != die) ++ ws, cache := nset s.cache die m }

/-- The lowest base for a window of `n` bytes on a die. -/
def windowBase (s : State) (die n : Nat) : Option Nat :=
  let mine := s.windows.filter fun w => w.die == die
  let free (b : Nat) : Bool := decide (b + windowLen n ≤ 2 ^ 25) && mine.all fun w => !overlaps w.base (windowLen w.len) b (windowLen n)
  match (0 :: mine.map fun w => w.base + windowLen w.len).filter free with
  | [] => none
  | b :: r => some (r.foldl Nat.min b)

/-- A window of `n` bytes at `b`, not filled yet. -/
def addWindow (s : State) (die k n b : Nat) : State := { s with windows := s.windows ++ [⟨die, k, b, n, false⟩] }

/-- R163: a window for package slot `k` on a die, where one is present or can be placed. -/
def placeWindow (s : State) (die k : Nat) : Option State :=
  match (pkgOf s k).bind (·.image) with
  | none => some s
  | some (_, n) =>
    if (windowOf s die k).isSome then some s
    else
      (windowBase s die n).elim ((windowBase (packWindows s die) die n).map (addWindow (packWindows s die) die k n))
        fun b => some (addWindow s die k n b)

/-- R163: at the tick a window goes when no context or job of its package remains on the die. -/
def releaseWindows (s : State) : State :=
  let onDie (x : Work) (d : Nat) : Bool :=
    x.die == d || s.tiles.any fun e => dieOfTile e.1 == d && (e.2.part.map (·.work)) == some x.id
  { s with windows := s.windows.filter fun w =>
      s.works.any (fun x => x.slot == w.slot && onDie x w.die) || s.images.any (fun i => i.die == w.die &&
        s.works.any fun x => x.slot == w.slot && x.id == i.work) ||
      s.ctxs.any (fun e => runningState (ctxState s e.1) && getReg s (ctxIndex e.1) 0x01 == w.slot
        && getReg s (ctxIndex e.1) 0x38 == w.die) ||
      s.ctxs.any (fun e => e.2.switchTo == some w.slot && getReg s (ctxIndex e.1) 0x38 == w.die) }

end Sys2Proof.Machine
end

