-- ==== Sys2Proof/Machine/Admission.lean ====
section
/-! DEFINITION. Capacities, ceilings, shares and the charges of stream contexts (R4, R5, R44, R47 to R53, R58, R260, R261, R300,
R307, R313 to R315, R330, R345, R350). -/
namespace Sys2Proof.Machine
open Sys2Proof

/-! ### Settings of a context -/

/-- A setting of stream context `k`. -/
def ctxReg (s : State) (k sub : Nat) : Nat := getReg s (ctxIndex k) sub

/-- The binding of a context. -/
def binding (s : State) (k : Nat) : Nat := ctxReg s k 0x01

/-- R300: is a binding one of the listed service codes; the kind of a service. -/
def isService (b : Nat) : Bool := b == 0xF001 || b == 0xF002 || b == 0xF011 || b == 0xF012 || b == 0xF013
def serviceKind (b : Nat) : Nat := if b = 0xF001 ∨ b = 0xF002 then 1 else 2

/-- R257, R300: the kind of what a context is bound to; 0 for nothing. -/
def ctxKind (s : State) (k : Nat) : Nat :=
  if isService (binding s k) then serviceKind (binding s k) else ((pkgOf s (binding s k)).map (·.kind)).getD 0

def isAudio (kind : Nat) : Bool := kind == 3 || kind == 4

/-- R260: the smallest class for a width and height; none above the largest. -/
def classFor (w h : Nat) : Option Nat :=
  ([(0, 960, 540), (1, 1280, 720), (2, 1920, 1080), (3, 2560, 1440), (4, 3840, 2160), (5, 7680, 4320)].find? fun c =>
    decide (w ≤ c.2.1) && decide (h ≤ c.2.2)).map (·.1)

/-- R392: the scaler of a context is on; its output size, chroma and depth. -/
def scalerBlob (s : State) (k : Nat) : List Byte := getBlob s (ctxIndex k) 0x25
def scalerOn (s : State) (k : Nat) : Bool := numAt (scalerBlob s k) 17 1 == 1

/-- The width, height and chroma of the pictures a context codes: the scaler's output where it is on (R318). -/
def codedSize (s : State) (k : Nat) : Nat × Nat × Nat :=
  if scalerOn s k then (numAt (scalerBlob s k) 8 2, numAt (scalerBlob s k) 10 2, numAt (scalerBlob s k) 14 1)
  else (ctxReg s k 0x06, ctxReg s k 0x07, ctxReg s k 0x0A)

/-- The class a context runs in. -/
def ctxClass (s : State) (k : Nat) : Option Nat :=
  if isAudio (ctxKind s k) then some 0x10 else classFor (codedSize s k).1 (codedSize s k).2.1

/-- What the bound package declares for the context's class. -/
def ctxInfo (s : State) (k : Nat) : Option ClassInfo :=
  match ctxClass s k with
  | some c => (pkgOf s (binding s k)).bind fun p => classOf p c
  | none => none

/-- R271: the context whose frame rate a context takes: a chain is followed upward, at most four contexts deep. -/
def rateCtx (s : State) : Nat → Nat → Nat
  | 0, k => k
  | fuel + 1, k => if ctxReg s k 0x26 = 4 then rateCtx s fuel (ctxReg s k 0x27) else k

/-- The frame rate f of a context as numerator and denominator; for audio one frame per tick (R296). -/
def ctxRate (s : State) (k : Nat) : Nat × Nat :=
  let u := rateCtx s 4 k
  if isAudio (ctxKind s u) then (3000000000, period s) else (ctxReg s u 0x08, ctxReg s u 0x09)

/-- R47: is the ratio f / H within 1/64 … 4, with H the reciprocal of `p` thirds of a nanosecond. -/
def cadenceOk (num den p : Nat) : Bool :=
  num != 0 && den != 0 && decide (den * 3000000000 ≤ 64 * num * p) && decide (num * p ≤ 4 * den * 3000000000)

/-- R47: floor(j × H / f). -/
def cadenceRound (num den p j : Nat) : Nat := j * 3000000000 * den / (p * num)

/-- R47: the largest number of frames per round, ceil(f / H). -/
def peakFrames (num den p : Nat) : Nat := ceilDiv (num * p) (den * 3000000000)

/-- The largest number of frames per round of a context. -/
def ctxPeak (s : State) (k : Nat) : Nat := let (n, d) := ctxRate s k; peakFrames n d (period s)

/-- The bytes of a picture as R336 and R283 lay it out: planar samples of 16 bits, luma first; chroma as .0A codes it. -/
def pictureSamples (w h chroma : Nat) : Nat :=
  if chroma = 0 then w * h + 2 * ((w + 1) / 2 * ((h + 1) / 2)) else if chroma = 1 then w * h + 2 * ((w + 1) / 2 * h) else w * h

/-- Bytes of the region of source `src` in a class. -/
def regionBytes (c : ClassInfo) (src : Nat) : Nat := ((c.regions.filter fun r => r.source == src).map (·.len)).foldl (· + ·) 0

/-- The bytes of a context's picture before the scaler; a service's input picture (log 20). -/
def servicePicture (s : State) (k : Nat) : Nat := 2 * pictureSamples (ctxReg s k 0x06) (ctxReg s k 0x07) (ctxReg s k 0x0A)

/-- Input bytes of one frame, and output region length: the declared regions, or one picture for a service (log 20). -/
def inputLen (s : State) (k : Nat) : Nat :=
  if isService (binding s k) || scalerOn s k then servicePicture s k else ((ctxInfo s k).map (regionBytes · 2)).getD 0
def outputLen (s : State) (k : Nat) : Nat :=
  if isService (binding s k) then let (w, h, c) := codedSize s k; 2 * pictureSamples w h c else ((ctxInfo s k).map (regionBytes · 3)).getD 0

/-! ### Capacities and ceilings (R49, R58, R313, R330, R440) -/

/-- R4: active tiles of the grade, and those that work now, liberos included. -/
def nominalTiles (s : State) : Nat := if s.ctl.manifest.grade = 0 then 352 else 320
def activeTiles (s : State) : Nat := ((List.range 384).filter (tileUsable s)).length

/-- R49: the ceiling that tiles lost without a libero leave (log 21). -/
def tileLimit (s : State) : Nat := Nat.min 1000 (1000 * activeTiles s / nominalTiles s)

/-- R49, R456: the effective ceiling that comes into force at a tick. -/
def newCeiling (s : State) : Nat := Nat.min (inForceReg s 0x2100 0x01) (Nat.min (getReg s 0x3000 0x06) (tileLimit s))

/-- #2100.08: the effective ceiling in force. -/
def effCeiling (s : State) : Nat := getReg s 0x2100 0x08

/-- The number of lanes and of stacks that are not retired. -/
def liveLanes (s : State) : Nat := 128 - popCount 64 (getReg s 0x5200 0x11) - popCount 64 (getReg s 0x5200 0x12)
def liveStacks (s : State) : Nat := 24 - popCount 24 (getReg s 0x4000 0x03)

/-- R49: capacity per round of resource 1 tile work, 2 symbols, 3 stack traffic, per second of work. -/
def perSecond (s : State) (r : Nat) : Nat :=
  if r = 1 then nominalTiles s * 4096 * 1050000000
  else if r = 2 then liveLanes s * 1050000000
  else liveStacks s * 1280000000000

/-- R49: the ceiling of resource `r` for a round. -/
def ceilingOf (s : State) (r : Nat) : Nat := perSecond s r * period s * effCeiling s / (3000000000 * 1000)

/-- R44, R313: rate × (P − G), with floor. -/
def mediaRound (s : State) (rate : Nat) : Nat := rate * period s * (1000 - inForceReg s 0x2000 0x03) / (3000000000 * 1000)

/-- The kinds of media charge: estimators, encode pipelines, decode cores, scalers, engines, packet buffers, the stream store and
port rates. -/
def mkEstimator : Nat := 0
def mkEncode : Nat := 1
def mkDecode : Nat := 2
def mkScaler : Nat := 3
def mkEngine : Nat := 4
def mkStaging : Nat := 5
def mkStore : Nat := 6
def mkPort : Nat := 7

/-- R313, R322, R330, R345, R350: the capacity of a media unit per round (of a pool, of a port); 0 when it is retired. -/
def mediaCap (s : State) (kind unit : Nat) : Nat :=
  if kind = mkEstimator then (if (getReg s 0x6100 0x02).testBit unit then 0 else mediaRound s 525000000)
  else if kind = mkEncode then (if (getReg s 0x6100 0x02).testBit unit then 0 else mediaRound s 787500000)
  else if kind = mkDecode then (if (getReg s 0x6100 0x03).testBit unit then 0 else mediaRound s 787500000)
  else if kind = mkScaler then (if (getReg s 0x6100 0x04).testBit unit then 0 else mediaRound s 2100000000)
  else if kind = mkEngine then (if (getReg s 0x6200 0x02).testBit unit then 0 else mediaRound s 1050000000)
  else if kind = mkStaging then 2 ^ 26
  else if kind = mkStore then getReg s 0x6000 0x01
  else 196000000000

/-- What the list of charges puts on a media unit. -/
def mediaSum (l : List (Nat × Nat × Nat)) (kind unit : Nat) : Nat :=
  ((l.filter fun c => c.1 == kind && c.2.1 == unit).map (·.2.2)).foldl (· + ·) 0

/-- The charges of every context but `k`, and of every context. -/
def chargesBut (s : State) (k : Nat) : List (Nat × Charge) :=
  (s.ctxs.filter fun e => e.1 != k).map fun e => (e.1, e.2.charge)

def allMedia (cs : List (Nat × Charge)) : List (Nat × Nat × Nat) := cs.flatMap (·.2.media)

/-- The amount of resource `r` in a charge. -/
def chargeOf (c : Charge) (r : Nat) : Nat := if r = 1 then c.tile else if r = 2 then c.sym else c.stack

/-- The sum of resource `r` over charges. -/
def chargeSum (cs : List (Nat × Charge)) (r : Nat) : Nat := (cs.map fun e => chargeOf e.2 r).foldl (· + ·) 0

/-- R261: the cost of one frame as a charge. -/
def costCharge (c : Cost) : Charge := { tile := c.tile, sym := c.sym, stack := c.stack }

/-- R50: a charge `n` times. -/
def timesCharge (c : Charge) (n : Nat) : Charge :=
  { tile := c.tile * n, sym := c.sym * n, stack := c.stack * n, media := c.media.map fun m => (m.1, m.2.1, m.2.2 * n) }

/-- R51: may a context of class `prio` be charged `c`: class 2 stays out of both reserved shares, class 1 out of class 0's (the
shares are read per resource; log 21). -/
def shareOk (s : State) (k prio : Nat) (c : Charge) : Bool :=
  prio == 0 ||
  [1, 2, 3].all fun r =>
    let top := ceilingOf s r
    let cls (p : Nat) : Nat := chargeSum ((chargesBut s k).filter fun e => ctxReg s e.1 0x0D == p) r
    let s0 := inForceReg s 0x2100 0x02
    let s1 := inForceReg s 0x2100 0x03
    decide ((cls 1 + cls 2 + chargeOf c r) * 1000 ≤ top * (1000 - s0)) &&
    (prio != 2 || decide ((cls 2 + chargeOf c r) * 1000 ≤ top * (1000 - s0 - s1)))

/-- R49: the first of tile work, symbols and stack traffic without room for charge `c` of context `k`. -/
def noResource (s : State) (k : Nat) (c : Charge) : Option Nat :=
  [1, 2, 3].find? fun r => decide (ceilingOf s r < chargeSum (chargesBut s k) r + chargeOf c r)

/-- R50, R58, R269: the first resource without room for charge `c` of context `k` of class `prio`; its media charges are assigned. -/
def noRoom (s : State) (k prio : Nat) (c : Charge) : Option Nat :=
  let others := chargesBut s k
  match noResource s k c with
  | some r => some r
  | none =>
    let media := allMedia others ++ c.media
    if media.any fun m => decide (mediaCap s m.1 m.2.1 < mediaSum media m.1 m.2.1) then some 4
    else if !shareOk s k prio c then some 6
    else none

/-- R56, R58: no start and no class 3 work while a round ended with carry or the charges exceed a ceiling. -/
def chargesFit (s : State) : Bool :=
  let all := s.ctxs.map fun e => (e.1, e.2.charge)
  let media := allMedia all
  ([1, 2, 3].all fun r => decide (chargeSum all r ≤ ceilingOf s r)) &&
  media.all fun m => decide (mediaSum media m.1 m.2.1 ≤ mediaCap s m.1 m.2.1)

/-! ### Media units of a start (R307, R313 to R315, R318, R345, R350) -/

/-- R15: the media die of a port, an encode core, a decode core, a scaler or an engine. -/
def mediaDieOfPort (p : Nat) : Nat := p / 2
def coresPerDie (kind : Nat) : Nat := if kind ≤ 1 then 6 else if kind = mkDecode then 8 else if kind = mkScaler then 2 else 4

/-- R392: a leg's port, 0xFF for an unused leg. -/
def legPort (s : State) (k i : Nat) : Nat := numAt (getBlob s (ctxIndex k) (0x28 + i)) 0 1

/-- The room left on a unit beside the charges `l`. -/
def unitRoom (s : State) (l : List (Nat × Nat × Nat)) (kind unit : Nat) : Nat := mediaCap s kind unit - mediaSum l kind unit

/-- R307: the media die of a context: the one that ingests it, at its first leg in use, else the one with more free estimator capacity, ties
to MD0. -/
def mediaDie (s : State) (k : Nat) : Nat :=
  match (if ctxReg s k 0x26 = 1 then ([0, 1].map (legPort s k)).filter (· != 0xFF) else []) with
  | p :: _ => mediaDieOfPort p
  | [] =>
    let used := allMedia (chargesBut s k)
    let room (d : Nat) : Nat := ((List.range 6).map fun i => unitRoom s used mkEstimator (6 * d + i)).foldl (· + ·) 0
    if room 0 < room 1 then 1 else 0

/-- R314: a fraction `a / b` of luma samples, rounded up. -/
def fracUp (n a b : Nat) : Nat := ceilDiv (n * a) b

/-- R313: weighted samples of `luma` luma samples of a chroma format. -/
def weighted (luma chroma : Nat) : Nat := if chroma = 0 then luma else if chroma = 1 then fracUp luma 4 3 else fracUp luma 2 3

/-- R301, R302: the widths of the tile columns of a picture in luma samples: HEVC uniformly spaced, AV1 the wider first. -/
def columnWidths (hevc : Bool) (w cols : Nat) : List Nat :=
  let units := ceilDiv w 64
  let cut (i : Nat) : Nat := if hevc then i * units / cols else i * (units / cols) + Nat.min i (units % cols)
  (List.range cols).map fun i => Nat.min w (64 * cut (i + 1)) - 64 * cut i

/-- R314: the charges of one tile job of a block encode: estimator and pipeline. -/
def encodeJob (s : State) (k w h chroma : Nat) : Nat × Nat :=
  let luma := w * h
  (if ctxReg s k 0x22 = 1 then 2 * luma else if ctxReg s k 0x23 ≠ 0 then fracUp luma 85 100 else luma, weighted luma chroma)

/-- R304, R314: the tile jobs of a decode that is ganged over `n` cores (log 22). -/
def decodeJobs (luma chroma n : Nat) : List Nat := (List.range n).map fun _ => ceilDiv (weighted luma chroma) n

/-- R297, R304: how many cores a decode stream needs: one while its rate is within a core's capacity and its picture within the size that one
core reaches. -/
def decodeGang (s : State) (luma chroma peak : Nat) : Nat :=
  Nat.max (if luma ≤ 8912896 then 1 else 2) (ceilDiv (weighted luma chroma * peak) (Nat.max 1 (mediaRound s 787500000)))

/-- R315: one job to the lowest-numbered core of the die with room for all its charges: the core and the charges. -/
def placeJob (s : State) (die : Nat) (kinds : List Nat) (used : List (Nat × Nat × Nat)) (job : List Nat) :
    Option (Nat × List (Nat × Nat × Nat)) :=
  let n := coresPerDie (kinds.headD 0)
  ((List.range n).find? fun i => (kinds.zip job).all fun p => decide (p.2 ≤ unitRoom s used p.1 (n * die + i))).map fun i =>
    (n * die + i, (kinds.zip job).map fun p => (p.1, n * die + i, p.2))

/-- R315: numbered jobs in order, a job never on two cores: the charges and each job's core; none when one fits no core. -/
def placeJobs (s : State) (die : Nat) (kinds : List Nat) :
    List (Nat × Nat × Nat) → List (Nat × List Nat) → Option (List (Nat × Nat × Nat) × List (Nat × Nat))
  | _, [] => some ([], [])
  | used, (t, j) :: r =>
    match placeJob s die kinds used j with
    | none => none
    | some (core, c) => (placeJobs s die kinds (used ++ c) r).map fun l => (c ++ l.1, (t, core) :: l.2)

/-- Insertion of a numbered job that keeps the largest first, the lower number before its equals. -/
def insertJob (j : Nat × List Nat) : List (Nat × List Nat) → List (Nat × List Nat)
  | [] => [j]
  | x :: r => if x.2.headD 0 ≤ j.2.headD 0 then j :: x :: r else x :: insertJob j r

/-- The jobs of a list numbered, largest first. -/
def orderJobs (l : List (List Nat)) : List (Nat × List Nat) := (l.zipIdx.map fun e => (e.2, e.1)).foldr insertJob []

/-- R314, R315, R318: the codec-core, estimator and scaler charges of context `k`, and the core of each tile job; none when a job fits no
core. -/
def coreCharges (s : State) (k : Nat) : Option (List (Nat × Nat × Nat) × List (Nat × Nat)) :=
  let used := allMedia (chargesBut s k)
  let die := mediaDie s k
  let peak := ctxPeak s k
  let (w, h, chroma) := codedSize s k
  let b := binding s k
  let scaled :=
    if scalerOn s k then placeJobs s die [mkScaler] used [(0, [weighted (w * h) chroma * peak])] else some ([], [])
  match scaled with
  | none => none
  | some sc =>
    let rest :=
      if b = 0xF001 ∨ b = 0xF002 then
        let jobs := (columnWidths (b = 0xF001) w (ctxReg s k 0x21)).map fun cw =>
          let (e, p) := encodeJob s k cw h chroma
          [e * peak, p * peak]
        placeJobs s die [mkEstimator, mkEncode] used (orderJobs jobs)
      else if isService b then
        let n := decodeGang s (w * h) chroma peak
        if (if b = 0xF013 then 1 else 8) < n then none
        else placeJobs s die [mkDecode] used (orderJobs ((decodeJobs (w * h) chroma n).map fun c => [c * peak]))
      else
        match (ctxInfo s k).map (·.cost.motion) with
        | some m => if m = 0 then some ([], []) else (placeJobs s die [mkEstimator] used [(0, [ceilDiv m 8 * peak])]).map fun l => (l.1, [])
        | none => some ([], [])
    rest.map fun l => (sc.1 ++ l.1, l.2)

/-- The receivers of a flow that are in use: (index, its 32 bytes). -/
def flowReceivers (s : State) (f : Nat) : List (Nat × List Byte) :=
  ((List.range 64).map fun r => (r, getBlob s (flowIndex f) (0x0C + r))).filter fun e => numAt e.2 0 1 != 0

/-- The flows a context names. -/
def ctxFlows (s : State) (k : Nat) : List Nat := ([0x2E, 0x2F, 0x30, 0x31].map (ctxReg s k)).filter (· != 0xFFFF)

/-- R345: the wire bits per second of one receiver of flow `f` of context `k`. -/
def flowRate (s : State) (k f : Nat) : Nat :=
  let size := Nat.max 1 (getReg s (flowIndex f) 0x02)
  let frame := if getReg s (flowIndex f) 0x03 = 0 then outputLen s k / 2 * ctxReg s k 0x0B / 8 else outputLen s k
  let per := if getReg s (flowIndex f) 0x03 = 0 then 86 else 70
  8 * (frame + per * ceilDiv frame size) * ctxPeak s k * 3000000000 / period s

/-- R342: the wire bits per second of a leg, from the input bytes of a frame. -/
def legRate (s : State) (k : Nat) : Nat := 8 * (inputLen s k + 70 * ceilDiv (inputLen s k) 1200) * ctxPeak s k * 3000000000 / period s

/-- R350: bytes that a rate needs in 100 µs, rounded up to 64 KiB. -/
def stagingFor (rate : Nat) : Nat := alignUp 65536 (ceilDiv (rate / 8) 10000)

/-- R345, R350: the pool reserves and port rates of a context. -/
def poolCharges (s : State) (k : Nat) : List (Nat × Nat × Nat) :=
  let legs := if ctxReg s k 0x26 = 1 then ([0, 1].map (legPort s k)).filter (· != 0xFF) else []
  let ingest := legs.map fun p => (mkStaging, mediaDieOfPort p, stagingFor (legRate s k))
  let sends := (ctxFlows s k).flatMap fun f =>
    ((flowReceivers s f).filter fun e => numAt e.2 0 1 == 1).map fun e => (numAt e.2 1 1, flowRate s k f)
  ingest
  ++ (sends.map fun p => (mkPort, p.1, p.2))
  ++ (sends.map fun p => (mkStaging, mediaDieOfPort p.1, stagingFor p.2))
  ++ [(mkStore, 0, (inputLen s k + outputLen s k) * ctxPeak s k)]

/-- R50: what the declared cost of a context's class charges at its peak. -/
def packageCharge (s : State) (k : Nat) : Charge := timesCharge (costCharge (((ctxInfo s k).map (·.cost)).getD {})) (ctxPeak s k)

/-- R49, R50: the peak charge of a context; none when its tile jobs fit no core (R315). -/
def peakCharge (s : State) (k : Nat) : Option Charge :=
  (coreCharges s k).map fun m => { packageCharge s k with media := m.1 ++ poolCharges s k, jobs := m.2 }

/-! ### Home dies (R31, R163) -/

/-- The declared tile work committed to a die: its running contexts and issued work. -/
def dieLoad (s : State) (d : Nat) : Nat :=
  ((s.ctxs.filter fun e => runningState (ctxState s e.1) && ctxReg s e.1 0x38 == d).map fun e => e.2.charge.tile).foldl (· + ·) 0 +
  ((s.works.filter fun w => w.die == d && match w.id with
    | .job _ _ _ => true
    | .frame _ _ => false).map fun w =>
      (((pkgOf s w.slot).bind fun p => classOf p w.cls).map (·.cost.tile)).getD 0).foldl (· + ·) 0

/-- R31: uncommitted active-tile capacity of a die. -/
def dieRoom (s : State) (d : Nat) : Int :=
  ((((List.range 48).filter fun i => tileUsable s (48 * d + i)).length * 4096 * 1050000000 * period s / 3000000000 : Nat) : Int)
    - (dieLoad s d : Nat)

/-- R31: the die with most room among some, ties to the lower number. -/
def roomiest (s : State) : List Nat → Option Nat
  | [] => none
  | d :: r => some (r.foldl (fun b x => if dieRoom s b < dieRoom s x then x else b) d)

/-- R31: the home die of a stream of a service, which needs no window. -/
def serviceDie (s : State) : Nat := (roomiest s ((List.range 8).filter fun d => s.ctl.recovering != some d)).getD 0

/-- R31, R163: the die with most room among those where package `slot` has or can get a window, ties to the lower number. -/
def homeDie (s : State) (slot : Nat) : Option Nat :=
  roomiest s ((List.range 8).filter fun d => (placeWindow s d slot).isSome && s.ctl.recovering != some d)

end Sys2Proof.Machine
end

