-- ==== Sys2Proof/Machine/Work.lean ====
section
/-! DEFINITION. Work from acceptance to issue: scorebook entries of frames, input frames in order, the buffers a frame or job slice
is bound to, and the issue of frames that are due (R43 to R47, R150, R223, R263, R343, R344, R350, R424, R428, R431, R434). -/
namespace Sys2Proof.Machine
open Sys2Proof

/-! ### Frame entries (R428, R430, R431) -/

def putFrame (s : State) (f : FrameEntry) : State :=
  { s with frames := s.frames.map fun x => if x.ctx = f.ctx ∧ x.j = f.j then f else x }

/-- R431: the entry (j mod 256) of a context is free. -/
def entryFree (s : State) (k j : Nat) : Bool := s.frames.all fun f => f.ctx != k || f.j % 256 != j % 256

/-- R424, R427: frame j of a context is entered as accepted. -/
def acceptFrame (s : State) (k j : Nat) : State := { s with frames := s.frames ++ [{ ctx := k, j, state := 1 }] }

/-- R442: an entry in a state does not count before the peer has acknowledged it with its bytes. -/
def mirrorWaits (s : State) (work : WorkId) (st : Nat) : Bool :=
  s.fabric.toMirror.any fun i => match i with
    | .entry w x _ => w == work && x == st
    | .input w _ => st == 1 && w == work
    | .stateRegion _ _ _ _ => false
    | .object _ _ _ => false
    | .package _ _ => false

/-- A frame entry changes its state. -/
def setFrameState (s : State) (k j st : Nat) : State :=
  match findFrame s k j with
  | some f => toMirror (putFrame s { f with state := st }) (.entry (.frame k j) st 0)
  | none => s

/-- R428, R431: a frame in state 4 frees its entry and its buffers. -/
def freeFrame (s : State) (k j : Nat) : State :=
  let s := match (findFrame s k j).bind (·.alloc) with
    | some b => releaseRange s b
    | none => s
  let s := toMirror s (.entry (.frame k j) 4 0)
  { s with frames := s.frames.filter fun f => !(f.ctx == k && f.j == j) }

/-! ### Inputs (R45, R268, R344, R431) -/

/-- Does a context take inputs of its own: state 3, or halted work aside (R252, R268). -/
def takesInput (s : State) (k : Nat) : Bool := ctxState s k == 3

/-- R424, R431: a complete input frame is accepted under the next number, or discarded and counted in .3D. -/
def acceptInput (s : State) (k : Nat) (bytes : List Byte) (stamp : Nat) (loss repeated : Bool) : State :=
  let c := ctxOf s k
  let j := c.nextIn
  if !takesInput s k ∨ !entryFree s k j then addReg s (ctxIndex k) 0x3D 1
  else
    let f : InFrame := { j, bytes, complete := true, tick := counterOf s, first := s.clk.now, stamp, loss, repeated }
    let s := putCtx s k { c with inputs := c.inputs ++ [f], nextIn := j + 1, prevInput := bytes, prevStamp := stamp }
    toMirror (toMirror (acceptFrame s k j) (.input (.frame k j) bytes)) (.entry (.frame k j) 1 0)

/-! ### Buffers (R150, R263, R272) -/

/-- Regions laid one after another, 4 KiB aligned (R166), from an offset: (declaration, offset), and the end. -/
def layout : Nat → List RegionDecl → List (RegionDecl × Nat) × Nat
  | o, [] => ([], o)
  | o, d :: r => let (l, e) := layout (alignUp 4096 (o + d.len)) r; ((d, o) :: l, e)

/-- Insertion by region number. -/
def insertDecl (d : RegionDecl) : List RegionDecl → List RegionDecl
  | [] => [d]
  | x :: r => if d.num < x.num then d :: x :: r else x :: insertDecl d r

/-- A class's declarations of some sources in ascending region number. -/
def declsOf (c : ClassInfo) (srcs : List Nat) : List RegionDecl :=
  (c.regions.filter fun r => srcs.contains r.source).foldr insertDecl []

/-- Bytes spread over regions in ascending number, each filled to its length with zeros (log 24). -/
def spread (m : Memory) : List (RegionDecl × Nat) → Nat → List Byte → Memory
  | [], _, _ => m
  | (d, o) :: r, base, bs => spread (m.write (base + o) (padTo d.len (bs.take d.len))) r base (bs.drop d.len)

/-- A region bound at a base. -/
def boundAt (d : RegionDecl) (base : Nat) : Region := ⟨d.num, base, d.len, d.right != 0, d.source⟩

/-- R434: the buffer that frame j writes of a state region. -/
def stateBase (c : Ctx) (j num : Nat) : Nat :=
  match c.stateBufs.find? fun b => b.1 == num with
  | some (_, b0, b1) => if j % 2 = 0 then b0 else b1
  | none => 0

/-- The regions of a class for one frame: `base` holds the frame's own buffers as `laid` has them. -/
def bindRegions (s : State) (p : Pkg) (c : ClassInfo) (id : WorkId) (laid : List (RegionDecl × Nat)) (base : Nat) : List Region :=
  c.regions.map fun d =>
    if d.source = 1 then boundAt d (p.copy + d.sect)
    else if d.source = 4 then
      match id with
      | .frame k j => boundAt d (stateBase (ctxOf s k) j d.num)
      | .job _ _ _ => boundAt d 0
    else if d.source = 6 then
      match id with
      | .frame k j => boundAt d (upstreamBase s k j)
      | .job _ _ _ => boundAt d 0
    else boundAt d (base + ((laid.find? fun l => l.1.num == d.num).map (·.2)).getD 0)

/-- R263, R318: the work's own buffers on its home die's stacks (R31), outputs first: input written (or kept for the scaler), scratch zeroed, all regions bound; none
when memory lacks. -/
def bindWork (s : State) (p : Pkg) (c : ClassInfo) (w : Work) (input : List Byte) (scaled : Bool) : Option State :=
  let (laid, n) := layout 0 (declsOf c [3] ++ declsOf c [2] ++ declsOf c [5])
  let top := alignUp 4096 n
  match reserveOn s (top + Nat.max input.length 1) (4096 + 1 + w.slot) w.die with
  | none => none
  | some (base, s) =>
    let ins := laid.filter fun l => l.1.source == 2
    let m := if scaled then s.mem.write (base + top) input else spread s.mem ins base input
    let m := (laid.filter fun l => l.1.source == 5).foldl (fun m l => Memory.zero m (base + l.2) l.1.len) m
    let w := { w with regions := bindRegions s p c w.id laid base, inLen := input.length, alloc := some base
                      raw := if scaled then some (base + top, input.length) else none
                      inBase := base + ((ins.map (·.2)).headD 0) }
    some (addWork { s with mem := m } w)

/-- The work of a context bound to a service: region 0 its input, region 1 its output (log 20). -/
def bindService (s : State) (k : Nat) (w : Work) (input : List Byte) (scaled : Bool) : Option State :=
  let (cw, ch, chroma) := codedSize s k
  let n := alignUp 4096 (Nat.max 1 (if scaled then 2 * pictureSamples cw ch chroma else input.length))
  let top := n + alignUp 4096 (outputLen s k)
  match reserveOn s (top + input.length) (4096 + 1 + w.slot) w.die with
  | none => none
  | some (base, s) =>
    let m := Memory.write s.mem (if scaled then base + top else base) input
    some (addWork { s with mem := m }
      { w with regions := [⟨0, base, if scaled then n else input.length, false, 2⟩, ⟨1, base + n, outputLen s k, true, 3⟩]
               raw := if scaled then some (base + top, input.length) else none
               inBase := base, inLen := input.length, alloc := some base })

/-! ### Issue of frames (R43, R45, R47, R223, R344) -/

/-- The tile jobs of one picture of a service (R302). -/
def serviceTiles (s : State) (k : Nat) : Nat :=
  if binding s k = 0xF001 ∨ binding s k = 0xF002 then ctxReg s k 0x21
  else ((ctxOf s k).charge.media.filter fun m => m.1 == mkDecode).length

/-- The tick at which frame j of a context is due (R47), its first frame due at its start tick. -/
def dueTick (s : State) (k j : Nat) : Nat :=
  let c := ctxOf s k
  let (n, d) := ctxRate s k
  c.startTick + cadenceRound n d (period s) (j - c.firstJ)

/-- R306, R307: does a context's work need motion vectors before its parts: an OLV encode whose package uses an estimator. -/
def needsMotion (s : State) (k : Nat) : Bool :=
  !isService (binding s k) && ctxKind s k == 1 && ((ctxInfo s k).map (·.cost.motion)).getD 0 != 0

/-- R279, R281, R282, R296: does a context's work need operands that firmware forms before its parts: an encode on a codec package. -/
def needsForm (s : State) (k : Nat) : Bool := !isService (binding s k) && (ctxKind s k == 1 || ctxKind s k == 3)

/-- R441: work of a package whose copy was destroyed ends with ST_MEMORY_LOST. -/
def lostResult (s : State) (slot : Nat) : Option Nat := if ((pkgOf s slot).map (·.lost)) = some true then some stMemoryLost else none

/-- Frame j of a context, with its input, becomes a work issued at this tick. -/
def issueFrame (s : State) (k : Nat) (f : InFrame) (lag : Nat) : Option State :=
  let w : Work :=
    { id := .frame k f.j, slot := binding s k, cls := (ctxOf s k).cls, prio := ctxReg s k 0x0D, seed := wrap64 (ctxReg s k 0x0E + f.j)
      issued := counterOf s, lag, die := ctxReg s k 0x38, bank := s.cdf.active, inputLoss := f.loss, repeated := f.repeated, stamp := f.stamp
      searched := !needsForm s k, result := lostResult s (binding s k), newSeq := (ctxOf s k).seqDue
      oldCard := (findFrame s k f.j).bind (·.oldCard), replay := ((findFrame s k f.j).bind (·.oldCard)).isSome }
  let bound :=
    if isService w.slot then bindService s k { w with aim := serviceTiles s k } f.bytes (scalerOn s k)
    else match pkgOf s w.slot with
      | some p => (classOf p w.cls).bind fun c => bindWork s p c w f.bytes (scalerOn s k)
      | none => none
  bound.map fun s =>
    let c := ctxOf s k
    let s := putCtx s k { c with inputs := c.inputs.filter fun x => x.j != f.j, seqDue := false }
    let s := setReg s (ctxIndex k) 0x39 (f.j + 1)
    let s := match findFrame s k f.j with
      | some e => putFrame s { e with alloc := (findWork s (.frame k f.j)).bind (·.alloc) }
      | none => s
    setFrameState s k f.j 2

/-- R344, R442: the due frame becomes a copy of the previous input, under that input's timestamp (R338; log 51). -/
def repeatDue (s : State) (k j due : Nat) : State :=
  let c := ctxOf s k
  let arriving := c.inputs.any (fun f => decide (j ≤ f.j)) || !c.packets.isEmpty
  if ctxReg s k 0x26 = 1 ∧ due = counterOf s ∧ c.lastLate ∧ !arriving ∧ c.nextIn = j ∧ j ≠ c.firstJ ∧ entryFree s k j then
    let s := addReg s (ctxIndex k) 0x3F 1
    let f : InFrame :=
      { j, bytes := c.prevInput, complete := true, tick := counterOf s - 1, first := s.clk.now, stamp := c.prevStamp, repeated := true }
    let s := acceptFrame (putCtx s k { c with inputs := c.inputs ++ [f], nextIn := j + 1 }) k j
    toMirror (toMirror s (.input (.frame k j) f.bytes)) (.entry (.frame k j) 1 0)
  else s

/-- R45, R271: the input with which frame j may be issued now. -/
def readyInput (s : State) (k j : Nat) : Option InFrame :=
  let src := ctxReg s k 0x26
  if src = 0 then (if entryFree s k j then some { j, bytes := [], complete := true } else none)
  else if src = 4 then
    let u := ctxReg s k 0x27
    if decide (j < ctxReg s u 0x39) && entryFree s k j then some { j, bytes := [], complete := true } else none
  else (ctxOf s k).inputs.find? fun f => f.j == j && f.complete && !f.waits && decide (f.tick < counterOf s) && !mirrorWaits s (.frame k j) 1

/-- One frame of a context, if one is due and ready. -/
def issueOne (s : State) (k : Nat) : Option State :=
  let j := ctxReg s k 0x39
  let due := if ctxReg s k 0x26 = 4 then counterOf s else dueTick s k j
  if ctxState s k ≠ 3 ∨ counterOf s < due then none
  else
    let s := repeatDue s k j due
    match readyInput s k j with
    | none => none
    | some f =>
      let lag := if ctxReg s k 0x26 = 4 then 0 else counterOf s - due
      let s := if (findFrame s k j).isSome then s else toMirror (acceptFrame s k j) (.entry (.frame k j) 1 0)
      (issueFrame s k f lag).map fun s =>
        let s := putCtx s k { ctxOf s k with lastLate := lag != 0 }
        if lag = 0 then s else addReg s 0x2100 0x07 1

/-- Every frame of a context that is due, in ascending j. -/
def issueCtx : Nat → State → Nat → State
  | 0, s, _ => s
  | fuel + 1, s, k =>
    match issueOne s k with
    | some s => issueCtx fuel s k
    | none => s

/-- Insertion of a context so that an upstream context stands before its downstream ones, else by number. -/
def chainDepth (s : State) : Nat → Nat → Nat
  | 0, _ => 0
  | fuel + 1, k => if ctxReg s k 0x26 = 4 then chainDepth s fuel (ctxReg s k 0x27) + 1 else 0

/-- R52 step 2, R271: the frames due in the round that begins now, of every context, upstream contexts first. -/
def issueDue (s : State) : State :=
  (List.range 4).foldl (fun s d =>
    ((s.ctxs.map (·.1)).filter fun k => chainDepth s 4 k == d).foldl (fun s k => issueCtx 256 s k) s) s

end Sys2Proof.Machine
end

