-- ==== Sys2Proof/Machine/Profiles.lean ====
section
/-! DEFINITION. What a start checks of a context's own settings: the kind against source and destinations (R269, R271, R345), the
sizes (R260, R318), the profiles and levels (R273, R297, R300, R301, R391) and the options that strict mode forbids (R233). -/
namespace Sys2Proof.Machine
open Sys2Proof

/-! ### What a context takes and gives -/

/-- R336: the payload format (code of .2A) of what a context's kind takes from a network; none where no payload carries it. -/
def inputFormat (s : State) (k : Nat) : Option Nat :=
  let b := binding s k
  if b = 0xF011 then some 3
  else if b = 0xF012 then some 4
  else if b = 0xF013 then some 5
  else
    let kind := ctxKind s k
    if kind = 1 ∨ kind = 5 then some 0 else if kind = 3 then some 1 else if kind = 2 ∨ kind = 4 then some 2 else none

/-- R336: the payload format of what a context gives out; none for an analysis result. -/
def outputFormat (s : State) (k : Nat) : Option Nat :=
  let b := binding s k
  if b = 0xF001 then some 3
  else if b = 0xF002 then some 4
  else if isService b then some 0
  else
    let kind := ctxKind s k
    if kind = 1 ∨ kind = 3 then some 2 else if kind = 2 then some 0 else if kind = 4 then some 1 else none

/-- R391: the range of a source number for its kind, and the upstream kinds of R271 and R318. -/
def sourceOk (s : State) (k : Nat) : Bool :=
  let src := ctxReg s k 0x26
  let n := ctxReg s k 0x27
  if src = 1 then inputFormat s k == some (ctxReg s k 0x2A) && (legPort s k 0 != 0xFF || legPort s k 1 != 0xFF)
  else if src = 2 then decide (n ≤ 63) && (getReg s (streamRingIndex n) 0x01 == 0)
  else if src = 4 then
    decide (n < 16384) && ctxKind s n == 2 && (ctxKind s k == 5 || (ctxKind s k == 1 && scalerOn s k))
  else decide (src ≤ 3)

/-- The IP receivers of a context's flows carry its output's payload format. -/
def flowsOk (s : State) (k : Nat) : Bool :=
  (ctxFlows s k).all fun f =>
    (flowReceivers s f).all fun r => numAt r.2 0 1 != 1 || outputFormat s k == some (getReg s (flowIndex f) 0x03)

/-- R269, second check. -/
def kindOk (s : State) (k : Nat) : Bool :=
  decide (1 ≤ ctxKind s k) && decide (ctxKind s k ≤ 5) && sourceOk s k && flowsOk s k

/-- A flow that the context names serves another context in states 2 … 5 or 7 (R391). -/
def flowTaken (s : State) (k : Nat) : Bool :=
  (ctxFlows s k).any fun f => (runningCtxs s).any fun o => o != k && (ctxFlows s o).contains f

/-- R271: what a chained context asks of its upstream context. -/
def chainOk (s : State) (k : Nat) : Bool :=
  ctxReg s k 0x26 != 4 ||
    (let u := ctxReg s k 0x27
     ctxState s u == 3 && decide (chainDepth s 8 k ≤ 3) &&
     decide (((runningCtxs s).filter fun o => o != k && ctxReg s o 0x26 == 4 && ctxReg s o 0x27 == u).length < 8))

/-! ### Sizes and the scaler (R260, R318, R320) -/

/-- R318: an axis ratio within 1/8 … 8. -/
def ratioOk (a b : Nat) : Bool := decide (a ≤ 8 * b) && decide (b ≤ 8 * a)

/-- R318, R320: the status that the scaler's settings refuse a start with. -/
def scalerRefused (s : State) (k : Nat) : Option Nat :=
  if !scalerOn s k then none
  else
    let b := scalerBlob s k
    let (l, t, w, h) := (numAt b 0 2, numAt b 2 2, numAt b 4 2, numAt b 6 2)
    let (ow, oh) := (numAt b 8 2, numAt b 10 2)
    let turned := numAt b 13 1 % 2 == 1
    let (rw, rh) := if turned then (h, w) else (w, h)
    let set := numAt b 16 1
    firstStatus
      [refuseIf (decide (l + w > ctxReg s k 0x06) || decide (t + h > ctxReg s k 0x07)) stBadDescriptor,
       refuseIf (!ratioOk rw ow || !ratioOk rh oh) stScaleRange,
       refuseIf ([ctxReg s k 0x06, w, ow].any (fun n => decide (n < 16) || decide (n > 7680))
         || [ctxReg s k 0x07, h, oh].any (fun n => decide (n < 16) || decide (n > 4320)) || [l, t, w, h].any (· % 2 != 0)) stProfileLimit,
       refuseIf (decide (numAt b 12 1 > 1) || decide (numAt b 13 1 > 3) || decide (numAt b 14 1 > 2)
         || (numAt b 15 1 != 8 && numAt b 15 1 != 10) || decide (set > 7) || ctxKind s k != 1) stProfileLimit,
       refuseIf (set != 0 && (nget s.media.filters set).isNone) stEmptySlot]

/-- R269, third check. -/
def classRefused (s : State) (k : Nat) : Option Nat :=
  let zero := !isAudio (ctxKind s k) && (ctxReg s k 0x06 == 0 || ctxReg s k 0x07 == 0)
  let ring := (ctxFlows s k).any fun f => (flowReceivers s f).any fun r =>
    numAt r.2 0 1 == 3 && decide (getReg s (streamRingIndex (numAt r.2 8 2)) 0x05 < outputLen s k)
  firstStatus
    [refuseIf zero stBadDescriptor,
     refuseIf (!isService (binding s k) && (ctxInfo s k).isNone) stNoCostClass,
     refuseIf ring stBadDescriptor,
     scalerRefused s k]

/-! ### Profiles (R273, R296, R297, R301, R391) -/

/-- The top of the range of quantiser indices and the starting index. -/
def qiTop (s : State) (k : Nat) : Nat :=
  let b := binding s k
  if b = 0xF001 ∨ b = 0xF011 then 51 else if b = 0xF002 ∨ b = 0xF012 then 255 else 63
def qiStart (s : State) (k : Nat) : Nat := if binding s k = 0xF001 then 26 else if binding s k = 0xF002 then 128 else 32

/-- The settings qi_min, qi_max and qi_init in force (R391). -/
def qiMin (s : State) (k : Nat) : Nat := ctxReg s k 0x11
def qiMax (s : State) (k : Nat) : Nat := if ctxReg s k 0x12 = 0xFFFF then qiTop s k else ctxReg s k 0x12
def qiInit (s : State) (k : Nat) : Nat := if ctxReg s k 0x13 = 0xFFFF then qiStart s k else ctxReg s k 0x13

def qiOk (s : State) (k : Nat) : Bool :=
  decide (ctxReg s k 0x11 ≤ qiTop s k) && decide (qiMax s k ≤ qiTop s k) && decide (qiInit s k ≤ qiTop s k)

/-- The frame rate is at most `n` per second. -/
def rateAtMost (s : State) (k n : Nat) : Bool := let (a, b) := ctxRate s k; decide (a ≤ n * b)

/-- The bit depth of the pictures a context codes. -/
def codedDepth (s : State) (k : Nat) : Nat := if scalerOn s k then numAt (scalerBlob s k) 15 1 else ctxReg s k 0x0B

/-- R273: OLV Main and OLV Lite. -/
def olvOk (s : State) (k : Nat) (lite : Bool) : Bool :=
  let (w, h, chroma) := codedSize s k
  let depth := codedDepth s k
  let enc := ctxKind s k == 1
  decide (16 ≤ w) && decide (16 ≤ h) && w % 2 == 0 && h % 2 == 0
  && (if lite then decide (w ≤ 1920) && decide (h ≤ 1080) && rateAtMost s k 30 && chroma == 0
        && (depth == 8 || depth == 10)
      else decide (w ≤ 7680) && decide (h ≤ 4320) && rateAtMost s k 120 && decide (chroma ≤ 1) && depth == 10)
  && (!enc || (decide (1 ≤ ctxReg s k 0x1B) && decide (ctxReg s k 0x1B ≤ if lite then 1 else 4)
        && decide (ctxReg s k 0x17 ≤ 256) && qiOk s k && decide (ctxReg s k 0x24 ≤ 255)))

/-- The channel pairs of an audio context. -/
def channelPairs (s : State) (k : Nat) : Nat := (ctxReg s k 0x0C + 1) / 2

/-- R273: OLA Main. -/
def olaOk (s : State) (k : Nat) : Bool :=
  let rt := ctxReg s k 0x0F
  decide (1 ≤ ctxReg s k 0x0C) && decide (ctxReg s k 0x0C ≤ 8)
  && (ctxKind s k != 3 || (decide (6000 * channelPairs s k ≤ rt) && decide (rt ≤ 256000 * channelPairs s k)
        && decide (ctxReg s k 0x17 ≤ 256) && qiOk s k))

/-- The published limits of a level: its number × 10, luma samples of a picture and per second, kbit/s of the two tiers, tile columns, width
and height. -/
structure Level where
  no   : Nat
  size : Nat
  rate : Nat
  main : Nat
  high : Nat
  cols : Nat
  w    : Nat
  h    : Nat
deriving DecidableEq, Repr

/-- The levels of HEVC (ITU-T H.265 Annex A); a side is at most the root of eight pictures' samples. -/
def hevcLevels : List Level :=
  [⟨10, 36864, 552960, 128, 128, 1, 543, 543⟩, ⟨20, 122880, 3686400, 1500, 1500, 1, 991, 991⟩,
   ⟨21, 245760, 7372800, 3000, 3000, 1, 1402, 1402⟩, ⟨30, 552960, 16588800, 6000, 6000, 2, 2103, 2103⟩,
   ⟨31, 983040, 33177600, 10000, 10000, 3, 2804, 2804⟩, ⟨40, 2228224, 66846720, 12000, 30000, 5, 4222, 4222⟩,
   ⟨41, 2228224, 133693440, 20000, 50000, 5, 4222, 4222⟩, ⟨50, 8912896, 267386880, 25000, 100000, 10, 8444, 8444⟩,
   ⟨51, 8912896, 534773760, 40000, 160000, 10, 8444, 8444⟩, ⟨52, 8912896, 1069547520, 60000, 240000, 10, 8444, 8444⟩,
   ⟨60, 35651584, 1069547520, 60000, 240000, 20, 16888, 16888⟩, ⟨61, 35651584, 2139095040, 120000, 480000, 20, 16888, 16888⟩]

/-- The levels of AV1 (AV1 specification, Annex A). -/
def av1Levels : List Level :=
  [⟨20, 147456, 4423680, 1500, 1500, 4, 2048, 1152⟩, ⟨21, 278784, 8363520, 3000, 3000, 4, 2816, 1584⟩,
   ⟨30, 665856, 19975680, 6000, 6000, 6, 4352, 2448⟩, ⟨31, 1065024, 31950720, 10000, 10000, 6, 5504, 3096⟩,
   ⟨40, 2359296, 70778880, 12000, 30000, 8, 6144, 3456⟩, ⟨41, 2359296, 141557760, 20000, 50000, 8, 6144, 3456⟩,
   ⟨50, 8912896, 267386880, 30000, 100000, 8, 8192, 4352⟩, ⟨51, 8912896, 534773760, 40000, 160000, 8, 8192, 4352⟩,
   ⟨52, 8912896, 1069547520, 60000, 240000, 8, 8192, 4352⟩, ⟨53, 8912896, 1069547520, 60000, 240000, 8, 8192, 4352⟩,
   ⟨60, 35651584, 1069547520, 60000, 240000, 16, 16384, 8704⟩, ⟨61, 35651584, 2139095040, 100000, 480000, 16, 16384, 8704⟩]

/-- R297, R301: the level set in .1F is one that the standard has and that the cores reach (on one core, or ganged over tile columns), and
size, rate, tile columns and bit rate lie within it and the tier set in .20; the bit-rate factor of HEVC Main 4:2:2 10 is 5/3. -/
def levelOk (s : State) (k w h chroma : Nat) (hevc : Bool) : Bool :=
  let cols := ctxReg s k 0x21
  let top := if 1 < cols then 61 else if hevc then 52 else 53
  match (if hevc then hevcLevels else av1Levels).find? fun l => l.no == ctxReg s k 0x1F with
  | some l =>
    let (n, d) := ctxRate s k
    let wide := ctxReg s k 0x1E = 2 ∨ (ctxReg s k 0x1E = 0xFF ∧ 0 < chroma)
    decide (l.no ≤ top) && decide (w * h ≤ l.size) && decide (w ≤ l.w) && decide (h ≤ l.h) && decide (w * h * n ≤ l.rate * d)
    && decide (cols ≤ l.cols) && decide (ctxReg s k 0x20 ≤ 1)
    && decide (ctxReg s k 0x0F ≤ (if hevc ∧ wide then 1667 else 1000) * if ctxReg s k 0x20 = 0 then l.main else l.high)
  | none => false

/-- R391: does the profile in .1E admit a chroma format and bit depth. -/
def profileOk (s : State) (k chroma depth : Nat) (hevc : Bool) : Bool :=
  let p := ctxReg s k 0x1E
  let any := decide (chroma ≤ 2) && (depth == 8 || depth == 10)
  if hevc then
    any && (p == 0xFF || (p == 0 && chroma == 0 && depth == 8) || (p == 1 && chroma == 0) || p == 2)
  else any && (p == 0xFF || p == 0) && chroma != 1

/-- R301: the settings of a block encode. -/
def encodeOk (s : State) (k : Nat) : Bool :=
  let (w, h, chroma) := codedSize s k
  let depth := codedDepth s k
  let hevc := binding s k == 0xF001
  let cols := ctxReg s k 0x21
  decide (64 ≤ w) && decide (w ≤ 7680) && decide (64 ≤ h) && decide (h ≤ 4320) && w % 2 == 0 && h % 2 == 0
  && profileOk s k chroma depth hevc && levelOk s k w h chroma hevc
  && decide (1 ≤ cols) && decide (cols ≤ 6) && (columnWidths hevc w cols).all (fun c => cols == 1 || decide (256 ≤ c))
  && decide (ctxReg s k 0x22 ≤ 1) && decide (ctxReg s k 0x17 ≤ 256) && qiOk s k
  && decide (1 ≤ ctxReg s k 0x15) && decide (ctxReg s k 0x15 ≤ 8) && decide (16 ≤ ctxReg s k 0x16) && decide (ctxReg s k 0x16 ≤ 255)
  && decide (1 ≤ ctxReg s k 0x1B) && decide (ctxReg s k 0x1B ≤ 4)

/-- R297: a block decode: chroma and bit depth of the standard's profiles, and a size and rate within the highest level of R297 (for H.264
level 5.2, in macroblocks). -/
def blockDecodeOk (s : State) (k : Nat) : Bool :=
  let w := ctxReg s k 0x06
  let h := ctxReg s k 0x07
  let b := binding s k
  let (n, d) := ctxRate s k
  decide (w ≤ 7680) && decide (h ≤ 4320) && decide (ctxReg s k 0x0A ≤ 2) && (b == 0xF011 || ctxReg s k 0x0A != 1)
  && (ctxReg s k 0x0B == 8 || ctxReg s k 0x0B == 10)
  && (if b = 0xF013 then
        let mbs := ceilDiv w 16 * ceilDiv h 16
        decide (mbs ≤ 36864) && decide (mbs * n ≤ 2073600 * d) && decide (w ≤ 8688) && decide (h ≤ 8688)
      else decide (w * h * n ≤ 2139095040 * d))

/-- R391: the ranges of the record that hold whatever the context's kind: chroma, bit depth, and the quantiser indices of a service
that has them. -/
def rangesOk (s : State) (k : Nat) : Bool :=
  decide (ctxReg s k 0x0A ≤ 2) && (ctxReg s k 0x0B == 8 || ctxReg s k 0x0B == 10)
  && (ctxKind s k == 5 || binding s k == 0xF013 || qiOk s k)

/-- R273, R301, R391: the context's settings are within its profile. -/
def profileFits (s : State) (k : Nat) : Bool :=
  let b := binding s k
  let kind := ctxKind s k
  rangesOk s k &&
    (if b = 0xF001 ∨ b = 0xF002 then encodeOk s k
     else if isService b then blockDecodeOk s k
     else if kind = 1 ∨ kind = 2 then olvOk s k (((pkgOf s b).map fun p => Config.packageProfile p.id % 2).getD 0 == 1)
     else if kind = 3 ∨ kind = 4 then olaOk s k
     else true)

/-! ### Cadence, mode, strict options -/

/-- R47, R296: the cadence of a start. -/
def cadenceFits (s : State) (k : Nat) : Bool :=
  let u := rateCtx s 4 k
  if isAudio (ctxKind s u) then decide (ceilDiv (48000 * period s) 3000000000 ≤ 2002)
  else let (n, d) := ctxRate s k; cadenceOk n d (period s)

/-- R248, R256: a package's mode field (0 either, 1 requires compatibility mode, 2 forbids it) agrees with #5000.02. -/
def modeFits (s : State) (mode : Nat) : Bool :=
  mode == 0 || (mode == 1) == (inForceReg s 0x5000 0x02 != 0)

/-- R233: an option that strict mode forbids. -/
def strictOption (s : State) (k : Nat) : Bool :=
  strictOn s && (ctxReg s k 0x14 != 0 ||
    ((binding s k == 0xF001 || binding s k == 0xF002) && ctxReg s k 0x23 != 0))

end Sys2Proof.Machine
end

