-- ==== Sys2Proof/Machine/Contexts.lean ====
section
/-! DEFINITION. Stream contexts: binding, the commands of R268, the start checks of R269, switches, timeouts with their snapshots,
resumes and reference requests (R50, R163, R243 to R246, R249, R267 to R271, R285, R288, R291, R294, R312, R342, R347, R391, R409,
R434). -/
namespace Sys2Proof.Machine
open Sys2Proof

def maxCtx : Nat := 16384

/-- .04, the status of a context's last command, and .05, its detail. -/
def setCmdStatus (s : State) (k st : Nat) : State := setReg s (ctxIndex k) 0x04 st
def setDetail (s : State) (k d : Nat) : State := setReg s (ctxIndex k) 0x05 d

/-! ### Binding (R268, R300) -/

/-- A write of a context's binding in states 0 and 1: 0xFFFF unbinds it, any other value binds it. -/
def writeBinding (s : State) (k v : Nat) : State :=
  if 1 < ctxState s k then s
  else
    let s := setCtxState (setReg s (ctxIndex k) 0x01 v) k (if v = 0xFFFF then 0 else 1)
    if (nget s.ctxs k).isSome then s else putCtx s k {}

/-- CONTEXT_BIND (R268). -/
def execContextBind (ctx value : Nat) (s : State) : Host.Outcome State Fault Refusal :=
  whenControlled s fun s => if ctx < maxCtx ∧ value < 0xFFFF then writeBinding s ctx value else s

/-- CONTEXT_UNBIND (R268). -/
def execContextUnbind (ctx : Nat) (s : State) : Host.Outcome State Fault Refusal :=
  whenControlled s fun s => if ctx < maxCtx ∧ ctxState s ctx = 1 then writeBinding s ctx 0xFFFF else s

/-! ### Entering and leaving -/

/-- R391, R393: the flows that a context names get it as their source context, or lose it. -/
def ownFlows (s : State) (k v : Nat) : State :=
  (ctxFlows s k).foldl (fun s f => setReg s (flowIndex f) 0x01 v) s

/-- R342: a context's legs: (port, destination, source). -/
def legsOf (s : State) (k : Nat) : List (Nat × Nat × Nat) :=
  if ctxReg s k 0x26 ≠ 1 then []
  else [0, 1].filterMap fun i =>
    let b := getBlob s (ctxIndex k) (0x28 + i)
    if numAt b 0 1 = 0xFF then none else some (numAt b 0 1, beNat (sliceAt b 8 16), beNat (sliceAt b 24 16))

/-- Is an address (IPv4 in mapped form) a multicast group. -/
def isGroup (a : Nat) : Bool :=
  decide (0xFFFFE0000000 ≤ a) && decide (a < 0xFFFFF0000000) || a / 2 ^ 120 == 0xFF

/-- R335, R355: a port that is enabled and whose link is up; no other sends or counts anything. -/
def portUp (s : State) (p : Nat) : Bool := decide (p < 4) && getReg s (portIndex p) 0x01 == 1 && getReg s (portIndex p) 0x02 == 2

/-- R334: the tag of what a port sends: PCP 4 with the port's VID, or none. -/
def egressTag (s : State) (p : Nat) : Option Nat :=
  let v := getReg s (portIndex p) 0x08
  if v = 0xFFFF then none else some (4 * 8192 + v)

/-- R342: the groups of a context's legs are joined when it starts, and left when it stops: IGMPv3 and MLDv2 reports, with a Router Alert
(R334), on ports that send (R335). -/
def joinLegs (s : State) (k : Nat) : State :=
  (legsOf s k).foldl (fun s l =>
    if isGroup l.2.1 && portUp s l.1 then emit s (.groupJoin l.1 (egressTag s l.1) true l.2.1 l.2.2) else s) s
def leaveLegs (s : State) (k : Nat) : State :=
  (legsOf s k).foldl (fun s l => if isGroup l.2.1 && portUp s l.1 then emit s (.groupLeave l.1 (egressTag s l.1) true l.2.1) else s) s

/-- R434: the state buffers of a context are given back. -/
def dropBuffers (s : State) (k : Nat) : State :=
  (ctxOf s k).stateBufs.foldl (fun s b => releaseRange s b.2.1) s

/-- Frames accepted and not issued go when a context leaves service: their entries are freed. -/
def dropWaiting (s : State) (k : Nat) : State :=
  (ctxOf s k).inputs.foldl (fun s f => if (findFrame s k f.j).isSome then freeFrame s k f.j else s) s

/-- A context leaves states 2 … 5 and 7 for state `st`: the flows, groups and buffers it held are given back; its charge goes at the
next tick (R50). -/
def leaveService (s : State) (k st : Nat) : State :=
  let s := leaveLegs (ownFlows (dropBuffers (dropWaiting s k) k) k 0xFFFF) k
  let s := setReg (setCtxState s k st) (ctxIndex k) 0x38 0xFF
  let c := ctxOf s k
  putCtx s k { c with inputs := [], packets := [], stateBufs := [], release := true, stopDue := false, switchTo := none }

/-- No issued frame of a context is uncommitted. -/
def ctxIdle (s : State) (k : Nat) : Bool :=
  s.works.all fun w => match w.id with
    | .frame c _ => c != k
    | .job _ _ _ => true

/-- R268: a stopping context without an uncommitted frame is stopped. -/
def settleStop (s : State) (k : Nat) : State :=
  if ctxState s k = 4 ∧ ctxIdle s k then leaveService s k 1 else s

/-! ### The commands -/

/-- R409: what a member tells the others of its house rate and its modes. -/
def groupModes (s : State) : Nat :=
  period s * 4 + (if inForceReg s 0x5000 0x01 != 0 then 2 else 0) + if inForceReg s 0x5000 0x02 != 0 then 1 else 0

/-- R409: at a start the members of a span group exchange its blob. -/
def sendBlob (s : State) (k : Nat) : State :=
  match spanGroupOf s k with
  | none => s
  | some (g, ranks) =>
    let me := getReg s 0x4100 0x01
    (ranks.filter (· != me)).foldl (fun s a => emit s (.groupBlob a g (getBlob s 0x4100 (0x12 + g)) (groupModes s))) s

/-- A context enters state 2. -/
def enterStart (s : State) (k : Nat) : State := sendBlob (setCmdStatus (setCtxState s k 2) k stPending) k

/-- A command of a context is pending: its start, its stop, its timeout (one that failed for want of capacity has ended, R391) or its
switch. -/
def cmdPending (s : State) (k : Nat) : Bool :=
  ctxState s k == 2 || (ctxState s k == 5 && (ctxOf s k).failedCap.isNone) || (ctxOf s k).stopDue || (ctxOf s k).switchTo.isSome

/-- CONTEXT_START (R268). -/
def startCtx (s : State) (k : Nat) : State :=
  if cmdPending s k then setCmdStatus s k stPending
  else if ctxState s k ≠ 1 ∨ parked s then setCmdStatus s k stBadState
  else enterStart (putCtx s k { ctxOf s k with fromSnap := false, snap := [] }) k

def execContextStart (ctx : Nat) (s : State) : Host.Outcome State Fault Refusal :=
  whenControlled s fun s => if ctx < maxCtx then startCtx s ctx else s

/-- CONTEXT_STOP (R268). -/
def stopCtx (s : State) (k : Nat) : State :=
  let c := ctxOf s k
  let st := ctxState s k
  if st = 3 ∧ c.switchTo.isSome then setCmdStatus (putCtx s k { c with switchTo := none }) k stCancelled
  else if c.stopDue then setCmdStatus s k stPending
  else if st = 2 then setCmdStatus (setCtxState s k 1) k stCancelled
  else if st = 3 ∨ st = 7 then setCmdStatus (putCtx s k { c with stopDue := true }) k stPending
  else if st = 5 then
    let s := setCmdStatus s k stCancelled
    if ctxIdle s k then leaveService s k 1 else putCtx s k { c with stopDue := true }
  else setCmdStatus s k stBadState

def execContextStop (ctx : Nat) (s : State) : Host.Outcome State Fault Refusal :=
  whenControlled s fun s => if ctx < maxCtx then stopCtx s ctx else s

/-- CONTEXT_TIMEOUT (R243, R391, R446). -/
def timeoutCtx (s : State) (k : Nat) : State :=
  if cmdPending s k then setCmdStatus s k stPending
  else if ctxState s k ≠ 3 then setCmdStatus s k stBadState
  else if ctxReg s k 0x34 = 0 then setCmdStatus s k stBadDescriptor
  else if badRange s (ctxReg s k 0x33) (ctxReg s k 0x34) then setCmdStatus s k stBadAddress
  else setCmdStatus (setCtxState (putCtx s k { ctxOf s k with failedCap := none }) k 5) k stPending

def execContextTimeout (ctx : Nat) (s : State) : Host.Outcome State Fault Refusal :=
  whenControlled s fun s => if ctx < maxCtx then timeoutCtx s ctx else s

/-! ### The rate-control state and the refresh period (R285, R291, R310) -/

/-- R279, R296, R310: the number of bands: pairs of latent rows, channel pairs, or coding rows of every tile. -/
def bandCount (s : State) (k : Nat) : Nat :=
  let (_, h, _) := codedSize s k
  if isAudio (ctxKind s k) then channelPairs s k
  else if isService (binding s k) then ceilDiv h 64 * ctxReg s k 0x21
  else 2 * ceilDiv h 64

/-- R270: the slot whose package frame j of a context runs: the one it was issued on, else the one bound now. -/
def frameSlot (s : State) (k j : Nat) : Nat := ((findWork s (.frame k j)).map (·.slot)).getD (binding s k)

/-- The rate-control parameters that a slot's package gives a context. -/
def rcParams (s : State) (k slot : Nat) : Option RcParams :=
  (ctxClass s k).bind fun c => ((pkgOf s slot).bind fun p => classOf p c).bind (·.rc)

/-- R285: the refresh period with a slot's package; 0 is off, for a block service alone. -/
def refreshWith (s : State) (k slot : Nat) : Nat :=
  if isService slot ∨ ctxReg s k 0x17 ≠ 0 then ctxReg s k 0x17 else ((rcParams s k slot).map (·.refresh)).getD 1

/-- R285: the refresh period in force for new frames, and for frame j. -/
def refreshOf (s : State) (k : Nat) : Nat := refreshWith s k (binding s k)
def refreshAt (s : State) (k j : Nat) : Nat := refreshWith s k (frameSlot s k j)

/-- R291: rate control at the start of a stream. -/
def freshRc (s : State) (k : Nat) : RcState :=
  { full := (ctxReg s k 0x10 / 2 : Nat), prevErr := 0, qprev := List.replicate (bandCount s k) (qiInit s k)
    prevbits := List.replicate (bandCount s k) 0 }

/-! ### Snapshots (R244, R245, R294) -/

/-- R301: the settings that decide results, in subindex order, each in its width; a setting that the context's kind ignores is
left as 0. -/
def settingsBytes (s : State) (k : Nat) : List Byte :=
  let block := binding s k == 0xF001 || binding s k == 0xF002
  let enc := ctxKind s k == 1 || ctxKind s k == 3
  let v (sub : Nat) : Nat :=
    if sub = 0x17 then (if enc then refreshOf s k else 0)
    else if sub = 0x15 ∨ sub = 0x16 ∨ sub = 0x19 ∨ (0x1E ≤ sub ∧ sub ≤ 0x23) then (if block then ctxReg s k sub else 0)
    else ctxReg s k sub
  let subs := [0x06, 0x07, 0x08, 0x09, 0x0A, 0x0B, 0x0C, 0x0E, 0x0F, 0x10, 0x11, 0x12, 0x13, 0x14, 0x15, 0x16, 0x17, 0x18, 0x19, 0x1A, 0x1B,
    0x1E, 0x1F, 0x20, 0x21, 0x22, 0x23, 0x24]
  (subs.flatMap fun sub => leBytes (((findObj (ctxIndex k) sub).bind (·.ty.width)).getD 1) (v sub)) ++ scalerBlob s k

/-- The state regions of a class for a snapshot section, ascending. -/
def stateDecls (s : State) (k sect : Nat) : List RegionDecl :=
  ((ctxInfo s k).map fun c => (declsOf c [4]).filter fun d => d.snap == sect).getD []

/-- The bytes of state regions as the next frame reads them (R434). -/
def declBytes (s : State) (k : Nat) (ds : List RegionDecl) : List Byte :=
  ds.flatMap fun d => s.mem.read (stateBase (ctxOf s k) (ctxReg s k 0x39 + 1) d.num) d.len
def stateBytes (s : State) (k sect : Nat) : List Byte := declBytes s k (stateDecls s k sect)

/-- Vectors as pairs of 16-bit components. -/
def vecBytes (vs : List (Int × Int)) : List Byte := vs.flatMap fun v => leBytes 2 (codeOf 16 v.1) ++ leBytes 2 (codeOf 16 v.2)
def vecsOf : List Byte → List (Int × Int)
  | a :: b :: c :: d :: r => (signedOf 16 (leNat [a, b]), signedOf 16 (leNat [c, d])) :: vecsOf r
  | _ => []

/-- R294: section 3. -/
def rcBytes (r : RcState) : List Byte :=
  leBytes 8 (codeOf 64 r.full) ++ leBytes 8 (codeOf 64 r.prevErr) ++ leBytes 2 r.qprev.length ++ leBytes 6 0
    ++ (r.qprev.zip r.prevbits).flatMap fun e => leBytes 4 e.1 ++ leBytes 4 e.2

/-- R294: section 3 read back. -/
def rcOf (bs : List Byte) : RcState :=
  let n := numAt bs 16 2
  { full := signedOf 64 (numAt bs 0 8), prevErr := signedOf 64 (numAt bs 8 8)
    qprev := (List.range n).map fun i => numAt bs (24 + 8 * i) 1, prevbits := (List.range n).map fun i => numAt bs (28 + 8 * i) 4 }

/-- The bytes of one input picture as a package-bound context codes it. -/
def pictureLen (s : State) (k : Nat) : Nat := ((ctxInfo s k).map (regionBytes · 2)).getD 0

/-- R279: the 16 × 16 blocks of a picture. -/
def motionBlocks (s : State) (k : Nat) : Nat := ceilDiv (codedSize s k).1 16 * ceilDiv (codedSize s k).2.1 16

/-- The bytes of one picture that a block service codes or gives out. -/
def serviceLen (s : State) (k : Nat) : Nat := let (w, h, c) := codedSize s k; 2 * pictureSamples w h c

/-- R244: section 1, the reference pictures in the stream's reference order. Of a package: the state regions of the section, then for an OLV
encode the previous input picture and the kept inputs by slot, and for both directions of OLV the previous vectors. Of a block encode: the
previous picture, the one before it where archive search reads it, the previous vectors, and what else its codec keeps. Of a block decode:
whether it is mute, the most recent output picture, and what its codec keeps (log 31). -/
def section1 (s : State) (k : Nat) : List Byte :=
  let c := ctxOf s k
  if isService (binding s k) then
    if ctxKind s k = 1 then
      padTo (serviceLen s k) c.prevPic ++ (if ctxReg s k 0x22 = 1 then padTo (serviceLen s k) c.prevPic2 else [])
        ++ padTo (20 * motionBlocks s k) (vecBytes c.prevVecs) ++ c.codec
    else
      leBytes 2 (c.mute.getD 0) ++ leBytes 1 (if c.noParams then 1 else 0) ++ leBytes 8 c.lastOut.length ++ c.lastOut ++ c.codec
  else stateBytes s k 1 ++
    (if ctxKind s k = 1 then padTo (pictureLen s k) c.prevPic ++ c.ltInputs.flatMap (fun e => padTo (pictureLen s k) e.2) else [])
    ++ (if ctxKind s k = 1 ∨ ctxKind s k = 2 then padTo (4 * motionBlocks s k) (vecBytes c.prevVecs) else [])

/-- Insertion of a number in ascending order. -/
def insertNat (n : Nat) : List Nat → List Nat
  | [] => [n]
  | x :: r => if n < x then n :: x :: r else x :: insertNat n r

/-- R288: the long-term slots of a context that hold a picture, ascending. -/
def heldSlots (s : State) (k : Nat) : List Nat :=
  if ctxKind s k = 1 then (ctxOf s k).ltInputs.map (·.1) else ((ctxOf s k).ltSlots.map (·.1)).foldr insertNat []

/-- R244: the state regions of section 2: of a video codec's package those of the slots that hold a picture, of any other every one. -/
def slotDecls (s : State) (k : Nat) (held : List Nat) : List RegionDecl :=
  let all := stateDecls s k 2
  if ctxKind s k = 1 ∨ ctxKind s k = 2 then (all.zipIdx.filter fun d => held.contains d.2).map (·.1) else all

/-- R244: section 2, the long-term reference slots, empty ones omitted. -/
def section2 (s : State) (k : Nat) : List Byte :=
  if isService (binding s k) then (ctxOf s k).ltInputs.flatMap fun e => padTo (serviceLen s k) e.2
  else declBytes s k (slotDecls s k (heldSlots s k))

/-- R244: the identity of what a context is bound to: package digest, table identifier and version; a service's code and encoder
edition (R300). -/
def boundDigest (s : State) (k : Nat) : List Byte :=
  if isService (binding s k) then padTo 48 (leBytes 2 (binding s k) ++ leBytes 2 (getReg s 0x6100 0x01))
  else ((pkgOf s (binding s k)).map (·.digest)).getD []
def boundTable (s : State) (k : Nat) : Nat × Nat :=
  match pkgOf s (binding s k) with
  | some p => (p.tableId, packageVersion p)
  | none => (0, 0)

/-- The two mode bits as a snapshot and a configuration digest hold them. -/
def modeBits (s : State) : Nat :=
  (if inForceReg s 0x5000 0x01 != 0 then 1 else 0) + if inForceReg s 0x5000 0x02 != 0 then 2 else 0

/-- The refresh phase of frame j (R278, R296, R311). -/
def phaseOf (s : State) (k j : Nat) : Nat :=
  let r := refreshAt s k j
  let ki := ctxReg s k 0x19
  if isService (binding s k) then
    let jk := if ki = 0 then 0 else (j - 1) / ki * ki
    if r = 0 then 0 else (j - jk - 1) % r
  else j % Nat.max r 1

/-- R244: house rate code and free period of an OLA stream; 0xFE and 0 for every other stream. -/
def audioRate (s : State) (k : Nat) : Nat × Nat :=
  if isAudio (ctxKind s k) then (s.clk.rate, if s.clk.rate = 0xFF then s.clk.free else 0) else (0xFE, 0)

/-- Sections laid out from an offset, each at a 64-byte boundary: directory entries and bytes. -/
def placeSections : Nat → List (Nat × List Byte) → List Byte × List Byte
  | _, [] => ([], [])
  | at', (kind, b) :: r =>
    let size := alignUp 64 b.length
    let (d, x) := placeSections (at' + size) r
    (leBytes 4 kind ++ leBytes 4 0 ++ leBytes 4 at' ++ leBytes 4 b.length ++ d, padTo size b ++ x)

/-- R244: section 4: frames coded, bytes emitted (a decoder's bytes read), the phase of the next frame, and what a decoder keeps of
the sequence header in force and of the pictures it decoded (R277, R287, R289). -/
def section4 (s : State) (k : Nat) : List Byte :=
  let c := ctxOf s k
  let j := ctxReg s k 0x39
  leBytes 8 j ++ leBytes 8 c.emitted ++ leBytes 4 (phaseOf s k j) ++ leBytes 2 ((c.seqHeader.map (·.refresh)).getD 0)
    ++ leBytes 1 ((if c.joined then 1 else 0) + (if c.sweeping then 2 else 0)
        + if (c.seqHeader.map (·.restricted)).getD false then 4 else 0)
    ++ leBytes 1 (match c.lastPic with
        | some _ => 1
        | none => 0)
    ++ leBytes 8 (c.lastPic.getD 0) ++ leBytes 2 ((c.seqHeader.map (·.motion)).getD 0) ++ c.ltSlots.flatMap fun e => leBytes 8 e.1

/-- R244: the snapshot of a context before compression. -/
def snapshotBytes (s : State) (k : Nat) : List Byte :=
  let c := ctxOf s k
  let j := ctxReg s k 0x39
  let (id, version) := boundTable s k
  let (code, free) := audioRate s k
  let sections := [(1, section1 s k), (2, section2 s k), (3, rcBytes c.rc), (4, section4 s k), (5, settingsBytes s k)]
  let head := leBytes 4 0x544D4F54 ++ leBytes 2 1 ++ leBytes 1 (modeBits s) ++ leBytes 1 sections.length ++ padTo 48 (boundDigest s k)
    ++ leBytes 4 id ++ leBytes 2 version ++ leBytes 2 0 ++ leBytes 8 j ++ leBytes 8 (ctxReg s k 0x0E)
    ++ leBytes 4 (ctxReg s k 0x08) ++ leBytes 4 (ctxReg s k 0x09) ++ leBytes 1 code ++ leBytes 3 0 ++ leBytes 4 free ++ leBytes 32 0
  let (dir, body) := placeSections (alignUp 64 (128 + 16 * sections.length)) sections
  padTo (alignUp 64 (128 + 16 * sections.length)) (head ++ dir) ++ body

/-- R330, R333: firmware's own work on an engine: charged as class 0, its bytes counted. -/
def firmwareEngine (s : State) (cycles consumed produced : Nat) : State :=
  let s := { s with media := { s.media with firmware := s.media.firmware ++ [cycles] } }
  addReg (addReg s 0x6200 0x03 consumed) 0x6200 0x04 produced

/-- SNAPSHOT_WRITE (R243, R391): once no issued frame is uncommitted the snapshot is compressed and stored; after it did not fit, again
once the capacity is raised. -/
def writeSnapshot (s : State) (k : Nat) : State :=
  let failed := match (ctxOf s k).failedCap with
    | some n => decide (ctxReg s k 0x34 ≤ n)
    | none => false
  if ctxState s k ≠ 5 ∨ !ctxIdle s k ∨ (ctxOf s k).stopDue ∨ failed = true then s
  else
    let raw := snapshotBytes s k
    let z := compress 3 3 23 raw
    let s := firmwareEngine s (ceilDiv (100 * raw.length) (levelRate 3)) raw.length z.length
    if ctxReg s k 0x34 < z.length then
      setCmdStatus (putCtx s k { ctxOf s k with failedCap := some (ctxReg s k 0x34) }) k stOutputOverflow
    else
      let s := putCtx { s with mem := s.mem.write (ctxReg s k 0x33) z } k { ctxOf s k with snapCard := cardOfBytes 0xFFFFFF02 0 (2 ^ 40) z }
      setCmdStatus (leaveService (setReg s (ctxIndex k) 0x37 z.length) k 6) k stOk

def execSnapshotWrite (ctx : Nat) (s : State) : Host.Outcome State Fault Refusal :=
  whenControlled s fun s => writeSnapshot s ctx

/-- One section of a decompressed snapshot. -/
def snapSection (bs : List Byte) (kind : Nat) : List Byte :=
  ((List.range (numAt bs 7 1)).findSome? fun i =>
    let e := 128 + 16 * i
    if numAt bs e 4 = kind then some (sliceAt bs (numAt bs (e + 8) 4) (numAt bs (e + 12) 4)) else none).getD []

/-- R10, R244, R294: every reserved field of a decompressed snapshot is zero. -/
def snapshotReserved (bs : List Byte) : Bool :=
  let three := snapSection bs 3
  decide (numAt bs 6 1 ≤ 3) && numAt bs 62 2 == 0 && numAt bs 89 3 == 0 && numAt bs 96 32 == 0
  && ((List.range (numAt bs 7 1)).all fun i => numAt bs (132 + 16 * i) 4 == 0)
  && numAt three 18 6 == 0 && (List.range (numAt three 16 2)).all fun i => numAt three (25 + 8 * i) 3 == 0

/-- R245: does a decompressed snapshot fit the context. -/
def snapshotFits (s : State) (k : Nat) (bs : List Byte) : Bool :=
  let (code, free) := audioRate s k
  numAt bs 0 4 == 0x544D4F54 && numAt bs 4 2 == 1 && sliceAt bs 8 48 == padTo 48 (boundDigest s k)
  && (isService (binding s k) || numAt bs 56 4 == 0 ||
      (activeSets s).any fun t => t.id == numAt bs 56 4 && t.version == numAt bs 60 2)
  && numAt bs 6 1 == modeBits s && snapSection bs 5 == settingsBytes s k
  && (!isAudio (ctxKind s k) || (numAt bs 88 1 == code && numAt bs 92 4 == free))

/-- CONTEXT_RESUME (R245, R268, R446). -/
def resumeCtx (s : State) (k : Nat) : State :=
  let st := ctxState s k
  let (a, n) := (ctxReg s k 0x35, ctxReg s k 0x36)
  if cmdPending s k then setCmdStatus s k stPending
  else if (st ≠ 1 ∧ st ≠ 6) ∨ parked s then setCmdStatus s k stBadState
  else if n = 0 ∨ badRange s a n then setCmdStatus s k stBadAddress
  else
    let z := decompress 3 (s.mem.read a n) (2 ^ 40)
    let s := firmwareEngine s (ceilDiv z.out.length 4) z.used z.out.length
    if z.dz ≠ 0 then setDetail (setCmdStatus s k stDecompressError) k z.dz
    else if !snapshotReserved z.out then setCmdStatus s k stBadDescriptor
    else if !snapshotFits s k z.out then setCmdStatus s k stSnapshotMismatch
    else enterStart (putCtx s k { ctxOf s k with fromSnap := true, snap := z.out }) k

def execContextResume (ctx : Nat) (s : State) : Host.Outcome State Fault Refusal :=
  whenControlled s fun s => if ctx < maxCtx then resumeCtx s ctx else s

/-! ### The start checks (R269) -/

/-- R409: the status that a context's span group ends a start with: the local address once, and from every other member an
identical blob with equal rates and modes. -/
def groupRefused (s : State) (k : Nat) : Option Nat :=
  match spanGroupOf s k with
  | none => none
  | some (g, ranks) =>
    let me := getReg s 0x4100 0x01
    let mine := getBlob s 0x4100 (0x12 + g)
    let heard (a : Nat) := s.fabric.blobs.find? fun b => b.1 == g && b.2.1 == a
    let others := ranks.filter (· != me)
    firstStatus
      [refuseIf ((ranks.filter (· == me)).length != 1 || others.any fun a => s.fabric.lost.contains a || match heard a with
          | some b => b.2.2.1 != mine
          | none => true) stBadState,
       refuseIf (others.any fun a => match heard a with
          | some b => b.2.2.2 / 4 != period s
          | none => false) stBadCadence,
       refuseIf (others.any fun a => match heard a with
          | some b => b.2.2.2 % 4 != groupModes s % 4
          | none => false) stModeMismatch]

/-- R249: a marked context starts only while the members are paired. -/
def umpireRefused (s : State) (k : Nat) : Bool :=
  ctxReg s k 0x32 != 0 && getReg s 0x5020 0x07 != 2 && getReg s 0x5020 0x07 != 3

/-- The checks of R269 above capacity, in the order of its table. -/
def staticRefused (s : State) (k : Nat) : Option Nat :=
  let b := binding s k
  firstStatus
    [refuseIf (!isService b && (decide (b ≥ 4096) || slotState s b != 3)) stNoPackage,
     refuseIf (flowTaken s k || !chainOk s k) stBadState,
     groupRefused s k,
     refuseIf (umpireRefused s k) stUmpireConfig,
     refuseIf (!kindOk s k) stKindMismatch,
     classRefused s k,
     refuseIf (!cadenceFits s k) stBadCadence,
     refuseIf (!modeFits s (((pkgOf s b).map (·.mode)).getD 0)) stModeMismatch,
     refuseIf (strictOption s k) stStrictForbids,
     refuseIf (!profileFits s k) stProfileLimit]

/-- R434, R263: two buffers for every state region, zeroed; none when they do not fit. -/
def takeBuffers (s : State) (k : Nat) : List RegionDecl → Option State
  | [] => some s
  | d :: r =>
    let n := alignUp 4096 d.len
    match reserveOn s (2 * n) (2 ^ 16 + k) (ctxReg s k 0x38) with
    | none => none
    | some (b, s) =>
      let c := ctxOf s k
      takeBuffers (putCtx { s with mem := s.mem.zero b (2 * n) } k { c with stateBufs := c.stateBufs ++ [(d.num, b, b + n)] }) k r

/-- R263: bytes restored into the buffers that frame j reads, in ascending region number. -/
def restoreState (s : State) (c : Ctx) (j : Nat) : List RegionDecl → List Byte → Memory → Memory
  | [], _, m => m
  | d :: r, bs, m => restoreState s c j r (bs.drop d.len) (m.write (stateBase c (j + 1) d.num) (bs.take d.len))

/-- R244: `n` pictures of `len` bytes for the slots 0 … n − 1. -/
def picturesOf (len : Nat) : Nat → List Byte → NMap (List Byte)
  | 0, _ => []
  | n + 1, bs => picturesOf len n (bs.take (len * n)) ++ [(n, sliceAt bs (len * n) len)]

/-- R244: what a block encode takes from its snapshot's sections 1 and 2. -/
def takeEncoder (s : State) (k : Nat) (one two : List Byte) (c : Ctx) : Ctx :=
  let len := serviceLen s k
  let rest := one.drop len
  let older := if ctxReg s k 0x22 = 1 then len else 0
  let vecs := 20 * motionBlocks s k
  { c with prevPic := one.take len, prevPic2 := rest.take older, prevVecs := vecsOf ((rest.drop older).take vecs)
           codec := rest.drop (older + vecs), ltInputs := picturesOf len (two.length / Nat.max 1 len) two }

/-- R244: what a block decode takes from its snapshot's section 1. -/
def takeDecoder (one : List Byte) (c : Ctx) : Ctx :=
  let n := numAt one 3 8
  { c with mute := if numAt one 0 2 = 0 then none else some (numAt one 0 2), noParams := numAt one 2 1 == 1, lastOut := sliceAt one 11 n
           codec := one.drop (11 + n) }

/-- R244: what an OLV stream takes from the part of section 1 that follows its state regions. -/
def takeOlv (s : State) (k : Nat) (rest : List Byte) (c : Ctx) : Ctx :=
  let len := pictureLen s k
  if ctxKind s k = 1 then
    let kept := rest.drop len
    let n := (kept.length - 4 * motionBlocks s k) / Nat.max 1 len
    { c with prevPic := rest.take len, ltInputs := picturesOf len n kept, prevVecs := vecsOf (kept.drop (len * n)) }
  else if ctxKind s k = 2 then { c with prevVecs := vecsOf rest }
  else c

/-- R244, R245: a context takes its snapshot up: the frame number, its state, its rate control and its references. -/
def takeSnapshot (s : State) (k : Nat) : State :=
  let bs := (ctxOf s k).snap
  let j := numAt bs 64 8
  let one := snapSection bs 1
  let two := snapSection bs 2
  let four := snapSection bs 4
  let flags := numAt four 22 1
  let header : SeqHeader :=
    { profile := 0, chroma := ctxReg s k 0x0A, depth := ctxReg s k 0x0B, width := ctxReg s k 0x06, height := ctxReg s k 0x07
      tableId := (boundTable s k).1, version := ((pkgOf s (binding s k)).map (·.version)).getD 0, refresh := numAt four 20 2
      restricted := flags.testBit 2, motion := numAt four 32 2 }
  let c := { ctxOf s k with
      rc := rcOf (snapSection bs 3), emitted := numAt four 8 8, joined := flags.testBit 0, sweeping := flags.testBit 1
      seqHeader := if flags.testBit 0 then some header else none
      lastPic := if numAt four 23 1 = 1 then some (numAt four 24 8) else none
      ltSlots := (List.range ((four.length - 34) / 8)).map fun i => (numAt four (34 + 8 * i) 8, 0)
      firstJ := j, nextIn := j, snap := [] }
  let d1 := stateDecls s k 1
  let used := (d1.map (·.len)).foldl (· + ·) 0
  let c := if !isService (binding s k) then takeOlv s k (one.drop used) c
    else if ctxKind s k = 1 then takeEncoder s k one two c else takeDecoder one c
  let s := putCtx s k c
  let m := restoreState s c j (slotDecls s k (heldSlots s k)) two (restoreState s c j d1 one s.mem)
  setReg { s with mem := if isService (binding s k) then s.mem else m } (ctxIndex k) 0x39 j

/-- The run state of a context at its start. -/
def freshCtx (s : State) (k : Nat) (charge : Charge) : Ctx :=
  { startTick := counterOf s, cls := (ctxClass s k).getD 0, charge, rc := freshRc s k
    snap := (ctxOf s k).snap, fromSnap := (ctxOf s k).fromSnap }

/-- R337, R347: a flow when its source context starts: every receiver it has takes outputs. -/
def startFlow (s : State) (f : Nat) : Flow :=
  { (ngetD s.flows f {}) with nextSeq := 0, ready := [], recs := flowReceivers s f, active := (flowReceivers s f).map (·.1) }

/-- R271: the first frame of a chained context: the upstream frame issued in the round that has begun, else the next one. -/
def chainFirst (s : State) (u : Nat) : Nat :=
  minOf (ctxReg s u 0x39) (s.works.filterMap fun w => match w.id with
    | .frame c j => if c = u ∧ w.issued = counterOf s then some j else none
    | .job _ _ _ => none)

/-- R269: every check has passed: the context runs from this tick. -/
def enterRunning (s : State) (k : Nat) (charge : Charge) : State :=
  let snap := (ctxOf s k).fromSnap
  let s := putCtx s k (freshCtx s k charge)
  let die := if isService (binding s k) then serviceDie s else (homeDie s (binding s k)).getD 0
  let s := setReg s (ctxIndex k) 0x38 die
  match takeBuffers s k (((ctxInfo s k).map fun c => declsOf c [4]).getD []) with
  | none => setReg (setCmdStatus (setCtxState (putCtx s k {}) k 1) k stNoMemory) (ctxIndex k) 0x38 0xFF
  | some s =>
    let s := if isService (binding s k) then s else (placeWindow s die (binding s k)).getD s
    let j0 := if ctxReg s k 0x26 = 4 then chainFirst s (ctxReg s k 0x27) else 0
    let s := setReg (putCtx s k { ctxOf s k with firstJ := j0 }) (ctxIndex k) 0x39 j0
    let s := setReg (setReg s (ctxIndex k) 0x3A 0) (ctxIndex k) 0x3B 0
    let s := if snap then takeSnapshot s k else s
    let s := joinLegs (ownFlows s k k) k
    let s := { s with flows := (ctxFlows s k).foldl (fun m f => nset m f (startFlow s f)) s.flows }
    issueCtx 256 (setCmdStatus (setCtxState s k 3) k stOk) k

/-- A start ends with a status and the context is stopped. -/
def failStart (s : State) (k st detail : Nat) : State :=
  let s := setDetail (setCmdStatus (setCtxState s k 1) k st) k detail
  if st = stNoCapacity then addReg s 0x2100 0x0A 1 else s

/-- The blobs heard for a context's span group serve one start. -/
def dropBlobs (s : State) (k : Nat) : State :=
  match spanGroupOf s k with
  | some (g, _) => { s with fabric := { s.fabric with blobs := s.fabric.blobs.filter fun b => b.1 != g } }
  | none => s

/-- R56, R58, R269: the checks of a start, at a tick boundary. -/
def checkStart (s : State) (k : Nat) : State :=
  if ctxState s k ≠ 2 ∨ s.clk.now % period s ≠ 0 ∨ s.carried then s
  else
    let s' := dropBlobs s k
    match staticRefused s k with
    | some st => failStart s' k st 0
    | none =>
      match peakCharge s k with
      | none => failStart s' k stNoCapacity ((noResource s k (packageCharge s k)).getD 4)
      | some c =>
        (noRoom s k (ctxReg s k 0x0D) c).elim
          (if !isService (binding s k) ∧ (homeDie s (binding s k)).isNone then failStart s' k stNoCapacity 5
            else enterRunning s' k c)
          fun r => failStart s' k stNoCapacity r

/-! ### Switches (R270) -/

/-- R270: the state regions of two classes have the same numbers, snapshot sections and lengths. -/
def sameState (a b : ClassInfo) : Bool :=
  let f (c : ClassInfo) : List (Nat × Nat × Nat) := (declsOf c [4]).map fun d => (d.num, d.snap, d.len)
  f a == f b

/-- R270: the first status that a switch to a slot ends with, capacity and window aside. -/
def switchRefused (s : State) (k slot : Nat) : Option Nat :=
  if slot ≥ 4096 ∨ slotState s slot ≠ 3 then some stNoPackage
  else
    match pkgOf s (binding s k), pkgOf s slot with
    | some a, some b =>
      let info := classOf b (ctxOf s k).cls
      firstStatus
        [refuseIf (a.id != b.id || a.kind != b.kind) stSwitchIncompatible,
         match classOf a (ctxOf s k).cls, info with
         | some x, some y => refuseIf (!sameState x y) stSwitchIncompatible
         | _, _ => none,
         refuseIf info.isNone stNoCostClass,
         refuseIf (!modeFits s b.mode) stModeMismatch]
    | _, _ => some stSwitchIncompatible

/-- CONTEXT_SWITCH (R268, R270). -/
def switchCtx (s : State) (k slot : Nat) : State :=
  if cmdPending s k then setCmdStatus s k stPending
  else if ctxState s k ≠ 3 then setCmdStatus s k stBadState
  else
    match switchRefused s k slot with
    | some st => setCmdStatus s k st
    | none =>
      let s := setCmdStatus (putCtx s k { ctxOf s k with switchTo := some slot, switchAsked := counterOf s }) k stPending
      (placeWindow s (ctxReg s k 0x38) slot).getD s

def execContextSwitch (ctx slot : Nat) (s : State) : Host.Outcome State Fault Refusal :=
  whenControlled s fun s => if ctx < maxCtx then switchCtx s ctx slot else s

/-- R270: is charge `c` in some resource higher than `d`. -/
def chargeHigher (c d : Charge) : Bool :=
  decide (d.tile < c.tile) || decide (d.sym < c.sym) || decide (d.stack < c.stack) ||
  c.media.any fun m => decide (mediaSum d.media m.1 m.2.1 < mediaSum c.media m.1 m.2.1)

/-- A switch ends with a status and the context runs on. -/
def endSwitch (s : State) (k st detail : Nat) : State :=
  setDetail (setCmdStatus (putCtx s k { ctxOf s k with switchTo := none }) k st) k detail

/-- R270: a switch is pending and a boundary after its command has come. -/
def switchDue (s : State) (k : Nat) : Bool := (ctxOf s k).switchTo.isSome && boundaryAfter s (ctxOf s k).switchAsked

/-- R270: the frames issued from this boundary on run the new package. -/
def takeSwitch (s : State) (k : Nat) : State :=
  match (ctxOf s k).switchTo with
  | none => s
  | some slot =>
    if ctxState s k ≠ 3 then s
    else
      match switchRefused s k slot with
      | some st => endSwitch s k st 0
      | none =>
        let moved := setReg s (ctxIndex k) 0x01 slot
        match peakCharge moved k with
        | none => endSwitch s k stNoCapacity ((noResource moved k (packageCharge moved k)).getD 4)
        | some c =>
          let higher := chargeHigher c (ctxOf s k).charge
          if higher ∧ s.carried then s
          else
            match (if higher then noRoom moved k (ctxReg s k 0x0D) c else none) with
            | some r => endSwitch s k stNoCapacity r
            | none =>
              match placeWindow moved (ctxReg s k 0x38) slot with
              | none => s
              | some t => setCmdStatus (putCtx t k { ctxOf t k with switchTo := none, charge := c, seqDue := true }) k stOk

/-- SWITCH_TAKE_EFFECT (R270). -/
def execSwitchTakeEffect (ctx : Nat) (s : State) : Host.Outcome State Fault Refusal :=
  whenControlled s fun s => if switchDue s ctx then takeSwitch s ctx else s

/-- R270: every switch that is due at the boundary that has come. -/
def switchesAtTick (s : State) : State := (s.ctxs.map (·.1)).foldl (fun s k => if switchDue s k then takeSwitch s k else s) s

/-! ### Reference requests (R288, R312) -/

/-- R311: is frame j of a block encode a key picture. -/
def keyPicture (s : State) (k j : Nat) : Bool :=
  j == 0 || (ctxReg s k 0x19 != 0 && j % ctxReg s k 0x19 == 0)

/-- R288, R312: the status of a request for slot `slot` at frame j0; none when it is taken. -/
def referenceRefused (s : State) (k slot j0 : Nat) : Option Nat :=
  let kk := ctxReg s k 0x1A
  let block := isService (binding s k)
  firstStatus
    [refuseIf (ctxState s k != 3 || ctxKind s k != 1) stBadState,
     refuseIf (decide (j0 < ctxReg s k 0x39) || (nget (ctxOf s k).vecs j0).isSome) stTooLate,
     refuseIf (block && keyPicture s k j0) stKeyPicture,
     refuseIf (kk == 0 || decide (slot ≥ ctxReg s k 0x1B) || decide (slot * kk ≥ j0)) stMissingReference]

/-- REFERENCE_REQUEST (R288). -/
def requestReference (s : State) (k slot j0 : Nat) : State :=
  match referenceRefused s k slot j0 with
  | some st => setReg s (ctxIndex k) 0x1D st
  | none =>
    let c := ctxOf s k
    setReg (putCtx s k { c with requests := c.requests.filter (fun r => r.1 != j0) ++ [(j0, slot)] }) (ctxIndex k) 0x1D stOk

def execReferenceRequest (ctx slot j0 : Nat) (s : State) : Host.Outcome State Fault Refusal :=
  whenControlled s fun s => if ctx < maxCtx then requestReference s ctx slot j0 else s

end Sys2Proof.Machine
end

