-- ==== Sys2Proof/Machine/Learned.lean ====
section
/-! DEFINITION. OLV and OLA: the units of a bitstream and their headers, rate control and the assembly of an encoded picture (R273 to R278,
R280, R284, R285, R288, R291 to R296). -/
namespace Sys2Proof.Machine
open Sys2Proof

/-! ### Units (R275, R276) -/

/-- One unit of a picture's byte stream: type, where its payload begins, its length; band and qi of a latent unit. -/
structure MediaUnit where
  type : Nat
  off  : Nat
  len  : Nat
  band : Nat := 0
  qi   : Nat := 0
deriving DecidableEq, Repr

/-- The units of a byte stream from an offset; none at a bad sync, an unknown type, a non-zero reserved field, a qi above 63 or a
unit that runs past the input. -/
def parseUnits (bs : List Byte) : Nat → Nat → Option (List MediaUnit)
  | 0, _ => none
  | fuel + 1, off =>
    if off = bs.length then some []
    else
      let type := numAt bs (off + 2) 1
      let len := numAt bs (off + 4) 4
      let p := off + 8
      if p > bs.length ∨ p + len > bs.length ∨ numAt bs off 2 ≠ 0x4F4C ∨ type = 0 ∨ type > 5 ∨ numAt bs (off + 3) 1 ≠ 0 then none
      else if type = 5 ∧ (len < 4 ∨ numAt bs (p + 3) 1 ≠ 0 ∨ numAt bs (p + 2) 1 > 63) then none
      else
        let u : MediaUnit :=
          if type = 5 then ⟨5, p + 4, len - 4, numAt bs p 2, numAt bs (p + 2) 1⟩ else ⟨type, p, len, 0, 0⟩
        (parseUnits bs fuel (p + len)).map (u :: ·)

/-- R276: one unit stands before another: by type, latent units by band, nothing twice. -/
def unitBefore (a b : MediaUnit) : Bool := decide (a.type < b.type) || (a.type == 5 && b.type == 5 && decide (a.band < b.band))

/-- R276: every unit stands before its successor. -/
def unitsOrdered : List MediaUnit → Bool
  | a :: b :: r => unitBefore a b && unitsOrdered (b :: r)
  | _ => true

def unitOf (us : List MediaUnit) (type : Nat) : Option MediaUnit := us.find? fun u => u.type == type

/-! ### Headers (R277, R278, R296) -/

/-- R277: the sequence header in a unit; none when a reserved field or its length is wrong. -/
def parseSeq (bs : List Byte) (audio : Bool) (u : MediaUnit) : Option SeqHeader :=
  let b := sliceAt bs u.off u.len
  if audio then
    if u.len ≠ 16 ∨ numAt b 10 6 ≠ 0 then none
    else some { profile := numAt b 0 1, chroma := numAt b 1 1, depth := 0, width := 0, height := 0, tableId := numAt b 4 4
                version := numAt b 8 2, refresh := numAt b 2 2, restricted := false }
  else
    if u.len ≠ 32 ∨ numAt b 26 6 ≠ 0 ∨ numAt b 3 1 > 1 then none
    else some { profile := numAt b 0 1, chroma := numAt b 1 1, depth := numAt b 2 1, width := numAt b 4 2, height := numAt b 6 2
                tableId := numAt b 16 4, version := numAt b 20 2, refresh := numAt b 22 2, restricted := numAt b 3 1 == 1
                motion := numAt b 24 2, rateN := numAt b 8 4, rateD := numAt b 12 4 }

/-- R274, R290: a sequence header matches the package and the context; `chroma` holds an audio stream's channels. -/
def seqMatches (s : State) (k : Nat) (p : Pkg) (h : SeqHeader) : Bool :=
  h.tableId == p.tableId && h.version == p.version
  && (if isAudio p.kind then h.profile == 3 && h.chroma == ctxReg s k 0x0C
      else (h.profile == 1 || h.profile == 2) && h.width == ctxReg s k 0x06 && h.height == ctxReg s k 0x07
        && h.chroma == ctxReg s k 0x0A && h.depth == ctxReg s k 0x0B)

/-- R278, R296: the picture or frame header in a unit; none when a reserved field or its length is wrong. -/
def parsePic (bs : List Byte) (audio : Bool) (u : MediaUnit) : Option PicHeader :=
  let b := sliceAt bs u.off u.len
  if u.len ≠ 16 ∨ numAt b 12 4 ≠ 0 then none
  else if audio then
    if numAt b 10 1 > 1 then none else some ⟨numAt b 0 8, numAt b 10 1 == 1, 0xFF, 0xFF, numAt b 11 1⟩
  else if numAt b 8 1 > 1 then none
  else some ⟨numAt b 0 8, numAt b 8 1 == 1, numAt b 9 1, numAt b 10 1, numAt b 11 1⟩

/-! ### Quantiser steps (R280) -/

/-- The fractions M of R280. -/
def stepFraction : List Nat := [0x000, 0x05D, 0x0C2, 0x130, 0x1A8, 0x22B, 0x2BA, 0x356]

/-- R280: the F16S code of the step of index `qi`. -/
def stepCode (qi : Nat) : Nat := (qi / 8 + 11) * 1024 + stepFraction.getD (qi % 8) 0

/-- R292: step of band `b` written into the step array, and the band object signalled. -/
def deliverBand (s : State) (work : WorkId) (rc : RcParams) (b step : Nat) : State :=
  match findWork s work with
  | none => s
  | some w =>
    let at' := ((regionOf w rc.region).map (·.base)).getD 0 + rc.off + 2 * b
    deliver { s with mem := s.mem.write at' (leBytes 2 step) } work (2 ^ 24) b rc.bandObj

/-- The number of a work's picture. -/
def frameNo : WorkId → Nat
  | .frame _ j => j
  | .job _ _ i => i

/-- The input of a work as it was bound: `inLen` bytes from its first source-2 region. -/
def workInput (s : State) (w : Work) : List Byte := s.mem.read w.inBase w.inLen

/-- R290: reference state unchanged: what frame j would have written of its state regions is what it would have read. -/
def keepState (s : State) (k j : Nat) (w : Work) : State :=
  (w.regions.filter fun r => r.source == 4).foldl (fun s r =>
    { s with mem := s.mem.write r.base (s.mem.read (readBase s (.frame k j) r) r.len) }) s

/-! ### Rate control (R284, R291, R292, R295, R296) -/

/-- R284: e(p), with e(−1) = 0; the argument is p + 1. -/
def sweepEdge (p1 nb r : Nat) : Nat := p1 * nb / Nat.max r 1

/-- R278, R284: is band `b` of `nb` a stripe of a picture of phase `p` under refresh period `r`. -/
def bandStripe (start : Bool) (nb r p b : Nat) : Bool :=
  start || (r != 0 && decide (sweepEdge p nb r ≤ b) && decide (b < sweepEdge (p + 1) nb r))

/-- R284, R278: band `b` of picture j of an encode is a stripe. -/
def stripe (s : State) (k j b : Nat) : Bool := bandStripe (j == 0) (bandCount s k) (refreshAt s k j) (phaseOf s k j) b

/-- R48: the first sample index of tick n at 48 kHz. -/
def sampleStart (s : State) (n : Nat) : Nat := ceilDiv (n * 48000 * period s) 3000000000

/-- R291, R296: the bits that the model buffer drains at picture j. -/
def drain (s : State) (k j : Nat) : Int :=
  let rt := ctxReg s k 0x0F
  if isAudio (ctxKind s k) then
    let n := (ctxOf s k).startTick + (j - (ctxOf s k).firstJ)
    ((sampleStart s (n + 1) * rt / 48000 : Nat) : Int) - (sampleStart s n * rt / 48000 : Nat)
  else
    let (fn, fd) := ctxRate s k
    (((j + 1) * rt * fd / fn : Nat) : Int) - (j * rt * fd / fn : Nat)

/-- An integer clamped to a range. -/
def clampInt (z lo hi : Int) : Int := if z < lo then lo else if hi < z then hi else z

/-- R291: the target of a picture. -/
def rcTarget (rc : RcState) (bsz : Int) (d : Int) : Int := clampInt (d + (bsz / 2 - rc.full) / 8) (d / 4) (4 * d)

/-- R291: the weight of a band. -/
def rcWeight (prev sw : Nat) (isStripe : Bool) : Int := ((Nat.max 64 prev * (if isStripe then sw else 16) / 16 : Nat) : Int)

/-- R291: the step by which an error moves the quantiser. -/
def rcAdjust (r t : Int) : Int :=
  if t / 4 < r then 2 else if t / 16 < r then 1 else if r < (-t) / 4 then -2 else if r < (-t) / 16 then -1 else 0

/-- R291: the quantiser of band `b` from the bits of the bands coded so far: `t` the target, `a0` the bits before the first latent
unit, `w` the weights, `bits` the bits of bands 0 …, `lag` L, `scale` the size of a step of adjustment. -/
def rcChoose (rc : RcState) (bsz t a0 : Int) (w bits : List Int) (lag b : Nat) (qmin qmax scale : Int) : Nat :=
  let tl := if t - a0 < 0 then 0 else t - a0
  let wsum := w.foldl (· + ·) 0
  let n := b + 1 - lag
  let done := (bits.take n).foldl (· + ·) 0
  let want := ((w.take n).map fun x => tl * x / wsum).foldl (· + ·) 0
  let r := if b < lag then rc.prevErr else done - want
  let q := if bsz - bsz / 8 ≤ rc.full + a0 + done then qmax
    else clampInt ((rc.qprev.getD b 0 : Nat) + scale * rcAdjust r t) qmin qmax
  q.toNat

/-- The earliest issued and uncommitted frame of a context. -/
def pictureInProgress (s : State) (k : Nat) : Option (Work × Nat) :=
  let mine := s.works.filterMap fun w => match w.id with
    | .frame c j => if c = k then some (w, j) else none
    | .job _ _ _ => none
  mine.foldl (fun a e => match a with
    | some x => if e.2 < x.2 then some e else some x
    | none => some e) none

/-- The result of a segment of a work that was coded. -/
def segDone (w : Work) (i : Nat) : Option SegRes := w.segs.find? fun r => r.idx == i

/-- R276: the bits of a unit with a payload of `n` bytes. -/
def unitBits (n : Nat) : Nat := 8 * (8 + n)

/-- R276, R277: does picture j carry a sequence header. -/
def carriesSeq (s : State) (k j : Nat) : Bool :=
  j == 0 || phaseOf s k j == 0 || ((findWork s (.frame k j)).map (·.newSeq)).getD false

/-- The segments of an encoding class in record order: motion (OLV), hyper, then the bands. -/
def leadSegs (s : State) (k : Nat) : Nat := if isAudio (ctxKind s k) then 1 else 2

/-- R291: the bits of the sequence, picture, motion and hyper units of picture j; none until those segments are formed. -/
def leadBits (s : State) (k j : Nat) (w : Work) : Option Nat :=
  let audio := isAudio (ctxKind s k)
  let head := (if carriesSeq s k j then unitBits (if audio then 16 else 32) else 0) + unitBits 16
  let segs := if audio then [segDone w 0] else [segDone w 0, segDone w 1]
  if segs.any (·.isNone) then none
  else
    let lens := segs.map fun r => (r.map (·.len)).getD 0
    let lens := if !audio ∧ j = 0 then lens.drop 1 else lens
    some (head + (lens.map unitBits).foldl (· + ·) 0)

/-- The bits of the bands coded so far, in ascending order. -/
def bandBits (s : State) (k : Nat) (w : Work) : Nat → Nat → List Int
  | 0, _ => []
  | n + 1, b =>
    match segDone w (leadSegs s k + b) with
    | some r => (unitBits (4 + r.len) : Nat) :: bandBits s k w n (b + 1)
    | none => []

/-- R295: the bits queued in the egress flows of a context. -/
def queuedBits (s : State) (k : Nat) : Nat :=
  8 * (((s.media.egress.filter fun p => (ctxFlows s k).contains p.flow).map (·.payload.length)).foldl (· + ·) 0)

/-- RATE_CONTROL_BAND (R235, R291, R292, R295): band `b` of the picture in progress, once bands 0 … b − L have been coded. -/
def controlBand (s : State) (k b : Nat) : State :=
  match (pictureInProgress s k).bind fun x => (rcParams s k x.1.slot).map fun rp => (x, rp) with
  | some ((w, j), rp) =>
    let c := ctxOf s k
    let nb := bandCount s k
    let enc := ctxKind s k == 1 || ctxKind s k == 3
    if isService (binding s k) ∨ !enc ∨ b ≥ nb ∨ c.rc.q.length ≠ b ∨ w.result.isSome ∨ w.raw.isSome ∨ (syncBase s w.id).isNone then s
    else
      match leadBits s k j w with
      | none => s
      | some a0 =>
        let bits := bandBits s k w nb 0
        if bits.length < b + 1 - rp.lag then s
        else
          let rc := if b = 0 ∧ ctxReg s k 0x14 ≠ 0 then { c.rc with full := (queuedBits s k : Nat) } else c.rc
          let bsz : Int := (ctxReg s k 0x10 : Nat)
          let t := rcTarget rc bsz (drain s k j)
          let ws := (List.range nb).map fun i => rcWeight (rc.prevbits.getD i 0) rp.sw (stripe s k j i)
          let q := rcChoose rc bsz t (a0 : Nat) ws bits rp.lag b (qiMin s k : Nat) (qiMax s k : Nat) 1
          let s := putCtx s k { c with rc := { rc with q := rc.q ++ [q] } }
          deliverBand (putWork s { w with nonStrict := w.nonStrict || ctxReg s k 0x14 != 0 }) w.id rp b (stepCode q)
  | none => s

def execRateControlBand (ctx band : Nat) (s : State) : Host.Outcome State Fault Refusal :=
  whenService s fun s => controlBand s ctx band

/-- R291: after a picture's last unit: the buffer, the error, the indices and the bits. -/
def rcPictureEnd (rc : RcState) (bsz d bitsJ : Int) (bits : List Nat) : RcState :=
  let t := rcTarget rc bsz d
  let full := rc.full + bitsJ - d
  { full := if full < 0 then 0 else full, prevErr := bitsJ - t, qprev := rc.q, prevbits := bits, bits := [], q := [] }

/-! ### Assembling an encoded picture (R275 to R278, R283, R288) -/

/-- A unit. -/
def unitBytes (type : Nat) (payload : List Byte) : List Byte :=
  leBytes 2 0x4F4C ++ leBytes 1 type ++ leBytes 1 0 ++ leBytes 4 payload.length ++ payload

/-- R277: the sequence header that picture j of an encoding context carries; the motion scale of a package is free (no field names it). -/
def seqBytes (s : State) (k j : Nat) (p : Pkg) : List Byte :=
  if isAudio p.kind then
    leBytes 1 3 ++ leBytes 1 (ctxReg s k 0x0C) ++ leBytes 2 (refreshAt s k j) ++ leBytes 4 p.tableId ++ leBytes 2 p.version ++ leBytes 6 0
  else
    let (w, h, chroma) := codedSize s k
    leBytes 1 (1 + Config.packageProfile p.id % 2) ++ leBytes 1 chroma ++ leBytes 1 (codedDepth s k) ++ leBytes 1 (ctxReg s k 0x18)
      ++ leBytes 2 w ++ leBytes 2 h ++ leBytes 4 (ctxRate s k).1 ++ leBytes 4 (ctxRate s k).2 ++ leBytes 4 p.tableId
      ++ leBytes 2 p.version ++ leBytes 2 (refreshAt s k j) ++ leBytes 2 (Config.motionScale p.id) ++ leBytes 6 0

/-- R288: the slot that picture j stores into, and the slot that it references. -/
def storeSlot (s : State) (k j : Nat) : Option Nat :=
  let kk := ctxReg s k 0x1A
  if kk ≠ 0 ∧ j % kk = 0 then some (j / kk % Nat.max 1 (ctxReg s k 0x1B)) else none
def refSlot (s : State) (k j : Nat) : Option Nat := ((ctxOf s k).requests.find? fun r => r.1 == j).map (·.2)

/-- R278, R296: the picture or frame header. -/
def picBytes (s : State) (k j : Nat) : List Byte :=
  let phase := phaseOf s k j
  if isAudio (ctxKind s k) then
    let n := (ctxOf s k).startTick + (j - (ctxOf s k).firstJ)
    leBytes 8 (sampleStart s n) ++ leBytes 2 (sampleStart s (n + 1) - sampleStart s n) ++ leBytes 1 (if phase = 0 then 1 else 0)
      ++ leBytes 1 phase ++ leBytes 4 0
  else
    leBytes 8 j ++ leBytes 1 (if j = 0 then 1 else 0)
      ++ leBytes 1 (if j = 0 then 0xFF else ((refSlot s k j).map (· + 1)).getD 0)
      ++ leBytes 1 ((storeSlot s k j).getD 0xFF) ++ leBytes 1 phase ++ leBytes 4 0

/-- The payload of a coded segment. -/
def segPayload (s : State) (w : Work) (g : SegRec) (n : Nat) : List Byte := s.mem.read (segAddr s w g.locPay true) n

/-- R276: the bitstream of picture j from its coded segments. -/
def pictureStream (s : State) (k j : Nat) (w : Work) (p : Pkg) (c : ClassInfo) : List Byte :=
  let audio := isAudio p.kind
  let rc := (ctxOf s k).rc
  let pay (i : Nat) : List Byte :=
    match c.segs[i]?, segDone w i with
    | some g, some r => segPayload s w g r.len
    | _, _ => []
  let lead := leadSegs s k
  (if carriesSeq s k j then unitBytes 1 (seqBytes s k j p) else []) ++ unitBytes 2 (picBytes s k j)
    ++ (if audio ∨ j = 0 then [] else unitBytes 3 (pay 0)) ++ unitBytes 4 (pay (lead - 1))
    ++ (List.range (bandCount s k)).flatMap fun b =>
        unitBytes 5 (leBytes 2 b ++ leBytes 1 (rc.q.getD b 0) ++ leBytes 1 0 ++ pay (lead + b))

/-- R281, R288: what an OLV encode keeps of picture j, the previous one in coding order from now on, whatever its status. -/
def encodeKeep (s : State) (k j : Nat) (w : Work) : State :=
  let c := ctxOf s k
  putCtx s k { c with prevPic := if ctxKind s k = 1 then workInput s w else [], prevVecs := ngetD c.vecs j [], vecs := ndel c.vecs j
                      requests := c.requests.filter fun r => r.1 != j }

/-- R288, R291: what an encoding context keeps of picture j once it is coded: its rate control, and its input beside a slot it stores. -/
def encodeEnd (s : State) (k j : Nat) (w : Work) (stream : List Byte) : State :=
  let c := ctxOf s k
  let bits := (bandBits s k w (bandCount s k) 0).map Int.toNat
  let rc := rcPictureEnd c.rc (ctxReg s k 0x10 : Nat) (drain s k j) ((8 * stream.length : Nat) : Int) bits
  let kept := match storeSlot s k j with
    | some slot => if ctxKind s k = 1 then nset c.ltInputs slot (workInput s w) else c.ltInputs
    | none => c.ltInputs
  encodeKeep (putCtx s k { c with rc, emitted := c.emitted + stream.length, ltInputs := kept }) k j w

/-- R291: an encode that does not commit leaves the rate control as it found it. -/
def encodeFailed (s : State) (k j : Nat) (w : Work) : State :=
  let c := ctxOf s k
  encodeKeep (putCtx s k { c with rc := { c.rc with q := [] } }) k j w

end Sys2Proof.Machine
end

