-- ==== Sys2Proof/Machine/Units.lean ====
section
/-! DEFINITION. Faults of codec cores, scalers and lossless engines: their logs, self-checks and retirement, and the jobs and charges that
move to other units (R15, R304, R322, R330, R332). -/
namespace Sys2Proof.Machine
open Sys2Proof

/-- The units of `State.cores`: encode cores, decode cores, scalers, engines, and die control cores, by number. -/
def coreKey (kind unit : Nat) : Nat := kind * 4096 + unit
def ckEncode : Nat := 0
def ckDecode : Nat := 1
def ckScaler : Nat := 2
def ckEngine : Nat := 3

def kindNo : CoreKind → Nat
  | .encode => 0
  | .decode => 1
  | .scaler => 2

def coreOf (s : State) (kind unit : Nat) : CoreRun := ngetD s.cores (coreKey kind unit) {}
def putCore (s : State) (kind unit : Nat) (c : CoreRun) : State := { s with cores := nset s.cores (coreKey kind unit) c }

/-- The units of a kind on one media die, and in the part. -/
def unitsPerDie (kind : Nat) : Nat := if kind = 0 then 6 else if kind = 1 then 8 else if kind = 2 then 2 else 4

/-- The subentry that holds the retired units of a kind, and the unit kind of the fault log (R396). -/
def retiredBits (s : State) (kind : Nat) : Nat := if kind = 3 then getReg s 0x6200 0x02 else getReg s 0x6100 (0x02 + kind)
def setRetiredBits (s : State) (kind v : Nat) : State := if kind = 3 then setReg s 0x6200 0x02 v else setReg s 0x6100 (0x02 + kind) v

/-- The media charges that a unit of a kind carries. -/
def chargeKinds (kind : Nat) : List Nat :=
  if kind = 0 then [mkEstimator, mkEncode] else if kind = 1 then [mkDecode] else if kind = 2 then [mkScaler] else [mkEngine]

/-- A unit that may work: in the part, not retired nor about to be, not checking itself. -/
def unitLive (s : State) (kind unit : Nat) : Bool :=
  decide (unit < 2 * unitsPerDie kind) && !(retiredBits s kind).testBit unit && !retirePending s (7 + kind) unit
  && !(coreOf s kind unit).checking

/-- The units of a kind on the media die of one of them. -/
def dieUnits (kind unit : Nat) : List Nat := (List.range (unitsPerDie kind)).map (unit / unitsPerDie kind * unitsPerDie kind + ·)

/-! ### Engine jobs and their charges (R327, R329, R330, R365) -/

/-- A job's scorebook entry. -/
def findJob (s : State) (ring pos : Nat) : Option JobEntry := s.jobs.find? fun e => e.ring == ring && e.pos == pos
def putJob (s : State) (e : JobEntry) : State :=
  { s with jobs := s.jobs.map fun x => if x.ring = e.ring ∧ x.pos = e.pos then e else x }

/-- R365: a lossless-engine job. -/
def isEngineJob (j : JobRec) : Bool := j.pkgSlot == 0xFFFF

/-- R330: the cycles that `n` bytes of a job's input are charged; decompression is charged by its capacity. -/
def engineCharge (j : JobRec) (n : Nat) : Nat := if j.op = 1 then ceilDiv (100 * n) (levelRate j.level) else ceilDiv j.outCap 4

/-- R329: class 3 runs in slices of 4 MiB of input. -/
def sliceBytes : Nat := 4194304
def engineSlices (j : JobRec) : Nat := if j.prio = 3 then Nat.max 1 (ceilDiv j.inLen sliceBytes) else 1

/-- R330: the cycles of one issue of an engine job: all of it, or one slice of a class 3 job. -/
def sliceCharge (s : State) (j : JobRec) (i : Nat) : Nat :=
  let n := engineSlices j
  let c := if j.op = 1 then engineCharge j (Nat.min sliceBytes (j.inLen - i * sliceBytes)) else ceilDiv (engineCharge j 0) n
  if j.prio = 3 then Nat.min c (mediaRound s 1050000000) else engineCharge j j.inLen

/-- R330: firmware's own engine work of the round, class 0 ahead of every job: each piece on the lowest-numbered engine with room, or on the
lowest-numbered live one where none has. -/
def firmwareUse (s : State) : NMap Nat :=
  let live := (List.range 8).filter fun e => mediaCap s mkEngine e != 0
  s.media.firmware.foldl (fun m c =>
    match (match live.find? fun e => decide (ngetD m e 0 + c ≤ mediaCap s mkEngine e) with
      | some e => some e
      | none => live.head?) with
    | some e => nset m e (ngetD m e 0 + c)
    | none => m) []

/-- What the round already holds on an engine. -/
def engineUse (s : State) (e : Nat) : Nat :=
  ngetD (firmwareUse s) e 0 + ((s.works.filter fun w => !w.stopped && w.slot == 0xFFFF && w.die == e).map fun w => match w.id with
    | .job r p i => ((findJob s r p).map fun x => sliceCharge s x.job i).getD 0
    | .frame _ _ => 0).foldl (· + ·) 0

/-! ### What a unit has to do, and where it goes when the unit faults (R304, R315, R322, R332) -/

/-- R322: the core that stands in for another: the lowest-numbered other live one of its die with room for an amount, else the lowest-numbered
other live one, which the job waits for. -/
def standIn (s : State) (kind core amount : Nat) : Option Nat :=
  let others := (dieUnits kind core).filter fun i => i != core && unitLive s kind i
  let used := allMedia (s.ctxs.map fun e => (e.1, e.2.charge))
  let mk := (chargeKinds kind).getLastD 0
  match others.find? fun i => decide (amount ≤ unitRoom s used mk i) with
  | some i => some i
  | none => others.head?

/-- What a tile job of a context is charged on its core. -/
def jobAmount (s : State) (k kind core : Nat) : Nat :=
  (((ctxOf s k).charge.media.find? fun m => m.1 == (chargeKinds kind).getLastD 0 && m.2.1 == core).map (·.2.2)).getD 0

/-- R304, R315, R322: the core that runs a tile job of a work: the one that the start assigned, or the one that stands in for it. -/
def jobCore (s : State) (k kind : Nat) (w : Work) (tile : Nat) : Nat :=
  match w.segLanes.find? fun e => e.1 == tile && unitLive s kind e.2 with
  | some e => e.2
  | none =>
    let a := (((ctxOf s k).charge.jobs.find? fun e => e.1 == tile).map (·.2)).getD 0
    if unitLive s kind a then a else (standIn s kind a (jobAmount s k kind a)).getD a

/-- The kind of core that a service's tile jobs run on. -/
def serviceCores (b : Nat) : Nat := if b = 0xF001 ∨ b = 0xF002 then ckEncode else ckDecode

/-- The tile jobs of issued works that a core has still to do: (class, context, frame, tile), in the order in which it takes them (R316). -/
def coreJobs (s : State) (kind core : Nat) : List (Nat × Nat × Nat × Nat) :=
  s.works.flatMap fun w => match w.id with
    | .frame k j =>
      if !isService w.slot ∨ serviceCores w.slot ≠ kind ∨ w.result.isSome then []
      else ((List.range w.aim).filter fun t => !(w.segs.any fun r => r.idx == t) && jobCore s k kind w t == core).map fun t => (w.prio, k, j, t)
    | .job _ _ _ => []

/-- The first of a core's jobs. -/
def firstJob : List (Nat × Nat × Nat × Nat) → Option (Nat × Nat × Nat × Nat)
  | [] => none
  | x :: r => some (r.foldl (fun a b =>
      if b.1 < a.1 ∨ (b.1 = a.1 ∧ (b.2.1 < a.2.1 ∨ (b.2.1 = a.2.1 ∧ (b.2.2.1 < a.2.2.1 ∨ (b.2.2.1 = a.2.2.1 ∧ b.2.2.2 < a.2.2.2))))) then b else a) x)

/-- The unfinished tasks of an engine, in order of issue. -/
def engineTasks (s : State) (engine : Nat) : List Work :=
  s.works.filter fun w => w.slot == 0xFFFF && w.die == engine && w.segs.isEmpty && w.result.isNone

/-- R322, R332: has a unit work that it could make progress on. -/
def unitBusy (s : State) (kind unit : Nat) : Bool :=
  if kind = ckEngine then (engineTasks s unit).any fun w => !w.stopped
  else if kind = ckScaler then
    s.works.any fun w => w.raw.isSome && match w.id with
      | .frame k _ => (ctxOf s k).charge.media.any fun m => m.1 == mkScaler && m.2.1 == unit
      | .job _ _ _ => false
  else !(coreJobs s kind unit).isEmpty || (kind == ckEncode && s.works.any fun w => !w.searched && match w.id with
      | .frame k _ => (ctxOf s k).charge.media.any fun m => m.1 == mkEstimator && m.2.1 == unit
      | .job _ _ _ => false)

/-- R322: the tile job in progress on a core starts again on another. -/
def moveJob (s : State) (kind core : Nat) : State :=
  match firstJob (coreJobs s kind core) with
  | none => s
  | some (_, k, j, t) =>
    match findWork s (.frame k j), standIn s kind core (jobAmount s k kind core) with
    | some w, some c => putWork s { w with segLanes := (t, c) :: w.segLanes.filter (fun e => e.1 != t) }
    | _, _ => s

/-- R330, R332: the engine that takes a task of another: the lowest-numbered other live one of its die with room, else the lowest-numbered
other live one. -/
def engineStandIn (s : State) (engine : Nat) (w : Work) : Option Nat :=
  let others := (dieUnits ckEngine engine).filter fun i => i != engine && unitLive s ckEngine i
  let n := match w.id with
    | .job r p i => ((findJob s r p).map fun x => sliceCharge s x.job i).getD 0
    | .frame _ _ => 0
  match others.find? fun i => decide (engineUse s i + n ≤ mediaCap s mkEngine i) with
  | some i => some i
  | none => others.head?

/-- R332: an engine's tasks start again on another engine of its die. -/
def moveTasks (s : State) (engine : Nat) (ws : List Work) : State :=
  ws.foldl (fun s w => match engineStandIn s engine w with
    | some g => putWork s { w with die := g }
    | none => s) s

/-- R322: the lowest-numbered live unit of a die with room, beside the charges `rest` of context `k` itself, for the charges (kind, amount) of
one job together. -/
def unitFor (s : State) (kind unit k : Nat) (rest : List (Nat × Nat × Nat)) (ms : List (Nat × Nat)) : Option Nat :=
  (dieUnits kind unit).find? fun i =>
    unitLive s kind i && ms.all fun m => decide (m.2 ≤ unitRoom s (allMedia (chargesBut s k) ++ rest) m.1 i)

/-- R322: the charges of context `k` with those on a retired unit moved where they fit, a tile job's estimator and pipeline charges together;
and the unit that each moved job is on now. -/
def moveList (s : State) (kind unit k : Nat) :
    List (Nat × Nat × Nat) → List (Nat × Nat × Nat) → List (Nat × Nat × Nat) × List Nat
  | done, (a, u, x) :: (b, v, y) :: r =>
    if kind = ckEncode ∧ a = mkEstimator ∧ b = mkEncode ∧ u = unit ∧ v = unit then
      let c := (unitFor s kind unit k (done ++ r) [(a, x), (b, y)]).getD unit
      let l := moveList s kind unit k (done ++ [(a, c, x), (b, c, y)]) r
      (l.1, c :: l.2)
    else if (chargeKinds kind).contains a ∧ u = unit then
      let c := (unitFor s kind unit k (done ++ (b, v, y) :: r) [(a, x)]).getD unit
      let l := moveList s kind unit k (done ++ [(a, c, x)]) ((b, v, y) :: r)
      (l.1, c :: l.2)
    else moveList s kind unit k (done ++ [(a, u, x)]) ((b, v, y) :: r)
  | done, [(a, u, x)] =>
    if (chargeKinds kind).contains a ∧ u = unit then
      let c := (unitFor s kind unit k done [(a, x)]).getD unit
      (done ++ [(a, c, x)], [c])
    else (done ++ [(a, u, x)], [])
  | done, [] => (done, [])

/-- The tile jobs of a context with those of a retired core on the cores that their charges moved to. -/
def moveJobs (unit : Nat) : List (Nat × Nat) → List Nat → List (Nat × Nat)
  | [], _ => []
  | (t, c) :: r, [] => (t, c) :: moveJobs unit r []
  | (t, c) :: r, n :: l => if c = unit then (t, n) :: moveJobs unit r l else (t, c) :: moveJobs unit r (n :: l)

/-- R322: a retired unit's charges move to the other units of its die when they fit, and otherwise stay unmet. -/
def moveCharges (s : State) (kind unit : Nat) : State :=
  (s.ctxs.map (·.1)).foldl (fun s k =>
    let c := ctxOf s k
    if c.charge.media.any fun m => (chargeKinds kind).contains m.1 && m.2.1 == unit then
      let l := moveList s kind unit k [] c.charge.media
      let jobs := if serviceCores (binding s k) = kind then moveJobs unit c.charge.jobs l.2 else c.charge.jobs
      putCtx s k { c with charge := { c.charge with media := l.1, jobs } }
    else s) s

/-- R322, R332: a unit is retired: fault log and start journal say so, its charges move. -/
def retireUnit (s : State) (kind unit : Nat) : State :=
  if (retiredBits s kind).testBit unit then s
  else
    let s := setRetiredBits s kind (setBitAt (retiredBits s kind) unit)
    let s := addJournal (putCore s kind unit {}) 0x09 (7 + kind) unit 0x06 0
    let s := moveCharges (logFault s (if kind = 3 then 0x0051 else 0x0041) 1 (7 + kind) unit 0xFFFF 0) kind unit
    if kind = ckEngine then moveTasks s unit (engineTasks s unit) else s

/-- R30, R322: a unit is retired, or waits for it while no cluster may write flash. -/
def retireWhenHeld (s : State) (kind unit : Nat) : State :=
  if flashHeld s then (if retirePending s (7 + kind) unit then s else retireLater s (7 + kind) unit) else retireUnit s kind unit

/-- R322, R332: a unit fault: logged, what it was doing starts again on another, the unit checks itself, or is retired when its last fault
lies within 64 ticks. -/
def faultUnit (s : State) (kind unit : Nat) : State :=
  let c := coreOf s kind unit
  let again := match c.faultAt with
    | some n => decide (counterOf s ≤ n + 64)
    | none => false
  let s := logFault s (if kind = 3 then 0x0050 else 0x0040) 0 (7 + kind) unit 0xFFFF 0
  let s := if kind = ckEngine then moveTasks s unit ((engineTasks s unit).take 1)
    else if kind = ckScaler then s else moveJob s kind unit
  let s := putCore s kind unit { faultAt := some (counterOf s), checking := true }
  if again then retireWhenHeld s kind unit else s

/-- The self-check of a faulted unit ends. -/
def checkUnit (s : State) (kind unit : Nat) (passed : Bool) : State :=
  let c := coreOf s kind unit
  if !c.checking ∨ retirePending s (7 + kind) unit then s
  else if passed then putCore s kind unit { c with checking := false }
  else retireWhenHeld s kind unit

/-- CODEC_CORE_FAULT (R322). -/
def execCodecCoreFault (kind : CoreKind) (core : Nat) (s : State) : Host.Outcome State Fault Refusal :=
  whenService s fun s => if unitLive s (kindNo kind) core then faultUnit s (kindNo kind) core else s

/-- CODEC_CORE_WATCHDOG (R322): no progress for 65,536 cycles other than while waiting is a core fault. -/
def execCodecCoreWatchdog (kind : CoreKind) (core : Nat) (s : State) : Host.Outcome State Fault Refusal :=
  whenService s fun s => if unitLive s (kindNo kind) core && unitBusy s (kindNo kind) core then faultUnit s (kindNo kind) core else s

/-- CODEC_CORE_SELF_CHECK (R322). -/
def execCodecCoreSelfCheck (kind : CoreKind) (core : Nat) (passed : Bool) (s : State) : Host.Outcome State Fault Refusal :=
  whenService s fun s => checkUnit s (kindNo kind) core passed

/-- ENGINE_FAULT (R332). -/
def execEngineFault (engine : Nat) (s : State) : Host.Outcome State Fault Refusal :=
  whenService s fun s => if unitLive s ckEngine engine then faultUnit s ckEngine engine else s

/-- ENGINE_WATCHDOG (R332): no progress for 65,536 cycles is an engine fault. -/
def execEngineWatchdog (engine : Nat) (s : State) : Host.Outcome State Fault Refusal :=
  whenService s fun s => if unitLive s ckEngine engine && unitBusy s ckEngine engine then faultUnit s ckEngine engine else s

/-- ENGINE_SELF_CHECK (R332). -/
def execEngineSelfCheck (engine : Nat) (passed : Bool) (s : State) : Host.Outcome State Fault Refusal :=
  whenService s fun s => checkUnit s ckEngine engine passed

end Sys2Proof.Machine
end

