-- ==== Sys2Proof/Machine/Planes.lean ====
section
/-! DEFINITION. Pictures as planes: their layout, their extension for the networks, the warp and the rounding of reconstructions (R279,
R282, R283, R296, R336). -/
namespace Sys2Proof.Machine
open Sys2Proof

/-! ### Planes (R283, R336) -/

/-- One plane of a picture, row by row. -/
structure Plane where
  w  : Nat
  h  : Nat
  px : Array Nat
deriving DecidableEq, Repr

/-- 16-bit samples. -/
def samplesOf : List Byte → List Nat
  | a :: b :: r => (a.toNat + 256 * b.toNat) :: samplesOf r
  | _ => []
def sampleBytes (l : List Nat) : List Byte := l.flatMap (leBytes 2)

/-- A coordinate clamped to 0 … n − 1. -/
def clampCoord (z : Int) (n : Nat) : Nat := (clampInt z 0 ((n : Int) - 1)).toNat

/-- The sample at a position, clamped to the plane. -/
def Plane.get (p : Plane) (x y : Int) : Nat := p.px.getD (clampCoord y p.h * p.w + clampCoord x p.w) 0

/-- The dimensions of the planes of a picture of a chroma format. -/
def planeDims (w h chroma : Nat) : List (Nat × Nat) :=
  if chroma = 0 then [(w, h), ((w + 1) / 2, (h + 1) / 2), ((w + 1) / 2, (h + 1) / 2)]
  else if chroma = 1 then [(w, h), ((w + 1) / 2, h), ((w + 1) / 2, h)]
  else [(w, h)]

/-- The planes of a picture: planar, luma first. -/
def planesOf : List (Nat × Nat) → List Nat → List Plane
  | [], _ => []
  | (w, h) :: r, px => ⟨w, h, (px.take (w * h)).toArray⟩ :: planesOf r (px.drop (w * h))

/-! ### The warp (R282) -/

/-- R282: one warped sample; `dx`, `dy` are 4 or 8. -/
def warpSample (p : Plane) (x y mx my : Int) (dx dy : Nat) : Nat :=
  let ix := x + mx / dx
  let iy := y + my / dy
  let fx := (mx % dx).toNat
  let fy := (my % dy).toNat
  let sum := (dx - fx) * (dy - fy) * p.get ix iy + fx * (dy - fy) * p.get (ix + 1) iy
    + (dx - fx) * fy * p.get ix (iy + 1) + fx * fy * p.get (ix + 1) (iy + 1)
  (sum + dx * dy / 2) / (dx * dy)

/-! ### Extension and the warped reference (R279, R282, R284) -/

/-- The subsampling of plane `i` of a picture of a chroma format, on each axis. -/
def planeStep (chroma i : Nat) : Nat × Nat := if i = 0 then (1, 1) else if chroma = 0 then (2, 2) else (2, 1)

/-- R279: the dimensions of a plane extended so that luma is a multiple of 64 on each axis. -/
def extendedDims (w h chroma i : Nat) : Nat × Nat :=
  let (cx, cy) := planeStep chroma i
  (64 * ceilDiv w 64 / cx, 64 * ceilDiv h 64 / cy)

/-- R279: a plane to the dimensions of its extension, `px` giving the samples inside: last column and last row replicated. -/
def extendWith (w h : Nat) (dims : Nat × Nat) (px : Nat → Nat → Nat) : List Nat :=
  (List.range dims.2).flatMap fun y => (List.range dims.1).map fun x => px (Nat.min x (w - 1)) (Nat.min y (h - 1))

/-- R279: a picture's planes extended. -/
def extendPicture (w h chroma : Nat) (ps : List Plane) : List Nat :=
  ps.zipIdx.flatMap fun (p, i) => extendWith p.w p.h (extendedDims w h chroma i) fun x y => p.get (x : Nat) (y : Nat)

/-- R282: the warped reference of a picture, extended: `vec` gives the vector of a block by number, `grey` says which bands are stripes and see
the grey plane of `2 ^ (depth - 1)`, as every band does where there is no reference. -/
def warpPicture (w h chroma depth : Nat) (ref : Option (List Plane)) (vec : Nat → Int × Int) (grey : Nat → Bool) : List Nat :=
  (planeDims w h chroma).zipIdx.flatMap fun (d, i) =>
    let (cx, cy) := planeStep chroma i
    extendWith d.1 d.2 (extendedDims w h chroma i) fun x y =>
      match (if grey (cy * y / 32) then none else ref.bind fun ps => ps[i]?) with
      | some p =>
        let v := vec (cy * y / 16 * ceilDiv w 16 + cx * x / 16)
        warpSample p (x : Nat) (y : Nat) v.1 v.2 (4 * cx) (4 * cy)
      | none => 2 ^ (depth - 1)

/-! ### Rounding (R283, R296) -/

/-- num × 2^e rounded to the nearest integer, ties to even. -/
def nearestInt (m e : Int) : Int :=
  if 0 ≤ e then m * (2 ^ e.toNat : Nat)
  else
    let d : Int := (2 ^ (-e).toNat : Nat)
    let q := m / d
    let r := 2 * (m % d)
    if r < d ∨ (r = d ∧ q % 2 = 0) then q else q + 1

/-- R283, R296: the value with code `c` of format `f`, times 2^scale, rounded to nearest even and clamped; a NaN, of which the rules say
nothing, gives a free value (log 70). -/
def roundSample (f c : Nat) (scale lo hi : Int) : Int :=
  let v := decodeF f c
  match v with
  | .nan _ => clampInt (Config.nanSample c) lo hi
  | .inf neg => if neg then lo else hi
  | .zero _ => 0
  | .fin _ _ _ => clampInt (nearestInt v.mant (v.exp + scale)) lo hi

/-- The codes of format `f` in bytes. -/
def codesOf (f : Nat) (bs : List Byte) : List Nat := (List.range (bs.length / fmtBytes f)).map fun i => numAt bs (i * fmtBytes f) (fmtBytes f)

/-- R283: the reconstruction of a picture from its extended synthesis output in format `f`: rounded, clamped and cropped, planar, luma
first. -/
def reconstruct (w h chroma depth f : Nat) (bs : List Byte) : List Byte :=
  let go (acc : List Byte × List Byte) (d : (Nat × Nat) × Nat) : List Byte × List Byte :=
    let (ew, eh) := extendedDims w h chroma d.2
    let px := (codesOf f (acc.2.take (ew * eh * fmtBytes f))).toArray
    let out := (List.range d.1.2).flatMap fun y => (List.range d.1.1).flatMap fun x =>
      leBytes 2 (roundSample f (px.getD (y * ew + x) 0) 0 0 (2 ^ depth - 1)).toNat
    (acc.1 ++ out, acc.2.drop (ew * eh * fmtBytes f))
  ((planeDims w h chroma).zipIdx.foldl go ([], bs)).1

/-- R296: decoded audio samples from the FP32 synthesis output. -/
def decodedAudio (bs : List Byte) : List Byte :=
  (codesOf 2 bs).flatMap fun c => leBytes 4 (codeOf 32 (roundSample 2 c 23 (-(2 ^ 23)) (2 ^ 23 - 1)))

end Sys2Proof.Machine
end

