-- ==== Sys2Proof/Machine/Olv.lean ====
section
/-! DEFINITION. What surrounds the networks of a codec package: the motion segment's operands, the warped reference, reconstructions and where
they are kept, decoded audio samples, and the parsing of input pictures (R279, R281 to R284, R286 to R290, R296, R307). -/
namespace Sys2Proof.Machine
open Sys2Proof

/-! ### Where things lie (R263, R283, R288; log 68) -/

/-- Bytes into a writable region at an offset, where they fit. -/
def putAt (s : State) (w : Work) (num off : Nat) (bs : List Byte) : State :=
  match regionOf w num with
  | some r => if r.rw ∧ off + bs.length ≤ r.len then { s with mem := s.mem.write (r.base + off) bs } else s
  | none => s

/-- Planes where the package takes them. -/
def putRole (s : State) (w : Work) (p : Pkg) (role : Nat) (px : List Nat) : State :=
  let (num, off, _) := Config.packagePlace p.id role
  putAt s w num off (sampleBytes px)

/-- The region of section 1 that holds the previous picture, and that of section 2 that holds a long-term slot: those as long as a picture. -/
def pictureRegion (s : State) (k : Nat) : Option RegionDecl := (stateDecls s k 1).find? fun d => d.len == serviceLen s k
def slotRegion (s : State) (k slot : Nat) : Option RegionDecl := ((stateDecls s k 2)[slot]?).filter fun d => d.len == serviceLen s k

/-- What frame j reads of a state region. -/
def readDecl (s : State) (k j : Nat) (d : RegionDecl) : List Byte :=
  s.mem.read (readBase s (.frame k j) ⟨d.num, 0, d.len, true, 4⟩) d.len

/-- The planes of a picture as it is stored. -/
def storedPlanes (s : State) (k : Nat) (bs : List Byte) : List Plane :=
  let (w, h, chroma) := codedSize s k
  planesOf (planeDims w h chroma) (samplesOf bs)

/-! ### The motion segment (R281, R307) -/

/-- The motion segment's record of a class, and its number: an encoder's first; a decoder's names unit 0 of the input (R290). -/
def motionSeg (p : Pkg) (w : Work) (c : ClassInfo) : Option (Nat × SegRec) :=
  if p.kind = 1 then c.segs.head?.map fun g => (0, g)
  else if p.kind = 2 then
    (c.segs.zipIdx.find? fun e => e.1.opcode == 2 && e.1.locPay % 2 ^ 40 == 0 &&
      (regionOf w (e.1.locPay / 2 ^ 40)).map (·.source) == some 2).map fun e => (e.2, e.1)
  else none

/-- R281: the co-located vector of the previous picture in coding order, number `n`: zero after the start picture, for a block that was in
that picture's stripe, and under restricted refresh for one outside its refreshed region. -/
def motionMean (n : Option Nat) (prev : List (Int × Int)) (nb r wm : Nat) (restricted : Bool) (i : Nat) : Int × Int :=
  let band := i / wm / 2
  match n with
  | none => (0, 0)
  | some n =>
    if bandStripe (n == 0) nb r (n % r) band ∨ (restricted ∧ sweepEdge (n % r + 1) nb r ≤ band) then (0, 0) else prev.getD i (0, 0)

/-- An F16S code of an integer. -/
def motionCode (z : Int) : List Byte := leBytes 2 (roundExact 1 0 0 z 1 0).1

/-- R306: the y values of the motion segment: the vectors as F16S codes, horizontal first. -/
def vecCodes (vs : List (Int × Int)) : List Byte := vs.flatMap fun v => motionCode v.1 ++ motionCode v.2

/-- R281: μ and σ of the motion segment's elements. -/
def motionOperands (means : List (Int × Int)) (scale : Nat) : List Byte :=
  means.flatMap fun v => motionCode v.1 ++ leBytes 2 scale ++ motionCode v.2 ++ leBytes 2 scale

/-- R281: the operands of a motion segment go where its record takes them. -/
def putMotion (s : State) (w : Work) (g : SegRec) (means : List (Int × Int)) (scale : Nat) : State :=
  putAt s w (g.locMs / 2 ^ 40) (g.locMs % 2 ^ 40) (motionOperands means scale)

/-- R307: the parts that need the vectors of a picture are told that they stand. -/
def signalMotion (s : State) (w : Work) (p : Pkg) : State :=
  if Config.motionObject p.id < p.nSync then deliver s w.id (2 ^ 24 + 1) 0 (Config.motionObject p.id) else s

/-! ### The warped reference (R282, R284, R287 to R289) -/

/-- R288, R289: the reconstruction that a picture references: a long-term slot's, else the previous one; none where there is none. -/
def referenceRecon (s : State) (k j : Nat) (slot : Option Nat) (none_ : Bool) : Option (List Plane) :=
  if none_ then none
  else ((match slot with
    | some i => if (heldSlots s k).contains i then slotRegion s k i else none
    | none => pictureRegion s k).map fun d => storedPlanes s k (readDecl s k j d))

/-- R282, R284: the warped reference of picture j, in the place where the package takes it. -/
def putWarp (s : State) (k : Nat) (w : Work) (p : Pkg) (ref : Option (List Plane)) (vs : List (Int × Int)) (grey : Nat → Bool) : State :=
  let (pw, ph, chroma) := codedSize s k
  putRole s w p 1 (warpPicture pw ph chroma (codedDepth s k) ref (fun i => vs.getD i (0, 0)) grey)

/-! ### Forming what an encode starts from (R279, R281, R282, R296, R307) -/

/-- R296: the transforms of an independent audio frame see zeros in place of the previous frame's output: the state that the frame reads. -/
def clearPrevious (s : State) (k j : Nat) : State :=
  (stateDecls s k 1).foldl (fun s d =>
    { s with mem := s.mem.zero (readBase s (.frame k j) ⟨d.num, 0, d.len, true, 4⟩) d.len }) s

/-- The vectors of picture j that an OLV encode codes: none until its search is complete; zero where the package searches none. -/
def codedVecs (s : State) (k j : Nat) : Option (List (Int × Int)) :=
  if !needsMotion s k then some (List.replicate (motionBlocks s k) (0, 0))
  else (nget (ctxOf s k).vecs j).filter fun vs => decide (motionBlocks s k ≤ vs.length)

/-- What an OLV encode of picture j starts from: its input extended, its motion segment's operands, its warped reference. -/
def formVideo (s : State) (k j : Nat) (w : Work) (p : Pkg) (c : ClassInfo) (vs : List (Int × Int)) : State :=
  let (pw, ph, chroma) := codedSize s k
  let s := putRole s w p 0 (extendPicture pw ph chroma (storedPlanes s k (workInput s w)))
  let prev := if j = 0 then none else some (j - 1)
  let means := (List.range (motionBlocks s k)).map
    (motionMean prev (ctxOf s k).prevVecs (bandCount s k) (refreshAt s k j) (ceilDiv pw 16) (ctxReg s k 0x18 == 1))
  let s := match motionSeg p w c with
    | some (_, g) =>
      let s := if g.locY = segLocNone ∨ !needsMotion s k then s else { s with mem := s.mem.write (segAddr s w g.locY true) (vecCodes vs) }
      putMotion s w g means (Config.motionScale p.id % 2 ^ 16)
    | none => s
  putWarp s k w p (referenceRecon s k j (refSlot s k j) (j == 0)) vs (stripe s k j)

/-- R281, R306, R307: once the frames before it have committed, its input is scaled and its vectors are found, frame j of an encode is given
what its parts and segments start from. -/
def deliverVectors (s : State) (k j : Nat) : State :=
  let open_ := s.works.any fun o => match o.id with
    | .frame k' j' => k' == k && decide (j' < j)
    | .job _ _ _ => false
  match findWork s (.frame k j) with
  | none => s
  | some w =>
    match (pkgOf s w.slot).bind fun p => (classOf p w.cls).map fun c => (p, c) with
    | none => s
    | some (p, c) =>
      if w.searched ∨ open_ ∨ w.raw.isSome ∨ (p.nSync > 0 ∧ (syncBase s w.id).isNone) then s
      else if p.kind = 1 then
        match codedVecs s k j with
        | some vs =>
          let s := signalMotion (formVideo s k j w p c vs) w p
          putWork s { (findWork s w.id).getD w with searched := true }
        | none => s
      else putWork (if p.kind = 3 ∧ phaseOf s k j = 0 then clearPrevious s k j else s) { w with searched := true }

/-- Every issued frame that can be given it. -/
def deliverAll (s : State) : State :=
  s.works.foldl (fun s w => match w.id with
    | .frame k j => deliverVectors s k j
    | .job _ _ _ => s) s

/-- CONTEXT_START_CHECK (R269): frames due at the boundary are issued with it. -/
def execContextStartCheck (ctx : Nat) (s : State) : Host.Outcome State Fault Refusal :=
  whenControlled s fun s => deliverAll (checkStart s ctx)

/-! ### Parsing an input picture (R287, R289, R290) -/

/-- R290: the bands of a picture in ascending order, each with the step of its unit; a band without a unit has no stated step and
takes a free one, the same again in a replay. -/
def deliverBands (s : State) (work : WorkId) (rc : RcParams) (us : List MediaUnit) (n : Nat) : State :=
  (List.range n).foldl (fun s b =>
    match us.find? fun u => u.type == 5 && u.band == b with
    | some u => deliverBand s work rc b (stepCode u.qi)
    | none => deliverBand s work rc b (Config.missingStep (65536 * frameNo work + b) % 2 ^ 16)) s

/-- The work of frame j ends without running: nothing is dispatched and it commits with a status that has no output. -/
def endParse (s : State) (k j : Nat) (w : Work) (st : Nat) : State :=
  keepState (putWork s { w with parsed := true, result := some st }) k j w

/-- R287: is a picture one at which a context that joins a running stream may begin. -/
def joinPoint (audio seqHere : Bool) (h : PicHeader) : Bool := seqHere && (if audio then h.start else h.phase == 0)

/-- R289: is the picture's reference missing. -/
def referenceMissing (c : Ctx) (audio : Bool) (h : PicHeader) : Bool :=
  !audio && !h.start &&
  (if 1 ≤ h.ref ∧ h.ref ≤ 4 then !c.ltSlots.any (fun e => e.1 == h.ref - 1)
   else match c.lastPic with
     | some n => h.number != n + 1
     | none => false)

/-- R281: the operands of the motion segment of a picture that decodes, by the co-located vectors of the last decoded picture. -/
def parsedMotion (s : State) (k : Nat) (w : Work) (p : Pkg) (c : ClassInfo) : State :=
  let x := ctxOf s k
  let q : SeqHeader := x.seqHeader.getD { profile := 0, chroma := 0, depth := 0, width := 0, height := 0, tableId := 0, version := 0, refresh := 1, restricted := false }
  let means := (List.range (motionBlocks s k)).map
    (motionMean x.lastPic x.prevVecs (bandCount s k) (Nat.max 1 q.refresh) (ceilDiv (codedSize s k).1 16) q.restricted)
  match motionSeg p w c with
  | some (_, g) => putMotion s w g means q.motion
  | none => s

/-- R281, R282, R289: the decoded vectors of a picture, and its warped reference. -/
def warpDecoded (s : State) (k j : Nat) (w : Work) (p : Pkg) (h : PicHeader) (vs : List (Int × Int)) : State :=
  let x := ctxOf s k
  let nb := bandCount s k
  let r := Nat.max 1 ((x.seqHeader.map (·.refresh)).getD 1)
  let grey := bandStripe h.start nb r h.phase
  let wm := ceilDiv (codedSize s k).1 16
  let vs := vs.zipIdx.map fun e => if grey (e.2 / wm / 2) then (0, 0) else e.1
  let s := putCtx s k { x with vecs := nset x.vecs j vs }
  let slot := if 1 ≤ h.ref ∧ h.ref ≤ 4 then some (h.ref - 1) else none
  putWarp s k w p (referenceRecon s k j slot (h.start || x.lastPic.isNone)) vs grey

/-- R281, R282, R290, R296: what the segments and transforms of a parsed picture start from: the motion segment's operands, the warped reference
of a start picture, and the band steps. -/
def formDecode (s : State) (k j : Nat) (w : Work) (p : Pkg) (us : List MediaUnit) (h : PicHeader) : State :=
  match classOf p w.cls with
  | none => s
  | some info =>
    let s := if isAudio p.kind then (if h.start then clearPrevious s k j else s)
      else
        let s := parsedMotion s k w p info
        if h.start then warpDecoded s k j w p h (List.replicate (motionBlocks s k) (0, 0)) else s
    match info.rc with
    | some rc => deliverBands s w.id rc us (bandCount s k)
    | none => s

/-- R287, R289, R290: a picture that decodes: its units and steps are set up, what its segments and transforms start from is formed, and its
status is noted. A joining decoder starts with no reference, no vectors and no slots. -/
def acceptPicture (s : State) (k j : Nat) (w : Work) (p : Pkg) (us : List MediaUnit) (h : PicHeader) (joinNow : Bool) : State :=
  let audio := isAudio p.kind
  let c := ctxOf s k
  let missing := !joinNow && referenceMissing c audio h
  let sweeping := if h.start ∨ audio then false else joinNow || c.sweeping
  let r := (c.seqHeader.map (·.refresh)).getD 1
  let partial' := sweeping && decide (h.phase + 1 ≠ r)
  let note := if missing then stMissingReference else if partial' then stPartialRefresh else 0
  let c := { c with joined := true, sweeping := partial' }
  let s := putCtx s k (if joinNow then { c with lastPic := none, ltSlots := [], prevVecs := [] } else c)
  let units := (us.filter fun u => decide (3 ≤ u.type)).map fun u =>
    (if u.type = 3 then 0 else if u.type = 4 then 1 else 2 + u.band, u.off, u.len)
  let n := match unitOf us 2 with
    | some u => numAt (workInput s w) (u.off + 8) 2
    | none => 0
  let w := if audio then { w with stamp := wrap32 h.number, samples := n } else w
  let w := { w with parsed := true, startPic := h.start, note, units, head := some h }
  formDecode (putWork s w) k j w p us h

/-- R287: a picture that a decoder discards before it has joined the stream is counted. -/
def discardPicture (s : State) (k : Nat) : State := if (ctxOf s k).joined then s else addReg s (ctxIndex k) 0x41 1

/-- R290: one input picture of a decoding package. -/
def parsePicture (s : State) (k j : Nat) (w : Work) (p : Pkg) : State :=
  let bs := workInput s w
  let audio := isAudio p.kind
  let skip (s : State) (st : Nat) : State := endParse (discardPicture s k) k j w st
  match parseUnits bs (bs.length + 1) 0 with
  | none => skip s stBadBitstream
  | some us =>
    let head := unitOf us 1
    let seq := head.bind (parseSeq bs audio)
    if !unitsOrdered us ∨ us.any (fun u => u.type == 5 && decide (u.band ≥ bandCount s k)) ∨ (head.isSome ∧ seq.isNone) then skip s stBadBitstream
    else
      let c := ctxOf s k
      let refused := match seq with
        | some h => !seqMatches s k p h
        | none => c.seqHeader.isNone
      if refused then skip (putCtx s k { c with seqHeader := none }) stSequenceMismatch
      else
        let s := match seq with
          | some h => putCtx s k { c with seqHeader := some h }
          | none => s
        match (unitOf us 2).bind (parsePic bs audio) with
        | none => skip s stBadBitstream
        | some h =>
          if c.joined then acceptPicture s k j w p us h false
          else if joinPoint audio seq.isSome h then acceptPicture s k j w p us h true
          else skip (putCtx s k { ctxOf s k with seqHeader := none }) stSequenceMismatch

/-- R435: a picture that was parsed before its work was run again: what its run starts from is formed again, nothing else changes. -/
def parseAgain (s : State) (k j : Nat) (w : Work) (p : Pkg) : State :=
  let bs := workInput s w
  match parseUnits bs (bs.length + 1) 0, w.head with
  | some us, some h => formDecode (putWork s { w with parsed := true }) k j { w with parsed := true } p us h
  | _, _ => s

/-- PARSE_INPUT_PICTURE (R290): once the frames before it have committed and its band object exists. -/
def parseInput (s : State) (work : WorkId) : State :=
  match findWork s work, work with
  | some w, .frame k j =>
    match pkgOf s w.slot with
    | none => s
    | some p =>
      let earlier := s.works.any fun o => match o.id with
        | .frame k' j' => k' == k && decide (j' < j)
        | .job _ _ _ => false
      if !unparsed s w ∨ earlier ∨ w.result.isSome ∨ (p.nSync > 0 ∧ (syncBase s work).isNone) then s
      else if w.head.isSome then parseAgain s k j w p
      else
        let c := ctxOf s k
        parsePicture (putCtx s k { c with emitted := c.emitted + w.inLen }) k j w p
  | _, _ => s

def execParseInputPicture (work : WorkId) (s : State) : Host.Outcome State Fault Refusal :=
  whenService s fun s => parseInput s work

/-! ### Decoded vectors (R281) -/

/-- R281: a decoded component: q + μ, clamped. -/
def decodedVec (q m : Nat) : Int :=
  let a := decodeF 2 q
  let b := decodeF 1 m
  clampInt (nearestInt (dyAdd a.mant a.exp b.mant b.exp).1 (dyAdd a.mant a.exp b.mant b.exp).2) (-2048) 2047

/-- R281: the vectors that a decoded motion segment gives: its residuals and its operands' μ. -/
def decodedVecs (s : State) (k : Nat) (w : Work) (g : SegRec) : List (Int × Int) :=
  let q := segAddr s w g.locQ true
  let m := segAddr s w g.locMs false
  let one (e : Nat) : Int := decodedVec (s.mem.num (q + 4 * e) 4) (s.mem.num (m + 4 * e) 2)
  (List.range (motionBlocks s k)).map fun i => (one (2 * i), one (2 * i + 1))

/-- R281, R282: once the motion segment of a picture has been decoded, its vectors are taken and its warped reference formed. -/
def takeVectors (s : State) (work : WorkId) (seg : Nat) : State :=
  match findWork s work, work with
  | some w, .frame k j =>
    match (pkgOf s w.slot).bind fun p => (classOf p w.cls).map fun c => (p, c) with
    | none => s
    | some (p, c) =>
      match motionSeg p w c, w.head with
      | some (i, g), some h =>
        if p.kind = 2 ∧ i = seg ∧ (segDone w seg).isSome ∧ !h.start ∧ (nget (ctxOf s k).vecs j).isNone ∧ g.locQ ≠ segLocNone then
          warpDecoded s k j w p h (decodedVecs s k w g)
        else s
      | _, _ => s
  | _, _ => s

/-- SEGMENT_DECODE (R207, R215, R281). -/
def execSegmentDecode (lane : Nat) (work : WorkId) (seg : Nat) (s : State) : Host.Outcome State Fault Refusal :=
  whenService s fun s => takeVectors (decodeStep s lane work seg) work seg

/-! ### What a committed picture leaves (R283, R287 to R289, R296) -/

/-- R283, R296: the synthesis output of a work where its package leaves it: the picture's reconstruction, or an audio frame's samples. -/
def synthesis (s : State) (k : Nat) (w : Work) (p : Pkg) : Option (List Byte) :=
  let (num, off, fmt) := Config.packagePlace p.id 2
  let (pw, ph, chroma) := codedSize s k
  let f := if isAudio p.kind then 2 else fmt % 3
  let n := if isAudio p.kind then w.samples * ctxReg s k 0x0C
    else (((List.range (if chroma = 2 then 1 else 3)).map fun i => let d := extendedDims pw ph chroma i; d.1 * d.2).foldl (· + ·) 0)
  match regionOf w num with
  | some r =>
    if r.rw ∧ off + n * fmtBytes f ≤ r.len then
      let bs := s.mem.read (r.base + off) (n * fmtBytes f)
      some (if isAudio p.kind then decodedAudio bs else reconstruct pw ph chroma (codedDepth s k) f bs)
    else none
  | none => none

/-- R283, R288: a reconstruction becomes the previous picture, and where `store` names it a long-term slot; the other slots stay. -/
def storeRecon (s : State) (k j : Nat) (w : Work) (store : Option Nat) (bs : List Byte) : State :=
  let put (s : State) (d : RegionDecl) (b : List Byte) : State := putAt s w d.num 0 b
  let s := match pictureRegion s k with
    | some d => put s d bs
    | none => s
  (List.range 4).foldl (fun s i => match slotRegion s k i with
    | some d => put s d (if store = some i then bs else readDecl s k j d)
    | none => s) s

/-- R283, R288, R296: what firmware makes of a finished frame of a codec package: the reconstruction where it is kept, and a decoder's output
picture or samples. -/
def formOutput (s : State) (k j : Nat) (w : Work) : State :=
  match pkgOf s w.slot with
  | none => s
  | some p =>
    match (if p.kind = 1 ∨ p.kind = 2 ∨ p.kind = 4 then synthesis s k w p else none) with
    | none => s
    | some bs =>
      let store := if p.kind = 1 then storeSlot s k j else (w.head.map (·.store)).filter fun n => decide (n ≤ 3)
      let s := if p.kind = 4 then s else storeRecon s k j w store bs
      match (if p.kind = 1 then none else w.regions.find? fun r => r.source == 3) with
      | some r => putAt s w r.num 0 bs
      | none => s

/-- R281, R288, R289: what a decoding context keeps of a picture that commits: its number, its vectors, the slot that holds it. -/
def decodeEnd (s : State) (k j : Nat) (w : Work) : State :=
  let c := ctxOf s k
  match w.head with
  | none => s
  | some h =>
    let slots := if h.store ≤ 3 ∧ ctxKind s k = 2 then c.ltSlots.filter (fun e => e.1 != h.store) ++ [(h.store, h.number)] else c.ltSlots
    putCtx s k { c with lastPic := some h.number, ltSlots := slots, prevVecs := ngetD c.vecs j [], vecs := ndel c.vecs j }

/-- A decoding context forgets the vectors of a picture that did not commit. -/
def decodeFailed (s : State) (k j : Nat) : State :=
  let c := ctxOf s k
  putCtx s k { c with vecs := ndel c.vecs j }

/-! ### Sync windows (R168, R307) -/

/-- SYNC_WINDOW_ALLOCATE (R168): what waited for a frame's objects to tell of its vectors goes on. -/
def execSyncWindowAllocate (work : WorkId) (s : State) : Host.Outcome State Fault Refusal :=
  whenControlled s fun s => match work with
    | .frame k j => deliverVectors (allocSync s work) k j
    | .job _ _ _ => allocSync s work

end Sys2Proof.Machine
end

