-- ==== Sys2Proof/Machine/Payloads.lean ====
section
/-! DEFINITION. The payload formats of the media ports: ST 2110-20, ST 2110-30, RFC 7798, RFC 6184 and the AV1 payload
specification as published (log 35), and the OLV and OLA format (R336, R339 to R341). -/
namespace Sys2Proof.Machine
open Sys2Proof

/-! ### OLV and OLA (R340, R341) -/

/-- A byte string in chunks of `n`; one empty chunk for no bytes. -/
def chunksOf (n : Nat) : Nat → List Byte → List (List Byte)
  | 0, _ => []
  | fuel + 1, bs => if bs.length ≤ n then [bs] else bs.take n :: chunksOf n fuel (bs.drop n)

/-- R275: the offsets at which units begin. -/
def unitStarts : Nat → Nat → List Byte → List Nat
  | 0, _, _ => []
  | fuel + 1, at', bs =>
    if bs.length < 8 then []
    else
      let n := 8 + numAt bs 4 4
      at' :: unitStarts fuel (at' + n) (bs.drop n)

/-- R340: the payload header: K, I, first_unit and the offset, in network byte order. -/
def olvHeader (seqHeader start : Bool) (first off : Nat) : List Byte :=
  beBytes 2 (0x4000 + (if seqHeader then 0x2000 else 0) + if start then 0x1000 else 0) ++ beBytes 2 first ++ beBytes 4 off

/-- R340: the packet payloads of one picture's byte stream. -/
def olvPackets (seqHeader start : Bool) (size : Nat) (bs : List Byte) : List (List Byte) :=
  let starts := unitStarts (bs.length / 8 + 1) 0 bs
  (chunksOf size (bs.length + 1) bs).zipIdx.map fun e =>
    let off := e.2 * size
    let first := match starts.find? fun u => decide (off ≤ u) && decide (u < off + e.1.length) with
      | some u => u - off
      | none => 0xFFFF
    olvHeader seqHeader start first off ++ e.1

/-- R340: a packet with another version or a reserved bit set is dropped. -/
def olvPacketOk (p : List Byte) : Bool := decide (8 ≤ p.length) && beNat (p.take 2) / 2 ^ 14 == 1 && beNat (p.take 2) % 2 ^ 12 == 0

/-- R341: a packet's data: (offset, first_unit, bytes). -/
def olvPiece (p : List Byte) : Nat × Nat × List Byte := (beNat (sliceAt p 4 4), beNat (sliceAt p 2 2), p.drop 8)

/-- Insertion by offset, each offset once. -/
def insertPiece (x : Nat × Nat × List Byte) : List (Nat × Nat × List Byte) → List (Nat × Nat × List Byte)
  | [] => [x]
  | y :: r => if x.1 < y.1 then x :: y :: r else if x.1 = y.1 then y :: r else y :: insertPiece x r

/-- Runs of bytes without a gap, each from the first unit that begins in it: (where the run begins, its bytes). -/
def contiguous : List (Nat × Nat × List Byte) → Option (Nat × List Byte) → List (Nat × List Byte)
  | [], none => []
  | [], some r => [r]
  | (off, first, bs) :: rest, none =>
    if first = 0xFFFF then contiguous rest none else contiguous rest (some (off + first, bs.drop first))
  | (off, first, bs) :: rest, some (a, run) =>
    if off = a + run.length then contiguous rest (some (a, run ++ bs))
    else (a, run) :: (if first = 0xFFFF then contiguous rest none else contiguous rest (some (off + first, bs.drop first)))

/-- The whole units at the front of a run. -/
def wholeUnits : Nat → List Byte → List Byte
  | 0, _ => []
  | fuel + 1, bs =>
    let n := 8 + numAt bs 4 4
    if bs.length < 8 ∨ bs.length < n then [] else bs.take n ++ wholeUnits fuel (bs.drop n)

/-- R341: the units whose every byte arrived, in offset order. -/
def olvReassemble (packets : List (List Byte)) : List Byte :=
  let pieces := (packets.map olvPiece).foldr insertPiece []
  (contiguous pieces none).flatMap fun r => wholeUnits (r.2.length / 8 + 1) r.2

/-! ### ST 2110-20 (R336, R343) -/

/-- Numbers of `w` bits packed most significant bit first into whole bytes. -/
def packWords (w : Nat) (vs : List Nat) : List Byte := beBytes (ceilDiv (w * vs.length) 8) (vs.foldl (fun a v => a * 2 ^ w + v % 2 ^ w) 0)

/-- `n` numbers of `w` bits from bytes. -/
def unpackWords (w n : Nat) (bs : List Byte) : List Nat :=
  let v := beNat bs
  (List.range n).map fun i => v / 2 ^ (8 * bs.length - w * (i + 1)) % 2 ^ w

/-- A format of pictures on the wire. -/
structure PicFormat where
  w      : Nat
  h      : Nat
  chroma : Nat
  depth  : Nat
deriving DecidableEq, Repr

/-- Does the format carry two lines in one row of pixel groups (4:2:0). -/
def PicFormat.paired (f : PicFormat) : Bool := f.chroma == 0
/-- Samples in one unit two pixels wide, and units in a pixel group. -/
def PicFormat.unit (f : PicFormat) : Nat := if f.paired then 6 else 4
def PicFormat.units (f : PicFormat) : Nat := if f.paired && f.depth == 10 then 2 else 1
/-- The bytes and the pixels of width of one pixel group. -/
def PicFormat.group (f : PicFormat) : Nat := f.unit * f.units * f.depth / 8
def PicFormat.pixels (f : PicFormat) : Nat := 2 * f.units

/-- The sample numbers, in the planar layout of R283, of the unit at column pair `x` of row `y`: the wire order of the standard. -/
def PicFormat.samples (f : PicFormat) (x y : Nat) : List Nat :=
  let cw := (f.w + 1) / 2
  let n := f.w * f.h
  if f.paired then
    let c := y / 2 * cw + x
    let p := cw * ((f.h + 1) / 2)
    [y * f.w + 2 * x, y * f.w + 2 * x + 1, (y + 1) * f.w + 2 * x, (y + 1) * f.w + 2 * x + 1, n + c, n + p + c]
  else
    let c := y * cw + x
    [n + c, y * f.w + 2 * x, n + cw * f.h + c, y * f.w + 2 * x + 1]

/-- The rows of pixel groups. -/
def PicFormat.rows (f : PicFormat) : List Nat := if f.paired then (List.range ((f.h + 1) / 2)).map (2 * ·) else List.range f.h

/-- R336: the packet payloads of a picture: one line segment a packet, each of whole pixel groups and at most `size` bytes. -/
def videoPackets (f : PicFormat) (size seq0 : Nat) (bs : List Byte) : List (List Byte) :=
  let pic := bs.toArray
  let sample (i : Nat) : Nat := leNat [pic.getD (2 * i) 0, pic.getD (2 * i + 1) 0]
  let perPacket := Nat.max 1 (size / f.group)
  let perRow := ceilDiv f.w f.pixels
  let segments := f.rows.flatMap fun y => (List.range (ceilDiv perRow perPacket)).map fun i => (y, i * perPacket)
  segments.zipIdx.map fun e =>
    let (y, g) := e.1
    let n := Nat.min perPacket (perRow - g)
    let data := (List.range (n * f.units)).flatMap fun u => f.samples (g * f.units + u) y
    beBytes 2 ((seq0 + e.2) / 65536) ++ beBytes 2 (n * f.group) ++ beBytes 2 y ++ beBytes 2 (g * f.pixels) ++ packWords f.depth (data.map sample)

/-- The line segments that a payload's headers announce: (length, row, offset), and where its data begins. -/
def segmentHeaders : Nat → List Byte → List (Nat × Nat × Nat) × Nat
  | 0, _ => ([], 0)
  | fuel + 1, bs =>
    let here := (beNat (bs.take 2), beNat (sliceAt bs 2 2), beNat (sliceAt bs 4 2) % 2 ^ 15)
    if bs.length < 6 then ([], 0)
    else if beNat (sliceAt bs 4 2) / 2 ^ 15 = 1 then
      let (l, n) := segmentHeaders fuel (bs.drop 6)
      (here :: l, n + 6)
    else ([here], 6)

/-- R336: progressive only: no segment carries the field bit. -/
def progressive (p : List Byte) : Bool := (segmentHeaders 8 (p.drop 2)).1.all fun h => decide (h.2.1 < 2 ^ 15)

/-- The samples that one segment's data sets: (sample number, value). -/
def segmentSamples (f : PicFormat) (row off : Nat) (bs : List Byte) : List (Nat × Nat) :=
  let groups := bs.length / Nat.max 1 f.group
  let vals := unpackWords f.depth (groups * f.units * f.unit) (bs.take (groups * f.group))
  ((List.range (groups * f.units)).flatMap fun u => f.samples (off / 2 + u) row).zip vals

/-- The samples of a payload. -/
def payloadSamples (f : PicFormat) (p : List Byte) : List (Nat × Nat) :=
  let (heads, n) := segmentHeaders 8 (p.drop 2)
  (heads.foldl (fun (acc : List (Nat × Nat) × List Byte) h =>
    (acc.1 ++ segmentSamples f h.2.1 h.2.2 (acc.2.take h.1), acc.2.drop h.1)) ([], p.drop (2 + n))).1

/-- R343: the picture that the payloads of a frame leave on the fill. -/
def videoFrame (f : PicFormat) (fill : List Byte) (payloads : List (List Byte)) : List Byte :=
  let top := pictureSamples f.w f.h f.chroma
  let a := (payloads.flatMap (payloadSamples f)).foldl (fun (a : Array Byte) e =>
    if e.1 < top then (a.setIfInBounds (2 * e.1) (BitVec.ofNat 8 e.2)).setIfInBounds (2 * e.1 + 1) (BitVec.ofNat 8 (e.2 / 256)) else a)
    fill.toArray
  a.toList

/-- R307: the luma rows, from the first, that the payloads of a frame have brought whole: planar samples. -/
def lumaArrived (f : PicFormat) (payloads : List (List Byte)) : List Byte :=
  let top := f.w * f.h
  let a := (payloads.flatMap (payloadSamples f)).foldl (fun (a : Array (Option Nat)) e => if e.1 < top then a.setIfInBounds e.1 (some e.2) else a)
    (List.replicate top none).toArray
  let rows := ((a.toList.findIdx? (·.isNone)).getD top) / Nat.max 1 f.w
  (a.toList.take (f.w * rows)).flatMap fun v => leBytes 2 (v.getD 0)

/-! ### HEVC and H.264 (R336): RFC 7798 and RFC 6184 -/

/-- The units between the start codes of a byte stream, without trailing zeros. `acc` is the unit in hand, last byte first. -/
def nalUnits : Nat → List Byte → List Byte → List (List Byte)
  | 0, _, _ => []
  | fuel + 1, acc, bs =>
    let unit := (acc.dropWhile (· == 0)).reverse
    let here := if unit = [] then [] else [unit]
    match bs with
    | [] => here
    | b :: r => if bs.take 3 == [0, 0, 1] then here ++ nalUnits fuel [] (bs.drop 3) else nalUnits fuel (b :: acc) r

/-- A NAL payload format: the bytes of a unit's header, the types of aggregation and fragmentation packets, and those beyond R336. -/
structure NalFormat where
  head     : Nat
  joined   : Nat
  fragment : Nat
  refused  : List Nat
deriving DecidableEq, Repr

def hevcNal : NalFormat := ⟨2, 48, 49, [50]⟩
def avcNal : NalFormat := ⟨1, 24, 28, [25, 26, 27, 29]⟩

/-- The type in a header's first byte, and that byte with another type. -/
def NalFormat.kind (f : NalFormat) (b : Nat) : Nat := if f.head = 2 then b / 2 % 64 else b % 32
def NalFormat.withKind (f : NalFormat) (b t : Nat) : Nat := if f.head = 2 then b / 128 * 128 + 2 * t + b % 2 else b / 32 * 32 + t

/-- The packets of one HEVC unit: the unit alone, or fragmentation units of at most `size` bytes. -/
def hevcPackets (size : Nat) (unit : List Byte) : List (List Byte) :=
  if unit.length ≤ size then [unit]
  else
    let b := beNat (unit.take 1)
    let parts := chunksOf (size - 3) unit.length (unit.drop 2)
    parts.zipIdx.map fun e =>
      let mark := (if e.2 = 0 then 128 else 0) + if e.2 + 1 = parts.length then 64 else 0
      leBytes 1 (hevcNal.withKind b 49) ++ sliceAt unit 1 1 ++ leBytes 1 (mark + hevcNal.kind b) ++ e.1

/-- The units of an aggregation packet. -/
def joinedUnits : Nat → List Byte → List (List Byte)
  | 0, _ => []
  | fuel + 1, bs =>
    let n := beNat (bs.take 2)
    if bs.length < 2 ∨ bs.length < 2 + n then [] else sliceAt bs 2 n :: joinedUnits fuel (bs.drop (2 + n))

/-- What a depacketiser has: whole units, and a fragmented one in hand with the sequence number that continues it. -/
structure Gathered where
  units : List (List Byte) := []
  open_ : Option (Nat × List Byte) := none
deriving DecidableEq, Repr

/-- A piece of a unit that `first` begins and `last` ends; a unit that misses a piece is dropped. -/
def Gathered.piece (g : Gathered) (seq : Nat) (first last : Bool) (bs : List Byte) : Gathered :=
  let had : Option (List Byte) := if first then some bs else g.open_.bind fun o => if o.1 = seq then some (o.2 ++ bs) else none
  match had with
  | none => { g with open_ := none }
  | some u => if last then { units := g.units ++ [u] } else { g with open_ := some (seq + 1, u) }

/-- One packet of NAL units. -/
def NalFormat.gather (f : NalFormat) (g : Gathered) (p : Nat × List Byte) : Gathered :=
  let b := beNat (p.2.take 1)
  let t := f.kind b
  if t = f.joined then { units := g.units ++ joinedUnits p.2.length (p.2.drop f.head) }
  else if t = f.fragment then
    let m := beNat (sliceAt p.2 f.head 1)
    let head := leBytes 1 (f.withKind b (if f.head = 2 then m % 64 else m % 32)) ++ sliceAt p.2 1 (f.head - 1)
    g.piece p.1 (m.testBit 7) (m.testBit 6) ((if m.testBit 7 then head else []) ++ p.2.drop (f.head + 1))
  else { units := g.units ++ [p.2] }

/-- The byte stream of units. -/
def startCoded (units : List (List Byte)) : List Byte := units.flatMap fun u => [0, 0, 0, 1] ++ u

/-! ### AV1 (R336) -/

/-- A number in leb128, and one read: (value, the bytes behind it). -/
def lebBytes : Nat → Nat → List Byte
  | 0, _ => []
  | fuel + 1, n => if n < 128 then leBytes 1 n else leBytes 1 (n % 128 + 128) ++ lebBytes fuel (n / 128)
def lebRead : Nat → List Byte → Nat × List Byte
  | 0, bs => (0, bs)
  | _, [] => (0, [])
  | fuel + 1, b :: r => if b.toNat < 128 then (b.toNat, r) else let (v, rest) := lebRead fuel r; (b.toNat % 128 + 128 * v, rest)

/-- The bytes of an OBU's header, and its type. -/
def obuHead (bs : List Byte) : Nat := if (beNat (bs.take 1)).testBit 2 then 2 else 1
def obuType (bs : List Byte) : Nat := beNat (bs.take 1) / 8 % 16

/-- The OBU elements of a low-overhead byte stream: each OBU without its size field, temporal delimiters left out. -/
def obuElements : Nat → List Byte → List (List Byte)
  | 0, _ => []
  | fuel + 1, bs =>
    if bs = [] then []
    else
      let h := obuHead bs
      let b := beNat (bs.take 1)
      let (n, data) := if b.testBit 1 then lebRead 8 (bs.drop h) else (bs.length - h, bs.drop h)
      let one := leBytes 1 (if b.testBit 1 then b - 2 else b) ++ sliceAt bs 1 (h - 1) ++ data.take n
      (if obuType bs = 2 then [] else [one]) ++ obuElements fuel (data.drop n)

/-- R336: one OBU element a packet, or a fragment of one: Z, Y, W = 1 and N. -/
def av1Packets (size : Nat) (bs : List Byte) : List (List Byte) :=
  let elems := obuElements bs.length bs
  let fresh := elems.any fun e => obuType e == 1
  let all := elems.flatMap fun e =>
    let parts := chunksOf (size - 1) (e.length + 1) e
    parts.zipIdx.map fun x => ((if x.2 = 0 then 0 else 128) + (if x.2 + 1 = parts.length then 0 else 64) + 16, x.1)
  all.zipIdx.map fun x => leBytes 1 (x.1.1 + if x.2 = 0 ∧ fresh then 8 else 0) ++ x.1.2

/-- The elements of a packet: each with its length, but for the last of a counted packet. -/
def av1Elements : Nat → Nat → List Byte → List (List Byte)
  | 0, _, _ => []
  | fuel + 1, w, bs =>
    if bs = [] then []
    else if w = 1 then [bs]
    else
      let (n, data) := lebRead 8 bs
      data.take n :: av1Elements fuel (w - 1) (data.drop n)

/-- One AV1 packet. -/
def gatherAv1 (g : Gathered) (p : Nat × List Byte) : Gathered :=
  let b := beNat (p.2.take 1)
  let es := av1Elements p.2.length (if b / 16 % 4 = 0 then p.2.length + 2 else b / 16 % 4) (p.2.drop 1)
  es.zipIdx.foldl (fun g x =>
    g.piece p.1 (!(x.2 == 0 && b.testBit 7)) (!(x.2 + 1 == es.length && b.testBit 6)) x.1) g

/-- An OBU with its size field. -/
def sizedObu (e : List Byte) : List Byte :=
  let h := obuHead e
  let b := beNat (e.take 1)
  if b.testBit 1 then e else leBytes 1 (b + 2) ++ sliceAt e 1 (h - 1) ++ lebBytes 8 (e.length - h) ++ e.drop h

/-! ### The block services' payloads by the code of .2A -/

/-- R336: a payload that the format may carry. -/
def blockPayloadOk (fmt : Nat) (p : List Byte) : Bool :=
  let f := if fmt = 3 then hevcNal else avcNal
  !p.isEmpty && (fmt == 4 || !f.refused.contains (f.kind (beNat (p.take 1))))

/-- The packet payloads of an access unit. H.264 is never sent. -/
def blockPackets (fmt size : Nat) (bs : List Byte) : List (List Byte) :=
  if fmt = 3 then (nalUnits (bs.length + 1) [] bs).flatMap (hevcPackets size) else if fmt = 4 then av1Packets size bs else []

/-- The access unit that packets carry, (sequence number, payload) in order: the units of which every byte came. -/
def blockUnit (fmt : Nat) (ps : List (Nat × List Byte)) : List Byte :=
  if fmt = 4 then [0x12, 0] ++ (ps.foldl gatherAv1 {}).units.flatMap sizedObu
  else startCoded (ps.foldl (if fmt = 3 then hevcNal else avcNal).gather {}).units

/-! ### Packets of an arriving frame (R342, R343) -/

/-- The packets of a frame, in sequence order. -/
def insertHeld (x : HeldPacket) : List HeldPacket → List HeldPacket
  | [] => [x]
  | y :: r => if x.seq < y.seq then x :: y :: r else y :: insertHeld x r
def framePackets (c : Ctx) (f : InFrame) : List HeldPacket := (c.packets.filter fun h => h.key == f.key).foldr insertHeld []

/-- The picture format in which a context's input comes. -/
def inPicture (s : State) (k : Nat) : PicFormat := ⟨ctxReg s k 0x06, ctxReg s k 0x07, ctxReg s k 0x0A, ctxReg s k 0x0B⟩

/-! ### ST 2110-30 (R336) -/

/-- Samples of i32, interleaved, to L24 packets of 48 sample times: (sample offset, payload). -/
def audioPackets (channels : Nat) (bs : List Byte) : List (Nat × List Byte) :=
  let n := bs.length / (4 * Nat.max 1 channels)
  (List.range (ceilDiv n 48)).map fun p =>
    let k := Nat.min 48 (n - 48 * p)
    (48 * p, (List.range (k * channels)).flatMap fun i => (sliceAt bs (4 * (48 * p * channels + i)) 3).reverse)

/-- A payload of `width` bytes a sample as i32 samples of 24-bit PCM. -/
def audioSamples (width : Nat) : Nat → List Byte → List Byte
  | 0, _ => []
  | fuel + 1, bs =>
    if bs.length < width ∨ width = 0 then []
    else leBytes 4 (codeOf 32 (signedOf (8 * width) (beNat (bs.take width)) * 2 ^ (24 - 8 * width))) ++ audioSamples width fuel (bs.drop width)

end Sys2Proof.Machine
end

