-- ==== Sys2Proof/Machine/Motion.lean ====
section
/-! DEFINITION. The motion estimator (R281, R284, R286, R305 to R309, R311, R312). -/
namespace Sys2Proof.Machine
open Sys2Proof

/-! ### Candidates and costs (R305, R306) -/

abbrev Vec := Int × Int

/-- What one block is searched against: current and reference luma, λ, the block, its co-located vector, under restricted refresh the
rows it may read, and by how much both planes are subsampled. -/
structure BlockEnv where
  cur  : Plane
  ref  : Plane
  lam  : Nat
  x    : Nat
  y    : Nat
  size : Nat
  pred : Vec
  rows : Option Nat
  sub  : Nat
deriving DecidableEq, Repr

/-- R306: components clamped to −2,048 … 2,047. -/
def clampVec (v : Vec) : Vec := (clampInt v.1 (-2048) 2047, clampInt v.2 (-2048) 2047)

/-- R286, R311: every sample that the warp of a block reads lies in the allowed rows. -/
def vecAllowed (e : BlockEnv) (v : Vec) : Bool :=
  match e.rows with
  | none => true
  | some n =>
    let last := Nat.min (e.y + e.size) e.cur.h - 1
    decide (clampCoord ((last : Int) + v.2 / (4 * e.sub) + 1) e.ref.h < ceilDiv n e.sub)

/-- R306: the cost of a vector: absolute differences over the block's samples in the picture, and λ times the distance from the
co-located vector. On subsampled planes the vector counts in samples of the picture (log 30). -/
def blockCost (e : BlockEnv) (v : Vec) : Nat :=
  let xs := (List.range e.size).filter fun i => decide (e.x + i < e.cur.w)
  let ys := (List.range e.size).filter fun i => decide (e.y + i < e.cur.h)
  let sad := ys.foldl (fun a j => xs.foldl (fun a i =>
    let c := e.cur.get (e.x + i : Nat) (e.y + j : Nat)
    let r := warpSample e.ref (e.x + i : Nat) (e.y + j : Nat) (v.1 / e.sub) (v.2 / e.sub) 4 4
    a + (c - r) + (r - c)) a) 0
  sad + e.lam * ((v.1 - e.pred.1).natAbs + (v.2 - e.pred.2).natAbs)

/-- R306: one evaluation: a strictly smaller cost replaces the best so far. -/
def tryVec (e : BlockEnv) (best : Option (Nat × Vec)) (v : Vec) : Option (Nat × Vec) :=
  let v := clampVec v
  if !vecAllowed e v then best
  else
    let j := blockCost e v
    match best with
    | some (b, _) => if j < b then some (j, v) else best
    | none => some (j, v)

/-- The eight neighbours at a distance, in raster order (log 30). -/
def neighbours (v : Vec) (d : Int) : List Vec :=
  [(-1, -1), (0, -1), (1, -1), (-1, 0), (1, 0), (-1, 1), (0, 1), (1, 1)].map fun (a, b) => (v.1 + a * d, v.2 + b * d)

/-- The square of vectors within `n` steps of `d` about one, in raster order (log 30). -/
def square (v : Vec) (n : Nat) (d : Int) : List Vec :=
  (List.range (2 * n + 1)).flatMap fun y => (List.range (2 * n + 1)).map fun x =>
    (v.1 + (Int.ofNat x - Int.ofNat n) * d, v.2 + (Int.ofNat y - Int.ofNat n) * d)

/-- One round of refinement about the best vector. -/
def refineRound (e : BlockEnv) (d : Int) (best : Option (Nat × Vec)) : Option (Nat × Vec) :=
  match best with
  | some (_, v) => (neighbours v d).foldl (tryVec e) best
  | none => none

/-- R305: the integer rounds, repeated while the cost falls. -/
def refineInteger (e : BlockEnv) : Nat → Option (Nat × Vec) → Option (Nat × Vec)
  | 0, best => best
  | n + 1, best =>
    let next := refineRound e 4 best
    if next = best then best else refineInteger e n next

/-- R305: integer, half and quarter refinement. -/
def refineLive (e : BlockEnv) (best : Option (Nat × Vec)) : Option (Nat × Vec) :=
  refineRound e 1 (refineRound e 2 (refineInteger e 16 best))

/-- R305: the best of the squares about a vector on subsampled planes: `n` steps of one sample there. -/
def searchSquare (e : BlockEnv) (v : Vec) (n : Nat) : Option Vec :=
  let d : Int := 4 * e.sub
  (((square (v.1 / d * d, v.2 / d * d) n d).foldl (tryVec e) none).map (·.2))

/-- R305: the refinement of an archive search: `half` sees the planes at 2:1. -/
def refineArchive (e half : BlockEnv) (best : Option (Nat × Vec)) : Option (Nat × Vec) :=
  let best := match best.bind fun b => searchSquare half b.2 4 with
    | some v => (square v 2 4).foldl (tryVec e) best
    | none => best
  refineLive e best

/-- The median of three. -/
def median3 (a b c : Int) : Int := if a ≤ b then (if b ≤ c then b else if a ≤ c then c else a) else if a ≤ c then a else if b ≤ c then c else b

/-- R305: the candidates of a block in order: zero, co-located, left, above, above-right, and outside the OLV mode the median of
the last three where all three exist. -/
def candidates (olv : Bool) (pred : Vec) (left above right : Option Vec) : List Vec :=
  let list := [some (0, 0), some pred, left, above, right].filterMap id
  match left, above, right with
  | some a, some b, some c => if olv then list else list ++ [(median3 a.1 b.1 c.1, median3 a.2 b.2 c.2)]
  | _, _, _ => list

/-- The nearest vector to zero, straight up, that restricted refresh allows a block whose every candidate it forbids (R286, R306; log 30). -/
def nearestAllowed (e : BlockEnv) : Vec :=
  match e.rows with
  | some n =>
    let last : Int := (Nat.min (e.y + e.size) e.cur.h - 1 : Nat)
    let d : Int := 4 * ((n : Int) - 2 - last)
    (0, if d < 0 then d else 0)
  | none => (0, 0)

/-! ### One row of blocks (R281, R306, R308, R309) -/

/-- A reference picture of a search: its luma, at 2:1 and at 4:1 where the search is an archive search, and the rows of it that the row of
blocks may read. -/
structure RefEnv where
  full : Plane
  half : Plane
  quarter : Plane
  rows : Option Nat
deriving DecidableEq, Repr

/-- How a row of blocks is searched: in the OLV mode, or in a block class, whose archive mode has the current picture at 2:1 and 4:1; the
vectors of the previous picture, whether the row is a stripe, and for each block whether it is refined. -/
structure RowEnv where
  cur     : Plane
  half    : Plane
  quarter : Plane
  archive : Bool
  refs    : List RefEnv
  lam     : Nat
  olv     : Bool
  row     : Nat
  prev    : List Vec
  still   : Bool
  fine    : List Bool
deriving DecidableEq, Repr

/-- R305: the entries that one 16 × 16 block leaves: its vector, and in the block classes those of its four 8 × 8 blocks. -/
def perBlock (olv : Bool) : Nat := if olv then 1 else 5

/-- The 16 × 16 vector of block `i` among a picture's entries. -/
def blockVec (olv : Bool) (vs : List Vec) (i : Nat) : Option Vec := vs[i * perBlock olv]?

/-- R305: the search of one block against one reference; `wide` has the archive mode search the 4:1 planes first. -/
def searchOne (r : RowEnv) (ref : RefEnv) (cands : List Vec) (x y size : Nat) (pred : Vec) (wide fine : Bool) : Nat × Vec :=
  let env (cur p : Plane) (n : Nat) : BlockEnv := ⟨cur, p, r.lam, x / n, y / n, size / n, pred, ref.rows, n⟩
  let e := env r.cur ref.full 1
  let first := if r.archive && wide then (searchSquare (env r.quarter ref.quarter 4) (0, 0) 64).toList else []
  let best := match (first ++ cands).foldl (tryVec e) none with
    | some b => some b
    | none => tryVec e none (nearestAllowed e)
  (if !fine then best else if r.archive then refineArchive e (env r.half ref.half 2) best else refineLive e best).getD (0, (0, 0))

/-- R308: the search against every reference: the first of least cost, and which reference it is. -/
def searchAll (r : RowEnv) (cands : List Vec) (x y size : Nat) (pred : Vec) (fine : Bool) : Vec × Nat :=
  match r.refs.zipIdx.map fun p => (searchOne r p.1 cands x y size pred true fine, p.2) with
  | [] => ((0, 0), 0)
  | a :: l =>
    let b := l.foldl (fun b c => if c.1.1 < b.1.1 then c else b) a
    (b.1.2, b.2)

/-- R281, R305: block `x16` of the row, with the entries found so far: its entries, and the reference that they are against. -/
def searchBlock (r : RowEnv) (wm : Nat) (done : List Vec) (x16 : Nat) : List Vec × Nat :=
  let i := r.row * wm + x16
  if r.still then (List.replicate (perBlock r.olv) (0, 0), 0)
  else
    let pred := (blockVec r.olv r.prev i).getD (0, 0)
    let left := if x16 = 0 then none else blockVec r.olv done (i - 1)
    let above := if r.row = 0 then none else blockVec r.olv done (i - wm)
    let right := if r.row = 0 ∨ x16 + 1 = wm then none else blockVec r.olv done (i - wm + 1)
    let fine := r.fine.getD x16 true
    let (v, n) := searchAll r (candidates r.olv pred left above right) (16 * x16) (16 * r.row) 16 pred fine
    if r.olv then ([v], n)
    else
      match r.refs[n]? with
      | some ref => (v :: [(0, 0), (8, 0), (0, 8), (8, 8)].map fun (dx, dy) =>
          (searchOne r ref [v] (16 * x16 + dx) (16 * r.row + dy) 8 pred false fine).2, n)
      | none => (List.replicate 5 v, n)

/-- R306: the blocks of a row in raster order: the picture's entries with those of the row, and the references with those of the row. -/
def searchRow (r : RowEnv) (done : List Vec) (refs : List Nat) : List Vec × List Nat :=
  let wm := ceilDiv r.cur.w 16
  (List.range wm).foldl (fun d x =>
    let b := searchBlock r wm d.1 x
    (d.1 ++ b.1, d.2 ++ [b.2])) (done, refs)

/-! ### The estimator at work on a stream (R281, R286, R288, R307, R311) -/

/-- The input picture j of a context as far as it is stored: issued, waiting, or arriving from the network as uncompressed video. -/
def inputOf (s : State) (k j : Nat) : Option (List Byte) :=
  match findWork s (.frame k j) with
  | some w => if w.raw.isSome then none else some (workInput s w)
  | none =>
    if scalerOn s k then none
    else ((ctxOf s k).inputs.find? fun f => f.j == j).map fun f =>
      if f.complete then f.bytes
      else if ctxReg s k 0x26 = 1 ∧ ctxReg s k 0x2A = 0 then lumaArrived (inPicture s k) ((framePackets (ctxOf s k) f).map (·.data))
      else []

/-- R288: the latest picture before j that was stored into a slot. -/
def storedIn (s : State) (k j slot : Nat) : Nat :=
  let kk := Nat.max 1 (ctxReg s k 0x1A)
  let ss := Nat.max 1 (ctxReg s k 0x1B)
  let n := (j - 1) / kk
  kk * (n - (n + ss - slot) % ss)

/-- R281, R288: the input picture that picture j is searched against. -/
def referenceInput (s : State) (k j : Nat) : Option (List Byte) :=
  match refSlot s k j with
  | some slot =>
    match inputOf s k (storedIn s k j slot) with
    | some b => some b
    | none => nget (ctxOf s k).ltInputs slot
  | none =>
    match inputOf s k (j - 1) with
    | some b => some b
    | none => if ctxReg s k 0x39 ≥ j ∧ (findWork s (.frame k (j - 1))).isNone then some (ctxOf s k).prevPic else none

/-- The vectors of picture j − 1. -/
def previousVecs (s : State) (k j : Nat) : List Vec := (nget (ctxOf s k).vecs (j - 1)).getD (ctxOf s k).prevVecs

/-- The first plane of a picture, and the plane subsampled. -/
def lumaOf (w h : Nat) (bs : List Byte) : Plane := ⟨w, h, (samplesOf (bs.take (2 * w * h))).toArray⟩
def subsampled (p : Plane) (n : Nat) : Plane :=
  ⟨ceilDiv p.w n, ceilDiv p.h n, (Config.subsample n p.w p.h p.px.toList).toArray⟩

/-- A reference with its subsampled planes where an archive search reads them. -/
def refEnv (archive : Bool) (w h : Nat) (bs : List Byte) (rows : Option Nat) : RefEnv :=
  let p := lumaOf w h bs
  if archive then ⟨p, subsampled p 2, subsampled p 4, rows⟩ else ⟨p, p, p, rows⟩

/-- R312: the rows refreshed in the picture that a long-term slot holds, in units of `unit` lines; all of them in a key picture. -/
def slotRows (s : State) (k j slot nb unit : Nat) : Nat :=
  let js := storedIn s k j slot
  if isService (binding s k) && keyPicture s k js then unit * nb else unit * sweepEdge (phaseOf s k js + 1) nb (refreshAt s k j)

/-- R286, R311, R312: the rows of the reference that a block row may read under restricted refresh; `unit` is the luma rows of a band,
`slot` the long-term slot that is referenced (log 30). -/
def allowedRows (s : State) (k j row unit : Nat) (slot : Option Nat) : Option Nat :=
  let r := refreshAt s k j
  let p := phaseOf s k j
  let nb := if isService (binding s k) then ceilDiv (codedSize s k).2.1 64 else bandCount s k
  if ctxReg s k 0x18 = 0 ∨ r = 0 ∨ sweepEdge (p + 1) nb r ≤ 16 * row / unit then none
  else match slot with
    | some i => if isService (binding s k) then some (slotRows s k j i nb unit) else some (unit * sweepEdge p nb r)
    | none => some (unit * sweepEdge p nb r)

/-- What a block-codec service keeps of earlier pictures as its settings see it. -/
def serviceArgs (s : State) (k : Nat) : Nat × List Byte := (binding s k, settingsBytes s k)

/-- Every earlier issued frame of a context has left its unit: all its tile jobs are done. -/
def earlierCoded (s : State) (k j : Nat) : Bool :=
  s.works.all fun w => match w.id with
    | .frame c i => c != k || decide (j ≤ i) || decide (w.aim ≤ w.segs.length) || w.result.isSome
    | .job _ _ _ => true

/-- R308: the reference pictures of a block encode of picture j, each with the long-term slot it stands in: the requested slot or the previous
picture, and in archive search the picture before it, unless a key picture has come since (log 30). -/
def blockRefs (s : State) (k j : Nat) : List (List Byte × Option Nat) :=
  let c := ctxOf s k
  let first := match refSlot s k j with
    | some slot => (ngetD c.ltInputs slot [], some slot)
    | none => (c.prevPic, none)
  if ctxReg s k 0x22 = 1 ∧ j ≥ 2 ∧ !keyPicture s k (j - 1) then [first, (c.prevPic2, none)] else [first]

/-- The context keeps the entries of one more row of picture j, which it is given where it waits for them. -/
def addVecs (s : State) (k j : Nat) (vs : List Vec × List Nat) : State :=
  let c := ctxOf s k
  deliverVectors (putCtx s k { c with vecs := nset c.vecs j vs.1, vecRefs := nset c.vecRefs j vs.2 }) k j

/-- Does a picture stand in the stream store as far as its luma row `n`. -/
def rowsPresent (bs : List Byte) (w h n : Nat) : Bool := decide (2 * w * Nat.min n h ≤ bs.length)

/-- R305, R307: block row `row` of OLV picture j, once the rows that its search window reads have come. -/
def searchOlv (s : State) (k j row : Nat) : State :=
  let (w, h, _) := codedSize s k
  let c := ctxOf s k
  match inputOf s k j, (if j = 0 then some [] else referenceInput s k j) with
  | some cur, some ref =>
    if !rowsPresent cur w h (16 * (row + 1)) ∨ (j ≠ 0 ∧ !rowsPresent ref w h (16 * (row + 1) + 513)) then s
    else
      let p := lumaOf w h cur
      let r : RowEnv := ⟨p, p, p, false, [refEnv false w h ref (allowedRows s k j row 32 (refSlot s k j))], ctxReg s k 0x24, true, row,
        if j = 1 then [] else previousVecs s k j, stripe s k j (row / 2), []⟩
      addVecs s k j (searchRow r (ngetD c.vecs j []) (ngetD c.vecRefs j []))
  | _, _ => s

/-! ### Early termination (R309) -/

/-- The tile column of each block of a row. -/
def blockTiles (widths : List Nat) : List Nat := widths.zipIdx.flatMap fun e => List.replicate (ceilDiv e.1 16) e.2

/-- R309: which blocks of a row are refined, and what is left of each tile's budget of blocks. -/
def spendBudget : List Nat → List Nat → List Bool × List Nat
  | [], left => ([], left)
  | t :: r, left =>
    let n := left.getD t 0
    let (l, left') := spendBudget r (if n = 0 then left else left.set t (n - 1))
    (decide (0 < n) :: l, left')

/-- R309: at the first block row of a coding row each tile gets a new budget, a free number of blocks. -/
def refillBudget (s : State) (k row tiles : Nat) : State :=
  if row % 4 = 0 then
    putCtx { s with free := s.free + tiles } k { ctxOf s k with budget := (List.range tiles).map fun t => Config.earlyStop (s.free + t) }
  else s

/-- R305, R308, R309: block row `row` of picture j of a block encode. -/
def searchService (s : State) (k j row : Nat) : State :=
  let (w, h, _) := codedSize s k
  match inputOf s k j with
  | none => s
  | some cur =>
    if !earlierCoded s k j ∨ keyPicture s k j then s
    else
      let archive := ctxReg s k 0x22 == 1
      let early := ctxReg s k 0x23 != 0
      let widths := columnWidths (binding s k == 0xF001) w (ctxReg s k 0x21)
      let s := if early then refillBudget s k row widths.length else s
      let c := ctxOf s k
      let (fine, left) := if early then spendBudget (blockTiles widths) c.budget else ([], c.budget)
      let s := putCtx s k { c with budget := left }
      let p := lumaOf w h cur
      let prev := if keyPicture s k (j - 1) then [] else previousVecs s k j
      let refs := (blockRefs s k j).map fun b => refEnv archive w h b.1 (allowedRows s k j row 64 b.2)
      let r : RowEnv := ⟨p, if archive then subsampled p 2 else p, if archive then subsampled p 4 else p, archive, refs, ctxReg s k 0x24, false, row,
        prev, false, fine⟩
      addVecs s k j (searchRow r (ngetD c.vecs j []) (ngetD c.vecRefs j []))

/-- R307, R315, R322: may estimator `core` serve a context: live, and one that its charges name or that stands in for it. -/
def estimatorOk (s : State) (core k : Nat) : Bool :=
  unitLive s ckEncode core && (ctxOf s k).charge.media.any fun m => m.1 == mkEstimator &&
    (m.2.1 == core || (!unitLive s ckEncode m.2.1 && standIn s ckEncode m.2.1 m.2.2 == some core))

/-- MOTION_SEARCH_ROW (R305 to R307): rows in order, pictures in order. -/
def searchMotion (s : State) (core k j row : Nat) : State :=
  let (w, h, _) := codedSize s k
  let c := ctxOf s k
  let block := binding s k == 0xF001 || binding s k == 0xF002
  let n := ceilDiv w 16 * perBlock (!block)
  let prevDone := j == 0 || j == c.firstJ || decide (j ≤ ctxReg s k 0x39 ∧ (findWork s (.frame k (j - 1))).isNone) ||
    decide (n * ceilDiv h 16 ≤ (ngetD c.vecs (j - 1) []).length) || (block && keyPicture s k (j - 1))
  let ready := estimatorOk s core k && runningState (ctxState s k) && decide (row < ceilDiv h 16) && (ngetD c.vecs j []).length == n * row && prevDone
  if !ready then s
  else if block then searchService s k j row
  else if needsMotion s k then searchOlv s k j row
  else s

def execMotionSearchRow (core ctx j row : Nat) (s : State) : Host.Outcome State Fault Refusal :=
  whenService s fun s => searchMotion s core ctx j row

end Sys2Proof.Machine
end

