-- ==== Sys2Proof/Machine/Video.lean ====
section
/-! DEFINITION. Scaler filter sets, the scaler/rotator, and the tile jobs of the block-codec cores (R298 to R304, R308 to R312, R316,
R318 to R321, R395). -/
namespace Sys2Proof.Machine
open Sys2Proof

/-! ### Filter sets (R320, R395) -/

/-- R320: set 0. -/
def filterZero : List Int :=
  (List.range 64).flatMap fun i =>
    let p : Int := (i : Nat)
    let c2 := (-(p * p * p) + 128 * p * p - 4096 * p + 256) / 512
    let c4 := (-3 * p * p * p + 256 * p * p + 4096 * p + 256) / 512
    let c5 := (p * p * p - 64 * p * p + 256) / 512
    [0, 0, c2, 1024 - c2 - c4 - c5, c4, c5, 0, 0]

/-- The i16 coefficients of a file of 1,024 bytes, phase-major. -/
def filterCoefs (bs : List Byte) : List Int := (samplesOf (bs.take 1024)).map fun c => signedOf 16 c

/-- R320: may a set be loaded. -/
def filterOk (cs : List Int) : Bool :=
  cs.all (fun c => decide (-1024 ≤ c) && decide (c ≤ 2047)) &&
  (List.range 64).all fun p =>
    let row := (cs.drop (8 * p)).take 8
    row.foldl (· + ·) 0 == 1024 && decide ((row.map Int.natAbs).foldl (· + ·) 0 ≤ 4096)

def setFilterStatus (s : State) (st : Nat) : State := setReg s 0x6100 0x09 st

/-- FILTER_SET_LOAD (R320, R446): set and address as #6100.06 and .07 hold them. -/
def loadFilter (s : State) : State :=
  let a := getReg s 0x6100 0x07
  let set := getReg s 0x6100 0x06
  let cs := filterCoefs (s.mem.read a 1024)
  if s.media.filterNext.isSome then setFilterStatus s stPending
  else if set = 0 ∨ set > 7 then setFilterStatus s stBadDescriptor
  else if badRange s a 1024 then setFilterStatus s stBadAddress
  else if !filterOk cs then setFilterStatus s stBadTable
  else setFilterStatus { s with media := { s.media with filterNext := some (set, some cs), filterAsked := counterOf s } } stPending

def execFilterSetLoad (s : State) : Host.Outcome State Fault Refusal := whenControlled s loadFilter

/-- A filter set is named by a context in states 2 … 5 or 7. -/
def filterUsed (s : State) (set : Nat) : Bool := (runningCtxs s).any fun k => scalerOn s k && numAt (scalerBlob s k) 16 1 == set

/-- FILTER_SET_UNLOAD (R395). -/
def unloadFilter (s : State) : State :=
  let set := getReg s 0x6100 0x06
  if s.media.filterNext.isSome then setFilterStatus s stPending
  else if set = 0 ∨ set > 7 then setFilterStatus s stBadDescriptor
  else if filterUsed s set then setFilterStatus s stSlotInUse
  else if (nget s.media.filters set).isNone then setFilterStatus s stEmptySlot
  else setFilterStatus { s with media := { s.media with filterNext := some (set, none), filterAsked := counterOf s } } stPending

def execFilterSetUnload (s : State) : Host.Outcome State Fault Refusal := whenControlled s unloadFilter

/-- R320: the pending load or unload takes effect; frames issued before keep the old set. -/
def switchFilter (s : State) (set : Nat) : State :=
  match s.media.filterNext with
  | some (n, new) =>
    if n ≠ set then s
    else
      let m := s.media
      let old := match nget m.filters set with
        | some cs => nset m.filterOld set cs
        | none => m.filterOld
      let filters := match new with
        | some cs => nset m.filters set cs
        | none => ndel m.filters set
      let bits := getReg s 0x6100 0x05
      let s := { s with media := { m with filters, filterOld := old, filterAt := nset m.filterAt set (counterOf s), filterNext := none } }
      setFilterStatus (setReg s 0x6100 0x05 (if new.isSome then setBitAt bits set else clearBitAt bits set)) stOk
  | none => s

/-- R320: has the first boundary after the pending load or unload of a filter set come. -/
def filterDue (s : State) : Bool := s.media.filterNext.isSome && boundaryAfter s s.media.filterAsked

/-- FILTER_SET_SWITCH (R320). -/
def execFilterSetSwitch (set : Nat) (s : State) : Host.Outcome State Fault Refusal :=
  whenControlled s fun s => if filterDue s then switchFilter s set else s

/-- R320: the pending load or unload at the boundary that has come. -/
def filterAtTick (s : State) : State :=
  match s.media.filterNext with
  | some (set, _) => if filterDue s then switchFilter s set else s
  | none => s

/-- R320: the coefficients that a work issued at a tick uses of a set. -/
def filterFor (s : State) (set issued : Nat) : List Int :=
  if set = 0 then filterZero
  else if issued < ngetD s.media.filterAt set 0 then ngetD s.media.filterOld set (ngetD s.media.filters set filterZero)
  else ngetD s.media.filters set filterZero

/-! ### Scaling arithmetic (R318, R319) -/

/-- R319: where output sample `k` of an axis lies: base and phase. -/
def axisPos (sw dw k : Nat) : Int × Nat :=
  let step := sw * 65536 / dw
  let pos : Int := (k * step + step / 2 : Nat) - 32768
  (pos / 65536, (pos / 1024 % 64).toNat)

/-- R319: the eight taps about a position. -/
def tapSum (cs : List Int) (base : Int) (phase : Nat) (at' : Int → Int) : Int :=
  (List.range 8).foldl (fun a t => a + cs.getD (phase * 8 + t) 0 * at' (base - 3 + (t : Nat))) 0

/-- R319: a plane scaled to dw × dh. -/
def scalePlane (cs : List Int) (p : Plane) (dw dh inBd outBd : Nat) : List Nat :=
  let rows : Array (Array Int) := ((List.range p.h).map fun y => ((List.range dw).map fun k =>
    let (b, f) := axisPos p.w dw k
    tapSum cs b f fun x => (p.get x (y : Nat) : Nat)).toArray).toArray
  let sh := 20 + inBd - outBd
  (List.range dh).flatMap fun m =>
    let (b, f) := axisPos p.h dh m
    (List.range dw).map fun k =>
      let v := tapSum cs b f fun y => (rows.getD (clampCoord y p.h) #[]).getD k 0
      (clampInt ((v + 2 ^ (sh - 1)) / 2 ^ sh) 0 (2 ^ outBd - 1)).toNat

/-- R318: crop, mirror, rotate: the source position of each sample of the plane that is then scaled. -/
def turnPlane (p : Plane) (left top w h mirror rot : Nat) : Plane :=
  let src (x y : Nat) : Nat := p.get (left + (if mirror = 1 then w - 1 - x else x) : Nat) (top + y : Nat)
  let (tw, th) := if rot % 2 = 1 then (h, w) else (w, h)
  let at' (x y : Nat) : Nat :=
    if rot = 0 then src x y else if rot = 1 then src y (h - 1 - x) else if rot = 2 then src (w - 1 - x) (h - 1 - y) else src (w - 1 - y) x
  ⟨tw, th, ((List.range th).flatMap fun y => (List.range tw).map fun x => at' x y).toArray⟩

/-- R318, R319: a picture through the scaler of context `k` with the coefficients `cs`; `grey` fills chroma planes that a
monochrome picture lacks. -/
def scalePicture (s : State) (k : Nat) (cs : List Int) (grey : Nat) (bs : List Byte) : List Byte :=
  let b := scalerBlob s k
  let (l, t, w, h) := (numAt b 0 2, numAt b 2 2, numAt b 4 2, numAt b 6 2)
  let (ow, oh, oc, ob) := (numAt b 8 2, numAt b 10 2, numAt b 14 1, numAt b 15 1)
  let ic := ctxReg s k 0x0A
  let dims := planeDims (ctxReg s k 0x06) (ctxReg s k 0x07) ic
  let planes := planesOf dims (samplesOf bs)
  let out := planeDims ow oh oc
  sampleBytes ((List.range out.length).flatMap fun i =>
    let (dw, dh) := out.getD i (0, 0)
    match planes[i]? with
    | some p =>
      let cx := if i = 0 then 1 else 2
      let cy := if i = 0 ∨ ic = 1 then 1 else 2
      let q := turnPlane p (l / cx) (t / cy) ((w + cx - 1) / cx) ((h + cy - 1) / cy) (numAt b 12 1) (numAt b 13 1)
      scalePlane cs q dw dh (ctxReg s k 0x0B) ob
    | none => List.replicate (dw * dh) grey)

/-! ### SCALER_FRAME (R318, R319) -/

/-- The raw input of a work that waits for the scaler: its own bytes, or its upstream frame's committed output (R271). -/
def rawInput (s : State) (k j : Nat) (w : Work) : Option (List Byte) :=
  if ctxReg s k 0x26 = 4 then
    match findFrame s (ctxReg s k 0x27) j with
    | some f => if f.state ≥ 3 then some (s.mem.read f.outBase f.outLen) else none
    | none => none
  else w.raw.map fun r => s.mem.read r.1 r.2

/-- The scaled picture becomes the work's input, and what waited for it goes on. -/
def putScaled (s : State) (k j : Nat) (w : Work) (bs : List Byte) : State :=
  let ins := w.regions.filter fun r => r.source == 2
  let (m, _) := ins.foldl (fun (a : Memory × List Byte) r =>
    (Memory.write a.1 r.base (padTo r.len (a.2.take r.len)), a.2.drop r.len)) (s.mem, bs)
  deliverVectors (putWork { s with mem := m } { w with raw := none, inLen := bs.length }) k j

/-- R318, R322: may scaler `unit` take pictures of a context: live, and the one that its charge names or that stands in for it. -/
def scalerOk (s : State) (unit k : Nat) : Bool :=
  unitLive s ckScaler unit && (ctxOf s k).charge.media.any fun m => m.1 == mkScaler &&
    (m.2.1 == unit || (!unitLive s ckScaler m.2.1 && standIn s ckScaler m.2.1 m.2.2 == some unit))

/-- SCALER_FRAME (R318): one picture of a work. -/
def scaleFrame (s : State) (unit : Nat) (work : WorkId) : State :=
  match findWork s work, work with
  | some w, .frame k j =>
    if w.raw.isNone ∨ !scalerOk s unit k then s
    else
      match rawInput s k j w with
      | none => s
      | some bs =>
        let depth := numAt (scalerBlob s k) 15 1
        putScaled s k j w (scalePicture s k (filterFor s (numAt (scalerBlob s k) 16 1) w.issued) (Config.monoChroma depth % 2 ^ depth) bs)
  | _, _ => s

def execScalerFrame (unit : Nat) (work : WorkId) (s : State) : Host.Outcome State Fault Refusal :=
  whenService s fun s => scaleFrame s unit work

/-! ### Rows of a tile (R302, R310 to R312) -/

/-- R310: the coding units of 64 × 64 of a tile, and of the picture. -/
def tileUnits (w h : Nat) : Nat := ceilDiv w 64 * ceilDiv h 64

/-- R284, R311: the rows coded as intra: a key picture's all, else those of the refresh stripe. -/
def intraRows (s : State) (k j : Nat) : Nat × Nat :=
  let r := refreshAt s k j
  let nb := ceilDiv (codedSize s k).2.1 64
  if keyPicture s k j then (0, nb)
  else if r = 0 then (0, 0)
  else (sweepEdge (phaseOf s k j) nb r, sweepEdge (phaseOf s k j + 1) nb r)

/-- R310, R311: row `b` of picture j lies in the refresh stripe, or the picture is a key picture. -/
def rowStripe (s : State) (k j b : Nat) : Bool := let (lo, hi) := intraRows s k j; decide (lo ≤ b) && decide (b < hi)

/-- A number that may be absent; −1 is none. -/
def optInt (o : Option Nat) : Int := match o with
  | some n => (n : Nat)
  | none => -1

/-- R311, R312: the facts of a picture that its headers carry: HEVC emits a recovery point at phase 0 and constrains intra prediction under
restricted refresh. -/
def pictureFacts (s : State) (k j : Nat) : List Int :=
  let key := keyPicture s k j
  let hevc := binding s k == 0xF001
  let r := refreshAt s k j
  let phase := if key || r == 0 then none else some (phaseOf s k j)
  let (lo, hi) := intraRows s k j
  [(j : Nat), if key then 1 else 0, optInt phase, (lo : Nat), (hi : Nat), optInt (if hevc && phase == some 0 then some (r - 1) else none),
    if hevc && ctxReg s k 0x18 == 1 then 1 else 0, optInt (if key then none else refSlot s k j), optInt (storeSlot s k j)]

/-- The headers of a picture whose tiles' first rows have the quantisers `qs`. -/
def pictureHeader (s : State) (k j : Nat) (qs : List Nat) : List Byte :=
  let (code, set) := serviceArgs s k
  Config.codecHeader code set (ctxOf s k).codec (pictureFacts s k j ++ qs.map Int.ofNat)

/-- What the rows of one tile are coded with. -/
structure TileEnv where
  code   : Nat
  set    : List Byte
  state  : List Byte
  pic    : List (List Byte)
  vecs   : List Vec
  refs   : List Nat
  j      : Nat
  tile   : Nat
  rows   : Nat
  intra  : List Bool
  limits : List Int
  rc     : RcState
  bsz    : Int
  t      : Int
  a0     : Int
  ws     : List Int
  lag    : Nat
  qmin   : Int
  qmax   : Int
  scale  : Int
deriving DecidableEq, Repr

/-- R302, R310: the rows of a tile in order, each with the quantiser that the bits of the rows before it choose, and with what the rows before
it have left. -/
def codeRows (e : TileEnv) : Nat → Nat → TileOut → TileOut
  | 0, _, acc => acc
  | n + 1, b, acc =>
    let q := rcChoose e.rc e.bsz e.t e.a0 e.ws (acc.bits.map Int.ofNat) e.lag b e.qmin e.qmax e.scale
    let delta : Int := (q : Nat) - (acc.qs.getLastD q : Nat)
    let (nb, out, px) := Config.codecRow e.code e.set e.state e.pic e.vecs e.refs (acc.bytes, acc.recon)
      [(e.j : Nat), (e.tile : Nat), (b : Nat), (q : Nat), delta, if e.intra.getD b false then 1 else 0, e.limits.getD b (-1)]
    codeRows e n (b + 1) { acc with qs := acc.qs ++ [q], bits := acc.bits ++ [nb], bytes := acc.bytes ++ out, recon := acc.recon ++ px }

/-- R310: the rate control of one tile: its own rows' quantisers and bits, F as the picture has it. -/
def tileRc (s : State) (k tile rows : Nat) (w : Work) : RcState :=
  let c := ctxOf s k
  { c.rc with full := w.buffer.getD c.rc.full, qprev := (c.rc.qprev.drop (rows * tile)).take rows, prevbits := (c.rc.prevbits.drop (rows * tile)).take rows }

/-- The widths of the tile columns of a block encode. -/
def tileWidths (s : State) (k : Nat) : List Nat := columnWidths (binding s k == 0xF001) (codedSize s k).1 (ctxReg s k 0x21)

/-- R310: adj counts in QP steps of HEVC, in four index steps of AV1. -/
def stepScale (s : State) (k : Nat) : Int := if binding s k = 0xF001 then 1 else 4

/-- The target of a picture of a block encode. -/
def pictureTarget (s : State) (k j : Nat) (w : Work) : Int :=
  rcTarget { (ctxOf s k).rc with full := w.buffer.getD (ctxOf s k).rc.full } (ctxReg s k 0x10 : Nat) (drain s k j)

/-- R310: a share of a tile's units in the picture's. -/
def tileShare (s : State) (k tile : Nat) (n : Int) : Int :=
  let h := (codedSize s k).2.1
  let cols := tileWidths s k
  n * (tileUnits (cols.getD tile 0) h : Nat) / (Nat.max 1 ((cols.map fun x => tileUnits x h).foldl (· + ·) 0) : Nat)

/-- R291, R310: the quantiser of the first row of a tile as the error chooses it: a0 is the bits of the headers that name these (log 31). -/
def firstQuantiser (s : State) (k j tile : Nat) (w : Work) : Nat :=
  let rc := tileRc s k tile (ceilDiv (codedSize s k).2.1 64) w
  (clampInt ((rc.qprev.getD 0 0 : Nat) + stepScale s k * rcAdjust rc.prevErr (tileShare s k tile (pictureTarget s k j w)))
    (qiMin s k : Nat) (qiMax s k : Nat)).toNat

/-- R310: what tile `tile` of picture j is coded with. -/
def tileEnvOf (s : State) (k j tile : Nat) (w : Work) : TileEnv :=
  let c := ctxOf s k
  let (code, set) := serviceArgs s k
  let rows := ceilDiv (codedSize s k).2.1 64
  let rc := tileRc s k tile rows w
  let head := 8 * (pictureHeader s k j ((List.range (tileWidths s k).length).map fun i => firstQuantiser s k j i w)).length
  let refs := if keyPicture s k j then [] else blockRefs s k j
  { code, set, state := c.codec, pic := workInput s w :: refs.map (·.1), vecs := ngetD c.vecs j [], refs := ngetD c.vecRefs j [], j, tile, rows, rc
    intra := (List.range rows).map (rowStripe s k j)
    limits := (List.range rows).map fun b => optInt (allowedRows s k j (4 * b) 64 (refSlot s k j))
    bsz := (ctxReg s k 0x10 : Nat), t := tileShare s k tile (pictureTarget s k j w), a0 := tileShare s k tile (head : Nat)
    ws := (List.range rows).map fun b => rcWeight (rc.prevbits.getD b 0) (ctxReg s k 0x16) (rowStripe s k j b)
    lag := ctxReg s k 0x15, qmin := (qiMin s k : Nat), qmax := (qiMax s k : Nat), scale := stepScale s k }

/-- Insertion of a coded tile by number. -/
def insertTile (t : TileOut) : List TileOut → List TileOut
  | [] => [t]
  | x :: r => if x.tile < t.tile then x :: insertTile t r else t :: x :: r

/-- R239: the output bytes of a service stand in its output region; what does not fit ends the work. -/
def placeOutput (s : State) (w : Work) (out : List Byte) : State × Work :=
  match w.regions.find? fun r => r.source == 3 with
  | some r =>
    if r.len < out.length then (s, { w with result := some stOutputOverflow })
    else ({ s with mem := s.mem.write r.base out }, { w with output := out, outLen := out.length, valid := 1 })
  | none => (s, w)

/-- R308, R310, R312: what an encoder keeps of a picture: rate control, its reconstruction as the previous picture and in the slot that it stores,
its vectors. -/
def keepPicture (s : State) (k j : Nat) (w : Work) (out recon : List Byte) : Ctx :=
  let c := ctxOf s k
  let (code, set) := serviceArgs s k
  let rc := { c.rc with full := w.buffer.getD c.rc.full, q := w.tilesOut.flatMap (·.qs) }
  { c with rc := rcPictureEnd rc (ctxReg s k 0x10 : Nat) (drain s k j) ((8 * out.length : Nat) : Int) (w.tilesOut.flatMap (·.bits))
           codec := Config.codecNext code set c.codec out j, emitted := c.emitted + out.length
           prevPic := recon, prevPic2 := c.prevPic
           ltInputs := (match storeSlot s k j with
             | some slot => nset c.ltInputs slot recon
             | none => c.ltInputs)
           prevVecs := if keyPicture s k j then [] else ngetD c.vecs j [] }

/-- R302, R310, R312: the last tile of a picture is coded: its bitstream, the filter pass over the whole picture, and what the encoder keeps. A
picture whose bitstream does not fit leaves the encoder as it was. -/
def endPicture (s : State) (k j : Nat) (w : Work) : State :=
  let (code, set) := serviceArgs s k
  let out := Config.codecPicture code set (pictureHeader s k j (w.tilesOut.map fun t => t.qs.headD 0)) (w.tilesOut.map (·.bytes))
  let recon := Config.codecFilter code set out (w.tilesOut.map (·.recon))
  let (t, v) := placeOutput s { w with tilesOut := [] } out
  let c := if v.result.isSome then ctxOf s k else keepPicture s k j w out recon
  putWork (putCtx t k { c with vecs := ndel c.vecs j, vecRefs := ndel c.vecRefs j, requests := c.requests.filter fun r => r.1 != j }) v

/-- R302: one tile of a block encode on a core; under latency-aware rate control the picture's first tile reads F (R295, R310). -/
def encodeTile (s : State) (core k j tile : Nat) (w : Work) : State :=
  let aware := ctxReg s k 0x14 != 0
  let w := if aware && w.buffer.isNone then { w with buffer := some (queuedBits s k : Nat) } else w
  let e := tileEnvOf s k j tile w
  let t := codeRows e e.rows 0 ⟨tile, [], [], [], []⟩
  let w := { w with started := true, nonStrict := w.nonStrict || aware || ctxReg s k 0x23 != 0, tilesOut := insertTile t w.tilesOut
                    segs := w.segs ++ [⟨tile, ecOk, 0, t.bytes.length, false, core⟩] }
  if w.segs.length = w.aim then endPicture s k j w else putWork s w

/-! ### Decoding (R298, R299, R303, R321) -/

/-- R321: a decoded picture with the affected coding units replaced by the co-located samples of the most recent output picture, or by
2^(depth − 1) when there is none. -/
def concealPicture (w h chroma depth : Nat) (bad : List (Nat × Nat × Nat × Nat × Nat)) (pic last : List Byte) : List Byte :=
  if bad = [] then pic
  else
    let dims := planeDims w h chroma
    let new := planesOf dims (samplesOf pic)
    let old := planesOf dims (samplesOf last)
    sampleBytes (dims.zipIdx.flatMap fun (d, i) => (List.range d.2).flatMap fun y => (List.range d.1).map fun x =>
      let hit := bad.any fun (p, l, t, bw, bh) => p == i && decide (l ≤ x) && decide (x < l + bw) && decide (t ≤ y) && decide (y < t + bh)
      if !hit then ((new[i]?).map fun p => p.get (x : Nat) (y : Nat)).getD 0
      else if last = [] then 2 ^ (depth - 1)
      else ((old[i]?).map fun p => p.get (x : Nat) (y : Nat)).getD 0)

/-- The facts of an access unit with what a decoder keeps. -/
def unitFacts (s : State) (k j : Nat) (w : Work) : Config.AuFacts :=
  let (code, set) := serviceArgs s k
  Config.codecFacts code set (ctxOf s k).codec j (workInput s w)

/-- R299, R321: after an access unit: is a valid parameter set still awaited, and the status with which no output is given. -/
def muteAfter (c : Ctx) (f : Config.AuFacts) : Bool × Option Nat :=
  let noParams := f.badParams || (c.noParams && !f.params)
  (noParams, if f.badParams then some stBadBitstream else if f.badTool then some stUnsupportedTool
    else if f.rap && !noParams then none else c.mute)

/-- R321: an access unit with a picture: the status that it commits with, and its picture in the output region. -/
def showPicture (s : State) (k : Nat) (w : Work) (f : Config.AuFacts) (pic : List Byte) : State :=
  let note := if f.missing then stMissingReference else if f.bad ≠ [] then stBitstreamConcealed else 0
  let (s, w) := placeOutput s { w with note, concealed := w.concealed || f.bad != [] } pic
  let c := ctxOf s k
  if f.hidden then putWork (putCtx s k { c with outSeq := c.outSeq + 1 }) { w with order := some c.outSeq } else putWork s w

/-- R321: an access unit whose picture is output now takes the next place in output order. -/
def outputPicture (k : Nat) (s : State) (j : Nat) : State :=
  match findWork s (.frame k j) with
  | none => s
  | some w =>
    if w.order.isSome ∨ w.result.isSome ∨ w.valid = 0 then s
    else
      let c := ctxOf s k
      putWork (putCtx s k { c with outSeq := c.outSeq + 1, lastOut := w.output }) { w with order := some c.outSeq }

/-- R268, R321: what a decoder still holds is output once its context is ending and no further access unit will come. -/
def flushDecoder (s : State) (k : Nat) : State :=
  let open_ := s.works.any fun w => match w.id with
    | .frame c _ => c == k && decide (w.segs.length < w.aim) && w.result.isNone
    | .job _ _ _ => false
  if (ctxState s k = 4 ∨ ctxState s k = 5) ∧ isService (binding s k) ∧ ctxKind s k = 2 ∧ !open_ then
    let (code, set) := serviceArgs s k
    (Config.codecFlush code set (ctxOf s k).codec).foldl (outputPicture k) s
  else s

/-- R299, R321: an access unit is decoded. -/
def decodeUnit (s : State) (k j : Nat) (w : Work) : State :=
  let c := ctxOf s k
  let (code, set) := serviceArgs s k
  let (cw, ch, chroma) := codedSize s k
  let f := unitFacts s k j w
  let au := workInput s w
  let (noParams, mute) := muteAfter c f
  let pic := if mute.isSome then [] else
    concealPicture cw ch chroma (codedDepth s k) f.bad (Config.codecReconstruct code set c.codec j au) c.lastOut
  let s := putCtx s k { c with codec := Config.codecKeep code set c.codec j au pic, mute, noParams, emitted := c.emitted + w.inLen }
  let s := match mute with
    | some st => putWork s { w with result := some st }
    | none => showPicture s k w f pic
  flushDecoder (f.outputs.foldl (outputPicture k) s) k

/-- R303, R304: one job of a gang's decode on a core; a picture with fewer tiles than its gang has cores has fewer jobs. The last decodes the
access unit. -/
def decodeTile (s : State) (core k j tile : Nat) (w : Work) : State :=
  let aim := if w.segs = [] then Nat.min w.aim (Nat.max 1 (unitFacts s k j w).tiles) else w.aim
  if aim ≤ tile then putWork s { w with aim }
  else
    let w := { w with aim, started := true, segs := w.segs ++ [⟨tile, ecOk, 0, 0, false, core⟩] }
    if w.segs.length < w.aim then putWork s w else decodeUnit s k j w

/-! ### Tile jobs on cores (R54, R302, R304, R315, R316, R322) -/

/-- Could a tile job of a work run now: its input scaled, earlier pictures coded, its vectors found. -/
def jobReady (s : State) (k j : Nat) : Bool :=
  match findWork s (.frame k j) with
  | none => false
  | some w => w.raw.isNone && w.result.isNone && !w.stopped && earlierCoded s k j &&
    (serviceCores w.slot != ckEncode || keyPicture s k j || decide (5 * motionBlocks s k ≤ (ngetD (ctxOf s k).vecs j []).length))

/-- R54, R316: the jobs that a core could run now, with carried work before all other. -/
def readyJobs (s : State) (kind core : Nat) : List (Nat × Nat × Nat × Nat) :=
  ((coreJobs s kind core).filter fun e => jobReady s e.2.1 e.2.2.1).map fun e =>
    (if ((findWork s (.frame e.2.1 e.2.2.1)).map (·.lag)).getD 0 = 0 then e.1 + 4 else e.1, e.2)

/-- CODEC_TILE_JOB (R302, R316): a live core runs the first of its jobs. -/
def tileJob (s : State) (core : Nat) (work : WorkId) (tile : Nat) : State :=
  match findWork s work, work with
  | some w, .frame k j =>
    let kind := serviceCores w.slot
    if !isService w.slot ∨ !unitLive s kind core ∨ (firstJob (readyJobs s kind core)).map (·.2) ≠ some (k, j, tile) then s
    else if kind = ckEncode then encodeTile s core k j tile w
    else decodeTile s core k j tile w
  | _, _ => s

def execCodecTileJob (core : Nat) (work : WorkId) (tile : Nat) (s : State) : Host.Outcome State Fault Refusal :=
  whenService s fun s => tileJob s core work tile

end Sys2Proof.Machine
end

