-- ==== Sys2Proof/Machine/Engine.lean ====
section
/-! DEFINITION. The lossless engines' jobs (R272, R323 to R332). -/
namespace Sys2Proof.Machine
open Sys2Proof

/-- R328: the parameter block of an engine job names an operation, level, window and format of the tables. -/
def engineBlockOk (j : JobRec) : Bool :=
  j.rsvd == 0 && j.outCap != 0 && decide (j.inLen ≤ 2 ^ 36) && decide (j.format ≤ 3)
  && (if j.op = 1 then decide (1 ≤ j.level) && decide (j.level ≤ 9)
        && (if j.format = 3 then j.windowLog == 0 || (decide (10 ≤ j.windowLog) && decide (j.windowLog ≤ 23)) else j.windowLog == 0)
      else j.op == 2 && j.level == 0 && j.windowLog == 0)

/-- R329: the result record. -/
def engineRecord (valid consumed dz : Nat) : List Byte := leBytes 2 dz ++ leBytes 1 0 ++ leBytes 5 consumed ++ leBytes 8 valid

/-- What a finished engine task leaves in its work. -/
def engineDone (s : State) (w : Work) : State := putWork s { w with started := true, segs := [⟨0, ecOk, 0, 0, false, 0⟩] }

/-- R54: the engine that may take a work's task now: live, the one that the work was assigned or moved to, with operation `op`. -/
def engineReady (s : State) (engine : Nat) (work : WorkId) (op : Nat) : Option (Work × JobRec × Nat) :=
  match findWork s work, work with
  | some w, .job ring pos i =>
    match findJob s ring pos with
    | some e =>
      if !isEngineJob e.job ∨ e.job.op ≠ op ∨ !unitLive s ckEngine engine ∨ engine ≠ w.die ∨ w.segs ≠ [] ∨ w.stopped
        ∨ w.result.isSome ∨ (carriedAhead s w).any fun o => o.slot == 0xFFFF && o.die == engine && o.segs.isEmpty then none
      else some (w, e.job, i)
    | none => none
  | _, _ => none

/-- ENGINE_COMPRESS (R325, R328, R329): the last slice leaves the output of the whole input. -/
def compressTask (s : State) (engine : Nat) (work : WorkId) : State :=
  match engineReady s engine work 1 with
  | none => s
  | some (w, j, i) =>
    if i + 1 < engineSlices j then engineDone s w
    else
      let out := compress j.format j.level j.windowLog (s.mem.read w.inBase w.inLen)
      if j.outCap < out.length then engineDone s { w with result := some stOutputOverflow }
      else engineDone s { w with output := out ++ engineRecord out.length w.inLen 0, outLen := out.length, valid := out.length }

def execEngineCompress (engine : Nat) (work : WorkId) (s : State) : Host.Outcome State Fault Refusal :=
  whenService s fun s => compressTask s engine work

/-- ENGINE_DECOMPRESS (R328, R329, R331). -/
def decompressTask (s : State) (engine : Nat) (work : WorkId) : State :=
  match engineReady s engine work 2 with
  | none => s
  | some (w, j, i) =>
    if i + 1 < engineSlices j then engineDone s w
    else
      let z := decompress j.format (s.mem.read w.inBase w.inLen) j.outCap
      let n := z.out.length
      engineDone s { w with output := z.out ++ engineRecord n z.used z.dz, outLen := n, valid := n, detail := z.dz
                            note := if z.dz = 0 then 0 else stDecompressError }

def execEngineDecompress (engine : Nat) (work : WorkId) (s : State) : Host.Outcome State Fault Refusal :=
  whenService s fun s => decompressTask s engine work

end Sys2Proof.Machine
end

