-- ==== Sys2Proof/Machine/Sources.lean ====
section
/-! DEFINITION. The sources of the tick: qualification, loss, selection, holdover, steps of local time and its slewing (R37 to R42). -/
namespace Sys2Proof.Machine
open Sys2Proof

/-! ### Offers of the fabric tick (R42, R415) -/

/-- R42, R415: the same house rate. -/
def sameRate (s : State) (rate free : Nat) : Bool := rate == s.clk.rate && (rate != 0xFF || free == s.clk.free)

/-- R42: an offer (precedence, serial, link, counter) before another: the lower precedence number, then the lower serial. -/
def offerLess (a b : Nat × Nat × Nat × Nat) : Bool := decide (a.1 < b.1) || (a.1 == b.1 && decide (a.2.1 < b.2.1))

/-- The offer that is followed. -/
def bestOffer (s : State) : Option (Nat × Nat × Nat × Nat) :=
  match s.clk.offers with
  | [] => none
  | o :: r => some (r.foldl (fun b x => if offerLess x b then x else b) o)

/-! ### Qualification and selection (R38, R39) -/

/-- Source `i` = 1 … 3 of R38. -/
def tickSource (s : State) (i : Nat) : TickSource := s.clk.sources.getD (i - 1) {}
def putSource (s : State) (i : Nat) (x : TickSource) : State := { s with clk := { s.clk with sources := s.clk.sources.set (i - 1) x } }

/-- R38: is a source enabled and qualified; the internal oscillator always is. -/
def sourceUsable (s : State) (i : Nat) : Bool := i == 4 || ((inForceReg s 0x2000 0x04).testBit (i - 1) && (tickSource s i).qualified)

/-- SOURCE_QUALIFIED (R38): source 2 needs a peer's offer whose counter agrees to within one tick. -/
def qualifySource (s : State) (i : Nat) : State :=
  let agrees := match bestOffer s with
    | some o => decide (o.2.2.2 ≤ counterOf s + 1) && decide (counterOf s ≤ o.2.2.2 + 1)
    | none => false
  if i = 0 ∨ i > 3 ∨ (tickSource s i).qualified ∨ (i = 2 ∧ !agrees) then s
  else
    let s := putSource s i { qualified := true, since := s.clk.now }
    if i = 1 then { s with clk := { s.clk with ptpEver := true } } else s

def execSourceQualified (src dt : Nat) (s : State) : Host.Outcome State Fault Refusal :=
  whenService s fun s => qualifySource (passTime s dt) src

/-- R39: the part turns to another source: counted, logged; #2000.0A is the offset measured against it (log 44), that of a peer comes
with its tick messages. -/
def turnSource (s : State) (next : Nat) : State :=
  let cur := getReg s 0x2000 0x07
  if next = cur then s
  else
    let s := logFault (addReg (setReg s 0x2000 0x07 next) 0x2000 0x0B 1) 0x0001 0 0 0 0xFFFF (next * 256 + cur)
    setReg s 0x2000 0x0A (if next = 1 ∨ next = 3 then i64Code (Config.phaseOffset s.clk.now) else 0)

/-- R40: holdover has ended: its time is counted in microseconds. -/
def endHoldover (s : State) : State :=
  match s.clk.holdSince with
  | none => s
  | some t =>
    let clear (x : TickSource) : TickSource := { x with holdover := false }
    addReg { s with clk := { s.clk with holdSince := none, sources := s.clk.sources.map clear } } 0x2000 0x0C ((s.clk.now - t) / 3000)

/-- R40: holdover lasts while the part runs on the internal oscillator, until another source is adopted (log 67). -/
def settleHoldover (s : State) : State := if getReg s 0x2000 0x07 = 4 then s else endHoldover s

/-- SOURCE_LOST (R38 to R40): a lost source in use leaves the timebase in holdover, and the part turns at once to the next usable source
of higher precedence number. -/
def loseSource (s : State) (i : Nat) : State :=
  if i = 0 ∨ i > 3 ∨ !(tickSource s i).qualified then s
  else
    let mine := getReg s 0x2000 0x07 == i
    let s := putSource s i { holdover := mine }
    let s := if i = 2 then { s with clk := { s.clk with following := none, offers := [] } } else s
    if mine then
      let s := { s with clk := { s.clk with holdSince := some (s.clk.holdSince.getD s.clk.now) } }
      settleHoldover (turnSource s (([1, 2, 3].find? fun j => decide (i < j) && sourceUsable s j).getD 4))
    else s

def execSourceLost (src dt : Nat) (s : State) : Host.Outcome State Fault Refusal :=
  whenService s fun s => loseSource (passTime s dt) src

/-- R42: the offers that `keep` names stay; with the last of them the fabric tick is lost. -/
def pruneOffers (s : State) (keep : Nat × Nat × Nat × Nat → Bool) : State :=
  let offers := s.clk.offers.filter keep
  if offers = s.clk.offers then s
  else
    let held := match s.clk.following with
      | some i => if offers.any fun o => o.2.2.1 == i then some i else none
      | none => none
    let s := { s with clk := { s.clk with offers, following := held } }
    if offers = [] then loseSource s 2 else s

/-- SOURCE_ADOPTION_HOLD (R39): qualified for 30 s. -/
def holdSource (s : State) (i : Nat) : State :=
  let x := tickSource s i
  if (i = 1 ∨ i = 2 ∨ i = 3) ∧ x.qualified ∧ x.since + 90000000000 ≤ s.clk.now then putSource s i { x with held30 := true } else s

def execSourceAdoptionHold (src dt : Nat) (s : State) : Host.Outcome State Fault Refusal :=
  whenService s fun s => holdSource (passTime s dt) src

/-- R39: the source that a tick boundary selects: the lowest precedence number among those usable, where one below the present source's
must have held for 30 s. -/
def nextSource (s : State) : Nat :=
  let cur := getReg s 0x2000 0x07
  ([1, 2, 3].find? fun i => sourceUsable s i && (decide (cur ≤ i) || (tickSource s i).held30)).getD 4

/-! ### Steps and slewing (R37, R41) -/

/-- A step of local time: moved by `d` thirds of a nanosecond and logged in nanoseconds (R37). -/
def stepTime (s : State) (d : Int) : State :=
  logFault { s with clk := { s.clk with now := ((s.clk.now : Int) + d).toNat } } 0x0002 0 0 0 0xFFFF (i64Code (d / 3))

/-- R37: one tick slews by at most 100 ppm of its period toward the reference; #2000.0A holds what is left. -/
def slewTime (s : State) : State :=
  let off := signedOf 64 (getReg s 0x2000 0x0A)
  let most : Int := (period s / 30000 : Nat)
  let d := if off < -most then -most else if most < off then most else off
  if off = 0 then s else setReg s 0x2000 0x0A (i64Code (off - d))

/-- R41: the first selection of the 1PPS source without any PTP lock starts the counter from the seed. -/
def seedTime (s : State) : State :=
  if getReg s 0x2000 0x07 = 3 ∧ !s.clk.ptpEver ∧ !s.clk.seeded ∧ runningCtxs s = [] then
    stepTime { s with clk := { s.clk with seeded := true } } ((3000000000 * s.clk.seed : Nat) - (s.clk.now : Int))
  else s

/-- R39 at a tick boundary. -/
def selectSource (s : State) : State :=
  seedTime (settleHoldover (turnSource s (nextSource s)))

/-- TIMEBASE_STEP (R37): with no stream context running, at a tick boundary, local time moves by `ns`. -/
def stepTimebase (s : State) (ns : Int) : State :=
  if ns = 0 ∨ runningCtxs s ≠ [] ∨ s.clk.now % period s ≠ 0 then s else setReg (stepTime s (3 * ns)) 0x2000 0x0A 0

def execTimebaseStep (ns : Int) (s : State) : Host.Outcome State Fault Refusal := whenService s fun s => stepTimebase s ns

end Sys2Proof.Machine
end

