-- ==== Sys2Proof/Machine/Fabric.lean ====
section
/-! DEFINITION. Palton links, discovery, routing, messages and the fabric tick (R37, R42, R399 to R408, R415, R416, R421 to R423). -/
namespace Sys2Proof.Machine
open Sys2Proof

/-! ### Links (R400 to R403) -/

def linkOf (s : State) (i : Nat) : Link := ngetD s.fabric.links i {}
def putLink (s : State) (i : Nat) (l : Link) : State := { s with fabric := { s.fabric with links := nset s.fabric.links i l } }
def linkState (s : State) (i : Nat) : Nat := getReg s (linkIndex i) 0x02
def setLinkState (s : State) (i v : Nat) : State := setReg s (linkIndex i) 0x02 v
def linkUp (s : State) (i : Nat) : Bool := decide (i < 96) && linkState s i == 2
def upLinks (s : State) : List Nat := (List.range 96).filter (linkUp s)
def ownAddress (s : State) : Nat := getReg s 0x4100 0x01

/-- R406: the service level of a flow. -/
def flowLevel (f : Nat) : Nat :=
  if f = 0 ∨ f = 2 then 0 else if f = 1 ∨ f = 3 then 1 else if f = 4 then 2 else if f = 5 then 4 else 3

/-- R406, R407: the neighbours that a device floods: (its link, their address). -/
def edgesOf (s : State) (a : Nat) : List (Nat × Nat) :=
  if a = ownAddress s then (upLinks s).map fun i => (i, getReg s (linkIndex i) 0x04) else ngetD s.fabric.graph a []

/-- One more hop of a breadth-first search: addresses with their hop counts. -/
def spreadHops (s : State) (own : Nat) : Nat → Nat → List (Nat × Nat) → List (Nat × Nat)
  | 0, _, seen => seen
  | fuel + 1, h, seen =>
    let new := ((seen.filter fun e => e.2 == h).flatMap fun e => (edgesOf s e.1).map (·.2)).eraseDups.filter fun a =>
      a != own && a != 0xFFFF && !seen.any fun e => e.1 == a
    if new = [] then seen else spreadHops s own fuel (h + 1) (seen ++ new.map fun a => (a, h + 1))

/-- The hops from a neighbour to every device it reaches without passing this one. -/
def hopsFrom (s : State) (a : Nat) : List (Nat × Nat) := spreadHops s (ownAddress s) (s.fabric.graph.length + 2) 0 [(a, 0)]

/-- Insertion of an alternative (link, hops, neighbour): by hops, then neighbour address, then link. -/
def insertAlt (x : Nat × Nat × Nat) : List (Nat × Nat × Nat) → List (Nat × Nat × Nat)
  | [] => [x]
  | y :: r =>
    if x.2.1 < y.2.1 ∨ (x.2.1 = y.2.1 ∧ (x.2.2 < y.2.2 ∨ (x.2.2 = y.2.2 ∧ x.1 < y.1))) then x :: y :: r else y :: insertAlt x r

/-- R406: the alternatives to a destination, at most four: (link, hops). -/
def routesTo (s : State) (dst : Nat) : List (Nat × Nat) :=
  let alts := (upLinks s).filterMap fun i =>
    let n := getReg s (linkIndex i) 0x04
    ((hopsFrom s n).find? fun e => e.1 == dst).map fun e => (i, e.2 + 1, n)
  ((alts.foldr insertAlt []).take 4).map fun x => (x.1, x.2.1)

/-- Is there a route to a device. -/
def reachable (s : State) (a : Nat) : Bool := a == ownAddress s || !(routesTo s a).isEmpty

/-- R407: the link a flow takes to a destination: its pin, else alternative flow mod m of those with the fewest hops. -/
def linkFor (s : State) (src dst flow : Nat) : Option Nat :=
  match s.fabric.pins.find? fun p => p.src == src && p.dst == dst && p.flow == flow with
  | some p => some p.link
  | none =>
    match routesTo s dst with
    | [] => none
    | (l, h) :: r =>
      let best := ((l, h) :: r).filter fun x => x.2 == h
      some ((best.map (·.1)).getD (flow % best.length) l)

/-- R407: a flow is pinned, or its pin was used now. -/
def pinFlow (s : State) (src dst flow link : Nat) : State :=
  let rest := s.fabric.pins.filter fun p => !(p.src == src && p.dst == dst && p.flow == flow)
  { s with fabric := { s.fabric with pins := rest ++ [⟨src, dst, flow, link, nowUs s⟩] } }

/-- R406: a frame's place in the service order: its level, and within level 3 its priority class. -/
def frameRank (f : PaltonFrame) : Nat := if flowLevel f.flow = 3 then 3 * 8 + f.cls % 8 else flowLevel f.flow * 8

/-- The first waiting frame of the lowest rank. -/
def firstServed : List PaltonFrame → Option PaltonFrame
  | [] => none
  | f :: r =>
    match firstServed r with
    | none => some f
    | some g => if frameRank f ≤ frameRank g then some f else some g

/-- R406: the waiting frame that leaves next: a level 4 frame after 63 frames that passed one by. -/
def nextFrame (l : Link) : Option PaltonFrame :=
  match l.queue.find? fun f => flowLevel f.flow == 4 with
  | some f => if 63 ≤ l.turn then some f else firstServed l.queue
  | none => firstServed l.queue

/-- R401, R402: waiting data frames leave in service order while the replay buffer of 1,024 frames has room, each kept there for
retransmission. -/
def pumpLink (i : Nat) : Nat → State → State
  | 0, s => s
  | fuel + 1, s =>
    let l := linkOf s i
    match (if l.replay.length < 1024 then nextFrame l else none) with
    | none => s
    | some f =>
      let g := { f with seq := l.sendSeq, ack := l.expect, credit := 0, level := flowLevel f.flow, crcOk := true }
      let turn := if flowLevel f.flow = 4 then 0 else if l.queue.any fun x => flowLevel x.flow == 4 then l.turn + 1 else 0
      let s := putLink s i { l with sendSeq := (l.sendSeq + 1) % 4096, replay := l.replay ++ [(l.sendSeq, g)]
                                    queue := l.queue.erase f, turn }
      pumpLink i fuel (emit (addReg s (linkIndex i) 0x07 1) (.palton i g))

/-- The link's waiting frames move up. -/
def serveLink (s : State) (i : Nat) : State := pumpLink i (linkOf s i).queue.length s

/-- A data frame joins the frames that wait for a link. -/
def sendFrame (s : State) (i : Nat) (f : PaltonFrame) : State :=
  serveLink (putLink s i { linkOf s i with queue := (linkOf s i).queue ++ [f] }) i

/-! ### Messages (R408) -/

/-- The frames of a message. -/
def framesOf (dst src flow msg cls : Nat) : Nat → Nat → List Byte → List PaltonFrame
  | 0, _, _ => []
  | fuel + 1, i, bs =>
    let last := decide (bs.length ≤ 256)
    { seq := 0, ack := 0, credit := 0, level := 0, dst, src, flow, msg, index := i, last, cls, data := bs.take 256, crcOk := true }
      :: if last then [] else framesOf dst src flow msg cls fuel (i + 1) (bs.drop 256)

/-- A kept message goes out from frame 0 while there is a route to its peer. -/
def sendKept (s : State) (k : KeptMsg) : State :=
  let me := ownAddress s
  match linkFor s me k.peer k.flow with
  | none => s
  | some i =>
    let s := pinFlow s me k.peer k.flow i
    (framesOf k.peer me k.flow k.msg (if k.flow < 0x100 then 0 else 2) 65536 0 k.data).foldl (fun s f => sendFrame s i f) s

/-- A message to a peer: numbered, kept until it is acknowledged, sent when there is a route. -/
def sendMessage (s : State) (peer flow : Nat) (data : List Byte) : State × Nat :=
  let n := ((s.fabric.nextMsg.find? fun e => e.1 == peer && e.2.1 == flow).map (·.2.2)).getD 0
  let rest := s.fabric.nextMsg.filter fun e => !(e.1 == peer && e.2.1 == flow)
  let k : KeptMsg := ⟨peer, flow, n, data⟩
  let s := { s with fabric := { s.fabric with nextMsg := rest ++ [(peer, flow, wrap32 (n + 1))], kept := s.fabric.kept ++ [k] } }
  (sendKept (emit s (.fabricMessage peer flow n data)) k, n)

/-- R408, R420: unacknowledged messages that `pick` names are sent again. -/
def resendKept (s : State) (pick : KeptMsg → Bool) : State := (s.fabric.kept.filter pick).foldl sendKept s

/-- Links with a neighbour that has been heard. -/
def heardLinks (s : State) : List Nat := (upLinks s).filter fun i => getReg s (linkIndex i) 0x03 != 0

/-- The links to devices below this one in the tree: their hop count to the root is one more. -/
def childLinks (s : State) : List Nat :=
  (heardLinks s).filter fun i => (linkOf s i).root == getReg s 0x4100 0x04 && (linkOf s i).hops == s.fabric.hops + 1

/-- R405: the links of the tree. -/
def treeLinks (s : State) : List Nat :=
  (match s.fabric.parent with
    | some i => [i]
    | none => []) ++ childLinks s

/-- R416: devices with a route, this one included. -/
def countReachable (s : State) : State :=
  setReg s 0x4100 0x05 (1 + ((s.fabric.map.map (·.2)).filter fun a => a != ownAddress s && reachable s a).length)

/-- R406: a changed list of this device's up links and their neighbours is flooded along the tree. -/
def floodOwn (s : State) : State :=
  let own := edgesOf s (ownAddress s)
  if s.fabric.flooded = own then s
  else
    let s := { s with fabric := { s.fabric with flooded := own } }
    countReachable ((treeLinks s).foldl (fun s i => emit s (.flood i (ownAddress s) own)) s)

/-- R402, R408, R423: a link fails: it retrains, its flows are pinned anew and their messages sent again. -/
def failLink (s : State) (i : Nat) : State :=
  let l := linkOf s i
  let s := logFault (setLinkState s i 1) 0x0100 0 4 i 0xFFFF 0
  let s := putLink s i { l with replay := [], queue := [], turn := 0, discard := false, retries := 0, attempts := [] }
  let mine := s.fabric.pins.filter fun p => p.link == i && p.src == ownAddress s
  let s := { s with fabric := { s.fabric with pins := s.fabric.pins.filter fun p => p.link != i, quiet := 0 } }
  resendKept (floodOwn s) fun k => mine.any fun p => p.dst == k.peer && p.flow == k.flow

/-- R402: the frames before `ack` are acknowledged. -/
def ackFrames (l : Link) (ack : Nat) : Link :=
  { l with replay := l.replay.filter fun e => decide (2048 ≤ (e.1 + 4096 - ack % 4096) % 4096) = false }

/-- R401: freed receive buffers at a level. -/
def addCredit (l : Link) (credit level : Nat) : Link :=
  if credit = 0 then l else { l with credits := nset l.credits level (ngetD l.credits level 0 + credit) }

/-- R402: a retry request for the expected sequence. -/
def askRetry (s : State) (i : Nat) : State :=
  let l := linkOf s i
  emit (addReg (putLink s i { l with discard := true }) (linkIndex i) 0x0A 1) (.paltonRetry i l.expect)

/-- R408: is message `m` at or below the last complete one. -/
def oldMessage (done : Option Nat) (m : Nat) : Bool :=
  match done with
  | some d => decide ((m + 2 ^ 32 - d % 2 ^ 32) % 2 ^ 32 ≥ 2 ^ 31) || m == d
  | none => false

def putFlowIn (s : State) (f : FlowIn) : State :=
  { s with fabric := { s.fabric with
      flowsIn := s.fabric.flowsIn.filter (fun x => !(x.src == f.src && x.flow == f.flow)) ++ [f] } }

/-- R408, R419: a frame for this device: its message grows, and is acknowledged when complete; an egress output only when a context
accepts it. -/
def receiveFrame (s : State) (f : PaltonFrame) : State :=
  let e : FlowIn := (s.fabric.flowsIn.find? fun x => x.src == f.src && x.flow == f.flow).getD { src := f.src, flow := f.flow }
  let ack (s : State) : State := if f.flow = 0 ∨ f.flow ≥ 0x1000 then s else emit s (.messageAcked f.src f.flow f.msg)
  if oldMessage e.done f.msg then (if f.last then ack s else s)
  else if f.index = 0 ∨ (f.msg = e.msg ∧ f.index = e.next) then
    let data := if f.index = 0 then f.data else e.data ++ f.data
    let e := { e with msg := f.msg, next := f.index + 1, data, done := if f.last then some f.msg else e.done }
    if f.last then ack (putFlowIn s e) else putFlowIn s e
  else s

/-- R407: a frame for another device passes on. -/
def forwardFrame (s : State) (f : PaltonFrame) : State :=
  match linkFor s f.src f.dst f.flow with
  | some i => sendFrame (pinFlow s f.src f.dst f.flow i) i f
  | none => s

/-- PALTON_DATA_FRAME (R402, R407, R408). -/
def dataFrame (s : State) (i : Nat) (f : PaltonFrame) : State :=
  let l := linkOf s i
  if !linkUp s i then s
  else if !f.crcOk then askRetry (addReg s (linkIndex i) 0x09 1) i
  else if f.seq ≠ l.expect then (if l.discard then s else askRetry s i)
  else
    let l := addCredit (ackFrames { l with expect := (l.expect + 1) % 4096, discard := false } f.ack) f.credit f.level
    let s := serveLink (addReg (putLink s i l) (linkIndex i) 0x08 1) i
    let s := emit s (.paltonControl i l.expect 1 (flowLevel f.flow))
    if f.flow = 0 ∨ f.dst = ownAddress s then receiveFrame s f else forwardFrame s f

def execPaltonDataFrame (link : Nat) (frame : PaltonFrame) (s : State) : Host.Outcome State Fault Refusal :=
  whenService s fun s => dataFrame s link frame

/-- PALTON_CONTROL_FRAME (R400, R401). -/
def controlFrame (s : State) (i ack credit level : Nat) : State :=
  if !linkUp s i then s else serveLink (putLink s i (addCredit (ackFrames (linkOf s i) ack) credit level)) i

def execPaltonControlFrame (link ack credit level : Nat) (s : State) : Host.Outcome State Fault Refusal :=
  whenService s fun s => controlFrame s link ack credit level

/-- RETRY_REQUEST (R402): frames from `expected` are sent again; the sixteenth request for one sequence fails the link. -/
def retryLink (s : State) (i expected : Nat) : State :=
  if !linkUp s i then s
  else
    let l := ackFrames (linkOf s i) expected
    let n := if l.retrySeq = expected then l.retries + 1 else 1
    let s := putLink s i { l with retrySeq := expected, retries := n }
    if n ≥ 16 then failLink s i else serveLink (l.replay.foldl (fun s e => emit s (.palton i e.2)) s) i

def execRetryRequest (link expected : Nat) (s : State) : Host.Outcome State Fault Refusal :=
  whenService s fun s => retryLink s link expected

/-- LINK_ACK_TIMEOUT (R402): 100 µs with frames outstanding and no progress of ack. -/
def execLinkAckTimeout (link : Nat) (s : State) : Host.Outcome State Fault Refusal :=
  whenService s fun s => if linkUp s link && !(linkOf s link).replay.isEmpty then failLink s link else s

/-- R403: a training ends. In service a link that fails three times within 1 s is disabled. -/
def trainLink (s : State) (i : Nat) (passed : Bool) : State :=
  let l := linkOf s i
  if i ≥ 96 ∨ linkState s i ≠ 1 then s
  else
    let s := addReg s (linkIndex i) 0x0B 1
    if passed then
      let fresh := { l with sendSeq := 0, expect := 0, replay := [], queue := [], turn := 0, discard := false, retries := 0, attempts := []
                            credits := [], delays := [] }
      setLinkState (putLink { s with fabric := { s.fabric with quiet := 0 } } i fresh) i 2
    else
      let recent := (l.attempts.filter fun t => decide (nowUs s ≤ t + 1000000)) ++ [nowUs s]
      let s := putLink s i { l with attempts := recent }
      if recent.length ≥ 3 then logFault (setLinkState s i 0) 0x0101 1 4 i 0xFFFF 0 else s

/-- LINK_TRAINING (R403). -/
def execLinkTraining (link : Nat) (passed : Bool) (dt : Nat) (s : State) : Host.Outcome State Fault Refusal :=
  whenService s fun s => trainLink (passTime s dt) link passed

/-! ### Discovery (R404, R405) -/

/-- The serial number of the part. -/
def ownSerial (s : State) : Nat := s.ctl.manifest.serial

/-- R404: the free period that a hello or a tick message carries. -/
def freeCarried (s : State) : Nat := if s.clk.rate = 0xFF then s.clk.free else 0

/-- R404: what a hello on link `i` carries. -/
def helloData (s : State) (i : Nat) : HelloData :=
  let l := linkOf s i
  { serial := ownSerial s, address := ownAddress s, stored := getReg s 0x4100 0x02, root := getReg s 0x4100 0x04, hops := s.fabric.hops
    link := i, rate := s.clk.rate, precedence := getReg s 0x2000 0x07, modeBits := modeBits s, edition := 1, txTime := nowNs s
    echo := l.echo, hold := nowNs s - l.echoAt, free := freeCarried s }

/-- R405, R421, R423: the part takes a fabric address, stored when it is new. -/
def takeAddress (s : State) (a : Nat) : State :=
  let old := ownAddress s
  if a = old then s
  else
    let s := setReg (setReg s 0x4100 0x01 a) 0x4100 0x02 a
    if old = 0xFFFF then s else logFault (addReg s 0x4100 0x07 1) 0x0102 0 0 0 0xFFFF (old * 65536 + a)

/-- R405: the root is the lowest serial heard; the parent link leads to the neighbour with the fewest hops to it, then the lowest
serial, then the lowest link. -/
def findRoot (s : State) : State :=
  let heard := heardLinks s
  let root := (heard.map fun i => (linkOf s i).root).foldl Nat.min (ownSerial s)
  let key (i : Nat) : Nat × Nat × Nat := ((linkOf s i).hops, getReg s (linkIndex i) 0x03, i)
  let less (a b : Nat) : Bool := decide ((key a).1 < (key b).1 ∨ ((key a).1 = (key b).1 ∧ ((key a).2.1 < (key b).2.1 ∨
    ((key a).2.1 = (key b).2.1 ∧ a < b))))
  let parent := match (if root = ownSerial s then [] else heard.filter fun i => (linkOf s i).root == root) with
    | [] => none
    | i :: r => some (r.foldl (fun b x => if less x b then x else b) i)
  let hops := match parent with
    | some i => (linkOf s i).hops + 1
    | none => 0
  let changed := getReg s 0x4100 0x04 != root
  let s := { s with fabric := { s.fabric with parent, hops, quiet := if changed then 0 else s.fabric.quiet } }
  let s := if changed then logFault (setReg s 0x4100 0x04 root) 0x0105 0 0 0 0xFFFF root else s
  if heard = [] then takeAddress s (if getReg s 0x4100 0x02 = 0xFFFF then 0 else getReg s 0x4100 0x02) else s

/-- R421: the fabric state: training, discovering, stable, alone. -/
def fabricState (s : State) : Nat :=
  if heardLinks s = [] then (if upLinks s = [] then (if (List.range 96).any fun i => linkState s i == 1 then 0 else 3)
    else if s.fabric.quiet = 16 then 3 else 1)
  else if s.fabric.quiet = 16 then 2 else 1

/-- HELLO_SEND (R404, R405): hellos leave on every up link, and what this device is goes up the tree. -/
def sendHellos (s : State) : State :=
  let s := findRoot { s with fabric := { s.fabric with quiet := Nat.min 16 (s.fabric.quiet + 1) } }
  let s := (upLinks s).foldl (fun s i => emit s (.helloOut i (helloData s i))) (floodOwn s)
  let s := match s.fabric.parent with
    | some i => emit s (.reportUp i (ownSerial s) (getReg s 0x4100 0x02))
    | none => s
  setReg s 0x4100 0x06 (fabricState s)

def execHelloSend (dt : Nat) (s : State) : Host.Outcome State Fault Refusal :=
  whenControlled s fun s => sendHellos (passTime s dt)

/-- R404: the mean one-way delay over the last 16 hellos. -/
def noteDelay (s : State) (i : Nat) (d : HelloData) : State :=
  let l := linkOf s i
  if d.echo = 0 then s
  else
    let one := (nowNs s - d.echo - d.hold) / 2
    let kept := (l.delays ++ [one]).drop (l.delays.length - 15)
    setReg (putLink s i { l with delays := kept }) (linkIndex i) 0x0C (kept.foldl (· + ·) 0 / kept.length)

/-- HELLO (R404 to R406): a new neighbour also gets the floods that this device knows. -/
def takeHello (s : State) (i : Nat) (d : HelloData) : State :=
  if !linkUp s i then s
  else
    let new := getReg s (linkIndex i) 0x03 != d.serial || getReg s (linkIndex i) 0x04 != d.address
    let s := setReg (setReg (setReg s (linkIndex i) 0x03 d.serial) (linkIndex i) 0x04 d.address) (linkIndex i) 0x05 d.link
    let s := noteDelay s i d
    let s := putLink s i { linkOf s i with echo := d.txTime, echoAt := nowNs s, rate := d.rate, freeRate := d.free, root := d.root
                                           hops := d.hops, prec := d.precedence }
    let s := if sameRate s d.rate d.free then s else pruneOffers s fun o => o.2.2.1 != i
    let s := findRoot (if new then { s with fabric := { s.fabric with quiet := 0 } } else s)
    floodOwn (if new then s.fabric.graph.foldl (fun s e => emit s (.flood i e.1 e.2)) s else s)

def execHello (link : Nat) (data : HelloData) (dt : Nat) (s : State) : Host.Outcome State Fault Refusal :=
  whenControlled s fun s => takeHello (passTime s dt) link data

/-- Insertion by serial. -/
def insertSerial (x : Nat × Nat) : List (Nat × Nat) → List (Nat × Nat)
  | [] => [x]
  | y :: r => if x.1 < y.1 then x :: y :: r else y :: insertSerial x r

/-- The lowest address that is not taken. -/
def lowestFree (taken : List Nat) : Nat := ((List.range 4096).find? fun a => !taken.contains a).getD 0xFFFF

/-- R405: the root grants addresses in ascending serial order: its own requested address, the stored one below 4,096, the lowest free. -/
def grantAddresses (s : State) : List (Nat × Nat) → List Nat → List (Nat × Nat)
  | [], _ => []
  | (serial, stored) :: r, taken =>
    let wanted := if serial = ownSerial s then getReg s 0x4100 0x03 else 0xFFFF
    let a := if wanted < 4096 ∧ !taken.contains wanted then wanted
      else if stored < 4096 ∧ !taken.contains stored then stored else lowestFree taken
    (serial, a) :: grantAddresses s r (a :: taken)

/-- ADDRESS_MAP (R405): at the root, `map` is the serials and stored addresses reported up the tree; elsewhere the full map from the
root (log 33). -/
def takeMap (s : State) (root : Nat) (map : List (Nat × Nat)) : State :=
  if root ≠ getReg s 0x4100 0x04 then s
  else
    let all := if root = ownSerial s then
        grantAddresses s (((ownSerial s, getReg s 0x4100 0x02) :: map.filter fun e => e.1 != ownSerial s).foldr insertSerial []) []
      else map
    let s := { s with fabric := { s.fabric with map := all } }
    let s := match all.find? fun e => e.1 == ownSerial s with
      | some e => takeAddress s e.2
      | none => s
    let s := (childLinks s).foldl (fun s i => emit s (.mapDown i root all)) s
    countReachable s

def execAddressMap (root : Nat) (map : List (Nat × Nat)) (s : State) : Host.Outcome State Fault Refusal :=
  whenControlled s fun s => takeMap s root map

/-- ROUTE_FLOOD (R406, R408): another device's up links; news pass on along the tree, messages that waited for a route leave, and
after the loss of a link elsewhere every unacknowledged message is sent again. -/
def takeFlood (s : State) (src : Nat) (ups : List (Nat × Nat)) : State :=
  let before := ngetD s.fabric.graph src []
  if src = ownAddress s ∨ before = ups then s
  else
    let fewer := before.any fun e => !ups.contains e
    let stuck := s.fabric.kept.filter fun k => fewer || !reachable s k.peer
    let s := { s with fabric := { s.fabric with graph := nset s.fabric.graph src ups, quiet := 0 } }
    let s := (treeLinks s).foldl (fun s i => emit s (.flood i src ups)) s
    countReachable (stuck.foldl sendKept s)

def execRouteFlood (src : Nat) (upLinks : List (Nat × Nat)) (s : State) : Host.Outcome State Fault Refusal :=
  whenControlled s fun s => takeFlood s src upLinks

/-- FLOW_UNPIN (R407): pins of a flow not used for 1 s. -/
def unpinFlow (s : State) (src flow : Nat) : State :=
  { s with fabric := { s.fabric with pins := s.fabric.pins.filter fun p =>
      !(p.src == src && p.flow == flow && decide (p.used + 1000000 ≤ nowUs s)) } }

def execFlowUnpin (src flow : Nat) (s : State) : Host.Outcome State Fault Refusal := whenService s fun s => unpinFlow s src flow

/-! ### The fabric tick (R37, R42, R415) -/

/-- FABRIC_TICK_MESSAGE (R415): a neighbour's offer, followed while source 2 is selected, relayed to neighbours of the same rate. -/
def takeTick (s : State) (i counter rate prec serial ptp free : Nat) : State :=
  if !linkUp s i ∨ !sameRate s rate free ∨ !(prec == 1 || prec == 3) then s
  else
    let offers := (s.clk.offers.filter fun o => o.2.2.1 != i) ++ [(prec, serial, i, counter)]
    let s := { s with clk := { s.clk with offers } }
    let s :=
      if getReg s 0x2000 0x07 = 2 ∧ (bestOffer s).map (·.2.2.1) = some i then
        let off : Int := (nowNs s : Int) - ((ptp + getReg s (linkIndex i) 0x0C : Nat) : Int)
        setReg { s with clk := { s.clk with following := some i } } 0x2000 0x0A (i64Code off)
      else s
    ((upLinks s).filter fun x => x != i && sameRate s (linkOf s x).rate (linkOf s x).freeRate).foldl
      (fun s x => emit s (.tickMessage x counter rate prec serial (ptp + getReg s (linkIndex i) 0x0C) free)) s

def execFabricTickMessage (link counter rate precedence serial ptp free : Nat) (s : State) : Host.Outcome State Fault Refusal :=
  whenControlled s fun s => takeTick s link counter rate precedence serial ptp free

/-- R415: at a tick boundary a device whose source has precedence 1 or 3 offers the tick to each neighbour. -/
def offerTick (s : State) : State :=
  let p := getReg s 0x2000 0x07
  if p = 1 ∨ p = 3 then
    (upLinks s).foldl
      (fun s x => emit s (.tickMessage x (counterOf s) s.clk.rate p (ownSerial s) (nowNs s) (freeCarried s))) s
  else s

end Sys2Proof.Machine
end

