-- ==== Sys2Proof/Machine/Pools.lean ====
section
/-! DEFINITION. The buffer pools of the media services: reserves, run-ahead in shared space, and the cycles of R352 (R350 to R353). -/
namespace Sys2Proof.Machine
open Sys2Proof

/-- Pools 0 and 1 are the staging of MD0 and MD1, pool 2 the stream store: their sizes. -/
def poolSize (s : State) (p : Nat) : Nat := if p = 2 then getReg s 0x6000 0x01 else 2 ^ 26

/-- What the running contexts reserve of a pool, and one of them. -/
def poolReserve (s : State) (p k : Nat) : Nat :=
  if p = 2 then mediaSum (ctxOf s k).charge.media mkStore 0 else mediaSum (ctxOf s k).charge.media mkStaging p
def poolReserves (s : State) (p : Nat) : Nat := ((s.ctxs.map fun e => poolReserve s p e.1)).foldl (· + ·) 0

/-- The bytes of a context's complete frames that wait in staging for stream-store space. -/
def stalledBytes (s : State) (k : Nat) : Nat := (((ctxOf s k).inputs.filter (·.waits)).map (·.bytes.length)).foldl (· + ·) 0

/-- The media die that a context's packets come in on. -/
def ingestDie (s : State) (k : Nat) : Nat :=
  match ([0, 1].map (legPort s k)).filter (· != 0xFF) with
  | p :: _ => mediaDieOfPort p
  | [] => 0

/-- The bytes of packets queued on a media die for outputs of a context beyond its first queued one (a burst). -/
def burstBytes (s : State) (die k : Nat) : Nat :=
  let mine := s.media.egress.filter fun p => p.ctx == k && p.port / 2 == die
  let j0 := minOf 0 (mine.map (·.j))
  ((mine.filter fun p => p.j != j0).map (·.payload.length)).foldl (· + ·) 0

/-- What a context's frames take of the stream store: inputs that wait or run, committed outputs. -/
def storeUse (s : State) (k : Nat) : Nat :=
  let ins := (((ctxOf s k).inputs.filter fun f => f.complete && !f.waits).map (·.bytes.length)).foldl (· + ·) 0
  let runs := (s.works.map fun w => match w.id with
    | .frame c _ => if c = k then w.inLen else 0
    | .job _ _ _ => 0).foldl (· + ·) 0
  let outs := ((s.frames.filter fun f => f.ctx == k && f.state == 3).map (·.outLen)).foldl (· + ·) 0
  ins + runs + outs

/-- R351: the shared space that a context's run-ahead holds in a pool, spilled bytes apart. -/
def poolLoan (s : State) (p k : Nat) : Nat :=
  let use := if p = 2 then storeUse s k - poolReserve s 2 k
    else burstBytes s p k + if ingestDie s k = p then stalledBytes s k else 0
  use - ((s.media.spilled.filter fun x => x.1 == p && x.2.1 == k).map (·.2.2)).foldl (· + ·) 0

/-- R353: the free shared bytes of a pool. -/
def poolShared (s : State) (p : Nat) : Nat :=
  poolSize s p - poolReserves s p - ((s.ctxs.map fun e => poolLoan s p e.1)).foldl (· + ·) 0

/-- R352: is spilled data of a stream of the same or a higher priority to return to a pool before context `k` borrows more of it. -/
def spillAhead (s : State) (p k : Nat) : Bool := s.media.spilled.any fun x => x.1 == p && decide (ctxReg s x.2.1 0x0D ≤ ctxReg s k 0x0D)

/-- R351: may a context put `n` more bytes into the stream store: within its reserve, or in shared space. -/
def storeRoom (s : State) (k n : Nat) : Bool :=
  let extra := storeUse s k + n - poolReserve s 2 k
  let more := extra - poolLoan s 2 k
  more == 0 || decide (more ≤ poolShared s 2) && !spillAhead s 2 k

/-- A borrower waits for a pool, or waits no longer. -/
def waitPool (s : State) (k p : Nat) : State :=
  if s.media.waiters.contains (k, p) then s else { s with media := { s.media with waiters := s.media.waiters ++ [(k, p)] } }
def stopWaiting (s : State) (k p : Nat) : State := { s with media := { s.media with waiters := s.media.waiters.filter (· != (k, p)) } }

/-- R352: the contexts that context `k` waits on. -/
def waitsOn (s : State) (k : Nat) : List Nat :=
  ((s.media.waiters.filter fun w => w.1 == k).flatMap fun w =>
    (s.ctxs.map (·.1)).filter fun y => y != k && decide (0 < poolLoan s w.2 y)).eraseDups

/-- The contexts reached by waiting from a list. -/
def waitClosure (s : State) : Nat → List Nat → List Nat
  | 0, seen => seen
  | fuel + 1, seen =>
    let new := (seen.flatMap (waitsOn s)).eraseDups.filter fun k => !seen.contains k
    if new = [] then seen else waitClosure s fuel (seen ++ new)

/-- The members of a cycle through context `k`; none when it waits in no cycle. -/
def waitCycle (s : State) (k : Nat) : List Nat :=
  let n := s.ctxs.length + 1
  (waitClosure s n (waitsOn s k)).filter fun y => (waitClosure s n (waitsOn s y)).contains k && (waitClosure s n (waitsOn s y)).contains y

/-- R352: the member of the highest class number, then of the highest number. -/
def cycleVictim (s : State) (l : List Nat) : Nat :=
  l.foldl (fun b k => if ctxReg s b 0x0D < ctxReg s k 0x0D ∨ (ctxReg s b 0x0D = ctxReg s k 0x0D ∧ b < k) then k else b) (l.headD 0)

/-- R352: one cycle is broken: the victim's run-ahead in its pools is spilled. -/
def breakCycle (s : State) (cycle : List Nat) : State :=
  let v := cycleVictim s cycle
  let pools := ((s.media.waiters.filter fun w => cycle.contains w.1).map (·.2)).eraseDups
  let new := (pools.map fun p => (p, v, poolLoan s p v)).filter fun x => x.2.2 != 0
  let s := { s with media := { s.media with spilled := s.media.spilled ++ new } }
  addReg (addReg s 0x6000 0x04 1) 0x6000 0x05 ((new.map (·.2.2)).foldl (· + ·) 0)

/-- R352: at a tick boundary every cycle is broken. -/
def breakCycles : Nat → State → State
  | 0, s => s
  | fuel + 1, s =>
    match (s.media.waiters.map (·.1)).find? fun k => (waitCycle s k).contains k with
    | some k => breakCycles fuel (breakCycle s (waitCycle s k))
    | none => s

/-- R352: spilled bytes return to their pool as shared space frees, oldest first. -/
def returnSpilled (s : State) : State :=
  s.media.spilled.foldl (fun s x =>
    if x.2.2 ≤ poolShared s x.1 then { s with media := { s.media with spilled := s.media.spilled.erase x } } else s) s

end Sys2Proof.Machine
end

