-- ==== Sys2Proof/Machine/Egress.lean ====
section
/-! DEFINITION. Outputs on their way out: stream rings, egress flows, retention, benching and rejoining, and paced packets (R337, R338,
R345 to R349, R355, R371 to R374, R419, R431, R437). -/
namespace Sys2Proof.Machine
open Sys2Proof

/-! ### DMA and rings in host memory (R363, R364, R373) -/

/-- The part may make DMA: link up, D0, Bus Master Enable set. -/
def dmaOk (s : State) : Bool := s.ctl.linkUp && !s.ctl.d3hot && s.ctl.busMaster

/-- Bytes written into host memory. -/
def hostWrite (s : State) (a : Nat) (bs : List Byte) : State := { s with host := s.host.write a bs }

def sring (s : State) (r : Nat) : StreamRing := ngetD s.srings r {}
def putSring (s : State) (r : Nat) (x : StreamRing) : State := { s with srings := nset s.srings r x }
def sringReg (s : State) (r sub : Nat) : Nat := getReg s (streamRingIndex r) sub

/-- R364: the host index of a stream ring. -/
def sringHost (s : State) (r : Nat) : Nat := s.host.num (sringReg s r 0x02) 8

/-- R349, R374: has an output ring a free slot. -/
def sringRoom (s : State) (r : Nat) : Bool :=
  dmaOk s && decide (r < 64) && sringReg s r 0x06 != 0 && sringReg s r 0x01 == 1 && decide ((sring s r).index < sringHost s r + sringReg s r 0x06)

/-- R374: the slot of position `n`, its descriptor, and the device index past it. -/
def sringWrite (s : State) (r n : Nat) (f : FrameEntry) : State :=
  let slot := n % sringReg s r 0x06
  let data := s.mem.read f.outBase f.outLen
  let desc := leBytes 8 f.j ++ leBytes 8 f.outLen ++ leBytes 8 f.card ++ leBytes 1 f.oflags ++ leBytes 1 0 ++ leBytes 2 f.status ++ leBytes 4 0
  let s := hostWrite s (sringReg s r 0x04 + slot * sringReg s r 0x05) data
  let s := hostWrite s (sringReg s r 0x03 + slot * 32) desc
  hostWrite s (sringReg s r 0x02 + 16) (leBytes 8 (n + 1))

/-- R374: an output takes the next position of its ring; the vector is due. -/
def sringPut (s : State) (r k : Nat) (f : FrameEntry) : State :=
  let x := sring s r
  let s := sringWrite s r x.index f
  raiseVector (putSring s r { x with index := x.index + 1, put := x.put ++ [(x.index, k, f.j)] }) (16 + r % 32)

/-! ### Receivers (R345, R347, R349, R394) -/

def flowOf (s : State) (f : Nat) : Flow := ngetD s.flows f {}
def putFlow (s : State) (f : Nat) (x : Flow) : State := { s with flows := nset s.flows f x }
def recvKind (b : List Byte) : Nat := numAt b 0 1
def recvPort (b : List Byte) : Nat := numAt b 1 1
def recvWindow (b : List Byte) : Nat := if numAt b 2 1 = 0 then 8 else numAt b 2 1
/-- R345, R394: the hop limit, 64 where the field is 0, and the DSCP. -/
def recvHops (b : List Byte) : Nat := if numAt b 4 1 = 0 then 64 else numAt b 4 1
def recvDscp (b : List Byte) : Nat := numAt b 3 1
def recvUdp (b : List Byte) : Nat := numAt b 6 2
def recvTarget (b : List Byte) : Nat := numAt b 8 2
def recvAddress (b : List Byte) : Nat := beNat (sliceAt b 16 16)

def setFlowBit (s : State) (f sub r : Nat) : State := setReg s (flowIndex f) sub (setBitAt (getReg s (flowIndex f) sub) r)
def clearFlowBit (s : State) (f sub r : Nat) : State := setReg s (flowIndex f) sub (clearBitAt (getReg s (flowIndex f) sub) r)
def flowBit (s : State) (f sub r : Nat) : Bool := (getReg s (flowIndex f) sub).testBit r

/-- A frame no longer waits for a receiver (or for one of the markers). -/
def clearWait (s : State) (k j : Nat) (m : Nat × Nat) : State :=
  match findFrame s k j with
  | some f => putFrame s { f with waiting := f.waiting.filter (· != m) }
  | none => s

def addWait (s : State) (k j : Nat) (m : Nat × Nat) : State :=
  match findFrame s k j with
  | some f => if f.waiting.contains m then s else putFrame s { f with waiting := f.waiting ++ [m] }
  | none => s

/-- R271: a downstream frame that reads frame j of context k is not finished. -/
def readDownstream (s : State) (k j : Nat) : Bool :=
  s.ctxs.any fun e => ctxReg s e.1 0x26 == 4 && ctxReg s e.1 0x27 == k &&
    ((findFrame s e.1 j).isSome || (ctxState s e.1 == 3 && decide (ctxReg s e.1 0x39 ≤ j) && decide (e.2.firstJ ≤ j)))

/-- R428: a committed frame with nothing left to hold it enters state 4 and frees its entry. -/
def settleFrame (s : State) (k j : Nat) : State :=
  match findFrame s k j with
  | some f => if f.state = 3 ∧ f.waiting = [] ∧ !readDownstream s k j then freeFrame s k j else s
  | none => s

/-- Every committed frame that nothing holds any more; chains are four contexts deep. -/
def settleFrames (s : State) : State :=
  (List.range 4).foldl (fun s _ => (s.frames.map fun f => (f.ctx, f.j)).foldl (fun s e => settleFrame s e.1 e.2) s) s

/-- R349, R362, R397: the sweep that resumed a receiver has ended. -/
def noteDelivered (s : State) (f r : Nat) (e : FrameEntry) : State :=
  if flowBit s f 0x07 r ∧ e.kind.testBit 1 then raiseVector (logFault (clearFlowBit s f 0x07 r) 0x0071 0 13 f e.ctx r) 51 else s

/-- R437, R419: what a fabric receiver is sent: context, frame number, output (log 34). -/
def peerOutput (e : FrameEntry) (data : List Byte) : List Byte := leBytes 2 e.ctx ++ leBytes 8 e.j ++ data

/-- R345: a held output goes to its acknowledged receiver if that one can take it now. -/
def deliverHeld (s : State) (f : Nat) (h : HeldOutput) : State :=
  match findFrame s h.ctx h.j, nget (flowOf s f).recs h.receiver with
  | some e, some b =>
    if h.sent then s
    else
      let mark (s : State) (n : Nat) : State :=
        let x := flowOf s f
        noteDelivered (putFlow s f { x with held := x.held.map fun o =>
          if o.receiver = h.receiver ∧ o.ctx = h.ctx ∧ o.j = h.j then { o with sent := true, msg := n } else o }) f h.receiver e
      if recvKind b = 2 then
        let (s, n) := sendMessage s (recvTarget b) (0x1000 + f) (peerOutput e (s.mem.read e.outBase e.outLen))
        mark s n
      else if sringRoom s (recvTarget b) then
        let n := (sring s (recvTarget b)).index
        mark (sringPut s (recvTarget b) h.ctx e) n
      else s
  | _, _ => s

/-- R345, R321: the outputs held for each receiver, in the order of their commits, as far as it has room. -/
def deliverFlow (s : State) (f : Nat) : State :=
  (flowOf s f).held.foldl (fun s h => match (flowOf s f).held.find? fun o => o.receiver == h.receiver && !o.sent with
    | some o => if o.ctx = h.ctx ∧ o.j = h.j then deliverHeld s f h else s
    | none => s) s

/-- R348: a held output is acknowledged. -/
def ackHeld (s : State) (f : Nat) (h : HeldOutput) : State :=
  let x := flowOf s f
  let s := putFlow s f { x with held := x.held.filter fun o => !(o.receiver == h.receiver && o.ctx == h.ctx && o.j == h.j) }
  settleFrame (clearWait s h.ctx h.j (f, h.receiver)) h.ctx h.j

/-- R349: the receivers that resume with this output take it, and from now on. -/
def resumeReceivers (s : State) (f : Nat) (e : FrameEntry) : State :=
  let x := flowOf s f
  if e.kind.testBit 0 then
    let s := x.ready.foldl (fun s r => setFlowBit (clearFlowBit s f 0x06 r) f 0x07 r) s
    putFlow s f { x with active := x.active ++ x.ready.filter (fun r => !x.active.contains r), ready := [] }
  else s

/-- R345, R348: one flow takes a committed output for its receivers. -/
def releaseFlow (s : State) (e : FrameEntry) (f : Nat) : State :=
  let s := resumeReceivers s f e
  let x := flowOf s f
  let live := x.recs.filter fun r => x.active.contains r.1
  let held := (live.filter fun r => recvKind r.2 == 2 || recvKind r.2 == 3).map fun r =>
    ({ receiver := r.1, ctx := e.ctx, j := e.j, round := counterOf s } : HeldOutput)
  let s := live.foldl (fun s r => addWait s e.ctx e.j (f, r.1)) s
  let s := if live = [] then addReg s (flowIndex f) 0x0A 1 else s
  deliverFlow (putFlow s f { x with held := x.held ++ held }) f

/-- R432 step 4: a committed output may leave: to every flow its context names; with no receiver it is released at the next tick. -/
def releaseOutput (s : State) (k j : Nat) : State :=
  match findFrame s k j with
  | some e =>
    if e.state ≠ 3 ∨ e.waiting.any (fun m => m.1 == 0xFFFD || m.1 == 0xFFFC) then s
    else (ctxFlows s k).foldl (fun s f => releaseFlow s e f) s
  | none => s

/-- Something that kept a committed output back is gone: the umpire's comparison or the mirror's acknowledgement. -/
def unhold (s : State) (k j m : Nat) : State :=
  match findFrame s k j with
  | some e => if e.waiting.contains (m, 0) then releaseOutput (clearWait s k j (m, 0)) k j else s
  | none => s

/-! ### Benching and rejoining (R348, R349, R397) -/

/-- Everything held for a receiver is released. -/
def dropHeld (s : State) (f r : Nat) : State := ((flowOf s f).held.filter fun h => h.receiver == r).foldl (fun s h => ackHeld s f h) s

/-- RECEIVER_BENCH (R348): an output of an acknowledged receiver is unacknowledged at tick n + w. -/
def benchReceiver (s : State) (f r : Nat) : State :=
  match nget (flowOf s f).recs r with
  | none => s
  | some b =>
    if (flowOf s f).held.any fun h => h.receiver == r && decide (h.round + recvWindow b ≤ counterOf s) then
      let s := dropHeld s f r
      let x := flowOf s f
      let s := putFlow s f { x with active := x.active.filter (· != r), ready := x.ready.filter (· != r) }
      let s := addReg (clearFlowBit (setFlowBit s f 0x06 r) f 0x07 r) 0x6000 0x06 1
      raiseVector (logFault s 0x0070 0 13 f (getReg s (flowIndex f) 0x01) r) 51
    else s

def execReceiverBench (flow receiver : Nat) (s : State) : Host.Outcome State Fault Refusal :=
  whenControlled s fun s => benchReceiver s flow receiver

/-- RECEIVER_READY (R349): a benched receiver has room for one output. -/
def readyReceiver (s : State) (f r : Nat) : State :=
  match nget (flowOf s f).recs r with
  | none => s
  | some b =>
    let x := flowOf s f
    let room := recvKind b == 2 && reachable s (recvTarget b) || recvKind b == 3 && sringRoom s (recvTarget b)
    if flowBit s f 0x06 r && room && !x.ready.contains r then putFlow s f { x with ready := x.ready ++ [r] } else s

def execReceiverReady (flow receiver : Nat) (s : State) : Host.Outcome State Fault Refusal :=
  whenControlled s fun s => readyReceiver s flow receiver

/-- R347: at a tick boundary receiver writes take effect: a new receiver waits for the next sweep, a removed one gives up what was held
for it. -/
def takeReceivers (s : State) (f : Nat) : State :=
  let new := flowReceivers s f
  let x := flowOf s f
  let changed (e : Nat × List Byte) : Bool := match nget x.recs e.1 with
    | some b => b != e.2
    | none => true
  let gone := (x.recs.filter fun e => !new.any fun n => n.1 == e.1 && n.2 == e.2).map (·.1)
  let fresh := (new.filter changed).map (·.1)
  let s := gone.foldl (fun s r =>
    let s := dropHeld (clearFlowBit (clearFlowBit s f 0x06 r) f 0x07 r) f r
    { s with media := { s.media with egress := s.media.egress.filter fun p => !(p.flow == f && p.recv == r) }
             frames := s.frames.map fun e => { e with waiting := e.waiting.filter (· != (f, r)) } }) s
  let x := flowOf s f
  let on := getReg s (flowIndex f) 0x01 != 0xFFFF
  putFlow s f { x with recs := new, active := x.active.filter (fun r => !gone.contains r && !fresh.contains r) ++ (if on then [] else fresh)
                       ready := x.ready.filter (fun r => !gone.contains r && !fresh.contains r) ++ (if on then fresh else []) }

/-! ### Packets (R337, R338, R346) -/

/-- R337: a flow's synchronisation source. -/
def ssrcOf (s : State) (f : Nat) : Nat := s.ctl.manifest.serial % 65536 * 65536 + f

/-- The picture format of a context's outputs on the wire. -/
def outPicture (s : State) (k : Nat) : PicFormat :=
  let (w, h, c) := codedSize s k
  ⟨w, h, c, codedDepth s k⟩

/-- R336, R340: the packets of an output on a flow: (sample offset, payload). -/
def payloadsOf (s : State) (e : FrameEntry) (f seq0 : Nat) : List (Nat × List Byte) :=
  let size := getReg s (flowIndex f) 0x02
  let fmt := getReg s (flowIndex f) 0x03
  let bs := s.mem.read e.outBase e.outLen
  if fmt = 2 then (olvPackets (e.kind.testBit 3) (e.kind.testBit 2) size bs).map fun p => (0, p)
  else if fmt = 1 then audioPackets (ctxReg s e.ctx 0x0C) bs
  else if fmt = 0 then (videoPackets (outPicture s e.ctx) size seq0 bs).map fun p => (0, p)
  else (blockPackets fmt size bs).map fun p => (0, p)

/-- Insertion by send time, later arrivals last. -/
def insertPacket (p : OutPacket) : List OutPacket → List OutPacket
  | [] => [p]
  | x :: r => if p.time < x.time then p :: x :: r else x :: insertPacket p r

/-- R346: packets of the output at its place among the round's, for one IP receiver. `at0` is packet 0's index, `n` the total. -/
def packOne (s : State) (e : FrameEntry) (f seq0 at0 n : Nat) (ps : List (Nat × List Byte)) (r : Nat × List Byte) : List OutPacket :=
  let room := period s * (1000 - inForceReg s 0x2000 0x03)
  let start := counterOf s * period s / 3
  let audio := getReg s (flowIndex f) 0x03 == 1
  ps.zipIdx.map fun x =>
    let time := if audio then start + x.1.1 * 1000000000 / 48000 else start + (at0 + x.2) * room / (3000 * Nat.max 1 n)
    { ctx := e.ctx, j := e.j, recv := r.1, port := recvPort r.2, flow := f, time, dst := recvAddress r.2, dscp := recvDscp r.2, hops := recvHops r.2, udpPort := recvUdp r.2
      ptype := getReg s (flowIndex f) 0x04, seq := (seq0 + x.2) % 65536, stamp := e.stamp, marker := decide (x.2 + 1 = ps.length)
      payload := x.1.2 }

/-- Insertion by place among the commits of a context. -/
def insertPlace (x : FrameEntry) : List FrameEntry → List FrameEntry
  | [] => [x]
  | y :: r => if x.place < y.place then x :: y :: r else y :: insertPlace x r

/-- The outputs of a flow that wait for their packets, in the order in which a context's frames committed (R321, R346; log 51). -/
def unpacked (s : State) (f : Nat) : List FrameEntry :=
  (s.frames.filter fun e => e.state == 3 && !e.packed.contains f && !e.waiting.any (fun m => m.1 == 0xFFFD || m.1 == 0xFFFC)
    && e.waiting.any (fun m => m.1 == f && ((nget (flowOf s f).recs m.2).map recvKind) == some 1)).foldr insertPlace []

/-- One output's packets are queued; its first sequence number is kept for a replay (R437). -/
def packFrame (s : State) (f at0 n : Nat) (e : FrameEntry) (ps : List (Nat × List Byte)) : State :=
  let x := flowOf s f
  let known := e.seqs.find? fun q => q.1 == f
  let seq0 := (known.map (·.2)).getD x.nextSeq
  let s := match known with
    | some _ => s
    | none => putFlow s f { x with nextSeq := x.nextSeq + ps.length }
  let sinks := x.recs.filter fun r => recvKind r.2 == 1 && e.waiting.contains (f, r.1)
  let dead := sinks.filter fun r => !portUp s (recvPort r.2) || ps.isEmpty
  let new := (sinks.filter fun r => portUp s (recvPort r.2)).flatMap (packOne s e f seq0 at0 n ps)
  let s := { s with media := { s.media with egress := new.foldl (fun l p => insertPacket p l) s.media.egress } }
  let s := putFrame s { e with packed := e.packed ++ [f], seqs := if known.isSome then e.seqs else e.seqs ++ [(f, seq0)] }
  dead.foldl (fun s r => (clearWait s e.ctx e.j (f, r.1))) s

/-- R350, R351: the outputs of a flow that may be queued now: the first, and the others while the shared staging of the port's media die has
room for them; else their context waits for it. -/
def packable (s : State) (f : Nat) : State × List FrameEntry :=
  match unpacked s f with
  | e :: x :: r =>
    let port := ((flowOf s f).recs.filterMap fun b => if recvKind b.2 = 1 then some (recvPort b.2) else none).headD 0
    if ((x :: r).map (·.outLen)).foldl (· + ·) 0 ≤ poolShared s (mediaDieOfPort port) ∧ !spillAhead s (mediaDieOfPort port) e.ctx then (stopWaiting s e.ctx (mediaDieOfPort port), e :: x :: r)
    else (waitPool s e.ctx (mediaDieOfPort port), [e])
  | es => (s, es)

/-- R336, R337: the outputs with their packets, each output's sequence numbers behind those of the one before it. -/
def numbered (s : State) (f : Nat) : Nat → List FrameEntry → List (FrameEntry × List (Nat × List Byte))
  | _, [] => []
  | next, e :: r =>
    let known := (e.seqs.find? fun q => q.1 == f).map (·.2)
    let ps := payloadsOf s e f (known.getD next)
    (e, ps) :: numbered s f (if known.isSome then next else next + ps.length) r

/-- R346: at tick n + 1 the outputs of a flow that committed in round n are cut into packets; a round with more than one is a burst. -/
def packFlow (s : State) (f : Nat) : State :=
  let (s, es) := packable s f
  let ps := numbered s f (flowOf s f).nextSeq es
  let n := (ps.map (·.2.length)).foldl (· + ·) 0
  let s := if es.length > 1 then addReg s (flowIndex f) 0x0B 1 else s
  (ps.foldl (fun (acc : State × Nat) p => (packFrame acc.1 f acc.2 n p.1 p.2, acc.2 + p.2.length)) (s, 0)).1

/-- R334: does the IP packet of an RTP payload fit the port's MTU: the IPv4 or IPv6 header, UDP and RTP before it. -/
def fitsMtu (s : State) (p : OutPacket) : Bool :=
  decide ((if p.dst / 2 ^ 32 = 0xFFFF then 20 else 40) + 20 + p.payload.length ≤ getReg s (portIndex p.port) 0x09)

/-- PACKET_SEND (R346): the first packet queued for a port leaves at its time; one above the port's MTU is not sent (log 72). -/
def sendPacket (s : State) (port : Nat) : State :=
  match s.media.egress.find? fun p => p.port == port with
  | none => s
  | some p =>
    if !portUp s port then s
    else
      let s := passTime s (p.time - nowNs s)
      let rest := s.media.egress.erase p
      let s := { s with media := { s.media with egress := rest } }
      let s :=
        if fitsMtu s p then
          addReg (emit s (.rtp port (egressTag s port) p.dst p.dscp p.hops p.udpPort p.ptype p.seq p.stamp (ssrcOf s p.flow) p.marker p.payload))
            (flowIndex p.flow) 0x09 1
        else s
      if rest.any fun q => q.flow == p.flow && q.recv == p.recv && q.ctx == p.ctx && q.j == p.j then s
      else
        let s := match findFrame s p.ctx p.j with
          | some e => noteDelivered s p.flow p.recv e
          | none => s
        settleFrame (clearWait s p.ctx p.j (p.flow, p.recv)) p.ctx p.j

def execPacketSend (port : Nat) (s : State) : Host.Outcome State Fault Refusal := whenService s fun s => sendPacket s port

/-- R355: a port that failed sends nothing: its receivers' packets go, as for a flow with no receivers. -/
def silencePort (s : State) (port : Nat) : State :=
  let mine := s.media.egress.filter fun p => p.port == port
  let s := { s with media := { s.media with egress := s.media.egress.filter fun p => p.port != port } }
  mine.foldl (fun s p => settleFrame (clearWait s p.ctx p.j (p.flow, p.recv)) p.ctx p.j) s

/-! ### Stream reports (R364, R369, R372) -/

def ringReg (s : State) (r sub : Nat) : Nat := getReg s (ringIndex r) sub
def ringRun (s : State) (r : Nat) : RingRun := ngetD s.rings r {}
def putRing (s : State) (r : Nat) (x : RingRun) : State := { s with rings := nset s.rings r x }

/-- R369: the 64 bytes of a completion record. -/
def completionBytes (c : Completion) : List Byte :=
  let b (v : Bool) (i : Nat) : Nat := if v then 2 ^ i else 0
  let bits := c.flags % 16 + b c.nonStrict 4 + b (c.lag != 0) 5 + b c.concealed 6 + b c.inputLoss 7 + b c.repeated 8 + b c.lagLimit 9
  leBytes 8 c.seq ++ leBytes 2 c.status ++ leBytes 2 bits ++ leBytes 2 c.lag ++ leBytes 2 c.detail ++ leBytes 8 c.card ++ leBytes 8 c.length
    ++ leBytes 8 c.tick ++ leBytes 8 c.count ++ leBytes 16 0

/-- R364: the slot of a position of a ring pair. -/
def ringSlot (s : State) (r pos : Nat) : Nat := (ringReg s r 0x06 + pos) % Nat.max 1 (ringReg s r 0x05)

/-- R371, R372: a record goes to its slot: bytes 8 … 63, then 0 … 7. -/
def putRecord (s : State) (r pos : Nat) (c : Completion) : State :=
  let a := ringReg s r 0x04 + ringSlot s r pos * 64
  let bs := completionBytes c
  raiseVector (hostWrite (hostWrite s (a + 8) (bs.drop 8)) a (bs.take 8)) r

/-- R372: the record of a committed output. -/
def reportOf (s : State) (r : Nat) (f : FrameEntry) : Completion :=
  { seq := ringReg s r 0x06 + f.j, status := f.status, flags := f.flags % 16, nonStrict := (f.flags / 16).testBit 0
    concealed := f.oflags.testBit 1, inputLoss := f.oflags.testBit 2, repeated := f.oflags.testBit 3, lagLimit := (f.flags / 16).testBit 1
    lag := f.lag, detail := f.flags / 64, card := f.card, length := f.outLen, tick := f.tick, count := f.j }

/-- R372: the rings that report a context. -/
def reportRings (s : State) (k : Nat) : List Nat :=
  (List.range 16).filter fun r => ringReg s r 0x01 == 1 && ringReg s r 0x05 != 0 && ringReg s r 0x07 == k

/-- R252: a report waits for the umpire's comparison, whose outcome it carries. -/
def reportWaits (e : FrameEntry) : Bool :=
  e.status != stUmpireMismatch && e.waiting.any fun m => m.1 == 0xFFFD || m.1 == 0xFFFB

/-- Reports that waited for DMA or a comparison, in frame order. -/
def postReports (s : State) : State :=
  if !dmaOk s then s
  else (s.frames.filter fun e => !reportWaits e).foldl (fun s e =>
    (e.waiting.filter fun m => m.1 == 0xFFFE).foldl (fun s m =>
      let s := putRecord s m.2 e.j (reportOf s m.2 e)
      settleFrame (clearWait s e.ctx e.j m) e.ctx e.j) s) s

end Sys2Proof.Machine
end

