-- ==== Sys2Proof/Machine/Journal.lean ====
section
/-! DEFINITION. The scorebook: commits, completions and their posting, and replay (R85, R140, R229, R239, R241, R365 to R372, R424 to
R437, R442, R448). -/
namespace Sys2Proof.Machine
open Sys2Proof

/-! ### Outcomes (R140, R215, R239, R367) -/

/-- Insertion by part index. -/
def insertRes (x : PartRes) : List PartRes → List PartRes
  | [] => [x]
  | y :: r => if x.idx < y.idx then x :: y :: r else y :: insertRes x r

/-- The first status other than ST_OK. -/
def firstBad (l : List Nat) : Nat := (l.find? (· != stOk)).getD stOk

/-- What one segment adds to the status. -/
def segStatus (r : SegRes) : Nat := if r.status = ecOk then stOk else if r.conceal then stEntropyConcealed else stEntropyError

/-- R140, R411, R215: the status of a work: refused parts by index, then what decided it before, failed collectives, failed segments,
concealed segments, and what the parser noted (log 36). -/
def workStatus (w : Work) : Nat :=
  let segs := w.segs.map segStatus
  firstBad ((w.parts.foldr insertRes []).map (·.status) ++ [w.result.getD stOk] ++ w.colls.map (·.2)
    ++ segs.filter (· == stEntropyError) ++ segs ++ [w.note])

/-- R369: the first EC_ or DZ_ code. -/
def workDetail (w : Work) : Nat := ((w.segs.find? fun r => r.status != ecOk).map (·.status)).getD w.detail

/-- R85: the OR of the flags of a work's parts. -/
def workFlags (w : Work) : Nat := w.parts.foldl (fun a r => a ||| r.flags) w.flags

/-- Has everything of a work ended, its input scaled. -/
def workDone (s : State) (w : Work) : Bool :=
  if w.result.isSome then s.tiles.all fun e => match e.2.part with
    | some p => !(p.work == w.id)
    | none => true
  else if w.raw.isSome then false
  else if isService w.slot then w.valid != 0 && (serviceKind w.slot == 1 || w.order.isSome)
  else if w.slot = 0xFFFF then decide (w.aim ≤ w.segs.length)
  else workEnded s w && !unparsed s w

/-- Does frame `j` stand before frame `j'` of its context: by frame number, and where both are pictures of a block decode by their places in
output order (R321); an access unit without a picture waits for none and holds none up. -/
def frameBefore (s : State) (o : Work) (k j j' : Nat) : Bool :=
  if isService o.slot && serviceKind o.slot == 2 then
    match o.order, (findWork s (.frame k j')).bind (·.order) with
    | some a, some b => decide (a < b)
    | _, _ => false
  else decide (j < j')

/-- Is a frame of the same stream or job that stands before it not committed yet: commits keep their order (log 37). -/
def earlierOpen (s : State) (work : WorkId) : Bool :=
  s.works.any fun o => match o.id, work with
    | .frame k j, .frame k' j' => k == k' && frameBefore s o k j j'
    | .job r p i, .job r' p' i' => r == r' && p == p' && decide (i < i')
    | .frame _ _, .job _ _ _ => false
    | .job _ _ _, .frame _ _ => false

/-- R239: the outputs of a work in ascending region number: their bytes. -/
def regionOutputs (s : State) (w : Work) : List (List Byte) :=
  match (pkgOf s w.slot).bind fun p => classOf p w.cls with
  | some c => (declsOf c [3]).map fun d =>
      match regionOf w d.num with
      | some r => s.mem.read r.base r.len
      | none => []
  | none => []

/-- The outputs that a work commits. -/
def workOutputs (s : State) (w : Work) : List (List Byte) :=
  if isService w.slot then [w.output]
  else if w.slot = 0xFFFF then [w.output.take w.outLen]
  else
    match w.id, pkgOf s w.slot with
    | .frame k j, some p =>
      if p.kind = 1 ∨ p.kind = 3 then
        match classOf p w.cls with
        | some c => [pictureStream s k j w p c]
        | none => []
      else if p.kind = 4 then (regionOutputs s w).map fun b => b.take (w.samples * ctxReg s k 0x0C * 4)
      else regionOutputs s w
    | _, _ => regionOutputs s w

/-- R239: the output scorecard. -/
def workCard (w : Work) (outs : List (List Byte)) : Nat :=
  wrap64 (((w.parts.map (·.card)) ++ w.segs.map (·.card) ++ outs.zipIdx.map fun o => cardOfBytes 0xFFFFFF02 (o.2 * 2 ^ 40) (2 ^ 40) o.1).foldl
    (· + ·) 0)

/-- Where a work's outputs begin and how many bytes they may fill. -/
def outputPlace (w : Work) : Nat × Nat :=
  let rs := w.regions.filter fun r => r.source == 3
  match rs with
  | [] => (0, 0)
  | r :: _ =>
    let lo := (rs.map (·.base)).foldl Nat.min r.base
    (lo, (rs.map fun r => r.base + r.len).foldl Nat.max 0 - lo)

/-! ### Replay divergence (R241) -/

/-- R241: the tiles and lanes that a work ran on, as (unit kind, unit). -/
def workUnits (w : Work) : List (Nat × Nat) :=
  let lanes := if isService w.slot ∨ w.slot = 0xFFFF then [] else w.segs.map fun r => (2, r.lane)
  (w.parts.map (fun (r : PartRes) => (1, r.tile)) ++ lanes).eraseDups

/-- R241: a recomputed output differs from the recorded one: counted, logged once for every tile and lane of both runs, and every tile of the
replay retired. `old` are the units of the first run, as far as its entry kept them. -/
def diverged (s : State) (w : Work) (old : List (Nat × Nat)) (seq : Nat) : State :=
  let s := addReg s 0x5010 0x07 1
  let units := (old ++ workUnits w).eraseDups
  let s := (if units = [] then [(0, 0)] else units).foldl (fun s u => logFault s 0x0060 1 u.1 u.2 (workCtx w.id) seq) s
  (((w.parts.map (·.tile)).eraseDups).filter fun t => !tileRetired s t).foldl retireTile s

/-! ### Frames (R430, R432) -/

/-- R442: the state buffers of a committed frame go to the mirror. -/
def mirrorState (s : State) (k j : Nat) (w : Work) : State :=
  (w.regions.filter fun r => r.source == 4).foldl (fun s r => toMirror s (.stateRegion k r.num (j % 2) (s.mem.read r.base r.len))) s

/-- R349, R277, R311: what an output begins and ends: its FrameEntry.kind. -/
def outputKind (s : State) (k j : Nat) (w : Work) : Nat :=
  let b (v : Bool) (i : Nat) : Nat := if v then 2 ^ i else 0
  let kind := ctxKind s k
  if binding s k = 0xF001 ∨ binding s k = 0xF002 then
    b (keyPicture s k j) 0 + b (if refreshAt s k j = 0 then keyPicture s k j else phaseOf s k j + 1 == refreshAt s k j) 1
  else if isService (binding s k) then 3
  else if kind = 1 ∨ kind = 3 then
    b (phaseOf s k j == 0 && carriesSeq s k j) 0 + b (phaseOf s k j + 1 == Nat.max 1 (refreshAt s k j)) 1
      + b (if kind = 1 then j == 0 else phaseOf s k j == 0) 2 + b (carriesSeq s k j) 3
  else 3 + b w.startPic 2

/-- R338: the RTP timestamp of an output. -/
def outputStamp (s : State) (k j : Nat) (w : Work) : Nat :=
  let kind := ctxKind s k
  if kind = 3 then wrap32 (sampleStart s ((ctxOf s k).startTick + (j - (ctxOf s k).firstJ)))
  else if kind = 4 ∨ (ctxReg s k 0x26 = 1 ∧ kind ≠ 3) then w.stamp
  else wrap32 (dueTick s k j * period s * 90000 / 3000000000)

/-- R250 to R252: are a context's outputs compared, and which marker holds them: the gate's, or the one that only reports wait for. -/
def umpireCompares (s : State) (k : Nat) : Bool :=
  ctxReg s k 0x32 != 0 && (getReg s 0x5020 0x07 == 2 || getReg s 0x5020 0x07 == 3 || getReg s 0x5020 0x07 == 5)
def umpireMark (s : State) : Nat := if getReg s 0x5020 0x05 = 0 then 0xFFFB else 0xFFFD

/-- What a committed frame waits for beside its receivers. -/
def frameMarks (s : State) (k : Nat) (commits : Bool) : List (Nat × Nat) :=
  (if commits then [(0xFFFF, 0)] ++ (reportRings s k).map (fun r => (0xFFFE, r)) else [])
    ++ (if commits && umpireCompares s k then [(umpireMark s, 0)] else []) ++ if mirrorOn s then [(0xFFFC, 0)] else []

/-- R215, R271, R321: was a work's output concealed, or the upstream frame it read. -/
def workConcealed (s : State) (k j : Nat) (w : Work) : Bool :=
  w.concealed || w.segs.any (·.conceal) ||
  (ctxReg s k 0x26 == 4 && ((findFrame s (ctxReg s k 0x27) j).map (·.oflags.testBit 1)) == some true)

/-- R448: a completion with ST_MEMORY_LOST is counted and logged. -/
def countLost (s : State) (st ctx detail : Nat) : State :=
  if st = stMemoryLost then logFault (addReg s 0x4000 0x0B 1) 0x020A 0 0 0 ctx detail else s

/-- R432: a stream frame commits with status `st` and outputs `outs`. -/
def commitFrame (s : State) (k j : Nat) (w : Work) (st : Nat) (outs : List (List Byte)) : State :=
  let commits := statusCommits st
  let data := if commits then outs.flatMap id else []
  let card := if commits then workCard w outs else 0
  let place := outputPlace w
  let b (v : Bool) (i : Nat) : Nat := if v then 2 ^ i else 0
  let conc := workConcealed s k j w
  let limit := (ctxReg s k 0x3B).testBit 0
  let e : FrameEntry :=
    { (findFrame s k j).getD { ctx := k, j, state := 2 } with
        state := 3, card, status := st, lag := w.lag
        oflags := b (w.lag != 0) 0 + b conc 1 + b w.inputLoss 2 + b w.repeated 3
        flags := workFlags w % 16 + b w.nonStrict 4 + b limit 5 + 64 * workDetail w
        outBase := place.1, outLen := data.length, tick := counterOf s, waiting := frameMarks s k commits, units := workUnits w, place := ctxReg s k 0x3C
        kind := outputKind s k j w, stamp := outputStamp s k j w }
  let kind := ctxKind s k
  let s :=
    if commits then
      let s := { s with mem := s.mem.write place.1 data }
      if isService w.slot then s else if kind = 1 ∨ kind = 3 then encodeEnd s k j w data else decodeEnd s k j w
    else
      let s := keepState s k j w
      if isService w.slot then s else if kind = 1 ∨ kind = 3 then encodeFailed s k j w else decodeFailed s k j
  let s := mirrorState s k j w
  let s := dropWork s w.id
  let s := if (findFrame s k j).isSome then putFrame s e else { s with frames := s.frames ++ [e] }
  let s := toMirror s (.entry (.frame k j) 3 card)
  let s := setReg (addReg s (ctxIndex k) 0x3C 1) (ctxIndex k) 0x3A w.lag
  let s := setReg s (ctxIndex k) 0x3B (b limit 0 + b (w.lag != 0) 1)
  let s := countLost s st k j
  let s :=
    if commits ∧ umpireCompares s k then
      { s with umpire := { s.umpire with fresh := s.umpire.fresh ++ [⟨card, j, b conc 0 + b (w.lag != 0) 1, k⟩] } }
    else s
  let s := if commits then releaseOutput s k j else s
  let s := postReports s
  deliverVectors (settleFrame (settleStop s k) k j) k (j + 1)

/-! ### Jobs (R272, R367 to R372, R429) -/

/-- A job's scorebook entry changes its state. -/
def setJobState (s : State) (e : JobEntry) (st : Nat) : State :=
  toMirror (putJob s { e with state := st }) (.entry (.job e.ring e.pos 0) st e.image.card)

/-- R329, R368: the bytes that job `e` leaves in its output buffer: (address, bytes, bytes of zeros after them). -/
def jobWrites (s : State) (e : JobEntry) : List (Nat × List Byte × Nat) :=
  if !statusCommits e.image.status then []
  else if isEngineJob e.job then
    let n := e.image.length
    if e.image.status = stDecompressError then
      [(e.job.outAddr, e.output.take n, e.job.outCap - n), (e.job.outAddr + e.job.outCap, e.output.drop n, 0)]
    else [(e.job.outAddr, e.output, 0)]
  else e.staged.zipIdx.map fun x => (e.job.outAddr + x.2 * e.job.outStride, s.mem.read x.1.2.1 x.1.2.2, 0)

/-- R329, R333: the input bytes that an engine job consumed, as its result record has them. -/
def consumedBytes (e : JobEntry) : Nat := numAt e.output (e.image.length + 3) 5

/-- R425, R367: a job's outcome is fixed: counted, its device-memory output written. -/
def finishJob (s : State) (e : JobEntry) : State :=
  let st := e.image.status
  let e := { e with image := { e.image with length := if statusCommits st then e.image.length else 0, card := if statusCommits st then e.image.card else 0
                                            tick := counterOf s } }
  let s := if e.image.nonStrict then addReg s 0x5010 0x01 1 else s
  let s := countLost s st 0xFFFF e.image.seq
  let s := if isEngineJob e.job ∧ st = stDecompressError then addReg s 0x6200 0x05 1 else s
  let s := if isEngineJob e.job ∧ statusCommits st then addReg (addReg s 0x6200 0x03 (consumedBytes e)) 0x6200 0x04 e.image.length else s
  let s :=
    if e.job.space.testBit 1 then
      (jobWrites s e).foldl (fun s w => { s with mem := Memory.zero (s.mem.write w.1 w.2.1) (w.1 + w.2.1.length) w.2.2 }) s
    else s
  setJobState s e 3

/-- R367: frame `w` of a job ends with status `st`. -/
def commitJobFrame (s : State) (e : JobEntry) (i : Nat) (w : Work) (st : Nat) (outs : List (List Byte)) : State :=
  let engine := isEngineJob e.job
  let last := decide (i + 1 = (if engine then engineSlices e.job else e.job.frames)) || (e.cut && decide (i + 1 = e.issued))
  let data := if statusCommits st ∧ !engine then outs.flatMap id else []
  let place := outputPlace w
  let s := { s with mem := s.mem.write place.1 data }
  let m := e.image
  let card := if engine ∧ !last then 0 else workCard w outs
  let image : Completion :=
    { m with status := if m.status = stOk then st else m.status, flags := m.flags ||| workFlags w % 16, nonStrict := m.nonStrict || w.nonStrict
             concealed := m.concealed || w.concealed || w.segs.any (·.conceal), lag := Nat.max m.lag w.lag
             detail := if m.detail = 0 then workDetail w else m.detail, card := wrap64 (m.card + card)
             length := m.length + (if engine then w.valid else data.length), tick := counterOf s, count := if engine then (if last then 1 else 0) else i + 1 }
  let keep := match w.alloc with
    | some b => [(b, place.1, data.length)]
    | none => [(0, 0, 0)]
  let e := { e with image, done := i + 1, units := (e.units ++ workUnits w).eraseDups, staged := if engine then [] else e.staged ++ keep, output := if engine ∧ last then w.output else e.output }
  let s := dropWork s w.id
  let s := if engine then (match w.alloc with
      | some b => releaseRange s b
      | none => s) else s
  let again := match e.oldCard with
    | some c => last && statusCommits e.image.status && e.image.card != c
    | none => false
  if again then finishJob (diverged s w e.units e.image.seq) { e with image := { e.image with status := stReplayDiverged } }
  else if last then finishJob s e else putJob s e

/-- R241, R435: the status of a recomputed output: ST_REPLAY_DIVERGED when its card is not the recorded one. -/
def replayStatus (w : Work) (st : Nat) (outs : List (List Byte)) : Nat :=
  match w.oldCard with
  | some c => if w.replay && c != (if statusCommits st then workCard w outs else 0) then stReplayDiverged else st
  | none => st

/-- A tile gives up whatever it holds of a work. -/
def dropFromTile (work : WorkId) (x : Tile) : Tile :=
  let x := { x with queue := x.queue.filter fun q => !(q.work == work) }
  match x.part with
  | some p => if p.work == work then { x with part := none } else x
  | none => x

/-- R375, R420: a frame of a span context that is stopping waits on a collective that a member which was lost never completes. -/
def spanCancelled (s : State) (w : Work) : Bool :=
  match w.id with
  | .frame k _ => ctxState s k == 4 && w.colls.length < (((pkgOf s w.slot).bind fun p => classOf p w.cls).map (·.colls.length)).getD 0
      && (match spanGroupOf s k with
        | some (_, ranks) => ranks.any fun a => s.fabric.gone.contains a
        | none => false)
  | .job _ _ _ => false

/-- FRAME_COMMIT (R420, R432): a frame that can never end commits as cancelled. -/
def cancelFrame (s : State) (w : Work) : State :=
  match w.id with
  | .frame k j =>
    let s : State := { s with tiles := s.tiles.map fun (e : Nat × Tile) => (e.1, dropFromTile w.id e.2) }
    commitFrame { s with syncWins := s.syncWins.filter fun x => !(x.work == w.id) } k j w stCancelled []
  | .job _ _ _ => s

/-- FRAME_COMMIT (R432): everything of a work has ended; its outcome is recorded. -/
def commitWork (s : State) (work : WorkId) : State :=
  match findWork s work with
  | none => s
  | some w =>
    if earlierOpen s work ∨ w.stopped then s
    else if !workDone s w then (if spanCancelled s w then cancelFrame s w else s)
    else
      let st := workStatus w
      let s := match work with
        | .frame k j => if statusCommits st ∧ !isService w.slot then formOutput s k j w else s
        | .job _ _ _ => s
      let outs := workOutputs s w
      let total := (outs.map (·.length)).foldl (· + ·) 0
      let st := if statusCommits st ∧ w.slot ≠ 0xFFFF ∧ (outputPlace w).2 < total then stOutputOverflow else st
      let st' := replayStatus w st outs
      match work with
      | .frame k j =>
        let s := if st' = stReplayDiverged ∧ st ≠ st' then diverged s w (((findFrame s k j).map (·.units)).getD []) j else s
        commitFrame s k j w st' outs
      | .job ring pos i =>
        match findJob s ring pos with
        | some e =>
          let s := if st' = stReplayDiverged ∧ st ≠ st' then diverged s w e.units e.image.seq else s
          commitJobFrame s e i w st' outs
        | none => dropWork s work

def execFrameCommit (work : WorkId) (s : State) : Host.Outcome State Fault Refusal := whenControlled s fun s => commitWork s work

/-- R371, R433: the next job of a ring to be posted: the lowest position not posted. -/
def nextToPost (s : State) (r : Nat) : Option JobEntry :=
  match s.jobs.filter fun e => e.ring == r && decide (e.state < 4) with
  | [] => none
  | e :: l => some (l.foldl (fun b x => if x.pos < b.pos then x else b) e)

/-- R364: completions consumed of a ring pair. -/
def ringConsumed (s : State) (r : Nat) : Nat := s.host.num (ringReg s r 0x02 + 8) 8

/-- COMPLETION_POST (R371): outputs, record, then the control block is read. -/
def postJob (s : State) (r : Nat) : State :=
  match nextToPost s r with
  | none => s
  | some e =>
    if e.state ≠ 3 ∨ !dmaOk s ∨ mirrorWaits s (.job r e.pos 0) 3 then s
    else
      let s := if e.job.space.testBit 1 then s else (jobWrites s e).foldl (fun s w => hostWrite s w.1 (w.2.1 ++ List.replicate w.2.2 0)) s
      let s := putRecord s r e.pos e.image
      let s := (e.staged.filter fun x => x.1 != 0 || x.2.2 != 0).foldl (fun s x => releaseRange s x.1) s
      let s := setJobState s { e with staged := [], output := [] } 4
      let x := ringRun s r
      putRing s r { x with posted := e.pos + 1, consumed := Nat.max x.consumed (ringConsumed s r) }

def execCompletionPost (ring : Nat) (s : State) : Host.Outcome State Fault Refusal := whenControlled s fun s => postJob s ring

/-! ### Replay (R435, R436) -/

/-- R435: a running work starts again from its beginning: its parts leave their tiles, its sync window goes, and what firmware formed for its
first run is formed again. What a codec core or an engine has finished stays, and what the parser decided. -/
def restartWork (s : State) (w : Work) : State :=
  if w.result.isSome ∨ w.valid ≠ 0 then s
  else
    let s := { s with tiles := s.tiles.map (fun e => (e.1, dropFromTile w.id e.2)), images := s.images.filter (fun i => !(i.work == w.id))
                      syncWins := s.syncWins.filter fun x => !(x.work == w.id) }
    let m := (w.regions.filter fun r => r.source == 5).foldl (fun m r => Memory.zero m r.base r.len) s.mem
    let s := match w.id, pictureInProgress s (workCtx w.id) with
      | .frame k _, some (p, _) =>
        if p.id = w.id ∧ !isService w.slot then putCtx s k { ctxOf s k with rc := { (ctxOf s k).rc with q := [] } } else s
      | _, _ => s
    let w := { w with parts := [], segs := [], colls := [], tiles := [], delivered := [], steps := [], flags := 0, nonStrict := false
                      started := false, stopped := false, parsed := false, concealed := false, tilesOut := [], segLanes := [] }
    let s : State := { s with mem := m }
    match w.id with
    | .frame k j =>
      let s := if ctxKind s k = 2 ∧ !isService w.slot then decodeFailed s k j else s
      deliverVectors (putWork s { w with searched := !needsForm s k }) k j
    | .job _ _ _ => putWork s w

/-- R435, R448: every running work `pick` names is run again; the entries acted on are counted. -/
def replayWorks (s : State) (pick : Work → Bool) : State :=
  let ws := s.works.filter pick
  addReg (ws.foldl restartWork s) 0x4000 0x0A ws.length

/-- A frame whose packets are to be queued again; a flow whose held outputs are to be sent again to its fabric peers. -/
def unpackEntry (e : FrameEntry) : FrameEntry := { e with packed := [] }
def unsendFlow (x : Flow) : Flow :=
  { x with held := x.held.map fun h => if (nget x.recs h.receiver).map recvKind = some 3 then h else { h with sent := false } }

/-- R437: what a host output ring was given and holds unacknowledged is written again: the same slot, descriptor and device index. -/
def rewriteHeld (s : State) (f : Nat) (h : HeldOutput) : State :=
  match findFrame s h.ctx h.j, nget (flowOf s f).recs h.receiver with
  | some e, some b =>
    if recvKind b = 3 ∧ h.sent ∧ dmaOk s ∧ sringReg s (recvTarget b) 0x06 ≠ 0 then sringWrite s (recvTarget b) h.msg e else s
  | _, _ => s

/-- R435: committed frames that have not left go out again, from their first packet. -/
def releaseAgain (s : State) : State :=
  let s : State := { s with media := { s.media with egress := [] }, frames := s.frames.map unpackEntry }
  let s : State := { s with flows := s.flows.map fun (e : Nat × Flow) => (e.1, unsendFlow e.2) }
  let s := s.flows.foldl (fun s x => x.2.held.foldl (fun s h => rewriteHeld s x.1 h) s) s
  (s.flows.map (·.1)).foldl deliverFlow s

/-- R435, R436: every entry is acted on; the fault log says how many. -/
def replayAll (s : State) : State :=
  let n := s.frames.length + (s.jobs.filter fun e => decide (e.state < 4)).length
  let s := releaseAgain (s.works.foldl restartWork s)
  logFault (addReg s 0x4000 0x0A n) 0x0206 0 0 0 0xFFFF n

end Sys2Proof.Machine
end

