-- ==== Sys2Proof/Machine/Protect.lean ====
section
/-! DEFINITION. Device memory and its protection: allocations, stack errors, sparing and retirement, the scorebook's copies, fabric
copies and the peer mirror (R23, R408, R418, R427, R438 to R448). -/
namespace Sys2Proof.Machine
open Sys2Proof

/-! ### Host allocations (R446) -/

/-- ALLOCATE. -/
def allocateHost (s : State) : State :=
  let n := getReg s 0x4000 0x10
  if n = 0 then setReg s 0x4000 0x13 stBadDescriptor
  else
    match reserve s n 0 with
    | none => setReg s 0x4000 0x13 stNoMemory
    | some (b, s) => setReg (setReg s 0x4000 0x11 b) 0x4000 0x13 stOk

def execAllocate (s : State) : Host.Outcome State Fault Refusal := whenControlled s allocateHost

/-- R446: the uses that an allocation can still have: pending loads and key requests, a trace, accepted jobs, a pending timeout, a
running fabric copy, a filter or report address is read at once. -/
def allocInUse (s : State) (a : Alloc) : Bool :=
  let hit (b n : Nat) : Bool := overlaps a.base a.size b n
  (s.queue.any fun q => match q with
    | .load _ b n => hit b n
    | .key _ b n => hit b n
    | .unload _ => false)
  || (getReg s 0x5010 0x02 != 0xFFFF && hit (getReg s 0x5010 0x03) (getReg s 0x5010 0x04))
  || (s.jobs.any fun e => decide (e.state < 4) &&
      let n := if isEngineJob e.job then e.job.inLen else e.job.frames * e.job.inStride
      let m := if isEngineJob e.job then e.job.outCap + 16 else e.job.frames * e.job.outStride
      (e.job.space.testBit 0 && hit e.job.inAddr n) || (e.job.space.testBit 1 && hit e.job.outAddr m))
  || (s.ctxs.any fun e => ctxState s e.1 == 5 && hit (ctxReg s e.1 0x33) (ctxReg s e.1 0x34))
  || (getReg s 0x4100 0x0F == stPending && hit (getReg s 0x4100 0x0C) (getReg s 0x4100 0x0D))

/-- FREE. -/
def freeHost (s : State) : State :=
  match hostAlloc s (getReg s 0x4000 0x11) with
  | none => setReg s 0x4000 0x13 stBadAddress
  | some a =>
    if allocInUse s a then
      let mark (x : Alloc) : Alloc := if x.base = a.base then { x with freed := true } else x
      setReg { s with allocs := s.allocs.map mark } 0x4000 0x13 stPending
    else setReg (releaseRange s a.base) 0x4000 0x13 stOk

def execFree (s : State) : Host.Outcome State Fault Refusal := whenControlled s freeHost

/-- ALLOCATION_RELEASE: the last use of a freed range has ended. -/
def releaseFreed (s : State) (base : Nat) : State :=
  match s.allocs.find? fun a => a.base == base && a.owner == 0 && a.freed with
  | none => s
  | some a =>
    if allocInUse s a then s
    else
      let s := releaseRange s base
      if getReg s 0x4000 0x13 = stPending ∧ getReg s 0x4000 0x11 = base then setReg s 0x4000 0x13 stOk else s

def execAllocationRelease (base : Nat) (s : State) : Host.Outcome State Fault Refusal := whenControlled s fun s => releaseFreed s base

/-! ### Retirement (R440) and the scorebook's copies (R427) -/

def stackState (s : State) (k : Nat) : Nat := getReg s (stackIndex k) 0x01

/-- R440, R448: migration of a stack starts for a reason; nothing while it or another stack is migrating. -/
def startMigration (s : State) (k why : Nat) : State :=
  if k ≥ 24 ∨ stackState s k ≠ 0 ∨ s.protect.migrating.isSome then s
  else
    let s := logFault (setReg s (stackIndex k) 0x01 1) 0x0202 0 3 k 0xFFFF why
    { s with protect := { s.protect with migrating := some k, migratedWhy := why } }

/-- STACK_RETIRE_COMMAND (R440). -/
def retireStack (s : State) (k : Nat) : State :=
  if k ≥ 24 then s
  else if stackState s k ≠ 0 ∨ s.protect.migrating.isSome then setReg s 0x4000 0x0F stBadState
  else setReg (startMigration s k 3) 0x4000 0x0F stPending

def execStackRetireCommand (stack : Nat) (s : State) : Host.Outcome State Fault Refusal := whenControlled s fun s => retireStack s stack

/-- R23: the bytes of a stack that migrate: its allocatable portion and its scorebook and spill area. -/
def migratedBytes : Nat := stackAllocatable + stackFirmware

/-- R429: the 96 bytes of a job's entry. The CRC-32C is over the other bytes in ascending order (log 73). -/
def jobEntryBytes (e : JobEntry) : List Byte :=
  let staged := ((e.staged.find? fun x => x.1 != 0).map (·.2.1)).getD 0
  let low := leBytes 8 (e.state % 8 + 256 * (e.ring % 16)) ++ leBytes 4 e.done ++ leBytes 8 staged ++ leBytes 8 e.accepted
  let image := completionBytes e.image
  low ++ leBytes 4 (crc32c (low ++ image)) ++ image

/-- R430: the 32 bytes of a frame's entry. -/
def frameEntryBytes (f : FrameEntry) : List Byte :=
  let low := leBytes 6 (f.state % 8 + 256 * (f.oflags % 16)) ++ leBytes 2 f.ctx ++ leBytes 2 f.status ++ leBytes 2 f.lag ++ leBytes 8 f.j
    ++ leBytes 8 f.card
  low ++ leBytes 4 (crc32c low)

/-- R427, R428: what both copies of the scorebook hold: every entry that is not free, with its offset. -/
def scorebook (s : State) : List (Nat × List Byte) :=
  (s.jobs.map fun e => ((e.ring * 65536 + ringSlot s e.ring e.pos) * 96, jobEntryBytes e))
  ++ s.frames.map fun f => (100663296 + (f.ctx * 256 + f.j % 256) * 32, frameEntryBytes f)

/-- R427: the stack a copy is rebuilt onto: the lowest-numbered in service on another compute die than the surviving copy's. -/
def rebuildStack (s : State) (survivor : Nat) : Option Nat :=
  (List.range 24).find? fun k => stackState s k == 0 && k / 3 != survivor / 3

/-- R427: where a copy is held when nothing is in it yet: its stack, or the one it would be rebuilt onto. -/
def liveCopy (s : State) (own other : Nat) : Nat := if stackState s own ≤ 1 then own else (rebuildStack s other).getD own

/-- R427: both copies of an empty scorebook lie on stacks that are in service (log 73). -/
def settleCopies (s : State) : State :=
  let c := getReg s 0x4000 0x05
  let a := liveCopy s (c % 256) (c / 256)
  setReg s 0x4000 0x05 (liveCopy s (c / 256) a * 256 + a)

/-- R427: a copy whose stack left service is to be rebuilt. -/
def loseCopy (s : State) (k : Nat) : State :=
  let c := getReg s 0x4000 0x05
  let which := if c % 256 = k then some 0 else if c / 256 = k then some 1 else none
  match which with
  | none => s
  | some i =>
    match rebuildStack s (if i = 0 then c / 256 else c % 256) with
    | some n => { setReg s 0x4000 0x04 1 with protect := { s.protect with rebuild := some (i, n) } }
    | none => setReg s 0x4000 0x04 1

/-- STACK_MIGRATION_COMPLETE (R23, R440, R448). -/
def endMigration (s : State) (k : Nat) : State :=
  if s.protect.migrating ≠ some k then s
  else
    let s := { s with protect := { s.protect with migrating := none } }
    let before := popCount 24 (getReg s 0x4000 0x03)
    let s := setReg (setReg s (stackIndex k) 0x01 2) (stackIndex k) 0x06 migratedBytes
    let s := setReg s 0x4000 0x03 (setBitAt (getReg s 0x4000 0x03) k)
    let s := if getReg s 0x4000 0x0F = stPending then setReg s 0x4000 0x0F stOk else s
    let s := addJournal (logFault s 0x0203 1 3 k 0xFFFF migratedBytes) 0x06 3 k 0x06 0
    let s := if before ≥ 1 then logFault s 0x0204 1 0 0 0xFFFF stackAllocatable else s
    loseCopy s k

def execStackMigrationComplete (stack : Nat) (s : State) : Host.Outcome State Fault Refusal :=
  whenControlled s fun s => endMigration s stack

/-- SCOREBOOK_COPY_REBUILT (R427). -/
def rebuiltCopy (s : State) : State :=
  match s.protect.rebuild with
  | none => s
  | some (i, n) =>
    let c := getReg s 0x4000 0x05
    let s := { s with protect := { s.protect with rebuild := none } }
    logFault (setReg (setReg s 0x4000 0x05 (if i = 0 then c / 256 * 256 + n else n * 256 + c % 256)) 0x4000 0x04 0) 0x0205 0 3 n 0xFFFF n

def execScorebookCopyRebuilt (s : State) : Host.Outcome State Fault Refusal := whenControlled s rebuiltCopy

/-! ### Errors and sparing (R438, R439) -/

/-- 24 hours in microseconds. -/
def dayUs : Nat := 86400000000

/-- R439: a row is due to be spared: four corrected errors within 24 h, or one uncorrected (kept as four). -/
def rowDue (s : State) (k row : Nat) : Bool :=
  decide (4 ≤ (s.protect.rowErrors.filter fun e => e.1 == k && e.2.1 == row && decide (nowUs s ≤ e.2.2 + dayUs)).length)

/-- A stack that holds data: in service or migrating. -/
def stackLive (s : State) (k : Nat) : Bool := decide (k < 24) && decide (stackState s k ≤ 1)

/-- Errors of a row are noted. -/
def noteErrors (s : State) (k row n : Nat) : State :=
  { s with protect := { s.protect with rowErrors := s.protect.rowErrors ++ List.replicate n (k, row, nowUs s) } }

/-- CORRECTED_ERROR (R438). -/
def correctError (s : State) (k row : Nat) : State :=
  if !stackLive s k then s else noteErrors (addReg (addReg s (stackIndex k) 0x02 1) 0x4000 0x0C 1) k row 1

def execCorrectedError (stack row _address : Nat) (s : State) : Host.Outcome State Fault Refusal :=
  whenService s fun s => correctError s stack row

/-- PATROL_SCRUB (R438): one pass over a stack's rows. -/
def execPatrolScrub (stack : Nat) (s : State) : Host.Outcome State Fault Refusal :=
  whenService s fun s => if stackLive s stack then addReg s (stackIndex stack) 0x05 1 else s

/-- R439, R440: a due row is replaced by a spare one; a stack with no spare left, or few, is retired. -/
def spareRow (s : State) (k row : Nat) : State :=
  if !stackLive s k ∨ !rowDue s k row then s
  else if getReg s (stackIndex k) 0x04 ≥ 8192 then startMigration s k 2
  else
    let s := addReg s (stackIndex k) 0x04 1
    let s := { s with protect := { s.protect with rowErrors := s.protect.rowErrors.filter (fun e => !(e.1 == k && e.2.1 == row))
                                                  spared := s.protect.spared ++ [(k, row)] } }
    let s := logFault s 0x0200 0 3 k 0xFFFF row
    if getReg s (stackIndex k) 0x04 > 7168 then startMigration s k 0 else s

/-- R30: a spared row is written to flash, which the cluster in control alone does; until one is, the row stays due. -/
def execRowSpare (stack row : Nat) (s : State) : Host.Outcome State Fault Refusal := whenControlled s fun s => spareRow s stack row

/-- STACK_RATE_LIMIT (R440): corrected errors above the limit for 10 s in a row. -/
def execStackRateLimit (stack : Nat) (s : State) : Host.Outcome State Fault Refusal :=
  whenControlled s fun s => startMigration s stack 1

/-! ### What an uncorrected error destroys (R441) -/

/-- The context of a work goes to state 4 at the next tick boundary. -/
def stopSoon (s : State) (k : Nat) : State :=
  if ctxState s k = 3 then putCtx s k { ctxOf s k with stopDue := true } else s

/-- R441: a work whose buffers hold the address: input destroyed, or run again. -/
def hitWork (s : State) (a : Nat) (w : Work) : State :=
  let inInput := w.regions.any (fun r => r.source == 2 && decide (r.base ≤ a) && decide (a < r.base + r.len)) ||
    match w.raw with
    | some (b, n) => decide (b ≤ a) && decide (a < b + n)
    | none => false
  match w.id with
  | .frame k _ => if inInput then stopSoon (putWork s { w with result := some stMemoryLost }) k else restartWork s w
  | .job _ _ _ => restartWork s w

/-- R441: a state region of a context: its earliest issued frame completes with ST_MEMORY_LOST, the context stops. -/
def hitState (s : State) (k : Nat) : State :=
  let s := match pictureInProgress s k with
    | some (w, _) => putWork s { w with result := some stMemoryLost }
    | none => s
  stopSoon s k

/-- R441: a job whose input or output in device memory holds the address. -/
def hitJob (s : State) (a : Nat) (e : JobEntry) : State :=
  let inside (b n : Nat) : Bool := decide (b ≤ a) && decide (a < b + n)
  let n := if isEngineJob e.job then e.job.inLen else e.job.frames * e.job.inStride
  let m := if isEngineJob e.job then e.job.outCap + 16 else e.job.frames * e.job.outStride
  if e.state < 3 ∧ ((e.job.space.testBit 0 ∧ inside e.job.inAddr n) ∨ (e.job.space.testBit 1 ∧ inside e.job.outAddr m)) then
    putJob s { e with image := { e.image with status := if e.image.status = stOk then stMemoryLost else e.image.status } }
  else s

/-- R441: the effect of an uncorrected error at a device-memory address, by what it holds. A committed output is recomputed from its
kept input with identical bits (log 38). -/
def hitMemory (s : State) (a : Nat) : State :=
  let s := s.jobs.foldl (fun s e => hitJob s a e) s
  match s.allocs.find? fun x => decide (x.base ≤ a) && decide (a < x.base + x.size) with
  | none => s
  | some x =>
    match s.works.find? fun w => w.alloc == some x.base with
    | some w => hitWork s a w
    | none =>
      match s.ctxs.find? fun e => e.2.stateBufs.any fun b => b.2.1 == x.base with
      | some e => hitState s e.1
      | none =>
        let mark (e : Nat × Pkg) : Nat × Pkg := if e.2.copy = x.base ∧ x.owner ≠ 0 then (e.1, { e.2 with lost := true }) else e
        if s.frames.any fun f => f.alloc == some x.base then addReg s 0x4000 0x0A 1 else { s with pkgs := s.pkgs.map mark }

/-- UNCORRECTED_ERROR (R438, R439, R441). -/
def uncorrectError (s : State) (k row a : Nat) : State :=
  if !stackLive s k then s
  else
    let s := logFault (addReg (addReg s (stackIndex k) 0x03 1) 0x4000 0x0D 1) 0x0201 0 3 k 0xFFFF a
    hitMemory (noteErrors s k row 4) a

def execUncorrectedError (stack row address : Nat) (s : State) : Host.Outcome State Fault Refusal :=
  whenService s fun s => uncorrectError s stack row address

/-! ### The peer mirror (R417, R442, R443) -/

/-- The keys of the objects that the mirror carries: ring pairs, stream rings, contexts and flows. -/
def mirroredIndex (i : Nat) : Bool :=
  (decide (0x1110 ≤ i) && decide (i < 0x1170)) || (decide (0x8000 ≤ i) && decide (i ≤ 0xCFFF))

/-- The bytes of a stored subentry. -/
def storedBytes (s : State) (index sub : Nat) : List Byte :=
  match findObj index sub with
  | some o => match o.ty.width with
    | some n => leBytes n (getReg s index sub)
    | none => getBlob s index sub
  | none => []

/-- R442: the present content of everything the mirror carries. -/
def mirrorContent (s : State) : List MirrorItem :=
  let keys := ((s.dict.regs.map (·.1)) ++ s.dict.blobs.map (·.1)).filter fun k => mirroredIndex (k / 256)
  (s.jobs.map fun e => .entry (.job e.ring e.pos 0) e.state e.image.card)
  ++ ((s.jobs.filter fun e => e.job.space.testBit 0).map fun e =>
      .input (.job e.ring e.pos 0) (s.mem.read e.job.inAddr (if isEngineJob e.job then e.job.inLen else e.job.frames * e.job.inStride)))
  ++ (s.frames.map fun f => .entry (.frame f.ctx f.j) f.state f.card)
  ++ (s.ctxs.flatMap fun e => e.2.inputs.map fun f => .input (.frame e.1 f.j) f.bytes)
  ++ (s.works.filterMap fun w => match w.id with
      | .frame k j => some (.input (.frame k j) (s.mem.read w.inBase w.inLen))
      | .job _ _ _ => none)
  ++ (s.ctxs.flatMap fun e => (stateDecls s e.1 1 ++ stateDecls s e.1 2).map fun d =>
      .stateRegion e.1 d.num ((ctxReg s e.1 0x39 + 1) % 2) (s.mem.read (stateBase e.2 (ctxReg s e.1 0x39 + 1) d.num) d.len))
  ++ (keys.map fun k => .object (k / 256) (k % 256) (storedBytes s (k / 256) (k % 256)))
  ++ s.pkgs.map fun e => .package e.1 e.2.digest

/-- R442: the mirror synchronises: the content goes to the peer. -/
def startMirror (s : State) : State :=
  let items := mirrorContent s
  let s := setReg { s with fabric := { s.fabric with toMirror := [], mirrorGap := 0 } } 0x4000 0x08 (if items = [] then 2 else 1)
  items.foldl toMirror s

/-- The mirror is not waited for any more: what waited for its acknowledgement goes on. -/
def dropMirror (s : State) (st : Nat) : State :=
  let s := setReg { s with fabric := { s.fabric with toMirror := [], mirrorGap := 0 } } 0x4000 0x08 st
  (s.frames.map fun f => (f.ctx, f.j)).foldl (fun s e => unhold s e.1 e.2 0xFFFC) s

/-- A write of the mirror peer #4100.09 (R442). -/
def writeMirrorPeer (s : State) (v : Nat) : State :=
  let s := setReg s 0x4100 0x09 v
  if v = 0xFFFF then dropMirror s 0 else startMirror s

/-- MIRROR_UNPROTECTED (R443): 8 ticks have passed without the mirror. -/
def unprotectMirror (s : State) : State :=
  if mirrorOn s ∧ s.fabric.mirrorGap ≥ 8 then
    let s := dropMirror s 3
    logFault { s with fabric := { s.fabric with resync := true } } 0x0208 0 0 0 0xFFFF (getReg s 0x4100 0x09)
  else s

def execMirrorUnprotected (s : State) : Host.Outcome State Fault Refusal := whenControlled s unprotectMirror

/-- R442: the peer has acknowledged the oldest item. -/
def ackMirror (s : State) : State :=
  match s.fabric.toMirror with
  | [] => s
  | i :: r =>
    let s := { s with fabric := { s.fabric with toMirror := r, mirrorGap := 0 } }
    let s := match i with
      | .entry (.frame k j) 3 _ => unhold s k j 0xFFFC
      | _ => s
    if r = [] ∧ getReg s 0x4000 0x08 = 1 then
      let s := setReg s 0x4000 0x08 2
      if s.fabric.resync then
        logFault { s with fabric := { s.fabric with resync := false } } 0x0209 0 0 0 0xFFFF (getReg s 0x4100 0x09)
      else s
    else s

/-- MESSAGE_ACK (R408, R418, R419, R442). -/
def ackMessage (s : State) (peer flow msg : Nat) : State :=
  let s := { s with fabric := { s.fabric with kept := s.fabric.kept.filter fun k => !(k.peer == peer && k.flow == flow && k.msg == msg) } }
  if flow = 4 then (if peer = getReg s 0x4100 0x09 then ackMirror s else s)
  else if flow = 5 then
    if peer = getReg s 0x4100 0x0A then { s with fabric := { s.fabric with copyMsgs := s.fabric.copyMsgs.filter (· != msg) } } else s
  else if flow ≥ 0x1000 then
    let f := flow - 0x1000
    ((flowOf s f).held.filter fun h => h.sent && h.msg == msg && ((nget (flowOf s f).recs h.receiver).any fun b =>
      recvKind b == 2 && recvTarget b == peer)).foldl (fun s h => ackHeld s f h) s
  else s

def execMessageAck (peer flow msg : Nat) (s : State) : Host.Outcome State Fault Refusal :=
  whenService s fun s => ackMessage s peer flow msg

/-- The bytes an item takes in a mirror store. -/
def itemBytes : MirrorItem → Nat
  | .entry (.frame _ _) _ _ => 32
  | .entry (.job _ _ _) _ _ => 96
  | .input _ bs => bs.length
  | .stateRegion _ _ _ bs => bs.length
  | .object _ _ bs => bs.length
  | .package _ _ => 50

/-- Does an item take the place of another. -/
def sameItem : MirrorItem → MirrorItem → Bool
  | .entry a _ _, .entry b _ _ => a == b
  | .input a _, .input b _ => a == b
  | .stateRegion k r b _, .stateRegion k' r' b' _ => k == k' && r == r' && b == b'
  | .object i x _, .object i' x' _ => i == i' && x == x'
  | .package k _, .package k' _ => k == k'
  | _, _ => false

/-- R442: entries in state 4, and the inputs that go with them, are kept no longer. -/
def itemDone (st : MirrorItem) (x : MirrorItem) : Bool :=
  match st, x with
  | .entry a 4 _, .input b _ => a == b
  | .entry a 4 _, .entry b _ _ => a == b
  | _, _ => false

/-- R408: a complete message of a flow is acknowledged. -/
def ackTo (s : State) (peer flow : Nat) : State :=
  emit s (.messageAcked peer flow (((s.fabric.flowsIn.find? fun x => x.src == peer && x.flow == flow).bind (·.done)).getD 0))

/-- The bytes of a subentry are stored again. -/
def storeBytes (s : State) (index sub : Nat) (bs : List Byte) : State :=
  match findObj index sub with
  | some o => if o.ty.width.isSome then setReg s index sub (leNat bs) else setBlob s index sub bs
  | none => s

/-- R444: what the peer that holds this part's mirror gives back: a dictionary object, which then is not reported as reverted, a package
that is awaited, or content for MIRROR_RECOVERY. -/
def takeRestored (s : State) (i : MirrorItem) : State :=
  match i with
  | .object x y bs => if mirroredIndex x then { storeBytes s x y bs with ctl := { s.ctl with reverted := s.ctl.reverted.filter (· != x) } } else s
  | .package k d => if d = [] then s else setBlob s 0x4000 0x09 (getBlob s 0x4000 0x09 ++ leBytes 2 k ++ padTo 48 d)
  | i => { s with fabric := { s.fabric with restored := s.fabric.restored ++ [i] } }

/-- MIRROR_MESSAGE (R442): a peer's item goes into the mirror store and is acknowledged; a full store takes nothing. -/
def storeMirror (s : State) (sender : Nat) (i : MirrorItem) : State :=
  let kept := s.fabric.mirror.filter fun e => e.1 != sender || (!sameItem i e.2 && !itemDone i e.2)
  let new := kept ++ (match i with
    | .entry _ 4 _ => []
    | _ => [(sender, i)])
  if (new.map fun e => itemBytes e.2).foldl (· + ·) 0 ≤ getReg s 0x4000 0x07 then
    ackTo { s with fabric := { s.fabric with mirror := new } } sender 4
  else s

def execMirrorMessage (sender : Nat) (item : MirrorItem) (s : State) : Host.Outcome State Fault Refusal :=
  whenControlled s fun s =>
    if getReg s 0x4000 0x08 = 4 ∧ sender = getReg s 0x4100 0x09 then ackTo (takeRestored s item) sender 4 else storeMirror s sender item

/-! ### Fabric copies (R418) -/

/-- R401: a message is at most 16 MiB; a copy's messages carry the remote address before the bytes (log 34). -/
def copyMessages (s : State) (peer remote : Nat) : Nat → Nat → Nat → State × List Nat
  | 0, _, _ => (s, [])
  | fuel + 1, at', n =>
    if n = 0 then (s, [])
    else
      let k := Nat.min n 16777208
      let (s, m) := sendMessage s peer 5 (leBytes 8 remote ++ s.mem.read at' k)
      let (s, l) := copyMessages s peer (remote + k) fuel (at' + k) (n - k)
      (s, m :: l)

/-- FABRIC_COPY_START (R418, R446). -/
def startCopy (s : State) : State :=
  let peer := getReg s 0x4100 0x0A
  let remote := getReg s 0x4100 0x0B
  let at' := getReg s 0x4100 0x0C
  let n := getReg s 0x4100 0x0D
  let status (s : State) (st : Nat) : State := setReg s 0x4100 0x0F st
  if getReg s 0x4100 0x0F = stPending then s
  else if n = 0 then status s stOk
  else if peer = ownAddress s ∨ !reachable s peer then status s stBadState
  else if !inHostAlloc s at' n ∨ remote + n > allocTop then status s stBadAddress
  else
    let (s, msgs) := copyMessages s peer remote (n / 16777208 + 1) at' n
    status { s with fabric := { s.fabric with copyMsgs := msgs } } stPending

def execFabricCopyStart (s : State) : Host.Outcome State Fault Refusal := whenControlled s startCopy

/-- FABRIC_COPY_DONE (R418): the peer has acknowledged every byte. -/
def endCopy (s : State) : State :=
  if getReg s 0x4100 0x0F = stPending ∧ s.fabric.copyMsgs = [] then setReg s 0x4100 0x0F stOk else s

def execFabricCopyDone (s : State) : Host.Outcome State Fault Refusal := whenControlled s endCopy

/-- FABRIC_COPY_RECEIVE (R418): bytes from a peer go into a host allocation and are acknowledged. -/
def receiveCopy (s : State) (sender address : Nat) (data : List Byte) : State :=
  if getReg s 0x1100 0x0A = 0 ∨ !inHostAlloc s address data.length then s
  else ackTo { s with mem := s.mem.write address data } sender 5

def execFabricCopyReceive (sender address : Nat) (data : List Byte) (s : State) : Host.Outcome State Fault Refusal :=
  whenControlled s fun s => receiveCopy s sender address data

end Sys2Proof.Machine
end

