-- ==== Sys2Proof/Machine/Media.lean ====
section
/-! DEFINITION. Media ports: received packets, their placement in input frames, completion and fill, address and group protocols, port
faults (R334 to R336, R340 to R344, R350, R355, R431). -/
namespace Sys2Proof.Machine
open Sys2Proof

/-! ### Which packets a port keeps (R334, R336) -/

/-- R334: a frame that passes the checks of MAC, VLAN, IP and the checksums; an untagged frame passes whatever the port's VID (log 39), one
above the MTU does not (log 72). Only MLD messages may carry a Router Alert's extension header (`mld`). -/
def portKeeps (s : State) (port : Nat) (mld : Bool) (f : PortFrame) : Bool :=
  (match f.vid with
    | none => true
    | some v => v == getReg s (portIndex port) 0x08)
  && f.fcsOk && f.badWords == 0 && !f.control && !f.fragment && (!f.extHeader || mld && f.alert) && f.sumOk
  && decide (f.length ≤ getReg s (portIndex port) 0x09)

/-- R337: the payload behind CSRC identifiers and a header extension, without padding: these are skipped. -/
def rtpBody (p : RtpPacket) : List Byte :=
  let b := p.payload.drop (4 * p.csrc)
  let b := if p.ext then b.drop (4 + 4 * beNat (sliceAt b 2 2)) else b
  if p.pad then b.take (b.length - ((b.getLast?.map (·.toNat)).getD 0)) else b

/-- Leg `i` of a context: its 40 bytes. -/
def legBlob (s : State) (k i : Nat) : List Byte := getBlob s (ctxIndex k) (0x28 + i)

/-- R342: does a packet belong to leg `i` of a context. -/
def legTakes (s : State) (k i port : Nat) (p : RtpPacket) : Bool :=
  let b := legBlob s k i
  let src := beNat (sliceAt b 24 16)
  numAt b 0 1 == port && beNat (sliceAt b 8 16) == p.dst && numAt b 2 2 == p.udpPort && (src == 0 || src == p.src)

/-- R336, R340: a payload that the format of a context supports. -/
def payloadOk (s : State) (k : Nat) (p : RtpPacket) : Bool :=
  let fmt := ctxReg s k 0x2A
  let b := rtpBody p
  p.version == 2 && p.ptype == ctxReg s k 0x2B &&
    (if fmt = 0 then progressive b else if fmt = 1 then true else if fmt = 2 then olvPacketOk b else blockPayloadOk fmt b)

/-- R268, R342: the contexts to which a packet belongs, each with the leg: those bound to work with a network source, also those that only
count it. -/
def takers (s : State) (port : Nat) (p : RtpPacket) : List (Nat × Nat) :=
  ((s.ctxs.map (·.1)).filter fun k => ctxState s k != 0 && ctxReg s k 0x26 == 1 && payloadOk s k p).flatMap fun k =>
    ([0, 1].filter fun i => legTakes s k i port p).map fun i => (k, i)

/-- R342: does a context merge two legs. -/
def twoLegs (s : State) (k : Nat) : Bool := legPort s k 0 != 0xFF && legPort s k 1 != 0xFF

/-! ### Sequence numbers and places (R342, R343) -/

/-- The number nearest `ref` that is `v` modulo 2^w. -/
def nearest (w ref v : Nat) : Nat :=
  let m := 2 ^ w
  let base := ref / m * m + v % m
  if ref + m / 2 < base then base - m else if base + m / 2 ≤ ref then base + m else base

/-- A packet's sequence number without wrap; ST 2110-20 packets carry 16 more bits of it. -/
def packetSeq (s : State) (k : Nat) (p : RtpPacket) : Nat :=
  let (w, v) := if ctxReg s k 0x2A = 0 then (32, beNat ((rtpBody p).take 2) * 65536 + p.seq) else (16, p.seq)
  nearest w ((ctxOf s k).highSeq.getD (2 ^ w + v)) v

/-- Has a sequence number come already, or its frame been closed, or is it taken as lost. -/
def seqSeen (c : Ctx) (seq : Nat) : Bool :=
  c.packets.any (fun h => h.seq == seq) || c.lostSeqs.contains seq || match c.lastSeq with
    | some l => decide (seq ≤ l)
    | none => false

/-- Bytes of one audio sample on the wire: L16 where the format parameters name it, else L24 (log 35). -/
def hasText (t : List Byte) : List Byte → Bool
  | [] => t.isEmpty
  | b :: r => (b :: r).take t.length == t || hasText t r
def audioWidth (s : State) (k : Nat) : Nat := if hasText [0x4C, 0x31, 0x36] (getBlob s (ctxIndex k) 0x2D) then 2 else 3

/-- R48: the tick that holds sample `k`. -/
def sampleTick (s : State) (k : Nat) : Nat :=
  let n := k * 3000000000 / (48000 * period s)
  if sampleStart s (n + 1) ≤ k then n + 1 else n

/-- R48, R343: audio data cut at the ticks' first samples. -/
def audioPieces (s : State) (unit seq at' : Nat) (marker : Bool) : Nat → Nat → List Byte → List HeldPacket
  | 0, _, _ => []
  | fuel + 1, k, bs =>
    if bs.length < unit ∨ unit = 0 then []
    else
      let n := sampleTick s k
      let room := sampleStart s (n + 1) - k
      ⟨n, seq, k, marker, at', bs.take (unit * room)⟩ :: audioPieces s unit seq at' marker fuel (k + room) (bs.drop (unit * room))

/-- What a packet brings to input frames: one piece, or one for each tick its audio samples touch. -/
def packetPieces (s : State) (k seq : Nat) (p : RtpPacket) : List HeldPacket :=
  if ctxReg s k 0x2A = 1 then
    let unit := audioWidth s k * ctxReg s k 0x0C
    audioPieces s unit seq s.clk.now p.marker 16 (nearest 32 (sampleStart s (counterOf s)) p.stamp) (rtpBody p)
  else [⟨p.stamp, seq, p.stamp, p.marker, s.clk.now, rtpBody p⟩]

/-! ### Input frames (R343, R344) -/

/-- R344: the frame whose first packet comes now is discarded whole. -/
def driftDrops (s : State) (k : Nat) : Bool := decide (2 * ctxPeak s k ≤ ((ctxOf s k).inputs.filter (·.complete)).length)

/-- The latest keys of frames that take no more packets. -/
def closeKey (keys : List Nat) (key : Nat) : List Nat := (keys ++ [key]).drop (keys.length - 15)

/-- R343, R344: a piece takes its place: in its frame, in a new one, or nowhere. -/
def placePiece (s : State) (k : Nat) (h : HeldPacket) : State :=
  let c := ctxOf s k
  if c.doneKeys.contains h.key then putCtx s k { c with lastSeq := some (Nat.max (c.lastSeq.getD 0) h.seq) }
  else if c.inputs.any fun f => !f.complete && f.key == h.key then putCtx s k { c with packets := c.packets ++ [h] }
  else if driftDrops s k then
    let later := if c.laterAt.isSome then c.laterAt else some s.clk.now
    addReg (putCtx s k { c with doneKeys := closeKey c.doneKeys h.key, laterAt := later }) (ctxIndex k) 0x40 1
  else
    let f : InFrame := { j := c.nextIn, bytes := [], complete := false, first := s.clk.now, stamp := wrap32 h.stamp, key := h.key }
    putCtx s k { c with inputs := c.inputs ++ [f], nextIn := c.nextIn + 1, packets := c.packets ++ [h] }

/-- A packet comes to leg `i` of a context. -/
def takePacket (s : State) (k i : Nat) (p : RtpPacket) : State :=
  if !takesInput s k then (if p.marker ∧ (i = 0 ∨ !twoLegs s k) then addReg s (ctxIndex k) 0x3D 1 else s)
  else
    let seq := packetSeq s k p
    let c := ctxOf s k
    if seqSeen c seq then s
    else
      let s := if i = 1 ∧ twoLegs s k then addReg s 0x6000 0x07 1 else s
      let s := putCtx s k { c with highSeq := some (Nat.max (c.highSeq.getD 0) seq) }
      (packetPieces s k seq p).foldl (fun s h => placePiece s k h) s

/-- #6001.0B, .0C: a dropped frame, with the uncorrectable codewords that carried it. -/
def countDrop (s : State) (port : Nat) (f : PortFrame) : State :=
  addReg (if f.badWords = 0 then s else addReg s (portIndex port) 0x0C f.badWords) (portIndex port) 0x0B 1

/-- RTP_PACKET_RECEIVE (R334, R335, R342). -/
def receivePacket (s : State) (port : Nat) (p : RtpPacket) : State :=
  if !portUp s port then s
  else
    let sinks := if portKeeps s port false p.frame then takers s port p else []
    if sinks = [] then countDrop s port p.frame
    else sinks.foldl (fun s t => takePacket s t.1 t.2 p) (addReg s (portIndex port) 0x0A 1)

def execRtpPacketReceive (port : Nat) (packet : RtpPacket) (dt : Nat) (s : State) : Host.Outcome State Fault Refusal :=
  whenService s fun s => receivePacket (passTime s dt) port packet

/-- The merge window of a context in thirds of a nanosecond. -/
def mergeWindow (s : State) (k : Nat) : Nat := ctxReg s k 0x2C * 3000000

/-- MERGE_WINDOW_EXPIRY (R342): a number still missing a window after a higher one came is lost on both legs. -/
def expireSeq (s : State) (k v : Nat) : State :=
  let c := ctxOf s k
  let seq := nearest (if ctxReg s k 0x2A = 0 then 32 else 16) (c.highSeq.getD 0) v
  if takesInput s k && twoLegs s k && !seqSeen c seq && c.packets.any (fun h => decide (seq < h.seq) && decide (h.at_ + mergeWindow s k ≤ s.clk.now))
  then putCtx s k { c with lostSeqs := c.lostSeqs ++ [seq] }
  else s

def execMergeWindowExpiry (ctx seq dt : Nat) (s : State) : Host.Outcome State Fault Refusal :=
  whenService s fun s => expireSeq (passTime s dt) ctx seq

/-- R343: of the frame's numbers, from the one after the last closed frame to the marker's, are all there; with `lost`, those taken as
lost count as there. Audio: are all samples of the tick there. -/
def framePresent (s : State) (k : Nat) (f : InFrame) (lost : Bool) : Bool :=
  let c := ctxOf s k
  let ps := framePackets c f
  if ctxReg s k 0x2A = 1 then
    (ps.map (·.data.length)).foldl (· + ·) 0 == (sampleStart s (f.key + 1) - sampleStart s f.key) * audioWidth s k * ctxReg s k 0x0C
  else
    match ps.find? (·.marker) with
    | none => false
    | some m =>
      let lo := match c.lastSeq with
        | some l => l + 1
        | none => minOf m.seq (ps.map (·.seq))
      let gone := if lost then (c.lostSeqs.filter fun q => decide (lo ≤ q) && decide (q < m.seq)).length else 0
      decide (ps.length + gone = m.seq + 1 - lo)

/-- R343: has a packet of a later frame come, with the merge window after it where there are two legs. -/
def laterCame (s : State) (k : Nat) (f : InFrame) : Bool :=
  let c := ctxOf s k
  let wait := if twoLegs s k then mergeWindow s k else 0
  c.inputs.any (fun g => !g.complete && decide (f.j < g.j) && decide (g.first + wait ≤ s.clk.now)) || match c.laterAt with
    | some t => decide (t + wait ≤ s.clk.now)
    | none => false

/-- R343: what stands where a picture's samples are missing. -/
def pictureFill (s : State) (k : Nat) : List Byte :=
  let f := inPicture s k
  let n := pictureSamples f.w f.h f.chroma
  let old := (ctxOf s k).prevInput
  if old.length = 2 * n then old else (List.replicate n (leBytes 2 (2 ^ (f.depth - 1)))).flatten

/-- R343: the samples of one tick, zeros where none came. -/
def audioFrame (s : State) (k : Nat) (f : InFrame) (ps : List HeldPacket) : List Byte :=
  let unit := 4 * ctxReg s k 0x0C
  let top := (sampleStart s (f.key + 1) - sampleStart s f.key) * unit
  ps.foldl (fun bs h =>
    let d := audioSamples (audioWidth s k) h.data.length h.data
    let at' := (h.stamp - sampleStart s f.key) * unit
    (bs.take at' ++ d ++ bs.drop (at' + d.length)).take top) (List.replicate top 0)

/-- R343: the bits of a completed input frame. -/
def frameBits (s : State) (k : Nat) (f : InFrame) : List Byte :=
  let ps := framePackets (ctxOf s k) f
  let fmt := ctxReg s k 0x2A
  if fmt = 0 then videoFrame (inPicture s k) (pictureFill s k) (ps.map (·.data))
  else if fmt = 1 then audioFrame s k f ps
  else if fmt = 2 then olvReassemble (ps.map (·.data))
  else blockUnit fmt (ps.map fun h => (h.seq, h.data))

/-- The context after a frame takes no more packets. -/
def closeFrame (c : Ctx) (f : InFrame) : Ctx :=
  let last := ((framePackets c f).map (·.seq)).foldl Nat.max (c.lastSeq.getD 0)
  { c with packets := c.packets.filter (fun h => h.key != f.key), lastSeq := some last, lostSeqs := c.lostSeqs.filter (fun q => decide (last < q))
           doneKeys := closeKey c.doneKeys f.key, laterAt := none }

/-- R431: a completed frame is discarded; the frames behind it move up. -/
def dropArriving (c : Ctx) (f : InFrame) : Ctx :=
  let up (g : InFrame) : InFrame := if f.j < g.j then { g with j := g.j - 1 } else g
  { c with inputs := (c.inputs.filter fun g => g.j != f.j).map up, nextIn := c.nextIn - 1 }

/-- R351, R424: complete frames that wait are accepted, oldest first, as far as the stream store has room; else the context waits for it. -/
def admitInputs : Nat → State → Nat → State
  | 0, s, _ => s
  | fuel + 1, s, k =>
    match (ctxOf s k).inputs.find? (·.waits) with
    | none => stopWaiting s k 2
    | some f =>
      if !storeRoom s k f.bytes.length then waitPool s k 2
      else
        let c := ctxOf s k
        let s := putCtx s k { c with inputs := c.inputs.map fun g => if g.j = f.j then { g with waits := false } else g }
        admitInputs fuel (toMirror (toMirror (acceptFrame s k f.j) (.input (.frame k f.j) f.bytes)) (.entry (.frame k f.j) 1 0)) k

/-- R343, R431: the oldest arriving frame becomes complete: its bits are fixed, filled where bytes are missing, and it takes no more
packets; it is accepted, or discarded when its entry is not free. -/
def completeFrame (s : State) (k : Nat) (f : InFrame) : State :=
  let c := ctxOf s k
  let loss := !framePresent s k f false
  let bytes := frameBits s k f
  if !takesInput s k ∨ !entryFree s k f.j then addReg (putCtx s k (dropArriving (closeFrame c f) f)) (ctxIndex k) 0x3D 1
  else
    let done : InFrame := { f with bytes, complete := true, tick := counterOf s, loss, waits := true }
    let c := closeFrame c f
    let s := putCtx s k { c with inputs := c.inputs.map (fun g => if g.j = f.j then done else g), prevInput := bytes, prevStamp := f.stamp }
    let s := if loss then addReg s (ctxIndex k) 0x3E 1 else s
    admitInputs (c.inputs.length + 1) s k

/-- The oldest frame of a context that is still arriving. -/
def arriving (s : State) (k : Nat) : Option InFrame := (ctxOf s k).inputs.find? fun f => !f.complete

/-- INPUT_FRAME_COMPLETE (R343): the frames that wait for room are tried again; then the arriving one is complete when its marker and all its
numbers are there, or a later frame has come. -/
def completeInput (s : State) (k : Nat) : State :=
  let s := admitInputs ((ctxOf s k).inputs.length + 1) s k
  match arriving s k with
  | some f => if framePresent s k f true || laterCame s k f then completeFrame s k f else s
  | none => s

def execInputFrameComplete (ctx : Nat) (s : State) : Host.Outcome State Fault Refusal :=
  whenControlled s fun s => completeInput s ctx

/-- INPUT_FRAME_TIMEOUT (R343): one tick has passed since its first packet. -/
def timeoutInput (s : State) (k : Nat) : State :=
  match arriving s k with
  | some f => if f.first + period s ≤ s.clk.now then completeFrame s k f else s
  | none => s

def execInputFrameTimeout (ctx : Nat) (s : State) : Host.Outcome State Fault Refusal :=
  whenControlled s fun s => timeoutInput s ctx

/-! ### Address and group protocols (R334, R335) -/

/-- A port's MAC address. -/
def portMac (s : State) (port : Nat) : Nat := s.ctl.manifest.portMacs.getD port 0

/-- RFC 4291: the link-local address made from a MAC. -/
def linkLocal (mac : Nat) : Nat :=
  let hi := mac / 2 ^ 24
  let id := (if hi.testBit 17 then hi - 2 ^ 17 else hi + 2 ^ 17) * 2 ^ 40 + 0xFFFE * 2 ^ 24 + mac % 2 ^ 24
  0xFE80 * 2 ^ 112 + id

/-- An IPv4 address in mapped form. -/
def mapped (a : Nat) : Nat := 0xFFFF * 2 ^ 32 + a

/-- The addresses of a port: IPv4 in mapped form, IPv6, link-local. -/
def portV6 (s : State) (port : Nat) : List Nat :=
  linkLocal (portMac s port) :: (if beNat (getBlob s (portIndex port) 0x07) = 0 then [] else [beNat (getBlob s (portIndex port) 0x07)])
def portV4 (s : State) (port : Nat) : List Nat := if getReg s (portIndex port) 0x04 = 0 then [] else [getReg s (portIndex port) 0x04]

/-- A port that is up takes a good frame and answers it, and counts one that it drops. -/
def portAnswers (s : State) (port : Nat) (mld : Bool) (frame : PortFrame) (e : Option Emission) : State :=
  if !portUp s port then s
  else if !portKeeps s port mld frame then countDrop s port frame
  else
    let s := addReg s (portIndex port) 0x0A 1
    match e with
    | some e => emit s e
    | none => s

/-- ICMP_ECHO: an echo request for one of the port's addresses (IPv4 in mapped form). -/
def execIcmpEcho (port : PortArrival) (src dst ident seq : Nat) (data : List Byte) (s : State) : Host.Outcome State Fault Refusal :=
  whenService s fun s => portAnswers s port.port false port.frame
    (if ((portV4 s port.port).map mapped ++ portV6 s port.port).contains dst then
      some (.echoReply port.port (egressTag s port.port) src ident seq data) else none)

/-- ARP_REQUEST. -/
def execArpRequest (port : PortArrival) (target sender senderMac : Nat) (s : State) : Host.Outcome State Fault Refusal :=
  whenService s fun s => portAnswers s port.port false port.frame
    (if (portV4 s port.port).contains target then
      some (.arpReply port.port (egressTag s port.port) sender senderMac (portMac s port.port)) else none)

/-- NEIGHBOUR_DISCOVERY. -/
def execNeighbourDiscovery (port : PortArrival) (target sender senderMac : Nat) (s : State) : Host.Outcome State Fault Refusal :=
  whenService s fun s => portAnswers s port.port false port.frame
    (if (portV6 s port.port).contains target then
      some (.neighbourAdvert port.port (egressTag s port.port) sender senderMac (portMac s port.port)) else none)

/-- The groups that contexts have joined on a port, of one IP version, with their sources. -/
def joinedGroups (s : State) (port : Nat) (v6 : Bool) : List (Nat × Nat) :=
  ((s.ctxs.map (·.1)).filter fun k => decide (3 ≤ ctxState s k) && runningState (ctxState s k)).flatMap fun k =>
    ((legsOf s k).filter fun l => l.1 == port && isGroup l.2.1 && (l.2.1 / 2 ^ 120 == 0xFF) == v6).map fun l => l.2

/-- R334: the report of joined groups, with a Router Alert; none when there are no groups. -/
def groupReport (s : State) (port : Nat) (groups : List (Nat × Nat)) : Option Emission :=
  if groups = [] then none else some (.membershipReport port (egressTag s port) true groups)

/-- MULTICAST_QUERY: group 0 is a general query. -/
def queryGroups (s : State) (port : Nat) (frame : PortFrame) (group : Nat) (v6 : Bool) : State :=
  portAnswers s port v6 frame (groupReport s port ((joinedGroups s port v6).filter fun g => group == 0 || g.1 == group).eraseDups)

def execMulticastQuery (port : PortArrival) (group : Nat) (v6 : Bool) (s : State) : Host.Outcome State Fault Refusal :=
  whenService s fun s => queryGroups s port.port port.frame group v6

/-! ### Port faults (R355) -/

/-- MEDIA_PORT_FAULT. -/
def faultPort (s : State) (port : Nat) : State :=
  if !portUp s port then s else silencePort (logFault (setReg s (portIndex port) 0x02 0) 0x0080 0 6 port 0xFFFF 0) port

def execMediaPortFault (port : Nat) (s : State) : Host.Outcome State Fault Refusal := whenService s fun s => faultPort s port

/-- R335, R342: the link of an enabled port is up: it reports the groups that running contexts have joined on it. -/
def raiseLink (s : State) (port : Nat) : State :=
  if port < 4 ∧ getReg s (portIndex port) 0x01 = 1 then
    let s := setReg s (portIndex port) 0x02 2
    [false, true].foldl (fun s v6 => match groupReport s port (joinedGroups s port v6).eraseDups with
      | some e => emit s e
      | none => s) s
  else s

/-- MEDIA_LINK_UP. -/
def execMediaLinkUp (port : Nat) (s : State) : Host.Outcome State Fault Refusal := whenService s fun s => raiseLink s port

end Sys2Proof.Machine
end

