-- ==== Sys2Proof/Machine/Umpire.lean ====
section
/-! DEFINITION. Umpire mode: pairing, scorecard frames, comparison, and what a mismatch does (R249 to R252, R416). -/
namespace Sys2Proof.Machine
open Sys2Proof

/-- #5020.07: 0 off, 1 pairing, 2 paired, 3 trio, 4 alone, 5 halted. -/
def umpireState (s : State) : Nat := getReg s 0x5020 0x07
def setUmpireState (s : State) (v : Nat) : State := setReg s 0x5020 0x07 v

/-- The partners that the operator names and that have not left. -/
def partners (s : State) : List Nat :=
  let all := if getReg s 0x5020 0x01 = 1 then [getReg s 0x5020 0x02]
    else if getReg s 0x5020 0x01 = 2 then [getReg s 0x5020 0x02, getReg s 0x5020 0x03] else []
  all.filter fun p => !s.umpire.out.contains p

/-- The marked contexts, ascending: those bound to something with the umpire flag set. -/
def markedCtxs (s : State) : List Nat :=
  ((s.dict.regs.filter fun e => e.1 % 256 == 0x32 && decide (0x8000 ≤ e.1 / 256) && decide (e.1 / 256 < 0xC000) && e.2 != 0).map
    fun e => e.1 / 256 - 0x8000).filter fun k => ctxState s k != 0

/-! ### Pairing (R249) -/

/-- R194, R249: does the package in a context's slot use function slot `f`: by a binding, or by an SFN command that names it. -/
def usesFunction (s : State) (k f : Nat) : Bool :=
  match pkgOf s (binding s k) with
  | some p => p.fns.any (fun e => e.1 == f) ||
      p.classes.any fun c => c.parts.any fun x => x.cmds.any fun e => e.1 == opSFN && e.2.func == 0x80 + f
  | none => false

/-- What a marked context adds to the configuration digest (log 40). -/
def markedBytes (s : State) (k : Nat) : List Byte :=
  let fns := s.fns.filter fun e => usesFunction s k e.1
  boundDigest s k ++ leBytes 4 (boundTable s k).1 ++ leBytes 2 (boundTable s k).2
    ++ (fns.flatMap fun e => ((e.2.cur.map (·.digest)).getD [])) ++ leBytes 1 (modeBits s) ++ settingsBytes s k

/-- R249: the member's configuration digest. -/
def umpireDigest (s : State) : List Byte :=
  sha384 (leBytes 1 s.clk.rate ++ leBytes 4 s.clk.free ++ (markedCtxs s).flatMap (markedBytes s))

/-- R249: the outcome of an enable or a pairing. -/
def umpireOutcome (s : State) (state status : Nat) : State :=
  setUmpireState { s with umpire := { s.umpire with status } } state

/-- R249: once every partner's digest is here the members are paired, or pairing is refused. -/
def tryPair (s : State) : State :=
  let ps := partners s
  let heard := ps.map fun p => (s.umpire.digests.find? fun d => d.1 == p).map (·.2)
  if umpireState s ≠ 1 ∨ heard.any (·.isNone) then s
  else
    let s' := { s with umpire := { s.umpire with digests := [] } }
    if heard.all (· == some (umpireDigest s)) then umpireOutcome s' (if ps.length = 2 then 3 else 2) stOk else umpireOutcome s' 0 stUmpireConfig

/-- UMPIRE_ENABLE (R249): #5020.01 has been written. While the strict bit is clear the enable is refused and the mode is off again. -/
def enableUmpire (s : State) : State :=
  let s := { s with umpire := { digests := s.umpire.digests } }
  let ps := partners s
  if getReg s 0x5020 0x01 ≠ 0 ∧ inForceReg s 0x5000 0x01 = 0 then setReg (umpireOutcome s 0 stStrictForbids) 0x5020 0x01 0
  else if ps = [] then umpireOutcome s 0 stOk
  else
    let s := umpireOutcome s 1 stPending
    tryPair (ps.foldl (fun s p => emit s (.configDigest p (umpireDigest s))) s)

def execUmpireEnable (s : State) : Host.Outcome State Fault Refusal := whenControlled s enableUmpire

/-- UMPIRE_CONFIGURATION_DIGEST (R249). -/
def takeDigest (s : State) (p : Nat) (d : List Byte) : State :=
  tryPair { s with umpire := { s.umpire with digests := s.umpire.digests.filter (fun x => x.1 != p) ++ [(p, d)] } }

def execUmpireConfigurationDigest (partner : Nat) (digest : List Byte) (s : State) : Host.Outcome State Fault Refusal :=
  whenControlled s fun s => takeDigest s partner digest

/-! ### Releasing and holding (R251, R252) -/

/-- Comparison of an output no longer holds it. -/
def umpireRelease (s : State) (k j : Nat) : State :=
  let s := unhold s k j 0xFFFD
  settleFrame (postReports (clearWait s k j (0xFFFB, 0))) k j

/-- An output has been compared: it goes out, or a halt holds it. -/
def comparedOk (s : State) (k j : Nat) : State :=
  if (s.umpire.haltDue ∨ umpireState s = 5) ∧ getReg s 0x5020 0x05 ≠ 0 then
    { s with umpire := { s.umpire with held := s.umpire.held ++ [(k, j)] } }
  else umpireRelease s k j

/-- Every held output goes out. -/
def releaseHeld (s : State) (es : List (Nat × Nat)) : State := es.foldl (fun s e => umpireRelease s e.1 e.2) s

/-- R252: the completion of an output carries ST_UMPIRE_MISMATCH. -/
def markMismatch (s : State) (k j : Nat) : State :=
  match findFrame s k j with
  | some e => postReports (clearWait (putFrame s { e with status := stUmpireMismatch }) k j (0xFFFB, 0))
  | none => s

/-- R252: the mismatch is counted, kept in #5020.0A and logged, and the partners get a halt notice. -/
def noteMismatch (s : State) (r : CardRecord) (rs : List CardRecord) : State :=
  let blob := leBytes 2 r.ctx ++ leBytes 8 r.frame ++ leBytes 8 r.card ++ padTo 16 ((rs.take 2).flatMap fun x => leBytes 8 x.card)
  let s := logFault (setBlob (addReg s 0x5020 0x09 1) 0x5020 0x0A blob) 0x0061 0 0 0 r.ctx r.frame
  (partners s).foldl (fun s p => emit s (.haltNotice p r.ctx r.frame)) s

/-- The policy in force: 2 only in a trio. -/
def umpirePolicy (s : State) : Nat := if getReg s 0x5020 0x04 = 2 ∧ umpireState s ≠ 3 then 0 else getReg s 0x5020 0x04

/-- A halt is due at the next tick boundary; the compared output is held by it where the gate is set. -/
def dueHalt (s : State) (k j : Nat) : State :=
  let s := { s with umpire := { s.umpire with haltDue := true } }
  if getReg s 0x5020 0x05 = 0 then s else { s with umpire := { s.umpire with held := s.umpire.held ++ [(k, j)] } }

/-- Partners leave the trio. -/
def leaveTrio (s : State) (ps : List Nat) : State := { s with umpire := { s.umpire with out := s.umpire.out ++ ps } }

/-- Two records agree (R252). -/
def sameCard (a b : CardRecord) : Bool := a.card == b.card && a.flags == b.flags

/-- R252, policy 2, with every card known: the majority goes on as a pair, a dissenter halts and leaves, all three halt when all differ. -/
def applyMajority (s : State) (r : CardRecord) (rs : List (Nat × CardRecord)) (released : Bool) : State :=
  if rs.any fun x => sameCard r x.2 then
    let s := setUmpireState (leaveTrio s ((rs.filter fun x => !sameCard r x.2).map (·.1))) 2
    if released then s else comparedOk s r.ctx r.frame
  else
    let two := match rs with
      | [a, b] => sameCard a.2 b.2
      | _ => false
    let s := dueHalt (markMismatch s r.ctx r.frame) r.ctx r.frame
    if two then leaveTrio s (rs.map (·.1)) else s

/-- The local record, its partners' records apart. -/
def dropCompared (s : State) (r : CardRecord) : State :=
  let same (x : CardRecord) : Bool := x.ctx == r.ctx && x.frame == r.frame
  { s with umpire := { s.umpire with
      localR := s.umpire.localR.filter (fun x => !same x.1), remote := s.umpire.remote.filter (fun x => !same x.2)
      seen := s.umpire.seen.filter (fun x => !(x.2 == (r.ctx, r.frame))), late := s.umpire.late.filter (· != (r.ctx, r.frame)) } }

/-- R252: the pairs of a local record with newly arrived ones are compared: each is counted, and each that differs is a mismatch. -/
def comparePairs (s : State) (r : CardRecord) (rs fresh : List (Nat × CardRecord)) : State :=
  let s := addReg s 0x5020 0x08 fresh.length
  let s := { s with umpire := { s.umpire with seen := s.umpire.seen ++ fresh.map fun x => (x.1, r.ctx, r.frame) } }
  (fresh.filter fun x => !sameCard r x.2).foldl (fun s _ => noteMismatch s r (rs.map (·.2))) s

/-- R252: one local record meets the partners' records that have arrived for it. -/
def compareOne (s : State) (r : CardRecord) : State :=
  let ps := partners s
  let rs := s.umpire.remote.filter fun x => x.2.ctx == r.ctx && x.2.frame == r.frame && ps.contains x.1
  let (old, fresh) := rs.partition fun x => s.umpire.seen.contains (x.1, r.ctx, r.frame)
  let complete := !rs.isEmpty && decide (ps.length ≤ rs.length)
  let policy := umpirePolicy s
  if fresh = [] ∧ !complete then s
  else
    let s := comparePairs s r rs fresh
    let s := if complete then dropCompared s r else s
    let differs := rs.any fun x => !sameCard r x.2
    if policy = 2 then
      let released := old.any fun x => sameCard r x.2
      if complete ∧ differs then applyMajority s r rs released
      else if !released ∧ rs.any (fun x => sameCard r x.2) then comparedOk s r.ctx r.frame
      else s
    else if old.any fun x => !sameCard r x.2 then s
    else if differs then
      if policy = 1 then comparedOk (markMismatch s r.ctx r.frame) r.ctx r.frame else dueHalt (markMismatch s r.ctx r.frame) r.ctx r.frame
    else if complete then comparedOk s r.ctx r.frame
    else s

/-- Every local record that waits, in commit order. -/
def compareAll (s : State) : State := (s.umpire.localR.map (·.1)).foldl compareOne s

/-- R250: at a tick boundary the records of the round that ended go to every partner and wait for theirs. -/
def sendCards (s : State) : State :=
  let st := umpireState s
  if st = 2 ∨ st = 3 ∨ st = 5 then
    let cards := s.umpire.fresh
    let s := (partners s).foldl (fun s p => emit s (.cards p cards)) s
    let mine := cards.map fun c => (c, counterOf s - 1)
    compareAll { s with umpire := { s.umpire with fresh := [], localR := s.umpire.localR ++ mine } }
  else { s with umpire := { s.umpire with fresh := [] } }

/-- UMPIRE_SCORECARD_FRAME (R250, R252). -/
def takeCards (s : State) (p : Nat) (records : List CardRecord) : State :=
  let st := umpireState s
  if (st = 2 ∨ st = 3 ∨ st = 5) ∧ (partners s).contains p then
    compareAll { s with umpire := { s.umpire with remote := s.umpire.remote ++ records.map fun r => (p, r) } }
  else s

def execUmpireScorecardFrame (partner : Nat) (records : List CardRecord) (s : State) : Host.Outcome State Fault Refusal :=
  whenControlled s fun s => takeCards s partner records

/-- UMPIRE_HALT_NOTICE (R252): under policy 0 the partner's mismatch halts this member too. -/
def takeNotice (s : State) (p : Nat) : State :=
  if (umpireState s = 2 ∨ umpireState s = 3) ∧ (partners s).contains p ∧ umpirePolicy s = 0 then
    { s with umpire := { s.umpire with haltDue := true } }
  else s

def execUmpireHaltNotice (partner _ctx _frame : Nat) (s : State) : Host.Outcome State Fault Refusal :=
  whenControlled s fun s => takeNotice s partner

/-- UMPIRE_LAG_EVENT (R250): a record without its counterpart within the window. -/
def lagEvent (s : State) (k j : Nat) : State :=
  if s.umpire.localR.any (fun r => r.1.ctx == k && r.1.frame == j && decide (r.2 + getReg s 0x5020 0x06 ≤ counterOf s))
      && !s.umpire.late.contains (k, j) then
    addReg { s with umpire := { s.umpire with late := s.umpire.late ++ [(k, j)] } } 0x5020 0x0B 1
  else s

def execUmpireLagEvent (ctx frame : Nat) (s : State) : Host.Outcome State Fault Refusal :=
  whenControlled s fun s => lagEvent s ctx frame

/-! ### Halt, resume, stop, loss (R250, R252) -/

/-- R252: at the first tick boundary after a mismatch or notice the marked contexts halt. -/
def haltMarked (s : State) : State :=
  if !s.umpire.haltDue then s
  else
    let s := setUmpireState { s with umpire := { s.umpire with haltDue := false } } 5
    (markedCtxs s).foldl (fun s k => if ctxState s k = 3 then setCtxState s k 7 else s) s

/-- The state that follows a halt: paired, a trio, or alone when no partner is left. -/
def afterHalt (s : State) : Nat := if (partners s).length = 2 then 3 else if (partners s).length = 1 then 2 else 4

/-- R252: a held output is discarded and its completion carries ST_UMPIRE_MISMATCH with no bytes. -/
def discardHeld (s : State) (k j : Nat) : State :=
  match findFrame s k j with
  | some e =>
    if e.waiting.contains (0xFFFD, 0) then
      let s := putFrame s { e with status := stUmpireMismatch, outLen := 0, waiting := e.waiting.filter (· != (0xFFFD, 0)) }
      settleFrame (postReports s) k j
    else s
  | none => s

/-- UMPIRE_STOP (R252): the halted contexts stop, their held outputs are discarded. -/
def stopUmpire (s : State) : State :=
  if umpireState s ≠ 5 then s
  else
    let s := { setUmpireState s (afterHalt s) with umpire := { s.umpire with held := [] } }
    (markedCtxs s).foldl (fun s k =>
      if ctxState s k = 7 then
        let s := putCtx s k { ctxOf s k with stopDue := true }
        ((s.frames.filter fun e => e.ctx == k).map (·.j)).foldl (fun s j => discardHeld s k j) s
      else s) s

def execUmpireStop (s : State) : Host.Outcome State Fault Refusal := whenControlled s stopUmpire

/-- The marked contexts that a halt holds run on. -/
def unhaltMarked (s : State) : State := (markedCtxs s).foldl (fun s k => if ctxState s k = 7 then setCtxState s k 3 else s) s

/-- UMPIRE_RESUME (R252). -/
def resumeUmpire (s : State) : State :=
  if umpireState s ≠ 5 then s
  else
    let held := s.umpire.held
    releaseHeld (unhaltMarked { setUmpireState s (afterHalt s) with umpire := { s.umpire with held := [] } }) held

def execUmpireResume (s : State) : Host.Outcome State Fault Refusal := whenControlled s resumeUmpire

/-- R250, R416: a partner is lost. With none left the member is alone, halted or not: everything held goes out, the marked contexts run, and
nothing is compared. -/
def losePartner (s : State) (p : Nat) : State :=
  let st := umpireState s
  if !(partners s).contains p ∨ (st ≠ 2 ∧ st ≠ 3 ∧ st ≠ 5) then s
  else
    let s := leaveTrio s [p]
    if partners s ≠ [] then compareAll (if st = 5 then s else setUmpireState s 2)
    else
      let s := setUmpireState { s with umpire := { out := s.umpire.out, status := s.umpire.status } } 4
      releaseHeld (unhaltMarked s) (s.frames.map fun f => (f.ctx, f.j))

end Sys2Proof.Machine
end

