-- ==== Sys2Proof/Machine/Power.lean ====
section
/-! DEFINITION. Power, current, droop and thermal control (R449 to R467). A reason holds a die below its target by lowering the highest point
it allows; the die's point follows by OPERATING_POINT_STEP. -/
namespace Sys2Proof.Machine
open Sys2Proof

/-! ### Dies and points (R453, R454) -/

def diePower (s : State) (d : Nat) : DiePower := ngetD s.power.dies d {}
def putDie (s : State) (d : Nat) (x : DiePower) : State := { s with power := { s.power with dies := nset s.power.dies d x } }

/-- R453: the frequency in MHz and the voltage in mV of a die's point. -/
def pointOf (s : State) (d p : Nat) : Nat × Nat := s.ctl.manifest.volts.getD (16 * d + p) (1050, 750)

/-- R450, R491: the PMBus (0 MD0's, 1 MD1's) and the address on it of a rail's regulator. -/
def railAddress (rail : Nat) : Nat × Nat := if rail < 16 then (0, 0x40 + rail) else (1, 0x50 + (rail - 16))

/-- R454: is fixed-frequency mode on; it takes effect at a tick boundary. -/
def fixedFreq (s : State) : Bool := inForceReg s 0x3000 0x02 != 0

/-- Does reason `r` of R464 hold die `d` below point `target` (dies 8 and 9 are the media dies). -/
def reasonHolds (s : State) (target r d : Nat) : Bool :=
  let x := diePower s d
  if d ≥ 8 then
    if r = 1 then decide (s.clk.now < s.power.mediaTill)
    else if r = 2 then s.power.mediaHot.contains d
    else if r = 4 then (nget s.power.droopAt d).isSome
    else r == 5 && (nget s.power.warnings 16).isSome
  else if r = 0 then decide (x.broker < target)
  else if r = 1 then decide (x.current < target)
  else if r = 2 then decide (x.temp < target)
  else if r = 3 then decide (x.stack < target)
  else if r = 4 then (nget s.power.droopAt d).isSome
  else if r = 5 then decide (x.warned < target)
  else r == 6 && fixedFreq s && decide (x.point < 12)

/-- R454: a die's target: 12, or up to 15 with fixed-frequency mode off, 10 °C of room and no reason active on the die. -/
def targetPoint (s : State) (d : Nat) : Nat :=
  if fixedFreq s ∨ (diePower s d).hotTenths > 10 * (getReg s 0x3000 0x03 : Int) - 100 ∨ [0, 1, 2, 3, 4, 5].any fun r => reasonHolds s 12 r d then 12
  else 15

/-- The highest point that the reasons beside the broker allow a die. -/
def otherHold (x : DiePower) : Nat := Nat.min (Nat.min x.current x.temp) (Nat.min x.stack x.warned)

/-- The point a die is to run at. -/
def wantedPoint (s : State) (d : Nat) : Nat :=
  let x := diePower s d
  Nat.min (targetPoint s d) (Nat.min x.broker (otherHold x))

/-- OPERATING_POINT_STEP (R453): a die completes one step toward its point; the regulator is set to the new voltage. -/
def stepPoint (s : State) (d : Nat) (up : Bool) : State :=
  let x := diePower s d
  let want := wantedPoint s d
  let go := if up then decide (x.point < want) else decide (want < x.point)
  if d ≥ 8 ∨ !go then s
  else
    let p := if up then x.point + 1 else x.point - 1
    let s := putDie s d { x with point := p }
    emit s (.avsVoltage d (pointOf s d p).2)

/-! ### Reasons and their episodes (R464) -/

/-- The dies that a reason holds. -/
def heldDies (s : State) (r : Nat) : List Nat := (List.range 10).filter fun d => reasonHolds s (if d < 8 then targetPoint s d else 0) r d
def holding (s : State) (r : Nat) : Bool := heldDies s r != []

/-- The counters of the reasons that hold have run up to now. -/
def countReasons (s : State) : State :=
  let dt := s.clk.now - s.power.at_
  let s := (List.range 7).foldl (fun s r =>
    if holding s r then
      let n := ngetD s.power.parts r 0 + dt
      addReg { s with power := { s.power with parts := nset s.power.parts r (n % 3000) } } 0x3000 (0x0A + r) (n / 3000)
    else s) s
  { s with power := { s.power with at_ := s.clk.now } }

/-- R464: an episode begins when a reason holds whose bit is clear; a reason that holds no longer is noted. -/
def noteReasons (s : State) : State :=
  (List.range 7).foldl (fun s r =>
    let ds := heldDies s r
    if ds ≠ [] then
      let s := { s with power := { s.power with cleared := ndel s.power.cleared r } }
      if (getReg s 0x3000 0x09).testBit r then s
      else
        let die := if r = 0 then 0xFF else ds.headD 0xFF
        logFault (setReg s 0x3000 0x09 (setBitAt (getReg s 0x3000 0x09) r)) 0x0300 0 0 0 0xFFFF (2 ^ r * 256 + die)
    else if (getReg s 0x3000 0x09).testBit r ∧ (nget s.power.cleared r).isNone then
      { s with power := { s.power with cleared := nset s.power.cleared r s.clk.now } }
    else s) s

/-- A power event: time passes, the counters run up to it, and what it changes begins and ends holds. -/
def powerEvent (s : State) (dt : Nat) (f : State → State) : State := noteReasons (f (countReasons (passTime s dt)))

/-- Times in thirds of a nanosecond. -/
def us (n : Nat) : Nat := 3000 * n

/-- Is a step due: none yet, or `gap` after the last. -/
def stepDue (now gap : Nat) (last : Option Nat) : Bool :=
  match last with
  | none => true
  | some t => decide (t + gap ≤ now)

/-! ### Estimates and current limits (R451, R452) -/

/-- The enforced limit of a rail in mA (R449). -/
def railLimit (s : State) (rail : Nat) : Nat := numAt (getBlob s 0x3000 0x15) (4 * rail) 4

/-- R452: a breach lowers a die by one point at once, and again after 50 µs. -/
def breachDie (s : State) (d : Nat) : State :=
  let x := diePower s d
  if stepDue s.clk.now (us 50) x.breachAt then
    putDie s d { x with current := Nat.min x.current x.point - 1, breachAt := some s.clk.now }
  else putDie s d x

/-- POWER_ESTIMATE (R451, R452): `mW` is the weighted sum of the activity counters and leakage before core 2's scale. -/
def estimateDie (s : State) (d mW : Nat) : State :=
  if d ≥ 8 then s
  else
    let x := diePower s d
    let e := mW * x.scale / 1000000
    let s := putDie s d { x with estimate := e, sumEst := x.sumEst + mW, nEst := x.nEst + 1 }
    if railLimit s d * (pointOf s d x.point).2 < e * 1000 then breachDie s d else s

def execPowerEstimate (die mW dt : Nat) (s : State) : Host.Outcome State Fault Refusal :=
  whenService s fun s => powerEvent s dt fun s => estimateDie s die mW

/-- ESTIMATE_RECALIBRATE (R451): the mean estimate of the last millisecond meets the mean of the AVSBus readings. -/
def recalibrate (s : State) (d : Nat) : State :=
  let x := diePower s d
  if d ≥ 8 ∨ x.sumEst = 0 ∨ x.nAvs = 0 then s
  else
    let scale := x.sumAvs * x.nEst * 1000000 / (x.nAvs * x.sumEst)
    putDie s d { x with scale, sumEst := 0, nEst := 0, sumAvs := 0, nAvs := 0 }

def execEstimateRecalibrate (die : Nat) (s : State) : Host.Outcome State Fault Refusal := whenService s fun s => recalibrate s die

/-- The power of a rail by its latest reading, in mW. -/
def railPower (s : State) (rail : Nat) : Nat := let (mV, mA) := ngetD s.power.rails rail (0, 0); mV * mA / 1000

/-- The latest power of rails 8 … 19. -/
def fixedPower (s : State) : Nat := ((List.range 12).map fun i => railPower s (8 + i)).foldl (· + ·) 0

/-- R451: the package power now. -/
def packagePower (s : State) : Nat := ((List.range 8).map fun d => (diePower s d).estimate).foldl (· + ·) 0 + fixedPower s

/-- One rail's reading. -/
def readRail (s : State) (r : RailReading) : State :=
  if r.rail ≥ 20 then s
  else
    let blob := getBlob s 0x3000 0x14
    let bytes := leBytes 2 r.mV ++ leBytes 2 0 ++ leBytes 4 r.mA
    let s := setBlob s 0x3000 0x14 (blob.take (8 * r.rail) ++ bytes ++ blob.drop (8 * r.rail + 8))
    let s := { s with power := { s.power with rails := nset s.power.rails r.rail (r.mV, r.mA) } }
    let breach := decide (railLimit s r.rail < r.mA)
    if r.rail < 8 then
      let x := diePower s r.rail
      let s := putDie s r.rail { x with sumAvs := x.sumAvs + r.mV * r.mA / 1000, nAvs := x.nAvs + 1 }
      if breach then breachDie s r.rail else s
    else if !breach then s
    else if r.rail < 16 then breachDie s (r.rail - 8)
    else if r.rail = 16 then { s with power := { s.power with mediaTill := s.clk.now + us 1000 } }
    else logFault s 0x0305 0 0 0 0xFFFF (r.rail * 65536 + r.mA / 1000)

/-- R451: the 1 ms mean of package power, from twenty readings. -/
def meanPower (s : State) : State :=
  let sum := s.power.sumPower + packagePower s
  if s.power.nPower ≥ 19 then
    setReg { s with power := { s.power with sumPower := 0, nPower := 0 } } 0x3000 0x05 (sum / (s.power.nPower + 1))
  else { s with power := { s.power with sumPower := sum, nPower := s.power.nPower + 1 } }

/-- RAIL_TELEMETRY (R449, R451, R452). -/
def execRailTelemetry (readings : List RailReading) (dt : Nat) (s : State) : Host.Outcome State Fault Refusal :=
  whenService s fun s => powerEvent s dt fun s => meanPower (readings.foldl readRail s)

/-- CURRENT_STEP_UP (R452): 1 ms without a breach. -/
def currentUp (s : State) (d : Nat) : State :=
  let x := diePower s d
  if d < 8 ∧ x.current < 15 ∧ stepDue s.clk.now (us 1000) x.breachAt ∧ x.upAt + us 1000 ≤ s.clk.now then
    putDie s d { x with current := x.current + 1, upAt := s.clk.now }
  else s

def execCurrentStepUp (die dt : Nat) (s : State) : Host.Outcome State Fault Refusal :=
  whenService s fun s => powerEvent s dt fun s => currentUp s die

/-! ### The broker (R455 to R457) -/

/-- R456: the cap ceiling for a cap in W. -/
def capCeiling (s : State) (cap : Nat) : Nat :=
  Nat.min 1000 (1000 * (cap - s.ctl.manifest.pbase) / (s.ctl.manifest.pfull - s.ctl.manifest.pbase))

/-- R457 step 2: a die's predicted power at a point as a fraction of mW. -/
def predicted (s : State) (d p : Nat) : Nat × Nat :=
  let x := diePower s d
  let (f, v) := pointOf s d x.point
  let (f', v') := pointOf s d p
  (x.estimate * f' * v' * v', f * v * v)

/-- The sum of the predictions is above `mW`. -/
def sumAbove (s : State) (points : List Nat) (mW : Nat) : Bool :=
  let (n, m) := (points.zipIdx.map fun e => predicted s e.2 e.1).foldl (fun (a : Nat × Nat) x => (a.1 * x.2 + x.1 * a.2, a.2 * x.2)) (0, 1)
  decide (mW * m < n)

/-- R457: the declared tile work of a die's work that has not committed. -/
def remainingWork (s : State) (d : Nat) : Nat :=
  ((s.works.filter fun w => w.die == d).map fun w => (((pkgOf s w.slot).bind fun p => classOf p w.cls).map (·.cost.tile)).getD 0).foldl
    (· + ·) 0

/-- R457 step 3: the die to lower: its remaining work over the frequency below is smallest, ties to the highest number. -/
def dieToLower (s : State) (points : List Nat) : Option Nat :=
  (points.zipIdx.filter fun e => e.1 != 0).foldl (fun (best : Option Nat) e =>
    match best with
    | none => some e.2
    | some b =>
      let f (d : Nat) : Nat := (pointOf s d (points.getD d 0 - 1)).1
      if remainingWork s e.2 * f b ≤ remainingWork s b * f e.2 then some e.2 else some b) none

/-- R457 step 3, repeated. -/
def lowerDies (s : State) (budget : Nat) : Nat → List Nat → List Nat
  | 0, points => points
  | fuel + 1, points =>
    if sumAbove s points budget then
      match dieToLower s points with
      | some d => lowerDies s budget fuel (points.set d (points.getD d 0 - 1))
      | none => points
    else points

/-- BUDGET_BROKER (R457). -/
def runBroker (s : State) : State :=
  let budget := inForceReg s 0x3000 0x01 * 1000 - fixedPower s
  let start := (List.range 8).map fun d => Nat.min (targetPoint s d) (otherHold (diePower s d))
  let got := lowerDies s budget 128 start
  (List.range 8).foldl (fun s d =>
    let p := got.getD d 0
    putDie s d { diePower s d with broker := if p < start.getD d 0 then p else 15 }) s

def execBudgetBroker (dt : Nat) (s : State) : Host.Outcome State Fault Refusal :=
  whenControlled s fun s => powerEvent s dt runBroker

def execOperatingPointStep (die : Nat) (up : Bool) (s : State) : Host.Outcome State Fault Refusal :=
  whenService s fun s => powerEvent s 0 fun s => stepPoint s die up

/-! ### Droop (R459) -/

/-- DROOP_DETECT. -/
def detectDroop (s : State) (d : Nat) : State :=
  if d ≥ 10 ∨ (nget s.power.droopAt d).isSome then s
  else addReg { s with power := { s.power with droopAt := nset s.power.droopAt d s.clk.now } } 0x3000 0x17 1

def execDroopDetect (die dt : Nat) (s : State) : Host.Outcome State Fault Refusal :=
  whenService s fun s => powerEvent s dt fun s => detectDroop s die

/-- The frequency of a die in MHz before stretching. -/
def dieMHz (s : State) (d : Nat) : Nat := if d < 8 then (pointOf s d (diePower s d).point).1 else 1050

/-- DROOP_RELEASE: no sooner than 32 cycles of twice the period. -/
def releaseDroop (s : State) (d : Nat) : State :=
  match nget s.power.droopAt d with
  | some t => if t * dieMHz s d + 192000 ≤ s.clk.now * dieMHz s d then { s with power := { s.power with droopAt := ndel s.power.droopAt d } } else s
  | none => s

def execDroopRelease (die dt : Nat) (s : State) : Host.Outcome State Fault Refusal :=
  whenService s fun s => powerEvent s dt fun s => releaseDroop s die

/-! ### Temperature (R460 to R462) -/

/-- R460: one reading against a threshold: the hold, the time of the last step down, and since when it is cool. -/
def thermalStep (now : Nat) (tenths th : Int) (point hold : Nat) (last cool : Option Nat) : Nat × Option Nat × Option Nat :=
  if th ≤ tenths then (if stepDue now (us 100) last then (Nat.min hold point - 1, some now, none) else (hold, last, none))
  else if th - 20 ≤ tenths then (hold, last, none)
  else
    match cool with
    | none => (hold, last, some now)
    | some t => if t + us 1000 ≤ now ∧ hold < 15 then (hold + 1, last, some now) else (hold, last, cool)

/-- A value of 16 bits into a table of them. -/
def putTenths (blob : List Byte) (i : Nat) (tenths : Int) : List Byte :=
  blob.take (2 * i) ++ leBytes 2 (codeOf 16 tenths) ++ blob.drop (2 * i + 2)

/-- DIE_TEMPERATURE_STEP (R460). -/
def dieHeat (s : State) (d : Nat) (tenths : Int) : State :=
  if d ≥ 10 then s
  else
    let th : Int := 10 * (getReg s 0x3000 0x03 : Int)
    let s := setBlob s 0x3000 0x12 (putTenths (getBlob s 0x3000 0x12) d tenths)
    let x := diePower s d
    if d < 8 then
      let (hold, last, cool) := thermalStep s.clk.now tenths th x.point x.temp x.tempAt x.coolAt
      putDie s d { x with temp := hold, tempAt := last, coolAt := cool, hotTenths := tenths }
    else if th ≤ tenths then
      putDie { s with power := { s.power with mediaHot := s.power.mediaHot.filter (· != d) ++ [d] } } d { x with coolAt := none }
    else if th - 20 ≤ tenths then putDie s d { x with coolAt := none }
    else
      match x.coolAt with
      | none => putDie s d { x with coolAt := some s.clk.now }
      | some t => if t + us 1000 ≤ s.clk.now then { s with power := { s.power with mediaHot := s.power.mediaHot.filter (· != d) } } else s

def execDieTemperatureStep (die : Nat) (tenths : Int) (dt : Nat) (s : State) : Host.Outcome State Fault Refusal :=
  whenService s fun s => powerEvent s dt fun s => dieHeat s die tenths

/-- A stack's temperature as it was last reported. -/
def stackTenths (s : State) (k : Nat) : Int := signedOf 16 (numAt (getBlob s 0x3000 0x13) (2 * k) 2)

/-- STACK_TEMPERATURE (R461): the hottest stack of a die's three lowers the die; at 85 °C a stack refreshes twice as often. -/
def stackHeat (s : State) (k : Nat) (tenths : Int) : State :=
  if k ≥ 24 then s
  else
    let s := setBlob s 0x3000 0x13 (putTenths (getBlob s 0x3000 0x13) k tenths)
    let rest := s.power.refresh2x.filter (· != k)
    let s := { s with power := { s.power with refresh2x := if 850 ≤ tenths then rest ++ [k] else rest } }
    let d := k / 3
    let hot := max (stackTenths s (3 * d)) (max (stackTenths s (3 * d + 1)) (stackTenths s (3 * d + 2)))
    let x := diePower s d
    let (hold, last, cool) := thermalStep s.clk.now hot (10 * (getReg s 0x3000 0x04 : Int)) x.point x.stack x.stackAt x.sCoolAt
    putDie s d { x with stack := hold, stackAt := last, sCoolAt := cool }

def execStackTemperature (stack : Nat) (tenths : Int) (dt : Nat) (s : State) : Host.Outcome State Fault Refusal :=
  whenService s fun s => powerEvent s dt fun s => stackHeat s stack tenths

/-- THERMTRIP (R462): unit 0 … 9 is a die, 16 + k stack k. The latch holds until VSTBY is removed. -/
def tripThermal (s : State) (unit : Nat) : State :=
  if s.ctl.vstbyOff ∨ s.ctl.phase = .off ∨ s.ctl.tripped.isSome ∨ !(decide (unit < 10) || decide (16 ≤ unit ∧ unit < 40)) then s
  else emit { s with ctl := { s.ctl with phase := .halted, tripped := some unit, lossOfW := true, inCharge := none } } .thermtrip

def execThermtrip (unit : Nat) (s : State) : Host.Outcome State Fault Refusal := .next (tripThermal s unit)

/-! ### Regulator faults (R463) -/

/-- REGULATOR_WARNING. -/
def warnRail (s : State) (rail status : Nat) : State :=
  if rail ≥ 20 then s
  else
    let s := logFault s 0x0301 0 0 0 0xFFFF (rail * 65536 + status)
    if rail < 17 then
      let s := { s with power := { s.power with warnings := nset s.power.warnings rail s.clk.now } }
      if rail < 16 then putDie s (rail % 8) { diePower s (rail % 8) with warned := 7 } else s
    else s

def execRegulatorWarning (rail status dt : Nat) (s : State) : Host.Outcome State Fault Refusal :=
  whenService s fun s => powerEvent s dt fun s => warnRail s rail status

/-- REGULATOR_WARNING_CLEAR: clear for 10 ms. -/
def clearWarning (s : State) (rail : Nat) : State :=
  match nget s.power.warnings rail with
  | none => s
  | some t =>
    if s.clk.now < t + us 10000 then s
    else
      let s := { s with power := { s.power with warnings := ndel s.power.warnings rail } }
      let d := rail % 8
      if rail < 16 ∧ (nget s.power.warnings d).isNone ∧ (nget s.power.warnings (d + 8)).isNone then putDie s d { diePower s d with warned := 15 }
      else s

def execRegulatorWarningClear (rail dt : Nat) (s : State) : Host.Outcome State Fault Refusal :=
  whenService s fun s => powerEvent s dt fun s => clearWarning s rail

/-- R463, R496: a rail is lost: all work stops and the service field reads 3. -/
def loseRail (s : State) (rail : Nat) : State :=
  if rail ≥ 20 then s
  else
    let s := logFault s 0x0302 1 0 0 0xFFFF rail
    { s with ctl := { s.ctl with phase := .failed, lossOfW := true } }

/-- RAIL_LOST (R463): in service or during a start. -/
def execRailLost (rail : Nat) (s : State) : Host.Outcome State Fault Refusal :=
  .next (if inService s || s.ctl.phase == .starting then loseRail s rail else s)

/-- THROTTLE_EPISODE_END (R464): a reason clear for 1 ms. -/
def endEpisode (s : State) (r : Nat) : State :=
  match nget s.power.cleared r with
  | some t =>
    if t + us 1000 ≤ s.clk.now ∧ !holding s r then
      setReg { s with power := { s.power with cleared := ndel s.power.cleared r } } 0x3000 0x09 (clearBitAt (getReg s 0x3000 0x09) r)
    else s
  | none => s

def execThrottleEpisodeEnd (reason dt : Nat) (s : State) : Host.Outcome State Fault Refusal :=
  whenService s fun s => powerEvent s dt fun s => endEpisode s reason

/-- R455, R456: at a tick boundary a new cap comes into force, with its ceiling. `old` is the cap before it. -/
def takeCap (s : State) (old : Nat) : State :=
  let cap := inForceReg s 0x3000 0x01
  let s := setReg s 0x3000 0x06 (capCeiling s cap)
  if cap = old then s else logFault s 0x0304 0 0 0 0xFFFF cap

end Sys2Proof.Machine
end

