-- ==== Sys2Proof/Machine/Rounds.lean ====
section
/-! DEFINITION. The tick, its sources, and the round that begins at each tick: what is carried, what is issued, in which order (R28 to R30,
R33 to R58, R271, R330, R346 to R352, R362, R415, R416). -/
namespace Sys2Proof.Machine
open Sys2Proof

/-! ### The boundary itself (R35, R36, R43, R380) -/

/-- The next tick begins. -/
def nextTick (s : State) : State := { s with clk := { s.clk with now := (counterOf s + 1) * period s } }

/-- What was written comes into force, the house rate among it: a peer's offer at the old one is followed no more (R42). -/
def takeSettings (s : State) : State :=
  let t : State :=
    { s with dict := { s.dict with inForce := s.dict.regs }, clk := { s.clk with rate := getReg s 0x2000 0x01, free := getReg s 0x2000 0x02 } }
  if sameRate t s.clk.rate s.clk.free then t else pruneOffers t fun _ => false

/-- A work has a share on a die: it is at home there, or a part of it is or was on one of its tiles (R264, R28). -/
def dieShare (s : State) (d : Nat) (w : Work) : Bool :=
  w.slot != 0xFFFF && !isService w.slot &&
  (w.die == d || (w.parts.any fun r => dieOfTile r.tile == d) || (w.tiles.any fun b => dieOfTile b.2 == d || b.2 == 384 + d)
    || s.tiles.any fun e => dieOfTile e.1 == d && (e.2.part.map (·.work)) == some w.id)

/-- R28: a control core's role moves: logged, and the die's share of the round runs again. The log's unit is 4 × die + core: R15 gives a
die control core no package-wide number (DESIGN CHOICE, log 65). -/
def moveRole (s : State) (m : Nat × Nat) : State :=
  let die := m.1 / 4
  let s := { s with ctl := { s.ctl with roles := nset s.ctl.roles m.1 m.2 } }
  let s := logFault s 0x0012 0 5 (4 * die + m.2) 0xFFFF (m.1 % 4 * 256 + m.2)
  replayWorks s (dieShare s die)

def moveRoles (s : State) : State := s.ctl.roleMoves.foldl moveRole { s with ctl := { s.ctl with roleMoves := [] } }

/-- R30: what waited for a cluster that may write flash. -/
def retireDue (s : State) : State :=
  s.ctl.retireDue.foldl (fun s u => if u.1 = 1 then retireTile s u.2 else if u.1 = 2 then retireLane s u.2 else retireUnit s (u.1 - 7) u.2)
    { s with ctl := { s.ctl with retireDue := [] } }

/-- R29, R30: the standby takes control: jobs whose completion was not posted run again, and their outputs go out again. -/
def takeOver (s : State) : State :=
  if !s.ctl.takeover then s
  else
    let next := [0, 1].find? fun c => s.ctl.clusterOk.getD c false
    let s := { s with ctl := { s.ctl with takeover := false, inCharge := next, missed := 0 } }
    match next with
    | none => s
    | some c => replayWorks (retireDue (logFault s 0x0011 0 12 c 0xFFFF 0)) fun w => match w.id with
      | .job _ _ _ => true
      | .frame _ _ => false

/-! ### Carry (R54 to R57) -/

/-- R54, R55: a work that the round left unfinished. -/
def carryOne (w : Work) : Work := if w.prio = 3 then { w with stopped := true } else { w with lag := w.lag + 1 }

/-- The lag of a context: the largest of its unfinished frames. -/
def ctxLag (s : State) (k : Nat) : Nat :=
  (s.works.map fun w => match w.id with
    | .frame c _ => if c = k then w.lag else 0
    | .job _ _ _ => 0).foldl Nat.max 0

/-- The contexts with unfinished frames. -/
def carriedCtxs (s : State) : List Nat :=
  (s.works.filterMap fun w => match w.id with
    | .frame c _ => some c
    | .job _ _ _ => none).eraseDups

/-- R54 to R56: unfinished work of classes 0 … 2 is carried, of class 3 stops. -/
def carryRound (s : State) : State :=
  let carried := s.works.any fun w => w.prio != 3
  let s := { s with works := s.works.map carryOne, carried }
  let s := if carried then addReg s 0x2100 0x05 1 else s
  (carriedCtxs s).foldl (fun s k => setReg s (ctxIndex k) 0x3A (ctxLag s k)) s

/-- LAG_LIMIT (R57). -/
def limitLag (s : State) (k : Nat) : State :=
  let lag := ctxReg s k 0x3A
  if k < maxCtx ∧ getReg s 0x2100 0x09 ≤ lag ∧ !(ctxReg s k 0x3B).testBit 0 then
    logFault (setReg s (ctxIndex k) 0x3B (setBitAt (ctxReg s k 0x3B) 0)) 0x0003 0 0 0 k lag
  else s

def execLagLimit (ctx : Nat) (s : State) : Host.Outcome State Fault Refusal := whenControlled s fun s => limitLag s ctx

/-! ### Stops (R50, R268, R271) -/

/-- R50: the charge of a context that left service is released. -/
def releaseCharges (s : State) : State :=
  let go (e : Nat × Ctx) : Nat × Ctx := if e.2.release then (e.1, { e.2 with charge := {}, release := false }) else e
  { s with ctxs := s.ctxs.map go }

/-- R268: a stop takes effect; from state 5 it has no status of its own. -/
def takeStop (s : State) (k : Nat) : State :=
  let s := if ctxState s k = 5 then s else setCmdStatus s k stOk
  settleStop (setCtxState (putCtx s k { ctxOf s k with stopDue := false }) k 4) k

/-- R271: a context whose upstream context is not running any more issues what it still may and stops. -/
def followStop (s : State) (k : Nat) : State :=
  if ctxState s k = 3 ∧ ctxReg s k 0x26 = 4 ∧ ctxState s (ctxReg s k 0x27) ≠ 3 ∧ ctxState s (ctxReg s k 0x27) ≠ 7 then
    let s := issueCtx 256 s k
    settleStop (setCtxState s k 4) k
  else s

/-- Every stop that is due; chains are four contexts deep. -/
def takeStops (s : State) : State :=
  let ks := s.ctxs.map (·.1)
  let s := (ks.filter fun k => (ctxOf s k).stopDue).foldl takeStop s
  (List.range 4).foldl (fun s _ => ks.foldl followStop s) s

/-! ### Outputs at the tick (R345 to R352, R431) -/

/-- R346: frames committed in an earlier round are not held by their round any more. -/
def endRoundHold (s : State) : State :=
  let mark (e : FrameEntry) : FrameEntry := if e.tick < counterOf s then { e with waiting := e.waiting.filter (· != (0xFFFF, 0)) } else e
  { s with frames := s.frames.map mark }

/-- Outputs of the round that ended: settled or packed; receiver writes take effect; spilled bytes return and wait cycles break. -/
def tickOutputs (s : State) : State :=
  let fs := s.flows.map (·.1)
  let s := fs.foldl packFlow (endRoundHold s)
  let s := fs.foldl takeReceivers s
  let s := returnSpilled (settleFrames s)
  breakCycles (s.media.waiters.length + 1) s

/-! ### Jobs (R45, R51, R52, R55, R272, R330, R367) -/

/-- The declared cost of a work. -/
def workCost (s : State) (w : Work) : Charge := costCharge ((((pkgOf s w.slot).bind fun p => classOf p w.cls).map (·.cost)).getD {})

/-- What a work charges the round: the whole declared cost, of class 3 the slice that fits (R52). -/
def workCharge (s : State) (w : Work) : Charge := if w.prio = 3 then w.slice else workCost s w

/-- What the round already holds of resource `r`. -/
def roundUse (s : State) (r : Nat) : Nat := ((s.works.filter fun w => !w.stopped).map fun w => chargeOf (workCharge s w) r).foldl (· + ·) 0

/-- Does a cost fit the round. -/
def costFits (s : State) (c : Charge) : Bool := [1, 2, 3].all fun r => decide (roundUse s r + chargeOf c r ≤ ceilingOf s r)

/-- R52: the slice of a class 3 cost that fits the round, and what of the cost is left after it; none where a resource it needs has no
room. -/
def sliceOf (s : State) (c : Charge) : Option (Charge × Charge) :=
  let room (r : Nat) : Nat := ceilingOf s r - roundUse s r
  if [1, 2, 3].all fun r => chargeOf c r == 0 || decide (0 < room r) then
    let part : Charge := { tile := Nat.min c.tile (room 1), sym := Nat.min c.sym (room 2), stack := Nat.min c.stack (room 3) }
    some (part, { tile := c.tile - part.tile, sym := c.sym - part.sym, stack := c.stack - part.stack })
  else none

/-- R52: what a frame of a class charges the round, with what is left of its cost; none where it does not fit. -/
def admitCost (s : State) (prio : Nat) (c : Charge) : Option (Charge × Charge) :=
  if prio = 3 then sliceOf s c else if costFits s c then some ({}, {}) else none

/-- R52: a cost exceeds the ceiling by itself. -/
def costExceeds (s : State) (c : Charge) : Bool := [1, 2, 3].any fun r => decide (ceilingOf s r < chargeOf c r)

/-- R365, R368: the input of frame `i` of a job, where it can be read. -/
def jobInput (s : State) (j : JobRec) (a n : Nat) : Option (List Byte) :=
  if j.space.testBit 0 then some (s.mem.read a n) else if dmaOk s then some (s.host.read a n) else none

/-- A job runs: its entry counts one more issued frame. -/
def jobIssued (s : State) (e : JobEntry) : State :=
  let s := putJob s { e with issued := e.issued + 1 }
  if e.state = 1 then setJobState s { e with issued := e.issued + 1 } 2 else s

/-- Frame `issued` of a package job is issued, if it fits. -/
def issueJobFrame (s : State) (e : JobEntry) : Option State :=
  match (pkgOf s e.job.pkgSlot).bind fun p => (classOf p e.job.cls).map fun c => (p, c) with
  | none => none
  | some (p, c) =>
    let i := e.issued
    match admitCost s e.job.prio (costCharge c.cost) with
    | none => none
    | some (slice, left) =>
      match jobInput s e.job (e.job.inAddr + i * e.job.inStride) (regionBytes c 2), homeDie s e.job.pkgSlot with
      | some input, some d =>
        match placeWindow s d e.job.pkgSlot with
        | none => none
        | some s =>
          let w : Work :=
            { id := .job e.ring e.pos i, slot := e.job.pkgSlot, cls := e.job.cls, prio := e.job.prio, seed := wrap64 (e.job.seed + i)
              issued := counterOf s, die := d, bank := s.cdf.active, result := lostResult s e.job.pkgSlot, slice, left }
          (bindWork s p c w input false).map fun s => jobIssued s e
      | _, _ => none

/-- The engine of the lowest number with room for a charge. -/
def engineFor (s : State) (n : Nat) : Option Nat :=
  (List.range 8).find? fun g => decide (0 < mediaCap s mkEngine g) && decide (engineUse s g + n ≤ mediaCap s mkEngine g)

/-- The input of an engine job stands in device memory for its last slice. -/
def stageInput (s : State) (j : JobRec) : Option (State × Nat × Option Nat) :=
  if j.space.testBit 0 then some (s, j.inAddr, none)
  else if !dmaOk s then none
  else (reserve s (Nat.max 1 j.inLen) (4096 + 1 + 0xFFFF)).map fun (r : Nat × State) =>
    ({ r.2 with mem := r.2.mem.write r.1 (s.host.read j.inAddr j.inLen) }, r.1, some r.1)

/-- Slice `issued` of an engine job is issued to an engine, if it fits. -/
def issueSlice (s : State) (e : JobEntry) : Option State :=
  let i := e.issued
  match engineFor s (sliceCharge s e.job i) with
  | none => none
  | some g =>
    let w : Work :=
      { id := .job e.ring e.pos i, slot := 0xFFFF, cls := 0, prio := e.job.prio, seed := 0, issued := counterOf s, die := g, aim := 1 }
    if i + 1 < engineSlices e.job then some (jobIssued (addWork s w) e)
    else (stageInput s e.job).map fun (x : State × Nat × Option Nat) =>
      jobIssued (addWork x.1 { w with inBase := x.2.1, inLen := e.job.inLen, alloc := x.2.2 }) e

/-- How many frames or slices a job has. -/
def jobParts (j : JobRec) : Nat := if isEngineJob j then engineSlices j else j.frames

/-- R52, R330: a job of classes 0 … 2 that can never fit a round. -/
def jobExceeds (s : State) (j : JobRec) : Bool :=
  j.prio != 3 &&
  if isEngineJob j then decide (mediaRound s 1050000000 < engineCharge j j.inLen)
  else match (pkgOf s j.pkgSlot).bind fun p => classOf p j.cls with
    | some c => costExceeds s (costCharge c.cost)
    | none => false

/-- The next part of a job: a slice of an engine job, a frame of a package job. -/
def issuePart (s : State) (e : JobEntry) : Option State := if isEngineJob e.job then issueSlice s e else issueJobFrame s e

/-- R52: a job whose next frame exceeds the ceiling by itself gets no more frames, and completes with those it has. -/
def cutJob (s : State) (e : JobEntry) : State :=
  let st := if e.image.status = stOk then stCostExceedsRound else e.image.status
  let e := { e with cut := true, image := { e.image with status := st } }
  if e.done = e.issued then finishJob s e else putJob s e

/-- As many frames of one job as fit, and whether all of them did. -/
def issueJob : Nat → State → Nat → Nat → State × Bool
  | 0, s, _, _ => (s, false)
  | fuel + 1, s, ring, pos =>
    match findJob s ring pos with
    | none => (s, true)
    | some e =>
      if e.state > 2 ∨ e.cut ∨ e.issued ≥ jobParts e.job then (s, true)
      else if mirrorWaits s (.job ring pos 0) 1 then (s, false)
      else if jobExceeds s e.job then (cutJob s e, true)
      else
        match issuePart s e with
        | none => (s, false)
        | some s => issueJob fuel s ring pos

/-- Insertion of a job by sequence number, then ring. -/
def insertQueued (e : JobEntry) : List JobEntry → List JobEntry
  | [] => [e]
  | x :: r => if e.job.seq < x.job.seq ∨ (e.job.seq = x.job.seq ∧ e.ring < x.ring) then e :: x :: r else x :: insertQueued e r

/-- The jobs of a class that have frames to issue, in order: each was fetched before this tick (R46). -/
def queuedJobs (s : State) (prio : Nat) : List JobEntry :=
  (s.jobs.filter fun e => decide (e.state ≤ 2) && e.job.prio == prio && !e.cut && decide (e.issued < jobParts e.job)).foldr insertQueued []

/-- R52 step 3: a class's queue, until a frame does not fit. -/
def issueClass : List JobEntry → State → State
  | [], s => s
  | e :: r, s =>
    match issueJob (jobParts e.job + 1) s e.ring e.pos with
    | (s, true) => issueClass r s
    | (s, false) => s

/-- R55: a stopped class 3 work goes on with the slice of its cost that fits; one whose whole cost has been charged is charged anew. -/
def resumeOne (s : State) (w : Work) : State :=
  if w.slot = 0xFFFF then
    match w.id with
    | .job ring pos i =>
      let fits := ((findJob s ring pos).map fun e => decide (engineUse s w.die + sliceCharge s e.job i ≤ mediaCap s mkEngine w.die)).getD false
      if fits then putWork s { w with stopped := false } else s
    | .frame _ _ => s
  else
    match sliceOf s (if w.left = {} then workCost s w else w.left) with
    | some (slice, left) => putWork s { w with stopped := false, slice, left }
    | none => s

def resumeBulk : List Work → State → State
  | [], s => s
  | w :: r, s => resumeBulk r (resumeOne s w)

/-- R52 steps 3 and 4, R56, R58. -/
def issueJobs (s : State) : State :=
  let s := [0, 1, 2].foldl (fun s p => issueClass (queuedJobs s p) s) s
  if s.carried ∨ !chargesFit s then s
  else
    let s := resumeBulk (s.works.filter (·.stopped)) s
    issueClass (queuedJobs s 3) s

/-! ### Peers and the mirror at the tick (R416, R442, R443) -/

/-- R416: tick boundaries in a row at which a peer had no route. -/
def countMissing (s : State) : State :=
  let peers := (s.fabric.map.map (·.2)).filter fun a => a != ownAddress s
  let step (m : NMap Nat) (a : Nat) : NMap Nat := if reachable s a then ndel m a else nset m a (ngetD m a 0 + 1)
  { s with fabric := { s.fabric with missing := peers.foldl step s.fabric.missing } }

/-- R443: ticks in a row that the mirror has been waited for. -/
def countGap (s : State) : State :=
  let open' := mirrorOn s && (s.fabric.toMirror != [] || s.fabric.lost.contains (getReg s 0x4100 0x09))
  { s with fabric := { s.fabric with mirrorGap := if open' then s.fabric.mirrorGap + 1 else 0 } }

/-! ### The round (R43, R52) -/

/-- The close of round n: what ended is settled, and what comes into force. `cap` is the power cap before the boundary. -/
def closeRound (s : State) (cap : Nat) : State :=
  let s := carryRound (moveRoles s)
  let s := takeCap s cap
  let s := setReg s 0x2100 0x08 (newCeiling s)
  let s := takeStops (releaseCharges s)
  let s := haltMarked ((s.ctxs.map (·.1)).foldl flushDecoder s)
  tickOutputs (sendCards s)

/-- The issue of round n in the order of R52; what firmware charged the engines in the round before is past (R330). -/
def issueRound (s : State) : State :=
  let s := deliverAll (issueJobs (issueDue { s with media := { s.media with firmware := [] } }))
  let s := setReg s 0x2100 0x04 (roundUse s 1)
  releaseWindows (finishUnload s)

/-- R193, R222, R223, R270, R320: what comes into force at the boundary that has come, before its round is issued: tables, function
slots, filter sets, and contexts' switches to other packages. -/
def takeEffects (s : State) : State := switchesAtTick (filterAtTick (tablesAtTick s))

/-- What a cluster in control does at a tick boundary. -/
def runRound (s : State) (cap : Nat) : State :=
  let s := takeEffects (closeRound s cap)
  let s := if parked s then s else issueRound s
  let s := countGap (countMissing (offerTick s))
  if (inForceReg s 0x1100 0x01).testBit 0 then raiseVector s 50 else s

/-- TICK_BOUNDARY (R43). -/
def tickOver (s : State) : State :=
  let cap := inForceReg s 0x3000 0x01
  let s := selectSource (slewTime (takeSettings (nextTick (countReasons s))))
  let s := takeOver { s with power := { s.power with at_ := s.clk.now } }
  noteReasons (if controlled s then runRound s cap else s)

def execTickBoundary (s : State) : Host.Outcome State Fault Refusal := whenService s tickOver

end Sys2Proof.Machine
end

