-- ==== Sys2Proof/Machine/Host.lean ====
section
/-! DEFINITION. The PCI Express function: the service loop over the rings, BAR accesses, resets of the port, and the failures that
the package controller meets beside it (R19, R28, R29, R356 to R376, R424, R436, R474). -/
namespace Sys2Proof.Machine
open Sys2Proof

/-! ### Resets in general (R474, R486) -/

/-- The PCI Express port is up: between PERST# deassertion and the next assertion (R471). -/
def portAlive (s : State) : Bool := s.ctl.phase == .starting || s.ctl.phase == .service || s.ctl.phase == .failed

/-- #1200.05 with the count of kind `k` one higher. -/
def countedReset (bs : List Byte) (k : Nat) : List Byte :=
  let bs := padTo 28 bs
  bs.take (4 * k) ++ leBytes 4 (numAt bs (4 * k) 4 + 1) ++ bs.drop (4 * k + 4)

/-- A reset of kind `k` is taken: last kind, its count, the fault log (R486, R488). -/
def takeReset (s : State) (k : Nat) : State :=
  let s := setBlob (setReg s 0x1200 0x04 k) 0x1200 0x05 (countedReset (getBlob s 0x1200 0x05) k)
  logFault s 0x0408 2 0 0 0xFFFF k

/-! ### The PCI Express function (R356, R357) -/

/-- R356: what the Type 0 header of function 0 and its serial number capability identify. -/
structure PciIdentity where
  vendor    : Nat
  device    : Nat
  revision  : Nat
  classCode : Nat
  intPin    : Nat
  serial    : Nat
deriving DecidableEq, Repr

def pciIdentity (s : State) : PciIdentity :=
  { vendor := s.ctl.manifest.vendorId, device := 0x9624, revision := 0x02, classCode := 0x048000, intPin := 0, serial := s.ctl.manifest.serial }

/-- R357: the size of the region that base address register `n` (0 … 5) opens, with the register after it, and whether it is prefetchable;
none for one that reads as zero. -/
def barRegion (n : Nat) : Option (Nat × Bool) :=
  if n = 0 then some (2 ^ 16, false) else if n = 2 then some (2 ^ 41, true) else none

/-! ### Device status (R358, R359) -/

/-- R359: service bits. -/
def serviceCode (s : State) : Nat :=
  if s.ctl.phase = .failed ∨ s.ctl.phase = .halted then 3
  else if s.ctl.phase ≠ .service then 0
  else if parked s then 2 else 1

/-- R359: the fault and service bits. -/
def statusBits (s : State) : Nat := 8 * (if faultBit s then 1 else 0) + serviceCode s

/-- R359: the device status word; during a takeover its other fields keep their last value. -/
def deviceStatus (s : State) : Nat :=
  if s.ctl.takeover then 0xF0 + s.ctl.statusHeld else 16 * (s.ctl.inCharge.getD 15) + statusBits s

/-- R358, R388: byte `a` of BAR0: the device status, the tick counter mirror, the tokens and the response of the dictionary window; reserved
ranges are zero. The MSI-X table and pending bits are the PCI Express function's own (log 58). -/
def bar0Byte (s : State) (a : Nat) : Byte :=
  if a < 4 then (leBytes 4 (deviceStatus s)).getD a 0
  else if 8 ≤ a ∧ a < 16 then (leBytes 8 (counterOf s)).getD (a - 8) 0
  else if 0x1000 ≤ a ∧ a < 0x1004 then (leBytes 4 s.ctl.reqToken).getD (a - 0x1000) 0
  else if 0x1004 ≤ a ∧ a < 0x1008 then (leBytes 4 s.ctl.respToken).getD (a - 0x1004) 0
  else if 0x1800 ≤ a ∧ a < 0x2000 then s.ctl.response.getD (a - 0x1800) 0
  else 0

/-! ### Ring pairs (R364 to R367, R424, R431) -/

/-- R365: the 128 bytes of a job record; `rsvd` is zero when every reserved bit is. -/
def parseJob (bs : List Byte) : JobRec :=
  { seq := numAt bs 0 8, pkgSlot := numAt bs 8 2, cls := numAt bs 10 1, prio := numAt bs 11 1, frames := numAt bs 12 4
    seed := numAt bs 16 8, inAddr := numAt bs 24 8, inStride := numAt bs 32 8, outAddr := numAt bs 40 8, outStride := numAt bs 48 8
    space := numAt bs 56 1, op := numAt bs 64 1, format := numAt bs 65 1, level := numAt bs 66 1, windowLog := numAt bs 67 1
    inLen := numAt bs 70 5, outCap := numAt bs 75 5, rsvd := numAt bs 57 7 + numAt bs 68 2 + numAt bs 80 48 }

/-- R365: the engine block of a package job is zero. -/
def blockZero (j : JobRec) : Bool :=
  j.op == 0 && j.format == 0 && j.level == 0 && j.windowLog == 0 && j.inLen == 0 && j.outCap == 0

/-- R446: `n` bytes at `a` lie in device memory, where the bit of `space` says so, wholly within one host allocation. -/
def jobRange (s : State) (j : JobRec) (bit a n : Nat) : Bool := !j.space.testBit bit || inHostAlloc s a n

/-- R365, R446: the bytes that the frames of a package job span. -/
def spanOf (j : JobRec) (stride n : Nat) : Nat := (j.frames - 1) * stride + n

/-- R272, R328, R365, R446: why a job record of the expected sequence is not admitted (log 9). -/
def jobRefused (s : State) (j : JobRec) : Option Nat :=
  let bad := j.rsvd != 0 || decide (3 < j.space) || decide (3 < j.prio)
  if isEngineJob j then
    firstStatus [refuseIf (bad || !engineBlockOk j) stBadDescriptor,
      refuseIf (!jobRange s j 0 j.inAddr j.inLen || !jobRange s j 1 j.outAddr (j.outCap + 16)) stBadAddress]
  else if bad || decide (2 ^ 20 < j.frames) || !blockZero j then some stBadDescriptor
  else if j.frames = 0 then none
  else if slotState s j.pkgSlot ≠ 3 then some stNoPackage
  else
    match pkgOf s j.pkgSlot with
    | none => some stNoPackage
    | some p =>
      if p.kind ≠ 5 ∧ p.kind ≠ 6 then some stKindMismatch
      else
        match classOf p j.cls with
        | none => some stNoCostClass
        | some c =>
          let nIn := regionBytes c 2
          let nOut := regionBytes c 3
          firstStatus [refuseIf (!modeFits s p.mode) stModeMismatch,
            refuseIf ((c.regions.any fun d => d.source == 4 || d.source == 6) || decide (j.inStride < nIn) || decide (j.outStride < nOut))
              stBadDescriptor,
            refuseIf (!jobRange s j 0 j.inAddr (spanOf j j.inStride nIn) || !jobRange s j 1 j.outAddr (spanOf j j.outStride nOut)) stBadAddress]

/-- R442: what the mirror peer gets of an accepted job: its input where that lies in device memory, and the entry. -/
def mirrorJob (s : State) (e : JobEntry) : State :=
  let n := if isEngineJob e.job then e.job.inLen
    else spanOf e.job e.job.inStride (((pkgOf s e.job.pkgSlot).bind fun p => classOf p e.job.cls).map (regionBytes · 2) |>.getD 0)
  let s := if e.job.space.testBit 0 then toMirror s (.input (.job e.ring e.pos 0) (s.mem.read e.job.inAddr n)) else s
  toMirror s (.entry (.job e.ring e.pos 0) 1 0)

/-- R364, R366, R424: the record at the next position is accepted; one of a wrong sequence or that cannot be admitted completes, and
so does a job of no frames (R376). -/
def takeJob (s : State) (r : Nat) : State :=
  let x := ringRun s r
  let p := x.accepted
  let seq := wrap64 (ringReg s r 0x06 + p)
  let at' := ringReg s r 0x03 + ringSlot s r p * 128
  let j := parseJob (s.host.read at' 128)
  let bad := if j.seq ≠ seq then some stBadSequence else jobRefused s j
  let e : JobEntry := { ring := r, pos := p, job := j, state := 1, accepted := counterOf s, image := { seq, status := bad.getD stOk } }
  let s := setReg (putRing s r { x with accepted := p + 1 }) (ringIndex r) 0x08 (wrap64 (seq + 1))
  let s : State := { s with jobs := s.jobs ++ [e] }
  if bad.isSome then finishJob s e
  else
    let s := mirrorJob s e
    if !isEngineJob j && j.frames == 0 then finishJob s e else s

/-- R366: records from the next position up to a limit. -/
def takeJobs : Nat → State → Nat → Nat → State
  | 0, s, _, _ => s
  | fuel + 1, s, r, top => if (ringRun s r).accepted < top then takeJobs fuel (takeJob s r) r top else s

/-- R431: posted jobs whose completions have been read give their entries back. -/
def freeJobs (s : State) (r : Nat) : State :=
  let c := (ringRun s r).consumed
  { s with jobs := s.jobs.filter fun e => !(e.ring == r && e.state == 4 && decide (e.pos < c)) }

/-- R366, R424, R442: the positions of a ring that are accepted for good: the mirror peer has acknowledged them. -/
def durableTo (s : State) (r : Nat) : Nat :=
  minOf (ringRun s r).accepted (s.fabric.toMirror.filterMap fun i => match i with
    | .entry (.job q p _) st _ => if q = r ∧ st = 1 then some p else none
    | .entry (.frame _ _) _ _ => none
    | .input _ _ => none
    | .stateRegion _ _ _ _ => none
    | .object _ _ _ => none
    | .package _ _ => none)

/-- R366: the device index follows the accepted positions. -/
def showIndex (s : State) (r : Nat) : State :=
  let n := durableTo s r
  let x := ringRun s r
  if x.shown < n then putRing (hostWrite s (ringReg s r 0x02 + 16) (leBytes 8 n)) r { x with shown := n } else s

/-- One ring pair at a pass. A failed read is logged with the ring's index. -/
def passRing (failed : List Nat) (s : State) (r : Nat) : State :=
  if ringReg s r 0x05 = 0 ∨ ringReg s r 0x01 ≠ 0 then s
  else if failed.contains (ringIndex r) then logFault s 0x0091 0 0 0 0xFFFF (ringIndex r)
  else
    let x := ringRun s r
    let x := { x with consumed := Nat.max x.consumed (ringConsumed s r) }
    let s := freeJobs (putRing s r x) r
    let top := Nat.min (s.host.num (ringReg s r 0x02) 8) (x.consumed + ringReg s r 0x05)
    showIndex (takeJobs (ringReg s r 0x05) s r top) r

/-! ### Stream rings (R45, R373, R374, R376) -/

/-- The running context that takes its input from a stream ring. -/
def ringReader (s : State) (r : Nat) : Option Nat :=
  (runningCtxs s).find? fun k => ctxReg s k 0x26 == 2 && ctxReg s k 0x27 == r

/-- R374: does a descriptor hold nothing but a length that the host may give. -/
def descriptorOk (s : State) (k : Nat) (bs : List Byte) : Bool :=
  let n := numAt bs 8 8
  n != 0 && decide (n ≤ inputLen s k) && numAt bs 0 8 == 0 && numAt bs 16 8 == 0 && numAt bs 24 8 == 0

/-- R374: the next frame of an input ring; none while the stream store has no room for it. -/
def takeSlot (s : State) (r k : Nat) : Option State :=
  let x := sring s r
  let slot := x.index % Nat.max 1 (sringReg s r 0x06)
  let bs := s.host.read (sringReg s r 0x03 + slot * 32) 32
  let data := s.host.read (sringReg s r 0x04 + slot * sringReg s r 0x05) (numAt bs 8 8)
  let s' := putSring s r { x with index := x.index + 1 }
  if !descriptorOk s k bs then some (addReg s' (ctxIndex k) 0x42 1)
  else if takesInput s k ∧ !storeRoom s k data.length then none
  else some (stopWaiting (acceptInput s' k data 0 false false) k 2)

/-- As many frames of an input ring as the host has put there. -/
def takeSlots : Nat → State → Nat → Nat → State
  | 0, s, _, _ => s
  | fuel + 1, s, r, k =>
    if (sring s r).index < sringHost s r then
      match takeSlot s r k with
      | some s => takeSlots fuel s r k
      | none => waitPool s k 2
    else s

/-- R374: an input ring at a pass: frames, then the device index and its vector. -/
def passInput (s : State) (r k : Nat) : State :=
  let was := (sring s r).index
  let s := takeSlots (sringReg s r 0x06) s r k
  if (sring s r).index = was then s
  else raiseVector (hostWrite s (sringReg s r 0x02 + 16) (leBytes 8 (sring s r).index)) (16 + r % 32)

/-- R348, R374: the outputs of an output ring that the host index has passed are acknowledged. -/
def passOutput (s : State) (r : Nat) : State :=
  let n := sringHost s r
  let x := sring s r
  let s := putSring s r { x with acked := Nat.max x.acked n, put := x.put.filter fun e => decide (n ≤ e.1) }
  s.flows.foldl (fun s f => (f.2.held.filter fun h => h.sent && decide (h.msg < n) &&
    (match nget f.2.recs h.receiver with
      | some b => recvKind b == 3 && recvTarget b == r
      | none => false)).foldl (fun s h => ackHeld s f.1 h) s) s

/-- One stream ring at a pass. -/
def passSring (failed : List Nat) (s : State) (r : Nat) : State :=
  if sringReg s r 0x06 = 0 then s
  else if failed.contains (streamRingIndex r) then logFault s 0x0091 0 0 0 0xFFFF (streamRingIndex r)
  else if sringReg s r 0x01 = 1 then passOutput s r
  else match ringReader s r with
    | some k => passInput s r k
    | none => s

/-! ### The service loop (R46, R362, R366) -/

/-- R362: every vector that is due is sent once. -/
def sendVectors (s : State) : State :=
  { s with out := s.out ++ s.ctl.msix.map Emission.msix, ctl := { s.ctl with msix := [] } }

/-- One pass: job rings, stream rings, held outputs and reports, then the vectors; no DMA while it is not possible, no job while parked
(R480). A vector is a message, and no DMA, so it needs only the link (log 58). -/
def servicePass (s : State) (failed : List Nat) : State :=
  if !dmaOk s then if s.ctl.linkUp then sendVectors s else s
  else
    let s := if parked s then s else (List.range 16).foldl (passRing failed) s
    let s := if parked s then s else (List.range 64).foldl (passSring failed) s
    sendVectors (postReports ((s.flows.map (·.1)).foldl deliverFlow s))

/-- What the host has written into its own memory since the last pass. -/
def hostWrites (s : State) (ws : List (Nat × Byte)) : State :=
  { s with host := ws.foldl (fun m w => m.set (wrap64 w.1) w.2) s.host }

def execServiceLoopPass (writes : List (Nat × Byte)) (failedReads : List Nat) (s : State) : Host.Outcome State Fault Refusal :=
  whenControlled (hostWrites s writes) fun s => servicePass s failedReads

/-! ### BAR accesses (R358, R360) -/

/-- R360: a byte of BAR2. -/
def bar2Byte (s : State) (a : Nat) : Byte :=
  if inHostAlloc s a 1 || s.pkgs.any (fun e => decide (e.2.copy ≤ a) && decide (a < e.2.copy + e.2.len)) then s.mem.get a else 0xFF

def execBar2Read (offset length : Nat) (s : State) : Host.Outcome State Fault Refusal :=
  whenService s fun s => emit s (.hostRead ((List.range length).map fun i => bar2Byte s (offset + i)))

/-- R360: bytes within host allocations are written; any other is dropped, and the write logged at the first of them. -/
def writeBar2 (s : State) (a : Nat) (bs : List Byte) : State :=
  let kept := bs.zipIdx.filter fun b => inHostAlloc s (a + b.2) 1
  let lost := bs.zipIdx.filter fun b => !inHostAlloc s (a + b.2) 1
  let s := { s with mem := kept.foldl (fun m b => m.set (a + b.2) b.1) s.mem }
  match lost with
  | [] => s
  | b :: _ => logFault s 0x0090 0 0 0 0xFFFF (a + b.2)

def execBar2Write (offset : Nat) (data : List Byte) (s : State) : Host.Outcome State Fault Refusal :=
  whenService s fun s => writeBar2 s offset data

/-- R358: an access must be 4 or 8 bytes wide and naturally aligned. -/
def badAccess (offset width : Nat) : Bool := !((width == 4 || width == 8) && offset % width == 0)

def execBar0BadAccess (offset width : Nat) (s : State) : Host.Outcome State Fault Refusal :=
  .next (if portAlive s && badAccess offset width then emit s .unsupportedRequest else s)

/-! ### The port's own events (R436, R474, R479) -/

/-- PCIE_HOT_RESET (R436, R477): the port's configuration is lost, Bus Master Enable with it, so DMA waits for the host. -/
def hotReset (s : State) : State :=
  takeReset { s with ctl := { s.ctl with busMaster := false, d3hot := false } } 4

def execPcieHotReset (s : State) : Host.Outcome State Fault Refusal := .next (if portAlive s then hotReset s else s)

def execPciePowerStateChange (d3hot : Bool) (s : State) : Host.Outcome State Fault Refusal :=
  .next (if portAlive s then { s with ctl := { s.ctl with d3hot } } else s)

def execBusMasterEnable (on : Bool) (s : State) : Host.Outcome State Fault Refusal :=
  .next (if portAlive s then { s with ctl := { s.ctl with busMaster := on } } else s)

/-- Everything of a job leaves the tiles, the work table and the buffers. -/
def dropJobWorks (s : State) (e : JobEntry) : State :=
  let mine (id : WorkId) : Bool := match id with
    | .job r p _ => r == e.ring && p == e.pos
    | .frame _ _ => false
  (s.works.filter fun w => mine w.id).foldl (fun s w =>
    let s := match w.alloc with
      | some b => releaseRange s b
      | none => s
    dropWork { s with tiles := s.tiles.map (fun t => (t.1, dropFromTile w.id t.2)), images := s.images.filter (fun i => !(i.work == w.id))
                      syncWins := s.syncWins.filter fun x => !(x.work == w.id) } w.id) s

/-- HOST_DMA_ERROR (chapter 15, Ordering, errors and power states): a poisoned or timed-out read of a job's input in host memory ends the
job; no output is committed. -/
def dmaError (s : State) (work : WorkId) : State :=
  match work with
  | .frame _ _ => s
  | .job r p _ =>
    match findWork s work, findJob s r p with
    | some _, some e =>
      if e.job.space.testBit 0 ∨ 2 < e.state then s
      else finishJob (dropJobWorks s e) { e with image := { e.image with status := stHostDmaError } }
    | _, _ => s

def execHostDmaError (work : WorkId) (s : State) : Host.Outcome State Fault Refusal := whenControlled s fun s => dmaError s work

/-! ### The clusters and the control cores (R28, R29) -/

/-- HEARTBEAT (R29): one that does not arrive is missed; the standby counts those in a row. -/
def heartbeat (s : State) (arrived : Bool) : State :=
  match s.ctl.inCharge with
  | none => s
  | some c =>
    if s.ctl.clusterOk.getD (1 - c) false then { s with ctl := { s.ctl with missed := if arrived then 0 else s.ctl.missed + 1 } } else s

def execHeartbeat (arrived : Bool) (s : State) : Host.Outcome State Fault Refusal := whenService s fun s => heartbeat s arrived

/-- STANDBY_TAKEOVER (R29): after three missed heartbeats no cluster is in control until the next tick boundary. -/
def startTakeover (s : State) : State :=
  match s.ctl.inCharge with
  | none => s
  | some c =>
    if s.ctl.missed < 3 then s
    else { s with ctl := { s.ctl with inCharge := none, takeover := true, statusHeld := statusBits s, clusterOk := s.ctl.clusterOk.set c false } }

def execStandbyTakeover (s : State) : Host.Outcome State Fault Refusal := whenService s startTakeover

/-- The core that a role of a die is on, moves that wait for the boundary included. -/
def roleHolder (s : State) (die role : Nat) : Nat :=
  ngetD s.ctl.roleMoves (4 * die + role) (ngetD s.ctl.roles (4 * die + role) role)

/-- R28: the next surviving core after `core`. -/
def nextCore (s : State) (die core : Nat) : Option Nat :=
  [core + 1, core + 2, core + 3].find? (fun c => !s.ctl.coreDown.contains (4 * die + c % 4)) |>.map (· % 4)

/-- CONTROL_CORE_FAIL (R28): every role the core held moves at the next tick boundary. -/
def failCore (s : State) (die core : Nat) : State :=
  if die ≥ 8 ∨ core ≥ 4 ∨ s.ctl.coreDown.contains (4 * die + core) then s
  else
    let s := { s with ctl := { s.ctl with coreDown := s.ctl.coreDown ++ [4 * die + core] } }
    match nextCore s die core with
    | none => s
    | some c =>
      ((List.range 4).filter fun r => roleHolder s die r == core).foldl (fun s r =>
        { s with ctl := { s.ctl with roleMoves := nset s.ctl.roleMoves (4 * die + r) c } }) s

def execControlCoreFail (die core : Nat) (s : State) : Host.Outcome State Fault Refusal := whenService s fun s => failCore s die core

end Sys2Proof.Machine
end

