-- ==== Sys2Proof/Machine/Span.lean ====
section
/-! DEFINITION. Span groups: collectives, the tick barrier, peers lost and regained, and outputs from peers (R100, R102, R409 to R420). -/
namespace Sys2Proof.Machine
open Sys2Proof

/-! ### Combining contributions (R100, R411) -/

/-- R411: what every member fails with when op or count differ: a status that commits no output (log 41). -/
def disagreeStatus : Nat := 0x0200 + Config.collectiveStatus % 0x600

/-- Every element of a list that a function takes, or its first error. -/
def eachOk {α β : Type} (f : α → Except Nat β) : List α → Except Nat (List β)
  | [] => .ok []
  | a :: r =>
    match f a with
    | .error e => .error e
    | .ok b => match eachOk f r with
      | .error e => .error e
      | .ok l => .ok (b :: l)

/-- Records combined in rank order. -/
def combineAll : Acc → List Acc → Except Nat Acc
  | a, [] => .ok a
  | a, b :: r =>
    match combineAcc true a b with
    | .error e => .error e
    | .ok c => combineAll c r

/-- Record `i` of every contribution. -/
def recordsAt (anchored : Bool) (parts : List (List Byte)) (i : Nat) : Except Nat (List Acc) :=
  eachOk (fun bs => parseRecord anchored (sliceAt bs (i * recordSize anchored) (recordSize anchored))) parts

/-- R100: the sum of record `i`. -/
def sumRecord (anchored : Bool) (parts : List (List Byte)) (i : Nat) : Except Nat (List Byte) :=
  match recordsAt anchored parts i with
  | .error e => .error e
  | .ok [] => .ok []
  | .ok (a :: r) =>
    match combineAll a r with
    | .error e => .error e
    | .ok c => .ok (recordBytes anchored (some c))

/-- The anchor of a record. -/
def accAnchor : Acc → Option Int
  | .anch _ _ _ _ a => a
  | .exact _ _ _ => none
  | .high => none

/-- R411: record `i` of a member's own contribution with the largest anchor, 0x8000 losing; the other fields unchanged. -/
def anchorRecord (own : List Byte) (parts : List (List Byte)) (i : Nat) : Except Nat (List Byte) :=
  match recordsAt true parts i with
  | .error e => .error e
  | .ok l =>
    let r := sliceAt own (48 * i) 48
    let a := match (l.map accAnchor).foldl maxAnchor none with
      | none => 0x8000
      | some e => codeOf 16 e
    .ok (r.take 36 ++ leBytes 2 a ++ r.drop 38)

/-- R82: element `i`, the largest of the members', and whether one is a NaN. -/
def maxElement (fmt : Nat) (parts : List (List Byte)) (i : Nat) : List Byte × Bool :=
  let n := fmtBytes fmt
  let vs := parts.map fun bs => decodeF fmt (numAt bs (i * n) n)
  match vs with
  | [] => ([], false)
  | v :: r =>
    let m := r.foldl (fExtreme true) v
    (leBytes n (convertF fmt fmt 0 m).1, vs.any (·.isNan))

/-- R411: the result that a member whose contribution is `own` writes, and the flags the operation raises. -/
def collectiveResult (c : CollRec) (own : List Byte) (parts : List (List Byte)) : Except Nat (List Byte × Nat) :=
  let idx := List.range c.count
  if parts.any fun p => p.length != c.count * collUnit c then .error disagreeStatus
  else if c.op = 1 then (eachOk (anchorRecord own parts) idx).map fun l => (l.flatMap id, 0)
  else if c.op = 2 ∨ c.op = 3 then (eachOk (sumRecord (c.op == 3) parts) idx).map fun l => (l.flatMap id, 0)
  else if c.op = 4 then
    match parts[c.root]? with
    | some b => .ok (b, 0)
    | none => .error disagreeStatus
  else
    let l := idx.map (maxElement c.fmt parts)
    .ok (l.flatMap (·.1), flagIf (l.any (·.2)) fInvalid)

/-! ### A collective of a frame (R410 to R412) -/

/-- The rank of this device in the group of a work, and the number of ranks; a work of no group stands alone. -/
def rankOf (s : State) (work : WorkId) : Nat × Nat :=
  match work with
  | .frame k _ =>
    match spanGroupOf s k with
    | some (_, ranks) => (ranks.findIdx (· == ownAddress s), ranks.length)
    | none => (0, 1)
  | .job _ _ _ => (0, 1)

/-- R412: the kept result of a collective: bytes, status, and the flags that it raised (R85). -/
def keptResult (s : State) (work : WorkId) (i : Nat) : Option (List Byte × Nat × Nat) :=
  (s.fabric.results.find? fun r => r.1 == work && r.2.1 == i).map fun r => r.2.2

/-- The collective record `i` of a work that core 3 of its die may run now: operation `op`, the earlier records of its run done, its wait
satisfied. -/
def collReady (s : State) (work : WorkId) (i op : Nat) : Option (Work × CollRec) :=
  match findWork s work with
  | none => none
  | some w =>
    match (pkgOf s w.slot).bind fun p => (classOf p w.cls).map fun c => (p, c) with
    | none => none
    | some (p, c) =>
      match c.colls[i]? with
      | none => none
      | some g =>
        let before := (List.range i).filter fun x => (c.colls[x]?.map (·.run)) == some g.run
        if g.op ≠ op ∨ s.ctl.recovering = some w.die ∨ w.stopped ∨ w.result.isSome ∨ dispatchHeld s w ∨ w.colls.any (fun x => x.1 == i) then none
        else if before.any fun x => !w.colls.any fun y => y.1 == x then none
        else if (p.nSync > 0 ∧ (syncBase s work).isNone) ∨ (g.ctl.testBit 7 ∧ !waitDone s work g.waitObj g.waitCount) then none
        else some (w, g)

/-- The deliveries of collective `i` (R168). -/
def collPart (i : Nat) : Nat := 2 ^ 21 + i

/-- Where the bytes of a collective lie. -/
def collBase (w : Work) (g : CollRec) : Nat := ((regionOf w (g.loc / 2 ^ 40)).map (·.base)).getD 0 + g.loc % 2 ^ 40

/-- R410, R411: the result stands at loc and its signal is delivered; a collective that fails ends its run. -/
def endCollective (s : State) (w : Work) (g : CollRec) (i : Nat) (r : List Byte × Nat) (flags : Nat) : State :=
  let rest := if r.2 = stOk then [] else
    match (pkgOf s w.slot).bind fun p => classOf p w.cls with
    | some c => ((List.range c.colls.length).filter fun x => decide (i < x) && (c.colls[x]?.map (·.run)) == some g.run).map fun x => (x, stOk)
    | none => []
  let s := putWork s { w with colls := w.colls ++ [(i, r.2)] ++ rest, flags := w.flags ||| flags, started := true }
  if r.2 ≠ stOk then s
  else
    let s := { s with mem := s.mem.write (collBase w g) r.1 }
    if g.ctl.testBit 6 then deliver s w.id (collPart i) 0 g.sigObj else s

/-- R411: the ranks of the subtree of a rank, itself among them, and its children: rank r sends to rank (r − 1) div 2. -/
def subtree (n r : Nat) : List Nat :=
  let up (x : Nat) : Nat := if x = r then r else (x - 1) / 2
  (List.range n).filter fun x => up (up (up (up (up (up x))))) == r
def childRanks (n r : Nat) : List Nat := [2 * r + 1, 2 * r + 2].filter fun x => decide (x < n)

/-- R411: what a member sends up the tree: the contributions of its subtree combined, of a broadcast the root's bytes where it is among them. -/
def subtreeBytes (g : CollRec) (own : List Byte) (all : List (List Byte)) (ranks : List Nat) : List Byte :=
  if g.op = 4 then (if ranks.contains g.root then all.getD g.root [] else [])
  else match collectiveResult g own (ranks.map fun r => all.getD r []) with
    | .ok x => x.1
    | .error _ => []

/-- R102, R411: the messages of a member: the combination of its subtree to its parent, and the result to its children. -/
def sendCollective (s : State) (work : WorkId) (g : CollRec) (own : List Byte) (all : List (List Byte)) (result : List Byte) : State :=
  match work with
  | .job _ _ _ => s
  | .frame k j =>
    match spanGroupOf s k with
    | none => s
    | some (grp, addrs) =>
      let (rank, n) := rankOf s work
      let s := if rank = 0 then s
        else emit s (.collective (addrs.getD ((rank - 1) / 2) 0xFFFF) grp g.tag j (subtreeBytes g own all (subtree n rank)))
      (childRanks n rank).foldl (fun s c => emit s (.collective (addrs.getD c 0xFFFF) grp g.tag j result)) s

/-- Context, ranks of span group `g`. -/
def groupOf (s : State) (g : Nat) : Option (Nat × List Nat) :=
  let b := getBlob s 0x4100 (0x12 + g)
  let n := numAt b 2 1
  if g < 32 ∧ n ≥ 2 then some (numAt b 0 2, (List.range n).map fun r => numAt b (4 + 2 * r) 2) else none

/-- The last member to enter: (address, time in ns). -/
def lastEntry (l : List (Nat × Nat)) : Nat × Nat := l.foldl (fun b e => if b.2 < e.2 then e else b) (l.headD (0, 0))

/-- R414: the last member of a group to enter, and how long this member waited for it, in ns; those of `entries` that are members count. -/
def groupWait (s : State) (ranks : List Nat) (entries : List (Nat × Nat)) : Nat × Nat :=
  let all := entries.filter fun e => ranks.contains e.1
  let last := lastEntry all
  let mine := ((all.find? fun e => e.1 == ownAddress s).map (·.2)).getD last.2
  (last.1, last.2 - mine)

/-- R414: that wait, in microseconds, is added to the late member's slot and to #4100.10, and logged when it is longer than a tick. -/
def noteGroupWait (s : State) (g : Nat) (ranks : List Nat) (entries : List (Nat × Nat)) : State :=
  let (late, wait) := groupWait s ranks entries
  if wait = 0 then s
  else
    let r := ranks.findIdx (· == late)
    let slots := padTo 512 (getBlob s 0x4100 (0x32 + g))
    let s := setBlob s 0x4100 (0x32 + g) (slots.take (8 * r) ++ leBytes 8 (numAt slots (8 * r) 8 + wait / 1000) ++ slots.drop (8 * r + 8))
    let s := addReg s 0x4100 0x10 (wait / 1000)
    if period s < 3 * wait then logFault s 0x0106 0 0 0 0xFFFF (g * 65536 + late) else s

/-- R414: the wait at a collective of a frame of a group. -/
def noteCollWait (s : State) (work : WorkId) (times : List (Nat × Nat)) : State :=
  match work with
  | .job _ _ _ => s
  | .frame k _ =>
    match spanGroupOf s k with
    | some (g, ranks) => noteGroupWait s g ranks times
    | none => s

/-- R411, R412: a collective that every member has entered. The first run keeps its result; a replay takes the kept one. -/
def runCollective (s : State) (work : WorkId) (i op : Nat) (e : Entered) : State :=
  match collReady s work i op with
  | none => s
  | some (w, g) =>
    if g.count = 0 then endCollective s w g i ([], stOk) 0
    else
      match keptResult s work i with
      | some r => endCollective s w g i (r.1, r.2.1) r.2.2
      | none =>
        let (rank, n) := rankOf s work
        if e.others.length + 1 ≠ n then s
        else
          let own := s.mem.read (collBase w g) (g.count * collUnit g)
          let all := e.others.take rank ++ [own] ++ e.others.drop rank
          let (r, flags) := match collectiveResult g own all with
            | .ok x => ((x.1, stOk), x.2)
            | .error e => (([], e), 0)
          let s := sendCollective (noteCollWait s work e.times) work g own all r.1
          let s := { s with fabric := { s.fabric with results := s.fabric.results ++ [(work, i, r.1, r.2, flags)] } }
          endCollective s w g i r flags

def execCollectiveMaxAnchors (work : WorkId) (record : Nat) (others : Entered) (s : State) : Host.Outcome State Fault Refusal :=
  whenService s fun s => runCollective s work record 1 others
def execCollectiveSumExact (work : WorkId) (record : Nat) (others : Entered) (s : State) : Host.Outcome State Fault Refusal :=
  whenService s fun s => runCollective s work record 2 others
def execCollectiveSumAnchored (work : WorkId) (record : Nat) (others : Entered) (s : State) : Host.Outcome State Fault Refusal :=
  whenService s fun s => runCollective s work record 3 others
def execCollectiveBroadcast (work : WorkId) (record : Nat) (others : Entered) (s : State) : Host.Outcome State Fault Refusal :=
  whenService s fun s => runCollective s work record 4 others
def execCollectiveElementwiseMax (work : WorkId) (record : Nat) (others : Entered) (s : State) :
    Host.Outcome State Fault Refusal :=
  whenService s fun s => runCollective s work record 5 others

/-! ### The tick barrier (R412 to R414) -/

/-- TICK_BARRIER (R413): this member's frames of rounds up to `n` have committed, and every member has entered; the kept results of
committed frames go. -/
def passBarrier (s : State) (g n : Nat) (entries : List (Nat × Nat)) : State :=
  match groupOf s g with
  | none => s
  | some (k, ranks) =>
    let busy := s.works.any fun w => match w.id with
      | .frame c _ => c == k && decide (w.issued ≤ n)
      | .job _ _ _ => false
    let all := ranks.all fun a => entries.any fun e => e.1 == a
    if busy ∨ !all ∨ n < ngetD s.fabric.barrier g 0 then s
    else
      let s := noteGroupWait s g ranks entries
      let live (id : WorkId) : Bool := match id with
        | .frame c _ => c != k || (findWork s id).isSome
        | .job _ _ _ => true
      { s with fabric := { s.fabric with barrier := nset s.fabric.barrier g (n + 1), results := s.fabric.results.filter fun r => live r.1 } }

def execTickBarrier (group n : Nat) (entries : List (Nat × Nat)) (s : State) : Host.Outcome State Fault Refusal :=
  whenControlled s fun s => passBarrier s group n entries

/-- SPAN_GROUP_BLOB (R409): what a member sends as its context starts. -/
def takeBlob (s : State) (g m : Nat) (blob : List Byte) (modes : Nat) : State :=
  if g ≥ 32 ∨ m = ownAddress s then s
  else
    let rest := s.fabric.blobs.filter fun b => !(b.1 == g && b.2.1 == m)
    { s with fabric := { s.fabric with blobs := rest ++ [(g, m, blob, modes)], gone := s.fabric.gone.filter (· != m) } }

def execSpanGroupBlob (group member : Nat) (blob : List Byte) (modes : Nat) (s : State) : Host.Outcome State Fault Refusal :=
  whenControlled s fun s => takeBlob s group member blob modes

/-! ### Peers (R250, R416, R443) -/

/-- PEER_LOST (R416): no route at 8 tick boundaries in a row. -/
def losePeer (s : State) (p : Nat) : State :=
  if ngetD s.fabric.missing p 0 < 8 ∨ s.fabric.lost.contains p then s
  else
    let s := { s with fabric := { s.fabric with lost := s.fabric.lost ++ [p], gone := if s.fabric.gone.contains p then s.fabric.gone else s.fabric.gone ++ [p] } }
    losePartner (logFault (addReg s 0x4100 0x11 1) 0x0103 0 0 0 0xFFFF p) p

def execPeerLost (peer : Nat) (s : State) : Host.Outcome State Fault Refusal := whenControlled s fun s => losePeer s peer

/-- PEER_REGAINED (R416, R443): a route exists again; a mirror peer that returns is synchronised again. -/
def regainPeer (s : State) (p : Nat) : State :=
  if !s.fabric.lost.contains p ∨ !reachable s p then s
  else
    let s := { s with fabric := { s.fabric with lost := s.fabric.lost.filter (· != p), missing := ndel s.fabric.missing p } }
    let s := logFault s 0x0104 0 0 0 0xFFFF p
    if getReg s 0x4100 0x09 = p ∧ getReg s 0x4000 0x08 = 3 then startMirror s else s

def execPeerRegained (peer : Nat) (s : State) : Host.Outcome State Fault Refusal := whenControlled s fun s => regainPeer s peer

/-! ### Outputs from peers (R349, R419, R437) -/

/-- FABRIC_OUTPUT_MESSAGE (R419): the context of the sender's number takes the output as its next input, if it is fed by that sender;
frames at or below the last one accepted are discarded and acknowledged (R437). -/
def takePeerOutput (s : State) (sender flow k j : Nat) (data : List Byte) : State :=
  if k ≥ maxCtx ∨ ctxReg s k 0x26 ≠ 3 ∨ ctxReg s k 0x27 ≠ sender then s
  else if !takesInput s k then addReg s (ctxIndex k) 0x3D 1
  else if (ctxOf s k).lastFrom.any fun l => decide (j ≤ l) then ackTo s sender flow
  else if !storeRoom s k data.length then waitPool s k 2
  else
    let taken := entryFree s k (ctxOf s k).nextIn
    let s := stopWaiting (acceptInput s k data 0 false false) k 2
    if taken then ackTo (putCtx s k { ctxOf s k with lastFrom := some j }) sender flow else s

def execFabricOutputMessage (sender flow ctx j : Nat) (data : List Byte) (s : State) : Host.Outcome State Fault Refusal :=
  whenControlled s fun s => takePeerOutput s sender flow ctx j data

end Sys2Proof.Machine
end

