-- ==== Sys2Proof/Machine/Start.lean ====
section
/-! DEFINITION. Power, resets, the start sequence and its journal, park, identity and attestation, and recovery from the mirror (R144, R427,
R435, R436, R444, R462, R463, R468 to R488, R493 to R496, R502). -/
namespace Sys2Proof.Machine
open Sys2Proof

/-! ### What is lost (R476 to R478) -/

/-- The row of the subentry that a key of `Dict` names. -/
def keyObj (key : Nat) : Option Obj := findObj (key / 256) (key % 256)

/-- Is a key of class f, or of class f or w. -/
def keyKept (w : Bool) (key : Nat) : Bool :=
  match keyObj key with
  | some o => o.pers == .f || (w && o.pers == .w)
  | none => false

/-- Is a key's subentry writable by software as rw or rwi, of class v, or of class w too. -/
def keyShadowed (w : Bool) (key : Nat) : Bool :=
  match keyObj key with
  | some o => (o.access == .rw || o.access == .rwi) && (o.pers == .v || (w && o.pers == .w))
  | none => false

/-- R478: the indices with such a subentry at a value other than its default: only those are listed. -/
def changedIndices (s : State) (w : Bool) : List Nat :=
  ((((s.dict.regs.map (·.1)) ++ s.dict.blobs.map (·.1)).filter (keyShadowed w)).map (· / 256)).eraseDups

/-- The dictionary with class v lost, class w too unless it is kept. -/
def keptDict (d : Dict) (w : Bool) : Dict :=
  let regs := d.regs.filter fun e => keyKept w e.1
  { regs, blobs := d.blobs.filter fun e => keyKept w e.1, inForce := regs }

/-- R478: the reverted-settings bitmap gains the indices that the loss of class v (and of class w) reverts. -/
def noteReverted (s : State) (w : Bool) : State :=
  let new := (changedIndices s w).filter fun i => !s.ctl.reverted.contains i
  { s with ctl := { s.ctl with reverted := s.ctl.reverted ++ new } }

/-- The timebase with its settings in force again. -/
def restartClock (s : State) (now : Nat) : State :=
  { s with clk := { now, rate := getReg s 0x2000 0x01, free := getReg s 0x2000 0x02 } }

/-- Power, or PERST# without retention, has taken everything but what flash, the manifest and the VSTBY domain hold (R477). -/
def loseAll (s : State) : State :=
  let s := noteReverted s true
  let ctl : Control :=
    { resetKind := s.ctl.resetKind, lossOfW := s.ctl.lossOfW, vstbyOff := s.ctl.vstbyOff, phase := s.ctl.phase, tripped := s.ctl.tripped
      reverted := s.ctl.reverted, revertAll := s.ctl.revertAll, linksOut := s.ctl.linksOut, readmits := s.ctl.readmits
      excluded := s.ctl.excluded, custRsa := s.ctl.custRsa, custExp := s.ctl.custExp, manifest := s.ctl.manifest, copyA := s.ctl.copyA
      copyB := s.ctl.copyB, helper := s.ctl.helper, journal := s.ctl.journal
      counterTop := getReg s 0x1100 0x09 }
  restartClock
    { pending := s.pending, dict := keptDict s.dict false, host := s.host, ctl, libero := s.libero
      protect := { spared := s.protect.spared, migrating := s.protect.migrating, migratedWhy := s.protect.migratedWhy }, out := s.out, free := s.free } 0

/-! ### Supplies and PERST# (R474, R475, R493 to R496) -/

/-- POWER_LOSS (R494): all supplies are removed. -/
def execPowerLoss (s : State) : Host.Outcome State Fault Refusal :=
  .next (if s.ctl.phase = .off then s
    else loseAll { s with ctl := { s.ctl with phase := .off, lossOfW := true } })

/-- POWER_ON (R462, R474, R478): supplies are applied; a thermal trip holds until VSTBY has been removed. -/
def powerUp (s : State) (vstbyHeld : Bool) : State :=
  if s.ctl.phase ≠ .off ∧ s.ctl.phase ≠ .halted ∧ s.ctl.phase ≠ .failed then s
  else
    let s := if s.ctl.phase = .off then s else loseAll s
    if s.ctl.tripped.isSome ∧ vstbyHeld then { s with ctl := { s.ctl with phase := .halted } }
    else
      let off := s.ctl.vstbyOff || !vstbyHeld
      { s with ctl := { s.ctl with phase := .reset, resetKind := 0, lossOfW := true, vstbyOff := off } }

def execPowerOn (vstbyHeld : Bool) (s : State) : Host.Outcome State Fault Refusal := .next (powerUp s vstbyHeld)

/-- R473: event 0x08 closes every open begin of the last start, which is in progress or stopped where a unit locked up. -/
def abandonStart (s : State) : State :=
  let n := getReg s 0x1200 0x06
  let mine := s.ctl.journal.filter fun e => e.start == n
  let closed (b : JournalEntry) : Bool := mine.any fun e =>
    e.step == b.step && e.kind == b.kind && e.unit == b.unit && decide (b.sequence < e.sequence) && (e.event == 2 || e.event == 3 || e.event == 8)
  (mine.filter fun b => b.event == 1 && !closed b).foldl (fun s b => addJournal s b.step b.kind b.unit 8 0) s

/-- PERST_ASSERT (R474, R475): a running start is abandoned; the stacks enter self-refresh. After a lost rail or before the first start
nothing changes (R496). -/
def assertPerst (s : State) : State :=
  if !portAlive s ∨ (s.ctl.phase = .failed ∧ s.ctl.lossOfW) then s
  else
    let s := abandonStart s
    { s with ctl := { s.ctl with phase := .reset, resetKind := if getReg s 0x4000 0x06 = 1 then 2 else 1, inCharge := none, recovering := none
                                 recoverQ := [], busMaster := false, d3hot := false } }

def execPerstAssert (s : State) : Host.Outcome State Fault Refusal := .next (assertPerst s)

/-- R502: is a load or unload of slot `k` that had not completed undone. -/
def undoSlot (s : State) (k : Nat) : State :=
  let st := slotState s k
  if st = 1 ∨ st = 2 then
    let s := match pkgOf s k with
      | some p => releaseRange s p.copy
      | none => s
    let unbind (e : Nat × FnSlot) : Nat × FnSlot := (e.1, { e.2 with binders := e.2.binders.filter (· != k), next := if e.2.binders = [k] then none else e.2.next })
    let s := { s with pkgs := ndel s.pkgs k, fns := s.fns.map unbind }
    setSlotStatus (setSlotState (showPackage s k none) k 0) k stCancelled
  else if st = 4 then
    let stay (p : Pkg) : Pkg := { p with leaving := false }
    let s := { s with pkgs := s.pkgs.map fun e => (e.1, if e.1 = k then stay e.2 else e.2) }
    setSlotStatus (setSlotState s k 3) k stCancelled
  else s

/-- R193, R502: a function slot at a warm start: a switch that a command asked for is given up, one that a loaded package needs is made;
parts that run again keep the bank that they were issued with. -/
def settleFn (s : State) (k : Nat) : State :=
  let f := fnSlot s k
  if f.next.isSome ∧ !f.byCmd then switchFunction s k else putFnSlot s k { f with next := none, byCmd := false, shown := false }

/-- R223, R477, R502: the CDF banks built anew: what was in force in bank 0 at generation 0, and in bank 1 the sets of a held bank while
work that runs again is bound to it. -/
def rebuildBanks (s : State) : State :=
  let a := s.cdf.active
  let keep := s.cdf.held.contains (1 - a) && bankBound s (1 - a)
  let old : Bank := if keep then s.cdf.banks.getD (1 - a) {} else {}
  { s with cdf := { banks := [{ sets := (s.cdf.banks.getD a {}).sets }, { sets := old.sets }], held := if keep then [1] else [] }
           works := s.works.map fun w => { w with bank := if w.bank = a then 0 else 1 } }

/-- R502: what a warm start abandons. `s0` is the state before it, whose command statuses say what was pending. -/
def abandonCommands (s0 s : State) : State :=
  let s := (((s.dict.regs.map (·.1)).filter fun k => k % 256 == 1 && decide (0x7000 ≤ k / 256) && decide (k / 256 ≤ 0x7FFF)).map fun k => k / 256 - 0x7000).foldl
    undoSlot s
  let key (q : QueueItem) : Bool := match q with
    | .key _ _ _ => true
    | .load _ _ _ => false
    | .unload _ => false
  let s := rebuildBanks { s with queue := s.queue.filter key }
  let s := if getReg s0 0x5200 0x0D = stPending then setReg s 0x5200 0x0D stCancelled else s
  let s := (s.fns.map (·.1)).foldl settleFn s
  let s := if getReg s0 0x5100 0x25 = stPending then setReg s 0x5100 0x25 stCancelled else s
  let s := if s0.media.filterNext.isSome then setReg s 0x6100 0x09 stCancelled else s
  { s with media := { s.media with filterNext := none } }

/-- What of class v follows from the contexts that run on: home dies and the sources of flows; receivers that were benched rejoin with
the next sweep. -/
def resumeCtxs (s0 s : State) : State :=
  let s := (runningCtxs s).foldl (fun s k => ownFlows (setReg s (ctxIndex k) 0x38 (getReg s0 (ctxIndex k) 0x38)) k k) s
  let rejoin (x : Flow) : Flow := { x with ready := (x.recs.map (·.1)).filter fun r => !x.active.contains r }
  { s with flows := s.flows.map fun (e : Nat × Flow) => (e.1, rejoin e.2) }

/-- R427: where the scorebook's copies lie, and that one is still to be rebuilt, is shown again (log 73). -/
def resumeCopies (s0 s : State) : State :=
  let s := setReg s 0x4000 0x05 (getReg s0 0x4000 0x05)
  if s.protect.rebuild.isSome then setReg s 0x4000 0x04 1 else s

/-- R477: a warm start has lost class v, every unit's state and the links; class w, memory, the scorebook and the loaded packages and
tables stay. -/
def loseVolatile (s0 : State) : State :=
  let s := noteReverted s0 false
  let now := s.clk.now
  let ctl : Control :=
    { s.ctl with missed := 0, takeover := false, recovering := none, recoverQ := [], identity := none, reqToken := 0, respToken := 0
                 response := [], msix := [] }
  let fabric : Fabric :=
    { flowsIn := s.fabric.flowsIn, kept := s.fabric.kept, nextMsg := s.fabric.nextMsg, results := s.fabric.results
      barrier := s.fabric.barrier, mirror := s.fabric.mirror, toMirror := s.fabric.toMirror, gone := s.fabric.gone }
  let empty (e : Nat × Window) : Nat × Window := (e.1, { e.2 with filled := false })
  let s : State :=
    { s with dict := keptDict s.dict true, ctl, tiles := [], flags := [], images := [], cache := [], sync := [], syncWins := [], lanes := []
             windows := (s.windows.map fun w => (empty (0, w)).2), cores := [], power := {}, fabric, traceAt := 0
             media := { s.media with spilled := [], waiters := [] } }
  resumeCtxs s0 (abandonCommands s0 (restartClock (resumeCopies s0 s) now))

/-- PERST_DEASSERT (R474, R495): the kind of start that follows: a power-on, or PERST# without or with retention; retention whose
supplies were not held is a power-on. -/
def releasePerst (s : State) (vmemHeld : Bool) : State :=
  if s.ctl.phase ≠ .reset then s
  else
    let kind := if s.ctl.resetKind = 2 ∧ !vmemHeld then 0 else s.ctl.resetKind
    if kind = 2 then takeReset { loseVolatile s with ctl := { (loseVolatile s).ctl with phase := .starting, kind := .warm, resetKind := 2 } } 2
    else
      let s := settleCopies (loseAll s)
      let off := kind = 0 ∧ s.ctl.vstbyOff
      let s := { s with ctl := { s.ctl with phase := .starting, kind := .cold, resetKind := kind, lossOfW := false, vstbyOff := false
                                            revertAll := s.ctl.revertAll || decide off } }
      takeReset (if off then setReg s 0x1200 0x0A 1 else s) kind

def execPerstDeassert (vmemHeld : Bool) (s : State) : Host.Outcome State Fault Refusal := .next (releasePerst s vmemHeld)

/-- STBY_OK_FALL (R496): every clock stops; the next start is a power-on whose history is unknown. -/
def execStbyOkFall (s : State) : Host.Outcome State Fault Refusal :=
  .next (if s.ctl.phase = .off then s
    else { s with ctl := { s.ctl with phase := .halted, lossOfW := true, vstbyOff := true, inCharge := none } })

/-- MAIN_OK_FALL (R496): with PERST# deasserted a lost rail; which one it does not say. -/
def execMainOkFall (s : State) : Host.Outcome State Fault Refusal :=
  .next (if portAlive s then { s with ctl := { s.ctl with phase := .failed, lossOfW := true, inCharge := none } } else s)

/-! ### Commands of #1200.01 (R474, R475, R480) -/

def resetStatus (s : State) (st : Nat) : State := setReg s 0x1200 0x03 st

/-- WARM_RESET. -/
def warmReset (s : State) : State :=
  if !inService s ∨ parked s then resetStatus s stBadState
  else
    let s := loseVolatile (resetStatus (abandonStart s) stOk)
    takeReset { s with ctl := { s.ctl with phase := .starting, kind := .warm, resetKind := 3, inCharge := none } } 3

def execWarmReset (s : State) : Host.Outcome State Fault Refusal :=
  .next (if controlled s || s.ctl.phase == .starting then warmReset s else s)

/-- A die's work is stopped and will run again (R436, R474). The sticky flags of its tiles, which only a write clears, stay (R86, R477). -/
def stopDie (s : State) (d : Nat) : State :=
  let s := takeReset { s with ctl := { s.ctl with recovering := some d } } 5
  let s := logFault s 0x020B 2 14 d 0xFFFF d
  let onDie (e : Nat × Tile) : Bool := dieOfTile e.1 == d
  let wipe (w : Window) : Window := if w.die = d then { w with filled := false } else w
  let s := replayWorks s (dieShare s d)
  { s with tiles := s.tiles.filter (fun e => !onDie e), cache := ndel s.cache d
           lanes := s.lanes.filter (fun e => e.1 / 16 != d), windows := s.windows.map wipe }

/-- A die recovery is taken, or queued behind the one that runs (R475). -/
def recoverDie (s : State) (d : Nat) : State :=
  if s.ctl.recovering.isSome then { s with ctl := { s.ctl with recoverQ := s.ctl.recoverQ ++ [d] } } else stopDie s d

/-- DIE_RECOVERY: of the die in #1200.02. -/
def dieCommand (s : State) : State :=
  if !inService s ∨ parked s then resetStatus s stBadState else recoverDie (resetStatus s stOk) (getReg s 0x1200 0x02)

def execDieRecovery (s : State) : Host.Outcome State Fault Refusal :=
  .next (if controlled s || s.ctl.phase == .starting then dieCommand s else s)

/-- BRIDGE_ERROR (R19). -/
def execBridgeError (bridge : Nat) (s : State) : Host.Outcome State Fault Refusal :=
  whenService s fun s => if bridge < 14 then recoverDie (logFault s 0x0010 2 11 bridge 0xFFFF bridge) (bridgeDie bridge) else s

/-- R480: what keeps the part from park. -/
def parkRefused (s : State) : Bool :=
  !inService s || parked s || !(runningCtxs s).isEmpty || s.jobs.any (fun e => decide (e.state < 4)) || !s.queue.isEmpty
  || s.cdf.pending.isSome || !s.cdf.waiting.isEmpty || s.fns.any (fun e => e.2.next.isSome) || s.media.filterNext.isSome
  || s.protect.migrating.isSome || s.ctl.recovering.isSome

/-- PARK_ENTER (R480). -/
def enterPark (s : State) : State :=
  if parkRefused s then resetStatus s stBadState else setReg (resetStatus s stOk) 0x1200 0x10 1

def execParkEnter (s : State) : Host.Outcome State Fault Refusal :=
  .next (if controlled s || s.ctl.phase == .starting then enterPark s else s)

/-- PARK_ENTERED (R480, R488): the units are gated and the stacks in self-refresh. -/
def execParkEntered (s : State) : Host.Outcome State Fault Refusal :=
  whenControlled s fun s =>
    if getReg s 0x1200 0x10 = 1 then logFault (setReg s 0x1200 0x10 2) 0x0406 0 0 0 0xFFFF 0 else s

/-- PARK_LEAVE (R474, R480). -/
def leavePark (s : State) : State :=
  if !inService s ∨ getReg s 0x1200 0x10 ≠ 2 then resetStatus s stBadState
  else takeReset (setReg (resetStatus s stOk) 0x1200 0x10 3) 6

def execParkLeave (s : State) : Host.Outcome State Fault Refusal :=
  .next (if controlled s || s.ctl.phase == .starting then leavePark s else s)

/-- READMIT (R470, R486): a stack mapped out at a start, or a link that policy disabled, takes part in the next start. -/
def readmit (s : State) (v : Nat) : State :=
  let kind := v / 65536
  let unit := v % 65536
  let ok := (kind = 3 ∧ unit < 24 ∧ getReg s (stackIndex unit) 0x01 = 3) ∨ (kind = 4 ∧ s.ctl.linksOut.contains unit)
  if ok then
    let s := setReg s 0x1200 0x0F stOk
    if s.ctl.readmits.contains (kind, unit) then s else { s with ctl := { s.ctl with readmits := s.ctl.readmits ++ [(kind, unit)] } }
  else setReg s 0x1200 0x0F stBadState

def execReadmit (value : Nat) (s : State) : Host.Outcome State Fault Refusal :=
  .next (if controlled s || s.ctl.phase == .starting then readmit s value else s)

/-- CLEAR_REVERTED (R478). -/
def clearReverted (s : State) : State := { s with ctl := { s.ctl with reverted := [], revertAll := false } }

def execClearReverted (s : State) : Host.Outcome State Fault Refusal :=
  .next (if controlled s || s.ctl.phase == .starting then clearReverted s else s)

/-! ### The journal's policy (R470, R473) -/

/-- The entries of the start before the present one. -/
def lastStart (s : State) : List JournalEntry := s.ctl.journal.filter fun e => e.start + 1 == getReg s 0x1200 0x06

/-- R473: did a unit's begin of that start have no matching end. -/
def unended (prev : List JournalEntry) (step kind unit : Nat) : Bool :=
  prev.foldl (fun b e => if e.step = step ∧ e.kind = kind ∧ e.unit = unit then
    (if e.event = 1 then true else if e.event = 2 ∨ e.event = 3 ∨ e.event = 8 then false else b) else b) false

/-- What a unit's step came to: state, passed, and whether the start stops there. -/
abbrev StepEnd := State × Bool × Bool

/-- How `found` names a unit finer than its step's journal unit: tiles, lanes, cores, engines. -/
def fineUnit (kind unit : Nat) : Nat := kind * 4096 + unit

/-- One unit of a step (R472): begin, what it does, end with a detail where it fails; the current step is shown during a start. Power loss or a
lock-up at the unit leaves its begin open and the start where it is. -/
def runUnitWith (detail : Nat) (found : StartFindings) (step kind unit name : Nat) (act : State → StepEnd) (acc : State × Bool) : State × Bool :=
  if acc.2 then acc
  else
    let s := acc.1
    let s := if s.ctl.phase = .starting then setReg s 0x1200 0x07 (step * 65536 + unit) else s
    let s := addJournal s step kind unit 1 0
    if found.lockedAt = some (step, name) then (s, true)
    else
      let (s, passed, stop) := act s
      let s := if passed then addJournal s step kind unit 2 0 else addJournal s step kind unit 3 detail
      let s := if passed then s else logFault s 0x0401 (if stop then 2 else 0) kind unit 0xFFFF (step * 65536 + unit)
      (if stop then { s with ctl := { s.ctl with phase := .failed, inCharge := none } } else s, stop)

def runUnit (found : StartFindings) (step kind unit name : Nat) (act : State → StepEnd) (acc : State × Bool) : State × Bool :=
  runUnitWith 0 found step kind unit name act acc

/-- A step's units one after another. -/
def runUnits (f : Nat → State × Bool → State × Bool) (units : List Nat) (acc : State × Bool) : State × Bool :=
  units.foldl (fun a u => if a.2 then a else f u a) acc

/-- An entry beside a unit's begin and end. -/
def noteUnit (step kind unit event detail : Nat) (acc : State × Bool) : State × Bool :=
  if acc.2 then acc else (addJournal acc.1 step kind unit event detail, false)

def failsAt (found : StartFindings) (step unit : Nat) : Bool := found.failed.contains (step, unit)
def failsTwice (found : StartFindings) (step unit : Nat) : Bool := found.failed.contains (step, unit) && found.failedTwice.contains (step, unit)

/-- The unit passes or fails and nothing else follows. -/
def plainUnit (bad : Bool) (s : State) : StepEnd := (s, !bad, false)

/-! ### Steps 0x01 to 0x05 -/

/-- Step 0x01: a cluster that fails is not used; the one in control is cluster 0, or cluster 1 when 0 did not end its test last time or
fails now. -/
def stepClusters (found : StartFindings) (prev : List JournalEntry) (acc : State × Bool) : State × Bool :=
  let order := if unended prev 1 12 0 then [1, 0] else [0, 1]
  let one (u : Nat) (acc : State × Bool) : State × Bool :=
    runUnit found 1 12 u u (fun s =>
      let bad := failsAt found 1 u
      ({ s with ctl := { s.ctl with clusterOk := s.ctl.clusterOk.set u (!bad) } }, !bad, false)) acc
  let acc := runUnits one order acc
  if acc.2 then acc
  else
    let s := acc.1
    match order.find? fun u => s.ctl.clusterOk.getD u false with
    | some c => ({ s with ctl := { s.ctl with inCharge := some c } }, false)
    | none => ({ s with ctl := { s.ctl with phase := .failed, inCharge := none } }, true)

/-- R469: how many tiles of a die a bitmap of the manifest marks. -/
def marksOn (tiles : List Nat) (d : Nat) : Nat := (tiles.filter fun t => t / 48 == d).length

/-- R469: a manifest copy by its content: magic, format, stepping, reserved fields, spare and disabled tiles, the digest of the helper
data. -/
def manifestFits (s : State) (m : Manifest) : Bool :=
  m.magic == 0x4D4E4654 && m.format == 1 && m.stepping == 2 && m.rsvd == 0
  && (List.range 8).all (fun d => marksOn m.spare d == 4 && marksOn m.disabled d == (if m.grade = 0 then 0 else 4))
  && m.disabled.all (fun t => !m.spare.contains t) && m.helperHash == sha384 s.ctl.helper

/-- R469: is a copy accepted: its content, and both signatures. -/
def acceptsA (s : State) (found : StartFindings) : Bool := found.copyAOk && manifestFits s s.ctl.copyA
def acceptsB (s : State) (found : StartFindings) : Bool := found.copyBOk && manifestFits s s.ctl.copyB
def manifestOk (s : State) (found : StartFindings) : Bool := acceptsA s found || acceptsB s found

/-- Step 0x02 (R469): copy A first, or copy B first after a begin with no end; the copy accepted is the manifest in force. -/
def stepManifest (found : StartFindings) (prev : List JournalEntry) : State × Bool → State × Bool :=
  runUnit found 2 0 0 0 fun s =>
    let bFirst := unended prev 2 0 0
    let ok := manifestOk s found
    let useB := acceptsB s found && (bFirst || !acceptsA s found)
    let s := if !bFirst && !acceptsA s found && acceptsB s found then logFault s 0x0403 0 0 0 0xFFFF 0 else s
    let m := if useB then s.ctl.copyB else if ok then s.ctl.copyA else s.ctl.manifest
    ({ s with ctl := { s.ctl with manifest := m } }, ok, !ok)

/-- R470: the voltage tables of the manifest go to the VCORE regulators. -/
def sendTables (s : State) : State :=
  (List.range 8).foldl (fun s d => emit s (.avsTable d ((List.range 16).map (pointOf s d)))) s

/-- Step 0x03 (R450): a rail that is not right stops the start; a warm start only checks. -/
def stepSupplies (found : StartFindings) (prev : List JournalEntry) (acc : State × Bool) : State × Bool :=
  let acc := if unended prev 3 0 0 then noteUnit 3 0 0 5 0 acc else acc
  runUnit found 3 0 0 0 (fun s => (if s.ctl.kind = .cold then sendTables s else s, !failsAt found 3 0, failsAt found 3 0)) acc

/-- R481: the identity keys are derived and shown. -/
def deriveIdentity (s : State) : State :=
  let k := Config.identityKey s.ctl.manifest.serial
  let s := setReg { s with ctl := { s.ctl with identity := some k } } 0x1300 0x01 1
  setBlob (setBlob s 0x1300 0x02 (padTo 48 ((Config.identityPublic false k).take 48))) 0x1300 0x03 (padTo 48 ((Config.identityPublic true k).take 48))

/-- Step 0x04 (R481): a failure leaves the part without identity; after a begin with no end it is skipped. -/
def stepIdentity (found : StartFindings) (prev : List JournalEntry) (acc : State × Bool) : State × Bool :=
  if unended prev 4 0 0 then noteUnit 4 0 0 4 0 acc
  else runUnit found 4 0 0 0 (fun s =>
    if failsAt found 4 0 then (logFault (setReg s 0x1300 0x01 2) 0x0404 0 0 0 0xFFFF 0, false, false)
    else (deriveIdentity s, true, false)) acc

/-- Step 0x05 (R17, R470): a bridge trains at full width, with its spare lanes in place of at most two failed ones, else at half width;
after a begin with no end at half width only. -/
def stepBridges (found : StartFindings) (prev : List JournalEntry) (units : List Nat) : State × Bool → State × Bool :=
  runUnits (fun b acc =>
    let half := unended prev 5 11 b
    let acc := if half then noteUnit 5 11 b 5 0 acc else acc
    runUnit found 5 11 b b (fun s =>
      let full := !half && !failsAt found 5 b && lanesSpared found b
      let bad := !full && (if half then failsAt found 5 b else found.failedTwice.contains (5, b))
      let run : Bridge := { half := !full, spared := if full then failedLanes found b else [] }
      ({ s with ctl := { s.ctl with bridges := nset s.ctl.bridges b run } }, !bad, bad)) acc) units

/-! ### Steps 0x06 and 0x07: the stacks -/

/-- R470: a start excludes a unit: later starts skip it and journal that. -/
def exclude (s : State) (kind unit : Nat) : State :=
  if s.ctl.excluded.contains (kind, unit) then s else { s with ctl := { s.ctl with excluded := s.ctl.excluded ++ [(kind, unit)] } }

/-- R470: the units of some kinds and of a die that earlier starts excluded are journaled as skipped. -/
def noteSkipped (step : Nat) (mine : Nat × Nat → Bool) (acc : State × Bool) : State × Bool :=
  (acc.1.ctl.excluded.filter mine).foldl (fun acc u => noteUnit step u.1 u.2 4 0 acc) acc

/-- R470: a stack leaves the part at a start. -/
def mapOut (s : State) (step k : Nat) : State :=
  let s := addJournal (setReg s (stackIndex k) 0x01 3) step 3 k 6 0
  loseCopy (logFault s 0x0402 1 3 k 0xFFFF (step * 65536 + k)) k

/-- A stack that a re-admission brings back (R470). -/
def readmitStack (s : State) (k : Nat) : State :=
  if s.ctl.readmits.contains (3, k) then
    let s := { s with ctl := { s.ctl with readmits := s.ctl.readmits.filter (· != (3, k)) } }
    addJournal (setReg s (stackIndex k) 0x01 0) 6 3 k 7 0
  else s

/-- Step 0x06: a stack trains, at the second failure it is mapped out; one whose training did not end last time is trained alone after
the others, and one failure maps it out. -/
def stepStacks (found : StartFindings) (prev : List JournalEntry) (units : List Nat) (acc : State × Bool) : State × Bool :=
  let late (k : Nat) : Bool := unended prev 6 3 k
  runUnits (fun k acc =>
    let acc := if acc.2 then acc else (readmitStack acc.1 k, false)
    if stackState acc.1 k ≥ 2 then noteUnit 6 3 k 4 0 acc
    else
      let acc := if late k then noteUnit 6 3 k 5 0 acc else acc
      runUnit found 6 3 k k (fun s =>
        let bad := if late k then failsAt found 6 k else failsTwice found 6 k
        (if bad then mapOut s 6 k else s, !bad, false)) acc) ((units.filter fun k => !late k) ++ units.filter late) acc

/-- R439, R470: a row that fails the stack test is spared, while the stack has a spare row. -/
def spareTested (s : State) (k row : Nat) : State :=
  if getReg s (stackIndex k) 0x04 ≥ 8192 then s
  else
    let s := addReg s (stackIndex k) 0x04 1
    logFault { s with protect := { s.protect with spared := s.protect.spared ++ [(k, row)] } } 0x0200 0 3 k 0xFFFF row

/-- Step 0x07: the rows that fail are spared; a stack that fails with no spare left is mapped out. -/
def stepStackTest (found : StartFindings) (prev : List JournalEntry) : State × Bool → State × Bool :=
  runUnits (fun k acc =>
    if stackState acc.1 k ≥ 2 then acc
    else
      let again := unended prev 7 3 k
      let acc := if again then noteUnit 7 3 k 5 0 acc else acc
      runUnit found 7 3 k k (fun s =>
        let rows := (found.badRows.filter fun e => e.1 == k).map (·.2)
        let bad := failsAt found 7 k || !rows.isEmpty
        if failsTwice found 7 k ∨ (bad ∧ getReg s (stackIndex k) 0x04 + rows.length > 8192) then (mapOut s 7 k, false, false)
        else (rows.foldl (fun s r => spareTested s k r) s, !bad, false)) acc) (List.range 24)

/-! ### Steps 0x08 and 0x09: tiles and the other units -/

/-- The tiles of a die that are in use. -/
def dieTiles (s : State) (d : Nat) : List Nat :=
  ((List.range 48).map fun i => 48 * d + i).filter fun t => !tileDisabled s t && !tileRetired s t

/-- A tile that a start excludes is retired (R144). -/
def outTile (s : State) (t : Nat) : State := exclude (retireTile s t) 1 t

/-- R240: the first layer of the self-test network whose scorecard differs on a failing tile. -/
def firstLayer (found : StartFindings) (t : Nat) : Nat := ((found.layers.find? fun e => e.1 == t).map (·.2)).getD 0

/-- R240: a failing tile of a die in normal form is reported with that layer and is out (log 71). -/
def reportTile (found : StartFindings) (s : State) (t : Nat) : State := outTile (addJournal s 8 1 t 3 (firstLayer found t)) t

/-- Step 0x08 on one die (R144, R240): in normal form all its tiles at once; alternate form, after a begin of the die with no end, tile by
tile; a tile whose own begin had no end is retired and the die runs in normal form. -/
def stepTiles (found : StartFindings) (prev : List JournalEntry) (d : Nat) (acc : State × Bool) : State × Bool :=
  if acc.2 then acc
  else
    let acc := noteSkipped 8 (fun u => u.1 == 1 && u.2 / 48 == d) acc
    let hung := (dieTiles acc.1 d).filter fun t => unended prev 8 1 t
    let acc := (hung.foldl (fun s t => logFault (outTile s t) 0x0402 1 1 t 0xFFFF (8 * 65536 + t)) acc.1, false)
    if hung = [] ∧ unended prev 8 14 d then
      let acc := noteUnit 8 14 d 5 0 acc
      runUnits (fun t acc => runUnitWith (firstLayer found t) found 8 1 t (fineUnit 1 t) (fun s =>
        let bad := failsAt found 8 (fineUnit 1 t)
        (if bad then outTile s t else s, !bad, false)) acc) (dieTiles acc.1 d) acc
    else
      runUnit found 8 14 d d (fun s =>
        let bad := (dieTiles s d).filter fun t => failsAt found 8 (fineUnit 1 t)
        (bad.foldl (reportTile found) s, bad = [], false)) acc

/-- A unit of step 0x09 that fails is retired (R227, R322, R332). -/
def retireFine (s : State) (u : Nat × Nat) : State :=
  exclude (if u.1 = 2 then retireLane s u.2 else retireUnit s (u.1 - 7) u.2) u.1 u.2

/-- The lanes of a compute die, or the codec cores, scalers and engines of a media die (8: MD0, 9: MD1): (unit kind, unit). -/
def testedUnits (s : State) (d : Nat) : List (Nat × Nat) :=
  if d < 8 then (((List.range 16).map fun i => 16 * d + i).filter fun l => !laneRetired s l).map fun l => (2, l)
  else [0, 1, 2, 3].flatMap fun k =>
    (((List.range (unitsPerDie k)).map fun i => (d - 8) * unitsPerDie k + i).filter fun u => !(retiredBits s k).testBit u).map fun u => (7 + k, u)

/-- Step 0x09 on one die: all its units at once, or one by one after a begin with no end. -/
def stepUnits (found : StartFindings) (prev : List JournalEntry) (d : Nat) (acc : State × Bool) : State × Bool :=
  if acc.2 then acc
  else
    let acc := noteSkipped 9 (fun u => if d < 8 then u.1 == 2 && u.2 / 16 == d else decide (7 ≤ u.1) && u.2 / unitsPerDie (u.1 - 7) == d - 8) acc
    let us := testedUnits acc.1 d
    if unended prev 9 14 d || us.any (fun u => unended prev 9 u.1 u.2) then
      let acc := noteUnit 9 14 d 5 0 acc
      us.foldl (fun acc u => runUnit found 9 u.1 u.2 (fineUnit u.1 u.2) (fun s =>
        let bad := failsAt found 9 (fineUnit u.1 u.2)
        (if bad then retireFine s u else s, !bad, false)) acc) acc
    else
      runUnit found 9 14 d d (fun s =>
        let bad := us.filter fun u => failsAt found 9 (fineUnit u.1 u.2)
        (bad.foldl retireFine s, bad = [], false)) acc

/-! ### Steps 0x0A to 0x0D -/

/-- Step 0x0A (R441): a package copy whose digest differs is lost. -/
def checkCopy (s : State) (p : Pkg) : Pkg :=
  if sha384 (s.mem.read p.copy (p.len - sigBlockLen)) = p.digest then p else { p with lost := true }

def stepTables (found : StartFindings) : State × Bool → State × Bool :=
  runUnit found 10 0 0 0 fun s =>
    ({ s with pkgs := s.pkgs.map fun (e : Nat × Pkg) => (e.1, checkCopy s e.2) }, !failsAt found 10 0, false)

/-- Step 0x0B: a port that fails is down. -/
def stepPorts (found : StartFindings) : State × Bool → State × Bool :=
  runUnits (fun p acc =>
    if getReg acc.1 (portIndex p) 0x01 = 0 then acc
    else runUnit found 11 6 p p (fun s =>
      let bad := failsAt found 11 p
      (setReg s (portIndex p) 0x02 (if bad then 0 else 1), !bad, false)) acc) (List.range 4)

/-- Step 0x0C (R403) on one link: it trains, at a reduced preset the second time; after a begin with no end at the reduced preset only,
and then a failure disables it until its enable subentry is written. -/
def stepLink (found : StartFindings) (prev : List JournalEntry) (i : Nat) (acc : State × Bool) : State × Bool :=
  if acc.2 then acc
  else
    let s := acc.1
    let back := s.ctl.readmits.contains (4, i)
    let s := if back then
        addJournal { s with ctl := { s.ctl with readmits := s.ctl.readmits.filter (· != (4, i)), linksOut := s.ctl.linksOut.filter (· != i) } } 12 4 i 7 0
      else s
    if getReg s (linkIndex i) 0x01 = 0 then (setLinkState s i 0, false)
    else if s.ctl.linksOut.contains i then noteUnit 12 4 i 4 0 (setLinkState s i 0, false)
    else
      let low := unended prev 12 4 i
      let acc := if low then noteUnit 12 4 i 5 0 (s, false) else (s, false)
      runUnit found 12 4 i i (fun s =>
        let bad := if low then failsAt found 12 i else failsTwice found 12 i
        if bad ∧ low then
          let s := { setLinkState s i 0 with ctl := { s.ctl with linksOut := s.ctl.linksOut ++ [i] } }
          (logFault (addJournal s 12 4 i 6 0) 0x0402 1 4 i 0xFFFF (12 * 65536 + i), false, false)
        else
          let fresh : Link := { reduced := low || failsAt found 12 i }
          (setLinkState (putLink s i fresh) i (if bad then 3 else 2), !bad, false)) acc

/-- Step 0x0D (R404, R405): discovery begins; a device that hears no neighbour is alone. -/
def stepDiscovery (found : StartFindings) : State × Bool → State × Bool :=
  runUnit found 13 0 0 0 fun s => let s := findRoot s; (countReachable (setReg s 0x4100 0x06 (fabricState s)), true, false)

/-! ### Steps 0x0E and 0x0F -/

/-- Both copies of the scorebook are unreadable: no accepted work is known any more. -/
def loseJournal (s : State) : State :=
  logFault { setReg s 0x4000 0x04 2 with jobs := [], frames := [], works := [] } 0x0207 2 0 0 0xFFFF 0

/-- Step 0x0E (R435, R436, R444): recovery from the scorebook, or from a mirror peer after class w was lost. -/
def stepScorebook (found : StartFindings) (cold : Bool) : State × Bool → State × Bool :=
  runUnit found 14 0 0 0 fun s =>
    let s := if cold then (if getReg s 0x4100 0x09 = 0xFFFF then s else setReg s 0x4000 0x08 4)
      else if found.copiesOk then replayAll { s with carried := !s.works.isEmpty } else loseJournal s
    (s, cold || found.copiesOk, false)

/-- A thermal trip of the time before is counted and logged (R462). -/
def noteTrip (s : State) : State :=
  match s.ctl.tripped with
  | some u => logFault (addReg { s with ctl := { s.ctl with tripped := none } } 0x3000 0x18 1) 0x0303 2 0 u 0xFFFF u
  | none => s

/-- What class v holds of the settings again: the mirror's state, the umpire's, the source on the internal oscillator. -/
def resumeModes (s : State) : State :=
  let s := if getReg s 0x4100 0x09 ≠ 0xFFFF ∧ getReg s 0x4000 0x08 ≠ 4 then startMirror s else s
  if getReg s 0x5020 0x01 ≠ 0 then enableUmpire s else s

/-- Step 0x0F: service. -/
def stepService (found : StartFindings) : State × Bool → State × Bool :=
  runUnit found 15 0 0 0 fun s =>
    let s := setReg { s with ctl := { s.ctl with phase := .service } } 0x1200 0x08 found.timeMs
    (resumeModes (logFault (noteTrip s) 0x0400 0 0 0 0xFFFF found.timeMs), true, false)

/-! ### START_SEQUENCE (R470) -/

/-- A start is counted (R486). -/
def countStart (s : State) : State := addReg s 0x1200 0x06 1

/-- A cold or a warm start. -/
def runStart (s : State) (found : StartFindings) : State :=
  let cold := s.ctl.kind == .cold
  let s := restartClock (countStart s) (s.clk.now + 3000000 * found.timeMs)
  let prev := lastStart s
  let s := if !found.shadowOk then setReg { s with ctl := { s.ctl with revertAll := true } } 0x1200 0x0A 1 else s
  let acc := stepClusters found prev (s, false)
  let acc := if acc.2 then acc else (retireDue acc.1, false)
  let acc := stepSupplies found prev (stepManifest found prev acc)
  let acc := stepBridges found prev (List.range 14) (stepIdentity found prev acc)
  let acc := stepStacks found prev (List.range 24) acc
  let acc := if cold then stepStackTest found prev acc else acc
  let acc := (List.range 8).foldl (fun acc d => stepTiles found prev d acc) acc
  let acc := (List.range 10).foldl (fun acc d => stepUnits found prev d acc) acc
  let acc := if cold then acc else stepTables found acc
  let acc := stepPorts found acc
  let acc := (List.range 96).foldl (fun acc i => stepLink found prev i acc) acc
  let acc := stepService found (stepScorebook found cold (stepDiscovery found acc))
  if acc.1.ctl.phase = .service then setReg acc.1 0x1200 0x07 0 else acc.1

/-- Steps 0x0E and 0x0F of a die recovery, whose work was set to run again when it began, and of leaving park, where none exists. -/
def plainStep (found : StartFindings) (step : Nat) : State × Bool → State × Bool :=
  runUnit found step 0 0 0 fun s => plainUnit (failsAt found step 0) s

/-- Die recovery of one die; the next die that waits is then taken (R474, R475). -/
def runRecovery (s : State) (d : Nat) (found : StartFindings) : State :=
  let s := countStart s
  let prev := lastStart s
  let acc := stepStacks found prev [3 * d, 3 * d + 1, 3 * d + 2] (stepBridges found prev (dieBridges d) (s, false))
  let acc := stepTables found (stepUnits found prev d (stepTiles found prev d acc))
  let acc := ((List.range 12).map fun i => 12 * d + i).foldl (fun acc i => stepLink found prev i acc) acc
  let acc := plainStep found 15 (plainStep found 14 acc)
  if acc.2 then acc.1
  else
    let s := { acc.1 with ctl := { acc.1.ctl with recovering := none } }
    let s := setReg (logFault s 0x0400 0 14 d 0xFFFF found.timeMs) 0x1200 0x08 found.timeMs
    match s.ctl.recoverQ with
    | [] => s
    | n :: r => stopDie { s with ctl := { s.ctl with recoverQ := r } } n

/-- Leaving park (R474, R480). -/
def runLeave (s : State) (found : StartFindings) : State :=
  let s := countStart s
  let prev := lastStart s
  let acc := stepStacks found prev (List.range 24) (s, false)
  let acc := (List.range 8).foldl (fun acc d => stepTiles found prev d acc) acc
  let acc := (List.range 10).foldl (fun acc d => stepUnits found prev d acc) acc
  let acc := plainStep found 15 (plainStep found 14 (stepTables found acc))
  if acc.2 then acc.1 else logFault (setReg (setReg acc.1 0x1200 0x10 0) 0x1200 0x08 found.timeMs) 0x0407 0 0 0 0xFFFF 0

/-- START_SEQUENCE: the start that a reset has begun, a die recovery, or the way out of park. -/
def runSequence (s : State) (found : StartFindings) : State :=
  if s.ctl.phase = .starting then runStart s found
  else if !controlled s then s
  else match s.ctl.recovering with
    | some d => runRecovery s d found
    | none => if getReg s 0x1200 0x10 = 3 then runLeave s found else s

def execStartSequence (found : StartFindings) (s : State) : Host.Outcome State Fault Refusal := .next (runSequence s found)

/-! ### Recovery from the mirror (R444) -/

/-- The awaited packages of #4000.09: slot and digest. -/
def awaited (s : State) : List (Nat × List Byte) :=
  (chunksOf 50 ((getBlob s 0x4000 0x09).length) (getBlob s 0x4000 0x09)).map fun b => (numAt b 0 2, b.drop 2)

/-- The frames of a context that its peer kept: number, input, recorded card of a committed one. -/
def restoredFrames (s : State) (k : Nat) : List (Nat × List Byte × Option Nat) :=
  s.fabric.restored.filterMap fun i => match i with
    | .entry (.frame c j) st card =>
      if c = k then
        let data := s.fabric.restored.findSome? fun x => match x with
          | .input w bs => if w = .frame k j then some bs else none
          | .entry _ _ _ => none
          | .stateRegion _ _ _ _ => none
          | .object _ _ _ => none
          | .package _ _ => none
        some (j, data.getD [], if st = 3 then some card else none)
      else none
    | .entry (.job _ _ _) _ _ => none
    | .input _ _ => none
    | .stateRegion _ _ _ _ => none
    | .object _ _ _ => none
    | .package _ _ => none

/-- A context that ran when the mirror was last fed runs again: buffers, state regions, and the frames it had accepted, to be issued in
order. -/
def restoreCtx (s : State) (k : Nat) : State :=
  let st := ctxState s k
  let next := ctxReg s k 0x39
  let frames := restoredFrames s k
  let j0 := (frames.map (·.1)).foldl Nat.min next
  let j1 := (frames.map fun f => f.1 + 1).foldl Nat.max next
  let s := enterRunning s k ((peakCharge s k).getD {})
  if ctxState s k ≠ 3 then s
  else
    let s := setCtxState (setReg s (ctxIndex k) 0x39 j0) k st
    let ins := frames.map fun f => ({ j := f.1, bytes := f.2.1, complete := true } : InFrame)
    let s := putCtx s k { ctxOf s k with inputs := if ctxReg s k 0x26 = 0 ∨ ctxReg s k 0x26 = 4 then [] else ins, nextIn := j1, firstJ := j0 }
    let s := { s with frames := s.frames ++ frames.map fun f => { ctx := k, j := f.1, state := 1, oldCard := f.2.2 } }
    let put (m : Memory) (i : MirrorItem) : Memory := match i with
      | .stateRegion c r b bs => if c = k then m.write (stateBase (ctxOf s k) b r) bs else m
      | .entry _ _ _ => m
      | .input _ _ => m
      | .object _ _ _ => m
      | .package _ _ => m
    { s with mem := s.fabric.restored.foldl put s.mem }

/-- A job that was accepted is fetched again from its slot in host memory (R444) and runs from its beginning; its input in device memory
is put back. -/
def restoreJob (s : State) (r p st card : Nat) : State :=
  let run := ringRun s r
  let s := { putRing s r { run with accepted := p } with jobs := s.jobs.filter fun e => !(e.ring == r && e.pos == p) }
  let s := takeJob s r
  let s := putRing s r { ringRun s r with accepted := Nat.max run.accepted (p + 1), posted := if st = 4 then Nat.max run.posted (p + 1) else run.posted }
  match findJob s r p with
  | some e =>
    let input := s.fabric.restored.findSome? fun x => match x with
      | .input w bs => if w = .job r p 0 then some bs else none
      | .entry _ _ _ => none
      | .stateRegion _ _ _ _ => none
      | .object _ _ _ => none
      | .package _ _ => none
    let s := match input with
      | some bs => { s with mem := s.mem.write e.job.inAddr bs }
      | none => s
    if st = 3 ∧ e.state < 3 then putJob s { e with oldCard := some card } else s
  | none => s

def restoreJobs (s : State) : State :=
  s.fabric.restored.foldl (fun s i => match i with
    | .entry (.job r p _) st card => restoreJob s r p st card
    | .entry (.frame _ _) _ _ => s
    | .input _ _ => s
    | .stateRegion _ _ _ _ => s
    | .object _ _ _ => s
    | .package _ _ => s) s

/-- MIRROR_RECOVERY (R444): every awaited package is loaded; entries, inputs and state buffers are taken and replayed, and the mirror
synchronises. A peer that holds no mirror of this part leaves the journal lost. -/
def recoverMirror (s : State) : State :=
  if getReg s 0x4000 0x08 ≠ 4 then s
  else if s.fabric.restored = [] ∧ getBlob s 0x4000 0x09 = [] then
    startMirror (logFault (setReg s 0x4000 0x04 2) 0x0207 2 0 0 0xFFFF 0)
  else if (awaited s).any fun a => slotState s a.1 != 3 || ((pkgOf s a.1).map (·.digest)) != some a.2 then s
  else
    let ks := ((s.dict.regs.filter fun e => e.1 % 256 == 2 && decide (0x8000 ≤ e.1 / 256) && decide (e.1 / 256 ≤ 0xBFFF) && runningState e.2).map
      fun e => e.1 / 256 - 0x8000)
    let s := setReg (setBlob s 0x4000 0x09 []) 0x4000 0x08 1
    let n := s.fabric.restored.length
    let s := restoreJobs (deliverAll (ks.foldl restoreCtx s))
    let s := { s with fabric := { s.fabric with restored := [] } }
    startMirror (logFault (addReg s 0x4000 0x0A n) 0x0206 0 0 0 0xFFFF n)

def execMirrorRecovery (s : State) : Host.Outcome State Fault Refusal := whenControlled s recoverMirror

/-! ### Attestation (R485) -/

/-- R485: the mode bits of a report. -/
def reportModes (s : State) : Nat :=
  let b (v : Bool) (i : Nat) : Nat := if v then 2 ^ i else 0
  b (getReg s 0x5000 0x01 == 1) 0 + b (getReg s 0x5000 0x02 == 1) 1 + b (getReg s 0x3000 0x02 == 1) 2 + b (getReg s 0x1100 0x07 == 1) 3
    + b (getReg s 0x1100 0x0A == 1) 4 + b (getReg s 0x5020 0x01 != 0) 5 + b (getReg s 0x4000 0x08 == 2) 6

/-- The SHA-384 of an enrolled customer key, zero where there is none. -/
def customerHash (s : State) (slh : Bool) : List Byte :=
  if getReg s 0x1300 0x04 = 0 then List.replicate 48 0
  else if slh then sha384 (getBlob s 0x1300 0x06) else padTo 48 (getBlob s 0x1300 0x05)

/-- R485: bytes 0 … 255 + 56n of a report. -/
def reportBody (s : State) : List Byte :=
  let ps := s.pkgs.filter fun e => slotState s e.1 == 3
  leBytes 4 0x41545354 ++ leBytes 2 1 ++ leBytes 2 (reportModes s) ++ leBytes 8 s.ctl.manifest.serial ++ leBytes 2 (getReg s 0x1000 0x06)
    ++ leBytes 2 (getReg s 0x1000 0x07) ++ leBytes 2 ps.length ++ leBytes 2 0 ++ leBytes 8 (counterOf s) ++ padTo 32 (getBlob s 0x1300 0x0C)
    ++ padTo 48 s.ctl.manifest.hash ++ customerHash s false ++ customerHash s true ++ List.replicate 48 0
    ++ ps.flatMap fun e => leBytes 2 e.1 ++ List.replicate 6 0 ++ padTo 48 e.2.digest

/-- ATTESTATION_REPORT: command 0x01 of #1300.0F (log 9 for the order of its refusals). -/
def attest (s : State) : State :=
  match (if getReg s 0x1300 0x01 = 1 then s.ctl.identity else none) with
  | none => setReg s 0x1300 0x10 stNoIdentity
  | some k =>
    let body := reportBody s
    let n := body.length + 384 + 35664
    let a := getReg s 0x1300 0x0D
    if getReg s 0x1300 0x0E < n then setReg s 0x1300 0x10 stOutputOverflow
    else if badRange s a n then setReg s 0x1300 0x10 stBadAddress
    else
      let d := sha384 body
      let (x, s) := fresh s
      let sig := padTo 384 ((Config.identitySign false k x d).take 384) ++ padTo 35664 ((Config.identitySign true k x d).take 35664)
      setReg (setReg { s with mem := s.mem.write a (body ++ sig) } 0x1300 0x11 n) 0x1300 0x10 stOk

def execAttestationReport (s : State) : Host.Outcome State Fault Refusal :=
  .next (if controlled s || s.ctl.phase == .starting then attest s else s)

end Sys2Proof.Machine
end

