-- ==== Sys2Proof/Machine/Dictionary.lean ====
section
/-! DEFINITION. Requests to the object dictionary: what each subentry reads as, the checks of a write and what it does, and the
Dictionary Transfer Protocol with its three transports (R33, R44, R51, R87, R377 to R398 and the owning tables). -/
namespace Sys2Proof.Machine
open Sys2Proof

/-! ### Abort codes (R387) -/

def abMalformed : Nat := 0x0D000001
def abCounter : Nat := 0x0D000004
def abNoIndex : Nat := 0x0D000010
def abNoSub : Nat := 0x0D000011
def abBadOp : Nat := 0x0D000012
def abReadWo : Nat := 0x0D000020
def abWriteRo : Nat := 0x0D000021
def abNotIdle : Nat := 0x0D000022
def abOrigin : Nat := 0x0D000023
def abLength : Nat := 0x0D000030
def abRange : Nat := 0x0D000031
def abUtf8 : Nat := 0x0D000032
def abConflict : Nat := 0x0D000034
def abBeyond : Nat := 0x0D000035
def abTooLong : Nat := 0x0D000036
def abNotApplied : Nat := 0x0D000040
def abBusy : Nat := 0x0D000050
def abFlash : Nat := 0x0D000051

/-! ### What a subentry reads as -/

/-- ASCII bytes. -/
def asciiBytes (t : String) : List Byte := t.toList.map fun c => BitVec.ofNat 8 c.toNat

/-- #1000 (R389). -/
def identityValue (s : State) (sub : Nat) : Option (List Byte) :=
  let m := s.ctl.manifest
  if sub = 0x01 then some (asciiBytes "Yaring Microsystems")
  else if sub = 0x02 then some (asciiBytes "PX-9624")
  else if sub = 0x03 then some (leBytes 1 m.grade)
  else if sub = 0x05 then some (leBytes 8 m.serial)
  else if sub = 0x08 then some (padTo 48 (m.hash.take 48))
  else if sub = 0x09 then some (leBytes 2 m.vendorId)
  else if sub = 0x0A then some (leBytes 2 (nominalTiles s))
  else if sub = 0x0B then some (tileBitmap m.spare)
  else if sub = 0x0C then some (tileBitmap m.disabled)
  else if sub = 0x0E then some (beBytes 6 m.mgmtMac)
  else none

/-- R396: the 32 bytes of a fault-log entry. -/
def logBytes (e : LogEntry) : List Byte :=
  leBytes 2 e.code ++ leBytes 1 e.severity ++ leBytes 1 e.kind ++ leBytes 2 e.unit ++ leBytes 2 e.ctx ++ leBytes 8 e.sequence
    ++ leBytes 8 e.detail ++ leBytes 8 e.tick

/-- R472: the 16 bytes of a start-journal entry. -/
def journalBytes (e : JournalEntry) : List Byte :=
  leBytes 1 e.step ++ leBytes 1 e.kind ++ leBytes 2 e.unit ++ leBytes 1 e.event ++ leBytes 3 e.detail ++ leBytes 4 e.sequence ++ leBytes 4 e.start

/-- R478: indices with an rw or rwi subentry of class v or w. -/
def revertible (index : Nat) : Bool :=
  match recordOf index with
  | some c => (objsOf c).any fun o => (o.access == .rw || o.access == .rwi) && (o.pers == .v || o.pers == .w)
  | none => false

/-- R478: the bitmap of #1200.09. -/
def revertedBitmap (s : State) : List Byte :=
  (List.range 8192).map fun b => BitVec.ofNat 8
    (((List.range 8).map fun i =>
      if s.ctl.reverted.contains (8 * b + i) || (s.ctl.revertAll && revertible (8 * b + i)) then 2 ^ i else 0).foldl (· + ·) 0)

/-- #2000.08 (R59). -/
def sourceState (s : State) : Nat :=
  ((List.range 3).map fun k =>
    let x := tickSource s (k + 1)
    16 ^ k * ((if (getReg s 0x2000 0x04).testBit k then 1 else 0) + (if x.qualified then 2 else 0) + (if x.holdover then 4 else 0))).foldl (· + ·) 0
  + 0x3000

/-- #2100.06: the largest current lag of a running stream. -/
def maximumLag (s : State) : Nat := ((runningCtxs s).map fun k => ctxReg s k 0x3A).foldl Nat.max 0

/-- #3000.16 (R466). -/
def voltageTables (s : State) : List Byte :=
  (List.range 128).flatMap fun i => let v := pointOf s (i / 16) (i % 16); leBytes 2 v.1 ++ leBytes 2 v.2

/-- #4100.08 (R421). -/
def routeTable (s : State) : List Byte :=
  (List.range 4096).flatMap fun a =>
    let r := if a = ownAddress s then [] else routesTo s a
    (List.range 4).flatMap fun i => match r[i]? with
      | some x => leBytes 1 x.1 ++ leBytes 1 x.2
      | none => [0xFF, 0xFF]

/-- #5200.01 to .06 (R228). -/
def bankValue (s : State) (sub : Nat) : Option (List Byte) :=
  let b := s.cdf.banks.getD s.cdf.active {}
  let used := (b.sets.map (·.slots.length)).foldl (· + ·) 0
  if sub = 0x01 then some (leBytes 1 s.cdf.active)
  else if sub = 0x02 then some (leBytes 4 b.gen)
  else if sub = 0x03 then
    some (leBytes 4 (((List.range 2).map fun i =>
      16 ^ i * ((if s.cdf.held.contains i then 1 else 0) + (if i ≠ s.cdf.active ∧ s.cdf.pending.isSome then 4 else 0))).foldl (· + ·) 0))
  else if sub = 0x04 then some (leBytes 2 used)
  else if sub = 0x05 then some (leBytes 2 b.sets.length)
  else if sub = 0x06 then
    some (b.sets.flatMap fun t => leBytes 4 t.id ++ leBytes 2 t.version ++ leBytes 2 t.base ++ leBytes 2 t.slots.length)
  else none

/-- #(0xC000 + f).08 (R345): every IP receiver at the rate of its source context. -/
def reservedRate (s : State) (f : Nat) : Nat :=
  let k := getReg s (flowIndex f) 0x01
  if k = 0xFFFF then 0 else ((flowReceivers s f).filter fun r => recvKind r.2 == 1).length * flowRate s k f

/-- The bytes of a subentry that is not held in the dictionary itself; none for a stored one. -/
def computedValue (s : State) (index sub : Nat) : Option (List Byte) :=
  match recordOf index with
  | none => none
  | some c =>
    if c = 0x1000 then identityValue s sub
    else if c = 0x1110 then
      if sub = 0x08 then some (leBytes 8 (if getReg s index 0x05 = 0 then 0 else getReg s index 0x06 + (ringRun s (index - 0x1110)).accepted)) else none
    else if c = 0x1200 then if sub = 0x09 then some (revertedBitmap s) else none
    else if c = 0x1300 then
      if sub = 0x12 then some s.ctl.manifest.rsaCert else if sub = 0x13 then some s.ctl.manifest.slhCert else none
    else if c = 0x2000 then
      if sub = 0x08 then some (leBytes 4 (sourceState s))
      else if sub = 0x09 then some (leBytes 8 (counterOf s)) else none
    else if c = 0x2100 then if sub = 0x06 then some (leBytes 2 (maximumLag s)) else none
    else if c = 0x3000 then
      if sub = 0x07 then some (leBytes 2 s.ctl.manifest.pbase)
      else if sub = 0x08 then some (leBytes 2 s.ctl.manifest.pfull)
      else if sub = 0x11 then some ((List.range 8).map fun d => BitVec.ofNat 8 (ngetD s.power.dies d {}).point)
      else if sub = 0x16 then some (voltageTables s) else none
    else if c = 0x4000 then
      if sub = 0x01 then some (leBytes 8 (allocCapacity s)) else if sub = 0x02 then some (leBytes 8 (allocatedBytes s)) else none
    else if c = 0x4100 then if sub = 0x08 then some (routeTable s) else none
    else if c = 0x4101 then
      if sub = 0x06 ∧ linkState s (index - 0x4101) = 2 then
        some (leBytes 1 (Config.linkPreset (index - 0x4101) (getReg s index 0x0B))) else none
    else if c = 0x5000 then
      if sub = 0x03 then some (leBytes 1 (deviceFlags s))
      else if sub = 0x05 then
        some (leBytes 1 (if tileDisabled s (getReg s 0x5000 0x04) then 0 else tileFlagsOf s (getReg s 0x5000 0x04))) else none
    else if c = 0x5100 then if 1 ≤ sub ∧ sub ≤ 0x20 then some (leBytes 4 (fnSlotWord s (sub - 1))) else none
    else if c = 0x5200 then bankValue s sub
    else if c = 0x6000 then
      if sub = 0x02 then some (leBytes 4 (poolShared s 0)) else if sub = 0x03 then some (leBytes 4 (poolShared s 1)) else none
    else if c = 0x6001 then if sub = 0x03 then some (beBytes 6 (portMac s (index - 0x6001))) else none
    else if c = 0x7000 then if sub = 0x0B then some (leBytes 2 (slotUsers s (index - 0x7000))) else none
    else if c = 0xC000 then
      if sub = 0x05 then some (leBytes 1 (flowReceivers s (index - 0xC000)).length)
      else if sub = 0x08 then some (leBytes 8 (reservedRate s (index - 0xC000))) else none
    else none

/-- The bytes that #index.sub reads as, or the abort code: #E000.03 and #1200.0D are out of range while they select no entry. -/
def valueOf (s : State) (index sub : Nat) : Except Nat (List Byte) :=
  if index = 0xE000 ∧ sub = 0x03 then
    match s.ctl.log.find? fun e => e.sequence == getReg s 0xE000 0x02 with
    | some e => .ok (logBytes e)
    | none => .error abRange
  else if index = 0x1200 ∧ sub = 0x0D then
    match s.ctl.journal.find? fun e => e.sequence == getReg s 0x1200 0x0C with
    | some e => .ok (journalBytes e)
    | none => .error abRange
  else .ok ((computedValue s index sub).getD (storedBytes s index sub))

/-! ### What may be written -/

/-- R378: UTF-8 (RFC 3629). -/
def utf8Ok : List Byte → Bool
  | [] => true
  | b :: r =>
    let tail (x : Byte) : Bool := decide (0x80 ≤ x.toNat) && decide (x.toNat ≤ 0xBF)
    if b.toNat < 0x80 then utf8Ok r
    else if 0xC2 ≤ b.toNat ∧ b.toNat ≤ 0xDF then
      match r with
      | x :: r => tail x && utf8Ok r
      | _ => false
    else if 0xE0 ≤ b.toNat ∧ b.toNat ≤ 0xEF then
      match r with
      | x :: y :: r =>
        tail x && tail y && (b.toNat != 0xE0 || decide (0xA0 ≤ x.toNat)) && (b.toNat != 0xED || decide (x.toNat < 0xA0)) && utf8Ok r
      | _ => false
    else if 0xF0 ≤ b.toNat ∧ b.toNat ≤ 0xF4 then
      match r with
      | x :: y :: z :: r =>
        tail x && tail y && tail z && (b.toNat != 0xF0 || decide (0x90 ≤ x.toNat)) && (b.toNat != 0xF4 || decide (x.toNat < 0x90)) && utf8Ok r
      | _ => false
    else false

/-- R378: do `n` bytes fit the type of a subentry. -/
def typeFits (o : Obj) (n : Nat) : Bool :=
  match o.ty with
  | .str m => decide (n ≤ m)
  | .blob m whole => if whole then n == m else decide (n ≤ m)
  | .bool => n == 1
  | .u8 => n == 1
  | .u16 => n == 2
  | .u32 => n == 4
  | .u64 => n == 8
  | .i32 => n == 4
  | .i64 => n == 8

def within (a b v : Nat) : Bool := decide (a ≤ v) && decide (v ≤ b)

/-- A power of two in `lo … hi`, or 0. -/
def ringSizeOk (lo hi v : Nat) : Bool := v == 0 || (within lo hi v && v == 2 ^ Nat.log2 v)

/-- A fabric address or 0xFFFF for none (R405); a stream context or 0xFFFF. -/
def addressOk (v : Nat) : Bool := decide (v < 4096) || v == 0xFFFF
def ctxOk (v : Nat) : Bool := decide (v < 16384) || v == 0xFFFF

/-- All zero. -/
def zeroAt (bs : List Byte) (off n : Nat) : Bool := numAt bs off n == 0

/-- R394: fields in range, unused and reserved ones zero. -/
def receiverOk (bs : List Byte) : Bool :=
  let kind := recvKind bs
  zeroAt bs 5 1 && zeroAt bs 10 6 &&
  (if kind = 0 then zeroAt bs 0 32
   else if kind = 1 then within 0 3 (recvPort bs) && within 0 63 (numAt bs 3 1) && zeroAt bs 8 2
   else if kind = 2 then zeroAt bs 1 1 && within 0 64 (numAt bs 2 1) && zeroAt bs 3 5 && within 0 4095 (recvTarget bs) && zeroAt bs 16 16
   else kind == 3 && zeroAt bs 1 1 && within 0 64 (numAt bs 2 1) && zeroAt bs 3 5 && zeroAt bs 16 16)

/-- R363, R373, R390, R486, R487: transports, resets, keys. -/
def hostRange (c sub v : Nat) : Bool :=
  if c = 0x1100 then
    if sub = 0x01 then within 0 1 v else if sub = 0x02 then within 0 31 v else if sub = 0x04 then within 0 32 v else true
  else if c = 0x1110 then
    if sub = 0x01 then within 0 1 v else if sub = 0x02 then v % 64 == 0 else if sub = 0x03 ∨ sub = 0x04 then v % 4096 == 0
    else if sub = 0x05 then ringSizeOk 16 65536 v else if sub = 0x06 then v != 0 else ctxOk v
  else if c = 0x1130 then
    if sub = 0x01 then within 0 1 v else if sub = 0x02 then v % 64 == 0 else if sub = 0x03 ∨ sub = 0x05 then v % 4096 == 0
    else if sub = 0x06 then ringSizeOk 2 65536 v else true
  else if c = 0x1200 then
    if sub = 0x01 then within 1 4 v else if sub = 0x02 then within 0 7 v else if sub = 0x11 then v == 1 else true
  else if sub = 0x0A ∨ sub = 0x0F then v == 1
  else true

/-- R33, R34, R44, R51, R59: tick and admission. -/
def tickRange (c sub v : Nat) : Bool :=
  if c = 0x2000 then
    if sub = 0x01 then within 0 0x0A v || v == 0xFF else if sub = 0x02 then within 1000 50000 v else if sub = 0x03 then within 10 200 v
    else if sub = 0x04 then within 0 7 v else if sub = 0x05 then within 0 4 v else true
  else if sub = 0x01 then within 100 970 v
  else if sub = 0x02 ∨ sub = 0x03 then within 0 1000 v
  else if sub = 0x09 then within 1 256 v
  else true

/-- R445, R447, R449, R466: power and memory. -/
def powerRange (c sub v : Nat) (bs : List Byte) : Bool :=
  if c = 0x3000 then
    if sub = 0x01 then within 400 2200 v else if sub = 0x03 then within 85 105 v else if sub = 0x04 then within 80 95 v
    else if sub = 0x15 then (List.range 20).all fun r => decide (numAt bs (4 * r) 4 ≤ numAt (defaultBlob 0x3000 0x15) (4 * r) 4) else true
  else if c = 0x4000 then
    if sub = 0x0E then within 0 23 v else if sub = 0x12 then within 1 2 v else true
  else true

/-- R87, R195, R228, R253, R254, R320: numerics, slots, banks, umpire, filter sets. -/
def unitRange (c sub v : Nat) : Bool :=
  if c = 0x5000 then if sub = 0x03 ∨ sub = 0x05 then within 0 15 v else if sub = 0x04 then within 0 383 v else true
  else if c = 0x5010 then if sub = 0x02 then ctxOk v else if sub = 0x04 then v % 32 == 0 else true
  else if c = 0x5020 then
    if sub = 0x01 ∨ sub = 0x04 then within 0 2 v else if sub = 0x02 ∨ sub = 0x03 then addressOk v else if sub = 0x06 then within 1 256 v
    else if sub = 0x0C then within 1 2 v else true
  else if c = 0x5100 then if sub = 0x21 then within 0 31 v else if sub = 0x24 then within 1 2 v else true
  else if c = 0x5200 then if sub = 0x07 then within 0 1 v else if sub = 0x0C then within 1 2 v else true
  else if c = 0x6100 then if sub = 0x06 then within 1 7 v else if sub = 0x08 then within 1 2 v else true
  else if c = 0x7000 then if sub = 0x04 then within 1 2 v else true
  else true

/-- R354, R391 to R394, R409, R421: ports, contexts, flows, fabric. -/
def streamRange (c sub v : Nat) (bs : List Byte) : Bool :=
  if c = 0x6001 then
    if sub = 0x05 then within 0 32 v else if sub = 0x08 then within 1 4094 v || v == 0xFFFF else if sub = 0x09 then within 1500 9000 v else true
  else if c = 0x8000 then
    if sub = 0x03 then within 1 5 v else if sub = 0x0D then within 0 2 v else if sub = 0x25 then zeroAt bs 18 6
    else if sub = 0x26 then within 0 4 v else if sub = 0x28 ∨ sub = 0x29 then zeroAt bs 1 1 && zeroAt bs 4 4
    else if sub = 0x2A then within 0 5 v else if sub = 0x2B then within 96 127 v else if sub = 0x2C then within 1 50 v
    else if 0x2E ≤ sub ∧ sub ≤ 0x31 then decide (v < 4096) || v == 0xFFFF else true
  else if c = 0xC000 then
    if sub = 0x02 then within 256 8960 v else if sub = 0x03 then within 0 5 v else if sub = 0x04 then within 96 127 v
    else receiverOk bs
  else if c = 0x4100 then
    if sub = 0x03 ∨ sub = 0x09 ∨ sub = 0x0A then addressOk v else if sub = 0x0E then v == 1
    else if 0x12 ≤ sub ∧ sub ≤ 0x31 then zeroAt bs 3 1 && (zeroAt bs 2 1 || within 2 64 (numAt bs 2 1)) else true
  else true

/-- R378, R380: is a value in the range of its subentry, reserved bits included. -/
def rangeOk (s : State) (o : Obj) (index sub : Nat) (bs : List Byte) : Bool :=
  let c := (recordOf index).getD 0
  let v := leNat bs
  (o.ty != .bool || decide (v ≤ 1)) &&
  (if c < 0x2000 then hostRange c sub v
   else if c < 0x3000 then tickRange c sub v
   else if c < 0x4100 then powerRange c sub v bs
   else if c = 0x4100 ∨ c = 0x6001 ∨ c = 0x8000 ∨ c = 0xC000 then streamRange c sub v bs
   else if c = 0xE000 then sub != 0x04 || within (getReg s 0xE000 0x04) (getReg s 0xE000 0x01) v
   else unitRange c sub v)

/-- R44, R51, R254, R394: does a value conflict with another setting. -/
def conflicts (s : State) (index sub : Nat) (bs : List Byte) : Bool :=
  let v := leNat bs
  if index = 0x2000 ∧ sub = 0x03 then decide (1000 < v + getReg s 0x2100 0x01)
  else if index = 0x2100 ∧ sub = 0x01 then decide (1000 < v + getReg s 0x2000 0x03)
  else if index = 0x2100 ∧ (sub = 0x02 ∨ sub = 0x03) then decide (1000 < v + getReg s 0x2100 (5 - sub))
  else if index = 0x5020 ∧ sub = 0x04 then v == 2 && getReg s 0x5020 0x01 != 2
  else if index = 0x5020 ∧ sub = 0x01 then v != 2 && getReg s 0x5020 0x04 == 2
  else if recordOf index = some 0xC000 ∧ 0x0C ≤ sub ∧ recvKind bs = 3 then
    decide (64 ≤ recvTarget bs) || sringReg s (recvTarget bs) 0x01 != 1
  else false

/-- R35, R235: no stream context runs, and no job is admitted or carried; a job that is only accepted waits for a round and does not
count (R46). -/
def partIdle (s : State) : Bool := (runningCtxs s).isEmpty && !s.carried && s.jobs.all fun e => e.state != 2

/-- R354: a leg or flow of a running context uses a media port. -/
def portUsed (s : State) (p : Nat) : Bool :=
  (runningCtxs s).any fun k =>
    (ctxReg s k 0x26 == 1 && (legPort s k 0 == p || legPort s k 1 == p)) ||
    (ctxFlows s k).any fun f => (flowReceivers s f).any fun r => recvKind r.2 == 1 && recvPort r.2 == p

/-- R373: a running context names a stream ring, as its source or through a receiver of its flows. -/
def sringUsed (s : State) (r : Nat) : Bool :=
  (runningCtxs s).any fun k =>
    (ctxReg s k 0x26 == 2 && ctxReg s k 0x27 == r) ||
    (ctxFlows s k).any fun f => (flowReceivers s f).any fun x => recvKind x.2 == 3 && recvTarget x.2 == r

/-- R379: is the owning unit of an rwi subentry idle for a write of `v`. -/
def unitIdle (s : State) (index sub v : Nat) : Bool :=
  match recordOf index with
  | none => true
  | some c =>
    if c = 0x2000 ∨ c = 0x5000 then partIdle s
    else if c = 0x5020 then (markedCtxs s).all fun k => !runningState (ctxState s k)
    else if c = 0x6000 then (runningCtxs s).isEmpty
    else if c = 0x6001 then !portUsed s (index - 0x6001)
    else if c = 0x1110 then
      getReg s index 0x05 == 0 || (sub == 0x05 && v == 0 && s.jobs.all fun e => e.ring != index - 0x1110 || decide (4 ≤ e.state))
    else if c = 0x1130 then !sringUsed s (index - 0x1130)
    else if c = 0x8000 then decide (ctxState s (index - 0x8000) ≤ 1)
    else if c = 0xC000 then getReg s index 0x01 == 0xFFFF
    else if c = 0x4000 then s.fabric.mirror.isEmpty
    else if c = 0x4100 then
      if sub = 0x09 then s.jobs.all fun e => decide (4 ≤ e.state)
      else
        let k := numAt (getBlob s 0x4100 sub) 0 2
        let st := ctxState s k
        numAt (getBlob s 0x4100 sub) 2 1 == 0 || st == 0 || st == 1 || st == 6
    else true

/-! ### What a write does -/

/-- A command of a stream context (R268, R391). -/
def ctxCommand (s : State) (k v : Nat) : State :=
  if v = 1 then startCtx s k
  else if v = 2 then stopCtx s k
  else if v = 3 then timeoutCtx s k
  else if v = 4 then resumeCtx s k
  else
    let (n, s) := fresh s
    switchCtx s k (Config.switchTarget n % 4096)

/-- A write to a command subentry, or to one whose write is more than a value kept; none for any other. -/
def behaviour (s : State) (o : Origin) (index sub : Nat) (bs : List Byte) : Option State :=
  let v := leNat bs
  match recordOf index with
  | none => none
  | some c =>
    if c = 0x8000 then
      if sub = 0x01 then some (writeBinding s (index - 0x8000) v)
      else if sub = 0x03 then some (ctxCommand s (index - 0x8000) v)
      else if sub = 0x1C then some (requestReference s (index - 0x8000) (v / 2 ^ 56) (v % 2 ^ 56)) else none
    else if c = 0x7000 then
      if sub = 0x04 then some (if v = 1 then acceptLoad s (index - 0x7000) else acceptUnload s (index - 0x7000)) else none
    else if c = 0x5000 then
      if sub = 0x03 then some (clearDeviceFlags s v) else if sub = 0x05 then some (clearTileFlags s v) else none
    else if c = 0x5100 then
      if sub = 0x24 then some (if v = 1 then diesCommand s loadFunction else unloadFunction s) else none
    else if c = 0x5200 then
      if sub = 0x0C then some (diesCommand s (if v = 1 then addTableSet else removeTableSet)) else none
    else if c = 0x4000 then
      if sub = 0x0E then some (retireStack s v) else if sub = 0x12 then some (if v = 1 then allocateHost s else freeHost s) else none
    else if c = 0x4100 then
      if sub = 0x0E then some (startCopy s) else if sub = 0x09 then some (writeMirrorPeer s v) else none
    else if c = 0x5020 then
      if sub = 0x0C then some (if v = 1 then resumeUmpire s else stopUmpire s)
      else if sub = 0x01 then some (enableUmpire (setReg s 0x5020 0x01 v)) else none
    else if c = 0x6100 then if sub = 0x08 then some (if v = 1 then loadFilter s else unloadFilter s) else none
    else if c = 0x1200 then
      if sub = 0x01 then some (if v = 1 then warmReset s else if v = 2 then dieCommand s else if v = 3 then enterPark s else leavePark s)
      else if sub = 0x0E then some (readmit s v) else if sub = 0x11 then some (clearReverted s) else none
    else if c = 0x1300 then if sub = 0x0A then some (acceptKey s o) else if sub = 0x0F then some (attest s) else none
    else if c = 0x2000 then if sub = 0x0D then some { s with clk := { s.clk with seed := v } } else none
    else none

/-- What follows a value that has been kept: a link or port that is switched, a ring that starts from its first position, a trace that
starts anew, receivers that the next tick boundary looks at (R242, R335, R347, R364, R373, R376, R403). -/
def afterStore (s : State) (index sub : Nat) (bs : List Byte) : State :=
  let v := leNat bs
  match recordOf index with
  | none => s
  | some c =>
    if c = 0x4101 ∧ sub = 0x01 then
      let i := index - 0x4101
      let s := { s with ctl := { s.ctl with linksOut := s.ctl.linksOut.filter (· != i) } }
      if v = 0 then setLinkState (failLink s i) i 0 else if linkState s i = 2 then s else setLinkState s i 1
    else if c = 0x6001 ∧ sub = 0x01 then
      let p := index - 0x6001
      if v = 0 then silencePort (setReg s index 0x02 0) p else if getReg s index 0x02 = 2 then s else setReg s index 0x02 1
    else if c = 0x1110 ∧ sub = 0x05 then
      { s with rings := ndel s.rings (index - 0x1110), jobs := s.jobs.filter fun e => e.ring != index - 0x1110 }
    else if c = 0x1130 ∧ sub = 0x06 then { s with srings := ndel s.srings (index - 0x1130) }
    else if c = 0x5010 ∧ within 2 4 sub then { s with traceAt := 0 }
    else if c = 0xC000 ∧ 0x0C ≤ sub then putFlow s (index - 0xC000) (flowOf s (index - 0xC000))
    else s

/-- R380: a write that passed its checks is applied; a setting that the mirror carries goes to it (R442). -/
def applyWrite (s : State) (o : Origin) (index sub : Nat) (bs : List Byte) : State :=
  match behaviour s o index sub bs with
  | some t => if mirroredIndex index ∧ sub = 0x01 then toMirror t (.object index sub bs) else t
  | none =>
    let s := afterStore (storeBytes s index sub bs) index sub bs
    if mirroredIndex index then toMirror s (.object index sub bs) else s

/-! ### The checks of one operation (R380, R383, R471) -/

/-- R471: the records that a start serves. -/
def startServes (index : Nat) : Bool := index == 0x1000 || index == 0x1100 || index == 0x1200 || index == 0x1300 || index == 0xE000

/-- R29, R469, R471: is a record served in the state a request finds. -/
def served (s : State) (index : Nat) : Bool :=
  let step := getReg s 0x1200 0x07 / 65536
  match s.ctl.phase with
  | .service => s.ctl.inCharge.isSome
  | .starting => startServes index
  | .failed => if step = 2 then index == 0x1200 else if step ≠ 0 then startServes index else s.ctl.inCharge.isSome
  | .off => false
  | .reset => false
  | .halted => false

/-- R377, R379: the row of a subentry that exists and is served, or the abort code. -/
def findServed (serves : Nat → Bool) (index sub : Nat) : Except Nat Obj :=
  if !serves index then .error abBusy
  else if (recordOf index).isNone then .error abNoIndex
  else match findObj index sub with
    | some o => .ok o
    | none => .error abNoSub

/-- R380: the abort code of a write, none when it passes: access, origin, length, type, range, conflict. -/
def writeRefused (s : State) (org : Origin) (o : Obj) (index sub : Nat) (bs : List Byte) : Option Nat :=
  if o.access = .ro ∨ o.access = .const then some abWriteRo
  else if o.access = .rwi ∧ !unitIdle s index sub (leNat bs) then some abNotIdle
  else if !mayWrite org index sub then some abOrigin
  else if !typeFits o bs.length then some abLength
  else match o.ty with
    | .str _ => if utf8Ok bs then none else some abUtf8
    | _ => if !rangeOk s o index sub bs then some abRange else if conflicts s index sub bs then some abConflict else none

/-- R383: the eight bytes of a describe. -/
def describeBytes (o : Obj) (index sub : Nat) : List Byte :=
  let bit (b : Bool) (n : Nat) : Nat := if b then n else 0
  let can := o.access == .rw || o.access == .rwi || o.access == .wo
  let origins := bit (reaches .host index sub) 1 + bit (reaches .net index sub) 2 + bit (reaches .peer index sub) 4
    + bit (can && mayWrite .host index sub) 8 + bit (can && mayWrite .net index sub) 16 + bit (can && mayWrite .peer index sub) 32
  let most := match o.ty with
    | .str m => m
    | .blob m _ => m
    | .bool => 1
    | .u8 => 1
    | .u16 => 2
    | .u32 => 4
    | .u64 => 8
    | .i32 => 4
    | .i64 => 8
  leBytes 1 o.ty.code ++ leBytes 1 o.access.code ++ leBytes 1 origins ++ leBytes 1 o.pers.code ++ leBytes 2 (Nat.min most 0xFFFF) ++ leBytes 2 0

/-- R383: one operation of a frame. -/
structure DtpOp where
  code  : Nat
  index : Nat
  sub   : Nat
  data  : List Byte
deriving DecidableEq, Repr

/-- R383: a read range of a str or blob. -/
def readRange (s : State) (o : Obj) (p : DtpOp) : Except Nat (List Byte) :=
  let off := numAt p.data 0 4
  let n := numAt p.data 4 4
  if p.data.length ≠ 8 ∨ o.ty.width.isSome then .error abLength
  else if n = 0 ∨ n > 1024 then .error abRange
  else match valueOf s p.index p.sub with
    | .error e => .error e
    | .ok bs => if off + n > bs.length then .error abBeyond else .ok (sliceAt bs off n)

/-- A plain read (R383). -/
def readPlain (s : State) (p : DtpOp) : Except Nat (List Byte) :=
  if p.data ≠ [] then .error abLength
  else match valueOf s p.index p.sub with
    | .error e => .error e
    | .ok bs => if bs.length > 1024 then .error abLength else .ok bs

/-- R380, R383, R387: one operation: the state after it and its response data, or the abort code. `flash` says that writes to package flash
succeed; one that fails leaves the old value. -/
def runOp (serves : Nat → Bool) (flash : Bool) (s : State) (org : Origin) (p : DtpOp) : Except Nat (State × List Byte) :=
  if p.code = 0 ∨ p.code > 4 then .error abBadOp
  else match findServed serves p.index p.sub with
    | .error e => .error e
    | .ok o =>
      if p.code = 2 then
        match writeRefused s org o p.index p.sub p.data with
        | some e => .error e
        | none => if o.pers = .f ∧ !flash then .error abFlash else .ok (applyWrite s org p.index p.sub p.data, [])
      else if p.code ≠ 3 ∧ o.access = .wo then .error abReadWo
      else if !reaches org p.index p.sub then .error abOrigin
      else if p.code = 3 then if p.data = [] then .ok (s, describeBytes o p.index p.sub) else .error abLength
      else match (if p.code = 1 then readPlain s p else readRange s o p) with
        | .error e => .error e
        | .ok bs => .ok (s, bs)

/-! ### Frames (R382 to R384) -/

/-- Zero padding to a multiple of 4. -/
def pad4 (bs : List Byte) : List Byte := padTo (alignUp 4 bs.length) bs

/-- An operation of a response. -/
def opBytes (p : DtpOp) (abort : Nat) (data : List Byte) : List Byte :=
  leBytes 1 p.code ++ leBytes 1 p.sub ++ leBytes 2 p.index ++ leBytes 2 data.length ++ leBytes 2 0 ++ leBytes 4 abort ++ pad4 data

/-- A response frame: transaction, counter, tag key, and the operations (R382, R385). -/
def responseFrame (transaction counter : Nat) (key : Option (List Byte)) (ops : List (DtpOp × Nat × List Byte)) : List Byte :=
  let body := ops.flatMap fun x => opBytes x.1 x.2.1 x.2.2
  let len := 32 + body.length + (if key.isSome then 32 else 0)
  let f := leBytes 2 0x5444 ++ leBytes 1 1 ++ leBytes 1 2 ++ leBytes 4 transaction ++ leBytes 2 len ++ leBytes 1 ops.length
    ++ leBytes 1 (if key.isSome then 1 else 0) ++ leBytes 4 0 ++ leBytes 8 counter ++ leBytes 8 0 ++ body
  match key with
  | some k => f ++ hmac256 k f
  | none => f

/-- The operations of a request whose bytes are `bs`; none when they are malformed. -/
def parseOps : Nat → List Byte → Option (List DtpOp)
  | 0, bs => if bs = [] then some [] else none
  | n + 1, bs =>
    let len := numAt bs 4 2
    let data := sliceAt bs 12 len
    if bs.length < 12 + alignUp 4 len ∨ numAt bs 6 2 ≠ 0 ∨ numAt bs 8 4 ≠ 0 ∨ !zeroAt bs (12 + len) (alignUp 4 len - len) then none
    else (parseOps n (bs.drop (12 + alignUp 4 len))).map fun r => ⟨numAt bs 0 1, numAt bs 2 2, numAt bs 1 1, data⟩ :: r

/-- R382: the header fields of a frame. -/
def frameTransaction (f : List Byte) : Nat := numAt f 4 4
def frameTagged (f : List Byte) : Bool := numAt f 11 1 == 1
def frameCounter (f : List Byte) : Nat := numAt f 16 8

/-- R382, R385: the operations of a request frame; none when it is malformed. -/
def parseFrame (org : Origin) (f : List Byte) : Option (List DtpOp) :=
  let ops := numAt f 10 1
  let stop := if frameTagged f then f.length - 32 else f.length
  if f.length < 32 ∨ f.length > 1472 ∨ numAt f 0 2 ≠ 0x5444 ∨ numAt f 2 1 ≠ 1 ∨ numAt f 3 1 ≠ 1 ∨ numAt f 8 2 ≠ f.length
    ∨ ops = 0 ∨ ops > 16 ∨ numAt f 11 1 > 1 ∨ numAt f 12 4 ≠ 0 ∨ numAt f 24 8 ≠ 0 ∨ (frameTagged f ∧ (org ≠ .net ∨ f.length < 64))
    ∨ (!frameTagged f ∧ frameCounter f ≠ 0) then none
  else parseOps ops ((f.take stop).drop 32)

/-- R387: the answer to a malformed frame; none when it is not answered. -/
def malformedAnswer (f : List Byte) : Option (List Byte) :=
  if f.length < 32 ∨ numAt f 0 2 ≠ 0x5444 ∨ numAt f 3 1 ≠ 1 then none
  else
    let p : DtpOp := if f.length < 44 then ⟨0, 0, 0, []⟩ else ⟨numAt f 32 1, numAt f 34 2, numAt f 33 1, []⟩
    some (responseFrame (frameTransaction f) 0 none [(p, abMalformed, [])])

/-- The first operation carries an abort code, the others 0x0D00_0040 (R384). -/
def refuseAll (ops : List DtpOp) (code : Nat) : List (DtpOp × Nat × List Byte) :=
  ops.zipIdx.map fun x => (x.1, if x.2 = 0 then code else abNotApplied, [])

/-- R383, R384: the operations in order on a trial state, with the data bytes the response may still take; what was done, and the failing operation
with its code and those after it. -/
def runOps (serves : Nat → Bool) (flash : Bool) (org : Origin) : State → Nat → List DtpOp → State × List (DtpOp × List Byte) × Option (DtpOp × Nat × List DtpOp)
  | s, _, [] => (s, [], none)
  | s, room, p :: r =>
    match runOp serves flash s org p with
    | .error e => (s, [], some (p, e, r))
    | .ok (t, data) =>
      let need := alignUp 4 data.length
      if room < need then (s, [], some (p, abTooLong, r))
      else
        let x := runOps serves flash org t (room - need) r
        (x.1, (p, data) :: x.2.1, x.2.2)

/-- R384: all of a request or nothing: the state after it, and the operations of its response, which may take `room` bytes with their headers. -/
def runRequest (s : State) (flash : Bool) (org : Origin) (room : Nat) (ops : List DtpOp) : State × List (DtpOp × Nat × List Byte) :=
  let x := runOps (served s) flash org s (room - 12 * ops.length) ops
  match x.2.2 with
  | none => (x.1, x.2.1.map fun d => (d.1, 0, d.2))
  | some (p, e, rest) =>
    (s, (x.2.1.map fun d => if d.1.code = 2 then (d.1, abNotApplied, []) else (d.1, 0, d.2)) ++ [(p, e, [])]
      ++ rest.map fun q => (q, abNotApplied, []))

/-- R390: a request is counted as served, or as refused when it was not answered or carries an abort. -/
def countRequest (s : State) (ops : List (DtpOp × Nat × List Byte)) : State :=
  if ops.all fun x => x.2.1 == 0 then addReg s 0x1100 0x0B 1 else addReg s 0x1100 0x0C 1

/-- A request without a tag, host's or peer's or an open net's: the state after it and the answer. -/
def plainRequest (s : State) (flash : Bool) (org : Origin) (f : List Byte) : State × Option (List Byte) :=
  match parseFrame org f with
  | none => (addReg s 0x1100 0x0C 1, malformedAnswer f)
  | some ops =>
    let x := runRequest s flash org (1472 - 32) ops
    (countRequest x.1 x.2, some (responseFrame (frameTransaction f) 0 none x.2))

/-! ### The window (R388) -/

/-- The response stands in the window, its token set, vector 48 due. -/
def showResponse (s : State) (token : Nat) (f : List Byte) : State :=
  raiseVector { s with ctl := { s.ctl with response := f, respToken := token } } 48

/-- R388: while no cluster is in control the window hardware answers with one operation. -/
def busyAnswer (f : List Byte) : List Byte :=
  responseFrame (frameTransaction f) 0 none
    [(if f.length < 44 then ⟨0, 0, 0, []⟩ else ⟨numAt f 32 1, numAt f 34 2, numAt f 33 1, []⟩, abBusy, [])]

/-- R29: the part is in service and no cluster is in control. -/
def noCluster (s : State) : Bool := inService s && s.ctl.inCharge.isNone

/-- DICT_WINDOW_REQUEST. -/
def windowRequest (s : State) (flash : Bool) (token : Nat) (f : List Byte) : State :=
  if !portAlive s || s.ctl.d3hot || !s.ctl.linkUp || token % 2 ^ 32 == s.ctl.reqToken then s
  else
    let s := { s with ctl := { s.ctl with reqToken := token % 2 ^ 32 } }
    if noCluster s then showResponse s (token % 2 ^ 32) (busyAnswer f)
    else
      let x := plainRequest s flash .host f
      match x.2 with
      | some a => showResponse x.1 (token % 2 ^ 32) a
      | none => x.1

def execDictWindowRequest (token : Nat) (frame : FlashBytes) (s : State) : Host.Outcome State Fault Refusal :=
  .next (windowRequest s frame.flashOk token frame.bytes)

/-! ### The field network (R385) -/

/-- R385: a counter is accepted; when it passes the floor in flash the floor moves up. -/
def acceptCounter (s : State) (n : Nat) : State :=
  let s := { s with ctl := { s.ctl with counterTop := n } }
  if n > getReg s 0x1100 0x09 then setReg s 0x1100 0x09 (wrap64 (n + 2 ^ 20)) else s

/-- R385: a net request: authenticated where it must be, executed, answered. -/
def netRequest (s : State) (flash : Bool) (f : List Byte) : State × Option (List Byte) :=
  let strict := getReg s 0x1100 0x07 != 0
  let key := getBlob s 0x1100 0x08
  let refuse := addReg s 0x1100 0x0C 1
  match parseFrame .net f with
  | none => (refuse, if strict then none else malformedAnswer f)
  | some ops =>
    if !frameTagged f then if strict then (refuse, none) else plainRequest s flash .net f
    else if hmac256 key (f.take (f.length - 32)) ≠ f.drop (f.length - 32) then (refuse, none)
    else if frameCounter f ≤ s.ctl.counterTop then
      (refuse, some (responseFrame (frameTransaction f) 0 none (refuseAll ops abCounter)))
    else
      let x := runRequest (acceptCounter s (frameCounter f)) flash .net (1472 - 64) ops
      (countRequest x.1 x.2, some (responseFrame (frameTransaction f) (frameCounter f) (some key) x.2))

/-- R390, R354: does a network port take requests: 0 the management port, 1 to 4 the media ports. -/
def netPortOpen (s : State) (port : Nat) : Bool :=
  decide (port ≤ 4) && (getReg s 0x1100 0x02).testBit port && (port == 0 || portUp s (port - 1))

/-- DTP_NET_REQUEST: nothing answers while no cluster is in control. -/
def dtpNet (s : State) (flash : Bool) (port : Nat) (f : List Byte) : State :=
  if !portAlive s || noCluster s || !netPortOpen s port then s
  else
    let x := netRequest s flash f
    match x.2 with
    | some a => emit x.1 (.dtpResponse .net port a)
    | none => x.1

def execDtpNetRequest (port : Nat) (frame : FlashBytes) (s : State) : Host.Outcome State Fault Refusal :=
  .next (dtpNet s frame.flashOk port frame.bytes)

/-! ### Peers (R386, R416) -/

/-- R386: a peer's request, refused while #1100.0A is clear. -/
def peerRequest (s : State) (flash : Bool) (f : List Byte) : State × Option (List Byte) :=
  match parseFrame .peer f with
  | none => (addReg s 0x1100 0x0C 1, malformedAnswer f)
  | some ops =>
    if getReg s 0x1100 0x0A = 0 then
      (addReg s 0x1100 0x0C 1, some (responseFrame (frameTransaction f) 0 none (refuseAll ops abOrigin)))
    else plainRequest s flash .peer f

/-- DTP_PEER_REQUEST: the message is acknowledged and the response goes back as one message on the same flow. -/
def dtpPeer (s : State) (flash : Bool) (peer : Nat) (f : List Byte) : State :=
  let s := ackTo s peer 1
  let x := peerRequest s flash f
  match x.2 with
  | some a => (sendMessage (emit x.1 (.dtpResponse .peer peer a)) peer 1 a).1
  | none => x.1

def execDtpPeerRequest (peer : Nat) (frame : FlashBytes) (s : State) : Host.Outcome State Fault Refusal :=
  whenControlled s fun s => dtpPeer s frame.flashOk peer frame.bytes

/-! ### One write, and the acknowledgement of the fault log -/

/-- DICT_WRITE (R380): one write from an origin. -/
def dictWrite (s : State) (flash : Bool) (o : Origin) (index sub : Nat) (bs : List Byte) : State :=
  match runOp (served s) flash s o ⟨2, index, sub, bs⟩ with
  | .ok x => x.1
  | .error _ => s

def execDictWrite (origin : Origin) (index sub : Nat) (data : FlashBytes) (s : State) : Host.Outcome State Fault Refusal :=
  .next (dictWrite s data.flashOk origin index sub data.bytes)

/-- FAULT_LOG_ACKNOWLEDGE (R398): #E000.04 may only rise, and not above #E000.01. -/
def acknowledgeLog (s : State) (sequence : Nat) : State :=
  if getReg s 0xE000 0x04 ≤ sequence ∧ sequence ≤ getReg s 0xE000 0x01 then setReg s 0xE000 0x04 sequence else s

def execFaultLogAcknowledge (sequence : Nat) (s : State) : Host.Outcome State Fault Refusal :=
  .next (if served s 0xE000 then acknowledgeLog s sequence else s)

end Sys2Proof.Machine
end

