-- ==== Sys2Proof/Machine/Dispatch.lean ====
section
/-! DEFINITION. One arm per command: the meaning each row of spec/opcode_table.json has. -/
namespace Sys2Proof.Machine

def exec (i : Instr) (s : State) : Host.Outcome State Fault Refusal :=
  match i with
  | .tickBoundary => Sys2Proof.Machine.execTickBoundary s
  | .lagLimit ctx => Sys2Proof.Machine.execLagLimit ctx s
  | .sourceQualified src dt => Sys2Proof.Machine.execSourceQualified src dt s
  | .sourceLost src dt => Sys2Proof.Machine.execSourceLost src dt s
  | .sourceAdoptionHold src dt => Sys2Proof.Machine.execSourceAdoptionHold src dt s
  | .timebaseStep ns => Sys2Proof.Machine.execTimebaseStep ns s
  | .serviceLoopPass hostWrites failedReads => Sys2Proof.Machine.execServiceLoopPass hostWrites failedReads s
  | .heartbeat arrived => Sys2Proof.Machine.execHeartbeat arrived s
  | .standbyTakeover => Sys2Proof.Machine.execStandbyTakeover s
  | .dictWindowRequest token frame => Sys2Proof.Machine.execDictWindowRequest token frame s
  | .dtpNetRequest port frame => Sys2Proof.Machine.execDtpNetRequest port frame s
  | .dtpPeerRequest peer frame => Sys2Proof.Machine.execDtpPeerRequest peer frame s
  | .dictWrite origin index sub data => Sys2Proof.Machine.execDictWrite origin index sub data s
  | .deviceFlagsClear mask => Sys2Proof.Machine.execDeviceFlagsClear mask s
  | .tileFlagsClear mask => Sys2Proof.Machine.execTileFlagsClear mask s
  | .functionSlotLoad diesOk => Sys2Proof.Machine.execFunctionSlotLoad diesOk s
  | .functionSlotUnload => Sys2Proof.Machine.execFunctionSlotUnload s
  | .functionSlotSwitch slot => Sys2Proof.Machine.execFunctionSlotSwitch slot s
  | .functionBankRelease slot => Sys2Proof.Machine.execFunctionBankRelease slot s
  | .tableSetAdd diesOk => Sys2Proof.Machine.execTableSetAdd diesOk s
  | .tableSetRemove diesOk => Sys2Proof.Machine.execTableSetRemove diesOk s
  | .cdfBankSwap => Sys2Proof.Machine.execCdfBankSwap s
  | .cdfBankFree bank => Sys2Proof.Machine.execCdfBankFree bank s
  | .packageLoad slot => Sys2Proof.Machine.execPackageLoad slot s
  | .packageLoadRun => Sys2Proof.Machine.execPackageLoadRun s
  | .packageUnload slot => Sys2Proof.Machine.execPackageUnload slot s
  | .contextBind ctx value => Sys2Proof.Machine.execContextBind ctx value s
  | .contextUnbind ctx => Sys2Proof.Machine.execContextUnbind ctx s
  | .contextStart ctx => Sys2Proof.Machine.execContextStart ctx s
  | .contextStartCheck ctx => Sys2Proof.Machine.execContextStartCheck ctx s
  | .contextStop ctx => Sys2Proof.Machine.execContextStop ctx s
  | .contextTimeout ctx => Sys2Proof.Machine.execContextTimeout ctx s
  | .snapshotWrite ctx => Sys2Proof.Machine.execSnapshotWrite ctx s
  | .contextResume ctx => Sys2Proof.Machine.execContextResume ctx s
  | .contextSwitch ctx slot => Sys2Proof.Machine.execContextSwitch ctx slot s
  | .switchTakeEffect ctx => Sys2Proof.Machine.execSwitchTakeEffect ctx s
  | .referenceRequest ctx slot j0 => Sys2Proof.Machine.execReferenceRequest ctx slot j0 s
  | .umpireEnable => Sys2Proof.Machine.execUmpireEnable s
  | .umpireScorecardFrame partner records => Sys2Proof.Machine.execUmpireScorecardFrame partner records s
  | .umpireHaltNotice partner ctx frame => Sys2Proof.Machine.execUmpireHaltNotice partner ctx frame s
  | .umpireLagEvent ctx frame => Sys2Proof.Machine.execUmpireLagEvent ctx frame s
  | .umpireResume => Sys2Proof.Machine.execUmpireResume s
  | .umpireStop => Sys2Proof.Machine.execUmpireStop s
  | .filterSetLoad => Sys2Proof.Machine.execFilterSetLoad s
  | .filterSetUnload => Sys2Proof.Machine.execFilterSetUnload s
  | .filterSetSwitch set => Sys2Proof.Machine.execFilterSetSwitch set s
  | .stackRetireCommand stack => Sys2Proof.Machine.execStackRetireCommand stack s
  | .stackMigrationComplete stack => Sys2Proof.Machine.execStackMigrationComplete stack s
  | .scorebookCopyRebuilt => Sys2Proof.Machine.execScorebookCopyRebuilt s
  | .allocate => Sys2Proof.Machine.execAllocate s
  | .free => Sys2Proof.Machine.execFree s
  | .allocationRelease base => Sys2Proof.Machine.execAllocationRelease base s
  | .fabricCopyStart => Sys2Proof.Machine.execFabricCopyStart s
  | .fabricCopyDone => Sys2Proof.Machine.execFabricCopyDone s
  | .warmReset => Sys2Proof.Machine.execWarmReset s
  | .dieRecovery => Sys2Proof.Machine.execDieRecovery s
  | .parkEnter => Sys2Proof.Machine.execParkEnter s
  | .parkLeave => Sys2Proof.Machine.execParkLeave s
  | .readmit value => Sys2Proof.Machine.execReadmit value s
  | .clearReverted => Sys2Proof.Machine.execClearReverted s
  | .keyRequest origin => Sys2Proof.Machine.execKeyRequest origin s
  | .attestationReport => Sys2Proof.Machine.execAttestationReport s
  | .faultLogAcknowledge sequence => Sys2Proof.Machine.execFaultLogAcknowledge sequence s
  | .tilePartDispatch tile work part => Sys2Proof.Machine.execTilePartDispatch tile work part s
  | .nop tile => Sys2Proof.Machine.execNop tile s
  | .mma tile => Sys2Proof.Machine.execMma tile s
  | .conv tile => Sys2Proof.Machine.execConv tile s
  | .anchor tile => Sys2Proof.Machine.execAnchor tile s
  | .stacc tile => Sys2Proof.Machine.execStacc tile s
  | .ldacc tile => Sys2Proof.Machine.execLdacc tile s
  | .rndacc tile => Sys2Proof.Machine.execRndacc tile s
  | .vew tile => Sys2Proof.Machine.execVew tile s
  | .vred tile => Sys2Proof.Machine.execVred tile s
  | .gather tile => Sys2Proof.Machine.execGather tile s
  | .scadd tile => Sys2Proof.Machine.execScadd tile s
  | .scaddr tile => Sys2Proof.Machine.execScaddr tile s
  | .sfn tile => Sys2Proof.Machine.execSfn tile s
  | .smax tile => Sys2Proof.Machine.execSmax tile s
  | .nstat tile => Sys2Proof.Machine.execNstat tile s
  | .move tile => Sys2Proof.Machine.execMove tile s
  | .stream tile => Sys2Proof.Machine.execStream tile s
  | .swap tile => Sys2Proof.Machine.execSwap tile s
  | .dgstore tile => Sys2Proof.Machine.execDgstore tile s
  | .endPart tile => Sys2Proof.Machine.execEndPart tile s
  | .syncTimeout tile => Sys2Proof.Machine.execSyncTimeout tile s
  | .descriptorStart tile queue => Sys2Proof.Machine.execDescriptorStart tile queue s
  | .descriptorComplete tile order => Sys2Proof.Machine.execDescriptorComplete tile order s
  | .syncWindowAllocate work => Sys2Proof.Machine.execSyncWindowAllocate work s
  | .syncWindowRelease work => Sys2Proof.Machine.execSyncWindowRelease work s
  | .tileWatchdog tile => Sys2Proof.Machine.execTileWatchdog tile s
  | .tileFault tile => Sys2Proof.Machine.execTileFault tile s
  | .tileSelfCheck tile passed => Sys2Proof.Machine.execTileSelfCheck tile passed s
  | .weightCacheParity die line => Sys2Proof.Machine.execWeightCacheParity die line s
  | .weightWindowFill die slot => Sys2Proof.Machine.execWeightWindowFill die slot s
  | .class3Stop tile => Sys2Proof.Machine.execClass3Stop tile s
  | .segmentEncode lane work seg => Sys2Proof.Machine.execSegmentEncode lane work seg s
  | .segmentDecode lane work seg => Sys2Proof.Machine.execSegmentDecode lane work seg s
  | .laneFault lane => Sys2Proof.Machine.execLaneFault lane s
  | .laneWatchdog lane => Sys2Proof.Machine.execLaneWatchdog lane s
  | .parseInputPicture work => Sys2Proof.Machine.execParseInputPicture work s
  | .rateControlBand ctx band => Sys2Proof.Machine.execRateControlBand ctx band s
  | .collectiveMaxAnchors work record others => Sys2Proof.Machine.execCollectiveMaxAnchors work record others s
  | .collectiveSumExact work record others => Sys2Proof.Machine.execCollectiveSumExact work record others s
  | .collectiveSumAnchored work record others => Sys2Proof.Machine.execCollectiveSumAnchored work record others s
  | .collectiveBroadcast work record others => Sys2Proof.Machine.execCollectiveBroadcast work record others s
  | .collectiveElementwiseMax work record others => Sys2Proof.Machine.execCollectiveElementwiseMax work record others s
  | .tickBarrier group n entries => Sys2Proof.Machine.execTickBarrier group n entries s
  | .motionSearchRow core ctx j row => Sys2Proof.Machine.execMotionSearchRow core ctx j row s
  | .codecTileJob core work tile => Sys2Proof.Machine.execCodecTileJob core work tile s
  | .scalerFrame unit work => Sys2Proof.Machine.execScalerFrame unit work s
  | .codecCoreFault kind core => Sys2Proof.Machine.execCodecCoreFault kind core s
  | .codecCoreWatchdog kind core => Sys2Proof.Machine.execCodecCoreWatchdog kind core s
  | .engineCompress engine work => Sys2Proof.Machine.execEngineCompress engine work s
  | .engineDecompress engine work => Sys2Proof.Machine.execEngineDecompress engine work s
  | .engineFault engine => Sys2Proof.Machine.execEngineFault engine s
  | .engineWatchdog engine => Sys2Proof.Machine.execEngineWatchdog engine s
  | .frameCommit work => Sys2Proof.Machine.execFrameCommit work s
  | .completionPost ring => Sys2Proof.Machine.execCompletionPost ring s
  | .rtpPacketReceive port packet dt => Sys2Proof.Machine.execRtpPacketReceive port packet dt s
  | .mergeWindowExpiry ctx seq dt => Sys2Proof.Machine.execMergeWindowExpiry ctx seq dt s
  | .inputFrameComplete ctx => Sys2Proof.Machine.execInputFrameComplete ctx s
  | .inputFrameTimeout ctx => Sys2Proof.Machine.execInputFrameTimeout ctx s
  | .icmpEcho port src dst ident seq data => Sys2Proof.Machine.execIcmpEcho port src dst ident seq data s
  | .arpRequest port target sender senderMac => Sys2Proof.Machine.execArpRequest port target sender senderMac s
  | .neighbourDiscovery port target sender senderMac => Sys2Proof.Machine.execNeighbourDiscovery port target sender senderMac s
  | .multicastQuery port group v6 => Sys2Proof.Machine.execMulticastQuery port group v6 s
  | .packetSend port => Sys2Proof.Machine.execPacketSend port s
  | .receiverBench flow receiver => Sys2Proof.Machine.execReceiverBench flow receiver s
  | .receiverReady flow receiver => Sys2Proof.Machine.execReceiverReady flow receiver s
  | .mediaPortFault port => Sys2Proof.Machine.execMediaPortFault port s
  | .mediaLinkUp port => Sys2Proof.Machine.execMediaLinkUp port s
  | .bar2Read offset length => Sys2Proof.Machine.execBar2Read offset length s
  | .bar2Write offset data => Sys2Proof.Machine.execBar2Write offset data s
  | .bar0BadAccess offset width => Sys2Proof.Machine.execBar0BadAccess offset width s
  | .pcieHotReset => Sys2Proof.Machine.execPcieHotReset s
  | .pciePowerStateChange d3hot => Sys2Proof.Machine.execPciePowerStateChange d3hot s
  | .hostDmaError work => Sys2Proof.Machine.execHostDmaError work s
  | .bridgeError bridge => Sys2Proof.Machine.execBridgeError bridge s
  | .controlCoreFail die core => Sys2Proof.Machine.execControlCoreFail die core s
  | .paltonDataFrame link frame => Sys2Proof.Machine.execPaltonDataFrame link frame s
  | .paltonControlFrame link ack credit level => Sys2Proof.Machine.execPaltonControlFrame link ack credit level s
  | .retryRequest link expected => Sys2Proof.Machine.execRetryRequest link expected s
  | .linkAckTimeout link => Sys2Proof.Machine.execLinkAckTimeout link s
  | .linkTraining link passed dt => Sys2Proof.Machine.execLinkTraining link passed dt s
  | .hello link data dt => Sys2Proof.Machine.execHello link data dt s
  | .helloSend dt => Sys2Proof.Machine.execHelloSend dt s
  | .addressMap root map => Sys2Proof.Machine.execAddressMap root map s
  | .routeFlood src upLinks => Sys2Proof.Machine.execRouteFlood src upLinks s
  | .flowUnpin src flow => Sys2Proof.Machine.execFlowUnpin src flow s
  | .messageAck peer flow msg => Sys2Proof.Machine.execMessageAck peer flow msg s
  | .fabricTickMessage link counter rate precedence serial ptp free => Sys2Proof.Machine.execFabricTickMessage link counter rate precedence serial ptp free s
  | .peerLost peer => Sys2Proof.Machine.execPeerLost peer s
  | .peerRegained peer => Sys2Proof.Machine.execPeerRegained peer s
  | .fabricOutputMessage sender flow ctx j data => Sys2Proof.Machine.execFabricOutputMessage sender flow ctx j data s
  | .mirrorMessage sender item => Sys2Proof.Machine.execMirrorMessage sender item s
  | .mirrorUnprotected => Sys2Proof.Machine.execMirrorUnprotected s
  | .powerEstimate die mW dt => Sys2Proof.Machine.execPowerEstimate die mW dt s
  | .estimateRecalibrate die => Sys2Proof.Machine.execEstimateRecalibrate die s
  | .railTelemetry readings dt => Sys2Proof.Machine.execRailTelemetry readings dt s
  | .currentStepUp die dt => Sys2Proof.Machine.execCurrentStepUp die dt s
  | .budgetBroker dt => Sys2Proof.Machine.execBudgetBroker dt s
  | .operatingPointStep die up => Sys2Proof.Machine.execOperatingPointStep die up s
  | .droopDetect die dt => Sys2Proof.Machine.execDroopDetect die dt s
  | .droopRelease die dt => Sys2Proof.Machine.execDroopRelease die dt s
  | .dieTemperatureStep die tenths dt => Sys2Proof.Machine.execDieTemperatureStep die tenths dt s
  | .stackTemperature stack tenths dt => Sys2Proof.Machine.execStackTemperature stack tenths dt s
  | .thermtrip unit => Sys2Proof.Machine.execThermtrip unit s
  | .regulatorWarning rail status dt => Sys2Proof.Machine.execRegulatorWarning rail status dt s
  | .regulatorWarningClear rail dt => Sys2Proof.Machine.execRegulatorWarningClear rail dt s
  | .railLost rail => Sys2Proof.Machine.execRailLost rail s
  | .throttleEpisodeEnd reason dt => Sys2Proof.Machine.execThrottleEpisodeEnd reason dt s
  | .correctedError stack row address => Sys2Proof.Machine.execCorrectedError stack row address s
  | .patrolScrub stack => Sys2Proof.Machine.execPatrolScrub stack s
  | .rowSpare stack row => Sys2Proof.Machine.execRowSpare stack row s
  | .uncorrectedError stack row address => Sys2Proof.Machine.execUncorrectedError stack row address s
  | .stackRateLimit stack => Sys2Proof.Machine.execStackRateLimit stack s
  | .powerOn vstbyHeld => Sys2Proof.Machine.execPowerOn vstbyHeld s
  | .perstAssert => Sys2Proof.Machine.execPerstAssert s
  | .perstDeassert vmemHeld => Sys2Proof.Machine.execPerstDeassert vmemHeld s
  | .stbyOkFall => Sys2Proof.Machine.execStbyOkFall s
  | .mainOkFall => Sys2Proof.Machine.execMainOkFall s
  | .startSequence found => Sys2Proof.Machine.execStartSequence found s
  | .mirrorRecovery => Sys2Proof.Machine.execMirrorRecovery s
  | .laneSelfCheck lane passed => Sys2Proof.Machine.execLaneSelfCheck lane passed s
  | .codecCoreSelfCheck kind core passed => Sys2Proof.Machine.execCodecCoreSelfCheck kind core passed s
  | .engineSelfCheck engine passed => Sys2Proof.Machine.execEngineSelfCheck engine passed s
  | .parkEntered => Sys2Proof.Machine.execParkEntered s
  | .umpireConfigurationDigest partner digest => Sys2Proof.Machine.execUmpireConfigurationDigest partner digest s
  | .spanGroupBlob group member blob modes => Sys2Proof.Machine.execSpanGroupBlob group member blob modes s
  | .fabricCopyReceive sender address data => Sys2Proof.Machine.execFabricCopyReceive sender address data s
  | .powerLoss => Sys2Proof.Machine.execPowerLoss s
  | .busMasterEnable on => Sys2Proof.Machine.execBusMasterEnable on s

end Sys2Proof.Machine
end

