-- ==== Sys2Proof/Safety.lean ====
section
/-! DEFINITION. What a sound state is, and which parts of the state an effect leaves alone: the terms in which statements about the
block are made. -/
namespace Sys2Proof
open Sys2Proof.Machine

/-- The parts of the state, one for each field of `State`. -/
inductive Part where
  | pending | dict | mem | host | clk | ctl | tiles | flags | libero | images | cache | windows | sync | syncWins | lanes | cdf | fns
  | pkgs | queue | works | jobs | frames | allocs | ctxs | rings | srings | flows | media | cores | fabric | umpire | power | protect
  | carried | traceAt | out | free
deriving DecidableEq, Repr

/-- Two states hold the same in a part. -/
def Part.same : Part → State → State → Prop
  | .pending, s, t => t.pending = s.pending
  | .dict, s, t => t.dict = s.dict
  | .mem, s, t => t.mem = s.mem
  | .host, s, t => t.host = s.host
  | .clk, s, t => t.clk = s.clk
  | .ctl, s, t => t.ctl = s.ctl
  | .tiles, s, t => t.tiles = s.tiles
  | .flags, s, t => t.flags = s.flags
  | .libero, s, t => t.libero = s.libero
  | .images, s, t => t.images = s.images
  | .cache, s, t => t.cache = s.cache
  | .windows, s, t => t.windows = s.windows
  | .sync, s, t => t.sync = s.sync
  | .syncWins, s, t => t.syncWins = s.syncWins
  | .lanes, s, t => t.lanes = s.lanes
  | .cdf, s, t => t.cdf = s.cdf
  | .fns, s, t => t.fns = s.fns
  | .pkgs, s, t => t.pkgs = s.pkgs
  | .queue, s, t => t.queue = s.queue
  | .works, s, t => t.works = s.works
  | .jobs, s, t => t.jobs = s.jobs
  | .frames, s, t => t.frames = s.frames
  | .allocs, s, t => t.allocs = s.allocs
  | .ctxs, s, t => t.ctxs = s.ctxs
  | .rings, s, t => t.rings = s.rings
  | .srings, s, t => t.srings = s.srings
  | .flows, s, t => t.flows = s.flows
  | .media, s, t => t.media = s.media
  | .cores, s, t => t.cores = s.cores
  | .fabric, s, t => t.fabric = s.fabric
  | .umpire, s, t => t.umpire = s.umpire
  | .power, s, t => t.power = s.power
  | .protect, s, t => t.protect = s.protect
  | .carried, s, t => t.carried = s.carried
  | .traceAt, s, t => t.traceAt = s.traceAt
  | .out, s, t => t.out = s.out
  | .free, s, t => t.free = s.free

/-- `t` differs from `s` in no part but those of `ps`. -/
def Kept (ps : List Part) (s t : State) : Prop := ∀ p, p ∉ ps → p.same s t

/-- `t` holds the same as `s` in every part of `ps`. -/
def Same (ps : List Part) (s t : State) : Prop := ∀ p, p ∈ ps → p.same s t

/-- Command `c` ends in a next state, and `P` holds of it. -/
def Runs (c : Instr) (s : State) (P : State → Prop) : Prop := ∃ t, exec c s = .next t ∧ P t

/-- Every scalar subentry of the dictionary but those of `ps` reads as before. -/
def RegsBut (ps : List (Nat × Nat)) (s t : State) : Prop := ∀ i j, j < 256 → (i, j) ∉ ps → getReg t i j = getReg s i j

/-- Every str and blob subentry of the dictionary but those of `ps` reads as before. -/
def BlobsBut (ps : List (Nat × Nat)) (s t : State) : Prop := ∀ i j, j < 256 → (i, j) ∉ ps → getBlob t i j = getBlob s i j

/-- Memory reads as before at every address outside the `n` bytes from `a`. -/
def BytesBut (a n : Nat) (m m' : Memory) : Prop := ∀ x, (x < a ∨ a + n ≤ x) → m'.get x = m.get x

end Sys2Proof
end

