-- ==== Sys2Proof/WellFormed.lean ====
section
/-! DEFINITION. Which commands name units, records and values that the part has. A command that is not well formed is no event of the
part; its meaning leaves the state as it is or follows from the numbers as given (log 6). -/
namespace Sys2Proof

/-- R15: tiles 0 … 383, lanes 0 … 127, compute dies 0 … 7, dies with the media dies 0 … 9, stacks 0 … 23. -/
def tileNo (t : Nat) : Bool := decide (t < 384)
def laneNo (l : Nat) : Bool := decide (l < 128)
def dieNo (d : Nat) : Bool := decide (d < 8)
def anyDieNo (d : Nat) : Bool := decide (d < 10)
def stackNo (k : Nat) : Bool := decide (k < 24)

/-- R381: contexts 0 … 16,383, package slots and flows 0 … 4,095, ring pairs 0 … 15. -/
def ctxNo (k : Nat) : Bool := decide (k < 16384)
def slotNo (k : Nat) : Bool := decide (k < 4096)
def flowNo (f : Nat) : Bool := decide (f < 4096)
def ringNo (r : Nat) : Bool := decide (r < 16)

/-- R399, R405: links 0 … 95 and fabric addresses 0 … 4,095. -/
def linkNo (i : Nat) : Bool := decide (i < 96)
def peerNo (a : Nat) : Bool := decide (a < 4096)

/-- R334: media ports 0 … 3; R345: receivers 0 … 63; R409: span groups 0 … 31. -/
def portNo (p : Nat) : Bool := decide (p < 4)
def receiverNo (r : Nat) : Bool := decide (r < 64)
def groupNo (g : Nat) : Bool := decide (g < 32)

/-- R315, R322: encode cores 0 … 11, decode cores 0 … 15, scalers 0 … 3 of both media dies; R330: engines 0 … 7. -/
def coreNo : CoreKind → Nat → Bool
  | .encode, n => decide (n < 12)
  | .decode, n => decide (n < 16)
  | .scaler, n => decide (n < 4)
def engineNo (e : Nat) : Bool := decide (e < 8)

/-- R449: rails 0 … 19; R464: throttle reasons 0 … 6; R38: external tick sources 1 … 3. -/
def railNo (r : Nat) : Bool := decide (r < 20)
def reasonNo (r : Nat) : Bool := decide (r < 7)
def sourceNo (i : Nat) : Bool := decide (1 ≤ i) && decide (i ≤ 3)

/-- A number of `w` bits. -/
def fits (w n : Nat) : Bool := decide (n < 2 ^ w)

/-- The unit of work of a context or of a ring pair. -/
def WorkId.wf : WorkId → Bool
  | .frame k _ => ctxNo k
  | .job r _ _ => ringNo r

/-- R462: a die 0 … 9, or a stack as 16 + its number. -/
def tripNo (u : Nat) : Bool := anyDieNo u || (decide (16 ≤ u) && decide (u < 40))

/-- Is a command well formed. -/
def Instr.wf : Instr → Bool
  | .tickBoundary => true
  | .lagLimit k => ctxNo k
  | .sourceQualified i _ => sourceNo i
  | .sourceLost i _ => sourceNo i
  | .sourceAdoptionHold i _ => sourceNo i
  | .timebaseStep _ => true
  | .serviceLoopPass _ _ => true
  | .heartbeat _ => true
  | .standbyTakeover => true
  | .dictWindowRequest t _ => fits 32 t
  | .dtpNetRequest p _ => decide (p < 5)
  | .dtpPeerRequest a _ => peerNo a
  | .dictWrite _ i x _ => fits 16 i && fits 8 x
  | .deviceFlagsClear m => fits 4 m
  | .tileFlagsClear m => fits 4 m
  | .functionSlotLoad _ => true
  | .functionSlotUnload => true
  | .functionSlotSwitch k => decide (k < 32)
  | .functionBankRelease k => decide (k < 32)
  | .tableSetAdd _ => true
  | .tableSetRemove _ => true
  | .cdfBankSwap => true
  | .cdfBankFree b => decide (b < 2)
  | .packageLoad k => slotNo k
  | .packageLoadRun => true
  | .packageUnload k => slotNo k
  | .contextBind k v => ctxNo k && decide (v < 0xFFFF)
  | .contextUnbind k => ctxNo k
  | .contextStart k => ctxNo k
  | .contextStartCheck k => ctxNo k
  | .contextStop k => ctxNo k
  | .contextTimeout k => ctxNo k
  | .snapshotWrite k => ctxNo k
  | .contextResume k => ctxNo k
  | .contextSwitch k n => ctxNo k && slotNo n
  | .switchTakeEffect k => ctxNo k
  | .referenceRequest k n j => ctxNo k && fits 8 n && fits 56 j
  | .umpireEnable => true
  | .umpireScorecardFrame a _ => peerNo a
  | .umpireHaltNotice a k _ => peerNo a && ctxNo k
  | .umpireLagEvent k _ => ctxNo k
  | .umpireResume => true
  | .umpireStop => true
  | .filterSetLoad => true
  | .filterSetUnload => true
  | .filterSetSwitch n => decide (1 ≤ n) && decide (n ≤ 7)
  | .stackRetireCommand k => stackNo k
  | .stackMigrationComplete k => stackNo k
  | .scorebookCopyRebuilt => true
  | .allocate => true
  | .free => true
  | .allocationRelease b => decide (b % 4096 = 0)
  | .fabricCopyStart => true
  | .fabricCopyDone => true
  | .warmReset => true
  | .dieRecovery => true
  | .parkEnter => true
  | .parkLeave => true
  | .readmit v => fits 32 v
  | .clearReverted => true
  | .keyRequest o => decide (o ≠ .peer)
  | .attestationReport => true
  | .faultLogAcknowledge n => fits 64 n
  | .tilePartDispatch t w _ => tileNo t && w.wf
  | .nop t => tileNo t
  | .mma t => tileNo t
  | .conv t => tileNo t
  | .anchor t => tileNo t
  | .stacc t => tileNo t
  | .ldacc t => tileNo t
  | .rndacc t => tileNo t
  | .vew t => tileNo t
  | .vred t => tileNo t
  | .gather t => tileNo t
  | .scadd t => tileNo t
  | .scaddr t => tileNo t
  | .sfn t => tileNo t
  | .smax t => tileNo t
  | .nstat t => tileNo t
  | .move t => tileNo t
  | .stream t => tileNo t
  | .swap t => tileNo t
  | .dgstore t => tileNo t
  | .endPart t => tileNo t
  | .syncTimeout t => tileNo t
  | .descriptorStart t q => tileNo t && decide (q < 4)
  | .descriptorComplete t _ => tileNo t
  | .syncWindowAllocate w => w.wf
  | .syncWindowRelease w => w.wf
  | .tileWatchdog t => tileNo t
  | .tileFault t => tileNo t
  | .tileSelfCheck t _ => tileNo t
  | .weightCacheParity d _ => dieNo d
  | .weightWindowFill d k => dieNo d && slotNo k
  | .class3Stop t => tileNo t
  | .segmentEncode l w _ => laneNo l && w.wf
  | .segmentDecode l w _ => laneNo l && w.wf
  | .laneFault l => laneNo l
  | .laneWatchdog l => laneNo l
  | .parseInputPicture w => w.wf
  | .rateControlBand k _ => ctxNo k
  | .collectiveMaxAnchors w _ _ => w.wf
  | .collectiveSumExact w _ _ => w.wf
  | .collectiveSumAnchored w _ _ => w.wf
  | .collectiveBroadcast w _ _ => w.wf
  | .collectiveElementwiseMax w _ _ => w.wf
  | .tickBarrier g _ es => groupNo g && es.all fun e => peerNo e.1
  | .motionSearchRow c k _ _ => coreNo .encode c && ctxNo k
  | .codecTileJob c w _ => (coreNo .encode c || coreNo .decode c) && w.wf
  | .scalerFrame u w => coreNo .scaler u && w.wf
  | .codecCoreFault kind c => coreNo kind c
  | .codecCoreWatchdog kind c => coreNo kind c
  | .engineCompress e w => engineNo e && w.wf
  | .engineDecompress e w => engineNo e && w.wf
  | .engineFault e => engineNo e
  | .engineWatchdog e => engineNo e
  | .frameCommit w => w.wf
  | .completionPost r => ringNo r
  | .rtpPacketReceive p x _ => portNo p && fits 16 x.seq && fits 32 x.stamp && fits 7 x.ptype && decide (x.csrc < 16)
  | .mergeWindowExpiry k _ _ => ctxNo k
  | .inputFrameComplete k => ctxNo k
  | .inputFrameTimeout k => ctxNo k
  | .icmpEcho p _ _ i n _ => portNo p.port && fits 16 i && fits 16 n
  | .arpRequest p a b m => portNo p.port && fits 32 a && fits 32 b && fits 48 m
  | .neighbourDiscovery p a b m => portNo p.port && fits 128 a && fits 128 b && fits 48 m
  | .multicastQuery p g _ => portNo p.port && fits 128 g
  | .packetSend p => portNo p
  | .receiverBench f r => flowNo f && receiverNo r
  | .receiverReady f r => flowNo f && receiverNo r
  | .mediaPortFault p => portNo p
  | .mediaLinkUp p => portNo p
  | .bar2Read _ _ => true
  | .bar2Write _ _ => true
  | .bar0BadAccess _ _ => true
  | .pcieHotReset => true
  | .pciePowerStateChange _ => true
  | .hostDmaError w => w.wf
  | .bridgeError b => decide (b < 14)
  | .controlCoreFail d c => dieNo d && decide (c < 4)
  | .paltonDataFrame i f => linkNo i && decide (f.data.length = 256) && fits 12 f.seq
  | .paltonControlFrame i a _ _ => linkNo i && fits 12 a
  | .retryRequest i e => linkNo i && fits 12 e
  | .linkAckTimeout i => linkNo i
  | .linkTraining i _ _ => linkNo i
  | .hello i _ _ => linkNo i
  | .helloSend _ => true
  | .addressMap _ m => m.all fun e => peerNo e.2
  | .routeFlood a us => peerNo a && us.all fun e => linkNo e.1 && peerNo e.2
  | .flowUnpin a f => peerNo a && fits 16 f
  | .messageAck a f m => peerNo a && fits 16 f && fits 32 m
  | .fabricTickMessage i _ r p _ _ _ => linkNo i && fits 8 r && fits 8 p
  | .peerLost a => peerNo a
  | .peerRegained a => peerNo a
  | .fabricOutputMessage a f k _ _ => peerNo a && flowNo f && ctxNo k
  | .mirrorMessage a _ => peerNo a
  | .mirrorUnprotected => true
  | .powerEstimate d _ _ => anyDieNo d
  | .estimateRecalibrate d => anyDieNo d
  | .railTelemetry rs _ => rs.all fun r => railNo r.rail
  | .currentStepUp d _ => dieNo d
  | .budgetBroker _ => true
  | .operatingPointStep d _ => dieNo d
  | .droopDetect d _ => dieNo d
  | .droopRelease d _ => dieNo d
  | .dieTemperatureStep d _ _ => anyDieNo d
  | .stackTemperature k _ _ => stackNo k
  | .thermtrip u => tripNo u
  | .regulatorWarning r _ _ => railNo r
  | .regulatorWarningClear r _ => railNo r
  | .railLost r => railNo r
  | .throttleEpisodeEnd r _ => reasonNo r
  | .correctedError k _ _ => stackNo k
  | .patrolScrub k => stackNo k
  | .rowSpare k _ => stackNo k
  | .uncorrectedError k _ _ => stackNo k
  | .stackRateLimit k => stackNo k
  | .powerOn _ => true
  | .perstAssert => true
  | .perstDeassert _ => true
  | .stbyOkFall => true
  | .mainOkFall => true
  | .startSequence _ => true
  | .mirrorRecovery => true
  | .laneSelfCheck l _ => laneNo l
  | .codecCoreSelfCheck kind c _ => coreNo kind c
  | .engineSelfCheck e _ => engineNo e
  | .parkEntered => true
  | .umpireConfigurationDigest a d => peerNo a && decide (d.length = 48)
  | .spanGroupBlob g a _ _ => groupNo g && peerNo a
  | .fabricCopyReceive a _ _ => peerNo a
  | .powerLoss => true
  | .busMasterEnable _ => true

end Sys2Proof
end

