-- ==== Sys2Proof/Certificates/Slice0/Obligations.lean ====
section
/-! DEFINITION. The statements of this model, made from the numbered rules of spec/. `Runs c s P` says that command `c` ends in a next state
of which `P` holds; `Kept ps s t` that nothing but the parts `ps` of the state changed; `Same ps s t` that the parts `ps` did not. -/

open Sys2Proof Sys2Proof.Machine

/-! ### The tick, its sources and the rounds (R36 to R57, R380) -/

/-- R36, R43, R380: at a tick boundary local time stands at the start of the next period, the house rate is taken from its subentries, and
what was written into the dictionary since the boundary before comes into force (the throttling record #3000 counts its reasons first). The
seed of R41 is excluded: the counter has been seeded or a PTP lock was held before. -/
def Obligations.TickBoundary : Prop :=
  ∀ s : State, inService s = true → (s.clk.ptpEver || s.clk.seeded) = true → Runs .tickBoundary s fun t =>
    t.clk.now = (counterOf s + 1) * period s ∧ t.clk.rate = getReg s 0x2000 0x01 ∧ t.clk.free = getReg s 0x2000 0x02 ∧
    (∀ i j, i ≠ 0x3000 → j < 256 → inForceReg t i j = getReg s i j) ∧
    Same [.pending, .flags, .rings, .protect, .traceAt] s t

/-- R36: while the house rate stands and its period is not zero, a boundary raises the tick counter by exactly one. R38 to R40, R37: what becomes of
the tick sources. A source that qualifies (source 2 with an offer that agrees with the counter) is marked with the time; one qualified for 30 s is
marked so; the loss of one that is not in use only unmarks it. When the source in use is lost the part turns at once to the next usable source of
higher precedence number, which ends holdover, or else to the internal oscillator, in holdover. With no stream context running a boundary takes a
step of local time, logged in nanoseconds. R57: a stream context whose lag has reached the limit of #2100.09 is marked behind and logged once. -/
def Obligations.TickTiming : Prop :=
  (∀ s : State, inService s = true → (s.clk.ptpEver || s.clk.seeded) = true → 0 < period s →
     s.clk.rate = getReg s 0x2000 0x01 → s.clk.free = getReg s 0x2000 0x02 →
     Runs .tickBoundary s fun t => counterOf t = counterOf s + 1) ∧
  ((∀ s i dt, inService s = true → (tickSource s i).qualified = false →
     let u := passTime s dt
     (i = 1 ∨ i = 3 ∨ (i = 2 ∧ ∃ o, bestOffer u = some o ∧ o.2.2.2 ≤ counterOf u + 1 ∧ counterOf u ≤ o.2.2.2 + 1)) →
     exec (.sourceQualified i dt) s = .next { u with clk := { u.clk with
       sources := u.clk.sources.set (i - 1) { qualified := true, since := u.clk.now }, ptpEver := u.clk.ptpEver || i == 1 } }) ∧
   (∀ s i dt, inService s = true → (i = 1 ∨ i = 2 ∨ i = 3) → (tickSource s i).qualified = true → getReg s 0x2000 0x07 ≠ i →
     let u := passTime s dt
     exec (.sourceLost i dt) s = .next { u with clk := { u.clk with
       sources := u.clk.sources.set (i - 1) {}
       following := if i = 2 then none else u.clk.following
       offers := if i = 2 then [] else u.clk.offers } }) ∧
   (∀ s i dt, inService s = true → (i = 1 ∨ i = 2 ∨ i = 3) → (tickSource s i).qualified = true → getReg s 0x2000 0x07 = i →
     let u := passTime s dt
     let next := ([1, 2, 3].find? fun j => decide (i < j) && sourceUsable s j).getD 4
     Runs (.sourceLost i dt) s fun t =>
       getReg t 0x2000 0x07 = next ∧ getReg t 0x2000 0x0B = getReg (addReg s 0x2000 0x0B 1) 0x2000 0x0B ∧
       (tickSource t i).qualified = false ∧ (∃ e, e ∈ t.ctl.log ∧ e.code = 0x0001 ∧ e.detail = next * 256 + i) ∧
       t.clk.holdSince = (if next = 4 then some (u.clk.holdSince.getD u.clk.now) else none) ∧ t.clk.now = u.clk.now ∧
       Kept [.clk, .dict, .ctl] s t) ∧
   (∀ s i dt, inService s = true → (i = 1 ∨ i = 2 ∨ i = 3) → (tickSource s i).qualified = true →
     let u := passTime s dt
     (tickSource s i).since + 90000000000 ≤ u.clk.now →
     exec (.sourceAdoptionHold i dt) s = .next { u with clk := { u.clk with
       sources := u.clk.sources.set (i - 1) { tickSource s i with held30 := true } } }) ∧
   (∀ s ns, inService s = true → ns ≠ 0 → runningCtxs s = [] → s.clk.now % period s = 0 →
     exec (.timebaseStep ns) s = .next (setReg
       (logFault { s with clk := { s.clk with now := ((s.clk.now : Int) + 3 * ns).toNat } } 0x0002 0 0 0 0xFFFF (i64Code ns)) 0x2000 0x0A 0))) ∧
  (defaultOf 0x2100 0x09 = 8 ∧ ∀ s k, controlled s = true → k < 16384 → getReg s 0x2100 0x09 ≤ getReg s (ctxIndex k) 0x3A →
     (getReg s (ctxIndex k) 0x3B).testBit 0 = false →
     exec (.lagLimit k) s = .next (logFault (setReg s (ctxIndex k) 0x3B (setBitAt (getReg s (ctxIndex k) 0x3B) 0)) 0x0003 0 0 0 k
       (getReg s (ctxIndex k) 0x3A)))

/-! ### The service loop, the clusters and the PCI Express function (R19, R28, R29, R358 to R366, R436, R474) -/

/-- R362, R366: at a pass of the service loop, with DMA possible, every vector that was due is sent, each once, after whatever left the part
before; the device's units, its clocks and the power loops stay as they are. While DMA is not possible what the host has written into its own
memory is there and nothing of it is taken; the vectors leave while the link is up. -/
def Obligations.ServiceLoop : Prop :=
  (∀ s ws failed, controlled s = true → dmaOk s = true → Runs (.serviceLoopPass ws failed) s fun t =>
    t.ctl.msix = [] ∧ (∀ v, v ∈ s.ctl.msix → Emission.msix v ∈ t.out) ∧ (∃ more, t.out = s.out ++ more) ∧
    Same [.pending, .clk, .tiles, .flags, .libero, .images, .cache, .windows, .sync, .syncWins, .lanes, .cdf, .fns, .pkgs, .queue, .works,
      .cores, .umpire, .power, .protect, .carried, .traceAt, .free] s t) ∧
  (∀ s (ws : List (Nat × Byte)) failed, controlled s = true → dmaOk s = false → s.ctl.linkUp = true →
    exec (.serviceLoopPass ws failed) s = .next { s with
      host := ws.foldl (fun m w => m.set (w.1 % 2 ^ 64) w.2) s.host
      out := s.out ++ s.ctl.msix.map Emission.msix
      ctl := { s.ctl with msix := [] } }) ∧
  (∀ s (ws : List (Nat × Byte)) failed, controlled s = true → s.ctl.linkUp = false →
    exec (.serviceLoopPass ws failed) s = .next { s with host := ws.foldl (fun m w => m.set (w.1 % 2 ^ 64) w.2) s.host })

/-- R28, R29, R359: the standby counts the heartbeats that miss in a row, one that arrives sets the count to 0; after three it takes over: the
failed cluster is out, none is in control, and the device status word keeps the status bits it showed. When a control core fails, each role
that it held, or was to take, is set to move to the next surviving core of its die. -/
def Obligations.Clusters : Prop :=
  (∀ s c, inService s = true → s.ctl.inCharge = some c → s.ctl.clusterOk.getD (1 - c) false = true →
    exec (.heartbeat true) s = .next { s with ctl := { s.ctl with missed := 0 } } ∧
    exec (.heartbeat false) s = .next { s with ctl := { s.ctl with missed := s.ctl.missed + 1 } }) ∧
  (∀ s c, inService s = true → s.ctl.inCharge = some c → 3 ≤ s.ctl.missed →
    exec .standbyTakeover s = .next { s with ctl := { s.ctl with
      inCharge := none, takeover := true, statusHeld := statusBits s, clusterOk := s.ctl.clusterOk.set c false } }) ∧
  (∀ s c, inService s = true → s.ctl.inCharge = some c → s.ctl.missed < 3 → exec .standbyTakeover s = .next s) ∧
  (∀ s die core, inService s = true → die < 8 → core < 4 → s.ctl.coreDown.contains (4 * die + core) = false →
    Runs (.controlCoreFail die core) s fun t =>
      t.ctl.coreDown = s.ctl.coreDown ++ [4 * die + core] ∧
      (∀ r c, r < 4 → roleHolder s die r = core →
        ([core + 1, core + 2, core + 3].find? fun x => !t.ctl.coreDown.contains (4 * die + x % 4)) = some c →
        nget t.ctl.roleMoves (4 * die + r) = some (c % 4)) ∧
      (∀ r, (∀ x, x < 4 → r = 4 * die + x → roleHolder s die x ≠ core) → nget t.ctl.roleMoves r = nget s.ctl.roleMoves r) ∧
      t = { s with ctl := { s.ctl with coreDown := t.ctl.coreDown, roleMoves := t.ctl.roleMoves } }) ∧
  (∀ s die core, inService s = true → (8 ≤ die ∨ 4 ≤ core ∨ s.ctl.coreDown.contains (4 * die + core) = true) →
    exec (.controlCoreFail die core) s = .next s)

/-- R358, R360: reading BAR2 returns the bytes of device memory inside host allocations and loaded packages, and ones outside; a write changes
exactly the bytes it names that lie inside host allocations and drops the others, logging the first; an access of BAR0 that is not 4 or 8 bytes wide
and naturally aligned is an unsupported request. R436, R474, R479: a hot reset of the port takes Bus Master Enable away and counts as a reset of
kind 4; D3hot and Bus Master Enable follow the host's writes. -/
def Obligations.PciExpress : Prop :=
  ((∀ s a n, inService s = true →
     exec (.bar2Read a n) s = .next { s with out := s.out ++ [.hostRead ((List.range n).map fun i =>
       if inHostAlloc s (a + i) 1 || s.pkgs.any (fun e => decide (e.2.copy ≤ a + i) && decide (a + i < e.2.copy + e.2.len)) then s.mem.get (a + i)
       else 0xFF)] }) ∧
   (∀ s a (bs : List Byte), inService s = true → s.mem.wf = true → Runs (.bar2Write a bs) s fun t =>
     BytesBut a bs.length s.mem t.mem ∧
     (∀ i, (h : i < bs.length) → t.mem.get (a + i) = if inHostAlloc s (a + i) 1 then bs[i] else s.mem.get (a + i)) ∧
     Kept [.mem, .dict, .ctl] s t ∧
     (∀ i, i < bs.length → inHostAlloc s (a + i) 1 = false → (∀ j, j < i → inHostAlloc s (a + j) 1 = true) →
       ∃ e, t.ctl.log.getLast? = some e ∧ e.code = 0x0090 ∧ e.detail = a + i ∧ e.sequence = getReg s 0xE000 0x01 + 1) ∧
     ((∀ i, i < bs.length → inHostAlloc s (a + i) 1 = true) → Kept [.mem] s t)) ∧
   (∀ s a w, (s.ctl.phase = .starting ∨ s.ctl.phase = .service ∨ s.ctl.phase = .failed) → ¬ ((w = 4 ∨ w = 8) ∧ a % w = 0) →
     exec (.bar0BadAccess a w) s = .next { s with out := s.out ++ [.unsupportedRequest] })) ∧
  ((∀ s, (s.ctl.phase = .starting ∨ s.ctl.phase = .service ∨ s.ctl.phase = .failed) → Runs .pcieHotReset s fun t =>
     t.ctl.busMaster = false ∧ t.ctl.d3hot = false ∧ getReg t 0x1200 0x04 = 4 ∧ Kept [.dict, .ctl] s t ∧
     RegsBut [(0x1200, 0x04), (0xE000, 0x01), (0xE000, 0x05)] s t ∧ BlobsBut [(0x1200, 0x05)] s t) ∧
   (∀ s b, (s.ctl.phase = .starting ∨ s.ctl.phase = .service ∨ s.ctl.phase = .failed) →
     exec (.pciePowerStateChange b) s = .next { s with ctl := { s.ctl with d3hot := b } }) ∧
   (∀ s b, (s.ctl.phase = .starting ∨ s.ctl.phase = .service ∨ s.ctl.phase = .failed) →
     exec (.busMasterEnable b) s = .next { s with ctl := { s.ctl with busMaster := b } }))

/-! ### Power, current, droop and heat (R449 to R464, R496). `noteReasons` and `countReasons` are R464's episodes and counters, which follow
every power event; `u` is the state when the event happens. -/

/-- R451, R452: a power estimate scaled by the die's factor is stored; above the enforced limit of the die's rail it is a breach, which lowers the
die's current limit to one point below the point it runs at; a millisecond without a breach raises it by one point. R457: the broker lowers no die
while the predicted power of all dies, at the points that the other reasons allow, is within the cap less what the fixed rails draw; whatever it
decides, the dies' own points and the other holds stay as they are. -/
def Obligations.PowerLimits : Prop :=
  ((∀ s d mW dt, inService s = true → d < 8 →
     let u := countReasons (passTime s dt)
     let x := diePower u d
     let e := mW * x.scale / 1000000
     let x' : DiePower := { x with estimate := e, sumEst := x.sumEst + mW, nEst := x.nEst + 1 }
     exec (.powerEstimate d mW dt) s = .next (noteReasons (
       if railLimit u d * (pointOf u d x.point).2 < e * 1000 then
         putDie (putDie u d x') d (if stepDue u.clk.now 150000 x.breachAt then
           { x' with current := Nat.min x.current x.point - 1, breachAt := some u.clk.now } else x')
       else putDie u d x'))) ∧
   (∀ s d dt, inService s = true → d < 8 →
     let u := countReasons (passTime s dt)
     let x := diePower u d
     x.current < 15 → stepDue u.clk.now 3000000 x.breachAt = true → x.upAt + 3000000 ≤ u.clk.now →
     exec (.currentStepUp d dt) s = .next (noteReasons (putDie u d { x with current := x.current + 1, upAt := u.clk.now }))) ∧
   (∀ s d, inService s = true → d < 8 →
     let x := diePower s d
     x.sumEst ≠ 0 → x.nAvs ≠ 0 →
     exec (.estimateRecalibrate d) s = .next (putDie s d
       { x with scale := x.sumAvs * x.nEst * 1000000 / (x.nAvs * x.sumEst), sumEst := 0, nEst := 0, sumAvs := 0, nAvs := 0 })) ∧
   (∀ s (rs : List RailReading) dt, inService s = true → Runs (.railTelemetry rs dt) s fun t =>
     Kept [.power, .clk, .dict, .ctl] s t ∧ ∀ r, rs.getLast? = some r → r.rail < 20 → nget t.power.rails r.rail = some (r.mV, r.mA)) ∧
   (∀ s (r : RailReading) dt, inService s = true → r.rail < 20 → Runs (.railTelemetry [r] dt) s fun t =>
     nget t.power.rails r.rail = some (r.mV, r.mA) ∧ Kept [.power, .clk, .dict, .ctl] s t ∧
     (r.rail < 8 → railLimit s r.rail < r.mA → stepDue (passTime s dt).clk.now 150000 (diePower s r.rail).breachAt = true →
       (diePower t r.rail).current = Nat.min (diePower s r.rail).current (diePower s r.rail).point - 1))) ∧
  (∀ s dt, controlled s = true → Runs (.budgetBroker dt) s fun t =>
     let u := countReasons (passTime s dt)
     (∀ d, d < 8 → (diePower t d).point = (diePower s d).point ∧ (diePower t d).current = (diePower s d).current ∧
       (diePower t d).temp = (diePower s d).temp ∧ (diePower t d).broker ≤ 15) ∧
     (sumAbove u ((List.range 8).map fun d => Nat.min (targetPoint u d) (otherHold (diePower u d)))
         (inForceReg u 0x3000 0x01 * 1000 - fixedPower u) = false → ∀ d, d < 8 → (diePower t d).broker = 15) ∧
     Kept [.power, .clk, .dict, .ctl] s t)

/-- R453: a die completes one step toward the point it is to run at; #3000.11 shows the new point, and its regulator is set to the new voltage.
R459: a droop detector that fires stretches its die's clock and is counted in #3000.17; the stretch ends no sooner than 32 cycles of twice the
period after it began. -/
def Obligations.ClocksAndVoltages : Prop :=
  (∀ s d up, inService s = true → d < 8 →
     let u := countReasons (passTime s 0)
     let x := diePower u d
     (if up then x.point < wantedPoint u d else wantedPoint u d < x.point) →
     let p := if up then x.point + 1 else x.point - 1
     let v := putDie u d { x with point := p }
     exec (.operatingPointStep d up) s = .next (noteReasons { v with out := v.out ++ [.avsVoltage d (pointOf u d p).2] }) ∧
     valueOf v 0x3000 0x11 = .ok ((List.range 8).map fun e => BitVec.ofNat 8 (diePower v e).point)) ∧
  ((∀ s d dt, inService s = true → d < 10 → nget s.power.droopAt d = none →
     let u := countReasons (passTime s dt)
     exec (.droopDetect d dt) s = .next (noteReasons
       (addReg { u with power := { u.power with droopAt := nset u.power.droopAt d u.clk.now } } 0x3000 0x17 1))) ∧
   (∀ s d dt at', inService s = true → nget s.power.droopAt d = some at' →
     let u := countReasons (passTime s dt)
     at' * dieMHz u d + 192000 ≤ u.clk.now * dieMHz u d →
     exec (.droopRelease d dt) s = .next (noteReasons { u with power := { u.power with droopAt := ndel u.power.droopAt d } })))

/-- R460, R461: a temperature reading is shown in #3000.12 or .13. One at or above the threshold lowers the hold of a compute die to one point below
the point it runs at, at once and then every 100 µs; a stack at 85 °C or more refreshes twice as often. R462: a thermal trip halts the part,
whatever it does, loses class w, and drives THERMTRIP#; the unit is kept until VSTBY is removed. R463, R464: a regulator warning is logged with its
rail and status, and holds a compute rail's die at point 7 or below; it ends 10 ms after it was last reported. A rail that is lost fails the part.
An episode of a reason ends when the reason has been clear for 1 ms. -/
def Obligations.HeatAndRails : Prop :=
  ((∀ s d tenths dt, inService s = true → d < 8 → Runs (.dieTemperatureStep d tenths dt) s fun t =>
     getBlob t 0x3000 0x12 = putTenths (getBlob s 0x3000 0x12) d tenths ∧ Kept [.power, .clk, .dict, .ctl] s t ∧
     (10 * (getReg s 0x3000 0x03 : Int) ≤ tenths → stepDue (passTime s dt).clk.now 300000 (diePower s d).tempAt = true →
       (diePower t d).temp = Nat.min (diePower s d).temp (diePower s d).point - 1 ∧
       (diePower t d).tempAt = some (passTime s dt).clk.now) ∧
     (∀ e, e ≠ d → diePower t e = diePower s e)) ∧
   (∀ s d tenths dt, inService s = true → (d = 8 ∨ d = 9) → Runs (.dieTemperatureStep d tenths dt) s fun t =>
     getBlob t 0x3000 0x12 = putTenths (getBlob s 0x3000 0x12) d tenths ∧ Kept [.power, .clk, .dict, .ctl] s t ∧
     (10 * (getReg s 0x3000 0x03 : Int) ≤ tenths → d ∈ t.power.mediaHot) ∧ (∀ e, e ≠ d → diePower t e = diePower s e)) ∧
   (∀ s k tenths dt, inService s = true → k < 24 → Runs (.stackTemperature k tenths dt) s fun t =>
     getBlob t 0x3000 0x13 = putTenths (getBlob s 0x3000 0x13) k tenths ∧ (k ∈ t.power.refresh2x ↔ 850 ≤ tenths) ∧
     (∀ e, e ≠ k / 3 → diePower t e = diePower s e) ∧ Kept [.power, .clk, .dict, .ctl] s t)) ∧
  (∀ s u, s.ctl.vstbyOff = false → s.ctl.phase ≠ .off → s.ctl.tripped = none → (u < 10 ∨ (16 ≤ u ∧ u < 40)) →
     exec (.thermtrip u) s = .next { s with
       ctl := { s.ctl with phase := .halted, tripped := some u, lossOfW := true, inCharge := none }, out := s.out ++ [.thermtrip] }) ∧
  ((∀ s rail status dt, inService s = true → rail < 16 →
     let u := countReasons (passTime s dt)
     let v := logFault u 0x0301 0 0 0 0xFFFF (rail * 65536 + status)
     let w : State := { v with power := { v.power with warnings := nset v.power.warnings rail v.clk.now } }
     exec (.regulatorWarning rail status dt) s = .next (noteReasons (putDie w (rail % 8) { diePower w (rail % 8) with warned := 7 }))) ∧
   (∀ s rail status dt, inService s = true → 16 ≤ rail → rail < 20 →
     let v := logFault (countReasons (passTime s dt)) 0x0301 0 0 0 0xFFFF (rail * 65536 + status)
     exec (.regulatorWarning rail status dt) s = .next (noteReasons (
       if rail = 16 then { v with power := { v.power with warnings := nset v.power.warnings rail v.clk.now } } else v))) ∧
   (∀ s rail dt at', inService s = true → rail < 16 → nget s.power.warnings rail = some at' →
     nget s.power.warnings ((rail + 8) % 16) = none →
     let u := countReasons (passTime s dt)
     at' + 30000000 ≤ u.clk.now →
     let w : State := { u with power := { u.power with warnings := ndel u.power.warnings rail } }
     exec (.regulatorWarningClear rail dt) s = .next (noteReasons (putDie w (rail % 8) { diePower w (rail % 8) with warned := 15 }))) ∧
   (∀ s dt at', inService s = true → nget s.power.warnings 16 = some at' →
     let u := countReasons (passTime s dt)
     at' + 30000000 ≤ u.clk.now →
     exec (.regulatorWarningClear 16 dt) s = .next (noteReasons { u with power := { u.power with warnings := ndel u.power.warnings 16 } })) ∧
   (∀ s rail, (inService s = true ∨ s.ctl.phase = .starting) → rail < 20 →
     let u := logFault s 0x0302 1 0 0 0xFFFF rail
     exec (.railLost rail) s = .next { u with ctl := { u.ctl with phase := .failed, lossOfW := true } }) ∧
   (∀ s r dt at', inService s = true → nget s.power.cleared r = some at' →
     let u := countReasons (passTime s dt)
     at' + 3000000 ≤ u.clk.now → holding u r = false →
     exec (.throttleEpisodeEnd r dt) s = .next (noteReasons
       (setReg { u with power := { u.power with cleared := ndel u.power.cleared r } } 0x3000 0x09 (clearBitAt (getReg u 0x3000 0x09) r)))))

/-! ### Device memory: allocations, errors, retirement (R23, R427, R438 to R441, R446, R448) -/

/-- R446, R166: ALLOCATE reserves the length of #4000.10 rounded up to 4 KiB where a range is free, on the stacks of one die, shows its first byte
in #4000.11 and ends with ST_OK; the range overlaps no other allocation; a length of 0 is ST_BAD_DESCRIPTOR and no free range ST_NO_MEMORY. FREE of a range nothing uses
returns it at once, and a range still in use when its last use has ended; an address that begins no host allocation is ST_BAD_ADDRESS. -/
def Obligations.HostAllocations : Prop :=
  (∀ s b, controlled s = true → getReg s 0x4000 0x10 ≠ 0 → placeRange s (alignUp 4096 (getReg s 0x4000 0x10)) = some b →
    Runs .allocate s fun t =>
      t.allocs = s.allocs ++ [⟨b, alignUp 4096 (getReg s 0x4000 0x10), 0, false, anyDie s⟩] ∧ anyDie s < 8 ∧ getReg t 0x4000 0x11 = b ∧ getReg t 0x4000 0x13 = 0 ∧
      (∀ a, a ∈ s.allocs → overlaps a.base a.size b (alignUp 4096 (getReg s 0x4000 0x10)) = false) ∧
      RegsBut [(0x4000, 0x11), (0x4000, 0x13)] s t ∧ Kept [.dict, .allocs, .free] s t) ∧
  (∀ s, controlled s = true → getReg s 0x4000 0x10 = 0 → exec .allocate s = .next (setReg s 0x4000 0x13 0x0200)) ∧
  (∀ s, controlled s = true → getReg s 0x4000 0x10 ≠ 0 → placeRange s (alignUp 4096 (getReg s 0x4000 0x10)) = none →
    exec .allocate s = .next (setReg s 0x4000 0x13 0x0310)) ∧
  (∀ s a, controlled s = true → hostAlloc s (getReg s 0x4000 0x11) = some a → allocInUse s a = false →
    exec .free s = .next (setReg { s with allocs := s.allocs.filter fun x => x.base != a.base } 0x4000 0x13 0)) ∧
  (∀ s a, controlled s = true → hostAlloc s (getReg s 0x4000 0x11) = some a → allocInUse s a = true → Runs .free s fun t =>
    getReg t 0x4000 0x13 = 1 ∧ hostAlloc t a.base = none ∧ t.allocs.map (·.base) = s.allocs.map (·.base) ∧ Kept [.dict, .allocs] s t) ∧
  (∀ s, controlled s = true → hostAlloc s (getReg s 0x4000 0x11) = none → exec .free s = .next (setReg s 0x4000 0x13 0x0204)) ∧
  (∀ s a, controlled s = true → (s.allocs.find? fun x => x.base == a.base && x.owner == 0 && x.freed) = some a → allocInUse s a = false →
    Runs (.allocationRelease a.base) s fun t =>
      t.allocs = s.allocs.filter (fun x => x.base != a.base) ∧ RegsBut [(0x4000, 0x13)] s t ∧
      (getReg s 0x4000 0x13 = 1 → getReg s 0x4000 0x11 = a.base → getReg t 0x4000 0x13 = 0) ∧ Kept [.dict, .allocs] s t)

/-- R438, R439, R440: a corrected error raises the stack's counter and the part's; a scrub pass is counted; a row with four corrected errors within
24 hours is spared while the stack has a spare row, and its stack is retired when it has none; a retirement of a stack in service starts its
migration and is pending. R23, R427, R440, R448: a migration that ends leaves the stack retired, its bit set in #4000.03, its retirement command
ended, and its entry at the end of the journal; the headroom absorbs the first retired stack, and the second takes 68.75 GB of the allocatable
capacity; a copy of the scorebook that is rebuilt stands on its new stack and both copies are whole again. -/
def Obligations.StackFaults : Prop :=
  ((∀ s k row a, inService s = true → k < 24 → getReg s (stackIndex k) 0x01 ≤ 1 →
     let u := addReg (addReg s (stackIndex k) 0x02 1) 0x4000 0x0C 1
     exec (.correctedError k row a) s = .next { u with protect := { u.protect with
       rowErrors := u.protect.rowErrors ++ [(k, row, u.clk.now / 3000)] } }) ∧
   (∀ s k, inService s = true → k < 24 → getReg s (stackIndex k) 0x01 ≤ 1 →
     exec (.patrolScrub k) s = .next (addReg s (stackIndex k) 0x05 1)) ∧
   (∀ s k row, controlled s = true → k < 24 → getReg s (stackIndex k) 0x01 = 0 → s.protect.migrating = none → rowDue s k row = true →
     8192 ≤ getReg s (stackIndex k) 0x04 →
     let u := logFault (setReg s (stackIndex k) 0x01 1) 0x0202 0 3 k 0xFFFF 2
     exec (.rowSpare k row) s = .next { u with protect := { u.protect with migrating := some k, migratedWhy := 2 } }) ∧
   (∀ s k row, controlled s = true → k < 24 → getReg s (stackIndex k) 0x01 ≤ 1 → rowDue s k row = true → getReg s (stackIndex k) 0x04 < 7168 →
     let u := addReg s (stackIndex k) 0x04 1
     exec (.rowSpare k row) s = .next (logFault { u with protect := { u.protect with
       rowErrors := u.protect.rowErrors.filter (fun e => !(e.1 == k && e.2.1 == row))
       spared := u.protect.spared ++ [(k, row)] } } 0x0200 0 3 k 0xFFFF row)) ∧
   (∀ s k, controlled s = true → k < 24 → getReg s (stackIndex k) 0x01 = 0 → s.protect.migrating = none →
     let u := logFault (setReg s (stackIndex k) 0x01 1) 0x0202 0 3 k 0xFFFF 1
     exec (.stackRateLimit k) s = .next { u with protect := { u.protect with migrating := some k, migratedWhy := 1 } }) ∧
   (∀ s k, controlled s = true → k < 24 → getReg s (stackIndex k) 0x01 = 0 → s.protect.migrating = none →
     let u := logFault (setReg s (stackIndex k) 0x01 1) 0x0202 0 3 k 0xFFFF 3
     exec (.stackRetireCommand k) s = .next (setReg { u with protect := { u.protect with
       migrating := some k, migratedWhy := 3 } } 0x4000 0x0F 1)) ∧
   (∀ s k, controlled s = true → k < 24 → (getReg s (stackIndex k) 0x01 ≠ 0 ∨ s.protect.migrating ≠ none) →
     exec (.stackRetireCommand k) s = .next (setReg s 0x4000 0x0F 0x0406)) ∧
   (∀ s k row a, inService s = true → k < 24 → getReg s (stackIndex k) 0x01 ≤ 1 → Runs (.uncorrectedError k row a) s fun t =>
     getReg t (stackIndex k) 0x03 = getReg (addReg s (stackIndex k) 0x03 1) (stackIndex k) 0x03 ∧ rowDue t k row = true ∧
     Same [.pending, .host, .clk, .flags, .libero, .cache, .windows, .lanes, .cdf, .fns, .queue, .frames, .allocs, .rings, .srings,
       .flows, .media, .cores, .fabric, .umpire, .power, .carried, .traceAt, .out, .free] s t)) ∧
  ((∀ s k, controlled s = true → k < 24 → s.protect.migrating = some k → Runs (.stackMigrationComplete k) s fun t =>
     getReg t (stackIndex k) 0x01 = 2 ∧ (getReg t 0x4000 0x03).testBit k = true ∧ t.protect.migrating = none ∧
     (getReg s 0x4000 0x0F = 1 → getReg t 0x4000 0x0F = 0) ∧ 
     (t.ctl.journal.getLast?.map fun e => (e.step, e.kind, e.unit, e.event)) = some (6, 3, k, 6) ∧
     (getReg s 0x4000 0x03 = 0 → allocCapacity t = getReg s 0x4000 0x01) ∧
     (∀ j, j < 24 → j ≠ k → getReg s 0x4000 0x03 = 2 ^ j → allocCapacity t = getReg s 0x4000 0x01 - 68750000000) ∧
     Kept [.dict, .ctl, .protect] s t) ∧
   (∀ s i n, controlled s = true → s.protect.rebuild = some (i, n) →
     let c := getReg s 0x4000 0x05
     let u : State := { s with protect := { s.protect with rebuild := none } }
     exec .scorebookCopyRebuilt s = .next (logFault
       (setReg (setReg u 0x4000 0x05 (if i = 0 then c / 256 * 256 + n else n * 256 + c % 256)) 0x4000 0x04 0) 0x0205 0 3 n 0xFFFF n)))

/-- R418: a copy of a range inside one host allocation to a reachable peer is pending until the peer has acknowledged every byte; bytes that a peer
copies here go to the address it names, and nowhere else, where they lie within one host allocation and peer access is on. R408, R418, R348, R442:
an acknowledgement takes the message it names off the list of those kept, and no other: a copy's message also off those the copy waits for, the
mirror's off the items the mirror has yet to acknowledge; an egress output is held for its receiver no longer. R442 to R444: an item that fits the
mirror store takes the place of what it renews, and an entry in state 4 only removes what it ends; it is acknowledged. While this part recovers its
own scorebook, what its mirror peer gives back is kept for the recovery and acknowledged. After 8 ticks without the mirror the part runs on
unprotected: #4000.08 is 3 and nothing waits for the mirror any more. -/
def Obligations.FabricMessages : Prop :=
  ((∀ s, controlled s = true → getReg s 0x4100 0x0F ≠ 1 → getReg s 0x4100 0x0D ≠ 0 → getReg s 0x4100 0x0A ≠ ownAddress s →
     reachable s (getReg s 0x4100 0x0A) = true → inHostAlloc s (getReg s 0x4100 0x0C) (getReg s 0x4100 0x0D) = true →
     getReg s 0x4100 0x0B + getReg s 0x4100 0x0D ≤ 1650000000000 → Runs .fabricCopyStart s fun t =>
       getReg t 0x4100 0x0F = 1 ∧ t.fabric.copyMsgs ≠ [] ∧
       (getReg s 0x4100 0x0D ≤ 16777208 → ∃ m, t.fabric.copyMsgs = [m] ∧ Emission.fabricMessage (getReg s 0x4100 0x0A) 5 m
         (leBytes 8 (getReg s 0x4100 0x0B) ++ s.mem.read (getReg s 0x4100 0x0C) (getReg s 0x4100 0x0D)) ∈ t.out) ∧
       (∀ i j, j < 256 → (i, j) ≠ (0x4100, 0x0F) → (∀ l, (i, j) ≠ (linkIndex l, 0x07)) → getReg t i j = getReg s i j) ∧
       Kept [.dict, .fabric, .out] s t) ∧
   (∀ s, controlled s = true → getReg s 0x4100 0x0F = 1 → s.fabric.copyMsgs = [] →
     exec .fabricCopyDone s = .next (setReg s 0x4100 0x0F 0)) ∧
   (∀ s sender a (bs : List Byte), controlled s = true → getReg s 0x1100 0x0A ≠ 0 → inHostAlloc s a bs.length = true → s.mem.wf = true →
     Runs (.fabricCopyReceive sender a bs) s fun t =>
       t.mem.read a bs.length = bs ∧ BytesBut a bs.length s.mem t.mem ∧ Kept [.mem, .out] s t ∧ t.out.length = s.out.length + 1)) ∧
  ((∀ s peer flow msg, inService s = true → flow ≠ 4 → flow ≠ 5 → flow < 0x1000 →
     exec (.messageAck peer flow msg) s = .next { s with fabric := { s.fabric with
       kept := s.fabric.kept.filter fun k => !(k.peer == peer && k.flow == flow && k.msg == msg) } }) ∧
   (∀ s msg, inService s = true →
     let peer := getReg s 0x4100 0x0A
     exec (.messageAck peer 5 msg) s = .next { s with fabric := { s.fabric with
       kept := s.fabric.kept.filter (fun k => !(k.peer == peer && k.flow == 5 && k.msg == msg))
       copyMsgs := s.fabric.copyMsgs.filter (· != msg) } }) ∧
   (∀ s msg i r, inService s = true → s.fabric.toMirror = i :: r → r ≠ [] → (∀ k j c, i ≠ .entry (.frame k j) 3 c) →
     let peer := getReg s 0x4100 0x09
     exec (.messageAck peer 4 msg) s = .next { s with fabric := { s.fabric with
       kept := s.fabric.kept.filter (fun k => !(k.peer == peer && k.flow == 4 && k.msg == msg))
       toMirror := r, mirrorGap := 0 } }) ∧
   (∀ s peer f msg h b, inService s = true → (flowOf s f).held = [h] → h.sent = true → h.msg = msg → nget (flowOf s f).recs h.receiver = some b →
     recvKind b = 2 → recvTarget b = peer → Runs (.messageAck peer (0x1000 + f) msg) s fun t =>
       (flowOf t f).held = [] ∧ (∀ g, g ≠ f → flowOf t g = flowOf s g) ∧ Kept [.fabric, .frames, .out, .allocs, .flows] s t)) ∧
  ((∀ s sender i, controlled s = true → getReg s 0x4000 0x08 ≠ 4 →
     let kept := s.fabric.mirror.filter fun e => e.1 != sender || (!sameItem i e.2 && !itemDone i e.2)
     let new := kept ++ (match i with
       | .entry _ 4 _ => []
       | _ => [(sender, i)])
     (new.map fun e => itemBytes e.2).foldl (· + ·) 0 ≤ getReg s 0x4000 0x07 → Runs (.mirrorMessage sender i) s fun t =>
       t.fabric = { s.fabric with mirror := new } ∧ (∃ m, t.out = s.out ++ [.messageAcked sender 4 m]) ∧ Kept [.fabric, .out] s t) ∧
   (∀ s w st c, controlled s = true → getReg s 0x4000 0x08 = 4 → Runs (.mirrorMessage (getReg s 0x4100 0x09) (.entry w st c)) s fun t =>
     t.fabric = { s.fabric with restored := s.fabric.restored ++ [.entry w st c] } ∧
     (∃ m, t.out = s.out ++ [.messageAcked (getReg s 0x4100 0x09) 4 m]) ∧ Kept [.fabric, .out] s t) ∧
   (∀ s, controlled s = true → mirrorOn s = true → 8 ≤ s.fabric.mirrorGap → Runs .mirrorUnprotected s fun t =>
     getReg t 0x4000 0x08 = 3 ∧ t.fabric.toMirror = [] ∧ t.fabric.resync = true ∧
     Same [.pending, .mem, .clk, .tiles, .flags, .libero, .images, .cache, .windows, .sync, .syncWins, .lanes, .cdf, .fns, .pkgs, .queue,
       .works, .jobs, .allocs, .ctxs, .rings, .media, .cores, .umpire, .power, .protect, .carried, .traceAt, .free] s t))

/-! ### Sticky flags, function slots, table sets, packages and keys (R86, R87, R193, R194, R219 to R223, R265 to R267, R484) -/

/-- R86, R87: a mask written to #5000.03 clears its bits in every tile, so that the OR of all tiles loses exactly those bits; written to
#5000.05 it clears them in the selected tile alone, and a disabled tile ignores it. -/
def Obligations.StickyFlags : Prop :=
  (∀ s mask, inService s = true → Runs (.deviceFlagsClear mask) s fun t =>
    deviceFlags t = clearFlagBits (deviceFlags s) mask ∧
    (∀ e, e ∈ t.flags → ∃ r, (e.1, r) ∈ s.flags ∧ e.2 = clearFlagBits r mask) ∧ Kept [.flags] s t) ∧
  (∀ s mask, inService s = true → tileDisabled s (getReg s 0x5000 0x04) = false → Runs (.tileFlagsClear mask) s fun t =>
    tileFlagsOf t (getReg s 0x5000 0x04) = clearFlagBits (tileFlagsOf s (getReg s 0x5000 0x04)) mask ∧
    (∀ k, k ≠ getReg s 0x5000 0x04 → tileFlagsOf t k = tileFlagsOf s k) ∧ Kept [.flags] s t) ∧
  (∀ s mask, inService s = true → tileDisabled s (getReg s 0x5000 0x04) = true → exec (.tileFlagsClear mask) s = .next s)

/-- R21, R193, R194: a table that is accepted waits for its switch with the command pending; nothing else of the slot changes before that, and no
other slot. A load that a die could not take fails with a status that names a failure. A slot that a loaded package binds is in use, one with a
pending switch or a held bank busy, and both commands refused. R193: at the first tick boundary after it was asked for, a switch puts the waiting
table, or none, into the slot and raises its version when a table comes; while package work is issued the old bank is held, for the work issued
before, and goes once none of that work is left. -/
def Obligations.FunctionSlots : Prop :=
  ((∀ s tb ok, controlled s = true → parked s = false →
     let k := getReg s 0x5100 0x21
     let bs := s.mem.read (getReg s 0x5100 0x22) (getReg s 0x5100 0x23)
     (fnSlot s k).binders = [] → fnBusy (fnSlot s k) = false → getReg s 0x5100 0x23 ≠ 0 →
     badRange s (getReg s 0x5100 0x22) (getReg s 0x5100 0x23) = false → parseFnTable bs = .ok tb →
     alignUp 64 (128 + 4 * tb.nodes.length) + sigBlockLen ≤ bs.length →
     checkSignature s (bs.take (alignUp 64 (128 + 4 * tb.nodes.length))) (sliceAt bs (alignUp 64 (128 + 4 * tb.nodes.length)) sigBlockLen) = none →
     Runs (.functionSlotLoad ok) s fun t =>
       (ok = true → fnSlot t k = { fnSlot s k with next := some (some tb), asked := counterOf s, byCmd := true, shown := true } ∧
         getReg t 0x5100 0x25 = 1) ∧
       (ok = false → fnSlot t k = { fnSlot s k with shown := false } ∧ getReg t 0x5100 0x25 = dieFailed s ∧ dieFailed s ≠ 0) ∧
       (∀ j, j ≠ k → fnSlot t j = { fnSlot s j with shown := false }) ∧ RegsBut [(0x5100, 0x25)] s t ∧ Kept [.dict, .fns] s t) ∧
   (∀ s, controlled s = true → parked s = false →
     let k := getReg s 0x5100 0x21
     (fnSlot s k).binders = [] → fnBusy (fnSlot s k) = false → Runs .functionSlotUnload s fun t =>
       fnSlot t k = { fnSlot s k with next := some none, asked := counterOf s, byCmd := true, shown := true } ∧ getReg t 0x5100 0x25 = 1 ∧
       (∀ j, j ≠ k → fnSlot t j = { fnSlot s j with shown := false }) ∧ RegsBut [(0x5100, 0x25)] s t ∧ Kept [.dict, .fns] s t) ∧
   (∀ s ok, controlled s = true → parked s = false →
     let f := fnSlot s (getReg s 0x5100 0x21)
     (f.binders ≠ [] → exec (.functionSlotLoad ok) s = .next (fnStatus s stSlotInUse) ∧
       exec .functionSlotUnload s = .next (fnStatus s stSlotInUse)) ∧
     (f.binders = [] → fnBusy f = true → exec (.functionSlotLoad ok) s = .next (fnStatus s stSlotBusy) ∧
       exec .functionSlotUnload s = .next (fnStatus s stSlotBusy)))) ∧
  ((∀ s k n, controlled s = true → k < 32 → (fnSlot s k).next = some n → s.clk.now % period s = 0 → (fnSlot s k).asked < counterOf s →
     Runs (.functionSlotSwitch k) s fun t =>
     (fnSlot t k).cur = n ∧ (fnSlot t k).next = none ∧ (fnSlot t k).binders = (fnSlot s k).binders ∧
     (fnSlot t k).version = (if n.isSome then ((fnSlot s k).version + 1) % 256 else (fnSlot s k).version) ∧
     ((∃ w, w ∈ s.works ∧ w.slot < 4096) → (fnSlot t k).old = (fnSlot s k).cur ∧ (fnSlot t k).oldHeld = true) ∧
     ((∀ w, w ∈ s.works → 4096 ≤ w.slot) → (fnSlot t k).oldHeld = false) ∧ (∀ w, w ∈ t.works → k ∈ w.oldSlots) ∧
     (∀ j, j ≠ k → fnSlot t j = if (fnSlot s k).shown then { fnSlot s j with shown := false } else fnSlot s j) ∧
     ((fnSlot s k).shown = true → getReg t 0x5100 0x25 = 0) ∧
     RegsBut [(0x5100, 0x25)] s t ∧ Kept [.dict, .fns, .works] s t) ∧
   (∀ s k, controlled s = true → ((fnSlot s k).next = none ∨ s.clk.now % period s ≠ 0 ∨ counterOf s ≤ (fnSlot s k).asked) →
     exec (.functionSlotSwitch k) s = .next s) ∧
   (∀ s k, controlled s = true → (fnSlot s k).oldHeld = true → (∀ w, w ∈ s.works → k ∉ w.oldSlots) →
     exec (.functionBankRelease k) s = .next { s with fns := nset s.fns k { fnSlot s k with old := none, oldHeld := false } }))

/-- R21, R219 to R222: an accepted change of table sets is written into the bank not in use, with its generation one higher and the sets laid one
after another; the bank in use stays as it is, lanes lose the rows of the other, and the command is pending until the swap. A change that a die
could not take writes nothing and fails. R222, R223: at the first tick boundary after it was written a bank is swapped in, which ends the command or
the load it served; the old bank is held while a segment is bound to it, and freed at a boundary once none is. -/
def Obligations.CodingTables : Prop :=
  ((∀ s x ok, controlled s = true → parked s = false → targetBusy s = false → getReg s 0x5200 0x09 ≠ 0 →
     badRange s (getReg s 0x5200 0x08) (getReg s 0x5200 0x09) = false →
     checkTableFile s (s.mem.read (getReg s 0x5200 0x08) (getReg s 0x5200 0x09)) = .ok x →
     let c : CdfChange := { asked := counterOf s, owner := none, add := [x], remove := [] }
     changeRefused (activeSets s) c = none →
     (ok = true → Runs (.tableSetAdd ok) s fun t =>
       t.cdf = { s.cdf with
         banks := s.cdf.banks.set (1 - s.cdf.active)
           ⟨wrap32 ((s.cdf.banks.getD s.cdf.active {}).gen + 1), placeSets 0 (changedSets (activeSets s) c)⟩
         pending := some c, shown := true } ∧
       (∀ l r, r ∈ (laneOf t l).rows → r ∈ (laneOf s l).rows ∧ r / 8192 ≠ 1 - s.cdf.active) ∧
       getReg t 0x5200 0x0D = 1 ∧ RegsBut [(0x5200, 0x0D)] s t ∧ Kept [.dict, .cdf, .lanes] s t) ∧
     (ok = false → dieFailed s ≠ 0 ∧ exec (.tableSetAdd ok) s = .next (cdfStatus s (dieFailed s)))) ∧
   (∀ s x ok, controlled s = true → parked s = false → targetBusy s = false → x ∈ activeSets s →
     x.id = getReg s 0x5200 0x0A → x.version = getReg s 0x5200 0x0B →
     (ok = true → Runs (.tableSetRemove ok) s fun t =>
       t.cdf = { s.cdf with
         banks := s.cdf.banks.set (1 - s.cdf.active)
           ⟨wrap32 ((s.cdf.banks.getD s.cdf.active {}).gen + 1),
             placeSets 0 ((activeSets s).filter fun y => !(y.id == x.id && y.version == x.version))⟩
         pending := some { asked := counterOf s, owner := none, add := [], remove := [(x.id, x.version)] }, shown := true } ∧
       getReg t 0x5200 0x0D = 1 ∧ RegsBut [(0x5200, 0x0D)] s t ∧ Kept [.dict, .cdf, .lanes] s t) ∧
     (ok = false → exec (.tableSetRemove ok) s = .next (cdfStatus s (dieFailed s)))) ∧
   (∀ s ok, controlled s = true → parked s = false → targetBusy s = true →
     exec (.tableSetAdd ok) s = .next (cdfStatus s stBankInUse) ∧
     exec (.tableSetRemove ok) s = .next (cdfStatus s stBankInUse))) ∧
  ((∀ s c, controlled s = true → s.cdf.pending = some c → c.owner = none → s.clk.now % period s = 0 → c.asked < counterOf s →
     Runs .cdfBankSwap s fun t =>
     t.cdf.active = 1 - s.cdf.active ∧ t.cdf.banks.getD t.cdf.active {} = s.cdf.banks.getD (1 - s.cdf.active) {} ∧
     t.cdf.held = (if bankBound s s.cdf.active then [s.cdf.active] else []) ∧ (s.cdf.shown = true → getReg t 0x5200 0x0D = 0) ∧
     RegsBut [(0x5200, 0x0D)] s t ∧ Kept [.dict, .cdf, .lanes] s t) ∧
   (∀ s c k, controlled s = true → s.cdf.pending = some c → c.owner = some k → s.clk.now % period s = 0 → c.asked < counterOf s →
     slotState s k = 2 → s.queue.length ≤ 1 → Runs .cdfBankSwap s fun t =>
       t.cdf.active = 1 - s.cdf.active ∧ slotState t k = 3 ∧ getReg t (slotIndex k) 0x05 = 0 ∧ t.queue = [] ∧
       RegsBut [(slotIndex k, 0x01), (slotIndex k, 0x05)] s t ∧ Kept [.dict, .cdf, .lanes, .queue] s t) ∧
   (∀ s, controlled s = true → (∀ c, s.cdf.pending = some c → s.clk.now % period s ≠ 0 ∨ counterOf s ≤ c.asked) →
     exec .cdfBankSwap s = .next s) ∧
   (∀ s b, controlled s = true → s.clk.now % period s = 0 → s.cdf.held.contains b = true → bankBound s b = false →
     Runs (.cdfBankFree b) s fun t =>
     t.cdf.held = s.cdf.held.filter (· != b) ∧ t.cdf.active = s.cdf.active ∧ Kept [.cdf, .lanes] s t))

/-- R265 to R267: a load that is accepted waits in the queue with its slot loading; when its turn comes a package that passes every check is copied
into memory of its own, byte for byte, and nothing else in memory changes, unless it writes a table and a die does not take it (R21: the model
leaves open when, log 13); one that fails leaves the slot empty with the reason. An unload is accepted only when nothing uses the slot. R483, R484:
with nothing queued a key request takes its turn at once. One that passes its checks stores the customer's key hashes, or removes them, and raises
the key counter by one; one that does not changes nothing but the status. -/
def Obligations.PackagesAndKeys : Prop :=
  ((∀ s k, controlled s = true → k < 4096 → parked s = false → slotState s k = 0 →
     let a := getReg s (slotIndex k) 0x02
     let n := getReg s (slotIndex k) 0x03
     1 ≤ n → n ≤ 2 ^ 34 → badRange s a n = false → s.mem.num (a + 16) 8 = n →
     let u := setReg (setReg s (slotIndex k) 0x01 1) (slotIndex k) 0x05 1
     exec (.packageLoad k) s = .next { u with queue := s.queue ++ [.load k a n] }) ∧
   (∀ s k, controlled s = true → k < 4096 → parked s = false → slotState s k ≠ 0 →
     exec (.packageLoad k) s = .next (setReg s (slotIndex k) 0x05 stSlotOccupied)) ∧
   (∀ s k a n st, controlled s = true → s.queue = [.load k a n] → slotState s k = 1 → (∀ diesOk, runLoad (fresh s).2 k a n diesOk = .error st) →
     let u := setReg (setReg (fresh s).2 (slotIndex k) 0x01 0) (slotIndex k) 0x05 st
     exec .packageLoadRun s = .next { u with queue := [] }) ∧
   (∀ s k a n p base u, controlled s = true → s.queue = [.load k a n] → slotState s k = 1 → checkPackage (fresh s).2 (s.mem.read a n) = .ok p →
     (∀ e, e ∈ s.pkgs → e.2.id = p.id → e.2.version = p.version → e.2.digest = p.digest) → reserve (fresh s).2 n (k + 1) = some (base, u) →
     fnsConflict u p.fns = none → changeRefused (futureSets u) (tableChange u (some k) p.tables []) = none → s.mem.wf = true →
     (writesDies u p = true ∧
       exec .packageLoadRun s = .next { setReg (setReg (fresh s).2 (slotIndex k) 0x01 0) (slotIndex k) 0x05 (dieFailed u) with queue := [] }) ∨
     Runs .packageLoadRun s fun t =>
       (∃ q, pkgOf t k = some q ∧ q.digest = p.digest ∧ q.copy = base ∧ q.len = p.len ∧ q.classes = p.classes) ∧
       t.mem.read base n = s.mem.read a n ∧ BytesBut base n s.mem t.mem ∧ t.allocs = u.allocs ∧
       (slotState t k = 2 ∨ (slotState t k = 3 ∧ getReg t (slotIndex k) 0x05 = 0 ∧ t.queue = [])) ∧
       getBlob t (slotIndex k) 0x08 = p.digest ∧
       Same [.pending, .host, .clk, .ctl, .tiles, .flags, .libero, .images, .cache, .windows, .sync, .syncWins, .works, .jobs, .frames, .ctxs,
         .rings, .srings, .flows, .media, .cores, .umpire, .power, .protect, .carried, .traceAt] s t) ∧
   (∀ s, controlled s = true → s.queue = [] → exec .packageLoadRun s = .next s) ∧
   (∀ s k, controlled s = true → k < 4096 → parked s = false → slotState s k = 3 → slotUsers s k = 0 → Runs (.packageUnload k) s fun t =>
     slotState t k = 4 ∧ getReg t (slotIndex k) 0x05 = 1 ∧ t.queue = s.queue ++ [.unload k] ∧
     RegsBut [(slotIndex k, 0x01), (slotIndex k, 0x05)] s t ∧ Kept [.dict, .queue, .cdf, .lanes, .pkgs] s t) ∧
   (∀ s k, controlled s = true → k < 4096 → parked s = false → slotState s k = 3 → slotUsers s k ≠ 0 →
     exec (.packageUnload k) s = .next (setReg s (slotIndex k) 0x05 stPackageInUse))) ∧
  ((∀ s o, controlled s = true → s.queue = [] →
     let n := getReg s 0x1300 0x09
     let bs := s.mem.read (getReg s 0x1300 0x08) n
     (n = 512 ∨ n = 17120) → badRange s (getReg s 0x1300 0x08) n = false →
     (∀ st, keyRefused s o bs = some st → Runs (.keyRequest o) s fun t =>
       getReg t 0x1300 0x0B = st ∧ RegsBut [(0x1300, 0x0B)] s t ∧ BlobsBut [] s t ∧ Kept [.dict] s t) ∧
     (keyRefused s o bs = none → Runs (.keyRequest o) s fun t =>
       getReg t 0x1300 0x0B = 0 ∧ getReg t 0x1300 0x07 = (getReg s 0x1300 0x07 + 1) % 2 ^ 32 ∧
       getReg t 0x1300 0x04 = (if numAt bs 4 1 = 3 then 0 else 1) ∧
       (numAt bs 4 1 ≠ 3 → getBlob t 0x1300 0x05 = sha384 (sliceAt bs 48 384) ∧ getBlob t 0x1300 0x06 = sliceAt bs 432 48 ∧
         t.ctl.custRsa = beNat (sliceAt bs 48 384)) ∧
       (numAt bs 4 1 = 3 → getBlob t 0x1300 0x05 = List.replicate 48 0 ∧ getBlob t 0x1300 0x06 = List.replicate 48 0) ∧
       RegsBut [(0x1300, 0x0B), (0x1300, 0x07), (0x1300, 0x04)] s t ∧ BlobsBut [(0x1300, 0x05), (0x1300, 0x06)] s t ∧
       Kept [.dict, .ctl] s t)) ∧
   (∀ s o, controlled s = true → s.queue ≠ [] →
     let n := getReg s 0x1300 0x09
     (n = 512 ∨ n = 17120) → badRange s (getReg s 0x1300 0x08) n = false →
     exec (.keyRequest o) s = .next { setReg s 0x1300 0x0B 1 with queue := s.queue ++ [.key o (getReg s 0x1300 0x08) n] }))

/-! ### Stream contexts (R243 to R245, R268 to R270, R288, R291, R391) -/

/-- R268: writing a package slot or a service into a context's binding while it is unbound or stopped leaves it stopped; unbinding a stopped one
leaves it unbound; neither changes anything else. R268, R480, R243, R245: START of a stopped context outside park is pending, the context starting;
in any other state, or in park, it ends at once with ST_BAD_STATE. TIMEOUT of a running context with a buffer that lies in one host allocation is
pending in the same way. A RESUME starts the context from its snapshot where that decompresses, has its reserved fields zero and fits the context,
and ends with the status that says why not otherwise. R268: what STOP does in each state: it cancels a pending switch, takes a starting context back
to stopped, lets a running or halted one finish its frames, and stops one in timeout that has no frame left. -/
def Obligations.ContextCommands : Prop :=
  ((∀ s k v, controlled s = true → k < 16384 → v < 0xFFFF → ctxState s k ≤ 1 → Runs (.contextBind k v) s fun t =>
     getReg t (ctxIndex k) 0x01 = v ∧ ctxState t k = 1 ∧ RegsBut [(ctxIndex k, 0x01), (ctxIndex k, 0x02)] s t ∧
     (∀ l, ctxOf t l = ctxOf s l) ∧ Kept [.dict, .ctxs] s t) ∧
   (∀ s k, controlled s = true → k < 16384 → ctxState s k = 1 → Runs (.contextUnbind k) s fun t =>
     getReg t (ctxIndex k) 0x01 = 0xFFFF ∧ ctxState t k = 0 ∧ RegsBut [(ctxIndex k, 0x01), (ctxIndex k, 0x02)] s t ∧
     (∀ l, ctxOf t l = ctxOf s l) ∧ Kept [.dict, .ctxs] s t) ∧
   (∀ s k v, controlled s = true → k < 16384 → v < 0xFFFF → 1 < ctxState s k → exec (.contextBind k v) s = .next s)) ∧
  ((∀ s k, controlled s = true → k < 16384 → cmdPending s k = false → ctxState s k = 1 → parked s = false → Runs (.contextStart k) s fun t =>
     ctxState t k = 2 ∧ getReg t (ctxIndex k) 0x04 = 1 ∧ (ctxOf t k).fromSnap = false ∧
     RegsBut [(ctxIndex k, 0x02), (ctxIndex k, 0x04)] s t ∧ (∀ l, l ≠ k → ctxOf t l = ctxOf s l) ∧ Kept [.dict, .ctxs, .out] s t) ∧
   (∀ s k, controlled s = true → k < 16384 → cmdPending s k = false → (ctxState s k ≠ 1 ∨ parked s = true) →
     exec (.contextStart k) s = .next (setReg s (ctxIndex k) 0x04 0x0406)) ∧
   (∀ s k, controlled s = true → k < 16384 → cmdPending s k = false → ctxState s k = 3 → getReg s (ctxIndex k) 0x34 ≠ 0 →
     badRange s (getReg s (ctxIndex k) 0x33) (getReg s (ctxIndex k) 0x34) = false → Runs (.contextTimeout k) s fun t =>
     ctxState t k = 5 ∧ getReg t (ctxIndex k) 0x04 = 1 ∧ ctxOf t k = { ctxOf s k with failedCap := none } ∧
     RegsBut [(ctxIndex k, 0x02), (ctxIndex k, 0x04)] s t ∧ (∀ l, l ≠ k → ctxOf t l = ctxOf s l) ∧ Kept [.dict, .ctxs] s t) ∧
   (∀ s k, controlled s = true → k < 16384 → cmdPending s k = false → ctxState s k ≠ 3 →
     exec (.contextTimeout k) s = .next (setReg s (ctxIndex k) 0x04 0x0406)) ∧
   (∀ s k, controlled s = true → k < 16384 → cmdPending s k = false → (ctxState s k = 1 ∨ ctxState s k = 6) → parked s = false →
     getReg s (ctxIndex k) 0x36 ≠ 0 → badRange s (getReg s (ctxIndex k) 0x35) (getReg s (ctxIndex k) 0x36) = false →
     let z := decompress 3 (s.mem.read (getReg s (ctxIndex k) 0x35) (getReg s (ctxIndex k) 0x36)) (2 ^ 40)
     let ends (st : Nat) : Prop := Runs (.contextResume k) s fun t => ctxState t k = ctxState s k ∧ getReg t (ctxIndex k) 0x04 = st ∧
       RegsBut [(ctxIndex k, 0x04), (ctxIndex k, 0x05), (0x6200, 0x03), (0x6200, 0x04)] s t ∧ Kept [.dict, .media] s t
     (z.dz = 0 → snapshotReserved z.out = true → snapshotFits s k z.out = true → Runs (.contextResume k) s fun t =>
       ctxState t k = 2 ∧ getReg t (ctxIndex k) 0x04 = 1 ∧ (ctxOf t k).fromSnap = true ∧ (ctxOf t k).snap = z.out ∧
       RegsBut [(ctxIndex k, 0x02), (ctxIndex k, 0x04), (0x6200, 0x03), (0x6200, 0x04)] s t ∧ Kept [.dict, .ctxs, .out, .media] s t) ∧
     (z.dz ≠ 0 → ends stDecompressError) ∧
     (z.dz = 0 → snapshotReserved z.out = false → ends stBadDescriptor) ∧
     (z.dz = 0 → snapshotReserved z.out = true → snapshotFits s k z.out = false → ends stSnapshotMismatch)) ∧
   (∀ s k slot, controlled s = true → k < 16384 → cmdPending s k = true →
     exec (.contextStart k) s = .next (setReg s (ctxIndex k) 0x04 1) ∧ exec (.contextTimeout k) s = .next (setReg s (ctxIndex k) 0x04 1) ∧
     exec (.contextResume k) s = .next (setReg s (ctxIndex k) 0x04 1) ∧ exec (.contextSwitch k slot) s = .next (setReg s (ctxIndex k) 0x04 1))) ∧
  ((∀ s k, controlled s = true → k < 16384 → ctxState s k = 3 → (ctxOf s k).switchTo ≠ none → Runs (.contextStop k) s fun t =>
     (ctxOf t k).switchTo = none ∧ ctxState t k = 3 ∧ getReg t (ctxIndex k) 0x04 = 2 ∧ Kept [.dict, .ctxs] s t) ∧
   (∀ s k, controlled s = true → k < 16384 → ctxState s k = 2 → (ctxOf s k).stopDue = false →
     exec (.contextStop k) s = .next (setReg (setReg s (ctxIndex k) 0x02 1) (ctxIndex k) 0x04 2)) ∧
   (∀ s k, controlled s = true → k < 16384 → ((ctxState s k = 3 ∧ (ctxOf s k).switchTo = none) ∨ ctxState s k = 7) →
     (ctxOf s k).stopDue = false →
     exec (.contextStop k) s = .next (setReg { s with ctxs := nset s.ctxs k { ctxOf s k with stopDue := true } } (ctxIndex k) 0x04 1)) ∧
   (∀ s k, controlled s = true → k < 16384 → ctxState s k = 5 → ctxIdle s k = true → (ctxOf s k).stopDue = false →
     Runs (.contextStop k) s fun t => ctxState t k = 1 ∧ getReg t (ctxIndex k) 0x38 = 0xFF ∧ getReg t (ctxIndex k) 0x04 = 2 ∧
       (ctxOf t k).stateBufs = [] ∧ (ctxOf t k).inputs = []) ∧
   (∀ s k, controlled s = true → k < 16384 → (ctxState s k ≤ 1 ∨ ctxState s k = 4 ∨ ctxState s k = 6) → (ctxOf s k).stopDue = false →
     exec (.contextStop k) s = .next (setReg s (ctxIndex k) 0x04 0x0406)) ∧
   (∀ s k, controlled s = true → k < 16384 → ctxState s k = 5 → ctxIdle s k = false → (ctxOf s k).stopDue = false →
     exec (.contextStop k) s = .next (putCtx (setReg s (ctxIndex k) 0x04 2) k { ctxOf s k with stopDue := true })))

/-- R58, R269: at a tick boundary a start that a check refuses ends with that check's status, its context stopped; one that no resource has room for
with ST_NO_CAPACITY and the resource; one that passes every check and finds memory for its state regions runs from this tick, charged what it was
admitted with, on a home die. R243, R391: once the last issued frame of a context in timeout has committed its snapshot is compressed into the
host's buffer, the bytes outside the compressed length unchanged, and the context is timed out; a buffer too short ends it with ST_OUTPUT_OVERFLOW
and the context stays, until its capacity is raised. -/
def Obligations.ContextStart : Prop :=
  ((∀ s k st, controlled s = true → k < 16384 → ctxState s k = 2 → s.clk.now % period s = 0 → s.carried = false → staticRefused s k = some st →
     st ≠ 0x0400 → Runs (.contextStartCheck k) s fun t =>
       ctxState t k = 1 ∧ getReg t (ctxIndex k) 0x04 = st ∧ getReg t (ctxIndex k) 0x05 = 0 ∧
       RegsBut [(ctxIndex k, 0x02), (ctxIndex k, 0x04), (ctxIndex k, 0x05)] s t ∧ Kept [.dict, .fabric, .sync, .works, .mem] s t) ∧
   (∀ s k r, controlled s = true → k < 16384 → ctxState s k = 2 → s.clk.now % period s = 0 → s.carried = false → staticRefused s k = none →
     ((∃ c, peakCharge s k = some c ∧ noRoom s k (getReg s (ctxIndex k) 0x0D) c = some r) ∨
       (peakCharge s k = none ∧ r = (noResource s k (packageCharge s k)).getD 4) ∨
       (∃ c, peakCharge s k = some c ∧ noRoom s k (getReg s (ctxIndex k) 0x0D) c = none ∧ isService (binding s k) = false ∧
         homeDie s (binding s k) = none ∧ r = 5)) → Runs (.contextStartCheck k) s fun t =>
       ctxState t k = 1 ∧ getReg t (ctxIndex k) 0x04 = 0x0400 ∧ getReg t (ctxIndex k) 0x05 = r ∧
       RegsBut [(ctxIndex k, 0x02), (ctxIndex k, 0x04), (ctxIndex k, 0x05), (0x2100, 0x0A)] s t ∧
       Kept [.dict, .fabric, .sync, .works, .mem] s t) ∧
   (∀ s k c u, controlled s = true → k < 16384 → ctxState s k = 2 → s.clk.now % period s = 0 → s.carried = false → staticRefused s k = none →
     peakCharge s k = some c → noRoom s k (getReg s (ctxIndex k) 0x0D) c = none →
     (isService (binding s k) = true ∨ (homeDie s (binding s k)).isSome = true) →
     let v := putCtx (dropBlobs s k) k (freshCtx (dropBlobs s k) k c)
     let die := if isService (binding v k) then serviceDie v else (homeDie v (binding v k)).getD 0
     let w := setReg v (ctxIndex k) 0x38 die
     takeBuffers w k (((ctxInfo w k).map fun c => declsOf c [4]).getD []) = some u →
     Runs (.contextStartCheck k) s fun t =>
       ctxState t k = 3 ∧ getReg t (ctxIndex k) 0x04 = 0 ∧ (ctxOf t k).startTick = counterOf s ∧ (ctxOf t k).charge = c ∧
       getReg t (ctxIndex k) 0x38 = die ∧ die < 8 ∧
       Same [.pending, .host, .clk, .ctl, .flags, .libero, .images, .lanes, .cdf, .fns, .pkgs, .queue, .jobs,
         .rings, .srings, .media, .cores, .umpire, .power, .protect, .carried, .traceAt] s t)) ∧
  ((∀ s k, controlled s = true → k < 16384 → ctxState s k = 5 → ctxIdle s k = true → (ctxOf s k).stopDue = false → s.mem.wf = true →
     (∀ n, (ctxOf s k).failedCap = some n → n < getReg s (ctxIndex k) 0x34) →
     let z := compress 3 3 23 (snapshotBytes s k)
     z.length ≤ getReg s (ctxIndex k) 0x34 → Runs (.snapshotWrite k) s fun t =>
       ctxState t k = 6 ∧ getReg t (ctxIndex k) 0x04 = 0 ∧ getReg t (ctxIndex k) 0x37 = z.length ∧
       t.mem.read (getReg s (ctxIndex k) 0x33) z.length = z ∧ BytesBut (getReg s (ctxIndex k) 0x33) z.length s.mem t.mem ∧
       (ctxOf t k).stateBufs = [] ∧ (∀ l, l ≠ k → ctxOf t l = ctxOf s l)) ∧
   (∀ s k, controlled s = true → k < 16384 → ctxState s k = 5 → ctxIdle s k = true → (ctxOf s k).stopDue = false →
     (∀ n, (ctxOf s k).failedCap = some n → n < getReg s (ctxIndex k) 0x34) →
     getReg s (ctxIndex k) 0x34 < (compress 3 3 23 (snapshotBytes s k)).length → Runs (.snapshotWrite k) s fun t =>
       getReg t (ctxIndex k) 0x04 = stOutputOverflow ∧ ctxState t k = 5 ∧
       ctxOf t k = { ctxOf s k with failedCap := some (getReg s (ctxIndex k) 0x34) } ∧ (∀ l, l ≠ k → ctxOf t l = ctxOf s l) ∧
       RegsBut [(ctxIndex k, 0x04), (0x6200, 0x03), (0x6200, 0x04)] s t ∧ Kept [.dict, .ctxs, .media] s t) ∧
   (∀ s k n, controlled s = true → ctxState s k = 5 → (ctxOf s k).failedCap = some n → getReg s (ctxIndex k) 0x34 ≤ n →
     exec (.snapshotWrite k) s = .next s))

/-- R268, R270: a switch of a running context to a package that may follow its own is pending; at the first tick boundary after its command, when
the new charge has room or is no higher, and the package's window can be placed, the context is bound to the new package, runs on, is charged for
it, and owes its stream a sequence header. A switch that may not follow ends with the status that says why, and the context runs on unchanged. R288,
R312: a reference request that comes in time is kept for its frame, in place of one made before for it; the checks that refuse one come in their
order, and a refused request changes nothing but its status. -/
def Obligations.ContextSwitches : Prop :=
  ((∀ s k slot, controlled s = true → k < 16384 → cmdPending s k = false → ctxState s k = 3 → switchRefused s k slot = none →
     Runs (.contextSwitch k slot) s fun t =>
       ctxOf t k = { ctxOf s k with switchTo := some slot, switchAsked := counterOf s } ∧ ctxState t k = 3 ∧ getReg t (ctxIndex k) 0x04 = 1 ∧
       RegsBut [(ctxIndex k, 0x04)] s t ∧ (∀ l, l ≠ k → ctxOf t l = ctxOf s l) ∧ Kept [.dict, .ctxs, .windows, .cache] s t) ∧
   (∀ s k slot st, controlled s = true → k < 16384 → cmdPending s k = false → ctxState s k = 3 → switchRefused s k slot = some st →
     exec (.contextSwitch k slot) s = .next (setReg s (ctxIndex k) 0x04 st)) ∧
   (∀ s k slot, controlled s = true → k < 16384 → cmdPending s k = false → ctxState s k ≠ 3 →
     exec (.contextSwitch k slot) s = .next (setReg s (ctxIndex k) 0x04 0x0406)) ∧
   (∀ s k slot c u, controlled s = true → k < 16384 → s.clk.now % period s = 0 → (ctxOf s k).switchTo = some slot →
     (ctxOf s k).switchAsked < counterOf s → ctxState s k = 3 → switchRefused s k slot = none →
     let v := setReg s (ctxIndex k) 0x01 slot
     peakCharge v k = some c →
     (chargeHigher c (ctxOf s k).charge = true → s.carried = false ∧ noRoom v k (getReg s (ctxIndex k) 0x0D) c = none) →
     placeWindow v (getReg s (ctxIndex k) 0x38) slot = some u → Runs (.switchTakeEffect k) s fun t =>
       getReg t (ctxIndex k) 0x01 = slot ∧ ctxOf t k = { ctxOf s k with switchTo := none, charge := c, seqDue := true } ∧
       getReg t (ctxIndex k) 0x04 = 0 ∧ ctxState t k = 3 ∧ (∀ l, l ≠ k → ctxOf t l = ctxOf s l) ∧
       RegsBut [(ctxIndex k, 0x01), (ctxIndex k, 0x04)] s t ∧ Kept [.dict, .ctxs, .windows, .cache] s t) ∧
   (∀ s k slot st, controlled s = true → k < 16384 → s.clk.now % period s = 0 → (ctxOf s k).switchTo = some slot →
     (ctxOf s k).switchAsked < counterOf s → ctxState s k = 3 → switchRefused s k slot = some st → Runs (.switchTakeEffect k) s fun t =>
       getReg t (ctxIndex k) 0x04 = st ∧ ctxOf t k = { ctxOf s k with switchTo := none } ∧ ctxState t k = 3 ∧
       (∀ l, l ≠ k → ctxOf t l = ctxOf s l) ∧ RegsBut [(ctxIndex k, 0x04), (ctxIndex k, 0x05)] s t ∧ Kept [.dict, .ctxs] s t) ∧
   (∀ s k, controlled s = true → ((ctxOf s k).switchTo = none ∨ s.clk.now % period s ≠ 0 ∨ counterOf s ≤ (ctxOf s k).switchAsked) →
     exec (.switchTakeEffect k) s = .next s)) ∧
  ((∀ s k slot j, controlled s = true → k < 16384 → referenceRefused s k slot j = none → Runs (.referenceRequest k slot j) s fun t =>
     (j, slot) ∈ (ctxOf t k).requests ∧ (∀ r, r ∈ (ctxOf t k).requests → r.1 = j → r.2 = slot) ∧
     (∀ r, r ∈ (ctxOf s k).requests → r.1 ≠ j → r ∈ (ctxOf t k).requests) ∧ (∀ l, l ≠ k → ctxOf t l = ctxOf s l) ∧
     getReg t (ctxIndex k) 0x1D = 0 ∧
     RegsBut [(ctxIndex k, 0x1D)] s t ∧ Kept [.dict, .ctxs] s t) ∧
   (∀ s k slot j st, controlled s = true → k < 16384 → referenceRefused s k slot j = some st →
     exec (.referenceRequest k slot j) s = .next (setReg s (ctxIndex k) 0x1D st)) ∧
   (∀ s k slot j, (ctxState s k ≠ 3 ∨ ctxKind s k ≠ 1) → referenceRefused s k slot j = some 0x0406) ∧
   (∀ s k slot j, ctxState s k = 3 → ctxKind s k = 1 → j < getReg s (ctxIndex k) 0x39 → referenceRefused s k slot j = some stTooLate))

/-! ### Commits, completions and outputs (R346, R348, R349, R367, R371, R432) -/

/-- R432: a stream frame of which everything has ended leaves the table of work, is counted, and shows its lag; an outcome that commits writes its
outputs, as firmware formed them from what its regions hold (R283), where its output regions begin. A frame that waits for a member of its span
group that was lost, in a context that is stopping, ends as cancelled (R420). R367: a frame of a package job that is not its last is added to its
job's entry, which stays open; with the last the job's outcome is fixed. -/
def Obligations.Commits : Prop :=
  ((∀ s k j w, controlled s = true → k < 16384 → findWork s (.frame k j) = some w → earlierOpen s (.frame k j) = false → w.stopped = false →
     workDone s w = true → w.oldCard = none → Runs (.frameCommit (.frame k j)) s fun t =>
       let u := if statusCommits (workStatus w) = true ∧ isService w.slot = false then formOutput s k j w else s
       let outs := workOutputs u w
       let total := (outs.map (·.length)).foldl (· + ·) 0
       let st := if statusCommits (workStatus w) = true ∧ w.slot ≠ 0xFFFF ∧ (outputPlace w).2 < total then stOutputOverflow else workStatus w
       findWork t (.frame k j) = none ∧ getReg t (ctxIndex k) 0x3C = (getReg s (ctxIndex k) 0x3C + 1) % 2 ^ 64 ∧
       getReg t (ctxIndex k) 0x3A = w.lag ∧
       ((∀ v, v ∈ s.works → v.id ≠ .frame k (j + 1)) → statusCommits st = true →
         t.mem = u.mem.write (outputPlace w).1 (outs.flatMap id)) ∧
       (∀ f, findFrame t k j = some f → f.status = st ∧ f.lag = w.lag ∧ f.tick = counterOf s) ∧
       Same [.pending, .clk, .tiles, .flags, .libero, .images, .cache, .windows, .syncWins, .lanes, .cdf, .fns, .pkgs, .queue, .jobs,
         .rings, .media, .cores, .power, .protect, .carried, .traceAt, .free] s t) ∧
   (∀ s k j w, controlled s = true → k < 16384 → findWork s (.frame k j) = some w → earlierOpen s (.frame k j) = false → w.stopped = false →
     workDone s w = false → spanCancelled s w = true → w.id = .frame k j → Runs (.frameCommit (.frame k j)) s fun t =>
       findWork t (.frame k j) = none ∧ getReg t (ctxIndex k) 0x3C = (getReg s (ctxIndex k) 0x3C + 1) % 2 ^ 64 ∧
       (∀ f, findFrame t k j = some f → f.status = stCancelled ∧ f.outLen = 0) ∧ (∀ x, x ∈ t.syncWins → x.work ≠ .frame k j)) ∧
   (∀ s k j w, controlled s = true → findWork s (.frame k j) = some w →
     (earlierOpen s (.frame k j) = true ∨ w.stopped = true ∨ (workDone s w = false ∧ spanCancelled s w = false)) →
     exec (.frameCommit (.frame k j)) s = .next s)) ∧
  (∀ s r p i w e, controlled s = true → findWork s (.job r p i) = some w → earlierOpen s (.job r p i) = false → w.stopped = false →
     workDone s w = true → w.oldCard = none → findJob s r p = some e → isEngineJob e.job = false → e.cut = false →
     (i + 1 ≠ e.job.frames → Runs (.frameCommit (.job r p i)) s fun t =>
       findWork t (.job r p i) = none ∧ (∃ f, findJob t r p = some f ∧ f.done = i + 1 ∧ f.state = e.state ∧
         f.staged.length = e.staged.length + 1 ∧ f.job = e.job) ∧
       Kept [.works, .jobs, .mem] s t) ∧
     (i + 1 = e.job.frames → e.oldCard = none → Runs (.frameCommit (.job r p i)) s fun t =>
       findWork t (.job r p i) = none ∧ (∃ f, findJob t r p = some f ∧ f.state = 3 ∧ f.image.count = i + 1 ∧ f.image.tick = counterOf s) ∧
       Kept [.works, .jobs, .mem, .dict, .ctl, .fabric, .out] s t))

/-- R363, R371: with DMA possible the next job of a ring whose outcome is fixed is posted: its record of 64 bytes stands in its slot of the
completion ring, the positions go on by one, the ring's vector is due, and its entry is in state 4. A poisoned or timed-out read of a job's input in
host memory ends the job with ST_HOST_DMA_ERROR: its entry is completed, and none of its work is issued any more. -/
def Obligations.Completions : Prop :=
  (∀ s r e, controlled s = true → nextToPost s r = some e → e.state = 3 → dmaOk s = true → mirrorWaits s (.job r e.pos 0) 3 = false →
     s.host.wf = true → Runs (.completionPost r) s fun t =>
       t.host.read (ringReg s r 0x04 + (ringReg s r 0x06 + e.pos) % Nat.max 1 (ringReg s r 0x05) * 64) 64 = completionBytes e.image ∧
       (ringRun t r).posted = e.pos + 1 ∧ (∃ f, findJob t r e.pos = some f ∧ f.state = 4) ∧ r ∈ t.ctl.msix ∧
       Kept [.host, .ctl, .allocs, .jobs, .rings, .fabric, .out] s t) ∧
  (∀ s r p i e, controlled s = true → (findWork s (.job r p i)).isSome = true → findJob s r p = some e → e.job.space.testBit 0 = false →
     e.state ≤ 2 → Runs (.hostDmaError (.job r p i)) s fun t =>
       (∃ e', findJob t r p = some e' ∧ e'.state = 3 ∧ e'.image.status = 0x0215) ∧ (∀ n, findWork t (.job r p n) = none) ∧
       Same [.pending, .host, .clk, .flags, .libero, .cache, .windows, .sync, .lanes, .cdf, .fns, .pkgs, .queue, .frames, .ctxs, .rings, .srings,
         .flows, .media, .cores, .umpire, .power, .protect, .carried, .traceAt, .free] s t)

/-- R334, R337, R346: the first packet queued for a port that is up leaves with the port's tag and the flow's synchronisation source and is counted
on its flow, if it fits the port's MTU (log 72); no other packet leaves with it. R348, R349, R397: an acknowledged receiver that has left an output
unacknowledged past its window is benched: it takes no more outputs, all held for it is released, it is counted and vector 51 is due; a benched
receiver with room becomes ready for the next sweep. -/
def Obligations.Egress : Prop :=
  ((∀ s port p, inService s = true → s.media.egress.find? (fun q => q.port == port) = some p → portUp s port = true →
     Runs (.packetSend port) s fun t =>
       t.media.egress = s.media.egress.erase p ∧
       (∃ more, t.out = s.out ++ (if fitsMtu s p then [.rtp port (egressTag s port) p.dst p.dscp p.hops p.udpPort p.ptype p.seq p.stamp
         (s.ctl.manifest.serial % 65536 * 65536 + p.flow) p.marker p.payload] else []) ++ more ∧
         ∀ x, x ∈ more → ∀ a b c d e f g h i j k l, x ≠ .rtp a b c d e f g h i j k l) ∧
       getReg t (flowIndex p.flow) 0x09 = getReg (if fitsMtu s p then addReg s (flowIndex p.flow) 0x09 1 else s) (flowIndex p.flow) 0x09 ∧
       Same [.pending, .mem, .host, .tiles, .flags, .libero, .images, .cache, .windows, .sync, .syncWins, .lanes, .cdf, .fns, .pkgs, .queue,
         .works, .jobs, .ctxs, .rings, .srings, .flows, .cores, .umpire, .power, .protect, .carried, .traceAt, .free] s t) ∧
   (∀ s port, inService s = true → portUp s port = false → exec (.packetSend port) s = .next s)) ∧
  ((∀ s f r b, controlled s = true → nget (flowOf s f).recs r = some b →
     ((flowOf s f).held.any fun h => h.receiver == r && decide (h.round + recvWindow b ≤ counterOf s)) = true →
     Runs (.receiverBench f r) s fun t =>
       flowBit t f 0x06 r = true ∧ flowBit t f 0x07 r = false ∧ r ∉ (flowOf t f).active ∧ r ∉ (flowOf t f).ready ∧
       (∀ h, h ∈ (flowOf t f).held → h.receiver ≠ r) ∧ (∀ h, h ∈ (flowOf s f).held → h.receiver ≠ r → h ∈ (flowOf t f).held) ∧
       51 ∈ t.ctl.msix ∧ (∀ g, g ≠ f → flowOf t g = flowOf s g) ∧
       Same [.pending, .mem, .host, .clk, .tiles, .flags, .libero, .images, .cache, .windows, .sync, .syncWins, .lanes, .cdf, .fns, .pkgs,
         .queue, .works, .jobs, .ctxs, .rings, .srings, .media, .cores, .umpire, .power, .protect, .carried, .traceAt, .free] s t) ∧
   (∀ s f r b, controlled s = true → nget (flowOf s f).recs r = some b → flowBit s f 0x06 r = true → r ∉ (flowOf s f).ready →
     ((recvKind b = 2 ∧ reachable s (recvTarget b) = true) ∨ (recvKind b = 3 ∧ sringRoom s (recvTarget b) = true)) →
     exec (.receiverReady f r) s = .next { s with flows := nset s.flows f { flowOf s f with ready := (flowOf s f).ready ++ [r] } }) ∧
   (∀ s f r, controlled s = true → nget (flowOf s f).recs r = none →
     exec (.receiverBench f r) s = .next s ∧ exec (.receiverReady f r) s = .next s))

/-- R334, R335, R342: a packet that the port drops or no context takes is counted as discarded, with the uncorrectable codewords that carried it;
one that the first leg of a running context takes is counted as received and held for its frame without its padding and extension (R337), unless its
number has come already; a context that does not run counts the frame it ends (R268). R343, R344, R424, R431: the oldest arriving frame of a running
context is complete when all its packets are there or a later frame has come, or a tick after its first packet: with its entry free and room in the
stream store its bits are kept and it is accepted; with its entry not free it is discarded and counted. A number that stays missing past the merge
window counts as lost. -/
def Obligations.Ingress : Prop :=
  ((∀ s port p dt, inService s = true → portUp s port = true →
     let u := passTime s dt
     (portKeeps u port false p.frame = false ∨ takers u port p = []) →
     exec (.rtpPacketReceive port p dt) s = .next (countDrop u port p.frame)) ∧
   (∀ s port p dt, inService s = true → portUp s port = false → exec (.rtpPacketReceive port p dt) s = .next (passTime s dt)) ∧
   (∀ s port p dt k, inService s = true → portUp s port = true →
     let u := passTime s dt
     portKeeps u port false p.frame = true → takers u port p = [(k, 0)] → ctxState s k = 3 → k < 16384 → getReg s (ctxIndex k) 0x2A ≠ 1 →
     seqSeen (ctxOf s k) (packetSeq u k p) = false → (ctxOf s k).doneKeys.contains p.stamp = false →
     ((ctxOf s k).inputs.any fun f => !f.complete && f.key == p.stamp) = true → Runs (.rtpPacketReceive port p dt) s fun t =>
       (ctxOf t k).packets = (ctxOf s k).packets ++ [⟨p.stamp, packetSeq u k p, p.stamp, p.marker, u.clk.now, rtpBody p⟩] ∧
       (ctxOf t k).inputs = (ctxOf s k).inputs ∧
       getReg t (portIndex port) 0x0A = getReg (addReg s (portIndex port) 0x0A 1) (portIndex port) 0x0A ∧
       RegsBut [(portIndex port, 0x0A)] s t ∧ (∀ l, l ≠ k → ctxOf t l = ctxOf s l) ∧ Kept [.dict, .ctxs, .clk] s t) ∧
   (∀ s port p dt k, inService s = true → portUp s port = true →
     let u := passTime s dt
     portKeeps u port false p.frame = true → takers u port p = [(k, 0)] →
     (ctxState s k = 3 → seqSeen (ctxOf s k) (packetSeq u k p) = true →
       exec (.rtpPacketReceive port p dt) s = .next (addReg u (portIndex port) 0x0A 1)) ∧
     (ctxState s k ≠ 3 → p.marker = true →
       exec (.rtpPacketReceive port p dt) s = .next (addReg (addReg u (portIndex port) 0x0A 1) (ctxIndex k) 0x3D 1)))) ∧
  ((∀ s k f c, controlled s = true → k < 16384 → arriving s k = some f → ((ctxOf s k).inputs.all fun g => !g.waits) = true →
     ((c = .inputFrameComplete k ∧ (framePresent s k f true = true ∨ laterCame s k f = true)) ∨
       (c = .inputFrameTimeout k ∧ f.first + period s ≤ s.clk.now)) →
     ctxState s k = 3 → entryFree s k f.j = true → storeRoom s k (frameBits s k f).length = true → Runs c s fun t =>
       (∃ g, g ∈ (ctxOf t k).inputs ∧ g.j = f.j ∧ g.complete = true ∧ g.waits = false ∧ g.bytes = frameBits s k f ∧ g.tick = counterOf s) ∧
       (ctxOf t k).prevInput = frameBits s k f ∧ (ctxOf t k).prevStamp = f.stamp ∧ (∃ e, e ∈ t.frames ∧ e.ctx = k ∧ e.j = f.j ∧ e.state = 1) ∧
       (∀ e, e ∈ s.frames → e ∈ t.frames) ∧ RegsBut [(ctxIndex k, 0x3E)] s t ∧
       (framePresent s k f false = true → getReg t (ctxIndex k) 0x3E = getReg s (ctxIndex k) 0x3E) ∧
       (∀ l, l ≠ k → ctxOf t l = ctxOf s l) ∧ Kept [.dict, .ctxs, .frames, .media, .fabric, .out] s t) ∧
   (∀ s k f c, controlled s = true → k < 16384 → arriving s k = some f → ((ctxOf s k).inputs.all fun g => !g.waits) = true →
     ((c = .inputFrameComplete k ∧ (framePresent s k f true = true ∨ laterCame s k f = true)) ∨
       (c = .inputFrameTimeout k ∧ f.first + period s ≤ s.clk.now)) →
     ctxState s k = 3 → entryFree s k f.j = false → Runs c s fun t =>
       getReg t (ctxIndex k) 0x3D = getReg (addReg s (ctxIndex k) 0x3D 1) (ctxIndex k) 0x3D ∧ (ctxOf t k).nextIn = (ctxOf s k).nextIn - 1 ∧
       RegsBut [(ctxIndex k, 0x3D)] s t ∧ Kept [.dict, .ctxs, .media] s t) ∧
   (∀ s k v dt, inService s = true → ctxState s k = 3 → twoLegs s k = true →
     let u := passTime s dt
     let c := ctxOf s k
     let seq := nearest (if getReg s (ctxIndex k) 0x2A = 0 then 32 else 16) (c.highSeq.getD 0) v
     seqSeen c seq = false → (∃ h, h ∈ c.packets ∧ seq < h.seq ∧ h.at_ + getReg s (ctxIndex k) 0x2C * 3000000 ≤ u.clk.now) →
     exec (.mergeWindowExpiry k v dt) s = .next { u with ctxs := nset u.ctxs k { c with lostSeqs := c.lostSeqs ++ [seq] } }))

/-- R334, R335: a port that is up counts a good frame and answers an echo request, an ARP request or a neighbour solicitation for one of its
addresses, and a multicast query for the groups that running contexts have joined; it counts a frame it drops; a port that is not up does nothing.
R355: a port that faults is down, is logged, and sends nothing any more; the link of an enabled port that comes up makes it up, and the groups
joined on it are reported again (R342). -/
def Obligations.MediaPorts : Prop :=
  ((∀ s port fr src dst i q (d : List Byte), inService s = true → portUp s port = true → portKeeps s port false fr = true →
     let u := addReg s (portIndex port) 0x0A 1
     exec (.icmpEcho ⟨port, fr⟩ src dst i q d) s =
       .next { u with out := s.out ++
       if ((portV4 s port).map mapped ++ portV6 s port).contains dst then [.echoReply port (egressTag s port) src i q d] else [] }) ∧
   (∀ s port fr target sender mac, inService s = true → portUp s port = true → portKeeps s port false fr = true →
     let u := addReg s (portIndex port) 0x0A 1
     let v4 := if target = getReg s (portIndex port) 0x04 ∧ target ≠ 0 then [Emission.arpReply port (egressTag s port) sender mac (portMac s port)] else []
     let v6 := if target ∈ portV6 s port then [Emission.neighbourAdvert port (egressTag s port) sender mac (portMac s port)] else []
     exec (.arpRequest ⟨port, fr⟩ target sender mac) s = .next { u with out := s.out ++ v4 } ∧
     exec (.neighbourDiscovery ⟨port, fr⟩ target sender mac) s = .next { u with out := s.out ++ v6 }) ∧
   (∀ s port fr g v6, inService s = true → portUp s port = true → portKeeps s port v6 fr = true →
     let gs := ((joinedGroups s port v6).filter fun x => g == 0 || x.1 == g).eraseDups
     let u := addReg s (portIndex port) 0x0A 1
     exec (.multicastQuery ⟨port, fr⟩ g v6) s =
       .next { u with out := s.out ++
       if gs = [] then [] else [.membershipReport port (egressTag s port) true gs] }) ∧
   (∀ s port fr a b c d (bs : List Byte), inService s = true → portUp s port = true → portKeeps s port false fr = false →
     let t : Host.Outcome State Fault Refusal := .next (countDrop s port fr)
     exec (.icmpEcho ⟨port, fr⟩ a b c d bs) s = t ∧ exec (.arpRequest ⟨port, fr⟩ a b c) s = t ∧ exec (.neighbourDiscovery ⟨port, fr⟩ a b c) s = t ∧
     exec (.multicastQuery ⟨port, fr⟩ a false) s = t) ∧
   (∀ s port fr a b c d (bs : List Byte) v6, inService s = true → portUp s port = false →
     exec (.icmpEcho ⟨port, fr⟩ a b c d bs) s = .next s ∧ exec (.arpRequest ⟨port, fr⟩ a b c) s = .next s ∧
     exec (.neighbourDiscovery ⟨port, fr⟩ a b c) s = .next s ∧ exec (.multicastQuery ⟨port, fr⟩ a v6) s = .next s)) ∧
  ((∀ s port, inService s = true → portUp s port = true → Runs (.mediaPortFault port) s fun t =>
     getReg t (portIndex port) 0x02 = 0 ∧ (∀ p, p ∈ t.media.egress → p.port ≠ port) ∧
     (∀ p, p ∈ s.media.egress → p.port ≠ port → p ∈ t.media.egress) ∧
     (∃ e, e ∈ t.ctl.log ∧ e.code = 0x0080 ∧ e.kind = 6 ∧ e.unit = port ∧ e.tick = counterOf s) ∧ 49 ∈ t.ctl.msix ∧
     Same [.pending, .mem, .host, .clk, .tiles, .flags, .libero, .images, .cache, .windows, .sync, .syncWins, .lanes, .cdf, .fns, .pkgs,
       .queue, .works, .jobs, .ctxs, .rings, .srings, .flows, .cores, .umpire, .power, .protect, .carried, .traceAt, .free] s t) ∧
   (∀ s port, inService s = true → port < 4 → getReg s (portIndex port) 0x01 = 1 →
     let u := setReg s (portIndex port) 0x02 2
     let reports := [false, true].filterMap fun v6 => groupReport u port (joinedGroups u port v6).eraseDups
     exec (.mediaLinkUp port) s = .next { u with out := u.out ++ reports }))

/-! ### Umpire mode (R249 to R252) -/

/-- R249: enabling umpire mode outside deterministic mode is refused and the mode is off again; with no partner it is off; otherwise every partner
is sent this member's digest and pairing begins. When every partner's digest has come the members are paired if all are this member's own, and
pairing is refused if one differs. R250, R252: one local record meets its partner's: equal records are counted as compared and no longer wait;
records that differ are counted, and under policy 0 the halt is due and the partner is told. A record with no local one yet is kept. R252: RESUME of
a halted member runs the halted marked contexts again and lets go of every held output; STOP stops them. Neither does anything to a member that is
not halted. -/
def Obligations.Umpire : Prop :=
  ((∀ s, controlled s = true →
     let u (st : Nat) : State := { s with umpire := { digests := s.umpire.digests, status := st } }
     (getReg s 0x5020 0x01 ≠ 0 → inForceReg s 0x5000 0x01 = 0 →
       exec .umpireEnable s = .next (setReg (setReg (u stStrictForbids) 0x5020 0x07 0) 0x5020 0x01 0)) ∧
     (getReg s 0x5020 0x01 = 0 → exec .umpireEnable s = .next (setReg (u stOk) 0x5020 0x07 0))) ∧
   (∀ s, controlled s = true → (getReg s 0x5020 0x01 = 1 ∨ getReg s 0x5020 0x01 = 2) → inForceReg s 0x5000 0x01 ≠ 0 →
     let u : State := { s with umpire := { digests := s.umpire.digests, status := stPending } }
     let v := setReg u 0x5020 0x07 1
     Runs .umpireEnable s fun t =>
       partners v ≠ [] ∧ (∀ p, p ∈ partners v → Emission.configDigest p (umpireDigest v) ∈ t.out) ∧
       ((∃ p, p ∈ partners v ∧ ∀ d, d ∈ s.umpire.digests → d.1 ≠ p) →
         umpireState t = 1 ∧ t.umpire.digests = s.umpire.digests ∧ t.umpire.status = stPending) ∧
       RegsBut [(0x5020, 0x07)] s t ∧ Kept [.dict, .umpire, .out] s t) ∧
   (∀ s p (d : List Byte), controlled s = true → umpireState s = 1 →
     let ds := s.umpire.digests.filter (fun x => x.1 != p) ++ [(p, d)]
     let heard := (partners s).map fun q => (ds.find? fun x => x.1 == q).map (·.2)
     ((∀ h, h ∈ heard → h = some (umpireDigest s)) → Runs (.umpireConfigurationDigest p d) s fun t =>
       umpireState t = (if (partners s).length = 2 then 3 else 2) ∧ t.umpire.digests = [] ∧ t.umpire.status = stOk ∧
       RegsBut [(0x5020, 0x07)] s t ∧ Kept [.dict, .umpire] s t) ∧
     (none ∉ heard → (∃ h, h ∈ heard ∧ h ≠ some (umpireDigest s)) → Runs (.umpireConfigurationDigest p d) s fun t =>
       umpireState t = 0 ∧ t.umpire.status = stUmpireConfig ∧ Kept [.dict, .umpire] s t) ∧
     (none ∈ heard → exec (.umpireConfigurationDigest p d) s = .next { s with umpire := { s.umpire with digests := ds } }))) ∧
  ((∀ s p r q n, controlled s = true → umpireState s = 2 → partners s = [p] → s.umpire.localR = [(r, n)] → s.umpire.remote = [] →
     s.umpire.seen = [] → q.ctx = r.ctx → q.frame = r.frame → sameCard r q = true → Runs (.umpireScorecardFrame p [q]) s fun t =>
       t.umpire.localR = [] ∧ t.umpire.remote = [] ∧ getReg t 0x5020 0x08 = (getReg s 0x5020 0x08 + 1) % 2 ^ 64 ∧
       getReg t 0x5020 0x09 = getReg s 0x5020 0x09 ∧ umpireState t = 2) ∧
   (∀ s p r q n, controlled s = true → umpireState s = 2 → partners s = [p] → s.umpire.localR = [(r, n)] → s.umpire.remote = [] →
     s.umpire.seen = [] → q.ctx = r.ctx → q.frame = r.frame → sameCard r q = false → getReg s 0x5020 0x04 ≠ 1 → Runs (.umpireScorecardFrame p [q]) s fun t =>
       t.umpire.localR = [] ∧ t.umpire.haltDue = true ∧ getReg t 0x5020 0x09 = (getReg s 0x5020 0x09 + 1) % 2 ^ 64 ∧
       Emission.haltNotice p r.ctx r.frame ∈ t.out ∧ (getReg s 0x5020 0x05 ≠ 0 → (r.ctx, r.frame) ∈ t.umpire.held)) ∧
   (∀ s p rs, controlled s = true → (umpireState s = 2 ∨ umpireState s = 3 ∨ umpireState s = 5) → p ∈ partners s → s.umpire.localR = [] →
     exec (.umpireScorecardFrame p rs) s = .next { s with umpire := { s.umpire with
       remote := s.umpire.remote ++ rs.map fun r => (p, r) } }) ∧
   (∀ s p a b, controlled s = true → (umpireState s = 2 ∨ umpireState s = 3) → p ∈ partners s → umpirePolicy s = 0 →
     exec (.umpireHaltNotice p a b) s = .next { s with umpire := { s.umpire with haltDue := true } }) ∧
   (∀ s k j, controlled s = true →
     (∃ r, r ∈ s.umpire.localR ∧ r.1.ctx = k ∧ r.1.frame = j ∧ r.2 + getReg s 0x5020 0x06 ≤ counterOf s) → (k, j) ∉ s.umpire.late →
     exec (.umpireLagEvent k j) s = .next
       (addReg { s with umpire := { s.umpire with late := s.umpire.late ++ [(k, j)] } } 0x5020 0x0B 1))) ∧
  ((∀ s, controlled s = true → umpireState s = 5 → Runs .umpireResume s fun t =>
     umpireState t = afterHalt s ∧ t.umpire.held = [] ∧ (∀ k, k ∈ markedCtxs s → ctxState s k = 7 → ctxState t k = 3) ∧
     (∀ k, k < 16384 → ctxState s k ≠ 7 → ctxState t k = ctxState s k) ∧
     Same [.pending, .mem, .clk, .tiles, .flags, .libero, .images, .cache, .windows, .sync, .syncWins, .lanes, .cdf, .fns, .pkgs, .queue,
       .works, .jobs, .ctxs, .rings, .media, .cores, .power, .protect, .carried, .traceAt, .free] s t) ∧
   (∀ s, controlled s = true → umpireState s = 5 → Runs .umpireStop s fun t =>
     umpireState t = afterHalt s ∧ t.umpire.held = [] ∧ (∀ k, k ∈ markedCtxs s → ctxState s k = 7 → (ctxOf t k).stopDue = true) ∧
     Same [.pending, .mem, .clk, .tiles, .flags, .libero, .images, .cache, .windows, .sync, .syncWins, .lanes, .cdf, .fns, .pkgs, .queue,
       .works, .jobs, .rings, .media, .cores, .power, .protect, .carried, .traceAt, .free] s t) ∧
   (∀ s, controlled s = true → umpireState s ≠ 5 → exec .umpireResume s = .next s ∧ exec .umpireStop s = .next s))

/-- R402, R408: a frame with the expected sequence number on a link that is up is taken, acknowledged and expected no more; one for this device that
ends its message is answered with the message's acknowledgement unless its flow has none. A frame with a bad CRC or another number is dropped, and a
retry asked for. R400 to R403: a control frame takes acknowledged frames out of the replay buffer, and frames that wait move up; a retry request
sends what is left again, its sixteenth for one number fails the link; so does a timeout with frames outstanding. A training that passes brings the
link up with its state fresh; the third that fails within a second disables it. -/
def Obligations.Palton : Prop :=
  ((∀ s i f, inService s = true → linkUp s i = true → f.crcOk = true → f.seq = (linkOf s i).expect → (linkOf s i).queue = [] →
     f.dst = ownAddress s → f.index = 0 → f.last = true → 0 < f.flow → f.flow < 0x1000 →
     oldMessage ((s.fabric.flowsIn.find? fun x => x.src == f.src && x.flow == f.flow).bind (·.done)) f.msg = false →
     Runs (.paltonDataFrame i f) s fun t =>
       (linkOf t i).expect = ((linkOf s i).expect + 1) % 4096 ∧ (linkOf t i).discard = false ∧
       t.out = s.out ++ [.paltonControl i (((linkOf s i).expect + 1) % 4096) 1 (flowLevel f.flow), .messageAcked f.src f.flow f.msg] ∧
       (∃ e, e ∈ t.fabric.flowsIn ∧ e.src = f.src ∧ e.flow = f.flow ∧ e.done = some f.msg ∧ e.data = f.data) ∧
       (∀ x, x ≠ i → linkOf t x = linkOf s x) ∧ RegsBut [(linkIndex i, 0x08)] s t ∧ Kept [.dict, .fabric, .out] s t) ∧
   (∀ s i f, inService s = true → linkUp s i = true → f.crcOk = false →
     let u := addReg s (linkIndex i) 0x09 1
     let v := addReg (putLink u i { linkOf s i with discard := true }) (linkIndex i) 0x0A 1
     exec (.paltonDataFrame i f) s = .next { v with out := s.out ++ [.paltonRetry i (linkOf s i).expect] }) ∧
   (∀ s i f, inService s = true → linkUp s i = true → f.crcOk = true → f.seq ≠ (linkOf s i).expect → (linkOf s i).discard = true →
     exec (.paltonDataFrame i f) s = .next s) ∧
   (∀ s i f, inService s = true → linkUp s i = false → exec (.paltonDataFrame i f) s = .next s)) ∧
  ((∀ s i ack credit level, inService s = true → linkUp s i = true → Runs (.paltonControlFrame i ack credit level) s fun t =>
     (∃ more, (linkOf t i).replay = (ackFrames (linkOf s i) ack).replay ++ more) ∧ (linkOf t i).retries = (linkOf s i).retries ∧
     (credit ≠ 0 → ngetD (linkOf t i).credits level 0 = ngetD (linkOf s i).credits level 0 + credit) ∧
     ((linkOf s i).queue = [] → (linkOf t i).replay = (ackFrames (linkOf s i) ack).replay ∧ Kept [.fabric] s t) ∧
     (∀ x, x ≠ i → linkOf t x = linkOf s x) ∧ RegsBut [(linkIndex i, 0x07)] s t ∧ Kept [.fabric, .dict, .out] s t) ∧
   (∀ s i f, (linkOf s i).queue = [f] → (linkOf s i).replay.length < 1024 →
     let l := linkOf s i
     let g := { f with seq := l.sendSeq, ack := l.expect, credit := 0, level := flowLevel f.flow, crcOk := true }
     (linkOf (serveLink s i) i).queue = [] ∧ (linkOf (serveLink s i) i).replay = l.replay ++ [(l.sendSeq, g)] ∧
     (linkOf (serveLink s i) i).sendSeq = (l.sendSeq + 1) % 4096 ∧ (serveLink s i).out = s.out ++ [.palton i g]) ∧
   (∀ s i n, inService s = true → linkUp s i = true →
     let l := ackFrames (linkOf s i) n
     let c := if (linkOf s i).retrySeq = n then (linkOf s i).retries + 1 else 1
     (c < 16 → Runs (.retryRequest i n) s fun t =>
       (∃ more rest, t.out = s.out ++ l.replay.map (fun e => .palton i e.2) ++ more ∧ (linkOf t i).replay = l.replay ++ rest ∧
         ((linkOf s i).queue = [] → more = [] ∧ rest = [])) ∧ (linkOf t i).retries = c ∧
       (∀ x, x ≠ i → linkOf t x = linkOf s x) ∧ Kept [.fabric, .dict, .out] s t) ∧
     (16 ≤ c → Runs (.retryRequest i n) s fun t => linkState t i = 1 ∧ (∃ e, e ∈ t.ctl.log ∧ e.code = 0x0100 ∧ e.unit = i))) ∧
   (∀ s i, inService s = true → linkUp s i = true → (linkOf s i).replay ≠ [] → Runs (.linkAckTimeout i) s fun t =>
     linkState t i = 1 ∧ (∀ p, p ∈ t.fabric.pins → p.link ≠ i) ∧
     (∃ e, e ∈ t.ctl.log ∧ e.code = 0x0100 ∧ e.unit = i) ∧ 49 ∈ t.ctl.msix) ∧
   (∀ s i, inService s = true → (linkUp s i = false ∨ (linkOf s i).replay = []) → exec (.linkAckTimeout i) s = .next s) ∧
   (∀ s i dt, inService s = true → i < 96 → linkState s i = 1 → Runs (.linkTraining i true dt) s fun t =>
     linkState t i = 2 ∧ (linkOf t i).sendSeq = 0 ∧ (linkOf t i).expect = 0 ∧ (linkOf t i).replay = [] ∧ (linkOf t i).queue = [] ∧
     (linkOf t i).attempts = [] ∧ RegsBut [(linkIndex i, 0x02), (linkIndex i, 0x0B)] s t ∧ Kept [.dict, .fabric, .clk] s t) ∧
   (∀ s i dt a b, inService s = true → i < 96 → linkState s i = 1 → (linkOf s i).attempts = [a, b] →
     nowUs (passTime s dt) ≤ a + 1000000 → nowUs (passTime s dt) ≤ b + 1000000 → Runs (.linkTraining i false dt) s fun t =>
       linkState t i = 0 ∧ (∃ e, e ∈ t.ctl.log ∧ e.code = 0x0101 ∧ e.unit = i) ∧ Kept [.dict, .fabric, .clk, .ctl] s t))

/-- R404, R405, R421: a hello is sent on every link that is up, and on no other, with the part's serial number and address, and the part reports
itself to its parent; one that is received shows the neighbour and its delay in the link's record, and a lower root than the one known becomes the
root. R405, R406, R407, R416: the map from the root gives the part its address and goes down to its children; a flood with another device's links is
kept and passed along the tree, the same flood again does nothing; a pin unused for a second goes, and no other. R42, R415: a tick offer of
precedence 1 or 3 at this part's house rate replaces the offer its link made before and is passed on to every other neighbour of the same rate; any
other offer is ignored. -/
def Obligations.FabricRouting : Prop :=
  ((∀ s dt, controlled s = true → Runs (.helloSend dt) s fun t =>
     (∀ i, i ∈ upLinks s → ∃ d, Emission.helloOut i d ∈ t.out ∧ d.serial = s.ctl.manifest.serial ∧ d.address = ownAddress t ∧ d.link = i ∧
       d.root = getReg t 0x4100 0x04 ∧ d.rate = s.clk.rate ∧ d.precedence = getReg s 0x2000 0x07) ∧
     (∀ i d, Emission.helloOut i d ∈ t.out → Emission.helloOut i d ∈ s.out ∨ i ∈ upLinks s) ∧
     (∀ i, t.fabric.parent = some i → Emission.reportUp i s.ctl.manifest.serial (getReg t 0x4100 0x02) ∈ t.out) ∧
     getReg t 0x4100 0x06 = fabricState t ∧ Kept [.dict, .fabric, .out, .clk, .ctl] s t) ∧
   (∀ s i d dt, controlled s = true → linkUp s i = true → d.serial ≠ 0 → Runs (.hello i d dt) s fun t =>
     getReg t (linkIndex i) 0x03 = d.serial ∧ getReg t (linkIndex i) 0x04 = d.address ∧ getReg t (linkIndex i) 0x05 = d.link ∧
     (linkOf t i).root = d.root ∧ (linkOf t i).hops = d.hops ∧ (linkOf t i).rate = d.rate ∧ getReg t 0x4100 0x04 ≤ d.root ∧
     getReg t 0x4100 0x04 ≤ s.ctl.manifest.serial ∧
     (d.echo = 0 → getReg t (linkIndex i) 0x0C = getReg s (linkIndex i) 0x0C) ∧
     (d.echo ≠ 0 → (linkOf s i).delays = [] → getReg t (linkIndex i) 0x0C = (nowNs (passTime s dt) - d.echo - d.hold) / 2) ∧
     (∀ x, x ≠ i → linkOf t x = linkOf s x) ∧ Kept [.dict, .fabric, .clk, .ctl, .out] s t) ∧
   (∀ s i d dt, controlled s = true → linkUp s i = false → exec (.hello i d dt) s = .next (passTime s dt))) ∧
  ((∀ s root (m : List (Nat × Nat)) a, controlled s = true → root = getReg s 0x4100 0x04 → root ≠ s.ctl.manifest.serial →
     m.find? (fun e => e.1 == s.ctl.manifest.serial) = some (s.ctl.manifest.serial, a) → Runs (.addressMap root m) s fun t =>
       ownAddress t = a ∧ t.fabric.map = m ∧ (∀ e, e ∈ t.out → e ∈ s.out ∨ ∃ i, e = .mapDown i root m) ∧
       (∀ i, i ∈ childLinks s → Emission.mapDown i root m ∈ t.out) ∧ Kept [.dict, .fabric, .out, .ctl] s t) ∧
   (∀ s (m : List (Nat × Nat)), controlled s = true → getReg s 0x4100 0x04 = s.ctl.manifest.serial →
     Runs (.addressMap s.ctl.manifest.serial m) s fun t => (∀ i, i ∈ childLinks s → Emission.mapDown i s.ctl.manifest.serial t.fabric.map ∈ t.out) ∧
       t.fabric.map = grantAddresses s (((s.ctl.manifest.serial, getReg s 0x4100 0x02) ::
         m.filter fun e => e.1 != s.ctl.manifest.serial).foldr insertSerial []) [] ∧ Kept [.dict, .fabric, .out, .ctl] s t) ∧
   (∀ s root m, controlled s = true → root ≠ getReg s 0x4100 0x04 → exec (.addressMap root m) s = .next s) ∧
   (∀ s src ups, controlled s = true → src ≠ ownAddress s → ngetD s.fabric.graph src [] ≠ ups → Runs (.routeFlood src ups) s fun t =>
     ngetD t.fabric.graph src [] = ups ∧ (∀ a, a ≠ src → ngetD t.fabric.graph a [] = ngetD s.fabric.graph a []) ∧
     (∀ i, i ∈ treeLinks s → Emission.flood i src ups ∈ t.out) ∧ t.fabric.quiet = 0 ∧ Kept [.dict, .fabric, .out] s t) ∧
   (∀ s src ups, controlled s = true → (src = ownAddress s ∨ ngetD s.fabric.graph src [] = ups) → exec (.routeFlood src ups) s = .next s) ∧
   (∀ s src flow, inService s = true → Runs (.flowUnpin src flow) s fun t =>
     (∀ p, p ∈ t.fabric.pins ↔ p ∈ s.fabric.pins ∧ ¬ (p.src = src ∧ p.flow = flow ∧ p.used + 1000000 ≤ nowUs s)) ∧ Kept [.fabric] s t)) ∧
  ((∀ s i counter rate prec serial ptp free, controlled s = true → linkUp s i = true → sameRate s rate free = true → (prec = 1 ∨ prec = 3) →
     Runs (.fabricTickMessage i counter rate prec serial ptp free) s fun t =>
       t.clk.offers = (s.clk.offers.filter fun o => o.2.2.1 != i) ++ [(prec, serial, i, counter)] ∧ t.clk.now = s.clk.now ∧
       (∀ x, x ∈ upLinks s → x ≠ i → sameRate s (linkOf s x).rate (linkOf s x).freeRate = true →
         Emission.tickMessage x counter rate prec serial (ptp + getReg s (linkIndex i) 0x0C) free ∈ t.out) ∧
       RegsBut [(0x2000, 0x0A)] s t ∧ (getReg s 0x2000 0x07 ≠ 2 → getReg t 0x2000 0x0A = getReg s 0x2000 0x0A) ∧
       Kept [.clk, .dict, .out] s t) ∧
   (∀ s i counter rate prec serial ptp free, controlled s = true → (linkUp s i = false ∨ sameRate s rate free = false ∨ (prec ≠ 1 ∧ prec ≠ 3)) →
     exec (.fabricTickMessage i counter rate prec serial ptp free) s = .next s))

/-- R416, R443: a peer without a route at eight boundaries in a row is lost, counted and logged once; a lost peer with a route is regained. R419,
R437: an output of the peer that feeds a running context is its next input when there is room for it, and is acknowledged; one at or below the last
one taken is acknowledged again and taken no more; a context that is not fed by that peer ignores it. -/
def Obligations.PeerDevices : Prop :=
  ((∀ s p, controlled s = true → 8 ≤ ngetD s.fabric.missing p 0 → p ∉ s.fabric.lost → Runs (.peerLost p) s fun t =>
     t.fabric.lost = s.fabric.lost ++ [p] ∧ p ∈ t.fabric.gone ∧ 49 ∈ t.ctl.msix ∧
     (p ∉ partners s → (∃ e, e ∈ t.ctl.log ∧ e.code = 0x0103 ∧ e.detail = p) ∧
       getReg t 0x4100 0x11 = getReg (addReg s 0x4100 0x11 1) 0x4100 0x11 ∧ Kept [.dict, .fabric, .ctl] s t)) ∧
   (∀ s p, controlled s = true → (ngetD s.fabric.missing p 0 < 8 ∨ p ∈ s.fabric.lost) → exec (.peerLost p) s = .next s) ∧
   (∀ s p, controlled s = true → p ∈ s.fabric.lost → reachable s p = true → Runs (.peerRegained p) s fun t =>
     p ∉ t.fabric.lost ∧ (∀ q, q ≠ p → (q ∈ t.fabric.lost ↔ q ∈ s.fabric.lost)) ∧ nget t.fabric.missing p = none ∧
     (∃ e, e ∈ t.ctl.log ∧ e.code = 0x0104 ∧ e.detail = p) ∧ Kept [.dict, .fabric, .ctl, .out] s t)) ∧
  ((∀ s sender flow k j (d : List Byte), controlled s = true → k < 16384 → getReg s (ctxIndex k) 0x26 = 3 →
     getReg s (ctxIndex k) 0x27 = sender → ctxState s k = 3 → (∀ l, (ctxOf s k).lastFrom = some l → l < j) → storeRoom s k d.length = true →
     entryFree s k (ctxOf s k).nextIn = true → Runs (.fabricOutputMessage sender flow k j d) s fun t =>
       (ctxOf t k).nextIn = (ctxOf s k).nextIn + 1 ∧ (ctxOf t k).lastFrom = some j ∧
       (∃ f, (ctxOf t k).inputs = (ctxOf s k).inputs ++ [f] ∧ f.j = (ctxOf s k).nextIn ∧ f.bytes = d ∧ f.complete = true) ∧
       t.frames = s.frames ++ [{ ctx := k, j := (ctxOf s k).nextIn, state := 1 }] ∧ (∃ m, Emission.messageAcked sender flow m ∈ t.out) ∧
       (∀ l, l ≠ k → ctxOf t l = ctxOf s l) ∧ Kept [.ctxs, .frames, .media, .fabric, .out] s t) ∧
   (∀ s sender flow k j l (d : List Byte), controlled s = true → k < 16384 → getReg s (ctxIndex k) 0x26 = 3 →
     getReg s (ctxIndex k) 0x27 = sender → ctxState s k = 3 → (ctxOf s k).lastFrom = some l → j ≤ l →
     Runs (.fabricOutputMessage sender flow k j d) s fun t => (∃ m, t.out = s.out ++ [.messageAcked sender flow m]) ∧ Kept [.out] s t) ∧
   (∀ s sender flow k j (d : List Byte), controlled s = true → k < 16384 → getReg s (ctxIndex k) 0x26 = 3 →
     getReg s (ctxIndex k) 0x27 = sender → ctxState s k ≠ 3 →
     exec (.fabricOutputMessage sender flow k j d) s = .next (addReg s (ctxIndex k) 0x3D 1)) ∧
   (∀ s sender flow k j (d : List Byte), controlled s = true → (getReg s (ctxIndex k) 0x26 ≠ 3 ∨ getReg s (ctxIndex k) 0x27 ≠ sender) →
     exec (.fabricOutputMessage sender flow k j d) s = .next s))

/-! ### Span groups (R100, R409 to R414) -/

/-- R414: from `s` to `t` the wait for the last of the group's members, entered as `times` says, is added to #4100.10 and to the group's slots, and
no other setting or count changes but those of the fault log. A work of no group waits for nobody. -/
def Waited (s : State) (id : WorkId) (times : List (Nat × Nat)) (t : State) : Prop :=
  (∀ k j g ranks, id = .frame k j → spanGroupOf s k = some (g, ranks) →
    let wait := (groupWait s ranks times).2
    (wait ≠ 0 → getReg t 0x4100 0x10 = getReg (addReg s 0x4100 0x10 (wait / 1000)) 0x4100 0x10) ∧ (wait = 0 → t.dict = s.dict) ∧
    RegsBut [(0x4100, 0x10), (0xE000, 0x01), (0xE000, 0x05)] s t ∧ BlobsBut [(0x4100, 0x32 + g)] s t) ∧
  ((∀ k j, id = .frame k j → spanGroupOf s k = none) → t.dict = s.dict)

/-- R100, R410 to R412: a collective that is ready and that every member has entered leaves the members' result at its location, its flags in
the work, and is recorded as done; the result is kept for a replay, and a replay leaves the kept one without asking the members again. A
collective that fails writes nothing and ends its run. A collective of count 0 writes nothing. R414: the wait for the last member is counted. -/
def Obligations.Collectives : Prop :=
  ∀ (s : State) (id : WorkId) (i : Nat) (others : Entered) (e : Instr × Nat), inService s = true →
    e ∈ [(.collectiveMaxAnchors id i others, 1), (.collectiveSumExact id i others, 2), (.collectiveSumAnchored id i others, 3),
      (.collectiveBroadcast id i others, 4), (.collectiveElementwiseMax id i others, 5)] →
    (collReady s id i e.2 = none → exec e.1 s = .next s) ∧
    (∀ w g, collReady s id i e.2 = some (w, g) → g.count ≠ 0 → keptResult s id i = none → others.others.length + 1 = (rankOf s id).2 →
      let own := s.mem.read (collBase w g) (g.count * collUnit g)
      let parts := others.others.take (rankOf s id).1 ++ [own] ++ others.others.drop (rankOf s id).1
      (∀ bytes fl, collectiveResult g own parts = .ok (bytes, fl) → Runs e.1 s fun t =>
        t.mem = s.mem.write (collBase w g) bytes ∧ keptResult t id i = some (bytes, stOk, fl) ∧
        (∃ v, findWork t id = some v ∧ v.colls = w.colls ++ [(i, stOk)] ∧ v.flags = (w.flags ||| fl) ∧ v.parts = w.parts) ∧
        (g.ctl.testBit 6 = false → t.sync = s.sync) ∧ Kept [.dict, .ctl, .mem, .works, .fabric, .sync, .out] s t ∧ Waited s id others.times t) ∧
      (∀ st, st ≠ stOk → collectiveResult g own parts = .error st → Runs e.1 s fun t =>
        keptResult t id i = some ([], st, 0) ∧ (∃ v rest, findWork t id = some v ∧ v.colls = w.colls ++ [(i, st)] ++ rest) ∧
        Kept [.dict, .ctl, .works, .fabric, .out] s t ∧ Waited s id others.times t)) ∧
    (∀ w g bytes fl, collReady s id i e.2 = some (w, g) → g.count ≠ 0 → keptResult s id i = some (bytes, stOk, fl) → Runs e.1 s fun t =>
      t.mem = s.mem.write (collBase w g) bytes ∧ (∃ v, findWork t id = some v ∧ v.colls = w.colls ++ [(i, stOk)] ∧ v.flags = (w.flags ||| fl)) ∧
      Kept [.mem, .works, .sync] s t) ∧
    (∀ w g, collReady s id i e.2 = some (w, g) → g.count = 0 → Runs e.1 s fun t =>
      (∃ v, findWork t id = some v ∧ v.colls = w.colls ++ [(i, stOk)]) ∧ t.mem = s.mem.write (collBase w g) [] ∧
      Kept [.mem, .works, .sync] s t)

/-- R412 to R414, R409: the barrier of a round passes once every member of the group has entered and no frame of a round up to it runs here: it
then waits for the next round, and results of frames that committed are kept no longer; until then nothing happens. What a member sends as its
context starts takes the place of what it sent before. -/
def Obligations.TickBarriers : Prop :=
  (∀ s g n entries k ranks, controlled s = true → groupOf s g = some (k, ranks) → ngetD s.fabric.barrier g 0 ≤ n →
    (∀ a, a ∈ ranks → ∃ e, e ∈ entries ∧ e.1 = a) → (∀ w j, w ∈ s.works → w.id = .frame k j → n < w.issued) →
    Runs (.tickBarrier g n entries) s fun t =>
      ngetD t.fabric.barrier g 0 = n + 1 ∧ (∀ g', g' ≠ g → ngetD t.fabric.barrier g' 0 = ngetD s.fabric.barrier g' 0) ∧
      (∀ j i, findWork s (.frame k j) = none → keptResult t (.frame k j) i = none) ∧
      (∀ id i, (findWork s id).isSome = true → keptResult t id i = keptResult s id i) ∧
      (let wait := (groupWait s ranks entries).2
     (wait ≠ 0 → getReg t 0x4100 0x10 = getReg (addReg s 0x4100 0x10 (wait / 1000)) 0x4100 0x10) ∧ (wait = 0 → t.dict = s.dict)) ∧
    RegsBut [(0x4100, 0x10), (0xE000, 0x01), (0xE000, 0x05)] s t ∧ BlobsBut [(0x4100, 0x32 + g)] s t ∧ Kept [.fabric, .dict, .ctl] s t) ∧
  (∀ s g n entries k ranks a, controlled s = true → groupOf s g = some (k, ranks) → a ∈ ranks → (∀ e, e ∈ entries → e.1 ≠ a) →
    exec (.tickBarrier g n entries) s = .next s) ∧
  (∀ s g m blob modes, controlled s = true → g < 32 → m ≠ ownAddress s → Runs (.spanGroupBlob g m blob modes) s fun t =>
    (g, m, blob, modes) ∈ t.fabric.blobs ∧ (∀ b ms, (g, m, b, ms) ∈ t.fabric.blobs → b = blob ∧ ms = modes) ∧
    (∀ e, ¬(e.1 = g ∧ e.2.1 = m) → (e ∈ t.fabric.blobs ↔ e ∈ s.fabric.blobs)) ∧ Kept [.fabric] s t)

/-! ### Tile commands (R108 to R140) -/

/-- R111, R113, R119, R120, R136, R140, R242: a tile at a command record with one of these opcodes executes it: its accumulators, halves and
hand-over register become what the operation leaves, the digest and the flags take what it adds, its signal goes once to its sync object, and
the part stands at the next record. An empty shape only waits and signals; a record that is refused ends the part with its status. Other tiles
and all of device memory stay as they are, the trace ring's next 32 bytes apart. -/
def Obligations.TileCommands : Prop :=
  ∀ (s : State) (t : Nat) (e : Instr × Nat × (TEnv → CmdRec → Tile → Except Nat TOut)), inService s = true →
    e ∈ [(.nop t, opNOP, fun _ _ x => .ok { tile := x }), (.mma t, opMMA, fun v c x => runMatrix v opMMA c x),
      (.conv t, opCONV, fun v c x => runMatrix v opCONV c x), (.anchor t, opANCHOR, runAnchor), (.stacc t, opSTACC, fun _ => runStacc),
      (.ldacc t, opLDACC, runLdacc), (.rndacc t, opRNDACC, runRndacc), (.vew t, opVEW, runVew), (.vred t, opVRED, runVred),
      (.gather t, opGATHER, runGather), (.scadd t, opSCADD, runScadd), (.sfn t, opSFN, runSfn), (.smax t, opSMAX, runSmax),
      (.nstat t, opNSTAT, runNstat), (.move t, opMOVE, runMove), (.dgstore t, opDGSTORE, fun _ => runDgstore)] →
    (headCmd s t e.2.1 = none → exec e.1 s = .next s) ∧
    (∀ x p c, headCmd s t e.2.1 = some (x, p, c) → emptyShape e.2.1 c = true → Runs e.1 s fun u =>
      (∃ q, (tileOf u t).part = some q ∧ q.todo = p.todo.drop 1 ∧ q.flags = p.flags) ∧ (tileOf u t).acc = x.acc ∧ (tileOf u t).lo = x.lo ∧
      (tileOf u t).hi = x.hi ∧ (tileOf u t).hand = x.hand ∧ tileFlagsOf u t = tileFlagsOf s t) ∧
    (∀ x p c w o, headCmd s t e.2.1 = some (x, p, c) → emptyShape e.2.1 c = false → findWork s p.work = some w →
      e.2.2 (tileEnv s w t) c x = .ok o → Runs e.1 s fun u =>
        (∃ n, tileOf u t = { o.tile with
          digest := if ctlDG c then wrap64 (o.tile.digest + cardOf c.tensorId o.elems) else o.tile.digest
          part := some { p with
            todo := p.todo.drop 1, flags := p.flags ||| o.flags, nonStrict := p.nonStrict || o.nonStrict, waitSince := n } }) ∧
        tileFlagsOf u t = (tileFlagsOf s t ||| o.flags) ∧ (∀ v, v ≠ t → tileOf u v = tileOf s v ∧ tileFlagsOf u v = tileFlagsOf s v) ∧
        (ctlSG c = false → u.sync = s.sync ∧ u.works = s.works) ∧
        (∀ b, ctlSG c = true → syncBase s p.work = some b → (p.idx, 2 * cmdIndex p) ∉ w.delivered →
          syncValue u (b + c.sigObj) = wrap32 (syncValue s (b + c.sigObj) + 1)) ∧
        (traced s p.work = none → u.mem = s.mem ∧ u.dict = s.dict) ∧
        BytesBut (inForceReg s 0x5010 0x03 + s.traceAt % (inForceReg s 0x5010 0x04 / 32) * 32) 32 s.mem u.mem ∧
        Kept [.tiles, .flags, .works, .sync, .mem, .dict, .traceAt] s u) ∧
    (∀ x p c w st, headCmd s t e.2.1 = some (x, p, c) → emptyShape e.2.1 c = false → findWork s p.work = some w →
      e.2.2 (tileEnv s w t) c x = .error st → Runs e.1 s fun u =>
        (tileOf u t).part = none ∧ (tileOf u t).acc = x.acc ∧
        (∃ v, findWork u p.work = some v ∧ v.parts = w.parts ++ [⟨p.idx, st, p.flags, if st = stOk then x.digest else 0, t⟩]) ∧
        Kept [.tiles, .works, .images] s u)

/-- R113, R133, R146, R155, R159, R160: STREAM puts its descriptor at the end of its queue, and waits while the queue holds 16; SWAP exchanges the
halves once no queued descriptor touches one; END ends the part once no descriptor is left, and the part reports its flags and digest; a traced END
leaves a trace record too (R242). R132, R164: outside strict mode SCADDR adds at the stack, each addition at the address its descriptor and index
give, and changes no other byte; the part is then not strict. In strict mode it is refused. R133, R134: MOVE copies its bytes into the working half
and nothing else; DGSTORE stores the digest's eight bytes there, and clears it when its immediate says so. -/
def Obligations.TileDataCommands : Prop :=
  ((∀ s t x p c w, inService s = true → headCmd s t opSTREAM = some (x, p, c) → findWork s p.work = some w →
     let d := parseDesc (readSpace (tileEnv s w t) x (locSpace c.locA) (locOff c.locA) 64)
     ((x.queue.filter fun e => e.queue == c.imm % 4).length < 16 →
       (descOk (((pkgOf s w.slot).map (·.nSync)).getD 0) d && descDeclared (w.regions.map (·.num)) d) = true → Runs (.stream t) s fun u =>
         (tileOf u t).queue = x.queue ++ [⟨p.work, p.idx, cmdIndex p, c.imm % 4, d, !x.workHi, counterOf s, false, 0, 0, none, 0⟩] ∧
         (∃ q, (tileOf u t).part = some q ∧ q.todo = p.todo.drop 1) ∧ (tileOf u t).lo = x.lo ∧ (tileOf u t).hi = x.hi ∧
         (tileOf u t).acc = x.acc ∧ (∀ v, v ≠ t → tileOf u v = tileOf s v) ∧ Kept [.tiles, .flags, .works, .sync, .mem, .dict, .traceAt] s u) ∧
     (16 ≤ (x.queue.filter fun e => e.queue == c.imm % 4).length → exec (.stream t) s = .next s)) ∧
   (∀ s t x p c, inService s = true → headCmd s t opSWAP = some (x, p, c) →
     (x.queue.any touchesHalf = false → Runs (.swap t) s fun u =>
       (tileOf u t).workHi = !x.workHi ∧ (tileOf u t).lo = x.lo ∧ (tileOf u t).hi = x.hi ∧ (tileOf u t).acc = x.acc ∧
       (tileOf u t).queue = x.queue ∧ (∃ q, (tileOf u t).part = some q ∧ q.todo = p.todo.drop 1)) ∧
     (x.queue.any touchesHalf = true → exec (.swap t) s = .next s)) ∧
   (∀ s t x p c w, inService s = true → headCmd s t opEND = some (x, p, c) → findWork s p.work = some w →
     (x.queue = [] → Runs (.endPart t) s fun u =>
       (tileOf u t).part = none ∧ (∃ v, findWork u p.work = some v ∧ v.parts = w.parts ++ [⟨p.idx, 0, p.flags, x.digest, t⟩] ∧
         v.nonStrict = (w.nonStrict || p.nonStrict)) ∧ (∀ v, v ≠ t → tileOf u v = tileOf s v) ∧
       (traced s p.work = none → u.mem = s.mem ∧ u.dict = s.dict ∧ u.traceAt = s.traceAt) ∧
       (∀ j, traced s p.work = some j → u.traceAt = s.traceAt + 1) ∧
       Kept [.tiles, .works, .images, .sync, .dict, .mem, .traceAt] s u) ∧
     (x.queue ≠ [] → exec (.endPart t) s = .next s))) ∧
  ((∀ s t x p c w r, inService s = true → strictOn s = false → headCmd s t opSCADDR = some (x, p, c) → c.m ≠ 0 → findWork s p.work = some w →
     traced s p.work = none →
     let v := tileEnv s w t
     let d := parseDesc (readSpace v x (locSpace c.locOut) (locOff c.locOut) 64)
     let idx := indicesOf v x c
     let bs := extCodes v x (mkExt c.locB 1 c.m 0 (fmtBytes c.fmtB))
     scaddrDescOk c d = true → regionOf w d.dstRegion = some r → (∀ i, i ∈ idx → i < d.counts.headD 0) →
     footInside w 0 d.dstRegion (footprint d.dstOff d.elemSize (d.counts.take 1) [d.dstr.headD 0]) = true → r.rw = true →
     Runs (.scaddr t) s fun u =>
       u.mem = (scaddrAdds c d r.base s.mem (idx.zip bs)).1 ∧ (∃ q, (tileOf u t).part = some q ∧ q.nonStrict = true ∧ q.todo = p.todo.drop 1) ∧
       (∀ a, (∀ i, i ∈ idx → a < r.base + ((d.dstOff : Int) + (i : Int) * d.dstr.headD 0).toNat ∨
         r.base + ((d.dstOff : Int) + (i : Int) * d.dstr.headD 0).toNat + fmtBytes c.fmtA ≤ a) → u.mem.get a = s.mem.get a)) ∧
   (∀ s t x p c w, inService s = true → strictOn s = true → headCmd s t opSCADDR = some (x, p, c) → findWork s p.work = some w →
     Runs (.scaddr t) s fun u => (tileOf u t).part = none ∧
       (∃ v, findWork u p.work = some v ∧ v.parts = w.parts ++ [⟨p.idx, stStrictForbids, p.flags, 0, t⟩]) ∧ u.mem = s.mem)) ∧
  ((∀ v c x, (workHalf x).wf = true → ∃ o, runMove v c x = .ok o ∧ o.flags = 0 ∧ o.elems = [] ∧
     (workHalf o.tile).read (locOff c.locOut) c.k = readSpace v x (locSpace c.locA) (locOff c.locA) c.k ∧
     BytesBut (locOff c.locOut) c.k (workHalf x) (workHalf o.tile) ∧ o.tile.acc = x.acc ∧ o.tile.digest = x.digest ∧
     o.tile.workHi = x.workHi ∧ (if x.workHi then o.tile.lo = x.lo else o.tile.hi = x.hi)) ∧
   (∀ c x, (workHalf x).wf = true → ∃ o, runDgstore c x = .ok o ∧ o.flags = 0 ∧
     (workHalf o.tile).read (locOff c.locOut) 8 = leBytes 8 x.digest ∧ BytesBut (locOff c.locOut) 8 (workHalf x) (workHalf o.tile) ∧
     o.tile.digest = (if c.imm.testBit 0 then 0 else x.digest) ∧ o.tile.acc = x.acc))

/-- R88, R90, R121 to R123: MMA and CONV without continued targets and without anchors leave, for every output element, the exact sum of its
products: kept as an accumulator entry with KP, or rounded once to the output format. No entry outside the block changes. -/
def Obligations.MatrixSums : Prop :=
  ∀ v op c x, (op = opMMA ∨ op = opCONV) → anchoredCmd op c = false → ctlCT c = false → ctlAA c = false → c.fmtOut < 4 →
    (∀ i j, i < c.m → j < c.n → (arrayTerms v x op c i j).length ≤ 2 ^ 30) → ∃ o, runMatrix v op c x = .ok o ∧
      (ctlKP c = true → o.tile = { x with acc := o.tile.acc } ∧ ∀ i j, i < c.m → j < c.n →
        nget o.tile.acc (accBase c + (i * c.n + j)) =
          some (.exact (exactSum (arrayTerms v x op c i j)) (termTag (arrayTerms v x op c i j)) (arrayTerms v x op c i j).length)) ∧
      (ctlKP c = false → ∀ i j, i < c.m → j < c.n →
        nget o.tile.acc (accBase c + (i * c.n + j)) = none ∧
        (c.fmtOut, elemIndex c i j, normalise c.fmtOut (roundAcc c.fmtOut c.rnd (drawOf v c i j) 1
          (.exact (exactSum (arrayTerms v x op c i j)) (termTag (arrayTerms v x op c i j)) (arrayTerms v x op c i j).length)).1) ∈ o.elems) ∧
      (∀ k, (k < accBase c ∨ accBase c + c.m * c.n ≤ k) → nget o.tile.acc k = nget x.acc k)

/-- R98, R99: the record of an accumulator entry reads back as that entry, in both forms. R88, R90, R92, R93: exact and anchored sums do not depend
on the order of their products. R100, R102: combining records is commutative, and associative for exact records and for windows with one anchor: the
result of a reduction over several records does not depend on how they are grouped. -/
def Obligations.Records : Prop :=
  ((∀ z tag count, -2 ^ 127 ≤ z → z < 2 ^ 127 → tag < 8 → count ≤ 2 ^ 30 →
     parseRecord false (recordBytes false (some (.exact z tag count))) = .ok (.exact z tag count) ∧
     (recordBytes false (some (.exact z tag count))).length = 32) ∧
   (∀ z tag count tr an, -2 ^ 255 ≤ z → z < 2 ^ 255 → tag < 8 → count ≤ 2 ^ 30 → (∀ e, an = some e → -2 ^ 15 < e ∧ e < 2 ^ 15) →
     parseRecord true (recordBytes true (some (.anch z tag count tr an))) = .ok (.anch z tag count tr an) ∧
     (recordBytes true (some (.anch z tag count tr an))).length = 48)) ∧
  ((∀ a b : List Term, a.Perm b → exactSum a = exactSum b ∧ termTag a = termTag b ∧ anchorOf a = anchorOf b) ∧
   (∀ (a b : List Term) (e : Int), a.Perm b → windowSum e a = windowSum e b)) ∧
  ((∀ strict x y, combineAcc strict x y = combineAcc strict y x) ∧
   (∀ strict x y z, ((∃ a b c d e f g h i, x = .exact a b c ∧ y = .exact d e f ∧ z = .exact g h i) ∨
       (∃ an a b c d e f g h i k l m, x = .anch a b c d an ∧ y = .anch e f g h an ∧ z = .anch i k l m an)) →
     ((combineAcc strict x y).bind fun r => combineAcc strict r z) = ((combineAcc strict y z).bind fun r => combineAcc strict x r)))

/-- R115, R116, R119: a command's output codes stand in the working half row by row, each at the place its stride gives it; no byte outside the
rows' extent changes; with CH they are handed over. R63, R64, R72, R78: a finite number that one of the four formats holds rounds to its own code in
that format, in every mode and whatever the draw, and raises no flag; an exact zero gives code 0 and no flag. -/
def Obligations.Formats : Prop :=
  (∀ op c x codes, (workHalf x).wf = true → c.locOut ≠ locNone → ((outShape op c).1 ≤ 1 ∨ c.strOut = 0 ∨ (outShape op c).2 ≤ c.strOut) →
     let e := mkExt c.locOut (outShape op c).1 (outShape op c).2 c.strOut (kindBytes (outKind op c))
     (∀ i j, i < (outShape op c).1 → j < (outShape op c).2 →
       (workHalf (putOutput op c x codes)).num (locOff c.locOut + (i * e.pitch + j) * e.size) e.size
         = at2 codes (outShape op c).2 i j % 256 ^ e.size) ∧
     BytesBut (locOff c.locOut) (((outShape op c).1 * e.pitch) * e.size) (workHalf x) (workHalf (putOutput op c x codes)) ∧
     (putOutput op c x codes).acc = x.acc ∧ (putOutput op c x codes).digest = x.digest ∧
     (ctlCH c = true → (putOutput op c x codes).hand = some ⟨(outShape op c).1, (outShape op c).2, outKind op c, codes⟩) ∧
     (ctlCH c = false → (putOutput op c x codes).hand = x.hand)) ∧
  ((∀ f mode draw c neg m e, f < 4 → draw < 2 ^ 16 → c < 2 ^ (fmtSignBit f + 1) → decodeF f c = .fin neg m e →
     roundMag f mode draw neg m 1 e = (c, 0)) ∧
   (∀ f mode draw d e, roundExact f mode draw 0 d e = (0, 0)))

/-! ### Parts, descriptors, sync windows, faults and the weight cache (R111, R135, R141 to R145, R153 to R168) -/

/-- R111, R112, R135, R145: a part that may start now stands at its first record on its tile, with both halves zero, the accumulators empty, no
hand-over and digest 0, or as the image of an earlier stop has it, a tile first serving the carried work before it (R54); a stopped class 3 part
leaves its tile as an image and the tile idle; a wait that has stood for 64 ticks ends its part with ST_SYNC_TIMEOUT. R18, R153, R154, R156, R157,
R164: a queue starts its next descriptor when its hold mark is satisfied, nothing earlier conflicts with it and its footprints lie in its regions.
One that nothing issued before it holds up, between the same units over bridges or on its stack's four engines, completes and leaves its queue;
moving to device memory it writes its elements there and no other byte, moving into the tile it leaves device memory alone. -/
def Obligations.TilePartsAndStreams : Prop :=
  ((∀ s t id idx w p c plan, inService s = true → findWork s id = some w → pkgOf s w.slot = some p → classOf p w.cls = some c →
     c.parts.find? (fun q => q.idx == idx) = some plan → tileUsable s t = true → (tileOf s t).part = none → (tileOf s t).checking = false →
     (tileOf s t).queue = [] → w.stopped = false → w.result = none → (∀ r, r ∈ w.parts → r.idx ≠ idx) → partRunning s id idx = false →
     (p.nSync = 0 ∨ (syncBase s id).isSome = true) → dispatchHeld s w = false → placeOk s w p plan t = true →
     tileOwed s w t = false → s.images.find? (fun i => i.work == id && i.idx == idx) = none → dispatchRefused s p plan = none →
     Runs (.tilePartDispatch t id idx) s fun u =>
       (∃ q, (tileOf u t).part = some q ∧ q.work = id ∧ q.idx = idx ∧ q.cmds = plan.cmds ∧ q.todo = plan.cmds ∧ q.prio = w.prio ∧ q.flags = 0) ∧
       (tileOf u t).lo = [] ∧ (tileOf u t).hi = [] ∧ (tileOf u t).acc = [] ∧ (tileOf u t).hand = none ∧ (tileOf u t).digest = 0 ∧
       (tileOf u t).workHi = false ∧
       (∀ v, v ≠ t → tileOf u v = tileOf s v) ∧ Kept [.tiles, .works] s u) ∧
   (∀ s t id idx w p c plan im, inService s = true → findWork s id = some w → pkgOf s w.slot = some p → classOf p w.cls = some c →
     c.parts.find? (fun q => q.idx == idx) = some plan → tileUsable s t = true → (tileOf s t).part = none → (tileOf s t).checking = false →
     (tileOf s t).queue = [] → w.stopped = false → w.result = none → (∀ r, r ∈ w.parts → r.idx ≠ idx) → partRunning s id idx = false →
     (p.nSync = 0 ∨ (syncBase s id).isSome = true) → dispatchHeld s w = false → placeOk s w p plan t = true →
     tileOwed s w t = false → s.images.find? (fun i => i.work == id && i.idx == idx) = some im → Runs (.tilePartDispatch t id idx) s fun u =>
       (tileOf u t).lo = im.tile.lo ∧ (tileOf u t).hi = im.tile.hi ∧ (tileOf u t).acc = im.tile.acc ∧ (tileOf u t).workHi = im.tile.workHi ∧
       (tileOf u t).digest = im.tile.digest ∧ (tileOf u t).queue = im.tile.queue.map (fun q => { q with since := counterOf s }) ∧
       (∀ q, im.tile.part = some q → ∃ r, (tileOf u t).part = some r ∧ r.todo = q.todo ∧ r.flags = q.flags ∧ r.work = q.work ∧ r.idx = q.idx) ∧
       (∀ v, v ≠ t → tileOf u v = tileOf s v) ∧ Kept [.tiles, .works] s u) ∧
   (∀ s t id idx w, inService s = true → findWork s id = some w → (tileUsable s t = false ∨ tileOwed s w t = true) →
     exec (.tilePartDispatch t id idx) s = .next s) ∧
   (∀ s t p w, inService s = true → (tileOf s t).part = some p → findWork s p.work = some w → w.stopped = true → p.prio = 3 →
     (∀ e, p.todo.head? = some e → ctlTK e.2 = false) → (tileOf s t).checking = false → (∀ d, d ∈ (tileOf s t).queue → d.started = false) →
     Runs (.class3Stop t) s fun u =>
       (tileOf u t).part = none ∧ (tileOf u t).queue = [] ∧ ⟨p.work, p.idx, tileOf s t, dieOfTile t⟩ ∈ u.images ∧
       (∀ v, v ≠ t → tileOf u v = tileOf s v) ∧ Kept [.tiles, .images] s u) ∧
   (∀ s t p w, inService s = true → (tileOf s t).part = some p → findWork s p.work = some w → waitExpired s (tileOf s t) p = true →
     Runs (.syncTimeout t) s fun u =>
       (tileOf u t).part = none ∧ (∃ v, findWork u p.work = some v ∧ v.parts = w.parts ++ [⟨p.idx, 0x0210, p.flags, 0, t⟩]) ∧
       Kept [.tiles, .works, .images] s u)) ∧
  ((∀ s t q d w, inService s = true → nextDesc (tileOf s t) q = some d → (tileOf s t).part ≠ none → holdDone s d = true →
     (∀ e, e ∈ (tileOf s t).queue → e.order < d.order → descConflict e d = false) → findWork s d.work = some w →
     descRefused w d.desc = none → Runs (.descriptorStart t q) s fun u =>
       (∃ e, e ∈ (tileOf u t).queue ∧ e.order = d.order ∧ e.started = true ∧ e.desc = d.desc ∧ e.work = d.work ∧
         e.engine = engineStack s e) ∧
       (tileOf u t).queue.map (·.order) = (tileOf s t).queue.map (·.order) ∧
       (∀ e, e ∈ (tileOf s t).queue → e.order ≠ d.order → e ∈ (tileOf u t).queue) ∧ (tileOf u t).part = (tileOf s t).part ∧
       (∀ v, v ≠ t → tileOf u v = tileOf s v) ∧ Kept [.tiles, .free] s u) ∧
   (∀ s t order, inService s = true → ((tileOf s t).queue.find? fun d => d.order == order && d.started && !aheadOf s t d) = none →
     exec (.descriptorComplete t order) s = .next s) ∧
   (∀ s t order d, inService s = true → ((tileOf s t).queue.find? fun d => d.order == order && d.started && !aheadOf s t d) = some d →
     Runs (.descriptorComplete t order) s fun u =>
       (tileOf u t).queue = (tileOf s t).queue.filter (fun e => e.order != order) ∧ (tileOf u t).part = (tileOf s t).part ∧
       (d.desc.dstKind ≠ 0 ∨ descEmpty d.desc = true → u.mem = s.mem) ∧
       (d.desc.dstKind = 0 → (tileOf u t).lo = (tileOf s t).lo ∧ (tileOf u t).hi = (tileOf s t).hi) ∧
       (d.desc.dstKind = 0 → ∀ a, (∀ o, o ∈ elemOffsets d.desc.dstOff d.desc.counts d.desc.dstr →
         a < d.dstBase + o ∨ d.dstBase + o + d.desc.elemSize ≤ a) → u.mem.get a = s.mem.get a) ∧
       (descSG d.desc = false → u.sync = s.sync) ∧ (∀ v, v ≠ t → tileOf u v = tileOf s v) ∧ Kept [.tiles, .works, .sync, .mem] s u))

/-- R167, R168: a work without a window of sync objects gets one of its package's size, of objects that no other window holds, their counters 0
(what a frame's searched vectors tell comes after, R307); once its program has ended and nothing moves for it the window goes, and no other. R142,
R163: a line of the weight cache with a parity error is filled again from the device memory it came from, and logged; core 0 fills a package's
window with the package's image. Neither changes device memory. -/
def Obligations.WindowsAndCache : Prop :=
  ((∀ s id w p b, controlled s = true → findWork s id = some w → pkgOf s w.slot = some p → p.nSync ≠ 0 → syncBase s id = none →
     w.result = none → placeSync s p.nSync = some b → Runs (.syncWindowAllocate id) s fun u =>
       u.syncWins = s.syncWins ++ [⟨id, b, p.nSync⟩] ∧ b + p.nSync ≤ 65536 ∧
       (∀ x, x ∈ s.syncWins → overlaps x.base x.n b p.nSync = false) ∧
       ((w.searched = true ∨ ∃ r p i, id = .job r p i) → (∀ o, b ≤ o → o < b + p.nSync → syncValue u o = 0) ∧
         (∀ o, (o < b ∨ b + p.nSync ≤ o) → syncValue u o = syncValue s o) ∧ Kept [.sync, .syncWins] s u) ∧
       Kept [.sync, .syncWins, .works, .mem] s u) ∧
   (∀ s id, controlled s = true → (∀ w, findWork s id = some w → workEnded s w = true ∧ workQuiet s id = true) →
     exec (.syncWindowRelease id) s = .next { s with syncWins := s.syncWins.filter fun x => !(x.work == id) }) ∧
   (∀ s id w, controlled s = true → findWork s id = some w → (workEnded s w && workQuiet s id) = false →
     exec (.syncWindowRelease id) s = .next s)) ∧
  ((∀ s die line a, inService s = true → lineSource s die line = some a → (ngetD s.cache die []).wf = true →
     Runs (.weightCacheParity die line) s fun u =>
       (ngetD u.cache die []).read (256 * line) 256 = s.mem.read a 256 ∧
       BytesBut (256 * line) 256 (ngetD s.cache die []) (ngetD u.cache die []) ∧ (∃ e, e ∈ u.ctl.log ∧ e.code = 0x0022 ∧ e.detail = a) ∧
       (∀ d, d ≠ die → ngetD u.cache d [] = ngetD s.cache d []) ∧ Kept [.cache, .dict, .ctl] s u) ∧
   (∀ s die slot w a n, inService s = true → windowOf s die slot = some w → (pkgOf s slot).bind (·.image) = some (a, n) → w.filled = false →
     (ngetD s.cache die []).wf = true → Runs (.weightWindowFill die slot) s fun u =>
       (ngetD u.cache die []).read w.base n = s.mem.read a n ∧ (windowOf u die slot).map (·.filled) = some true ∧
       BytesBut w.base n (ngetD s.cache die []) (ngetD u.cache die []) ∧ Kept [.cache, .windows] s u))

/-- R141, R143, R144: a tile fault is logged, discards the part, and sets the tile checking itself; a second one within 64 ticks, or a failed self-
check, retires the tile, or leaves that to the cluster that takes over while none is in control (R30); a passed self-check lets it work again. A
part that makes no progress and does not wait faults its tile. -/
def Obligations.TileFaults : Prop :=
  (∀ s t, inService s = true → tileUsable s t = true → (tileOf s t).checking = false → (tileOf s t).faultAt = none →
    Runs (.tileFault t) s fun u =>
      (tileOf u t).part = none ∧ (tileOf u t).checking = true ∧ (tileOf u t).faultAt = some (counterOf s) ∧
      (∀ d, d ∈ (tileOf u t).queue → d.started = true) ∧ (∃ e, e ∈ u.ctl.log ∧ e.code = 0x0020 ∧ e.unit = t) ∧ 49 ∈ u.ctl.msix ∧
      (∀ v, v ≠ t → tileOf u v = tileOf s v) ∧ (∀ p, (tileOf s t).part = some p → ∀ w, findWork s p.work = some w →
        ∃ v, findWork u p.work = some v ∧ (p.idx, t) ∈ v.tiles) ∧ Kept [.tiles, .works, .dict, .ctl] s u) ∧
  (∀ s t n, controlled s = true → tileUsable s t = true → (tileOf s t).checking = false → (tileOf s t).faultAt = some n →
    counterOf s ≤ n + 64 → (getBlob s 0x1000 0x0D).length = 48 → Runs (.tileFault t) s fun u =>
      tileRetired u t = true ∧ (tileOf u t).part = none ∧ (∃ e, e ∈ u.ctl.log ∧ e.code = 0x0021 ∧ e.unit = t) ∧
      Kept [.tiles, .works, .dict, .ctl, .libero] s u) ∧
  (∀ s t p, inService s = true → (tileOf s t).part = some p → partWaits s (tileOf s t) p = false → (tileOf s t).checking = false →
    exec (.tileWatchdog t) s = exec (.tileFault t) s) ∧
  (∀ s t n, inService s = true → s.ctl.inCharge = none → tileUsable s t = true → (tileOf s t).checking = false →
    (tileOf s t).faultAt = some n → counterOf s ≤ n + 64 → Runs (.tileFault t) s fun u =>
      (1, t) ∈ u.ctl.retireDue ∧ (tileOf u t).checking = true ∧ (tileOf u t).part = none ∧ Kept [.tiles, .works, .dict, .ctl] s u) ∧
  (∀ s t, inService s = true → (tileOf s t).checking = true → retirePending s 1 t = false →
    exec (.tileSelfCheck t true) s = .next (putTile s t { tileOf s t with checking := false })) ∧
  (∀ s t, controlled s = true → t < 384 → (tileOf s t).checking = true → retirePending s 1 t = false → (getBlob s 0x1000 0x0D).length = 48 → tileRetired s t = false →
    Runs (.tileSelfCheck t false) s fun u => tileRetired u t = true ∧ (tileOf u t).checking = false ∧
      (∀ v, v < 384 → v ≠ t → tileRetired u v = tileRetired s v) ∧ Kept [.tiles, .works, .dict, .ctl, .libero] s u)

/-! ### The entropy coder (R198 to R218, R227) -/

/-- R206, R207: whatever rows and residuals are encoded, decoding the words that the encoder leaves, in the same rows and from the same states,
gives the same residuals and the same count of escapes back, none of them needless, and ends with every state at 2^16 and no word left. -/
def Obligations.EntropyRoundTrip : Prop :=
  ∀ es : List (List Nat × Int), (∀ e, e ∈ es → rowValid e.1 = true ∧ zigzag e.2 < 2 ^ 20) →
    decodeElems (es.map (·.1)) 0 (encodeElems es).1 =
      { qs := es.map (·.2), esc := (encodeElems es).2, bad := false, finish := some ⟨[65536, 65536, 65536, 65536], []⟩ }

/-- R207, R211 to R215, R218, R239: the segment that a lane takes next runs on it: one that ends with EC_OK commits its result record, an encode
its payload, and its q values where it has a place for them; nothing else in device memory changes (a decoded motion segment of a picture also
gives its vectors, R281). A segment that fails commits only its result record, whose status is the code; a decode that conceals also commits q
values of zero. A segment that is not the lane's next does nothing. -/
def Obligations.Segments : Prop :=
  (∀ (s : State) (lane : Nat) (id : WorkId) (i : Nat) (w : Work) (p : Pkg) (g : SegRec) (enc : Bool),
    inService s = true → s.mem.wf = true → segReady s lane id i (if enc then 1 else 2) = some (w, p, g) → (enc = true ∨ p.kind ≠ 2) →
    let u := putWork s { w with started := true }
    let o := if enc then encodeSegment u w g (findSet (bankOf u w) p.tableId (packageVersion p)) (packageVersion p)
      else decodeSegment u w g (bankOf u w) p.tableId
    let base := segAddr s w g.locRes true
    (o.status = ecOk → Runs (if enc then .segmentEncode lane id i else .segmentDecode lane id i) s fun t =>
      t.mem.read base 16 = resultRecord g.count ecOk (versionField o) o.escapes o.length ∧
      (∀ a, (a < base ∨ base + 16 ≤ a) →
        (g.locQ = segLocNone ∨ a < segAddr s w g.locQ true ∨ segAddr s w g.locQ true + 4 * g.count ≤ a) →
        (enc = false ∨ a < segAddr s w g.locPay true ∨ segAddr s w g.locPay true + g.payCap ≤ a) → t.mem.get a = s.mem.get a) ∧
      (enc = true → (base + 16 ≤ segAddr s w g.locPay true ∨ segAddr s w g.locPay true + g.payCap ≤ base) →
        t.mem.read (segAddr s w g.locPay true) g.payCap = padTo g.payCap o.payload) ∧
      (∃ v, findWork t id = some v ∧
        v.segs = w.segs ++ [⟨i, ecOk, segCard enc (segBand p.kind i) o.payload (o.qs.map qCode), o.length, false, lane⟩]) ∧
      (laneOf t lane).pins = o.pins.map (fun r => w.bank * 8192 + setBase s w p o + r) ∧
      (laneOf t lane).last = some (w.slot, g.pins) ∧ (∀ l, l ≠ lane → laneOf t l = laneOf s l) ∧
      Kept [.mem, .works, .sync, .lanes, .dict] s t ∧ RegsBut [(0x5200, 0x10)] s t) ∧
    (o.status ≠ ecOk → o.status < 65536 → Runs (if enc then .segmentEncode lane id i else .segmentDecode lane id i) s fun t =>
      t.mem.num (base + 4) 2 = o.status ∧
      (∃ v r, findWork t id = some v ∧ v.segs = w.segs ++ [r] ∧ r.idx = i ∧ r.status = o.status ∧ r.lane = lane ∧
        r.conceal = (g.opcode == 2 && g.ctl.testBit 5)) ∧
      (∀ a, (a < base ∨ base + 16 ≤ a) → ((g.opcode == 2 && g.ctl.testBit 5) = false ∨ g.locQ = segLocNone ∨
        a < segAddr s w g.locQ true ∨ segAddr s w g.locQ true + 4 * g.count ≤ a) → t.mem.get a = s.mem.get a) ∧
      (∀ l, l ≠ lane → laneOf t l = laneOf s l) ∧ Kept [.mem, .works, .sync, .lanes, .dict, .ctl] s t)) ∧
  (∀ s lane id i w p g, inService s = true → segReady s lane id i 2 = some (w, p, g) → Runs (.segmentDecode lane id i) s fun t =>
    (∃ v r, findWork t id = some v ∧ v.segs = w.segs ++ [r] ∧ r.idx = i ∧ r.lane = lane) ∧
    (∀ l, l ≠ lane → laneOf t l = laneOf s l) ∧ Kept [.mem, .works, .sync, .lanes, .dict, .ctl, .ctxs] s t) ∧
  (∀ s lane id i, inService s = true →
    (segReady s lane id i 1 = none → exec (.segmentEncode lane id i) s = .next s) ∧
    (segReady s lane id i 2 = none → takeVectors s id i = s → exec (.segmentDecode lane id i) s = .next s))

/-- R30, R227: a lane fault, or 65,536 cycles without progress on a lane that has a segment to run, sends the lane to check itself, its segment to
the lowest-numbered other active lane of the die, or retires it when its last fault lies within 64 ticks; a lane that passes its check serves again
with its pocket as it was, and one that fails it is retired. While no cluster is in control the retirement waits. R30, R322, R332: a fault of a
codec core, a scaler or an engine, or 65,536 cycles without progress of one that has work, sends the unit to check itself, or retires it when its
last fault lies within 64 ticks; a unit that passes serves again, one that fails is retired. A unit that is retired or checks itself already does
not fault. While no cluster is in control the retirement waits. -/
def Obligations.LaneAndUnitFaults : Prop :=
  (∀ (s : State) (lane : Nat), inService s = true → lane < 128 →
     (∀ c, (c = .laneFault lane ∨ (c = .laneWatchdog lane ∧ (laneNext s lane).isSome = true)) →
       (laneLive s lane = false → exec c s = .next s) ∧
       (laneLive s lane = true → (∀ n, (laneOf s lane).faultAt = some n → n + 64 < counterOf s) → Runs c s fun t =>
         laneOf t lane = { laneOf s lane with faultAt := some (counterOf s), checking := true } ∧ laneRetired t lane = false ∧
         (∀ w i p g l, laneNext s lane = some (w, i, p, g) →
           ((List.range 16).map (16 * (lane / 16) + ·)).find? (fun l => l != lane && laneActive s l) = some l →
           ∃ v, findWork t w.id = some v ∧ (i, l) ∈ v.segLanes) ∧
         (∀ l, l ≠ lane → laneOf t l = laneOf s l) ∧ RegsBut [(0xE000, 0x01), (0xE000, 0x05)] s t ∧
         Kept [.lanes, .dict, .ctl, .works] s t) ∧
       (∀ n, laneLive s lane = true → (laneOf s lane).faultAt = some n → counterOf s ≤ n + 64 → Runs c s fun t =>
         (s.ctl.inCharge ≠ none → laneRetired t lane = true) ∧ (s.ctl.inCharge = none → (2, lane) ∈ t.ctl.retireDue) ∧
         (∀ l, l < 128 → l ≠ lane → laneRetired t l = laneRetired s l ∧ laneOf t l = laneOf s l) ∧
         Kept [.lanes, .dict, .ctl, .works] s t)) ∧
     (laneNext s lane = none → exec (.laneWatchdog lane) s = .next s) ∧
     ((laneOf s lane).checking = true → exec (.laneSelfCheck lane true) s = .next (putLane s lane { laneOf s lane with checking := false })) ∧
     ((laneOf s lane).checking = true → s.ctl.inCharge ≠ none → Runs (.laneSelfCheck lane false) s fun t =>
       laneRetired t lane = true ∧ (∀ l, l < 128 → l ≠ lane → laneRetired t l = laneRetired s l ∧ laneOf t l = laneOf s l) ∧
       Kept [.lanes, .dict, .ctl] s t)) ∧
  (∀ (s : State) (kind u : Nat), inService s = true → u < 2 * unitsPerDie kind →
     (∀ c, c ∈ [(Instr.codecCoreFault .encode u, 0), (.codecCoreFault .decode u, 1), (.codecCoreFault .scaler u, 2), (.engineFault u, 3)] ∨
         (unitBusy s kind u = true ∧ c ∈ [(Instr.codecCoreWatchdog .encode u, 0), (.codecCoreWatchdog .decode u, 1),
           (.codecCoreWatchdog .scaler u, 2), (.engineWatchdog u, 3)]) → c.2 = kind →
       (unitLive s kind u = false → exec c.1 s = .next s) ∧
       (unitLive s kind u = true → (∀ n, (coreOf s kind u).faultAt = some n → n + 64 < counterOf s) → Runs c.1 s fun t =>
         coreOf t kind u = { faultAt := some (counterOf s), checking := true } ∧ retiredBits t kind = retiredBits s kind ∧
         (∀ v, v ≠ coreKey kind u → nget t.cores v = nget s.cores v) ∧ RegsBut [(0xE000, 0x01), (0xE000, 0x05)] s t ∧
         Kept [.cores, .dict, .ctl, .works] s t) ∧
       (∀ n, unitLive s kind u = true → (coreOf s kind u).faultAt = some n → counterOf s ≤ n + 64 → Runs c.1 s fun t =>
         (s.ctl.inCharge ≠ none → ∀ i, (retiredBits t kind).testBit i = (decide (i = u) || (retiredBits s kind).testBit i)) ∧
         (s.ctl.inCharge = none → (7 + kind, u) ∈ t.ctl.retireDue) ∧ unitLive t kind u = false ∧
         Kept [.cores, .dict, .ctl, .ctxs, .works] s t)) ∧
     (∀ c, c ∈ [(Instr.codecCoreWatchdog .encode u, 0), (.codecCoreWatchdog .decode u, 1), (.codecCoreWatchdog .scaler u, 2),
         (.engineWatchdog u, 3)] → c.2 = kind → unitBusy s kind u = false → exec c.1 s = .next s) ∧
     (∀ c, c ∈ [(Instr.codecCoreSelfCheck .encode u true, 0), (.codecCoreSelfCheck .decode u true, 1), (.codecCoreSelfCheck .scaler u true, 2),
         (.engineSelfCheck u true, 3)] → c.2 = kind → (coreOf s kind u).checking = true → retirePending s (7 + kind) u = false →
       exec c.1 s = .next (putCore s kind u { coreOf s kind u with checking := false })) ∧
     (∀ c, c ∈ [(Instr.codecCoreSelfCheck .encode u false, 0), (.codecCoreSelfCheck .decode u false, 1), (.codecCoreSelfCheck .scaler u false, 2),
         (.engineSelfCheck u false, 3)] → c.2 = kind → (coreOf s kind u).checking = true → retirePending s (7 + kind) u = false →
       s.ctl.inCharge ≠ none → Runs c.1 s fun t =>
       (∀ i, (retiredBits t kind).testBit i = (decide (i = u) || (retiredBits s kind).testBit i)) ∧ unitLive t kind u = false ∧
       Kept [.cores, .dict, .ctl, .ctxs, .works] s t))

/-! ### Learned codecs, codec cores, scalers and engines (R273 to R332) -/

/-- R287, R289, R290: an input picture of a context is parsed once, after those before it. One whose units are malformed or out of order commits
with ST_BAD_BITSTREAM; one whose sequence header does not match its package and context, or that comes before any header, with
ST_SEQUENCE_MISMATCH; neither is dispatched. In a joined context, one that decodes has its units listed by ordinal and its start flag set, and
its note names a missing reference; it counts as decoded only when it commits. -/
def Obligations.InputPictures : Prop :=
  ∀ s k j w p, inService s = true → findWork s (.frame k j) = some w → pkgOf s w.slot = some p → unparsed s w = true → w.result = none →
    w.units = [] → w.head = none → (syncBase s (.frame k j)).isSome = true → (∀ o c, o ∈ s.works → o.id = .frame k c → j ≤ c) →
    let bs := workInput s w
    let audio := isAudio p.kind
    let bad (us : List MediaUnit) : Bool := !unitsOrdered us || us.any (fun u => u.type == 5 && decide (bandCount s k ≤ u.band)) ||
      ((unitOf us 1).isSome && ((unitOf us 1).bind (parseSeq bs audio)).isNone)
    let stops (st : Nat) (t : State) : Prop := (∃ v, findWork t (.frame k j) = some v ∧ v.parsed = true ∧ v.result = some st ∧ v.units = []) ∧
      t.sync = s.sync ∧ Kept [.works, .mem, .dict, .ctxs] s t
    (parseUnits bs (bs.length + 1) 0 = none → Runs (.parseInputPicture (.frame k j)) s (stops stBadBitstream)) ∧
    (∀ us, parseUnits bs (bs.length + 1) 0 = some us → bad us = true → Runs (.parseInputPicture (.frame k j)) s (stops stBadBitstream)) ∧
    (∀ us, parseUnits bs (bs.length + 1) 0 = some us → bad us = false →
      (match (unitOf us 1).bind (parseSeq bs audio) with
        | some h => seqMatches s k p h = false
        | none => (ctxOf s k).seqHeader = none) → Runs (.parseInputPicture (.frame k j)) s (stops stSequenceMismatch)) ∧
    (∀ us h, parseUnits bs (bs.length + 1) 0 = some us → bad us = false → (ctxOf s k).joined = true → (ctxOf s k).seqHeader.isSome = true →
      unitOf us 1 = none → (unitOf us 2).bind (parsePic bs audio) = some h → Runs (.parseInputPicture (.frame k j)) s fun t =>
        ∃ v, findWork t (.frame k j) = some v ∧ v.parsed = true ∧ v.startPic = h.start ∧ v.head = some h ∧ v.result = none ∧
          v.units = (us.filter fun u => decide (3 ≤ u.type)).map (fun u =>
            (if u.type = 3 then 0 else if u.type = 4 then 1 else 2 + u.band, u.off, u.len)) ∧
          (v.note = stMissingReference ↔ referenceMissing (ctxOf s k) audio h = true) ∧
          (ctxOf t k).lastPic = (ctxOf s k).lastPic ∧ (ctxOf t k).ltSlots = (ctxOf s k).ltSlots ∧ (ctxOf t k).emitted = (ctxOf s k).emitted + w.inLen ∧ Kept [.works, .mem, .ctxs, .sync] s t)

/-- R280, R291, R292, R295: rate control chooses the quantiser index of a band from the bits of the bands coded before it, within the context's
limits, and delivers its step: the step's code stands at the band's place and its band object is signalled. With pacing, a picture's first band
takes the buffer's fill from the bits that wait in the context's flows, and the picture is not strict (R235). -/
def Obligations.RateControl : Prop :=
  ∀ s k b w j rp a0, inService s = true → pictureInProgress s k = some (w, j) → findWork s w.id = some w → rcParams s k w.slot = some rp →
    isService (binding s k) = false → (ctxKind s k = 1 ∨ ctxKind s k = 3) → b < bandCount s k → (ctxOf s k).rc.q.length = b → w.result = none →
    w.raw = none → (syncBase s w.id).isSome = true → leadBits s k j w = some a0 → qiMin s k ≤ qiMax s k →
    b + 1 - rp.lag ≤ (bandBits s k w (bandCount s k) 0).length → s.mem.wf = true →
    let rc := if b = 0 ∧ ctxReg s k 0x14 ≠ 0 then { (ctxOf s k).rc with full := ((queuedBits s k : Nat) : Int) } else (ctxOf s k).rc
    Runs (.rateControlBand k b) s fun t =>
      ∃ q, (ctxOf t k).rc = { rc with q := (ctxOf s k).rc.q ++ [q] } ∧ qiMin s k ≤ q ∧ q ≤ qiMax s k ∧
        q = rcChoose rc ((ctxReg s k 0x10 : Nat) : Int) (rcTarget rc ((ctxReg s k 0x10 : Nat) : Int) (drain s k j)) (a0 : Nat)
          ((List.range (bandCount s k)).map fun i => rcWeight (rc.prevbits.getD i 0) rp.sw (stripe s k j i))
          (bandBits s k w (bandCount s k) 0) rp.lag b (qiMin s k : Nat) (qiMax s k : Nat) 1 ∧
        (let a := ((regionOf w rp.region).map (·.base)).getD 0 + rp.off + 2 * b
         t.mem.read a 2 = leBytes 2 (stepCode q) ∧ BytesBut a 2 s.mem t.mem) ∧
        (∃ v, findWork t w.id = some v ∧ v.nonStrict = (w.nonStrict || ctxReg s k 0x14 != 0)) ∧
        (∀ c, c ≠ k → ctxOf t c = ctxOf s c) ∧ Kept [.ctxs, .mem, .works, .sync] s t

/-- R325, R328, R329: the last slice of an engine job leaves the compressed input and its result record, or ST_OUTPUT_OVERFLOW where that does
not fit the capacity; a slice before the last only counts. Decompressing leaves what was decoded before any error, its record, and notes
ST_DECOMPRESS_ERROR when there was one. Memory and every other unit stay as they are. -/
def Obligations.Engines : Prop :=
  (∀ s u id w j i, inService s = true → engineReady s u id 1 = some (w, j, i) →
    (i + 1 < engineSlices j → exec (.engineCompress u id) s = .next (putWork s { w with started := true, segs := [⟨0, ecOk, 0, 0, false, 0⟩] })) ∧
    (engineSlices j ≤ i + 1 → (let out := compress j.format j.level j.windowLog (s.mem.read w.inBase w.inLen)
      Runs (.engineCompress u id) s fun t => ∃ v, findWork t id = some v ∧ v.started = true ∧ v.segs = [⟨0, ecOk, 0, 0, false, 0⟩] ∧
        (out.length ≤ j.outCap → v.output = out ++ engineRecord out.length w.inLen 0 ∧ v.valid = out.length ∧ v.result = none) ∧
        (j.outCap < out.length → v.result = some stOutputOverflow ∧ v.output = w.output) ∧
        (∀ d, d ≠ id → findWork t d = findWork s d) ∧ Kept [.works] s t))) ∧
  (∀ s u id w j i, inService s = true → engineReady s u id 2 = some (w, j, i) →
    (i + 1 < engineSlices j → exec (.engineDecompress u id) s = .next (putWork s { w with started := true, segs := [⟨0, ecOk, 0, 0, false, 0⟩] })) ∧
    (engineSlices j ≤ i + 1 → (let z := decompress j.format (s.mem.read w.inBase w.inLen) j.outCap
      Runs (.engineDecompress u id) s fun t => ∃ v, findWork t id = some v ∧ v.segs = [⟨0, ecOk, 0, 0, false, 0⟩] ∧
        v.output = z.out ++ engineRecord z.out.length z.used z.dz ∧ v.valid = z.out.length ∧ v.detail = z.dz ∧
        (v.note = stDecompressError ↔ z.dz ≠ 0) ∧ v.result = none ∧ (∀ d, d ≠ id → findWork t d = findWork s d) ∧ Kept [.works] s t)))

/-- R305 to R309: an estimator that serves a context searches a row once the rows before it are done and its picture and reference are stored: the
picture's entries grow by that row's, in raster order, one for each block of an OLV picture and five for each of a block encode, those of the rows
before it unchanged. The blocks of an OLV refresh stripe, and of the first picture, take the zero vector. -/
def Obligations.MotionSearch : Prop :=
  ∀ s u k j row cur, inService s = true → estimatorOk s u k = true → runningState (ctxState s k) = true → inputOf s k j = some cur →
    let w := (codedSize s k).1
    let h := (codedSize s k).2.1
    let block := binding s k == 0xF001 || binding s k == 0xF002
    let n := ceilDiv w 16 * perBlock (!block)
    row < ceilDiv h 16 → (ngetD (ctxOf s k).vecs j []).length = n * row →
    (j = 0 ∨ j = (ctxOf s k).firstJ ∨ (j ≤ ctxReg s k 0x39 ∧ findWork s (.frame k (j - 1)) = none) ∨
      n * ceilDiv h 16 ≤ (ngetD (ctxOf s k).vecs (j - 1) []).length ∨ (block = true ∧ keyPicture s k (j - 1) = true)) →
    ((block = true ∧ earlierCoded s k j = true ∧ keyPicture s k j = false) ∨
      (block = false ∧ needsMotion s k = true ∧ rowsPresent cur w h (16 * (row + 1)) = true ∧
        (j ≠ 0 → ∃ ref, referenceInput s k j = some ref ∧ rowsPresent ref w h (16 * (row + 1) + 513) = true))) →
    Runs (.motionSearchRow u k j row) s fun t =>
      (∃ more, ngetD (ctxOf t k).vecs j [] = ngetD (ctxOf s k).vecs j [] ++ more ∧ more.length = n ∧
        (block = false → stripe s k j (row / 2) = true → ∀ v, v ∈ more → v = (0, 0))) ∧
      (∀ i, i ≠ j → nget (ctxOf t k).vecs i = nget (ctxOf s k).vecs i) ∧ (∀ c, c ≠ k → ctxOf t c = ctxOf s c) ∧
      (findWork s (.frame k j) = none → Kept [.ctxs, .free] s t) ∧ Kept [.ctxs, .mem, .works, .free, .sync] s t

/-- R298 to R304, R310, R316, R321: a live core runs the first of the tile jobs it could run now, and no other: each tile of a picture is coded
once. A tile of an encode leaves its rows' quantisers, bits and bytes, the last one ends the picture; under latency-aware control the picture is not
strict. A decode decodes its access unit with the last job that the unit's tiles need; one after a bad parameter set or an unsupported tool gives no
picture. R318, R319, R322: a picture that waits for the scaler becomes its scaled picture once the scaler that its context's charge names, or the
one that stands in for it, takes it: the bytes stand in the work's input region, zeros after them, and its length is theirs. R319: scaling with
filter set 0 to the size a plane has leaves it as it is. -/
def Obligations.CodecsAndScalers : Prop :=
  (∀ s core k j tile w, inService s = true → findWork s (.frame k j) = some w → isService w.slot = true →
     let kind := serviceCores w.slot
     let mine := unitLive s kind core = true ∧ (firstJob (readyJobs s kind core)).map (·.2) = some (k, j, tile)
     (¬ mine → exec (.codecTileJob core (.frame k j) tile) s = .next s) ∧
     (mine → kind = ckEncode →
       (let aware := ctxReg s k 0x14 != 0
        let v := if aware && w.buffer.isNone then { w with buffer := some (queuedBits s k : Nat) } else w
        let e := tileEnvOf s k j tile v
        let o := codeRows e e.rows 0 ⟨tile, [], [], [], []⟩
        let v := { v with started := true, nonStrict := w.nonStrict || aware || ctxReg s k 0x23 != 0, tilesOut := insertTile o w.tilesOut
                          segs := w.segs ++ [⟨tile, ecOk, 0, o.bytes.length, false, core⟩] }
        (o.qs.length = e.rows ∧ ∀ q, q ∈ o.qs → qiMin s k ≤ qiMax s k → qiMin s k ≤ q ∧ q ≤ qiMax s k) ∧
        (w.segs.length + 1 ≠ w.aim → exec (.codecTileJob core (.frame k j) tile) s = .next (putWork s v)) ∧
        (w.segs.length + 1 = w.aim → Runs (.codecTileJob core (.frame k j) tile) s fun t =>
         (∃ x, findWork t (.frame k j) = some x ∧ x.segs = v.segs ∧ x.tilesOut = []) ∧ nget (ctxOf t k).vecs j = none ∧
         (∀ c, c ≠ k → ctxOf t c = ctxOf s c) ∧ Kept [.works, .ctxs, .mem] s t))) ∧
     (mine → kind ≠ ckEncode →
       (let f := unitFacts s k j w
        let aim := if w.segs = [] then Nat.min w.aim (Nat.max 1 f.tiles) else w.aim
        let v := { w with aim, started := true, segs := w.segs ++ [⟨tile, ecOk, 0, 0, false, core⟩] }
        (aim ≤ tile → exec (.codecTileJob core (.frame k j) tile) s = .next (putWork s { w with aim })) ∧
        (tile < aim → w.segs.length + 1 < aim → exec (.codecTileJob core (.frame k j) tile) s = .next (putWork s v)) ∧
        (tile < aim → aim ≤ w.segs.length + 1 → Runs (.codecTileJob core (.frame k j) tile) s fun t =>
         (ctxOf t k).emitted = (ctxOf s k).emitted + w.inLen ∧ (ctxOf t k).noParams = (muteAfter (ctxOf s k) f).1 ∧
         (ctxOf t k).mute = (muteAfter (ctxOf s k) f).2 ∧
         (∀ st, (muteAfter (ctxOf s k) f).2 = some st → ∃ x, findWork t (.frame k j) = some x ∧ x.result = some st) ∧
         (∀ c, c ≠ k → ctxOf t c = ctxOf s c) ∧ Kept [.works, .ctxs, .mem] s t)))) ∧
  ((∀ s u k j w bs, inService s = true → findWork s (.frame k j) = some w → w.raw.isSome = true → scalerOk s u k = true →
     rawInput s k j w = some bs → s.mem.wf = true →
     let depth := numAt (scalerBlob s k) 15 1
     let out := scalePicture s k (filterFor s (numAt (scalerBlob s k) 16 1) w.issued) (Config.monoChroma depth % 2 ^ depth) bs
     Runs (.scalerFrame u (.frame k j)) s fun t =>
       (w.searched = true → ∀ r, w.regions.filter (fun r => r.source == 2) = [r] →
         t.mem.read r.base r.len = padTo r.len (out.take r.len) ∧ BytesBut r.base r.len s.mem t.mem) ∧
       (∃ v, findWork t (.frame k j) = some v ∧ v.raw = none ∧ v.inLen = out.length) ∧
       (w.searched = true → Kept [.mem, .works] s t) ∧ Kept [.mem, .works, .sync] s t) ∧
   (∀ s u k j w, inService s = true → findWork s (.frame k j) = some w → (w.raw = none ∨ scalerOk s u k = false) →
     exec (.scalerFrame u (.frame k j)) s = .next s)) ∧
  (∀ (p : Plane) (bd : Nat), 0 < p.w → 0 < p.h → p.px.size = p.w * p.h → bd ≤ 16 → (∀ v, v ∈ p.px.toList → v < 2 ^ bd) →
     scalePlane filterZero p p.w p.h bd bd = p.px.toList)

/-- R320, R395: a filter set of 1 to 7 whose file lies in one allocation and whose coefficients are allowed is loaded, and an idle set is
unloaded, both at the first tick boundary after; otherwise the command's status says why not. -/
def Obligations.FilterSets : Prop :=
  (∀ s, controlled s = true → s.media.filterNext = none →
    (let set := getReg s 0x6100 0x06; let a := getReg s 0x6100 0x07; let cs := filterCoefs (s.mem.read a 1024)
     let st (v : Nat) (t : State) : Prop := t = setReg s 0x6100 0x09 v
     (set = 0 ∨ 7 < set → Runs .filterSetLoad s (st stBadDescriptor) ∧ Runs .filterSetUnload s (st stBadDescriptor)) ∧
     (1 ≤ set → set ≤ 7 → badRange s a 1024 = true → Runs .filterSetLoad s (st stBadAddress)) ∧
     (1 ≤ set → set ≤ 7 → badRange s a 1024 = false → filterOk cs = false → Runs .filterSetLoad s (st stBadTable)) ∧
     (1 ≤ set → set ≤ 7 → badRange s a 1024 = false → filterOk cs = true → exec .filterSetLoad s =
        .next (setReg { s with media := { s.media with filterNext := some (set, some cs), filterAsked := counterOf s } } 0x6100 0x09 stPending)) ∧
     (1 ≤ set → set ≤ 7 → filterUsed s set = true → Runs .filterSetUnload s (st stSlotInUse)) ∧
     (1 ≤ set → set ≤ 7 → filterUsed s set = false → nget s.media.filters set = none → Runs .filterSetUnload s (st stEmptySlot)) ∧
     (1 ≤ set → set ≤ 7 → filterUsed s set = false → (nget s.media.filters set).isSome = true → exec .filterSetUnload s =
        .next (setReg { s with media := { s.media with filterNext := some (set, none), filterAsked := counterOf s } } 0x6100 0x09 stPending)))) ∧
  (∀ s set (new : Option (List Int)), controlled s = true → set < 8 → s.media.filterNext = some (set, new) →
    s.clk.now % period s = 0 → s.media.filterAsked < counterOf s → Runs (.filterSetSwitch set) s fun t =>
    nget t.media.filters set = new ∧ (∀ x, x ≠ set → nget t.media.filters x = nget s.media.filters x) ∧
    (getReg t 0x6100 0x05).testBit set = new.isSome ∧ (∀ x, x ≠ set → (getReg t 0x6100 0x05).testBit x = (getReg s 0x6100 0x05).testBit x) ∧
    getReg t 0x6100 0x09 = stOk ∧ t.media.filterNext = none ∧ RegsBut [(0x6100, 0x05), (0x6100, 0x09)] s t ∧ Kept [.media, .dict] s t) ∧
  (∀ s set, controlled s = true → (s.media.filterNext = none ∨ s.clk.now % period s ≠ 0 ∨ counterOf s ≤ s.media.filterAsked) →
    exec (.filterSetSwitch set) s = .next s)

/-! ### Power, resets, the start sequence, park, identity (R29, R462 to R488, R493 to R496, R502) -/

/-- R462, R477, R494: when all supplies go, what is not of class f reads as at first power-on, class f stays, and device memory, the scorebook, the
contexts and every unit are empty; the host's own memory is not the part's. Supplies applied again put the part into reset, unless a thermal trip
still holds because VSTBY was not removed. R496: when STBY_OK falls the part halts and the next start is a power-on; when MAIN_OK falls while PERST#
is deasserted service fails. -/
def Obligations.Supplies : Prop :=
  ((∀ s, s.ctl.phase ≠ .off → Runs .powerLoss s fun t =>
     t.ctl.phase = .off ∧ t.ctl.lossOfW = true ∧ t.ctl.inCharge = none ∧ t.mem = State.reset.mem ∧ t.allocs = [] ∧ t.jobs = [] ∧ t.frames = [] ∧
     t.works = [] ∧ t.ctxs = [] ∧ t.flows = [] ∧ t.pkgs = [] ∧ t.tiles = [] ∧ t.flags = [] ∧ t.lanes = [] ∧ t.cache = [] ∧
     t.ctl.manifest = s.ctl.manifest ∧ t.ctl.journal = s.ctl.journal ∧ t.ctl.linksOut = s.ctl.linksOut ∧ t.ctl.excluded = s.ctl.excluded ∧
     t.protect.spared = s.protect.spared ∧ t.protect.migrating = s.protect.migrating ∧
     (∀ i j o, j < 256 → findObj i j = some o → getReg t i j = if o.pers = .f then getReg s i j else defaultOf i j) ∧
     (∀ i j o, j < 256 → findObj i j = some o → getBlob t i j = if o.pers = .f then getBlob s i j else defaultBlob i j) ∧
     Same [.pending, .host, .libero, .out, .free] s t) ∧
   (∀ s, s.ctl.phase = .off → exec .powerLoss s = .next s) ∧
   (∀ s, s.ctl.phase = .off →
     (s.ctl.tripped.isSome = true → exec (.powerOn true) s = .next { s with ctl := { s.ctl with phase := .halted } }) ∧
     (s.ctl.tripped = none → exec (.powerOn true) s = .next { s with ctl := { s.ctl with phase := .reset, resetKind := 0, lossOfW := true } }) ∧
     exec (.powerOn false) s = .next { s with ctl := { s.ctl with phase := .reset, resetKind := 0, lossOfW := true, vstbyOff := true } }) ∧
   (∀ s h, s.ctl.phase = .halted ∨ s.ctl.phase = .failed → s.ctl.tripped = none ∨ h = false → Runs (.powerOn h) s fun t =>
     t.ctl.phase = .reset ∧ t.ctl.resetKind = 0 ∧ t.mem = State.reset.mem ∧ t.jobs = [] ∧ t.ctxs = [] ∧ t.pkgs = [] ∧
     Same [.pending, .host, .libero, .out, .free] s t) ∧
   (∀ s h, s.ctl.phase = .reset ∨ s.ctl.phase = .starting ∨ s.ctl.phase = .service → exec (.powerOn h) s = .next s)) ∧
  ((∀ s, s.ctl.phase ≠ .off → exec .stbyOkFall s =
     .next { s with ctl := { s.ctl with phase := .halted, lossOfW := true, vstbyOff := true, inCharge := none } }) ∧
   (∀ s, portAlive s = true → exec .mainOkFall s = .next { s with ctl := { s.ctl with phase := .failed, lossOfW := true, inCharge := none } }) ∧
   (∀ s, portAlive s = false → exec .mainOkFall s = .next s))

/-- R473, R474, R475, R496: PERST# asserted puts the part into reset, whose kind says whether the stacks retain; every begin of the last start that
had no end is closed in the journal, and the host's permission to reach its memory is gone. Released, a part that retained makes a warm start with
device memory and the scorebook as they were; any other makes a cold start with nothing. -/
def Obligations.Perst : Prop :=
  (∀ s, portAlive s = true → (s.ctl.phase = .failed → s.ctl.lossOfW = false) → Runs .perstAssert s fun t =>
    t.ctl.phase = .reset ∧ t.ctl.resetKind = (if getReg s 0x4000 0x06 = 1 then 2 else 1) ∧ t.ctl.inCharge = none ∧
    t.ctl.busMaster = false ∧ t.ctl.recovering = none ∧ t.ctl.recoverQ = [] ∧
    ((∀ b, b ∈ s.ctl.journal → b.event = 1 → b.start ≠ getReg s 0x1200 0x06) → t.dict = s.dict ∧ t.ctl.journal = s.ctl.journal) ∧
    (2 * s.ctl.journal.length ≤ 65536 → ∀ b, b ∈ s.ctl.journal → b.event = 1 → b.start = getReg s 0x1200 0x06 →
      ∃ e, e ∈ t.ctl.journal ∧ e.step = b.step ∧ e.kind = b.kind ∧ e.unit = b.unit ∧ e.event ∈ [2, 3, 8]) ∧
    RegsBut [(0x1200, 0x0B)] s t ∧ Kept [.dict, .ctl] s t) ∧
  (∀ s, s.ctl.phase = .failed → s.ctl.lossOfW = true → exec .perstAssert s = .next s) ∧
  (∀ s, s.ctl.phase = .reset → s.ctl.resetKind = 2 → Runs (.perstDeassert true) s fun t =>
    t.ctl.phase = .starting ∧ t.ctl.kind = .warm ∧ getReg t 0x1200 0x04 = 2 ∧ t.works.map (·.id) = s.works.map (·.id) ∧
    Same [.pending, .mem, .host, .jobs, .frames, .ctxs, .rings, .srings, .umpire, .protect, .libero, .free] s t) ∧
  (∀ s held, s.ctl.phase = .reset → (s.ctl.resetKind = 2 → held = false) → Runs (.perstDeassert held) s fun t =>
    t.ctl.phase = .starting ∧ t.ctl.kind = .cold ∧ t.mem = State.reset.mem ∧ t.jobs = [] ∧ t.frames = [] ∧ t.works = [] ∧ t.ctxs = [] ∧
    getReg t 0x1200 0x04 = (if s.ctl.resetKind = 2 then 0 else s.ctl.resetKind) ∧ Same [.pending, .host, .libero, .free] s t)

/-- R474, R475, R480: the commands of #1200.01. A warm reset keeps device memory and the scorebook; a die recovery stops one die, empties its tiles,
lanes and cache, leaves the tiles' flags, or waits for the one that runs; park is entered when nothing runs, and left again. A command that the
state forbids, and each of them during a start, answers ST_BAD_STATE and does nothing else. R17, R19, R474, R475: a bridge error is logged and the
die that the bridge restarts recovers, after the one that recovers already. R18: the one route between two dies: from a media die along the row of
the destination, to a media die along the die's own row, between compute dies along the row first and then to the other row, and between the media
dies along row 0. Each step is a bridge, at most five, at most four where a compute die is at an end. Over bridges, a transfer between two units
ends after those issued before it between the same two. -/
def Obligations.ResetsAndBridges : Prop :=
  ((∀ s c, s.ctl.phase = .starting → c ∈ [Instr.warmReset, .dieRecovery, .parkEnter, .parkLeave] →
     exec c s = .next (setReg s 0x1200 0x03 stBadState)) ∧
   (∀ s c, controlled s = true → parked s = true → c ∈ [Instr.warmReset, .dieRecovery, .parkEnter] →
     exec c s = .next (setReg s 0x1200 0x03 stBadState)) ∧
   (∀ s, controlled s = true → parked s = false → Runs .warmReset s fun t =>
     t.ctl.phase = .starting ∧ t.ctl.kind = .warm ∧ t.ctl.inCharge = none ∧ getReg t 0x1200 0x04 = 3 ∧ t.tiles = [] ∧ t.lanes = [] ∧ t.cache = [] ∧
     (∀ i j o, j < 256 → 0x2000 ≤ i → i < 0x4000 → findObj i j = some o →
       (o.pers = .v → getReg t i j = defaultOf i j) ∧ (o.pers = .w ∨ o.pers = .f → getReg t i j = getReg s i j)) ∧
     t.works.map (·.id) = s.works.map (·.id) ∧
     Same [.pending, .mem, .host, .jobs, .frames, .ctxs, .rings, .srings, .umpire, .protect, .libero, .free] s t) ∧
   (∀ s, controlled s = true → parked s = false →
     (s.ctl.recovering = none → Runs .dieRecovery s fun t =>
       let d := getReg s 0x1200 0x02
       t.ctl.recovering = some d ∧ getReg t 0x1200 0x03 = stOk ∧ getReg t 0x1200 0x04 = 5 ∧
       (∀ x, dieOfTile x = d → nget t.tiles x = none) ∧ (∀ l, l / 16 = d → nget t.lanes l = none) ∧ nget t.cache d = none ∧
       (∀ l, l / 16 ≠ d → nget t.lanes l = nget s.lanes l) ∧
       Kept [.tiles, .cache, .sync, .dict, .works, .images, .windows, .ctl, .mem, .ctxs, .lanes, .syncWins] s t) ∧
     (s.ctl.recovering.isSome = true → exec .dieRecovery s =
       .next { setReg s 0x1200 0x03 stOk with ctl := { s.ctl with recoverQ := s.ctl.recoverQ ++ [getReg s 0x1200 0x02] } })) ∧
   (∀ s, controlled s = true →
     (parkRefused s = false → exec .parkEnter s = .next (setReg (setReg s 0x1200 0x03 stOk) 0x1200 0x10 1)) ∧
     (parkRefused s = true → exec .parkEnter s = .next (setReg s 0x1200 0x03 stBadState)) ∧
     (getReg s 0x1200 0x10 = 1 → Runs .parkEntered s fun t =>
       getReg t 0x1200 0x10 = 2 ∧ RegsBut [(0x1200, 0x10), (0xE000, 0x01), (0xE000, 0x05)] s t ∧ Kept [.dict, .ctl] s t) ∧
     (getReg s 0x1200 0x10 = 2 → Runs .parkLeave s fun t => getReg t 0x1200 0x10 = 3 ∧ getReg t 0x1200 0x03 = stOk ∧ getReg t 0x1200 0x04 = 6 ∧
       RegsBut [(0x1200, 0x03), (0x1200, 0x04), (0x1200, 0x10), (0xE000, 0x01), (0xE000, 0x05)] s t ∧ Kept [.dict, .ctl] s t) ∧
     (getReg s 0x1200 0x10 ≠ 2 → exec .parkLeave s = .next (setReg s 0x1200 0x03 stBadState)))) ∧
  (∀ s b, inService s = true → b < 14 →
     (s.ctl.recovering = none → Runs (.bridgeError b) s fun t =>
       t.ctl.recovering = some (bridgeDie b) ∧ getReg t 0x1200 0x04 = 5 ∧ (∀ x, dieOfTile x = bridgeDie b → nget t.tiles x = none) ∧
       Kept [.tiles, .cache, .sync, .dict, .works, .images, .windows, .ctl, .mem, .ctxs, .lanes, .syncWins] s t) ∧
     (s.ctl.recovering.isSome = true → Runs (.bridgeError b) s fun t =>
       t.ctl.recoverQ = s.ctl.recoverQ ++ [bridgeDie b] ∧ (∃ e, e ∈ t.ctl.log ∧ e.code = 0x0010 ∧ e.kind = 11 ∧ e.unit = b) ∧
       RegsBut [(0xE000, 0x01), (0xE000, 0x05)] s t ∧ Kept [.dict, .ctl] s t)) ∧
  ((∀ d, d < 8 → dieRoute 8 d = 8 :: (List.range (d % 4 + 1)).map (fun i => 4 * (d / 4) + i) ∧
     dieRoute 9 d = 9 :: (List.range (4 - d % 4)).map (fun i => 4 * (d / 4) + 3 - i) ∧
     dieRoute d 8 = (dieRoute 8 d).reverse ∧ dieRoute d 9 = (dieRoute 9 d).reverse) ∧
   (dieRoute 8 9 = [8, 0, 1, 2, 3, 9] ∧ dieRoute 9 8 = [9, 3, 2, 1, 0, 8]) ∧
   (∀ a b, a < 8 → b < 8 → (dieRoute a b).head? = some a ∧ (dieRoute a b).getLast? = some b ∧
     ∀ x, x ∈ dieRoute a b → x ≠ b → x / 4 = a / 4) ∧
   (∀ a b, a < 10 → b < 10 → (∀ x, x ∈ routeBridges a b → x.isSome = true) ∧ (routeBridges a b).length ≤ (if a < 8 ∨ b < 8 then 4 else 5)) ∧
   (∀ s t o d, inService s = true → (tileOf s t).queue.find? (fun q => q.order == o && q.started) = some d →
     (∀ e, e ∈ (tileOf s t).queue → e.order = o → e = d) →
     (∃ u v q, crossesBridge u.1 v.1 = true ∧ transferUnits s t d = some (u, v) ∧ q ∈ (tileOf s t).queue ∧ q.started = true ∧
       q.arrived < d.arrived ∧ transferUnits s t q = some (u, v)) → exec (.descriptorComplete t o) s = .next s))

/-- R470 to R473: a start in which no unit fails or locks up ends in service, counted, with a control cluster that ended its last self-test in
control, its time kept, and the last step's end in the journal. A stack that fails its training twice is mapped out and the part serves without it.
A bridge that trains with at most two failed lanes runs at full width. A start stops where both clusters fail, no manifest copy is accepted, a rail
is not right, or a bridge fails twice; one that locks up stands at its step, its begin open. R474, R475, R480: the steps of a die recovery, or of
leaving park, in which no unit fails or locks up put the die, or the part, back to work; a die that waits is taken next. -/
def Obligations.Starts : Prop :=
  (∀ s (f : StartFindings), s.ctl.phase = .starting → s.ctl.clusterOk.length = 2 →
     (f.failed = [] → f.failedTwice = [] → f.lockedAt = none → manifestOk s f = true → Runs (.startSequence f) s fun t =>
       t.ctl.phase = .service ∧ t.ctl.inCharge = some (if unended (lastStart (addReg s 0x1200 0x06 1)) 1 12 0 then 1 else 0) ∧
       getReg t 0x1200 0x06 = getReg (addReg s 0x1200 0x06 1) 0x1200 0x06 ∧ getReg t 0x1200 0x08 = f.timeMs ∧ getReg t 0x1200 0x07 = 0 ∧
       (∃ e, e ∈ t.ctl.journal ∧ e.step = 15 ∧ e.event = 2 ∧ e.start = getReg t 0x1200 0x06) ∧ t.pending = s.pending ∧
       (∀ b, b < 14 → unended (lastStart (addReg s 0x1200 0x06 1)) 5 11 b = false → lanesSpared f b = true →
         nget t.ctl.bridges b = some { half := false, spared := failedLanes f b })) ∧
     (∀ k, k < 24 → f.failed = [(6, k)] → f.failedTwice = [(6, k)] → f.lockedAt = none → manifestOk s f = true →
       getReg s (stackIndex k) 0x01 < 2 → Runs (.startSequence f) s fun t => t.ctl.phase = .service ∧ getReg t (stackIndex k) 0x01 = 3) ∧
     (f.lockedAt = none → ((1, 0) ∈ f.failed ∧ (1, 1) ∈ f.failed ∨ manifestOk s f = false ∨ (3, 0) ∈ f.failed ∨
         ∃ b, b < 14 ∧ (5, b) ∈ f.failed ∧ (5, b) ∈ f.failedTwice) →
       Runs (.startSequence f) s fun t => t.ctl.phase = .failed ∧ t.ctl.inCharge = none) ∧
     (f.failed = [] → f.lockedAt = some (3, 0) → manifestOk s f = true → Runs (.startSequence f) s fun t =>
       t.ctl.phase = .starting ∧ getReg t 0x1200 0x07 = 3 * 65536 ∧
       (∃ e, e ∈ t.ctl.journal ∧ e.step = 3 ∧ e.event = 1 ∧ e.start = getReg t 0x1200 0x06))) ∧
  (∀ s (f : StartFindings), controlled s = true → f.failed = [] → f.failedTwice = [] → f.lockedAt = none →
     (∀ d, s.ctl.recovering = some d → s.ctl.recoverQ = [] → Runs (.startSequence f) s fun t =>
       t.ctl.recovering = none ∧ t.ctl.phase = .service ∧ t.ctl.inCharge = s.ctl.inCharge) ∧
     (∀ d n r, s.ctl.recovering = some d → s.ctl.recoverQ = n :: r → Runs (.startSequence f) s fun t =>
       t.ctl.recovering = some n ∧ t.ctl.recoverQ = r ∧ t.ctl.phase = .service) ∧
     (s.ctl.recovering = none → getReg s 0x1200 0x10 = 3 → Runs (.startSequence f) s fun t =>
       getReg t 0x1200 0x10 = 0 ∧ t.ctl.phase = .service ∧ t.ctl.inCharge = s.ctl.inCharge) ∧
     (s.ctl.recovering = none → getReg s 0x1200 0x10 ≠ 3 → exec (.startSequence f) s = .next s))

/-- R470, R478, R486: a re-admission is taken for a stack that a start mapped out and for a link that policy disabled, and refused otherwise; the
list of reverted settings is emptied by command. R485: an attestation report is the body with the two signatures at the address the host gave; a
part without identity, a buffer too small and one that does not lie in an allocation are refused. R444: after a start that lost class w, recovery
from the mirror waits until every awaited package is loaded as it was; then what the peer gave back is taken and the mirror synchronises again. A
peer that holds nothing leaves the scorebook lost. -/
def Obligations.Recovery : Prop :=
  ((∀ s v, controlled s = true ∨ s.ctl.phase = .starting →
     (let k := v / 65536; let u := v % 65536
      (¬(k = 3 ∧ u < 24 ∧ getReg s (stackIndex u) 0x01 = 3) → ¬(k = 4 ∧ u ∈ s.ctl.linksOut) →
        exec (.readmit v) s = .next (setReg s 0x1200 0x0F stBadState)) ∧
      ((k = 3 ∧ u < 24 ∧ getReg s (stackIndex u) 0x01 = 3) ∨ (k = 4 ∧ u ∈ s.ctl.linksOut) → Runs (.readmit v) s fun t =>
        (k, u) ∈ t.ctl.readmits ∧ (∀ x, x ∈ t.ctl.readmits → x = (k, u) ∨ x ∈ s.ctl.readmits) ∧ getReg t 0x1200 0x0F = stOk ∧
        RegsBut [(0x1200, 0x0F)] s t ∧ Kept [.dict, .ctl] s t))) ∧
   (∀ s, controlled s = true ∨ s.ctl.phase = .starting →
     exec .clearReverted s = .next { s with ctl := { s.ctl with reverted := [], revertAll := false } })) ∧
  (∀ s, controlled s = true ∨ s.ctl.phase = .starting →
     (getReg s 0x1300 0x01 ≠ 1 ∨ s.ctl.identity = none → exec .attestationReport s = .next (setReg s 0x1300 0x10 stNoIdentity)) ∧
     (∀ k, getReg s 0x1300 0x01 = 1 → s.ctl.identity = some k →
       (let n := (reportBody s).length + 384 + 35664; let a := getReg s 0x1300 0x0D
        (getReg s 0x1300 0x0E < n → exec .attestationReport s = .next (setReg s 0x1300 0x10 stOutputOverflow)) ∧
        (n ≤ getReg s 0x1300 0x0E → badRange s a n = true → exec .attestationReport s = .next (setReg s 0x1300 0x10 stBadAddress)) ∧
        (n ≤ getReg s 0x1300 0x0E → badRange s a n = false → s.mem.wf = true → Runs .attestationReport s fun t =>
          t.mem.read a (reportBody s).length = reportBody s ∧ BytesBut a n s.mem t.mem ∧ getReg t 0x1300 0x11 = n ∧ getReg t 0x1300 0x10 = stOk ∧
          RegsBut [(0x1300, 0x10), (0x1300, 0x11)] s t ∧ Kept [.dict, .mem, .free] s t)))) ∧
  (∀ s, controlled s = true →
     (getReg s 0x4000 0x08 ≠ 4 → exec .mirrorRecovery s = .next s) ∧
     (getReg s 0x4000 0x08 = 4 → s.fabric.restored = [] → getBlob s 0x4000 0x09 = [] → Runs .mirrorRecovery s fun t =>
       getReg t 0x4000 0x04 = 2 ∧ (getReg t 0x4000 0x08 = 1 ∨ getReg t 0x4000 0x08 = 2) ∧ Kept [.dict, .ctl, .fabric, .out] s t) ∧
     (getReg s 0x4000 0x08 = 4 → (∃ a, a ∈ awaited s ∧ slotState s a.1 ≠ 3) → exec .mirrorRecovery s = .next s) ∧
     (getReg s 0x4000 0x08 = 4 → s.fabric.restored ≠ [] ∨ getBlob s 0x4000 0x09 ≠ [] →
       (∀ a, a ∈ awaited s → slotState s a.1 = 3 ∧ (pkgOf s a.1).map (·.digest) = some a.2) → Runs .mirrorRecovery s fun t =>
         t.fabric.restored = [] ∧ getBlob t 0x4000 0x09 = [] ∧ (getReg t 0x4000 0x08 = 1 ∨ getReg t 0x4000 0x08 = 2) ∧
         Same [.pending, .host, .clk, .flags, .images, .lanes, .cdf, .fns, .pkgs, .queue, .cores, .umpire, .power, .protect] s t))

/-! ### The object dictionary (R377 to R398) -/

/-- R379, R380, R387: a write that passes its checks is applied, and one that does not changes nothing. Writes to ro and const subentries, of the
wrong length, out of range, from an origin that may not, or to a unit that is not idle do not pass; nor does one to package flash that fails. A
plain setting holds the value written, and nothing else changes. R33, R34: the period in force of each house-rate code, in thirds of a nanosecond; a
code that the table does not list, and a free period outside 1,000 to 50,000 µs, are refused with the abort code for a value out of range and change
nothing. R398: the acknowledged sequence number of the fault log rises to the one given, never past the last entry's, and never falls. -/
def Obligations.DictionarySettings : Prop :=
  (∀ s o i j (bs : List Byte) w row, served s i = true → (recordOf i).isSome = true → findObj i j = some row →
     (writeRefused s o row i j bs = none → row.pers ≠ .f ∨ w = true → exec (.dictWrite o i j ⟨bs, w⟩) s = .next (applyWrite s o i j bs)) ∧
     (writeRefused s o row i j bs = none → row.pers = .f → exec (.dictWrite o i j ⟨bs, false⟩) s = .next s) ∧
     ((row.access = .ro ∨ row.access = .const ∨ mayWrite o i j = false ∨ typeFits row bs.length = false ∨
       (row.ty.width.isSome = true ∧ rangeOk s row i j bs = false) ∨ (row.access = .rwi ∧ unitIdle s i j (leNat bs) = false)) →
       exec (.dictWrite o i j ⟨bs, w⟩) s = .next s) ∧
     (writeRefused s o row i j bs = none → row.ty.width.isSome = true → behaviour s o i j bs = none → mirroredIndex i = false → row.pers ≠ .f ∨ w = true →
       recordOf i ∉ [some 0x4101, some 0x6001, some 0x1110, some 0x1130, some 0x5010, some 0xC000] → j < 256 →
       Runs (.dictWrite o i j ⟨bs, w⟩) s fun t => getReg t i j = leNat bs ∧ RegsBut [(i, j)] s t ∧ BlobsBut [] s t ∧ Kept [.dict] s t)) ∧
  ((∀ s e, e ∈ [(0x00, 1001, 24000), (0x01, 1, 24), (0x02, 1, 25), (0x03, 1001, 30000), (0x04, 1, 30), (0x05, 1, 50), (0x06, 1001, 60000),
       (0x07, 1, 60), (0x08, 1, 100), (0x09, 1001, 120000), (0x0A, 1, 120)] → s.clk.rate = e.1 → period s * e.2.2 = 3000000000 * e.2.1) ∧
   (∀ s, s.clk.rate = 0xFF → period s = 3000 * s.clk.free) ∧
   (∀ s o j (bs : List Byte) w row, served s 0x2000 = true → findObj 0x2000 j = some row →
     (j = 0x01 ∧ bs.length = 1 ∧ 0x0A < leNat bs ∧ leNat bs ≠ 0xFF) ∨ (j = 0x02 ∧ bs.length = 4 ∧ (leNat bs < 1000 ∨ 50000 < leNat bs)) →
     exec (.dictWrite o 0x2000 j ⟨bs, w⟩) s = .next s ∧
     (unitIdle s 0x2000 j (leNat bs) = true → mayWrite o 0x2000 j = true → writeRefused s o row 0x2000 j bs = some 0x0D000031))) ∧
  (∀ s n, served s 0xE000 = true →
     (getReg s 0xE000 0x04 ≤ n → n ≤ getReg s 0xE000 0x01 → exec (.faultLogAcknowledge n) s = .next (setReg s 0xE000 0x04 n)) ∧
     (n < getReg s 0xE000 0x04 ∨ getReg s 0xE000 0x01 < n → exec (.faultLogAcknowledge n) s = .next s))

/-- R384, R388: a request through the window answers under its token with one response per operation; where an operation carries an abort code, none
of the request's writes has been applied. The same token again does nothing, and while no cluster is in control the answer is busy. R385, R386,
R390: with authentication required, a request from the field network without a tag or with a wrong one is only counted; one whose counter does not
rise is answered with that code, under its tag; one that passes is answered under its tag and counter. A peer's request is refused by its origin
until #1100.0A allows it, and answered. Without authentication an untagged request is answered too. -/
def Obligations.DtpRequests : Prop :=
  (∀ s token f w, portAlive s = true → s.ctl.d3hot = false → s.ctl.linkUp = true →
     (token % 2 ^ 32 = s.ctl.reqToken → exec (.dictWindowRequest token ⟨f, w⟩) s = .next s) ∧
     (token % 2 ^ 32 ≠ s.ctl.reqToken → noCluster s = true → Runs (.dictWindowRequest token ⟨f, w⟩) s fun t =>
       t.ctl.respToken = token % 2 ^ 32 ∧ t.ctl.response = busyAnswer f ∧ 48 ∈ t.ctl.msix ∧ Kept [.ctl] s t) ∧
     (∀ ops, token % 2 ^ 32 ≠ s.ctl.reqToken → noCluster s = false → parseFrame .host f = some ops →
       (let u := { s with ctl := { s.ctl with reqToken := token % 2 ^ 32 } }
        let r := (runRequest u w .host 1440 ops).2
        Runs (.dictWindowRequest token ⟨f, w⟩) s fun t =>
         t.ctl.respToken = token % 2 ^ 32 ∧ t.ctl.response = responseFrame (frameTransaction f) 0 none r ∧ r.length = ops.length ∧
         48 ∈ t.ctl.msix ∧
         ((∃ x, x ∈ r ∧ x.2.1 ≠ 0) → RegsBut [(0x1100, 0x0C)] s t ∧ BlobsBut [] s t ∧ Kept [.ctl, .dict] s t)))) ∧
  ((∀ s port f w ops, portAlive s = true → noCluster s = false → netPortOpen s port = true → parseFrame .net f = some ops →
     let tagOk := frameTagged f && (hmac256 (getBlob s 0x1100 0x08) (f.take (f.length - 32)) == f.drop (f.length - 32))
     (tagOk = false → frameTagged f = true ∨ getReg s 0x1100 0x07 ≠ 0 → exec (.dtpNetRequest port ⟨f, w⟩) s = .next (addReg s 0x1100 0x0C 1)) ∧
     (tagOk = true → frameCounter f ≤ s.ctl.counterTop → exec (.dtpNetRequest port ⟨f, w⟩) s =
       .next (emit (addReg s 0x1100 0x0C 1) (.dtpResponse .net port
         (responseFrame (frameTransaction f) 0 none (refuseAll ops abCounter))))) ∧
     (tagOk = true → s.ctl.counterTop < frameCounter f → Runs (.dtpNetRequest port ⟨f, w⟩) s fun t =>
       Emission.dtpResponse .net port (responseFrame (frameTransaction f) (frameCounter f) (some (getBlob s 0x1100 0x08))
         (runRequest (acceptCounter s (frameCounter f)) w .net 1408 ops).2) ∈ t.out ∧ t.pending = s.pending) ∧
     (frameTagged f = false → getReg s 0x1100 0x07 = 0 → Runs (.dtpNetRequest port ⟨f, w⟩) s fun t =>
       Emission.dtpResponse .net port (responseFrame (frameTransaction f) 0 none (runRequest s w .net 1440 ops).2) ∈ t.out ∧ t.pending = s.pending)) ∧
   (∀ s port f w, portAlive s = false ∨ noCluster s = true ∨ netPortOpen s port = false → exec (.dtpNetRequest port ⟨f, w⟩) s = .next s) ∧
   (∀ s peer f w ops, controlled s = true → parseFrame .peer f = some ops → getReg s 0x1100 0x0A = 0 → Runs (.dtpPeerRequest peer ⟨f, w⟩) s fun t =>
     Emission.dtpResponse .peer peer (responseFrame (frameTransaction f) 0 none (refuseAll ops abOrigin)) ∈ t.out ∧
     Same [.pending, .mem, .host, .clk, .tiles, .works, .jobs, .frames, .ctxs, .pkgs] s t) ∧
   (abOrigin = 0x0D000023 ∧ ∀ f, frameTagged f = true → parseFrame .peer f = none) ∧
   (∀ s peer f w ops, controlled s = true → parseFrame .peer f = some ops → getReg s 0x1100 0x0A ≠ 0 → Runs (.dtpPeerRequest peer ⟨f, w⟩) s fun t =>
     Emission.dtpResponse .peer peer (responseFrame (frameTransaction f) 0 none (runRequest (ackTo s peer 1) w .peer 1440 ops).2) ∈ t.out))

/-! ### The machine -/

/-- The step takes the command at the front of the queue and runs it with the rest of the queue; with none waiting the block idles (log 1). -/
def Obligations.StepRunsFront : Prop :=
  (∀ s c rest, s.pending = c :: rest → step s = exec c { s with pending := rest }) ∧ (∀ s, s.pending = [] → step s = .next s)

/-- Every command ends in a next state, whatever the state, and leaves the queue of the commands behind it as it was. -/
def Obligations.EveryCommandCompletes : Prop :=
  ∀ c s, Runs c s fun t => t.pending = s.pending

/-- R15, R29, R30, R471: every command of the table has its effect, and what it is: where the part is in service, where a control cluster is in
control, where the PCI Express port is up, or in any state, as the rules of the command ask. Each effect is the operation that the statements about
the command's rules are about. -/
def Obligations.EveryCommandEffect : Prop :=
  (∀ s, inService s = true →
    exec .tickBoundary s = .next (tickOver s) ∧ (∀ src dt, exec (.sourceQualified src dt) s = .next (qualifySource (passTime s dt) src)) ∧
    (∀ src dt, exec (.sourceLost src dt) s = .next (loseSource (passTime s dt) src)) ∧
    (∀ src dt, exec (.sourceAdoptionHold src dt) s = .next (holdSource (passTime s dt) src)) ∧
    (∀ ns, exec (.timebaseStep ns) s = .next (stepTimebase s ns)) ∧ (∀ arrived, exec (.heartbeat arrived) s = .next (heartbeat s arrived)) ∧
    exec .standbyTakeover s = .next (startTakeover s) ∧ (∀ mask, exec (.deviceFlagsClear mask) s = .next (clearDeviceFlags s mask)) ∧
    (∀ mask, exec (.tileFlagsClear mask) s = .next (clearTileFlags s mask)) ∧
    (∀ tile work part, exec (.tilePartDispatch tile work part) s = .next (dispatchPart s tile work part)) ∧
    (∀ tile, exec (.nop tile) s = .next (tileCommand s tile opNOP fun _ _ t => .ok { tile := t })) ∧
    (∀ tile, exec (.mma tile) s = .next (tileCommand s tile opMMA fun env c t => runMatrix env opMMA c t)) ∧
    (∀ tile, exec (.conv tile) s = .next (tileCommand s tile opCONV fun env c t => runMatrix env opCONV c t)) ∧
    (∀ tile, exec (.anchor tile) s = .next (tileCommand s tile opANCHOR runAnchor)) ∧
    (∀ tile, exec (.stacc tile) s = .next (tileCommand s tile opSTACC fun _ c t => runStacc c t)) ∧
    (∀ tile, exec (.ldacc tile) s = .next (tileCommand s tile opLDACC runLdacc)) ∧
    (∀ tile, exec (.rndacc tile) s = .next (tileCommand s tile opRNDACC runRndacc)) ∧
    (∀ tile, exec (.vew tile) s = .next (tileCommand s tile opVEW runVew)) ∧
    (∀ tile, exec (.vred tile) s = .next (tileCommand s tile opVRED runVred)) ∧
    (∀ tile, exec (.gather tile) s = .next (tileCommand s tile opGATHER runGather)) ∧
    (∀ tile, exec (.scadd tile) s = .next (tileCommand s tile opSCADD runScadd)) ∧ (∀ tile, exec (.scaddr tile) s = .next (scaddrStep s tile)) ∧
    (∀ tile, exec (.sfn tile) s = .next (tileCommand s tile opSFN runSfn)) ∧
    (∀ tile, exec (.smax tile) s = .next (tileCommand s tile opSMAX runSmax)) ∧
    (∀ tile, exec (.nstat tile) s = .next (tileCommand s tile opNSTAT runNstat)) ∧
    (∀ tile, exec (.move tile) s = .next (tileCommand s tile opMOVE runMove)) ∧ (∀ tile, exec (.stream tile) s = .next (streamStep s tile)) ∧
    (∀ tile, exec (.swap tile) s = .next (swapStep s tile)) ∧
    (∀ tile, exec (.dgstore tile) s = .next (tileCommand s tile opDGSTORE fun _ c t => runDgstore c t)) ∧
    (∀ tile, exec (.endPart tile) s = .next (endStep s tile)) ∧
    (∀ tile queue, exec (.descriptorStart tile queue) s = .next (startDesc s tile queue)) ∧
    (∀ tile order, exec (.descriptorComplete tile order) s = .next (completeDesc s tile order)) ∧
    (∀ tile, tileUsable s tile = true → (tileOf s tile).checking = false → exec (.tileFault tile) s = .next (faultTile s tile)) ∧
    (∀ die slot, exec (.weightWindowFill die slot) s = .next (fillWindow s die slot)) ∧
    (∀ tile, exec (.class3Stop tile) s = .next (stopPart s tile)) ∧
    (∀ lane work seg, exec (.segmentEncode lane work seg) s = .next (encodeStep s lane work seg)) ∧
    (∀ lane work seg, exec (.segmentDecode lane work seg) s = .next (takeVectors (decodeStep s lane work seg) work seg)) ∧
    (∀ lane, laneLive s lane = true → exec (.laneFault lane) s = .next (faultLane s lane)) ∧
    (∀ lane, laneLive s lane = true → (laneNext s lane).isSome = true → exec (.laneWatchdog lane) s = .next (faultLane s lane)) ∧
    (∀ work, exec (.parseInputPicture work) s = .next (parseInput s work)) ∧
    (∀ ctx band, exec (.rateControlBand ctx band) s = .next (controlBand s ctx band)) ∧
    (∀ work record others, exec (.collectiveMaxAnchors work record others) s = .next (runCollective s work record 1 others)) ∧
    (∀ work record others, exec (.collectiveSumExact work record others) s = .next (runCollective s work record 2 others)) ∧
    (∀ work record others, exec (.collectiveSumAnchored work record others) s = .next (runCollective s work record 3 others)) ∧
    (∀ work record others, exec (.collectiveBroadcast work record others) s = .next (runCollective s work record 4 others)) ∧
    (∀ work record others, exec (.collectiveElementwiseMax work record others) s = .next (runCollective s work record 5 others)) ∧
    (∀ core ctx j row, exec (.motionSearchRow core ctx j row) s = .next (searchMotion s core ctx j row)) ∧
    (∀ core work tile, exec (.codecTileJob core work tile) s = .next (tileJob s core work tile)) ∧
    (∀ unit work, exec (.scalerFrame unit work) s = .next (scaleFrame s unit work)) ∧
    (∀ kind core, unitLive s (kindNo kind) core = true → exec (.codecCoreFault kind core) s = .next (faultUnit s (kindNo kind) core)) ∧
    (∀ kind core, (unitLive s (kindNo kind) core && unitBusy s (kindNo kind) core) = true → exec (.codecCoreWatchdog kind core) s = .next
      (faultUnit s (kindNo kind) core)) ∧
    (∀ engine work, exec (.engineCompress engine work) s = .next (compressTask s engine work)) ∧
    (∀ engine work, exec (.engineDecompress engine work) s = .next (decompressTask s engine work)) ∧
    (∀ engine, unitLive s ckEngine engine = true → exec (.engineFault engine) s = .next (faultUnit s ckEngine engine)) ∧
    (∀ engine, (unitLive s ckEngine engine && unitBusy s ckEngine engine) = true → exec (.engineWatchdog engine) s = .next (faultUnit s ckEngine
      engine)) ∧
    (∀ port packet dt, exec (.rtpPacketReceive port packet dt) s = .next (receivePacket (passTime s dt) port packet)) ∧
    (∀ ctx seq dt, exec (.mergeWindowExpiry ctx seq dt) s = .next (expireSeq (passTime s dt) ctx seq)) ∧
    (∀ port frame src dst ident seq data, exec (.icmpEcho ⟨port, frame⟩ src dst ident seq data) s = .next (portAnswers s port false frame (if
      ((portV4 s port).map mapped ++ portV6 s port).contains dst then some (.echoReply port (egressTag s port) src ident seq data) else none))) ∧
    (∀ port frame target sender senderMac, exec (.arpRequest ⟨port, frame⟩ target sender senderMac) s = .next (portAnswers s port false frame (if
      (portV4 s port).contains target then some (.arpReply port (egressTag s port) sender senderMac (portMac s port)) else none))) ∧
    (∀ port frame target sender senderMac, exec (.neighbourDiscovery ⟨port, frame⟩ target sender senderMac) s = .next (portAnswers s port false
      frame (if (portV6 s port).contains target then some (.neighbourAdvert port (egressTag s port) sender senderMac (portMac s port)) else
      none))) ∧
    (∀ port frame group v6, exec (.multicastQuery ⟨port, frame⟩ group v6) s = .next (queryGroups s port frame group v6)) ∧
    (∀ port, exec (.packetSend port) s = .next (sendPacket s port)) ∧ (∀ port, exec (.mediaPortFault port) s = .next (faultPort s port)) ∧
    (∀ port, exec (.mediaLinkUp port) s = .next (raiseLink s port)) ∧
    (∀ offset length, exec (.bar2Read offset length) s = .next (emit s (.hostRead ((List.range length).map fun i => bar2Byte s (offset + i)))))
      ∧
    (∀ offset data, exec (.bar2Write offset data) s = .next (writeBar2 s offset data)) ∧
    (∀ bridge, bridge < 14 → exec (.bridgeError bridge) s = .next (recoverDie (logFault s 0x0010 2 11 bridge 0xFFFF bridge) (bridgeDie bridge)))
      ∧
    (∀ die core, exec (.controlCoreFail die core) s = .next (failCore s die core)) ∧
    (∀ link frame, exec (.paltonDataFrame link frame) s = .next (dataFrame s link frame)) ∧
    (∀ link ack credit level, exec (.paltonControlFrame link ack credit level) s = .next (controlFrame s link ack credit level)) ∧
    (∀ link expected, exec (.retryRequest link expected) s = .next (retryLink s link expected)) ∧
    (∀ link, (linkUp s link && !(linkOf s link).replay.isEmpty) = true → exec (.linkAckTimeout link) s = .next (failLink s link)) ∧
    (∀ link passed dt, exec (.linkTraining link passed dt) s = .next (trainLink (passTime s dt) link passed)) ∧
    (∀ src flow, exec (.flowUnpin src flow) s = .next (unpinFlow s src flow)) ∧
    (∀ peer flow msg, exec (.messageAck peer flow msg) s = .next (ackMessage s peer flow msg)) ∧
    (∀ die mW dt, exec (.powerEstimate die mW dt) s = .next (powerEvent s dt fun s => estimateDie s die mW)) ∧
    (∀ die, exec (.estimateRecalibrate die) s = .next (recalibrate s die)) ∧
    (∀ readings dt, exec (.railTelemetry readings dt) s = .next (powerEvent s dt fun s => meanPower (readings.foldl readRail s))) ∧
    (∀ die dt, exec (.currentStepUp die dt) s = .next (powerEvent s dt fun s => currentUp s die)) ∧
    (∀ die up, exec (.operatingPointStep die up) s = .next (powerEvent s 0 fun s => stepPoint s die up)) ∧
    (∀ die dt, exec (.droopDetect die dt) s = .next (powerEvent s dt fun s => detectDroop s die)) ∧
    (∀ die dt, exec (.droopRelease die dt) s = .next (powerEvent s dt fun s => releaseDroop s die)) ∧
    (∀ die tenths dt, exec (.dieTemperatureStep die tenths dt) s = .next (powerEvent s dt fun s => dieHeat s die tenths)) ∧
    (∀ stack tenths dt, exec (.stackTemperature stack tenths dt) s = .next (powerEvent s dt fun s => stackHeat s stack tenths)) ∧
    (∀ rail status dt, exec (.regulatorWarning rail status dt) s = .next (powerEvent s dt fun s => warnRail s rail status)) ∧
    (∀ rail dt, exec (.regulatorWarningClear rail dt) s = .next (powerEvent s dt fun s => clearWarning s rail)) ∧
    (∀ reason dt, exec (.throttleEpisodeEnd reason dt) s = .next (powerEvent s dt fun s => endEpisode s reason)) ∧
    (∀ stack row address, exec (.correctedError stack row address) s = .next (correctError s stack row)) ∧
    (∀ stack, stackLive s stack = true → exec (.patrolScrub stack) s = .next (addReg s (stackIndex stack) 0x05 1)) ∧
    (∀ stack row address, exec (.uncorrectedError stack row address) s = .next (uncorrectError s stack row address)) ∧
    (∀ kind core passed, exec (.codecCoreSelfCheck kind core passed) s = .next (checkUnit s (kindNo kind) core passed)) ∧
    (∀ engine passed, exec (.engineSelfCheck engine passed) s = .next (checkUnit s ckEngine engine passed)) ∧
    (∀ tile p, (tileOf s tile).part = some p → waitExpired s (tileOf s tile) p = true → exec (.syncTimeout tile) s = .next (refusePart s tile
      stSyncTimeout)) ∧
    (∀ tile p, (tileOf s tile).part = some p → tileUsable s tile = true → (tileOf s tile).checking = false → partWaits s (tileOf s tile) p =
      false → exec (.tileWatchdog tile) s = .next (faultTile s tile)) ∧
    (∀ tile, (tileOf s tile).checking = true → retirePending s 1 tile = false →
      exec (.tileSelfCheck tile true) s = .next (putTile s tile { tileOf s tile with checking := false }) ∧
      exec (.tileSelfCheck tile false) s = .next (if flashHeld s then retireLater s 1 tile else retireTile s tile)) ∧
    (∀ lane, (laneOf s lane).checking = true →
      exec (.laneSelfCheck lane true) s = .next (putLane s lane { laneOf s lane with checking := false }) ∧
      exec (.laneSelfCheck lane false) s = .next (retireLane s lane)) ∧
    (∀ die line a, lineSource s die line = some a →
      let cache := nset s.cache die ((ngetD s.cache die []).write (256 * line) (s.mem.read a 256))
      exec (.weightCacheParity die line) s = .next (logFault { s with cache } 0x0022 0 0 die 0xFFFF a))) ∧
  (∀ s, controlled s = true →
    (∀ ctx, exec (.lagLimit ctx) s = .next (limitLag s ctx)) ∧
    (∀ peer frame flashOk, exec (.dtpPeerRequest peer ⟨frame, flashOk⟩) s = .next (dtpPeer s flashOk peer frame)) ∧
    (∀ diesOk, exec (.functionSlotLoad diesOk) s = .next (loadFunction s diesOk)) ∧ exec .functionSlotUnload s = .next (unloadFunction s) ∧
    (∀ slot, slot < 32 → fnDue s slot = true → exec (.functionSlotSwitch slot) s = .next (switchFunction s slot)) ∧
    (∀ slot, exec (.functionBankRelease slot) s = .next (releaseFunction s slot)) ∧
    (∀ diesOk, exec (.tableSetAdd diesOk) s = .next (addTableSet s diesOk)) ∧
    (∀ diesOk, exec (.tableSetRemove diesOk) s = .next (removeTableSet s diesOk)) ∧ (swapDue s = true → exec .cdfBankSwap s = .next (takeSwap s)) ∧
    (∀ bank, exec (.cdfBankFree bank) s = .next (freeBank s bank)) ∧
    (∀ slot, slot < 4096 → exec (.packageLoad slot) s = .next (acceptLoad s slot)) ∧
    exec .packageLoadRun s = .next (runQueuedLoad s) ∧
    (∀ slot, slot < 4096 → exec (.packageUnload slot) s = .next (acceptUnload s slot)) ∧
    (∀ ctx value, ctx < maxCtx → value < 0xFFFF → exec (.contextBind ctx value) s = .next (writeBinding s ctx value)) ∧
    (∀ ctx, ctx < maxCtx → ctxState s ctx = 1 → exec (.contextUnbind ctx) s = .next (writeBinding s ctx 0xFFFF)) ∧
    (∀ ctx, ctx < maxCtx → exec (.contextStart ctx) s = .next (startCtx s ctx)) ∧
    (∀ ctx, exec (.contextStartCheck ctx) s = .next (deliverAll (checkStart s ctx))) ∧
    (∀ ctx, ctx < maxCtx → exec (.contextStop ctx) s = .next (stopCtx s ctx)) ∧
    (∀ ctx, ctx < maxCtx → exec (.contextTimeout ctx) s = .next (timeoutCtx s ctx)) ∧
    (∀ ctx, exec (.snapshotWrite ctx) s = .next (writeSnapshot s ctx)) ∧
    (∀ ctx, ctx < maxCtx → exec (.contextResume ctx) s = .next (resumeCtx s ctx)) ∧
    (∀ ctx slot, ctx < maxCtx → exec (.contextSwitch ctx slot) s = .next (switchCtx s ctx slot)) ∧
    (∀ ctx, switchDue s ctx = true → exec (.switchTakeEffect ctx) s = .next (takeSwitch s ctx)) ∧
    (∀ ctx slot j0, ctx < maxCtx → exec (.referenceRequest ctx slot j0) s = .next (requestReference s ctx slot j0)) ∧
    exec .umpireEnable s = .next (enableUmpire s) ∧
    (∀ partner records, exec (.umpireScorecardFrame partner records) s = .next (takeCards s partner records)) ∧
    (∀ partner ctx frame, exec (.umpireHaltNotice partner ctx frame) s = .next (takeNotice s partner)) ∧
    (∀ ctx frame, exec (.umpireLagEvent ctx frame) s = .next (lagEvent s ctx frame)) ∧ exec .umpireResume s = .next (resumeUmpire s) ∧
    exec .umpireStop s = .next (stopUmpire s) ∧ exec .filterSetLoad s = .next (loadFilter s) ∧ exec .filterSetUnload s = .next (unloadFilter s) ∧
    (∀ set, filterDue s = true → exec (.filterSetSwitch set) s = .next (switchFilter s set)) ∧
    (∀ stack, exec (.stackRetireCommand stack) s = .next (retireStack s stack)) ∧
    (∀ stack, exec (.stackMigrationComplete stack) s = .next (endMigration s stack)) ∧ exec .scorebookCopyRebuilt s = .next (rebuiltCopy s) ∧
    exec .allocate s = .next (allocateHost s) ∧ exec .free s = .next (freeHost s) ∧
    (∀ base, exec (.allocationRelease base) s = .next (releaseFreed s base)) ∧ exec .fabricCopyStart s = .next (startCopy s) ∧
    exec .fabricCopyDone s = .next (endCopy s) ∧ (∀ origin, exec (.keyRequest origin) s = .next (acceptKey s origin)) ∧
    (∀ work, exec (.syncWindowRelease work) s = .next (releaseSync s work)) ∧
    (∀ group n entries, exec (.tickBarrier group n entries) s = .next (passBarrier s group n entries)) ∧
    (∀ work, exec (.frameCommit work) s = .next (commitWork s work)) ∧ (∀ ring, exec (.completionPost ring) s = .next (postJob s ring)) ∧
    (∀ ctx, exec (.inputFrameComplete ctx) s = .next (completeInput s ctx)) ∧
    (∀ ctx, exec (.inputFrameTimeout ctx) s = .next (timeoutInput s ctx)) ∧
    (∀ flow receiver, exec (.receiverBench flow receiver) s = .next (benchReceiver s flow receiver)) ∧
    (∀ flow receiver, exec (.receiverReady flow receiver) s = .next (readyReceiver s flow receiver)) ∧
    (∀ work, exec (.hostDmaError work) s = .next (dmaError s work)) ∧
    (∀ link data dt, exec (.hello link data dt) s = .next (takeHello (passTime s dt) link data)) ∧
    (∀ dt, exec (.helloSend dt) s = .next (sendHellos (passTime s dt))) ∧
    (∀ root map, exec (.addressMap root map) s = .next (takeMap s root map)) ∧
    (∀ src upLinks, exec (.routeFlood src upLinks) s = .next (takeFlood s src upLinks)) ∧
    (∀ link counter rate precedence serial ptp free, exec (.fabricTickMessage link counter rate precedence serial ptp free) s = .next (takeTick
      s link counter rate precedence serial ptp free)) ∧
    (∀ peer, exec (.peerLost peer) s = .next (losePeer s peer)) ∧ (∀ peer, exec (.peerRegained peer) s = .next (regainPeer s peer)) ∧
    (∀ sender flow ctx j data, exec (.fabricOutputMessage sender flow ctx j data) s = .next (takePeerOutput s sender flow ctx j data)) ∧
    exec .mirrorUnprotected s = .next (unprotectMirror s) ∧ (∀ dt, exec (.budgetBroker dt) s = .next (powerEvent s dt runBroker)) ∧
    (∀ stack row, exec (.rowSpare stack row) s = .next (spareRow s stack row)) ∧
    (∀ stack, exec (.stackRateLimit stack) s = .next (startMigration s stack 1)) ∧ exec .mirrorRecovery s = .next (recoverMirror s) ∧
    (getReg s 0x1200 0x10 = 1 → exec .parkEntered s = .next (logFault (setReg s 0x1200 0x10 2) 0x0406 0 0 0 0xFFFF 0)) ∧
    (∀ partner digest, exec (.umpireConfigurationDigest partner digest) s = .next (takeDigest s partner digest)) ∧
    (∀ group member blob modes, exec (.spanGroupBlob group member blob modes) s = .next (takeBlob s group member blob modes)) ∧
    (∀ sender address data, exec (.fabricCopyReceive sender address data) s = .next (receiveCopy s sender address data)) ∧
    (∀ k j, exec (.syncWindowAllocate (.frame k j)) s = .next (deliverVectors (allocSync s (.frame k j)) k j)) ∧
    (∀ r p i, exec (.syncWindowAllocate (.job r p i)) s = .next (allocSync s (.job r p i))) ∧
    (∀ sender item, (getReg s 0x4000 0x08 = 4 → sender = getReg s 0x4100 0x09 → exec (.mirrorMessage sender item) s = .next (ackTo (takeRestored
      s item) sender 4)) ∧ (getReg s 0x4000 0x08 ≠ 4 → exec (.mirrorMessage sender item) s = .next (storeMirror s sender item))) ∧
    (∀ writes failedReads, exec (.serviceLoopPass writes failedReads) s = .next (servicePass (hostWrites s writes) failedReads)) ∧
    exec .warmReset s = .next (warmReset s) ∧ exec .dieRecovery s = .next (dieCommand s) ∧ exec .parkEnter s = .next (enterPark s) ∧
    exec .parkLeave s = .next (leavePark s) ∧ (∀ value, exec (.readmit value) s = .next (readmit s value)) ∧
    exec .clearReverted s = .next (clearReverted s) ∧ exec .attestationReport s = .next (attest s)) ∧
  (∀ s, portAlive s = true →
    (∀ token frame flashOk, exec (.dictWindowRequest token ⟨frame, flashOk⟩) s = .next (windowRequest s flashOk token frame)) ∧
    (∀ port frame flashOk, exec (.dtpNetRequest port ⟨frame, flashOk⟩) s = .next (dtpNet s flashOk port frame)) ∧
    (∀ origin index sub data flashOk, exec (.dictWrite origin index sub ⟨data, flashOk⟩) s = .next (dictWrite s flashOk origin index sub data)) ∧
    (∀ sequence, served s 0xE000 = true → exec (.faultLogAcknowledge sequence) s = .next (acknowledgeLog s sequence)) ∧
    (∀ offset width, badAccess offset width = true → exec (.bar0BadAccess offset width) s = .next (emit s .unsupportedRequest)) ∧
    exec .pcieHotReset s = .next (hotReset s) ∧ (∀ d3hot, exec (.pciePowerStateChange d3hot) s = .next { s with ctl := { s.ctl with d3hot } }) ∧
    (∀ on, exec (.busMasterEnable on) s = .next { s with ctl := { s.ctl with busMaster := on } }) ∧
    exec .mainOkFall s = .next { s with ctl := { s.ctl with phase := .failed, lossOfW := true, inCharge := none } }) ∧
  (∀ s,
    (∀ unit, exec (.thermtrip unit) s = .next (tripThermal s unit)) ∧
    (∀ rail, inService s = true ∨ s.ctl.phase = .starting → exec (.railLost rail) s = .next (loseRail s rail)) ∧
    (∀ vstbyHeld, exec (.powerOn vstbyHeld) s = .next (powerUp s vstbyHeld)) ∧ exec .perstAssert s = .next (assertPerst s) ∧
    (∀ vmemHeld, exec (.perstDeassert vmemHeld) s = .next (releasePerst s vmemHeld)) ∧
    (s.ctl.phase ≠ .off → exec .stbyOkFall s = .next { s with ctl := { s.ctl with phase := .halted, lossOfW := true, vstbyOff := true, inCharge
      := none } }) ∧
    (∀ found, exec (.startSequence found) s = .next (runSequence s found)) ∧
    (s.ctl.phase ≠ .off → exec .powerLoss s = .next (loseAll { s with ctl := { s.ctl with phase := .off, lossOfW := true } })))

/-- After reset nothing is listed in memory, no command waits, no work is known, and every scalar subentry reads its default. -/
def Obligations.ResetState : Prop :=
  State.reset.ctl.phase = .reset ∧ State.reset.pending = [] ∧ State.reset.mem.wf = true ∧ State.reset.host.wf = true ∧
  (∀ a, State.reset.mem.get a = 0) ∧ State.reset.works = [] ∧ State.reset.jobs = [] ∧ (∀ i j, getReg State.reset i j = defaultOf i j) ∧
  State.reset.ctl.log = [] ∧ State.reset.ctl.journal = []

/-- Device memory and host memory keep their canonical form through every step, so that equal memories are equal data (log 2). -/
def Obligations.MemoryCanonical : Prop :=
  ∀ s t, s.mem.wf = true → s.host.wf = true → step s = .next t → t.mem.wf = true ∧ t.host.wf = true

/-- R396, R472: the fault log never holds more than 4,096 entries and the start journal never more than 65,536, through every step. -/
def Obligations.BoundedLogs : Prop :=
  ∀ s t, s.ctl.log.length ≤ 4096 → s.ctl.journal.length ≤ 65536 → step s = .next t →
    t.ctl.log.length ≤ 4096 ∧ t.ctl.journal.length ≤ 65536

/-- R471, R474: the part comes into service only at the end of a start sequence; R462, R494, R496: a part that has halted, or has no supplies,
stays so until supplies are removed or applied. -/
def Obligations.PhaseChanges : Prop :=
  (∀ c s t, exec c s = .next t → s.ctl.phase ≠ .service → t.ctl.phase = .service → s.ctl.phase = .starting ∧ ∃ f, c = .startSequence f) ∧
  (∀ c s t, exec c s = .next t → s.ctl.phase = .halted → t.ctl.phase ≠ .halted → c = .powerLoss ∨ ∃ v, c = .powerOn v) ∧
  (∀ c s t, exec c s = .next t → s.ctl.phase = .off → t.ctl.phase ≠ .off → ∃ v, c = .powerOn v)
end

