-- ==== Sys2Proof/Laws/Keep.lean ====
section
/-! SUPPORT. How `Kept` is shown: it is reflexive and transitive, it passes through choices, folds and record updates. One lemma per
shared operation, `<name>_keeps`, names the parts that the operation may change. -/
namespace Sys2Proof
open Sys2Proof.Machine

theorem Part.same_refl (p : Part) (s : State) : p.same s s := by cases p <;> rfl

theorem Part.same_trans {p : Part} {s t u : State} (h : p.same s t) (k : p.same t u) : p.same s u := by
  cases p <;> exact Eq.trans k h

theorem Kept.refl (ps : List Part) (s : State) : Kept ps s s := fun p _ => p.same_refl s

theorem Kept.trans {ps : List Part} {s t u : State} (h : Kept ps s t) (k : Kept ps t u) : Kept ps s u :=
  fun p hp => Part.same_trans (h p hp) (k p hp)

theorem Kept.mono {ps qs : List Part} {s t : State} (h : Kept qs s t) (hs : (qs.all fun p => ps.contains p) = true) : Kept ps s t := by
  intro p hp
  refine h p fun hq => hp ?_
  simpa using (List.all_eq_true.mp hs) p hq

/-- A step from `t` on to `u` that changes only `qs`. -/
theorem Kept.by {ps qs : List Part} {s t u : State} (h : Kept qs t u) (hs : (qs.all fun p => ps.contains p) = true) (k : Kept ps s t) :
    Kept ps s u := k.trans (h.mono hs)

theorem Kept.ite {ps : List Part} {s a b : State} {c : Prop} [Decidable c] (h : Kept ps s a) (k : Kept ps s b) :
    Kept ps s (if c then a else b) := by split <;> assumption

theorem Kept.foldl {α : Type} {ps : List Part} {f : State → α → State} (h : ∀ t a, Kept ps t (f t a)) :
    ∀ (l : List α) {s t : State}, Kept ps s t → Kept ps s (l.foldl f t)
  | [], _, _, k => k
  | a :: l, _, _, k => Kept.foldl h l (k.trans (h _ a))

/-- What an operation that may fail leaves when it answers. -/
def KeptO (ps : List Part) (s : State) (o : Option State) : Prop := ∀ t, o = some t → Kept ps s t

theorem KeptO.none (ps : List Part) (s : State) : KeptO ps s none := fun _ h => nomatch h
theorem KeptO.some {ps : List Part} {s t : State} (h : Kept ps s t) : KeptO ps s (some t) := fun _ e => Option.some.inj e ▸ h
theorem KeptO.ite {ps : List Part} {s : State} {a b : Option State} {c : Prop} [Decidable c] (h : KeptO ps s a) (k : KeptO ps s b) :
    KeptO ps s (if c then a else b) := by split <;> assumption
theorem KeptO.getD {ps : List Part} {s d : State} {o : Option State} (h : KeptO ps s o) (k : Kept ps s d) : Kept ps s (o.getD d) := by
  cases o with
  | none => exact k
  | some t => exact h t rfl
theorem KeptO.by {ps qs : List Part} {s t : State} {o : Option State} (h : KeptO qs t o) (hs : (qs.all fun p => ps.contains p) = true)
    (k : Kept ps s t) : KeptO ps s o := fun u e => (h u e).by hs k

/-- The state in the first place of a pair. -/
def KeptP {α : Type} (ps : List Part) (s : State) (p : State × α) : Prop := Kept ps s p.1

theorem KeptP.mk {α : Type} {ps : List Part} {s t : State} {a : α} (h : Kept ps s t) : KeptP ps s (t, a) := h
theorem KeptP.ite {α : Type} {ps : List Part} {s : State} {a b : State × α} {c : Prop} [Decidable c] (h : KeptP ps s a) (k : KeptP ps s b) :
    KeptP ps s (if c then a else b) := by split <;> assumption
theorem KeptP.by {α : Type} {ps qs : List Part} {s t : State} {p : State × α} (h : KeptP qs t p)
    (hs : (qs.all fun p => ps.contains p) = true) (k : Kept ps s t) : KeptP ps s p := Kept.by h hs k
theorem KeptP.elim {α : Type} {ps : List Part} {s t : State} {a : α} {p : State × α} (h : KeptP ps s p) (e : p = (t, a)) : Kept ps s t := by
  subst e; exact h
theorem KeptP.fst {α : Type} {ps : List Part} {s : State} {p : State × α} (h : KeptP ps s p) : Kept ps s p.1 := h
theorem KeptP.foldl {α β : Type} {ps : List Part} {f : State × β → α → State × β} (h : ∀ t a, KeptP ps t.1 (f t a)) :
    ∀ (l : List α) {s : State} {t : State × β}, KeptP ps s t → KeptP ps s (l.foldl f t)
  | [], _, _, k => k
  | a :: l, _, _, k => KeptP.foldl h l (Kept.trans k (h _ a))

/-- A record update: what differs is in `ps`. -/
theorem Kept.upd {ps : List Part} {s t : State} {d m ho cl ct ti fl li im ca wi sy sw la cd fn pk qu wo jo fr al cx ri sr fw me co fa um po pr cy ta ou fe}
    (k : Kept ps s t)
    (h : ∀ p, p ∉ ps → p.same t ⟨t.pending, d, m, ho, cl, ct, ti, fl, li, im, ca, wi, sy, sw, la, cd, fn, pk, qu, wo, jo, fr, al, cx, ri,
      sr, fw, me, co, fa, um, po, pr, cy, ta, ou, fe⟩) :
    Kept ps s ⟨t.pending, d, m, ho, cl, ct, ti, fl, li, im, ca, wi, sy, sw, la, cd, fn, pk, qu, wo, jo, fr, al, cx, ri, sr, fw, me, co, fa,
      um, po, pr, cy, ta, ou, fe⟩ := k.trans h
theorem KeptO.map {ps : List Part} {s : State} {o : Option State} {f : State → State} (h : KeptO ps s o)
    (k : ∀ t, Kept ps s t → Kept ps s (f t)) : KeptO ps s (o.map f) := by
  intro t e
  obtain ⟨u, hu, rfl⟩ := Option.map_eq_some_iff.mp e
  exact k u (h u hu)
theorem KeptO.bind {α : Type} {ps : List Part} {s : State} {o : Option α} {f : α → Option State} (k : ∀ a, KeptO ps s (f a)) :
    KeptO ps s (o.bind f) := by
  intro t e
  obtain ⟨a, -, ha⟩ := Option.bind_eq_some_iff.mp e
  exact k a t ha
theorem KeptP.trans {α : Type} {ps : List Part} {s t : State} {p : State × α} (h : Kept ps s t) (k : KeptP ps t p) : KeptP ps s p :=
  Kept.trans h k
theorem KeptO.trans {ps : List Part} {s t : State} {o : Option State} (h : Kept ps s t) (k : KeptO ps t o) : KeptO ps s o :=
  fun u e => h.trans (k u e)
theorem KeptO.mapAny {α : Type} {ps : List Part} {s : State} {o : Option α} {f : α → State} (k : ∀ a, Kept ps s (f a)) :
    KeptO ps s (o.map f) := by
  intro t e
  obtain ⟨a, -, rfl⟩ := Option.map_eq_some_iff.mp e
  exact k a

/-- What an operation that may be refused with a status leaves when it answers. -/
def KeptE (ps : List Part) (s : State) (e : Except Nat State) : Prop := ∀ t, e = .ok t → Kept ps s t

theorem KeptE.error (ps : List Part) (s : State) (n : Nat) : KeptE ps s (.error n) := fun _ h => nomatch h
theorem KeptE.ok {ps : List Part} {s t : State} (h : Kept ps s t) : KeptE ps s (.ok t) := fun _ e => Except.ok.inj e ▸ h
theorem KeptE.ite {ps : List Part} {s : State} {a b : Except Nat State} {c : Prop} [Decidable c] (h : KeptE ps s a) (k : KeptE ps s b) :
    KeptE ps s (if c then a else b) := by split <;> assumption
theorem KeptE.bind {α : Type} {ps : List Part} {s : State} {e : Except Nat α} {f : α → Except Nat State} (k : ∀ a, KeptE ps s (f a)) :
    KeptE ps s (e >>= f) := by
  intro t h
  cases e with
  | error n => exact nomatch h
  | ok a => exact k a t h
theorem KeptE.elim {ps : List Part} {s t : State} {e : Except Nat State} (h : KeptE ps s e) (k : e = .ok t) : Kept ps s t := h t k
theorem KeptO.elim {ps : List Part} {s t : State} {o : Option State} (h : KeptO ps s o) (k : o = Option.some t) : Kept ps s t := h t k
theorem Kept.optElim {α : Type} {ps : List Part} {s b : State} {o : Option α} {f : α → State} (h : Kept ps s b)
    (k : ∀ a, Kept ps s (f a)) : Kept ps s (o.elim b f) := by
  cases o with
  | none => exact h
  | some a => exact k a
theorem KeptO.mapFst {α : Type} {ps : List Part} {s : State} {o : Option (State × α)} {f : State × α → State}
    (h : ∀ p, o = Option.some p → Kept ps s p.1) (k : ∀ p, Kept ps s p.1 → Kept ps s (f p)) : KeptO ps s (o.map f) := by
  intro t e
  obtain ⟨a, ha, rfl⟩ := Option.map_eq_some_iff.mp e
  exact k a (h a ha)
theorem KeptP.of {α : Type} {ps : List Part} {s : State} {p : State × α} (h : Kept ps s p.1) : KeptP ps s p := h

/-- A named intermediate value keeps what the whole keeps. -/
theorem Kept.cutAA {ps : List Part} {s : State} {u : State} (t : State) (h : Kept ps s t) (k : Kept ps s t → Kept ps s u) : Kept ps s u := k h
theorem Kept.cutAB {β : Type} {ps : List Part} {s : State} {u : State} (t : State × β) (h : KeptP ps s t) (k : KeptP ps s t → Kept ps s u) : Kept ps s u := k h
theorem Kept.cutAC {ps : List Part} {s : State} {u : State} (t : Option State) (h : KeptO ps s t) (k : KeptO ps s t → Kept ps s u) : Kept ps s u := k h
theorem Kept.cutBA {α : Type} {ps : List Part} {s : State} {u : State × α} (t : State) (h : Kept ps s t) (k : Kept ps s t → KeptP ps s u) : KeptP ps s u := k h
theorem Kept.cutBB {α : Type} {β : Type} {ps : List Part} {s : State} {u : State × α} (t : State × β) (h : KeptP ps s t) (k : KeptP ps s t → KeptP ps s u) : KeptP ps s u := k h
theorem Kept.cutBC {α : Type} {ps : List Part} {s : State} {u : State × α} (t : Option State) (h : KeptO ps s t) (k : KeptO ps s t → KeptP ps s u) : KeptP ps s u := k h
theorem Kept.cutCA {ps : List Part} {s : State} {u : Option State} (t : State) (h : Kept ps s t) (k : Kept ps s t → KeptO ps s u) : KeptO ps s u := k h
theorem Kept.cutCB {β : Type} {ps : List Part} {s : State} {u : Option State} (t : State × β) (h : KeptP ps s t) (k : KeptP ps s t → KeptO ps s u) : KeptO ps s u := k h
theorem Kept.cutCC {ps : List Part} {s : State} {u : Option State} (t : Option State) (h : KeptO ps s t) (k : KeptO ps s t → KeptO ps s u) : KeptO ps s u := k h
theorem Kept.cutFA {ps : List Part} {s : State} {u : Except Nat State} (t : State) (h : Kept ps s t) (k : Kept ps s t → KeptE ps s u) :
    KeptE ps s u := k h
theorem Kept.cutFB {β : Type} {ps : List Part} {s : State} {u : Except Nat State} (t : State × β) (h : KeptP ps s t) (k : KeptP ps s t → KeptE ps s u) :
    KeptE ps s u := k h
theorem Kept.cutFC {ps : List Part} {s : State} {u : Except Nat State} (t : Option State) (h : KeptO ps s t) (k : KeptO ps s t → KeptE ps s u) :
    KeptE ps s u := k h

end Sys2Proof
end

