-- ==== Sys2Proof/Laws/KeepDict.lean ====
section
/-! SUPPORT. Which parts of the state each operation of Machine/Dict.lean may change. -/
namespace Sys2Proof.Machine
open Sys2Proof
seal findObj defaultOf getReg getBlob

theorem setReg_keeps (s : State) (a1 : Nat) (a2 : Nat) (a3 : Nat) : Kept [.dict] s (setReg s a1 a2 a3) := by
  unfold setReg
  have h0 := Kept.refl [.dict] s
  repeat' first
    | ((with_reducible refine Kept.upd ?_ (fun p hp => ?_)); rotate_left; (cases p <;> first | exact absurd (by decide) hp | rfl); with_reducible assumption)

theorem addReg_keeps (s : State) (a1 : Nat) (a2 : Nat) (a3 : Nat) : Kept [.dict] s (addReg s a1 a2 a3) := by
  unfold addReg
  have h0 := Kept.refl [.dict] s
  repeat' first
    | with_reducible assumption
    | ((with_reducible apply Kept.by (setReg_keeps ..)); case hs => rfl)
    | split

theorem setBlob_keeps (s : State) (a1 : Nat) (a2 : Nat) (a3 : List Byte) : Kept [.dict] s (setBlob s a1 a2 a3) := by
  unfold setBlob
  have h0 := Kept.refl [.dict] s
  repeat' first
    | (extract_lets +onlyGivenNames x; clear_value x)
    | split
    | ((with_reducible refine Kept.upd ?_ (fun p hp => ?_)); rotate_left; (cases p <;> first | exact absurd (by decide) hp | rfl); with_reducible assumption)

end Sys2Proof.Machine
end

