-- ==== Sys2Proof/Laws/KeepOps.lean ====
section
/-! SUPPORT. Which parts of the state each operation of Machine/Ops.lean may change. -/
namespace Sys2Proof.Machine
open Sys2Proof
seal findObj defaultOf getReg getBlob

theorem passTime_keeps (s : State) (a1 : Nat) : Kept [.clk] s (passTime s a1) := by
  unfold passTime
  have h0 := Kept.refl [.clk] s
  repeat' first
    | (extract_lets +onlyGivenNames x; clear_value x)
    | ((with_reducible refine Kept.upd ?_ (fun p hp => ?_)); rotate_left; (cases p <;> first | exact absurd (by decide) hp | rfl); with_reducible assumption)

theorem emit_keeps (s : State) (a1 : Emission) : Kept [.out] s (emit s a1) := by
  unfold emit
  have h0 := Kept.refl [.out] s
  repeat' first
    | ((with_reducible refine Kept.upd ?_ (fun p hp => ?_)); rotate_left; (cases p <;> first | exact absurd (by decide) hp | rfl); with_reducible assumption)

theorem raiseVector_keeps (s : State) (a1 : Nat) : Kept [.ctl] s (raiseVector s a1) := by
  unfold raiseVector
  have h0 := Kept.refl [.ctl] s
  repeat' first
    | with_reducible assumption
    | (extract_lets +onlyGivenNames x; clear_value x)
    | with_reducible apply Kept.ite
    | ((with_reducible refine Kept.upd ?_ (fun p hp => ?_)); rotate_left; (cases p <;> first | exact absurd (by decide) hp | rfl); with_reducible assumption)

theorem fresh_keeps {s t : State} {n : Nat} (h : fresh s = (n, t)) : Kept [.free] s t := by
  injection h with _ h
  subst h
  exact Kept.upd (Kept.refl _ _) fun p hp => by cases p <;> first | exact absurd (by decide) hp | rfl
theorem fresh_snd_keeps (s : State) : Kept [.free] s (fresh s).2 := fresh_keeps (n := s.free) rfl

theorem toMirror_keeps (s : State) (a1 : MirrorItem) : Kept [.fabric, .out] s (toMirror s a1) := by
  unfold toMirror
  have h0 := Kept.refl [.fabric, .out] s
  repeat' first
    | with_reducible assumption
    | (extract_lets +onlyGivenNames x; (refine Kept.cutAA x ?_ (fun hx => ?_)); subst x; rotate_left; clear_value x)
    | (extract_lets +onlyGivenNames x; clear_value x)
    | with_reducible apply Kept.ite
    | ((with_reducible apply Kept.by (emit_keeps ..)); case hs => rfl)
    | ((with_reducible refine Kept.upd ?_ (fun p hp => ?_)); rotate_left; (cases p <;> first | exact absurd (by decide) hp | rfl); with_reducible assumption)

theorem logFault_keeps (s : State) (a1 : Nat) (a2 : Nat) (a3 : Nat) (a4 : Nat) (a5 : Nat) (a6 : Nat) : Kept [.dict, .ctl] s (logFault s a1 a2 a3 a4 a5 a6) := by
  unfold logFault
  have h0 := Kept.refl [.dict, .ctl] s
  repeat' first
    | with_reducible assumption
    | (extract_lets +onlyGivenNames x; (refine Kept.cutAA x ?_ (fun hx => ?_)); subst x; rotate_left; clear_value x)
    | (extract_lets +onlyGivenNames x; clear_value x)
    | with_reducible apply Kept.ite
    | ((with_reducible apply Kept.by (addReg_keeps ..)); case hs => rfl)
    | ((with_reducible apply Kept.by (setReg_keeps ..)); case hs => rfl)
    | ((with_reducible apply Kept.by (raiseVector_keeps ..)); case hs => rfl)
    | ((with_reducible refine Kept.upd ?_ (fun p hp => ?_)); rotate_left; (cases p <;> first | exact absurd (by decide) hp | rfl); with_reducible assumption)

theorem addJournal_keeps (s : State) (a1 : Nat) (a2 : Nat) (a3 : Nat) (a4 : Nat) (a5 : Nat) : Kept [.dict, .ctl] s (addJournal s a1 a2 a3 a4 a5) := by
  unfold addJournal
  have h0 := Kept.refl [.dict, .ctl] s
  repeat' first
    | with_reducible assumption
    | (extract_lets +onlyGivenNames x; (refine Kept.cutAA x ?_ (fun hx => ?_)); subst x; rotate_left; clear_value x)
    | (extract_lets +onlyGivenNames x; clear_value x)
    | ((with_reducible apply Kept.by (setReg_keeps ..)); case hs => rfl)
    | ((with_reducible refine Kept.upd ?_ (fun p hp => ?_)); rotate_left; (cases p <;> first | exact absurd (by decide) hp | rfl); with_reducible assumption)

theorem grantRange_keeps (s : State) (a1 : Nat) (a2 : Nat) (a3 : Nat) (a4 : Nat) : Kept [.allocs, .free] s (grantRange s a1 a2 a3 a4) := by
  unfold grantRange
  have h0 := Kept.refl [.allocs, .free] s
  repeat' first
    | ((with_reducible refine Kept.upd ?_ (fun p hp => ?_)); rotate_left; (cases p <;> first | exact absurd (by decide) hp | rfl); with_reducible assumption)

theorem reserveOn_keeps {s t : State} {n o d b : Nat} (h : reserveOn s n o d = some (b, t)) : Kept [.allocs, .free] s t := by
  obtain ⟨c, -, hc⟩ := Option.map_eq_some_iff.mp h
  rw [← (Prod.mk.inj hc).2]
  exact grantRange_keeps s c (alignUp 4096 n) o d

theorem reserve_keeps {s t : State} {n o b : Nat} (h : reserve s n o = some (b, t)) : Kept [.allocs, .free] s t := reserveOn_keeps h

theorem releaseRange_keeps (s : State) (a1 : Nat) : Kept [.allocs] s (releaseRange s a1) := by
  unfold releaseRange
  have h0 := Kept.refl [.allocs] s
  repeat' first
    | ((with_reducible refine Kept.upd ?_ (fun p hp => ?_)); rotate_left; (cases p <;> first | exact absurd (by decide) hp | rfl); with_reducible assumption)

theorem putTile_keeps (s : State) (a1 : Nat) (a2 : Tile) : Kept [.tiles] s (putTile s a1 a2) := by
  unfold putTile
  have h0 := Kept.refl [.tiles] s
  repeat' first
    | split
    | ((with_reducible refine Kept.upd ?_ (fun p hp => ?_)); rotate_left; (cases p <;> first | exact absurd (by decide) hp | rfl); with_reducible assumption)

theorem putLane_keeps (s : State) (a1 : Nat) (a2 : Lane) : Kept [.lanes] s (putLane s a1 a2) := by
  unfold putLane
  have h0 := Kept.refl [.lanes] s
  repeat' first
    | ((with_reducible refine Kept.upd ?_ (fun p hp => ?_)); rotate_left; (cases p <;> first | exact absurd (by decide) hp | rfl); with_reducible assumption)

theorem putCtx_keeps (s : State) (a1 : Nat) (a2 : Ctx) : Kept [.ctxs] s (putCtx s a1 a2) := by
  unfold putCtx
  have h0 := Kept.refl [.ctxs] s
  repeat' first
    | ((with_reducible refine Kept.upd ?_ (fun p hp => ?_)); rotate_left; (cases p <;> first | exact absurd (by decide) hp | rfl); with_reducible assumption)

theorem setCtxState_keeps (s : State) (a1 : Nat) (a2 : Nat) : Kept [.dict] s (setCtxState s a1 a2) := by
  unfold setCtxState
  have h0 := Kept.refl [.dict] s
  repeat' first
    | with_reducible assumption
    | ((with_reducible apply Kept.by (setReg_keeps ..)); case hs => rfl)

theorem retireLater_keeps (s : State) (a1 : Nat) (a2 : Nat) : Kept [.ctl] s (retireLater s a1 a2) := by
  unfold retireLater
  have h0 := Kept.refl [.ctl] s
  repeat' first
    | (extract_lets +onlyGivenNames x; clear_value x)
    | ((with_reducible refine Kept.upd ?_ (fun p hp => ?_)); rotate_left; (cases p <;> first | exact absurd (by decide) hp | rfl); with_reducible assumption)

theorem putWork_keeps (s : State) (a1 : Work) : Kept [.works] s (putWork s a1) := by
  unfold putWork
  have h0 := Kept.refl [.works] s
  repeat' first
    | ((with_reducible refine Kept.upd ?_ (fun p hp => ?_)); rotate_left; (cases p <;> first | exact absurd (by decide) hp | rfl); with_reducible assumption)

theorem forgetWork_keeps (s : State) (a1 : WorkId) : Kept [.tiles, .syncWins] s (forgetWork s a1) := by
  unfold forgetWork
  have h0 := Kept.refl [.tiles, .syncWins] s
  repeat' first
    | dsimp only
    | ((with_reducible refine Kept.upd ?_ (fun p hp => ?_)); rotate_left; (cases p <;> first | exact absurd (by decide) hp | rfl); with_reducible assumption)

theorem addWork_keeps (s : State) (a1 : Work) : Kept [.tiles, .syncWins, .works] s (addWork s a1) := by
  unfold addWork
  have h0 := Kept.refl [.tiles, .syncWins, .works] s
  repeat' first
    | with_reducible assumption
    | (extract_lets +onlyGivenNames x; (refine Kept.cutAA x ?_ (fun hx => ?_)); subst x; rotate_left; clear_value x)
    | ((with_reducible apply Kept.by (forgetWork_keeps ..)); case hs => rfl)
    | ((with_reducible refine Kept.upd ?_ (fun p hp => ?_)); rotate_left; (cases p <;> first | exact absurd (by decide) hp | rfl); with_reducible assumption)

theorem dropWork_keeps (s : State) (a1 : WorkId) : Kept [.works] s (dropWork s a1) := by
  unfold dropWork
  have h0 := Kept.refl [.works] s
  repeat' first
    | ((with_reducible refine Kept.upd ?_ (fun p hp => ?_)); rotate_left; (cases p <;> first | exact absurd (by decide) hp | rfl); with_reducible assumption)

theorem orTileFlags_keeps (s : State) (a1 : Nat) (a2 : Nat) : Kept [.flags] s (orTileFlags s a1 a2) := by
  unfold orTileFlags
  have h0 := Kept.refl [.flags] s
  repeat' first
    | split
    | ((with_reducible refine Kept.upd ?_ (fun p hp => ?_)); rotate_left; (cases p <;> first | exact absurd (by decide) hp | rfl); with_reducible assumption)

theorem signalSync_keeps (s : State) (a1 : Nat) : Kept [.sync] s (signalSync s a1) := by
  unfold signalSync
  have h0 := Kept.refl [.sync] s
  repeat' first
    | ((with_reducible refine Kept.upd ?_ (fun p hp => ?_)); rotate_left; (cases p <;> first | exact absurd (by decide) hp | rfl); with_reducible assumption)

end Sys2Proof.Machine
end

