-- ==== Sys2Proof/Laws/KeepFlags.lean ====
section
/-! SUPPORT. Which parts of the state each operation of Machine/Flags.lean may change. -/
namespace Sys2Proof.Machine
open Sys2Proof
seal findObj defaultOf getReg getBlob

theorem clearDeviceFlags_keeps (s : State) (a1 : Nat) : Kept [.flags] s (clearDeviceFlags s a1) := by
  unfold clearDeviceFlags
  have h0 := Kept.refl [.flags] s
  repeat' first
    | ((with_reducible refine Kept.upd ?_ (fun p hp => ?_)); rotate_left; (cases p <;> first | exact absurd (by decide) hp | rfl); with_reducible assumption)

theorem clearTileFlags_keeps (s : State) (a1 : Nat) : Kept [.flags] s (clearTileFlags s a1) := by
  unfold clearTileFlags
  have h0 := Kept.refl [.flags] s
  repeat' first
    | with_reducible assumption
    | (extract_lets +onlyGivenNames x; clear_value x)
    | with_reducible apply Kept.ite
    | split
    | ((with_reducible refine Kept.upd ?_ (fun p hp => ?_)); rotate_left; (cases p <;> first | exact absurd (by decide) hp | rfl); with_reducible assumption)

end Sys2Proof.Machine
end

