-- ==== Sys2Proof/Laws/KeepTileOps.lean ====
section
/-! SUPPORT. Which parts of the state each operation of Machine/TileOps.lean may change. -/
namespace Sys2Proof.Machine
open Sys2Proof
seal findObj defaultOf getReg getBlob

theorem deliver_keeps (s : State) (a1 : WorkId) (a2 : Nat) (a3 : Nat) (a4 : Nat) : Kept [.sync, .works] s (deliver s a1 a2 a3 a4) := by
  unfold deliver
  have h0 := Kept.refl [.sync, .works] s
  repeat' first
    | with_reducible assumption
    | with_reducible apply Kept.ite
    | ((with_reducible apply Kept.by (putWork_keeps ..)); case hs => rfl)
    | ((with_reducible apply Kept.by (signalSync_keeps ..)); case hs => rfl)
    | split

theorem traceRecord_keeps (s : State) (a1 : WorkId) (a2 : CmdRec) (a3 : List (Nat × Nat × Nat)) : Kept [.dict, .mem, .traceAt] s (traceRecord s a1 a2 a3) := by
  unfold traceRecord
  have h0 := Kept.refl [.dict, .mem, .traceAt] s
  repeat' first
    | with_reducible assumption
    | (extract_lets +onlyGivenNames x; clear_value x)
    | ((with_reducible apply Kept.by (addReg_keeps ..)); case hs => rfl)
    | dsimp only
    | split
    | ((with_reducible refine Kept.upd ?_ (fun p hp => ?_)); rotate_left; (cases p <;> first | exact absurd (by decide) hp | rfl); (first | with_reducible assumption | ((with_reducible apply Kept.by (addReg_keeps ..)); case hs => rfl)))

theorem reportPart_keeps (s : State) (a1 : Nat) (a2 : Tile) (a3 : Part) (a4 : Nat) : Kept [.tiles, .images, .works] s (reportPart s a1 a2 a3 a4) := by
  unfold reportPart
  have h0 := Kept.refl [.tiles, .images, .works] s
  repeat' first
    | with_reducible assumption
    | (extract_lets +onlyGivenNames x; (refine Kept.cutAA x ?_ (fun hx => ?_)); subst x; rotate_left; clear_value x)
    | ((with_reducible apply Kept.by (putTile_keeps ..)); case hs => rfl)
    | ((with_reducible apply Kept.by (putWork_keeps ..)); case hs => rfl)
    | split
    | ((with_reducible refine Kept.upd ?_ (fun p hp => ?_)); rotate_left; (cases p <;> first | exact absurd (by decide) hp | rfl); with_reducible assumption)

theorem refusePart_keeps (s : State) (a1 : Nat) (a2 : Nat) : Kept [.tiles, .images, .works] s (refusePart s a1 a2) := by
  unfold refusePart
  have h0 := Kept.refl [.tiles, .images, .works] s
  repeat' first
    | with_reducible assumption
    | (extract_lets +onlyGivenNames x; clear_value x)
    | ((with_reducible apply Kept.by (reportPart_keeps ..)); case hs => rfl)
    | split

theorem retireCmd_keeps (s : State) (a1 : Nat) (a2 : Part) (a3 : CmdRec) (a4 : TOut) : Kept [.dict, .mem, .tiles, .flags, .sync, .works, .traceAt] s (retireCmd s a1 a2 a3 a4) := by
  unfold retireCmd
  have h0 := Kept.refl [.dict, .mem, .tiles, .flags, .sync, .works, .traceAt] s
  repeat' first
    | with_reducible assumption
    | (extract_lets +onlyGivenNames x; (refine Kept.cutAA x ?_ (fun hx => ?_)); subst x; rotate_left; clear_value x)
    | (extract_lets +onlyGivenNames x; clear_value x)
    | with_reducible apply Kept.ite
    | ((with_reducible apply Kept.by (orTileFlags_keeps ..)); case hs => rfl)
    | ((with_reducible apply Kept.by (deliver_keeps ..)); case hs => rfl)
    | ((with_reducible apply Kept.by (traceRecord_keeps ..)); case hs => rfl)
    | ((with_reducible apply Kept.by (putTile_keeps ..)); case hs => rfl)

/-- The parts that `tileCommand` may change. -/
def tileCommandParts : List Sys2Proof.Part :=
  .dict :: .mem :: .tiles :: .flags :: .images :: .sync :: .works :: .traceAt :: []

theorem tileCommand_keeps (s : State) (a1 : Nat) (a2 : Nat) (a3 : TEnv → CmdRec → Tile → Except Nat TOut) : Kept tileCommandParts s (tileCommand s a1 a2 a3) := by
  unfold tileCommand
  have h0 := Kept.refl tileCommandParts s
  repeat' first
    | with_reducible assumption
    | with_reducible apply Kept.ite
    | ((with_reducible apply Kept.by (retireCmd_keeps ..)); case hs => rfl)
    | ((with_reducible apply Kept.by (refusePart_keeps ..)); case hs => rfl)
    | split

theorem streamStep_keeps (s : State) (a1 : Nat) : Kept tileCommandParts s (streamStep s a1) := by
  unfold streamStep
  have h0 := Kept.refl tileCommandParts s
  repeat' first
    | with_reducible assumption
    | with_reducible apply Kept.ite
    | ((with_reducible apply Kept.by (refusePart_keeps ..)); case hs => rfl)
    | ((with_reducible apply Kept.by (retireCmd_keeps ..)); case hs => rfl)
    | dsimp only
    | split

theorem swapStep_keeps (s : State) (a1 : Nat) : Kept [.dict, .mem, .tiles, .flags, .sync, .works, .traceAt] s (swapStep s a1) := by
  unfold swapStep
  have h0 := Kept.refl [.dict, .mem, .tiles, .flags, .sync, .works, .traceAt] s
  repeat' first
    | with_reducible assumption
    | with_reducible apply Kept.ite
    | ((with_reducible apply Kept.by (retireCmd_keeps ..)); case hs => rfl)
    | split

theorem endStep_keeps (s : State) (a1 : Nat) : Kept [.dict, .mem, .tiles, .images, .sync, .works, .traceAt] s (endStep s a1) := by
  unfold endStep
  have h0 := Kept.refl [.dict, .mem, .tiles, .images, .sync, .works, .traceAt] s
  repeat' first
    | with_reducible assumption
    | with_reducible apply Kept.ite
    | ((with_reducible apply Kept.by (deliver_keeps ..)); case hs => rfl)
    | ((with_reducible apply Kept.by (reportPart_keeps ..)); case hs => rfl)
    | ((with_reducible apply Kept.by (traceRecord_keeps ..)); case hs => rfl)
    | dsimp only
    | split

theorem scaddrStep_keeps (s : State) (a1 : Nat) : Kept tileCommandParts s (scaddrStep s a1) := by
  unfold scaddrStep
  have h0 := Kept.refl tileCommandParts s
  repeat' first
    | with_reducible assumption
    | with_reducible apply Kept.ite
    | ((with_reducible apply Kept.by (refusePart_keeps ..)); case hs => rfl)
    | ((with_reducible apply Kept.by (retireCmd_keeps ..)); case hs => rfl)
    | dsimp only
    | split
    | ((with_reducible refine Kept.upd ?_ (fun p hp => ?_)); rotate_left; (cases p <;> first | exact absurd (by decide) hp | rfl); with_reducible assumption)

theorem startDesc_keeps (s : State) (a1 : Nat) (a2 : Nat) : Kept [.tiles, .images, .works, .free] s (startDesc s a1 a2) := by
  unfold startDesc
  have h0 := Kept.refl [.tiles, .images, .works, .free] s
  repeat' first
    | with_reducible assumption
    | (extract_lets +onlyGivenNames x; clear_value x)
    | with_reducible apply Kept.ite
    | ((with_reducible apply Kept.by (refusePart_keeps ..)); case hs => rfl)
    | ((with_reducible apply Kept.by (putTile_keeps ..)); case hs => rfl)
    | ((with_reducible apply Kept.by (fresh_snd_keeps ..)); case hs => rfl)
    | dsimp only
    | split

theorem moveDesc_keeps (s : State) (a1 : Nat) (a2 : QDesc) : Kept [.mem, .tiles] s (moveDesc s a1 a2) := by
  unfold moveDesc
  have h0 := Kept.refl [.mem, .tiles] s
  repeat' first
    | with_reducible assumption
    | (extract_lets +onlyGivenNames x; clear_value x)
    | with_reducible apply Kept.ite
    | ((with_reducible apply Kept.by (putTile_keeps ..)); case hs => rfl)
    | ((with_reducible refine Kept.upd ?_ (fun p hp => ?_)); rotate_left; (cases p <;> first | exact absurd (by decide) hp | rfl); with_reducible assumption)

theorem completeDesc_keeps (s : State) (a1 : Nat) (a2 : Nat) : Kept [.mem, .tiles, .sync, .works] s (completeDesc s a1 a2) := by
  unfold completeDesc
  have h0 := Kept.refl [.mem, .tiles, .sync, .works] s
  repeat' first
    | with_reducible assumption
    | with_reducible apply Kept.ite
    | ((with_reducible apply Kept.by (moveDesc_keeps ..)); case hs => rfl)
    | ((with_reducible apply Kept.by (putTile_keeps ..)); case hs => rfl)
    | ((with_reducible apply Kept.by (deliver_keeps ..)); case hs => rfl)
    | dsimp only
    | split

theorem allocSync_keeps (s : State) (a1 : WorkId) : Kept [.sync, .syncWins] s (allocSync s a1) := by
  unfold allocSync
  have h0 := Kept.refl [.sync, .syncWins] s
  repeat' first
    | with_reducible assumption
    | with_reducible apply Kept.ite
    | dsimp only
    | split
    | ((with_reducible refine Kept.upd ?_ (fun p hp => ?_)); rotate_left; (cases p <;> first | exact absurd (by decide) hp | rfl); with_reducible assumption)

theorem releaseSync_keeps (s : State) (a1 : WorkId) : Kept [.syncWins] s (releaseSync s a1) := by
  unfold releaseSync
  have h0 := Kept.refl [.syncWins] s
  repeat' first
    | with_reducible assumption
    | (extract_lets +onlyGivenNames x; clear_value x)
    | with_reducible apply Kept.ite
    | ((with_reducible refine Kept.upd ?_ (fun p hp => ?_)); rotate_left; (cases p <;> first | exact absurd (by decide) hp | rfl); with_reducible assumption)

theorem startPart_keeps (s : State) (a1 : Nat) (a2 : Work) (a3 : Pkg) (a4 : PartPlan) : Kept [.tiles, .images, .works] s (startPart s a1 a2 a3 a4) := by
  unfold startPart
  have h0 := Kept.refl [.tiles, .images, .works] s
  repeat' first
    | with_reducible assumption
    | (extract_lets +onlyGivenNames x; (refine Kept.cutAA x ?_ (fun hx => ?_)); subst x; rotate_left; clear_value x)
    | (extract_lets +onlyGivenNames x; (have hf := fun y => x y); clear hf; subst x)
    | (extract_lets +onlyGivenNames x; clear_value x)
    | ((with_reducible apply Kept.by (putWork_keeps ..)); case hs => rfl)
    | ((with_reducible apply Kept.by (putTile_keeps ..)); case hs => rfl)
    | ((with_reducible apply Kept.by (reportPart_keeps ..)); case hs => rfl)
    | dsimp only
    | split

theorem dispatchPart_keeps (s : State) (a1 : Nat) (a2 : WorkId) (a3 : Nat) : Kept [.tiles, .images, .works] s (dispatchPart s a1 a2 a3) := by
  unfold dispatchPart
  have h0 := Kept.refl [.tiles, .images, .works] s
  repeat' first
    | with_reducible assumption
    | (extract_lets +onlyGivenNames x; clear_value x)
    | with_reducible apply Kept.ite
    | ((with_reducible apply Kept.by (startPart_keeps ..)); case hs => rfl)
    | split

theorem retireTile_keeps (s : State) (a1 : Nat) : Kept [.dict, .ctl, .tiles, .libero, .works] s (retireTile s a1) := by
  unfold retireTile
  have h0 := Kept.refl [.dict, .ctl, .tiles, .libero, .works] s
  repeat' first
    | with_reducible assumption
    | (extract_lets +onlyGivenNames x; (refine Kept.cutAA x ?_ (fun hx => ?_)); subst x; rotate_left; clear_value x)
    | (extract_lets +onlyGivenNames x; clear_value x)
    | with_reducible apply Kept.ite
    | ((with_reducible apply Kept.by (setBlob_keeps ..)); case hs => rfl)
    | ((with_reducible apply Kept.by (putTile_keeps ..)); case hs => rfl)
    | ((with_reducible apply Kept.by (addJournal_keeps ..)); case hs => rfl)
    | ((with_reducible apply Kept.by (logFault_keeps ..)); case hs => rfl)
    | split
    | ((with_reducible refine Kept.upd ?_ (fun p hp => ?_)); rotate_left; (cases p <;> first | exact absurd (by decide) hp | rfl); with_reducible assumption)

theorem faultTile_keeps (s : State) (a1 : Nat) : Kept [.dict, .ctl, .tiles, .libero, .works] s (faultTile s a1) := by
  unfold faultTile
  have h0 := Kept.refl [.dict, .ctl, .tiles, .libero, .works] s
  repeat' first
    | with_reducible assumption
    | (extract_lets +onlyGivenNames x; (refine Kept.cutAA x ?_ (fun hx => ?_)); subst x; rotate_left; clear_value x)
    | (extract_lets +onlyGivenNames x; clear_value x)
    | with_reducible apply Kept.ite
    | ((with_reducible apply Kept.by (logFault_keeps ..)); case hs => rfl)
    | ((with_reducible apply Kept.by (putWork_keeps ..)); case hs => rfl)
    | ((with_reducible apply Kept.by (putTile_keeps ..)); case hs => rfl)
    | ((with_reducible apply Kept.by (retireLater_keeps ..)); case hs => rfl)
    | ((with_reducible apply Kept.by (retireTile_keeps ..)); case hs => rfl)
    | dsimp only
    | split

theorem fillWindow_keeps (s : State) (a1 : Nat) (a2 : Nat) : Kept [.cache, .windows] s (fillWindow s a1 a2) := by
  unfold fillWindow
  have h0 := Kept.refl [.cache, .windows] s
  repeat' first
    | with_reducible assumption
    | with_reducible apply Kept.ite
    | split
    | ((with_reducible refine Kept.upd ?_ (fun p hp => ?_)); rotate_left; (cases p <;> first | exact absurd (by decide) hp | rfl); with_reducible assumption)

theorem stopPart_keeps (s : State) (a1 : Nat) : Kept [.tiles, .images] s (stopPart s a1) := by
  unfold stopPart
  have h0 := Kept.refl [.tiles, .images] s
  repeat' first
    | with_reducible assumption
    | (extract_lets +onlyGivenNames x; clear_value x)
    | with_reducible apply Kept.ite
    | ((with_reducible apply Kept.by (putTile_keeps ..)); case hs => rfl)
    | dsimp only
    | split
    | ((with_reducible refine Kept.upd ?_ (fun p hp => ?_)); rotate_left; (cases p <;> first | exact absurd (by decide) hp | rfl); with_reducible assumption)

end Sys2Proof.Machine
end

