-- ==== Sys2Proof/Laws/KeepEntropy.lean ====
section
/-! SUPPORT. Which parts of the state each operation of Machine/Entropy.lean may change. -/
namespace Sys2Proof.Machine
open Sys2Proof
seal findObj defaultOf getReg getBlob

theorem writeSegment_keeps (s : State) (a1 : Work) (a2 : SegRec) (a3 : Bool) (a4 : SegOut) : Kept [.mem] s (writeSegment s a1 a2 a3 a4) := by
  unfold writeSegment
  have h0 := Kept.refl [.mem] s
  repeat' first
    | (extract_lets +onlyGivenNames x; clear_value x)
    | ((with_reducible refine Kept.upd ?_ (fun p hp => ?_)); rotate_left; (cases p <;> first | exact absurd (by decide) hp | rfl); with_reducible assumption)

theorem usePocket_keeps (s : State) (a1 : Work) (a2 : SegRec) (a3 : Nat) (a4 : Nat) (a5 : SegOut) : Kept [.dict, .lanes] s (usePocket s a1 a2 a3 a4 a5) := by
  unfold usePocket
  have h0 := Kept.refl [.dict, .lanes] s
  repeat' first
    | with_reducible assumption
    | (extract_lets +onlyGivenNames x; (have hf := fun y => x y); clear hf; subst x)
    | ((with_reducible apply Kept.by (addReg_keeps ..)); case hs => rfl)
    | ((with_reducible apply Kept.by (putLane_keeps ..)); case hs => rfl)

theorem failSegment_keeps (s : State) (a1 : Work) (a2 : Pkg) (a3 : SegRec) (a4 : Nat) (a5 : Nat) (a6 : SegOut) : Kept [.dict, .mem, .ctl, .sync, .works] s (failSegment s a1 a2 a3 a4 a5 a6) := by
  unfold failSegment
  have h0 := Kept.refl [.dict, .mem, .ctl, .sync, .works] s
  repeat' first
    | with_reducible assumption
    | (extract_lets +onlyGivenNames x; (refine Kept.cutAA x ?_ (fun hx => ?_)); subst x; rotate_left; clear_value x)
    | (extract_lets +onlyGivenNames x; clear_value x)
    | with_reducible apply Kept.ite
    | ((with_reducible apply Kept.by (addReg_keeps ..)); case hs => rfl)
    | ((with_reducible apply Kept.by (writeSegment_keeps ..)); case hs => rfl)
    | ((with_reducible apply Kept.by (deliver_keeps ..)); case hs => rfl)
    | ((with_reducible apply Kept.by (putWork_keeps ..)); case hs => rfl)
    | ((with_reducible apply Kept.by (logFault_keeps ..)); case hs => rfl)
    | split
    | ((with_reducible refine Kept.upd ?_ (fun p hp => ?_)); rotate_left; (cases p <;> first | exact absurd (by decide) hp | rfl); with_reducible assumption)

theorem commitSegment_keeps (s : State) (a1 : Work) (a2 : Pkg) (a3 : SegRec) (a4 : Nat) (a5 : Nat) (a6 : Bool) (a7 : SegOut) : Kept [.mem, .sync, .works] s (commitSegment s a1 a2 a3 a4 a5 a6 a7) := by
  unfold commitSegment
  have h0 := Kept.refl [.mem, .sync, .works] s
  repeat' first
    | with_reducible assumption
    | (extract_lets +onlyGivenNames x; (refine Kept.cutAA x ?_ (fun hx => ?_)); subst x; rotate_left; clear_value x)
    | with_reducible apply Kept.ite
    | ((with_reducible apply Kept.by (writeSegment_keeps ..)); case hs => rfl)
    | ((with_reducible apply Kept.by (deliver_keeps ..)); case hs => rfl)
    | ((with_reducible apply Kept.by (putWork_keeps ..)); case hs => rfl)
    | split

theorem endSegment_keeps (s : State) (a1 : Work) (a2 : Pkg) (a3 : SegRec) (a4 : Nat) (a5 : Nat) (a6 : Bool) (a7 : Nat) (a8 : SegOut) : Kept [.dict, .mem, .ctl, .sync, .lanes, .works] s (endSegment s a1 a2 a3 a4 a5 a6 a7 a8) := by
  unfold endSegment
  have h0 := Kept.refl [.dict, .mem, .ctl, .sync, .lanes, .works] s
  repeat' first
    | with_reducible assumption
    | (extract_lets +onlyGivenNames x; (refine Kept.cutAA x ?_ (fun hx => ?_)); subst x; rotate_left; clear_value x)
    | with_reducible apply Kept.ite
    | ((with_reducible apply Kept.by (usePocket_keeps ..)); case hs => rfl)
    | ((with_reducible apply Kept.by (commitSegment_keeps ..)); case hs => rfl)
    | ((with_reducible apply Kept.by (failSegment_keeps ..)); case hs => rfl)

theorem encodeStep_keeps (s : State) (a1 : Nat) (a2 : WorkId) (a3 : Nat) : Kept [.dict, .mem, .ctl, .sync, .lanes, .works] s (encodeStep s a1 a2 a3) := by
  unfold encodeStep
  have h0 := Kept.refl [.dict, .mem, .ctl, .sync, .lanes, .works] s
  repeat' first
    | with_reducible assumption
    | ((with_reducible apply Kept.by (putWork_keeps ..)); case hs => rfl)
    | ((with_reducible apply Kept.by (endSegment_keeps ..)); case hs => rfl)
    | dsimp only
    | split

theorem decodeStep_keeps (s : State) (a1 : Nat) (a2 : WorkId) (a3 : Nat) : Kept [.dict, .mem, .ctl, .sync, .lanes, .works] s (decodeStep s a1 a2 a3) := by
  unfold decodeStep
  have h0 := Kept.refl [.dict, .mem, .ctl, .sync, .lanes, .works] s
  repeat' first
    | with_reducible assumption
    | ((with_reducible apply Kept.by (putWork_keeps ..)); case hs => rfl)
    | ((with_reducible apply Kept.by (endSegment_keeps ..)); case hs => rfl)
    | dsimp only
    | split

theorem retireLane_keeps (s : State) (a1 : Nat) : Kept [.dict, .ctl, .lanes] s (retireLane s a1) := by
  unfold retireLane
  have h0 := Kept.refl [.dict, .ctl, .lanes] s
  repeat' first
    | with_reducible assumption
    | (extract_lets +onlyGivenNames x; (refine Kept.cutAA x ?_ (fun hx => ?_)); subst x; rotate_left; clear_value x)
    | (extract_lets +onlyGivenNames x; clear_value x)
    | with_reducible apply Kept.ite
    | ((with_reducible apply Kept.by (retireLater_keeps ..)); case hs => rfl)
    | ((with_reducible apply Kept.by (setReg_keeps ..)); case hs => rfl)
    | ((with_reducible apply Kept.by (putLane_keeps ..)); case hs => rfl)
    | ((with_reducible apply Kept.by (logFault_keeps ..)); case hs => rfl)
    | ((with_reducible apply Kept.by (addJournal_keeps ..)); case hs => rfl)

theorem restartSegment_keeps (s : State) (a1 : Nat) (a2 : Option (Work × Nat × Pkg × SegRec)) : Kept [.works] s (restartSegment s a1 a2) := by
  unfold restartSegment
  have h0 := Kept.refl [.works] s
  repeat' first
    | with_reducible assumption
    | ((with_reducible apply Kept.by (putWork_keeps ..)); case hs => rfl)
    | split

theorem faultLane_keeps (s : State) (a1 : Nat) : Kept [.dict, .ctl, .lanes, .works] s (faultLane s a1) := by
  unfold faultLane
  have h0 := Kept.refl [.dict, .ctl, .lanes, .works] s
  repeat' first
    | with_reducible assumption
    | (extract_lets +onlyGivenNames x; (refine Kept.cutAA x ?_ (fun hx => ?_)); subst x; rotate_left; clear_value x)
    | (extract_lets +onlyGivenNames x; clear_value x)
    | with_reducible apply Kept.ite
    | ((with_reducible apply Kept.by (restartSegment_keeps ..)); case hs => rfl)
    | ((with_reducible apply Kept.by (logFault_keeps ..)); case hs => rfl)
    | ((with_reducible apply Kept.by (putLane_keeps ..)); case hs => rfl)
    | ((with_reducible apply Kept.by (retireLane_keeps ..)); case hs => rfl)

end Sys2Proof.Machine
end

