-- ==== Sys2Proof/Laws/KeepTables.lean ====
section
/-! SUPPORT. Which parts of the state each operation of Machine/Tables.lean may change. -/
namespace Sys2Proof.Machine
open Sys2Proof
seal findObj defaultOf getReg getBlob

theorem diesCommand_keeps {ps : List Sys2Proof.Part} {r : State} (s : State) (f : State → Bool → State)
    (hs : (([.free] : List Sys2Proof.Part).all fun p => ps.contains p) = true) (h : ∀ t b, Kept ps t (f t b)) (hk : Kept ps r s) :
    Kept ps r (diesCommand s f) := Kept.trans (Kept.by (fresh_snd_keeps s) hs hk) (h _ _)

theorem composeChange_keeps (s : State) (a1 : CdfChange) : Kept [.lanes, .cdf] s (composeChange s a1) := by
  unfold composeChange
  have h0 := Kept.refl [.lanes, .cdf] s
  repeat' first
    | (extract_lets +onlyGivenNames x; clear_value x)
    | dsimp only
    | ((with_reducible refine Kept.upd ?_ (fun p hp => ?_)); rotate_left; (cases p <;> first | exact absurd (by decide) hp | rfl); with_reducible assumption)

theorem nextChange_keeps (s : State) : Kept [.lanes, .cdf] s (nextChange s) := by
  unfold nextChange
  have h0 := Kept.refl [.lanes, .cdf] s
  repeat' first
    | with_reducible assumption
    | (extract_lets +onlyGivenNames x; clear_value x)
    | with_reducible apply Kept.ite
    | ((with_reducible apply Kept.by (composeChange_keeps ..)); case hs => rfl)
    | split
    | ((with_reducible refine Kept.upd ?_ (fun p hp => ?_)); rotate_left; (cases p <;> first | exact absurd (by decide) hp | rfl); with_reducible assumption)

theorem packageChange_keeps (s : State) (a1 : CdfChange) : Kept [.lanes, .cdf] s (packageChange s a1) := by
  unfold packageChange
  have h0 := Kept.refl [.lanes, .cdf] s
  repeat' first
    | (extract_lets +onlyGivenNames x; clear_value x)
    | ((with_reducible apply Kept.by (nextChange_keeps ..)); case hs => rfl)
    | ((with_reducible refine Kept.upd ?_ (fun p hp => ?_)); rotate_left; (cases p <;> first | exact absurd (by decide) hp | rfl); with_reducible assumption)

theorem cdfStatus_keeps (s : State) (a1 : Nat) : Kept [.dict, .cdf] s (cdfStatus s a1) := by
  unfold cdfStatus
  have h0 := Kept.refl [.dict, .cdf] s
  repeat' first
    | (extract_lets +onlyGivenNames x; clear_value x)
    | ((with_reducible apply Kept.by (setReg_keeps ..)); case hs => rfl)
    | ((with_reducible refine Kept.upd ?_ (fun p hp => ?_)); rotate_left; (cases p <;> first | exact absurd (by decide) hp | rfl); with_reducible assumption)

theorem addTableSet_keeps (s : State) (a1 : Bool) : Kept [.dict, .lanes, .cdf] s (addTableSet s a1) := by
  unfold addTableSet
  have h0 := Kept.refl [.dict, .lanes, .cdf] s
  repeat' first
    | with_reducible assumption
    | (extract_lets +onlyGivenNames x; clear_value x)
    | with_reducible apply Kept.ite
    | ((with_reducible apply Kept.by (cdfStatus_keeps ..)); case hs => rfl)
    | ((with_reducible apply Kept.by (composeChange_keeps ..)); case hs => rfl)
    | dsimp only
    | split

theorem removeTableSet_keeps (s : State) (a1 : Bool) : Kept [.dict, .lanes, .cdf] s (removeTableSet s a1) := by
  unfold removeTableSet
  have h0 := Kept.refl [.dict, .lanes, .cdf] s
  repeat' first
    | with_reducible assumption
    | (extract_lets +onlyGivenNames x; clear_value x)
    | with_reducible apply Kept.ite
    | ((with_reducible apply Kept.by (cdfStatus_keeps ..)); case hs => rfl)
    | ((with_reducible apply Kept.by (composeChange_keeps ..)); case hs => rfl)

theorem setSlotState_keeps (s : State) (a1 : Nat) (a2 : Nat) : Kept [.dict] s (setSlotState s a1 a2) := by
  unfold setSlotState
  have h0 := Kept.refl [.dict] s
  repeat' first
    | with_reducible assumption
    | ((with_reducible apply Kept.by (setReg_keeps ..)); case hs => rfl)

theorem setSlotStatus_keeps (s : State) (a1 : Nat) (a2 : Nat) : Kept [.dict] s (setSlotStatus s a1 a2) := by
  unfold setSlotStatus
  have h0 := Kept.refl [.dict] s
  repeat' first
    | with_reducible assumption
    | ((with_reducible apply Kept.by (setReg_keeps ..)); case hs => rfl)

theorem packageTablesDone_keeps (s : State) (a1 : Nat) : Kept [.dict, .pkgs, .queue] s (packageTablesDone s a1) := by
  unfold packageTablesDone
  have h0 := Kept.refl [.dict, .pkgs, .queue] s
  repeat' first
    | with_reducible assumption
    | (extract_lets +onlyGivenNames x; (refine Kept.cutAA x ?_ (fun hx => ?_)); subst x; rotate_left; clear_value x)
    | with_reducible apply Kept.ite
    | ((with_reducible apply Kept.by (setSlotStatus_keeps ..)); case hs => rfl)
    | ((with_reducible apply Kept.by (setSlotState_keeps ..)); case hs => rfl)
    | dsimp only
    | ((with_reducible refine Kept.upd ?_ (fun p hp => ?_)); rotate_left; (cases p <;> first | exact absurd (by decide) hp | rfl); with_reducible assumption)

theorem swapBanks_keeps (s : State) : Kept [.dict, .lanes, .cdf, .pkgs, .queue] s (swapBanks s) := by
  unfold swapBanks
  have h0 := Kept.refl [.dict, .lanes, .cdf, .pkgs, .queue] s
  repeat' first
    | with_reducible assumption
    | (extract_lets +onlyGivenNames x; (refine Kept.cutAA x ?_ (fun hx => ?_)); subst x; rotate_left; clear_value x)
    | (extract_lets +onlyGivenNames x; clear_value x)
    | with_reducible apply Kept.ite
    | ((with_reducible apply Kept.by (cdfStatus_keeps ..)); case hs => rfl)
    | ((with_reducible apply Kept.by (packageTablesDone_keeps ..)); case hs => rfl)
    | ((with_reducible apply Kept.by (nextChange_keeps ..)); case hs => rfl)
    | dsimp only
    | split
    | ((with_reducible refine Kept.upd ?_ (fun p hp => ?_)); rotate_left; (cases p <;> first | exact absurd (by decide) hp | rfl); with_reducible assumption)

theorem freeBank_keeps (s : State) (a1 : Nat) : Kept [.lanes, .cdf] s (freeBank s a1) := by
  unfold freeBank
  have h0 := Kept.refl [.lanes, .cdf] s
  repeat' first
    | with_reducible assumption
    | (extract_lets +onlyGivenNames x; clear_value x)
    | with_reducible apply Kept.ite
    | ((with_reducible apply Kept.by (nextChange_keeps ..)); case hs => rfl)
    | ((with_reducible refine Kept.upd ?_ (fun p hp => ?_)); rotate_left; (cases p <;> first | exact absurd (by decide) hp | rfl); with_reducible assumption)

theorem putFnSlot_keeps (s : State) (a1 : Nat) (a2 : FnSlot) : Kept [.fns] s (putFnSlot s a1 a2) := by
  unfold putFnSlot
  have h0 := Kept.refl [.fns] s
  repeat' first
    | ((with_reducible refine Kept.upd ?_ (fun p hp => ?_)); rotate_left; (cases p <;> first | exact absurd (by decide) hp | rfl); with_reducible assumption)

theorem fnStatus_keeps (s : State) (a1 : Nat) : Kept [.dict, .fns] s (fnStatus s a1) := by
  unfold fnStatus
  have h0 := Kept.refl [.dict, .fns] s
  repeat' first
    | ((with_reducible apply Kept.by (setReg_keeps ..)); case hs => rfl)
    | dsimp only
    | ((with_reducible refine Kept.upd ?_ (fun p hp => ?_)); rotate_left; (cases p <;> first | exact absurd (by decide) hp | rfl); with_reducible assumption)

theorem fnPending_keeps (s : State) (a1 : Nat) (a2 : Option FnTable) : Kept [.dict, .fns] s (fnPending s a1 a2) := by
  unfold fnPending
  have h0 := Kept.refl [.dict, .fns] s
  repeat' first
    | with_reducible assumption
    | (extract_lets +onlyGivenNames x; (refine Kept.cutAA x ?_ (fun hx => ?_)); subst x; rotate_left; clear_value x)
    | (extract_lets +onlyGivenNames x; clear_value x)
    | ((with_reducible apply Kept.by (fnStatus_keeps ..)); case hs => rfl)
    | ((with_reducible apply Kept.by (putFnSlot_keeps ..)); case hs => rfl)

theorem loadFunction_keeps (s : State) (a1 : Bool) : Kept [.dict, .fns] s (loadFunction s a1) := by
  unfold loadFunction
  have h0 := Kept.refl [.dict, .fns] s
  repeat' first
    | with_reducible assumption
    | (extract_lets +onlyGivenNames x; clear_value x)
    | with_reducible apply Kept.ite
    | ((with_reducible apply Kept.by (fnStatus_keeps ..)); case hs => rfl)
    | ((with_reducible apply Kept.by (fnPending_keeps ..)); case hs => rfl)
    | dsimp only
    | split

theorem unloadFunction_keeps (s : State) : Kept [.dict, .fns] s (unloadFunction s) := by
  unfold unloadFunction
  have h0 := Kept.refl [.dict, .fns] s
  repeat' first
    | with_reducible assumption
    | (extract_lets +onlyGivenNames x; clear_value x)
    | with_reducible apply Kept.ite
    | ((with_reducible apply Kept.by (fnStatus_keeps ..)); case hs => rfl)
    | ((with_reducible apply Kept.by (fnPending_keeps ..)); case hs => rfl)

theorem switchFunction_keeps (s : State) (a1 : Nat) : Kept [.dict, .fns, .works] s (switchFunction s a1) := by
  unfold switchFunction
  have h0 := Kept.refl [.dict, .fns, .works] s
  repeat' first
    | with_reducible assumption
    | (extract_lets +onlyGivenNames x; clear_value x)
    | with_reducible apply Kept.ite
    | ((with_reducible apply Kept.by (fnStatus_keeps ..)); case hs => rfl)
    | dsimp only
    | split
    | ((with_reducible refine Kept.upd ?_ (fun p hp => ?_)); rotate_left; (cases p <;> first | exact absurd (by decide) hp | rfl); ((with_reducible apply Kept.by (putFnSlot_keeps ..)); case hs => rfl))

theorem releaseFunction_keeps (s : State) (a1 : Nat) : Kept [.fns] s (releaseFunction s a1) := by
  unfold releaseFunction
  have h0 := Kept.refl [.fns] s
  repeat' first
    | with_reducible assumption
    | (extract_lets +onlyGivenNames x; clear_value x)
    | with_reducible apply Kept.ite
    | ((with_reducible apply Kept.by (putFnSlot_keeps ..)); case hs => rfl)

end Sys2Proof.Machine
end

