-- ==== Sys2Proof/Laws/KeepPackages.lean ====
section
/-! SUPPORT. Which parts of the state each operation of Machine/Packages.lean may change. -/
namespace Sys2Proof.Machine
open Sys2Proof
seal findObj defaultOf getReg getBlob

theorem acceptLoad_keeps (s : State) (a1 : Nat) : Kept [.dict, .queue] s (acceptLoad s a1) := by
  unfold acceptLoad
  have h0 := Kept.refl [.dict, .queue] s
  repeat' first
    | with_reducible assumption
    | (extract_lets +onlyGivenNames x; (refine Kept.cutAA x ?_ (fun hx => ?_)); subst x; rotate_left; clear_value x)
    | (extract_lets +onlyGivenNames x; clear_value x)
    | with_reducible apply Kept.ite
    | ((with_reducible apply Kept.by (setSlotStatus_keeps ..)); case hs => rfl)
    | ((with_reducible apply Kept.by (setSlotState_keeps ..)); case hs => rfl)
    | ((with_reducible refine Kept.upd ?_ (fun p hp => ?_)); rotate_left; (cases p <;> first | exact absurd (by decide) hp | rfl); with_reducible assumption)

theorem bindFn_keeps (a0 : Nat) (s : State) (a2 : Nat × FnTable) : Kept [.fns] s (bindFn a0 s a2) := by
  unfold bindFn
  have h0 := Kept.refl [.fns] s
  repeat' first
    | with_reducible assumption
    | (extract_lets +onlyGivenNames x; clear_value x)
    | with_reducible apply Kept.ite
    | ((with_reducible apply Kept.by (putFnSlot_keeps ..)); case hs => rfl)

theorem showPackage_keeps (s : State) (a1 : Nat) (a2 : Option Pkg) : Kept [.dict, .fabric, .out] s (showPackage s a1 a2) := by
  unfold showPackage
  have h0 := Kept.refl [.dict, .fabric, .out] s
  repeat' first
    | with_reducible assumption
    | (extract_lets +onlyGivenNames x; (refine Kept.cutAA x ?_ (fun hx => ?_)); subst x; rotate_left; clear_value x)
    | (extract_lets +onlyGivenNames x; (have hf := fun y => x y); clear hf; subst x)
    | (extract_lets +onlyGivenNames x; clear_value x)
    | ((with_reducible apply Kept.by (setReg_keeps ..)); case hs => rfl)
    | ((with_reducible apply Kept.by (toMirror_keeps ..)); case hs => rfl)
    | ((with_reducible apply Kept.by (setBlob_keeps ..)); case hs => rfl)

/-- The parts that `runLoad` may change. -/
def runLoadParts : List Sys2Proof.Part :=
  .dict :: .mem :: .lanes :: .cdf :: .fns :: .pkgs :: .queue :: .allocs :: .fabric :: .out :: .free :: []

theorem runLoad_keeps (s : State) (a1 : Nat) (a2 : Nat) (a3 : Nat) (a4 : Bool) : KeptE runLoadParts s (runLoad s a1 a2 a3 a4) := by
  unfold runLoad
  have h0 := Kept.refl runLoadParts s
  repeat' first
    | with_reducible assumption
    | (extract_lets +onlyGivenNames x; (have hf := fun y => x y); clear hf; subst x)
    | (extract_lets +onlyGivenNames x; clear_value x)
    | with_reducible apply KeptE.error
    | with_reducible apply KeptE.ok
    | with_reducible apply KeptE.ite
    | (with_reducible apply KeptE.bind; (intro a; skip))
    | ((with_reducible apply Kept.by (showPackage_keeps ..)); case hs => rfl)
    | ((with_reducible apply Kept.by (bindFn_keeps ..)); case hs => rfl)
    | ((with_reducible apply Kept.by (setSlotState_keeps ..)); case hs => rfl)
    | ((with_reducible apply Kept.by (packageChange_keeps ..)); case hs => rfl)
    | (with_reducible apply Kept.foldl; (intro t a; have h1 := Kept.refl runLoadParts t))
    | dsimp only
    | split
    | ((with_reducible refine Kept.upd ?_ (fun p hp => ?_)); rotate_left; (cases p <;> first | exact absurd (by decide) hp | rfl); (first | ((with_reducible apply Kept.by (reserve_keeps (by assumption))); case hs => rfl) | ((with_reducible apply Kept.by (setSlotStatus_keeps ..)); case hs => rfl)))

theorem applyKey_keeps (s : State) (a1 : Origin) (a2 : Nat) (a3 : Nat) : Kept [.dict, .ctl] s (applyKey s a1 a2 a3) := by
  unfold applyKey
  have h0 := Kept.refl [.dict, .ctl] s
  repeat' first
    | with_reducible assumption
    | (extract_lets +onlyGivenNames x; (refine Kept.cutAA x ?_ (fun hx => ?_)); subst x; rotate_left; clear_value x)
    | (extract_lets +onlyGivenNames x; clear_value x)
    | ((with_reducible apply Kept.by (setReg_keeps ..)); case hs => rfl)
    | ((with_reducible apply Kept.by (setBlob_keeps ..)); case hs => rfl)
    | ((with_reducible apply Kept.by (addReg_keeps ..)); case hs => rfl)
    | split
    | ((with_reducible refine Kept.upd ?_ (fun p hp => ?_)); rotate_left; (cases p <;> first | exact absurd (by decide) hp | rfl); with_reducible assumption)

theorem startUnload_keeps (s : State) (a1 : Nat) : Kept [.dict, .lanes, .cdf, .pkgs, .queue] s (startUnload s a1) := by
  unfold startUnload
  have h0 := Kept.refl [.dict, .lanes, .cdf, .pkgs, .queue] s
  repeat' first
    | with_reducible assumption
    | with_reducible apply Kept.ite
    | ((with_reducible apply Kept.by (packageTablesDone_keeps ..)); case hs => rfl)
    | ((with_reducible apply Kept.by (packageChange_keeps ..)); case hs => rfl)
    | dsimp only
    | split

theorem advanceQueue_keeps (a0 : Nat) (s : State) : Kept [.dict, .ctl, .lanes, .cdf, .pkgs, .queue] s (advanceQueue a0 s) := by
  induction a0 generalizing s with
  | zero =>
    unfold advanceQueue
    have h0 := Kept.refl [.dict, .ctl, .lanes, .cdf, .pkgs, .queue] s
    repeat' first
    | with_reducible assumption
  | succ n ih =>
    unfold advanceQueue
    have h0 := Kept.refl [.dict, .ctl, .lanes, .cdf, .pkgs, .queue] s
    repeat' first
    | with_reducible apply Kept.trans _ (ih ..)
    | with_reducible assumption
    | ((with_reducible apply Kept.by (applyKey_keeps ..)); case hs => rfl)
    | ((with_reducible apply Kept.by (startUnload_keeps ..)); case hs => rfl)
    | split
    | ((with_reducible refine Kept.upd ?_ (fun p hp => ?_)); rotate_left; (cases p <;> first | exact absurd (by decide) hp | rfl); with_reducible assumption)

theorem pumpQueue_keeps (s : State) : Kept [.dict, .ctl, .lanes, .cdf, .pkgs, .queue] s (pumpQueue s) := by
  unfold pumpQueue
  have h0 := Kept.refl [.dict, .ctl, .lanes, .cdf, .pkgs, .queue] s
  repeat' first
    | with_reducible assumption
    | ((with_reducible apply Kept.by (advanceQueue_keeps ..)); case hs => rfl)



/-- The parts that `endLoad` may change. -/
def endLoadParts : List Sys2Proof.Part :=
  .dict :: .mem :: .ctl :: .lanes :: .cdf :: .fns :: .pkgs :: .queue :: .allocs :: .fabric :: .out :: .free :: []

theorem endLoad_keeps (s : State) (a1 : Nat) (a2 : List QueueItem) (a3 : Except Nat State) (h : KeptE endLoadParts s a3) :
    Kept endLoadParts s (endLoad s a1 a2 a3) := by
  unfold endLoad
  split
  next t =>
    have ht : Kept endLoadParts s t := KeptE.elim h rfl
    exact Kept.ite (Kept.by (pumpQueue_keeps _) rfl ht) ht
  next st =>
    have h1 : Kept endLoadParts s (setSlotStatus (setSlotState s a1 0) a1 st) :=
      Kept.by (setSlotStatus_keeps _ _ _) rfl (Kept.by (setSlotState_keeps _ _ _) rfl (Kept.refl _ _))
    refine Kept.by (pumpQueue_keeps _) rfl (Kept.upd h1 fun p hp => ?_)
    cases p <;> first | exact absurd (by decide) hp | rfl

theorem runQueuedLoad_keeps (s : State) : Kept endLoadParts s (runQueuedLoad s) := by
  unfold runQueuedLoad
  split
  · refine Kept.ite (diesCommand_keeps s _ rfl (fun t b => endLoad_keeps _ _ _ _ fun u e => ?_) (Kept.refl _ _)) (Kept.refl _ _)
    exact Kept.by (KeptE.elim (runLoad_keeps _ _ _ _ _) e) rfl (Kept.refl _ _)
  · exact Kept.refl _ _

theorem acceptUnload_keeps (s : State) (a1 : Nat) : Kept [.dict, .ctl, .lanes, .cdf, .pkgs, .queue] s (acceptUnload s a1) := by
  unfold acceptUnload
  have h0 := Kept.refl [.dict, .ctl, .lanes, .cdf, .pkgs, .queue] s
  repeat' first
    | with_reducible assumption
    | (extract_lets +onlyGivenNames x; (refine Kept.cutAA x ?_ (fun hx => ?_)); subst x; rotate_left; clear_value x)
    | (extract_lets +onlyGivenNames x; clear_value x)
    | with_reducible apply Kept.ite
    | ((with_reducible apply Kept.by (setSlotStatus_keeps ..)); case hs => rfl)
    | ((with_reducible apply Kept.by (setSlotState_keeps ..)); case hs => rfl)
    | ((with_reducible apply Kept.by (pumpQueue_keeps ..)); case hs => rfl)
    | ((with_reducible refine Kept.upd ?_ (fun p hp => ?_)); rotate_left; (cases p <;> first | exact absurd (by decide) hp | rfl); with_reducible assumption)

/-- The parts that `finishUnload` may change. -/
def finishUnloadParts : List Sys2Proof.Part :=
  .dict :: .ctl :: .windows :: .lanes :: .cdf :: .fns :: .pkgs :: .queue :: .allocs :: .fabric :: .out :: []

theorem finishUnload_keeps (s : State) : Kept finishUnloadParts s (finishUnload s) := by
  unfold finishUnload
  have h0 := Kept.refl finishUnloadParts s
  repeat' first
    | with_reducible assumption
    | with_reducible apply Kept.ite
    | ((with_reducible apply Kept.by (pumpQueue_keeps ..)); case hs => rfl)
    | ((with_reducible apply Kept.by (setSlotStatus_keeps ..)); case hs => rfl)
    | ((with_reducible apply Kept.by (setSlotState_keeps ..)); case hs => rfl)
    | ((with_reducible apply Kept.by (showPackage_keeps ..)); case hs => rfl)
    | dsimp only
    | split
    | ((with_reducible refine Kept.upd ?_ (fun p hp => ?_)); rotate_left; (cases p <;> first | exact absurd (by decide) hp | rfl); ((with_reducible apply Kept.by (releaseRange_keeps ..)); case hs => rfl))

theorem acceptKey_keeps (s : State) (a1 : Origin) : Kept [.dict, .ctl, .lanes, .cdf, .pkgs, .queue] s (acceptKey s a1) := by
  unfold acceptKey
  have h0 := Kept.refl [.dict, .ctl, .lanes, .cdf, .pkgs, .queue] s
  repeat' first
    | with_reducible assumption
    | (extract_lets +onlyGivenNames x; (refine Kept.cutAA x ?_ (fun hx => ?_)); subst x; rotate_left; clear_value x)
    | (extract_lets +onlyGivenNames x; clear_value x)
    | with_reducible apply Kept.ite
    | ((with_reducible apply Kept.by (setReg_keeps ..)); case hs => rfl)
    | ((with_reducible apply Kept.by (pumpQueue_keeps ..)); case hs => rfl)
    | ((with_reducible refine Kept.upd ?_ (fun p hp => ?_)); rotate_left; (cases p <;> first | exact absurd (by decide) hp | rfl); with_reducible assumption)

theorem takeSwap_keeps (s : State) : Kept [.dict, .ctl, .lanes, .cdf, .pkgs, .queue] s (takeSwap s) := by
  unfold takeSwap
  have h0 := Kept.refl [.dict, .ctl, .lanes, .cdf, .pkgs, .queue] s
  repeat' first
    | with_reducible assumption
    | (extract_lets +onlyGivenNames x; clear_value x)
    | with_reducible apply Kept.ite
    | ((with_reducible apply Kept.by (pumpQueue_keeps ..)); case hs => rfl)
    | ((with_reducible apply Kept.by (swapBanks_keeps ..)); case hs => rfl)

/-- The parts that `tablesAtTick` may change. -/
def tablesAtTickParts : List Sys2Proof.Part :=
  .dict :: .ctl :: .lanes :: .cdf :: .fns :: .pkgs :: .queue :: .works :: []

theorem tablesAtTick_keeps (s : State) : Kept tablesAtTickParts s (tablesAtTick s) := by
  unfold tablesAtTick
  have h0 := Kept.refl tablesAtTickParts s
  repeat' first
    | with_reducible assumption
    | (extract_lets +onlyGivenNames x; (refine Kept.cutAA x ?_ (fun hx => ?_)); subst x; rotate_left; clear_value x)
    | with_reducible apply Kept.ite
    | ((with_reducible apply Kept.by (freeBank_keeps ..)); case hs => rfl)
    | ((with_reducible apply Kept.by (takeSwap_keeps ..)); case hs => rfl)
    | ((with_reducible apply Kept.by (switchFunction_keeps ..)); case hs => rfl)
    | (with_reducible apply Kept.foldl; (intro t a; have h1 := Kept.refl tablesAtTickParts t))

theorem packWindows_keeps (s : State) (a1 : Nat) : Kept [.cache, .windows] s (packWindows s a1) := by
  unfold packWindows
  have h0 := Kept.refl [.cache, .windows] s
  repeat' first
    | (extract_lets +onlyGivenNames x; clear_value x)
    | dsimp only
    | ((with_reducible refine Kept.upd ?_ (fun p hp => ?_)); rotate_left; (cases p <;> first | exact absurd (by decide) hp | rfl); with_reducible assumption)

theorem addWindow_keeps (s : State) (a1 : Nat) (a2 : Nat) (a3 : Nat) (a4 : Nat) : Kept [.windows] s (addWindow s a1 a2 a3 a4) := by
  unfold addWindow
  have h0 := Kept.refl [.windows] s
  repeat' first
    | ((with_reducible refine Kept.upd ?_ (fun p hp => ?_)); rotate_left; (cases p <;> first | exact absurd (by decide) hp | rfl); with_reducible assumption)

theorem placeWindow_keeps (s : State) (a1 : Nat) (a2 : Nat) : KeptO [.cache, .windows] s (placeWindow s a1 a2) := by
  have hp : Kept [.cache, .windows] s (packWindows s a1) := Kept.by (packWindows_keeps _ _) rfl (Kept.refl _ _)
  unfold placeWindow
  split
  · exact KeptO.some (Kept.refl _ _)
  · apply KeptO.ite (KeptO.some (Kept.refl _ _))
    rcases windowBase s a1 _ with _ | b
    · apply KeptO.mapAny
      intro b
      exact Kept.by (addWindow_keeps _ _ _ _ _) rfl hp
    · exact KeptO.some (Kept.by (addWindow_keeps _ _ _ _ _) rfl (Kept.refl _ _))

theorem releaseWindows_keeps (s : State) : Kept [.windows] s (releaseWindows s) := by
  unfold releaseWindows
  have h0 := Kept.refl [.windows] s
  repeat' first
    | (extract_lets +onlyGivenNames x; (have hf := fun y => x y); clear hf; subst x)
    | dsimp only
    | ((with_reducible refine Kept.upd ?_ (fun p hp => ?_)); rotate_left; (cases p <;> first | exact absurd (by decide) hp | rfl); with_reducible assumption)

end Sys2Proof.Machine
end

