-- ==== Sys2Proof/Laws/KeepWork.lean ====
section
/-! SUPPORT. Which parts of the state each operation of Machine/Work.lean may change. -/
namespace Sys2Proof.Machine
open Sys2Proof
seal findObj defaultOf getReg getBlob

theorem putFrame_keeps (s : State) (a1 : FrameEntry) : Kept [.frames] s (putFrame s a1) := by
  unfold putFrame
  have h0 := Kept.refl [.frames] s
  repeat' first
    | ((with_reducible refine Kept.upd ?_ (fun p hp => ?_)); rotate_left; (cases p <;> first | exact absurd (by decide) hp | rfl); with_reducible assumption)

theorem acceptFrame_keeps (s : State) (a1 : Nat) (a2 : Nat) : Kept [.frames] s (acceptFrame s a1 a2) := by
  unfold acceptFrame
  have h0 := Kept.refl [.frames] s
  repeat' first
    | ((with_reducible refine Kept.upd ?_ (fun p hp => ?_)); rotate_left; (cases p <;> first | exact absurd (by decide) hp | rfl); with_reducible assumption)

theorem setFrameState_keeps (s : State) (a1 : Nat) (a2 : Nat) (a3 : Nat) : Kept [.frames, .fabric, .out] s (setFrameState s a1 a2 a3) := by
  unfold setFrameState
  have h0 := Kept.refl [.frames, .fabric, .out] s
  repeat' first
    | with_reducible assumption
    | ((with_reducible apply Kept.by (toMirror_keeps ..)); case hs => rfl)
    | ((with_reducible apply Kept.by (putFrame_keeps ..)); case hs => rfl)
    | split

theorem freeFrame_keeps (s : State) (a1 : Nat) (a2 : Nat) : Kept [.frames, .allocs, .fabric, .out] s (freeFrame s a1 a2) := by
  unfold freeFrame
  have h0 := Kept.refl [.frames, .allocs, .fabric, .out] s
  repeat' first
    | with_reducible assumption
    | (extract_lets +onlyGivenNames x; (refine Kept.cutAA x ?_ (fun hx => ?_)); subst x; rotate_left; clear_value x)
    | ((with_reducible apply Kept.by (releaseRange_keeps ..)); case hs => rfl)
    | ((with_reducible apply Kept.by (toMirror_keeps ..)); case hs => rfl)
    | split
    | ((with_reducible refine Kept.upd ?_ (fun p hp => ?_)); rotate_left; (cases p <;> first | exact absurd (by decide) hp | rfl); with_reducible assumption)

theorem acceptInput_keeps (s : State) (a1 : Nat) (a2 : List Byte) (a3 : Nat) (a4 : Bool) (a5 : Bool) : Kept [.dict, .frames, .ctxs, .fabric, .out] s (acceptInput s a1 a2 a3 a4 a5) := by
  unfold acceptInput
  have h0 := Kept.refl [.dict, .frames, .ctxs, .fabric, .out] s
  repeat' first
    | with_reducible assumption
    | (extract_lets +onlyGivenNames x; (refine Kept.cutAA x ?_ (fun hx => ?_)); subst x; rotate_left; clear_value x)
    | (extract_lets +onlyGivenNames x; clear_value x)
    | with_reducible apply Kept.ite
    | ((with_reducible apply Kept.by (addReg_keeps ..)); case hs => rfl)
    | ((with_reducible apply Kept.by (putCtx_keeps ..)); case hs => rfl)
    | ((with_reducible apply Kept.by (toMirror_keeps ..)); case hs => rfl)
    | ((with_reducible apply Kept.by (acceptFrame_keeps ..)); case hs => rfl)

theorem bindWork_keeps (s : State) (a1 : Pkg) (a2 : ClassInfo) (a3 : Work) (a4 : List Byte) (a5 : Bool) : KeptO [.mem, .tiles, .syncWins, .works, .allocs, .free] s (bindWork s a1 a2 a3 a4 a5) := by
  unfold bindWork
  have h0 := Kept.refl [.mem, .tiles, .syncWins, .works, .allocs, .free] s
  repeat' first
    | with_reducible assumption
    | with_reducible apply KeptO.some
    | with_reducible apply KeptO.none
    | ((with_reducible apply Kept.by (addWork_keeps ..)); case hs => rfl)
    | dsimp only
    | split
    | ((with_reducible refine Kept.upd ?_ (fun p hp => ?_)); rotate_left; (cases p <;> first | exact absurd (by decide) hp | rfl); ((with_reducible apply Kept.by (reserveOn_keeps (by assumption))); case hs => rfl))

theorem bindService_keeps (s : State) (a1 : Nat) (a2 : Work) (a3 : List Byte) (a4 : Bool) : KeptO [.mem, .tiles, .syncWins, .works, .allocs, .free] s (bindService s a1 a2 a3 a4) := by
  unfold bindService
  have h0 := Kept.refl [.mem, .tiles, .syncWins, .works, .allocs, .free] s
  repeat' first
    | with_reducible assumption
    | with_reducible apply KeptO.some
    | with_reducible apply KeptO.none
    | ((with_reducible apply Kept.by (addWork_keeps ..)); case hs => rfl)
    | dsimp only
    | split
    | ((with_reducible refine Kept.upd ?_ (fun p hp => ?_)); rotate_left; (cases p <;> first | exact absurd (by decide) hp | rfl); ((with_reducible apply Kept.by (reserveOn_keeps (by assumption))); case hs => rfl))

/-- The parts that `issueFrame` may change. -/
def issueFrameParts : List Sys2Proof.Part :=
  .dict :: .mem :: .tiles :: .syncWins :: .works :: .frames :: .allocs :: .ctxs :: .fabric :: .out :: .free :: []

theorem issueFrame_keeps (s : State) (a1 : Nat) (a2 : InFrame) (a3 : Nat) : KeptO issueFrameParts s (issueFrame s a1 a2 a3) := by
  unfold issueFrame
  have h0 := Kept.refl issueFrameParts s
  repeat' first
    | with_reducible assumption
    | (extract_lets +onlyGivenNames x; (refine Kept.cutCC x ?_ (fun hx => ?_)); subst x; rotate_left; clear_value x)
    | (extract_lets +onlyGivenNames x; (refine Kept.cutAA x ?_ (fun hx => ?_)); subst x; rotate_left; clear_value x)
    | (extract_lets +onlyGivenNames x; clear_value x)
    | with_reducible apply KeptO.ite
    | with_reducible apply KeptO.none
    | (with_reducible apply KeptO.map; rotate_left; (intro t ht; skip))
    | (with_reducible apply KeptO.bind; intro a)
    | ((with_reducible apply KeptO.by (bindService_keeps ..)); case hs => rfl)
    | ((with_reducible apply KeptO.by (bindWork_keeps ..)); case hs => rfl)
    | ((with_reducible apply Kept.by (putCtx_keeps ..)); case hs => rfl)
    | ((with_reducible apply Kept.by (setReg_keeps ..)); case hs => rfl)
    | ((with_reducible apply Kept.by (putFrame_keeps ..)); case hs => rfl)
    | ((with_reducible apply Kept.by (setFrameState_keeps ..)); case hs => rfl)
    | split

theorem repeatDue_keeps (s : State) (a1 : Nat) (a2 : Nat) (a3 : Nat) : Kept [.dict, .frames, .ctxs, .fabric, .out] s (repeatDue s a1 a2 a3) := by
  unfold repeatDue
  have h0 := Kept.refl [.dict, .frames, .ctxs, .fabric, .out] s
  repeat' first
    | with_reducible assumption
    | (extract_lets +onlyGivenNames x; (refine Kept.cutAA x ?_ (fun hx => ?_)); subst x; rotate_left; clear_value x)
    | (extract_lets +onlyGivenNames x; clear_value x)
    | with_reducible apply Kept.ite
    | ((with_reducible apply Kept.by (addReg_keeps ..)); case hs => rfl)
    | ((with_reducible apply Kept.by (acceptFrame_keeps ..)); case hs => rfl)
    | ((with_reducible apply Kept.by (putCtx_keeps ..)); case hs => rfl)
    | ((with_reducible apply Kept.by (toMirror_keeps ..)); case hs => rfl)

theorem issueOne_keeps (s : State) (a1 : Nat) : KeptO issueFrameParts s (issueOne s a1) := by
  unfold issueOne
  have h0 := Kept.refl issueFrameParts s
  repeat' first
    | with_reducible assumption
    | (extract_lets +onlyGivenNames x; (refine Kept.cutCA x ?_ (fun hx => ?_)); subst x; rotate_left; clear_value x)
    | (extract_lets +onlyGivenNames x; clear_value x)
    | with_reducible apply Kept.ite
    | with_reducible apply KeptO.ite
    | with_reducible apply KeptO.none
    | (with_reducible apply KeptO.map; rotate_left; (intro t ht; skip))
    | ((with_reducible apply Kept.by (repeatDue_keeps ..)); case hs => rfl)
    | ((with_reducible apply Kept.by (toMirror_keeps ..)); case hs => rfl)
    | ((with_reducible apply Kept.by (acceptFrame_keeps ..)); case hs => rfl)
    | ((with_reducible apply Kept.by (putCtx_keeps ..)); case hs => rfl)
    | ((with_reducible apply Kept.by (addReg_keeps ..)); case hs => rfl)
    | ((with_reducible apply KeptO.by (issueFrame_keeps ..)); case hs => rfl)
    | dsimp only
    | split

theorem issueCtx_keeps (a0 : Nat) (s : State) (a2 : Nat) : Kept issueFrameParts s (issueCtx a0 s a2) := by
  induction a0 generalizing s a2 with
  | zero =>
    unfold issueCtx
    have h0 := Kept.refl issueFrameParts s
    repeat' first
    | with_reducible assumption
  | succ n ih =>
    unfold issueCtx
    have h0 := Kept.refl issueFrameParts s
    repeat' first
    | with_reducible apply Kept.trans _ (ih ..)
    | with_reducible assumption
    | ((with_reducible apply Kept.by (KeptO.elim (issueOne_keeps ..) (by assumption))); case hs => rfl)
    | split

theorem issueDue_keeps (s : State) : Kept issueFrameParts s (issueDue s) := by
  unfold issueDue
  have h0 := Kept.refl issueFrameParts s
  repeat' first
    | with_reducible assumption
    | ((with_reducible apply Kept.by (issueCtx_keeps ..)); case hs => rfl)
    | (with_reducible apply Kept.foldl; (intro t a; have h1 := Kept.refl issueFrameParts t))

end Sys2Proof.Machine
end

