-- ==== Sys2Proof/Laws/KeepContexts.lean ====
section
/-! SUPPORT. Which parts of the state each operation of Machine/Contexts.lean may change. -/
namespace Sys2Proof.Machine
open Sys2Proof
seal findObj defaultOf getReg getBlob

theorem setCmdStatus_keeps (s : State) (a1 : Nat) (a2 : Nat) : Kept [.dict] s (setCmdStatus s a1 a2) := by
  unfold setCmdStatus
  have h0 := Kept.refl [.dict] s
  repeat' first
    | with_reducible assumption
    | ((with_reducible apply Kept.by (setReg_keeps ..)); case hs => rfl)

theorem setDetail_keeps (s : State) (a1 : Nat) (a2 : Nat) : Kept [.dict] s (setDetail s a1 a2) := by
  unfold setDetail
  have h0 := Kept.refl [.dict] s
  repeat' first
    | with_reducible assumption
    | ((with_reducible apply Kept.by (setReg_keeps ..)); case hs => rfl)

theorem writeBinding_keeps (s : State) (a1 : Nat) (a2 : Nat) : Kept [.dict, .ctxs] s (writeBinding s a1 a2) := by
  unfold writeBinding
  have h0 := Kept.refl [.dict, .ctxs] s
  repeat' first
    | with_reducible assumption
    | (extract_lets +onlyGivenNames x; (refine Kept.cutAA x ?_ (fun hx => ?_)); subst x; rotate_left; clear_value x)
    | with_reducible apply Kept.ite
    | ((with_reducible apply Kept.by (setCtxState_keeps ..)); case hs => rfl)
    | ((with_reducible apply Kept.by (setReg_keeps ..)); case hs => rfl)
    | ((with_reducible apply Kept.by (putCtx_keeps ..)); case hs => rfl)

theorem ownFlows_keeps (s : State) (a1 : Nat) (a2 : Nat) : Kept [.dict] s (ownFlows s a1 a2) := by
  unfold ownFlows
  have h0 := Kept.refl [.dict] s
  repeat' first
    | with_reducible assumption
    | ((with_reducible apply Kept.by (setReg_keeps ..)); case hs => rfl)
    | (with_reducible apply Kept.foldl; (intro t a; have h1 := Kept.refl [.dict] t))

theorem joinLegs_keeps (s : State) (a1 : Nat) : Kept [.out] s (joinLegs s a1) := by
  unfold joinLegs
  have h0 := Kept.refl [.out] s
  repeat' first
    | with_reducible assumption
    | with_reducible apply Kept.ite
    | ((with_reducible apply Kept.by (emit_keeps ..)); case hs => rfl)
    | (with_reducible apply Kept.foldl; (intro t a; have h1 := Kept.refl [.out] t))

theorem leaveLegs_keeps (s : State) (a1 : Nat) : Kept [.out] s (leaveLegs s a1) := by
  unfold leaveLegs
  have h0 := Kept.refl [.out] s
  repeat' first
    | with_reducible assumption
    | with_reducible apply Kept.ite
    | ((with_reducible apply Kept.by (emit_keeps ..)); case hs => rfl)
    | (with_reducible apply Kept.foldl; (intro t a; have h1 := Kept.refl [.out] t))

theorem dropBuffers_keeps (s : State) (a1 : Nat) : Kept [.allocs] s (dropBuffers s a1) := by
  unfold dropBuffers
  have h0 := Kept.refl [.allocs] s
  repeat' first
    | with_reducible assumption
    | ((with_reducible apply Kept.by (releaseRange_keeps ..)); case hs => rfl)
    | (with_reducible apply Kept.foldl; (intro t a; have h1 := Kept.refl [.allocs] t))

theorem dropWaiting_keeps (s : State) (a1 : Nat) : Kept [.frames, .allocs, .fabric, .out] s (dropWaiting s a1) := by
  unfold dropWaiting
  have h0 := Kept.refl [.frames, .allocs, .fabric, .out] s
  repeat' first
    | with_reducible assumption
    | with_reducible apply Kept.ite
    | ((with_reducible apply Kept.by (freeFrame_keeps ..)); case hs => rfl)
    | (with_reducible apply Kept.foldl; (intro t a; have h1 := Kept.refl [.frames, .allocs, .fabric, .out] t))

theorem leaveService_keeps (s : State) (a1 : Nat) (a2 : Nat) : Kept [.dict, .frames, .allocs, .ctxs, .fabric, .out] s (leaveService s a1 a2) := by
  unfold leaveService
  have h0 := Kept.refl [.dict, .frames, .allocs, .ctxs, .fabric, .out] s
  repeat' first
    | with_reducible assumption
    | (extract_lets +onlyGivenNames x; (refine Kept.cutAA x ?_ (fun hx => ?_)); subst x; rotate_left; clear_value x)
    | (extract_lets +onlyGivenNames x; clear_value x)
    | ((with_reducible apply Kept.by (leaveLegs_keeps ..)); case hs => rfl)
    | ((with_reducible apply Kept.by (ownFlows_keeps ..)); case hs => rfl)
    | ((with_reducible apply Kept.by (dropBuffers_keeps ..)); case hs => rfl)
    | ((with_reducible apply Kept.by (dropWaiting_keeps ..)); case hs => rfl)
    | ((with_reducible apply Kept.by (setReg_keeps ..)); case hs => rfl)
    | ((with_reducible apply Kept.by (setCtxState_keeps ..)); case hs => rfl)
    | ((with_reducible apply Kept.by (putCtx_keeps ..)); case hs => rfl)

theorem settleStop_keeps (s : State) (a1 : Nat) : Kept [.dict, .frames, .allocs, .ctxs, .fabric, .out] s (settleStop s a1) := by
  unfold settleStop
  have h0 := Kept.refl [.dict, .frames, .allocs, .ctxs, .fabric, .out] s
  repeat' first
    | with_reducible assumption
    | with_reducible apply Kept.ite
    | ((with_reducible apply Kept.by (leaveService_keeps ..)); case hs => rfl)

theorem sendBlob_keeps (s : State) (a1 : Nat) : Kept [.out] s (sendBlob s a1) := by
  unfold sendBlob
  have h0 := Kept.refl [.out] s
  repeat' first
    | with_reducible assumption
    | (extract_lets +onlyGivenNames x; clear_value x)
    | ((with_reducible apply Kept.by (emit_keeps ..)); case hs => rfl)
    | (with_reducible apply Kept.foldl; (intro t a; have h1 := Kept.refl [.out] t))
    | split

theorem enterStart_keeps (s : State) (a1 : Nat) : Kept [.dict, .out] s (enterStart s a1) := by
  unfold enterStart
  have h0 := Kept.refl [.dict, .out] s
  repeat' first
    | with_reducible assumption
    | ((with_reducible apply Kept.by (sendBlob_keeps ..)); case hs => rfl)
    | ((with_reducible apply Kept.by (setCmdStatus_keeps ..)); case hs => rfl)
    | ((with_reducible apply Kept.by (setCtxState_keeps ..)); case hs => rfl)

theorem startCtx_keeps (s : State) (a1 : Nat) : Kept [.dict, .ctxs, .out] s (startCtx s a1) := by
  unfold startCtx
  have h0 := Kept.refl [.dict, .ctxs, .out] s
  repeat' first
    | with_reducible assumption
    | (extract_lets +onlyGivenNames x; clear_value x)
    | with_reducible apply Kept.ite
    | ((with_reducible apply Kept.by (setCmdStatus_keeps ..)); case hs => rfl)
    | ((with_reducible apply Kept.by (enterStart_keeps ..)); case hs => rfl)
    | ((with_reducible apply Kept.by (putCtx_keeps ..)); case hs => rfl)

theorem stopCtx_keeps (s : State) (a1 : Nat) : Kept [.dict, .frames, .allocs, .ctxs, .fabric, .out] s (stopCtx s a1) := by
  unfold stopCtx
  have h0 := Kept.refl [.dict, .frames, .allocs, .ctxs, .fabric, .out] s
  repeat' first
    | with_reducible assumption
    | (extract_lets +onlyGivenNames x; (refine Kept.cutAA x ?_ (fun hx => ?_)); subst x; rotate_left; clear_value x)
    | (extract_lets +onlyGivenNames x; clear_value x)
    | with_reducible apply Kept.ite
    | ((with_reducible apply Kept.by (setCmdStatus_keeps ..)); case hs => rfl)
    | ((with_reducible apply Kept.by (putCtx_keeps ..)); case hs => rfl)
    | ((with_reducible apply Kept.by (setCtxState_keeps ..)); case hs => rfl)
    | ((with_reducible apply Kept.by (leaveService_keeps ..)); case hs => rfl)

theorem timeoutCtx_keeps (s : State) (a1 : Nat) : Kept [.dict, .ctxs] s (timeoutCtx s a1) := by
  unfold timeoutCtx
  have h0 := Kept.refl [.dict, .ctxs] s
  repeat' first
    | with_reducible assumption
    | (extract_lets +onlyGivenNames x; clear_value x)
    | with_reducible apply Kept.ite
    | ((with_reducible apply Kept.by (setCmdStatus_keeps ..)); case hs => rfl)
    | ((with_reducible apply Kept.by (setCtxState_keeps ..)); case hs => rfl)
    | ((with_reducible apply Kept.by (putCtx_keeps ..)); case hs => rfl)

theorem firmwareEngine_keeps (s : State) (a1 : Nat) (a2 : Nat) (a3 : Nat) : Kept [.dict, .media] s (firmwareEngine s a1 a2 a3) := by
  unfold firmwareEngine
  have h0 := Kept.refl [.dict, .media] s
  repeat' first
    | with_reducible assumption
    | (extract_lets +onlyGivenNames x; (refine Kept.cutAA x ?_ (fun hx => ?_)); subst x; rotate_left; clear_value x)
    | (extract_lets +onlyGivenNames x; clear_value x)
    | ((with_reducible apply Kept.by (addReg_keeps ..)); case hs => rfl)
    | ((with_reducible refine Kept.upd ?_ (fun p hp => ?_)); rotate_left; (cases p <;> first | exact absurd (by decide) hp | rfl); with_reducible assumption)

/-- The parts that `writeSnapshot` may change. -/
def writeSnapshotParts : List Sys2Proof.Part :=
  .dict :: .mem :: .frames :: .allocs :: .ctxs :: .media :: .fabric :: .out :: []

theorem writeSnapshot_keeps (s : State) (a1 : Nat) : Kept writeSnapshotParts s (writeSnapshot s a1) := by
  unfold writeSnapshot
  have h0 := Kept.refl writeSnapshotParts s
  repeat' first
    | with_reducible assumption
    | (extract_lets +onlyGivenNames x; (refine Kept.cutAA x ?_ (fun hx => ?_)); subst x; rotate_left; clear_value x)
    | (extract_lets +onlyGivenNames x; clear_value x)
    | with_reducible apply Kept.ite
    | ((with_reducible apply Kept.by (firmwareEngine_keeps ..)); case hs => rfl)
    | ((with_reducible apply Kept.by (setCmdStatus_keeps ..)); case hs => rfl)
    | ((with_reducible apply Kept.by (putCtx_keeps ..)); case hs => rfl)
    | ((with_reducible apply Kept.by (leaveService_keeps ..)); case hs => rfl)
    | ((with_reducible apply Kept.by (setReg_keeps ..)); case hs => rfl)
    | ((with_reducible refine Kept.upd ?_ (fun p hp => ?_)); rotate_left; (cases p <;> first | exact absurd (by decide) hp | rfl); with_reducible assumption)

theorem resumeCtx_keeps (s : State) (a1 : Nat) : Kept [.dict, .ctxs, .media, .out] s (resumeCtx s a1) := by
  unfold resumeCtx
  have h0 := Kept.refl [.dict, .ctxs, .media, .out] s
  repeat' first
    | with_reducible assumption
    | (extract_lets +onlyGivenNames x; (refine Kept.cutAA x ?_ (fun hx => ?_)); subst x; rotate_left; clear_value x)
    | (extract_lets +onlyGivenNames x; clear_value x)
    | with_reducible apply Kept.ite
    | ((with_reducible apply Kept.by (setCmdStatus_keeps ..)); case hs => rfl)
    | ((with_reducible apply Kept.by (firmwareEngine_keeps ..)); case hs => rfl)
    | ((with_reducible apply Kept.by (setDetail_keeps ..)); case hs => rfl)
    | ((with_reducible apply Kept.by (enterStart_keeps ..)); case hs => rfl)
    | ((with_reducible apply Kept.by (putCtx_keeps ..)); case hs => rfl)

theorem takeBuffers_keeps (s : State) (a1 : Nat) (a2 : List RegionDecl) : KeptO [.mem, .allocs, .ctxs, .free] s (takeBuffers s a1 a2) := by
  induction a2 generalizing s a1 with
  | nil =>
    unfold takeBuffers
    have h0 := Kept.refl [.mem, .allocs, .ctxs, .free] s
    repeat' first
    | with_reducible assumption
    | with_reducible apply KeptO.some
  | cons d r ih =>
    unfold takeBuffers
    have h0 := Kept.refl [.mem, .allocs, .ctxs, .free] s
    repeat' first
    | with_reducible apply KeptO.trans _ (ih ..)
    | with_reducible assumption
    | (extract_lets +onlyGivenNames x; clear_value x)
    | with_reducible apply KeptO.none
    | ((with_reducible apply Kept.by (putCtx_keeps ..)); case hs => rfl)
    | dsimp only
    | split
    | ((with_reducible refine Kept.upd ?_ (fun p hp => ?_)); rotate_left; (cases p <;> first | exact absurd (by decide) hp | rfl); ((with_reducible apply Kept.by (reserveOn_keeps (by assumption))); case hs => rfl))

theorem takeSnapshot_keeps (s : State) (a1 : Nat) : Kept [.dict, .mem, .ctxs] s (takeSnapshot s a1) := by
  unfold takeSnapshot
  have h0 := Kept.refl [.dict, .mem, .ctxs] s
  repeat' first
    | with_reducible assumption
    | (extract_lets +onlyGivenNames x; (refine Kept.cutAA x ?_ (fun hx => ?_)); subst x; rotate_left; clear_value x)
    | (extract_lets +onlyGivenNames x; clear_value x)
    | ((with_reducible apply Kept.by (putCtx_keeps ..)); case hs => rfl)
    | ((with_reducible apply Kept.by (setReg_keeps ..)); case hs => rfl)
    | split
    | ((with_reducible refine Kept.upd ?_ (fun p hp => ?_)); rotate_left; (cases p <;> first | exact absurd (by decide) hp | rfl); with_reducible assumption)

/-- The parts that `enterRunning` may change. -/
def enterRunningParts : List Sys2Proof.Part :=
  .dict :: .mem :: .tiles :: .cache :: .windows :: .syncWins :: .works :: .frames :: .allocs :: .ctxs :: .flows :: .fabric ::
    .out :: .free :: []

theorem enterRunning_keeps (s : State) (a1 : Nat) (a2 : Charge) : Kept enterRunningParts s (enterRunning s a1 a2) := by
  unfold enterRunning
  have h0 := Kept.refl enterRunningParts s
  repeat' first
    | with_reducible assumption
    | (extract_lets +onlyGivenNames x; (refine Kept.cutAA x ?_ (fun hx => ?_)); subst x; rotate_left; clear_value x)
    | (extract_lets +onlyGivenNames x; clear_value x)
    | ((with_reducible apply Kept.by (putCtx_keeps ..)); case hs => rfl)
    | ((with_reducible apply Kept.by (setReg_keeps ..)); case hs => rfl)
    | ((with_reducible apply Kept.by (KeptO.elim (takeBuffers_keeps ..) (by assumption))); case hs => rfl)
    | ((with_reducible apply Kept.by (setCmdStatus_keeps ..)); case hs => rfl)
    | ((with_reducible apply Kept.by (setCtxState_keeps ..)); case hs => rfl)
    | ((with_reducible apply KeptO.getD); (with_reducible apply KeptO.by (placeWindow_keeps ..)); case hs => rfl)
    | ((with_reducible apply Kept.by (takeSnapshot_keeps ..)); case hs => rfl)
    | ((with_reducible apply Kept.by (ownFlows_keeps ..)); case hs => rfl)
    | ((with_reducible apply Kept.by (issueCtx_keeps ..)); case hs => rfl)
    | dsimp only
    | split
    | ((with_reducible refine Kept.upd ?_ (fun p hp => ?_)); rotate_left; (cases p <;> first | exact absurd (by decide) hp | rfl); ((with_reducible apply Kept.by (joinLegs_keeps ..)); case hs => rfl))

theorem failStart_keeps (s : State) (a1 : Nat) (a2 : Nat) (a3 : Nat) : Kept [.dict] s (failStart s a1 a2 a3) := by
  unfold failStart
  have h0 := Kept.refl [.dict] s
  repeat' first
    | with_reducible assumption
    | (extract_lets +onlyGivenNames x; (refine Kept.cutAA x ?_ (fun hx => ?_)); subst x; rotate_left; clear_value x)
    | with_reducible apply Kept.ite
    | ((with_reducible apply Kept.by (setDetail_keeps ..)); case hs => rfl)
    | ((with_reducible apply Kept.by (setCmdStatus_keeps ..)); case hs => rfl)
    | ((with_reducible apply Kept.by (setCtxState_keeps ..)); case hs => rfl)
    | ((with_reducible apply Kept.by (addReg_keeps ..)); case hs => rfl)

theorem dropBlobs_keeps (s : State) (a1 : Nat) : Kept [.fabric] s (dropBlobs s a1) := by
  unfold dropBlobs
  have h0 := Kept.refl [.fabric] s
  repeat' first
    | with_reducible assumption
    | (extract_lets +onlyGivenNames x; clear_value x)
    | split
    | ((with_reducible refine Kept.upd ?_ (fun p hp => ?_)); rotate_left; (cases p <;> first | exact absurd (by decide) hp | rfl); with_reducible assumption)

theorem checkStart_keeps (s : State) (a1 : Nat) : Kept enterRunningParts s (checkStart s a1) := by
  unfold checkStart
  have h0 := Kept.refl enterRunningParts s
  repeat' first
    | with_reducible assumption
    | (extract_lets +onlyGivenNames x; (refine Kept.cutAA x ?_ (fun hx => ?_)); subst x; rotate_left; clear_value x)
    | with_reducible apply Kept.ite
    | ((with_reducible apply Kept.by (dropBlobs_keeps ..)); case hs => rfl)
    | ((with_reducible apply Kept.by (failStart_keeps ..)); case hs => rfl)
    | ((with_reducible apply Kept.by (enterRunning_keeps ..)); case hs => rfl)
    | (with_reducible apply Kept.optElim; rotate_left; (intro a; skip))
    | split

theorem switchCtx_keeps (s : State) (a1 : Nat) (a2 : Nat) : Kept [.dict, .cache, .windows, .ctxs] s (switchCtx s a1 a2) := by
  unfold switchCtx
  have h0 := Kept.refl [.dict, .cache, .windows, .ctxs] s
  repeat' first
    | with_reducible assumption
    | (extract_lets +onlyGivenNames x; (refine Kept.cutAA x ?_ (fun hx => ?_)); subst x; rotate_left; clear_value x)
    | (extract_lets +onlyGivenNames x; clear_value x)
    | with_reducible apply Kept.ite
    | ((with_reducible apply Kept.by (setCmdStatus_keeps ..)); case hs => rfl)
    | ((with_reducible apply Kept.by (putCtx_keeps ..)); case hs => rfl)
    | ((with_reducible apply KeptO.getD); (with_reducible apply KeptO.by (placeWindow_keeps ..)); case hs => rfl)
    | split

theorem endSwitch_keeps (s : State) (a1 : Nat) (a2 : Nat) (a3 : Nat) : Kept [.dict, .ctxs] s (endSwitch s a1 a2 a3) := by
  unfold endSwitch
  have h0 := Kept.refl [.dict, .ctxs] s
  repeat' first
    | with_reducible assumption
    | (extract_lets +onlyGivenNames x; clear_value x)
    | ((with_reducible apply Kept.by (setDetail_keeps ..)); case hs => rfl)
    | ((with_reducible apply Kept.by (setCmdStatus_keeps ..)); case hs => rfl)
    | ((with_reducible apply Kept.by (putCtx_keeps ..)); case hs => rfl)

theorem takeSwitch_keeps (s : State) (a1 : Nat) : Kept [.dict, .cache, .windows, .ctxs] s (takeSwitch s a1) := by
  unfold takeSwitch
  have h0 := Kept.refl [.dict, .cache, .windows, .ctxs] s
  repeat' first
    | with_reducible assumption
    | with_reducible apply Kept.ite
    | ((with_reducible apply Kept.by (endSwitch_keeps ..)); case hs => rfl)
    | ((with_reducible apply Kept.by (setReg_keeps ..)); case hs => rfl)
    | ((with_reducible apply Kept.by (KeptO.elim (placeWindow_keeps ..) (by assumption))); case hs => rfl)
    | ((with_reducible apply Kept.by (setCmdStatus_keeps ..)); case hs => rfl)
    | ((with_reducible apply Kept.by (putCtx_keeps ..)); case hs => rfl)
    | dsimp only
    | split

theorem switchesAtTick_keeps (s : State) : Kept [.dict, .cache, .windows, .ctxs] s (switchesAtTick s) := by
  unfold switchesAtTick
  have h0 := Kept.refl [.dict, .cache, .windows, .ctxs] s
  repeat' first
    | with_reducible assumption
    | with_reducible apply Kept.ite
    | ((with_reducible apply Kept.by (takeSwitch_keeps ..)); case hs => rfl)
    | (with_reducible apply Kept.foldl; (intro t a; have h1 := Kept.refl [.dict, .cache, .windows, .ctxs] t))

theorem requestReference_keeps (s : State) (a1 : Nat) (a2 : Nat) (a3 : Nat) : Kept [.dict, .ctxs] s (requestReference s a1 a2 a3) := by
  unfold requestReference
  have h0 := Kept.refl [.dict, .ctxs] s
  repeat' first
    | with_reducible assumption
    | (extract_lets +onlyGivenNames x; clear_value x)
    | ((with_reducible apply Kept.by (setReg_keeps ..)); case hs => rfl)
    | ((with_reducible apply Kept.by (putCtx_keeps ..)); case hs => rfl)
    | split

end Sys2Proof.Machine
end

