-- ==== Sys2Proof/Laws/KeepLearned.lean ====
section
/-! SUPPORT. Which parts of the state each operation of Machine/Learned.lean may change. -/
namespace Sys2Proof.Machine
open Sys2Proof
seal findObj defaultOf getReg getBlob

theorem deliverBand_keeps (s : State) (a1 : WorkId) (a2 : RcParams) (a3 : Nat) (a4 : Nat) : Kept [.mem, .sync, .works] s (deliverBand s a1 a2 a3 a4) := by
  unfold deliverBand
  have h0 := Kept.refl [.mem, .sync, .works] s
  repeat' first
    | with_reducible assumption
    | ((with_reducible apply Kept.by (deliver_keeps ..)); case hs => rfl)
    | dsimp only
    | split
    | ((with_reducible refine Kept.upd ?_ (fun p hp => ?_)); rotate_left; (cases p <;> first | exact absurd (by decide) hp | rfl); with_reducible assumption)

theorem keepState_keeps (s : State) (a1 : Nat) (a2 : Nat) (a3 : Work) : Kept [.mem] s (keepState s a1 a2 a3) := by
  unfold keepState
  have h0 := Kept.refl [.mem] s
  repeat' first
    | with_reducible assumption
    | (with_reducible apply Kept.foldl; (intro t a; have h1 := Kept.refl [.mem] t))
    | ((with_reducible refine Kept.upd ?_ (fun p hp => ?_)); rotate_left; (cases p <;> first | exact absurd (by decide) hp | rfl); with_reducible assumption)

theorem controlBand_keeps (s : State) (a1 : Nat) (a2 : Nat) : Kept [.mem, .sync, .works, .ctxs] s (controlBand s a1 a2) := by
  unfold controlBand
  have h0 := Kept.refl [.mem, .sync, .works, .ctxs] s
  repeat' first
    | with_reducible assumption
    | (extract_lets +onlyGivenNames x; clear_value x)
    | with_reducible apply Kept.ite
    | ((with_reducible apply Kept.by (putCtx_keeps ..)); case hs => rfl)
    | ((with_reducible apply Kept.by (deliverBand_keeps ..)); case hs => rfl)
    | ((with_reducible apply Kept.by (putWork_keeps ..)); case hs => rfl)
    | dsimp only
    | split

theorem encodeKeep_keeps (s : State) (a1 : Nat) (a2 : Nat) (a3 : Work) : Kept [.ctxs] s (encodeKeep s a1 a2 a3) := by
  unfold encodeKeep
  have h0 := Kept.refl [.ctxs] s
  repeat' first
    | with_reducible assumption
    | (extract_lets +onlyGivenNames x; clear_value x)
    | ((with_reducible apply Kept.by (putCtx_keeps ..)); case hs => rfl)

theorem encodeEnd_keeps (s : State) (a1 : Nat) (a2 : Nat) (a3 : Work) (a4 : List Byte) : Kept [.ctxs] s (encodeEnd s a1 a2 a3 a4) := by
  unfold encodeEnd
  have h0 := Kept.refl [.ctxs] s
  repeat' first
    | with_reducible assumption
    | (extract_lets +onlyGivenNames x; clear_value x)
    | ((with_reducible apply Kept.by (encodeKeep_keeps ..)); case hs => rfl)
    | ((with_reducible apply Kept.by (putCtx_keeps ..)); case hs => rfl)

theorem encodeFailed_keeps (s : State) (a1 : Nat) (a2 : Nat) (a3 : Work) : Kept [.ctxs] s (encodeFailed s a1 a2 a3) := by
  unfold encodeFailed
  have h0 := Kept.refl [.ctxs] s
  repeat' first
    | with_reducible assumption
    | (extract_lets +onlyGivenNames x; clear_value x)
    | ((with_reducible apply Kept.by (encodeKeep_keeps ..)); case hs => rfl)
    | ((with_reducible apply Kept.by (putCtx_keeps ..)); case hs => rfl)

end Sys2Proof.Machine
end

