-- ==== Sys2Proof/Laws/KeepUnits.lean ====
section
/-! SUPPORT. Which parts of the state each operation of Machine/Units.lean may change. -/
namespace Sys2Proof.Machine
open Sys2Proof
seal findObj defaultOf getReg getBlob

theorem putCore_keeps (s : State) (a1 : Nat) (a2 : Nat) (a3 : CoreRun) : Kept [.cores] s (putCore s a1 a2 a3) := by
  unfold putCore
  have h0 := Kept.refl [.cores] s
  repeat' first
    | ((with_reducible refine Kept.upd ?_ (fun p hp => ?_)); rotate_left; (cases p <;> first | exact absurd (by decide) hp | rfl); with_reducible assumption)

theorem setRetiredBits_keeps (s : State) (a1 : Nat) (a2 : Nat) : Kept [.dict] s (setRetiredBits s a1 a2) := by
  unfold setRetiredBits
  have h0 := Kept.refl [.dict] s
  repeat' first
    | with_reducible assumption
    | with_reducible apply Kept.ite
    | ((with_reducible apply Kept.by (setReg_keeps ..)); case hs => rfl)

theorem putJob_keeps (s : State) (a1 : JobEntry) : Kept [.jobs] s (putJob s a1) := by
  unfold putJob
  have h0 := Kept.refl [.jobs] s
  repeat' first
    | ((with_reducible refine Kept.upd ?_ (fun p hp => ?_)); rotate_left; (cases p <;> first | exact absurd (by decide) hp | rfl); with_reducible assumption)

theorem moveJob_keeps (s : State) (a1 : Nat) (a2 : Nat) : Kept [.works] s (moveJob s a1 a2) := by
  unfold moveJob
  have h0 := Kept.refl [.works] s
  repeat' first
    | with_reducible assumption
    | ((with_reducible apply Kept.by (putWork_keeps ..)); case hs => rfl)
    | split

theorem moveTasks_keeps (s : State) (a1 : Nat) (a2 : List Work) : Kept [.works] s (moveTasks s a1 a2) := by
  unfold moveTasks
  have h0 := Kept.refl [.works] s
  repeat' first
    | with_reducible assumption
    | ((with_reducible apply Kept.by (putWork_keeps ..)); case hs => rfl)
    | (with_reducible apply Kept.foldl; (intro t a; have h1 := Kept.refl [.works] t))
    | split

theorem moveCharges_keeps (s : State) (a1 : Nat) (a2 : Nat) : Kept [.ctxs] s (moveCharges s a1 a2) := by
  unfold moveCharges
  have h0 := Kept.refl [.ctxs] s
  repeat' first
    | with_reducible assumption
    | (extract_lets +onlyGivenNames x; clear_value x)
    | with_reducible apply Kept.ite
    | ((with_reducible apply Kept.by (putCtx_keeps ..)); case hs => rfl)
    | (with_reducible apply Kept.foldl; (intro t a; have h1 := Kept.refl [.ctxs] t))

theorem retireUnit_keeps (s : State) (a1 : Nat) (a2 : Nat) : Kept [.dict, .ctl, .works, .ctxs, .cores] s (retireUnit s a1 a2) := by
  unfold retireUnit
  have h0 := Kept.refl [.dict, .ctl, .works, .ctxs, .cores] s
  repeat' first
    | with_reducible assumption
    | (extract_lets +onlyGivenNames x; (refine Kept.cutAA x ?_ (fun hx => ?_)); subst x; rotate_left; clear_value x)
    | with_reducible apply Kept.ite
    | ((with_reducible apply Kept.by (setRetiredBits_keeps ..)); case hs => rfl)
    | ((with_reducible apply Kept.by (addJournal_keeps ..)); case hs => rfl)
    | ((with_reducible apply Kept.by (putCore_keeps ..)); case hs => rfl)
    | ((with_reducible apply Kept.by (moveCharges_keeps ..)); case hs => rfl)
    | ((with_reducible apply Kept.by (logFault_keeps ..)); case hs => rfl)
    | ((with_reducible apply Kept.by (moveTasks_keeps ..)); case hs => rfl)

theorem retireWhenHeld_keeps (s : State) (a1 : Nat) (a2 : Nat) : Kept [.dict, .ctl, .works, .ctxs, .cores] s (retireWhenHeld s a1 a2) := by
  unfold retireWhenHeld
  have h0 := Kept.refl [.dict, .ctl, .works, .ctxs, .cores] s
  repeat' first
    | with_reducible assumption
    | with_reducible apply Kept.ite
    | ((with_reducible apply Kept.by (retireLater_keeps ..)); case hs => rfl)
    | ((with_reducible apply Kept.by (retireUnit_keeps ..)); case hs => rfl)

theorem faultUnit_keeps (s : State) (a1 : Nat) (a2 : Nat) : Kept [.dict, .ctl, .works, .ctxs, .cores] s (faultUnit s a1 a2) := by
  unfold faultUnit
  have h0 := Kept.refl [.dict, .ctl, .works, .ctxs, .cores] s
  repeat' first
    | with_reducible assumption
    | (extract_lets +onlyGivenNames x; (refine Kept.cutAA x ?_ (fun hx => ?_)); subst x; rotate_left; clear_value x)
    | (extract_lets +onlyGivenNames x; clear_value x)
    | with_reducible apply Kept.ite
    | ((with_reducible apply Kept.by (logFault_keeps ..)); case hs => rfl)
    | ((with_reducible apply Kept.by (moveTasks_keeps ..)); case hs => rfl)
    | ((with_reducible apply Kept.by (moveJob_keeps ..)); case hs => rfl)
    | ((with_reducible apply Kept.by (putCore_keeps ..)); case hs => rfl)
    | ((with_reducible apply Kept.by (retireWhenHeld_keeps ..)); case hs => rfl)

theorem checkUnit_keeps (s : State) (a1 : Nat) (a2 : Nat) (a3 : Bool) : Kept [.dict, .ctl, .works, .ctxs, .cores] s (checkUnit s a1 a2 a3) := by
  unfold checkUnit
  have h0 := Kept.refl [.dict, .ctl, .works, .ctxs, .cores] s
  repeat' first
    | with_reducible assumption
    | (extract_lets +onlyGivenNames x; clear_value x)
    | with_reducible apply Kept.ite
    | ((with_reducible apply Kept.by (putCore_keeps ..)); case hs => rfl)
    | ((with_reducible apply Kept.by (retireWhenHeld_keeps ..)); case hs => rfl)

end Sys2Proof.Machine
end

