-- ==== Sys2Proof/Laws/KeepOlv.lean ====
section
/-! SUPPORT. Which parts of the state each operation of Machine/Olv.lean may change. -/
namespace Sys2Proof.Machine
open Sys2Proof
seal findObj defaultOf getReg getBlob

theorem putAt_keeps (s : State) (a1 : Work) (a2 : Nat) (a3 : Nat) (a4 : List Byte) : Kept [.mem] s (putAt s a1 a2 a3 a4) := by
  unfold putAt
  have h0 := Kept.refl [.mem] s
  repeat' first
    | with_reducible assumption
    | with_reducible apply Kept.ite
    | split
    | ((with_reducible refine Kept.upd ?_ (fun p hp => ?_)); rotate_left; (cases p <;> first | exact absurd (by decide) hp | rfl); with_reducible assumption)

theorem putRole_keeps (s : State) (a1 : Work) (a2 : Pkg) (a3 : Nat) (a4 : List Nat) : Kept [.mem] s (putRole s a1 a2 a3 a4) := by
  unfold putRole
  have h0 := Kept.refl [.mem] s
  repeat' first
    | with_reducible assumption
    | ((with_reducible apply Kept.by (putAt_keeps ..)); case hs => rfl)

theorem putMotion_keeps (s : State) (a1 : Work) (a2 : SegRec) (a3 : List (Int × Int)) (a4 : Nat) : Kept [.mem] s (putMotion s a1 a2 a3 a4) := by
  unfold putMotion
  have h0 := Kept.refl [.mem] s
  repeat' first
    | with_reducible assumption
    | ((with_reducible apply Kept.by (putAt_keeps ..)); case hs => rfl)

theorem signalMotion_keeps (s : State) (a1 : Work) (a2 : Pkg) : Kept [.sync, .works] s (signalMotion s a1 a2) := by
  unfold signalMotion
  have h0 := Kept.refl [.sync, .works] s
  repeat' first
    | with_reducible assumption
    | with_reducible apply Kept.ite
    | ((with_reducible apply Kept.by (deliver_keeps ..)); case hs => rfl)

theorem putWarp_keeps (s : State) (a1 : Nat) (a2 : Work) (a3 : Pkg) (a4 : Option (List Plane)) (a5 : List (Int × Int)) (a6 : Nat → Bool) : Kept [.mem] s (putWarp s a1 a2 a3 a4 a5 a6) := by
  unfold putWarp
  have h0 := Kept.refl [.mem] s
  repeat' first
    | with_reducible assumption
    | ((with_reducible apply Kept.by (putRole_keeps ..)); case hs => rfl)

theorem clearPrevious_keeps (s : State) (a1 : Nat) (a2 : Nat) : Kept [.mem] s (clearPrevious s a1 a2) := by
  unfold clearPrevious
  have h0 := Kept.refl [.mem] s
  repeat' first
    | with_reducible assumption
    | (with_reducible apply Kept.foldl; (intro t a; have h1 := Kept.refl [.mem] t))
    | ((with_reducible refine Kept.upd ?_ (fun p hp => ?_)); rotate_left; (cases p <;> first | exact absurd (by decide) hp | rfl); with_reducible assumption)

theorem formVideo_keeps (s : State) (a1 : Nat) (a2 : Nat) (a3 : Work) (a4 : Pkg) (a5 : ClassInfo) (a6 : List (Int × Int)) : Kept [.mem] s (formVideo s a1 a2 a3 a4 a5 a6) := by
  unfold formVideo
  have h0 := Kept.refl [.mem] s
  repeat' first
    | with_reducible assumption
    | (extract_lets +onlyGivenNames x; clear_value x)
    | with_reducible apply Kept.ite
    | ((with_reducible apply Kept.by (putRole_keeps ..)); case hs => rfl)
    | ((with_reducible apply Kept.by (putMotion_keeps ..)); case hs => rfl)
    | ((with_reducible apply Kept.by (putWarp_keeps ..)); case hs => rfl)
    | dsimp only
    | split
    | ((with_reducible refine Kept.upd ?_ (fun p hp => ?_)); rotate_left; (cases p <;> first | exact absurd (by decide) hp | rfl); ((with_reducible apply Kept.by (putRole_keeps ..)); case hs => rfl))

theorem deliverVectors_keeps (s : State) (a1 : Nat) (a2 : Nat) : Kept [.mem, .sync, .works] s (deliverVectors s a1 a2) := by
  unfold deliverVectors
  have h0 := Kept.refl [.mem, .sync, .works] s
  repeat' first
    | with_reducible assumption
    | (extract_lets +onlyGivenNames x; clear_value x)
    | with_reducible apply Kept.ite
    | ((with_reducible apply Kept.by (signalMotion_keeps ..)); case hs => rfl)
    | ((with_reducible apply Kept.by (formVideo_keeps ..)); case hs => rfl)
    | ((with_reducible apply Kept.by (putWork_keeps ..)); case hs => rfl)
    | ((with_reducible apply Kept.by (clearPrevious_keeps ..)); case hs => rfl)
    | dsimp only
    | split

theorem deliverAll_keeps (s : State) : Kept [.mem, .sync, .works] s (deliverAll s) := by
  unfold deliverAll
  have h0 := Kept.refl [.mem, .sync, .works] s
  repeat' first
    | with_reducible assumption
    | ((with_reducible apply Kept.by (deliverVectors_keeps ..)); case hs => rfl)
    | (with_reducible apply Kept.foldl; (intro t a; have h1 := Kept.refl [.mem, .sync, .works] t))
    | split

theorem deliverBands_keeps (s : State) (a1 : WorkId) (a2 : RcParams) (a3 : List MediaUnit) (a4 : Nat) : Kept [.mem, .sync, .works] s (deliverBands s a1 a2 a3 a4) := by
  unfold deliverBands
  have h0 := Kept.refl [.mem, .sync, .works] s
  repeat' first
    | with_reducible assumption
    | ((with_reducible apply Kept.by (deliverBand_keeps ..)); case hs => rfl)
    | (with_reducible apply Kept.foldl; (intro t a; have h1 := Kept.refl [.mem, .sync, .works] t))
    | split

theorem endParse_keeps (s : State) (a1 : Nat) (a2 : Nat) (a3 : Work) (a4 : Nat) : Kept [.mem, .works] s (endParse s a1 a2 a3 a4) := by
  unfold endParse
  have h0 := Kept.refl [.mem, .works] s
  repeat' first
    | with_reducible assumption
    | ((with_reducible apply Kept.by (keepState_keeps ..)); case hs => rfl)
    | ((with_reducible apply Kept.by (putWork_keeps ..)); case hs => rfl)

theorem parsedMotion_keeps (s : State) (a1 : Nat) (a2 : Work) (a3 : Pkg) (a4 : ClassInfo) : Kept [.mem] s (parsedMotion s a1 a2 a3 a4) := by
  unfold parsedMotion
  have h0 := Kept.refl [.mem] s
  repeat' first
    | with_reducible assumption
    | (extract_lets +onlyGivenNames x; clear_value x)
    | ((with_reducible apply Kept.by (putMotion_keeps ..)); case hs => rfl)
    | split

theorem warpDecoded_keeps (s : State) (a1 : Nat) (a2 : Nat) (a3 : Work) (a4 : Pkg) (a5 : PicHeader) (a6 : List (Int × Int)) : Kept [.mem, .ctxs] s (warpDecoded s a1 a2 a3 a4 a5 a6) := by
  unfold warpDecoded
  have h0 := Kept.refl [.mem, .ctxs] s
  repeat' first
    | with_reducible assumption
    | (extract_lets +onlyGivenNames x; (refine Kept.cutAA x ?_ (fun hx => ?_)); subst x; rotate_left; clear_value x)
    | (extract_lets +onlyGivenNames x; (have hf := fun y => x y); clear hf; subst x)
    | (extract_lets +onlyGivenNames x; clear_value x)
    | ((with_reducible apply Kept.by (putCtx_keeps ..)); case hs => rfl)
    | ((with_reducible apply Kept.by (putWarp_keeps ..)); case hs => rfl)

theorem formDecode_keeps (s : State) (a1 : Nat) (a2 : Nat) (a3 : Work) (a4 : Pkg) (a5 : List MediaUnit) (a6 : PicHeader) : Kept [.mem, .sync, .works, .ctxs] s (formDecode s a1 a2 a3 a4 a5 a6) := by
  unfold formDecode
  have h0 := Kept.refl [.mem, .sync, .works, .ctxs] s
  repeat' first
    | with_reducible assumption
    | with_reducible apply Kept.ite
    | ((with_reducible apply Kept.by (clearPrevious_keeps ..)); case hs => rfl)
    | ((with_reducible apply Kept.by (parsedMotion_keeps ..)); case hs => rfl)
    | ((with_reducible apply Kept.by (warpDecoded_keeps ..)); case hs => rfl)
    | ((with_reducible apply Kept.by (deliverBands_keeps ..)); case hs => rfl)
    | dsimp only
    | split

theorem acceptPicture_keeps (s : State) (a1 : Nat) (a2 : Nat) (a3 : Work) (a4 : Pkg) (a5 : List MediaUnit) (a6 : PicHeader) (a7 : Bool) : Kept [.mem, .sync, .works, .ctxs] s (acceptPicture s a1 a2 a3 a4 a5 a6 a7) := by
  unfold acceptPicture
  have h0 := Kept.refl [.mem, .sync, .works, .ctxs] s
  repeat' first
    | with_reducible assumption
    | (extract_lets +onlyGivenNames x; (refine Kept.cutAA x ?_ (fun hx => ?_)); subst x; rotate_left; clear_value x)
    | (extract_lets +onlyGivenNames x; clear_value x)
    | ((with_reducible apply Kept.by (putCtx_keeps ..)); case hs => rfl)
    | ((with_reducible apply Kept.by (formDecode_keeps ..)); case hs => rfl)
    | ((with_reducible apply Kept.by (putWork_keeps ..)); case hs => rfl)

theorem discardPicture_keeps (s : State) (a1 : Nat) : Kept [.dict] s (discardPicture s a1) := by
  unfold discardPicture
  have h0 := Kept.refl [.dict] s
  repeat' first
    | with_reducible assumption
    | with_reducible apply Kept.ite
    | ((with_reducible apply Kept.by (addReg_keeps ..)); case hs => rfl)

theorem parsePicture_keeps (s : State) (a1 : Nat) (a2 : Nat) (a3 : Work) (a4 : Pkg) : Kept [.dict, .mem, .sync, .works, .ctxs] s (parsePicture s a1 a2 a3 a4) := by
  unfold parsePicture
  have h0 := Kept.refl [.dict, .mem, .sync, .works, .ctxs] s
  repeat' first
    | with_reducible assumption
    | (extract_lets +onlyGivenNames x; (have hf := fun y => x y); clear hf; subst x)
    | (extract_lets +onlyGivenNames x; clear_value x)
    | with_reducible apply Kept.ite
    | ((with_reducible apply Kept.by (endParse_keeps ..)); case hs => rfl)
    | ((with_reducible apply Kept.by (discardPicture_keeps ..)); case hs => rfl)
    | ((with_reducible apply Kept.by (putCtx_keeps ..)); case hs => rfl)
    | ((with_reducible apply Kept.by (acceptPicture_keeps ..)); case hs => rfl)
    | dsimp only
    | split

theorem parseAgain_keeps (s : State) (a1 : Nat) (a2 : Nat) (a3 : Work) (a4 : Pkg) : Kept [.mem, .sync, .works, .ctxs] s (parseAgain s a1 a2 a3 a4) := by
  unfold parseAgain
  have h0 := Kept.refl [.mem, .sync, .works, .ctxs] s
  repeat' first
    | with_reducible assumption
    | (extract_lets +onlyGivenNames x; clear_value x)
    | ((with_reducible apply Kept.by (formDecode_keeps ..)); case hs => rfl)
    | ((with_reducible apply Kept.by (putWork_keeps ..)); case hs => rfl)
    | split

theorem parseInput_keeps (s : State) (a1 : WorkId) : Kept [.dict, .mem, .sync, .works, .ctxs] s (parseInput s a1) := by
  unfold parseInput
  have h0 := Kept.refl [.dict, .mem, .sync, .works, .ctxs] s
  repeat' first
    | with_reducible assumption
    | with_reducible apply Kept.ite
    | ((with_reducible apply Kept.by (parseAgain_keeps ..)); case hs => rfl)
    | ((with_reducible apply Kept.by (parsePicture_keeps ..)); case hs => rfl)
    | ((with_reducible apply Kept.by (putCtx_keeps ..)); case hs => rfl)
    | dsimp only
    | split

theorem takeVectors_keeps (s : State) (a1 : WorkId) (a2 : Nat) : Kept [.mem, .ctxs] s (takeVectors s a1 a2) := by
  unfold takeVectors
  have h0 := Kept.refl [.mem, .ctxs] s
  repeat' first
    | with_reducible assumption
    | with_reducible apply Kept.ite
    | ((with_reducible apply Kept.by (warpDecoded_keeps ..)); case hs => rfl)
    | split

theorem storeRecon_keeps (s : State) (a1 : Nat) (a2 : Nat) (a3 : Work) (a4 : Option Nat) (a5 : List Byte) : Kept [.mem] s (storeRecon s a1 a2 a3 a4 a5) := by
  unfold storeRecon
  have h0 := Kept.refl [.mem] s
  repeat' first
    | with_reducible assumption
    | (extract_lets +onlyGivenNames x; (refine Kept.cutAA x ?_ (fun hx => ?_)); subst x; rotate_left; clear_value x)
    | (extract_lets +onlyGivenNames x; (have hf := fun y => x y); clear hf; subst x)
    | ((with_reducible apply Kept.by (putAt_keeps ..)); case hs => rfl)
    | (with_reducible apply Kept.foldl; (intro t a; have h1 := Kept.refl [.mem] t))
    | dsimp only
    | split

theorem formOutput_keeps (s : State) (a1 : Nat) (a2 : Nat) (a3 : Work) : Kept [.mem] s (formOutput s a1 a2 a3) := by
  unfold formOutput
  have h0 := Kept.refl [.mem] s
  repeat' first
    | with_reducible assumption
    | with_reducible apply Kept.ite
    | ((with_reducible apply Kept.by (storeRecon_keeps ..)); case hs => rfl)
    | ((with_reducible apply Kept.by (putAt_keeps ..)); case hs => rfl)
    | dsimp only
    | split

theorem decodeEnd_keeps (s : State) (a1 : Nat) (a2 : Nat) (a3 : Work) : Kept [.ctxs] s (decodeEnd s a1 a2 a3) := by
  unfold decodeEnd
  have h0 := Kept.refl [.ctxs] s
  repeat' first
    | with_reducible assumption
    | (extract_lets +onlyGivenNames x; clear_value x)
    | ((with_reducible apply Kept.by (putCtx_keeps ..)); case hs => rfl)
    | dsimp only
    | split

theorem decodeFailed_keeps (s : State) (a1 : Nat) (a2 : Nat) : Kept [.ctxs] s (decodeFailed s a1 a2) := by
  unfold decodeFailed
  have h0 := Kept.refl [.ctxs] s
  repeat' first
    | with_reducible assumption
    | (extract_lets +onlyGivenNames x; clear_value x)
    | ((with_reducible apply Kept.by (putCtx_keeps ..)); case hs => rfl)

end Sys2Proof.Machine
end

