-- ==== Sys2Proof/Laws/KeepMotion.lean ====
section
/-! SUPPORT. Which parts of the state each operation of Machine/Motion.lean may change. -/
namespace Sys2Proof.Machine
open Sys2Proof
seal findObj defaultOf getReg getBlob

theorem addVecs_keeps (s : State) (a1 : Nat) (a2 : Nat) (a3 : List Vec × List Nat) : Kept [.mem, .sync, .works, .ctxs] s (addVecs s a1 a2 a3) := by
  unfold addVecs
  have h0 := Kept.refl [.mem, .sync, .works, .ctxs] s
  repeat' first
    | with_reducible assumption
    | (extract_lets +onlyGivenNames x; clear_value x)
    | ((with_reducible apply Kept.by (deliverVectors_keeps ..)); case hs => rfl)
    | ((with_reducible apply Kept.by (putCtx_keeps ..)); case hs => rfl)

theorem searchOlv_keeps (s : State) (a1 : Nat) (a2 : Nat) (a3 : Nat) : Kept [.mem, .sync, .works, .ctxs] s (searchOlv s a1 a2 a3) := by
  unfold searchOlv
  have h0 := Kept.refl [.mem, .sync, .works, .ctxs] s
  repeat' first
    | with_reducible assumption
    | (extract_lets +onlyGivenNames x; clear_value x)
    | with_reducible apply Kept.ite
    | ((with_reducible apply Kept.by (addVecs_keeps ..)); case hs => rfl)
    | dsimp only
    | split

theorem refillBudget_keeps (s : State) (a1 : Nat) (a2 : Nat) (a3 : Nat) : Kept [.ctxs, .free] s (refillBudget s a1 a2 a3) := by
  unfold refillBudget
  have h0 := Kept.refl [.ctxs, .free] s
  repeat' first
    | with_reducible assumption
    | (extract_lets +onlyGivenNames x; clear_value x)
    | with_reducible apply Kept.ite
    | ((with_reducible apply Kept.by (putCtx_keeps ..)); case hs => rfl)
    | ((with_reducible refine Kept.upd ?_ (fun p hp => ?_)); rotate_left; (cases p <;> first | exact absurd (by decide) hp | rfl); with_reducible assumption)

theorem searchService_keeps (s : State) (a1 : Nat) (a2 : Nat) (a3 : Nat) : Kept [.mem, .sync, .works, .ctxs, .free] s (searchService s a1 a2 a3) := by
  unfold searchService
  have h0 := Kept.refl [.mem, .sync, .works, .ctxs, .free] s
  repeat' first
    | with_reducible assumption
    | (extract_lets +onlyGivenNames x; clear_value x)
    | with_reducible apply Kept.ite
    | ((with_reducible apply Kept.by (refillBudget_keeps ..)); case hs => rfl)
    | ((with_reducible apply Kept.by (putCtx_keeps ..)); case hs => rfl)
    | ((with_reducible apply Kept.by (addVecs_keeps ..)); case hs => rfl)
    | dsimp only
    | split

theorem searchMotion_keeps (s : State) (a1 : Nat) (a2 : Nat) (a3 : Nat) (a4 : Nat) : Kept [.mem, .sync, .works, .ctxs, .free] s (searchMotion s a1 a2 a3 a4) := by
  unfold searchMotion
  have h0 := Kept.refl [.mem, .sync, .works, .ctxs, .free] s
  repeat' first
    | with_reducible assumption
    | (extract_lets +onlyGivenNames x; clear_value x)
    | with_reducible apply Kept.ite
    | ((with_reducible apply Kept.by (searchService_keeps ..)); case hs => rfl)
    | ((with_reducible apply Kept.by (searchOlv_keeps ..)); case hs => rfl)

end Sys2Proof.Machine
end

