-- ==== Sys2Proof/Laws/KeepVideo.lean ====
section
/-! SUPPORT. Which parts of the state each operation of Machine/Video.lean may change. -/
namespace Sys2Proof.Machine
open Sys2Proof
seal findObj defaultOf getReg getBlob

theorem setFilterStatus_keeps (s : State) (a1 : Nat) : Kept [.dict] s (setFilterStatus s a1) := by
  unfold setFilterStatus
  have h0 := Kept.refl [.dict] s
  repeat' first
    | with_reducible assumption
    | ((with_reducible apply Kept.by (setReg_keeps ..)); case hs => rfl)

theorem loadFilter_keeps (s : State) : Kept [.dict, .media] s (loadFilter s) := by
  unfold loadFilter
  have h0 := Kept.refl [.dict, .media] s
  repeat' first
    | with_reducible assumption
    | (extract_lets +onlyGivenNames x; clear_value x)
    | with_reducible apply Kept.ite
    | ((with_reducible apply Kept.by (setFilterStatus_keeps ..)); case hs => rfl)
    | ((with_reducible refine Kept.upd ?_ (fun p hp => ?_)); rotate_left; (cases p <;> first | exact absurd (by decide) hp | rfl); with_reducible assumption)

theorem unloadFilter_keeps (s : State) : Kept [.dict, .media] s (unloadFilter s) := by
  unfold unloadFilter
  have h0 := Kept.refl [.dict, .media] s
  repeat' first
    | with_reducible assumption
    | (extract_lets +onlyGivenNames x; clear_value x)
    | with_reducible apply Kept.ite
    | ((with_reducible apply Kept.by (setFilterStatus_keeps ..)); case hs => rfl)
    | ((with_reducible refine Kept.upd ?_ (fun p hp => ?_)); rotate_left; (cases p <;> first | exact absurd (by decide) hp | rfl); with_reducible assumption)

theorem switchFilter_keeps (s : State) (a1 : Nat) : Kept [.dict, .media] s (switchFilter s a1) := by
  unfold switchFilter
  have h0 := Kept.refl [.dict, .media] s
  repeat' first
    | with_reducible assumption
    | (extract_lets +onlyGivenNames x; clear_value x)
    | with_reducible apply Kept.ite
    | ((with_reducible apply Kept.by (setFilterStatus_keeps ..)); case hs => rfl)
    | ((with_reducible apply Kept.by (setReg_keeps ..)); case hs => rfl)
    | dsimp only
    | split
    | ((with_reducible refine Kept.upd ?_ (fun p hp => ?_)); rotate_left; (cases p <;> first | exact absurd (by decide) hp | rfl); with_reducible assumption)

theorem filterAtTick_keeps (s : State) : Kept [.dict, .media] s (filterAtTick s) := by
  unfold filterAtTick
  have h0 := Kept.refl [.dict, .media] s
  repeat' first
    | with_reducible assumption
    | with_reducible apply Kept.ite
    | ((with_reducible apply Kept.by (switchFilter_keeps ..)); case hs => rfl)
    | split

theorem putScaled_keeps (s : State) (a1 : Nat) (a2 : Nat) (a3 : Work) (a4 : List Byte) : Kept [.mem, .sync, .works] s (putScaled s a1 a2 a3 a4) := by
  unfold putScaled
  have h0 := Kept.refl [.mem, .sync, .works] s
  repeat' first
    | (extract_lets +onlyGivenNames x; clear_value x)
    | ((with_reducible apply Kept.by (deliverVectors_keeps ..)); case hs => rfl)
    | ((with_reducible apply Kept.by (putWork_keeps ..)); case hs => rfl)
    | ((with_reducible refine Kept.upd ?_ (fun p hp => ?_)); rotate_left; (cases p <;> first | exact absurd (by decide) hp | rfl); with_reducible assumption)

theorem scaleFrame_keeps (s : State) (a1 : Nat) (a2 : WorkId) : Kept [.mem, .sync, .works] s (scaleFrame s a1 a2) := by
  unfold scaleFrame
  have h0 := Kept.refl [.mem, .sync, .works] s
  repeat' first
    | with_reducible assumption
    | with_reducible apply Kept.ite
    | ((with_reducible apply Kept.by (putScaled_keeps ..)); case hs => rfl)
    | dsimp only
    | split

theorem placeOutput_keeps (s : State) (a1 : Work) (a2 : List Byte) : KeptP [.mem] s (placeOutput s a1 a2) := by
  unfold placeOutput
  have h0 := Kept.refl [.mem] s
  repeat' first
    | with_reducible assumption
    | with_reducible apply KeptP.mk
    | dsimp only
    | split
    | ((with_reducible refine Kept.upd ?_ (fun p hp => ?_)); rotate_left; (cases p <;> first | exact absurd (by decide) hp | rfl); with_reducible assumption)

theorem endPicture_keeps (s : State) (a1 : Nat) (a2 : Nat) (a3 : Work) : Kept [.mem, .works, .ctxs] s (endPicture s a1 a2 a3) := by
  unfold endPicture
  have h0 := Kept.refl [.mem, .works, .ctxs] s
  repeat' first
    | with_reducible assumption
    | ((with_reducible apply Kept.by (KeptP.fst (placeOutput_keeps ..))); case hs => rfl)
    | ((with_reducible apply Kept.by (putWork_keeps ..)); case hs => rfl)
    | ((with_reducible apply Kept.by (putCtx_keeps ..)); case hs => rfl)

theorem encodeTile_keeps (s : State) (a1 : Nat) (a2 : Nat) (a3 : Nat) (a4 : Nat) (a5 : Work) : Kept [.mem, .works, .ctxs] s (encodeTile s a1 a2 a3 a4 a5) := by
  unfold encodeTile
  have h0 := Kept.refl [.mem, .works, .ctxs] s
  repeat' first
    | with_reducible assumption
    | with_reducible apply Kept.ite
    | ((with_reducible apply Kept.by (endPicture_keeps ..)); case hs => rfl)
    | ((with_reducible apply Kept.by (putWork_keeps ..)); case hs => rfl)

theorem showPicture_keeps (s : State) (a1 : Nat) (a2 : Work) (a3 : Config.AuFacts) (a4 : List Byte) : Kept [.mem, .works, .ctxs] s (showPicture s a1 a2 a3 a4) := by
  unfold showPicture
  have h0 := Kept.refl [.mem, .works, .ctxs] s
  repeat' first
    | with_reducible assumption
    | (extract_lets +onlyGivenNames x; clear_value x)
    | with_reducible apply Kept.ite
    | ((with_reducible apply Kept.by (KeptP.fst (placeOutput_keeps ..))); case hs => rfl)
    | ((with_reducible apply Kept.by (putWork_keeps ..)); case hs => rfl)
    | ((with_reducible apply Kept.by (putCtx_keeps ..)); case hs => rfl)

theorem outputPicture_keeps (a0 : Nat) (s : State) (a2 : Nat) : Kept [.works, .ctxs] s (outputPicture a0 s a2) := by
  unfold outputPicture
  have h0 := Kept.refl [.works, .ctxs] s
  repeat' first
    | with_reducible assumption
    | (extract_lets +onlyGivenNames x; clear_value x)
    | with_reducible apply Kept.ite
    | ((with_reducible apply Kept.by (putWork_keeps ..)); case hs => rfl)
    | ((with_reducible apply Kept.by (putCtx_keeps ..)); case hs => rfl)
    | split

theorem flushDecoder_keeps (s : State) (a1 : Nat) : Kept [.works, .ctxs] s (flushDecoder s a1) := by
  unfold flushDecoder
  have h0 := Kept.refl [.works, .ctxs] s
  repeat' first
    | with_reducible assumption
    | (extract_lets +onlyGivenNames x; clear_value x)
    | with_reducible apply Kept.ite
    | ((with_reducible apply Kept.by (outputPicture_keeps ..)); case hs => rfl)
    | (with_reducible apply Kept.foldl; (intro t a; have h1 := Kept.refl [.works, .ctxs] t))

theorem decodeUnit_keeps (s : State) (a1 : Nat) (a2 : Nat) (a3 : Work) : Kept [.mem, .works, .ctxs] s (decodeUnit s a1 a2 a3) := by
  unfold decodeUnit
  have h0 := Kept.refl [.mem, .works, .ctxs] s
  repeat' first
    | with_reducible assumption
    | (extract_lets +onlyGivenNames x; clear_value x)
    | ((with_reducible apply Kept.by (putCtx_keeps ..)); case hs => rfl)
    | ((with_reducible apply Kept.by (putWork_keeps ..)); case hs => rfl)
    | ((with_reducible apply Kept.by (showPicture_keeps ..)); case hs => rfl)
    | ((with_reducible apply Kept.by (flushDecoder_keeps ..)); case hs => rfl)
    | ((with_reducible apply Kept.by (outputPicture_keeps ..)); case hs => rfl)
    | (with_reducible apply Kept.foldl; (intro t a; have h1 := Kept.refl [.mem, .works, .ctxs] t))
    | split

theorem decodeTile_keeps (s : State) (a1 : Nat) (a2 : Nat) (a3 : Nat) (a4 : Nat) (a5 : Work) : Kept [.mem, .works, .ctxs] s (decodeTile s a1 a2 a3 a4 a5) := by
  unfold decodeTile
  have h0 := Kept.refl [.mem, .works, .ctxs] s
  repeat' first
    | with_reducible assumption
    | with_reducible apply Kept.ite
    | ((with_reducible apply Kept.by (putWork_keeps ..)); case hs => rfl)
    | ((with_reducible apply Kept.by (decodeUnit_keeps ..)); case hs => rfl)

theorem tileJob_keeps (s : State) (a1 : Nat) (a2 : WorkId) (a3 : Nat) : Kept [.mem, .works, .ctxs] s (tileJob s a1 a2 a3) := by
  unfold tileJob
  have h0 := Kept.refl [.mem, .works, .ctxs] s
  repeat' first
    | with_reducible assumption
    | with_reducible apply Kept.ite
    | ((with_reducible apply Kept.by (encodeTile_keeps ..)); case hs => rfl)
    | ((with_reducible apply Kept.by (decodeTile_keeps ..)); case hs => rfl)
    | dsimp only
    | split

end Sys2Proof.Machine
end

