-- ==== Sys2Proof/Laws/KeepEngine.lean ====
section
/-! SUPPORT. Which parts of the state each operation of Machine/Engine.lean may change. -/
namespace Sys2Proof.Machine
open Sys2Proof
seal findObj defaultOf getReg getBlob

theorem engineDone_keeps (s : State) (a1 : Work) : Kept [.works] s (engineDone s a1) := by
  unfold engineDone
  have h0 := Kept.refl [.works] s
  repeat' first
    | with_reducible assumption
    | ((with_reducible apply Kept.by (putWork_keeps ..)); case hs => rfl)

theorem compressTask_keeps (s : State) (a1 : Nat) (a2 : WorkId) : Kept [.works] s (compressTask s a1 a2) := by
  unfold compressTask
  have h0 := Kept.refl [.works] s
  repeat' first
    | with_reducible assumption
    | with_reducible apply Kept.ite
    | ((with_reducible apply Kept.by (engineDone_keeps ..)); case hs => rfl)
    | dsimp only
    | split

theorem decompressTask_keeps (s : State) (a1 : Nat) (a2 : WorkId) : Kept [.works] s (decompressTask s a1 a2) := by
  unfold decompressTask
  have h0 := Kept.refl [.works] s
  repeat' first
    | with_reducible assumption
    | with_reducible apply Kept.ite
    | ((with_reducible apply Kept.by (engineDone_keeps ..)); case hs => rfl)
    | dsimp only
    | split

end Sys2Proof.Machine
end

