-- ==== Sys2Proof/Laws/KeepSources.lean ====
section
/-! SUPPORT. Which parts of the state each operation of Machine/Sources.lean may change. -/
namespace Sys2Proof.Machine
open Sys2Proof
seal findObj defaultOf getReg getBlob

theorem putSource_keeps (s : State) (a1 : Nat) (a2 : TickSource) : Kept [.clk] s (putSource s a1 a2) := by
  unfold putSource
  have h0 := Kept.refl [.clk] s
  repeat' first
    | (extract_lets +onlyGivenNames x; clear_value x)
    | ((with_reducible refine Kept.upd ?_ (fun p hp => ?_)); rotate_left; (cases p <;> first | exact absurd (by decide) hp | rfl); with_reducible assumption)

theorem qualifySource_keeps (s : State) (a1 : Nat) : Kept [.clk] s (qualifySource s a1) := by
  unfold qualifySource
  have h0 := Kept.refl [.clk] s
  repeat' first
    | with_reducible assumption
    | (extract_lets +onlyGivenNames x; (refine Kept.cutAA x ?_ (fun hx => ?_)); subst x; rotate_left; clear_value x)
    | (extract_lets +onlyGivenNames x; clear_value x)
    | with_reducible apply Kept.ite
    | ((with_reducible apply Kept.by (putSource_keeps ..)); case hs => rfl)
    | ((with_reducible refine Kept.upd ?_ (fun p hp => ?_)); rotate_left; (cases p <;> first | exact absurd (by decide) hp | rfl); with_reducible assumption)

theorem turnSource_keeps (s : State) (a1 : Nat) : Kept [.dict, .ctl] s (turnSource s a1) := by
  unfold turnSource
  have h0 := Kept.refl [.dict, .ctl] s
  repeat' first
    | with_reducible assumption
    | (extract_lets +onlyGivenNames x; (refine Kept.cutAA x ?_ (fun hx => ?_)); subst x; rotate_left; clear_value x)
    | (extract_lets +onlyGivenNames x; clear_value x)
    | with_reducible apply Kept.ite
    | ((with_reducible apply Kept.by (logFault_keeps ..)); case hs => rfl)
    | ((with_reducible apply Kept.by (addReg_keeps ..)); case hs => rfl)
    | ((with_reducible apply Kept.by (setReg_keeps ..)); case hs => rfl)

theorem endHoldover_keeps (s : State) : Kept [.dict, .clk] s (endHoldover s) := by
  unfold endHoldover
  have h0 := Kept.refl [.dict, .clk] s
  repeat' first
    | with_reducible assumption
    | (extract_lets +onlyGivenNames x; (have hf := fun y => x y); clear hf; subst x)
    | (extract_lets +onlyGivenNames x; clear_value x)
    | ((with_reducible apply Kept.by (addReg_keeps ..)); case hs => rfl)
    | split
    | ((with_reducible refine Kept.upd ?_ (fun p hp => ?_)); rotate_left; (cases p <;> first | exact absurd (by decide) hp | rfl); with_reducible assumption)

theorem settleHoldover_keeps (s : State) : Kept [.dict, .clk] s (settleHoldover s) := by
  unfold settleHoldover
  have h0 := Kept.refl [.dict, .clk] s
  repeat' first
    | with_reducible assumption
    | with_reducible apply Kept.ite
    | ((with_reducible apply Kept.by (endHoldover_keeps ..)); case hs => rfl)

theorem loseSource_keeps (s : State) (a1 : Nat) : Kept [.dict, .clk, .ctl] s (loseSource s a1) := by
  unfold loseSource
  have h0 := Kept.refl [.dict, .clk, .ctl] s
  repeat' first
    | with_reducible assumption
    | (extract_lets +onlyGivenNames x; (refine Kept.cutAA x ?_ (fun hx => ?_)); subst x; rotate_left; clear_value x)
    | (extract_lets +onlyGivenNames x; clear_value x)
    | with_reducible apply Kept.ite
    | ((with_reducible apply Kept.by (putSource_keeps ..)); case hs => rfl)
    | ((with_reducible apply Kept.by (settleHoldover_keeps ..)); case hs => rfl)
    | ((with_reducible apply Kept.by (turnSource_keeps ..)); case hs => rfl)
    | ((with_reducible refine Kept.upd ?_ (fun p hp => ?_)); rotate_left; (cases p <;> first | exact absurd (by decide) hp | rfl); with_reducible assumption)

theorem pruneOffers_keeps (s : State) (a1 : Nat × Nat × Nat × Nat → Bool) : Kept [.dict, .clk, .ctl] s (pruneOffers s a1) := by
  unfold pruneOffers
  have h0 := Kept.refl [.dict, .clk, .ctl] s
  repeat' first
    | with_reducible assumption
    | (extract_lets +onlyGivenNames x; (refine Kept.cutAA x ?_ (fun hx => ?_)); subst x; rotate_left; clear_value x)
    | (extract_lets +onlyGivenNames x; clear_value x)
    | with_reducible apply Kept.ite
    | ((with_reducible apply Kept.by (loseSource_keeps ..)); case hs => rfl)
    | ((with_reducible refine Kept.upd ?_ (fun p hp => ?_)); rotate_left; (cases p <;> first | exact absurd (by decide) hp | rfl); with_reducible assumption)

theorem holdSource_keeps (s : State) (a1 : Nat) : Kept [.clk] s (holdSource s a1) := by
  unfold holdSource
  have h0 := Kept.refl [.clk] s
  repeat' first
    | with_reducible assumption
    | (extract_lets +onlyGivenNames x; clear_value x)
    | with_reducible apply Kept.ite
    | ((with_reducible apply Kept.by (putSource_keeps ..)); case hs => rfl)

theorem stepTime_keeps (s : State) (a1 : Int) : Kept [.dict, .clk, .ctl] s (stepTime s a1) := by
  unfold stepTime
  have h0 := Kept.refl [.dict, .clk, .ctl] s
  repeat' first
    | (extract_lets +onlyGivenNames x; clear_value x)
    | ((with_reducible apply Kept.by (logFault_keeps ..)); case hs => rfl)
    | ((with_reducible refine Kept.upd ?_ (fun p hp => ?_)); rotate_left; (cases p <;> first | exact absurd (by decide) hp | rfl); with_reducible assumption)

theorem slewTime_keeps (s : State) : Kept [.dict] s (slewTime s) := by
  unfold slewTime
  have h0 := Kept.refl [.dict] s
  repeat' first
    | with_reducible assumption
    | (extract_lets +onlyGivenNames x; clear_value x)
    | with_reducible apply Kept.ite
    | ((with_reducible apply Kept.by (setReg_keeps ..)); case hs => rfl)

theorem seedTime_keeps (s : State) : Kept [.dict, .clk, .ctl] s (seedTime s) := by
  unfold seedTime
  have h0 := Kept.refl [.dict, .clk, .ctl] s
  repeat' first
    | with_reducible assumption
    | (extract_lets +onlyGivenNames x; clear_value x)
    | with_reducible apply Kept.ite
    | ((with_reducible apply Kept.by (stepTime_keeps ..)); case hs => rfl)
    | ((with_reducible refine Kept.upd ?_ (fun p hp => ?_)); rotate_left; (cases p <;> first | exact absurd (by decide) hp | rfl); with_reducible assumption)

theorem selectSource_keeps (s : State) : Kept [.dict, .clk, .ctl] s (selectSource s) := by
  unfold selectSource
  have h0 := Kept.refl [.dict, .clk, .ctl] s
  repeat' first
    | with_reducible assumption
    | ((with_reducible apply Kept.by (seedTime_keeps ..)); case hs => rfl)
    | ((with_reducible apply Kept.by (settleHoldover_keeps ..)); case hs => rfl)
    | ((with_reducible apply Kept.by (turnSource_keeps ..)); case hs => rfl)

theorem stepTimebase_keeps (s : State) (a1 : Int) : Kept [.dict, .clk, .ctl] s (stepTimebase s a1) := by
  unfold stepTimebase
  have h0 := Kept.refl [.dict, .clk, .ctl] s
  repeat' first
    | with_reducible assumption
    | with_reducible apply Kept.ite
    | ((with_reducible apply Kept.by (setReg_keeps ..)); case hs => rfl)
    | ((with_reducible apply Kept.by (stepTime_keeps ..)); case hs => rfl)

end Sys2Proof.Machine
end

