-- ==== Sys2Proof/Laws/KeepFabric.lean ====
section
/-! SUPPORT. Which parts of the state each operation of Machine/Fabric.lean may change. -/
namespace Sys2Proof.Machine
open Sys2Proof
seal findObj defaultOf getReg getBlob

theorem putLink_keeps (s : State) (a1 : Nat) (a2 : Link) : Kept [.fabric] s (putLink s a1 a2) := by
  unfold putLink
  have h0 := Kept.refl [.fabric] s
  repeat' first
    | (extract_lets +onlyGivenNames x; clear_value x)
    | ((with_reducible refine Kept.upd ?_ (fun p hp => ?_)); rotate_left; (cases p <;> first | exact absurd (by decide) hp | rfl); with_reducible assumption)

theorem setLinkState_keeps (s : State) (a1 : Nat) (a2 : Nat) : Kept [.dict] s (setLinkState s a1 a2) := by
  unfold setLinkState
  have h0 := Kept.refl [.dict] s
  repeat' first
    | with_reducible assumption
    | ((with_reducible apply Kept.by (setReg_keeps ..)); case hs => rfl)

theorem pinFlow_keeps (s : State) (a1 : Nat) (a2 : Nat) (a3 : Nat) (a4 : Nat) : Kept [.fabric] s (pinFlow s a1 a2 a3 a4) := by
  unfold pinFlow
  have h0 := Kept.refl [.fabric] s
  repeat' first
    | (extract_lets +onlyGivenNames x; clear_value x)
    | ((with_reducible refine Kept.upd ?_ (fun p hp => ?_)); rotate_left; (cases p <;> first | exact absurd (by decide) hp | rfl); with_reducible assumption)

theorem pumpLink_keeps (a0 : Nat) (a1 : Nat) (s : State) : Kept [.dict, .fabric, .out] s (pumpLink a0 a1 s) := by
  induction a1 generalizing a0 s with
  | zero =>
    unfold pumpLink
    have h0 := Kept.refl [.dict, .fabric, .out] s
    repeat' first
    | with_reducible assumption
  | succ n ih =>
    unfold pumpLink
    have h0 := Kept.refl [.dict, .fabric, .out] s
    repeat' first
    | with_reducible apply Kept.trans _ (ih ..)
    | with_reducible assumption
    | (extract_lets +onlyGivenNames x; clear_value x)
    | ((with_reducible apply Kept.by (putLink_keeps ..)); case hs => rfl)
    | ((with_reducible apply Kept.by (emit_keeps ..)); case hs => rfl)
    | ((with_reducible apply Kept.by (addReg_keeps ..)); case hs => rfl)
    | dsimp only
    | split

theorem serveLink_keeps (s : State) (a1 : Nat) : Kept [.dict, .fabric, .out] s (serveLink s a1) := by
  unfold serveLink
  have h0 := Kept.refl [.dict, .fabric, .out] s
  repeat' first
    | with_reducible assumption
    | ((with_reducible apply Kept.by (pumpLink_keeps ..)); case hs => rfl)

theorem sendFrame_keeps (s : State) (a1 : Nat) (a2 : PaltonFrame) : Kept [.dict, .fabric, .out] s (sendFrame s a1 a2) := by
  unfold sendFrame
  have h0 := Kept.refl [.dict, .fabric, .out] s
  repeat' first
    | with_reducible assumption
    | (extract_lets +onlyGivenNames x; clear_value x)
    | ((with_reducible apply Kept.by (serveLink_keeps ..)); case hs => rfl)
    | ((with_reducible apply Kept.by (putLink_keeps ..)); case hs => rfl)

theorem sendKept_keeps (s : State) (a1 : KeptMsg) : Kept [.dict, .fabric, .out] s (sendKept s a1) := by
  unfold sendKept
  have h0 := Kept.refl [.dict, .fabric, .out] s
  repeat' first
    | with_reducible assumption
    | (extract_lets +onlyGivenNames x; clear_value x)
    | ((with_reducible apply Kept.by (pinFlow_keeps ..)); case hs => rfl)
    | ((with_reducible apply Kept.by (sendFrame_keeps ..)); case hs => rfl)
    | (with_reducible apply Kept.foldl; (intro t a; have h1 := Kept.refl [.dict, .fabric, .out] t))
    | dsimp only
    | split

theorem sendMessage_keeps (s : State) (a1 : Nat) (a2 : Nat) (a3 : List Byte) : KeptP [.dict, .fabric, .out] s (sendMessage s a1 a2 a3) := by
  unfold sendMessage
  have h0 := Kept.refl [.dict, .fabric, .out] s
  repeat' first
    | with_reducible assumption
    | (extract_lets +onlyGivenNames x; (refine Kept.cutBA x ?_ (fun hx => ?_)); subst x; rotate_left; clear_value x)
    | (extract_lets +onlyGivenNames x; clear_value x)
    | ((with_reducible apply Kept.by (sendKept_keeps ..)); case hs => rfl)
    | ((with_reducible apply Kept.by (emit_keeps ..)); case hs => rfl)
    | with_reducible apply KeptP.mk
    | ((with_reducible refine Kept.upd ?_ (fun p hp => ?_)); rotate_left; (cases p <;> first | exact absurd (by decide) hp | rfl); with_reducible assumption)

theorem resendKept_keeps (s : State) (a1 : KeptMsg → Bool) : Kept [.dict, .fabric, .out] s (resendKept s a1) := by
  unfold resendKept
  have h0 := Kept.refl [.dict, .fabric, .out] s
  repeat' first
    | with_reducible assumption
    | ((with_reducible apply Kept.by (sendKept_keeps ..)); case hs => rfl)
    | (with_reducible apply Kept.foldl; (intro t a; have h1 := Kept.refl [.dict, .fabric, .out] t))

theorem countReachable_keeps (s : State) : Kept [.dict] s (countReachable s) := by
  unfold countReachable
  have h0 := Kept.refl [.dict] s
  repeat' first
    | with_reducible assumption
    | ((with_reducible apply Kept.by (setReg_keeps ..)); case hs => rfl)

theorem floodOwn_keeps (s : State) : Kept [.dict, .fabric, .out] s (floodOwn s) := by
  unfold floodOwn
  have h0 := Kept.refl [.dict, .fabric, .out] s
  repeat' first
    | with_reducible assumption
    | (extract_lets +onlyGivenNames x; (refine Kept.cutAA x ?_ (fun hx => ?_)); subst x; rotate_left; clear_value x)
    | (extract_lets +onlyGivenNames x; clear_value x)
    | with_reducible apply Kept.ite
    | ((with_reducible apply Kept.by (countReachable_keeps ..)); case hs => rfl)
    | ((with_reducible apply Kept.by (emit_keeps ..)); case hs => rfl)
    | (with_reducible apply Kept.foldl; (intro t a; have h1 := Kept.refl [.dict, .fabric, .out] t))
    | ((with_reducible refine Kept.upd ?_ (fun p hp => ?_)); rotate_left; (cases p <;> first | exact absurd (by decide) hp | rfl); with_reducible assumption)

theorem failLink_keeps (s : State) (a1 : Nat) : Kept [.dict, .ctl, .fabric, .out] s (failLink s a1) := by
  unfold failLink
  have h0 := Kept.refl [.dict, .ctl, .fabric, .out] s
  repeat' first
    | with_reducible assumption
    | (extract_lets +onlyGivenNames x; (refine Kept.cutAA x ?_ (fun hx => ?_)); subst x; rotate_left; clear_value x)
    | (extract_lets +onlyGivenNames x; clear_value x)
    | ((with_reducible apply Kept.by (logFault_keeps ..)); case hs => rfl)
    | ((with_reducible apply Kept.by (setLinkState_keeps ..)); case hs => rfl)
    | ((with_reducible apply Kept.by (putLink_keeps ..)); case hs => rfl)
    | ((with_reducible apply Kept.by (resendKept_keeps ..)); case hs => rfl)
    | ((with_reducible apply Kept.by (floodOwn_keeps ..)); case hs => rfl)
    | ((with_reducible refine Kept.upd ?_ (fun p hp => ?_)); rotate_left; (cases p <;> first | exact absurd (by decide) hp | rfl); with_reducible assumption)

theorem askRetry_keeps (s : State) (a1 : Nat) : Kept [.dict, .fabric, .out] s (askRetry s a1) := by
  unfold askRetry
  have h0 := Kept.refl [.dict, .fabric, .out] s
  repeat' first
    | with_reducible assumption
    | (extract_lets +onlyGivenNames x; clear_value x)
    | ((with_reducible apply Kept.by (emit_keeps ..)); case hs => rfl)
    | ((with_reducible apply Kept.by (addReg_keeps ..)); case hs => rfl)
    | ((with_reducible apply Kept.by (putLink_keeps ..)); case hs => rfl)

theorem putFlowIn_keeps (s : State) (a1 : FlowIn) : Kept [.fabric] s (putFlowIn s a1) := by
  unfold putFlowIn
  have h0 := Kept.refl [.fabric] s
  repeat' first
    | (extract_lets +onlyGivenNames x; clear_value x)
    | ((with_reducible refine Kept.upd ?_ (fun p hp => ?_)); rotate_left; (cases p <;> first | exact absurd (by decide) hp | rfl); with_reducible assumption)

theorem receiveFrame_keeps (s : State) (a1 : PaltonFrame) : Kept [.fabric, .out] s (receiveFrame s a1) := by
  unfold receiveFrame
  have h0 := Kept.refl [.fabric, .out] s
  repeat' first
    | with_reducible assumption
    | (extract_lets +onlyGivenNames x; (have hf := fun y => x y); clear hf; subst x)
    | (extract_lets +onlyGivenNames x; clear_value x)
    | with_reducible apply Kept.ite
    | ((with_reducible apply Kept.by (emit_keeps ..)); case hs => rfl)
    | ((with_reducible apply Kept.by (putFlowIn_keeps ..)); case hs => rfl)

theorem forwardFrame_keeps (s : State) (a1 : PaltonFrame) : Kept [.dict, .fabric, .out] s (forwardFrame s a1) := by
  unfold forwardFrame
  have h0 := Kept.refl [.dict, .fabric, .out] s
  repeat' first
    | with_reducible assumption
    | ((with_reducible apply Kept.by (sendFrame_keeps ..)); case hs => rfl)
    | ((with_reducible apply Kept.by (pinFlow_keeps ..)); case hs => rfl)
    | split

theorem dataFrame_keeps (s : State) (a1 : Nat) (a2 : PaltonFrame) : Kept [.dict, .fabric, .out] s (dataFrame s a1 a2) := by
  unfold dataFrame
  have h0 := Kept.refl [.dict, .fabric, .out] s
  repeat' first
    | with_reducible assumption
    | (extract_lets +onlyGivenNames x; (refine Kept.cutAA x ?_ (fun hx => ?_)); subst x; rotate_left; clear_value x)
    | (extract_lets +onlyGivenNames x; clear_value x)
    | with_reducible apply Kept.ite
    | ((with_reducible apply Kept.by (askRetry_keeps ..)); case hs => rfl)
    | ((with_reducible apply Kept.by (addReg_keeps ..)); case hs => rfl)
    | ((with_reducible apply Kept.by (serveLink_keeps ..)); case hs => rfl)
    | ((with_reducible apply Kept.by (putLink_keeps ..)); case hs => rfl)
    | ((with_reducible apply Kept.by (emit_keeps ..)); case hs => rfl)
    | ((with_reducible apply Kept.by (receiveFrame_keeps ..)); case hs => rfl)
    | ((with_reducible apply Kept.by (forwardFrame_keeps ..)); case hs => rfl)

theorem controlFrame_keeps (s : State) (a1 : Nat) (a2 : Nat) (a3 : Nat) (a4 : Nat) : Kept [.dict, .fabric, .out] s (controlFrame s a1 a2 a3 a4) := by
  unfold controlFrame
  have h0 := Kept.refl [.dict, .fabric, .out] s
  repeat' first
    | with_reducible assumption
    | with_reducible apply Kept.ite
    | ((with_reducible apply Kept.by (serveLink_keeps ..)); case hs => rfl)
    | ((with_reducible apply Kept.by (putLink_keeps ..)); case hs => rfl)

theorem retryLink_keeps (s : State) (a1 : Nat) (a2 : Nat) : Kept [.dict, .ctl, .fabric, .out] s (retryLink s a1 a2) := by
  unfold retryLink
  have h0 := Kept.refl [.dict, .ctl, .fabric, .out] s
  repeat' first
    | with_reducible assumption
    | (extract_lets +onlyGivenNames x; (refine Kept.cutAA x ?_ (fun hx => ?_)); subst x; rotate_left; clear_value x)
    | (extract_lets +onlyGivenNames x; clear_value x)
    | with_reducible apply Kept.ite
    | ((with_reducible apply Kept.by (putLink_keeps ..)); case hs => rfl)
    | ((with_reducible apply Kept.by (failLink_keeps ..)); case hs => rfl)
    | ((with_reducible apply Kept.by (serveLink_keeps ..)); case hs => rfl)
    | ((with_reducible apply Kept.by (emit_keeps ..)); case hs => rfl)
    | (with_reducible apply Kept.foldl; (intro t a; have h1 := Kept.refl [.dict, .ctl, .fabric, .out] t))

theorem trainLink_keeps (s : State) (a1 : Nat) (a2 : Bool) : Kept [.dict, .ctl, .fabric] s (trainLink s a1 a2) := by
  unfold trainLink
  have h0 := Kept.refl [.dict, .ctl, .fabric] s
  repeat' first
    | with_reducible assumption
    | (extract_lets +onlyGivenNames x; (refine Kept.cutAA x ?_ (fun hx => ?_)); subst x; rotate_left; clear_value x)
    | (extract_lets +onlyGivenNames x; clear_value x)
    | with_reducible apply Kept.ite
    | ((with_reducible apply Kept.by (addReg_keeps ..)); case hs => rfl)
    | ((with_reducible apply Kept.by (setLinkState_keeps ..)); case hs => rfl)
    | ((with_reducible apply Kept.by (putLink_keeps ..)); case hs => rfl)
    | ((with_reducible apply Kept.by (logFault_keeps ..)); case hs => rfl)
    | ((with_reducible refine Kept.upd ?_ (fun p hp => ?_)); rotate_left; (cases p <;> first | exact absurd (by decide) hp | rfl); with_reducible assumption)

theorem takeAddress_keeps (s : State) (a1 : Nat) : Kept [.dict, .ctl] s (takeAddress s a1) := by
  unfold takeAddress
  have h0 := Kept.refl [.dict, .ctl] s
  repeat' first
    | with_reducible assumption
    | (extract_lets +onlyGivenNames x; (refine Kept.cutAA x ?_ (fun hx => ?_)); subst x; rotate_left; clear_value x)
    | (extract_lets +onlyGivenNames x; clear_value x)
    | with_reducible apply Kept.ite
    | ((with_reducible apply Kept.by (setReg_keeps ..)); case hs => rfl)
    | ((with_reducible apply Kept.by (logFault_keeps ..)); case hs => rfl)
    | ((with_reducible apply Kept.by (addReg_keeps ..)); case hs => rfl)

theorem findRoot_keeps (s : State) : Kept [.dict, .ctl, .fabric] s (findRoot s) := by
  unfold findRoot
  have h0 := Kept.refl [.dict, .ctl, .fabric] s
  repeat' first
    | with_reducible assumption
    | (extract_lets +onlyGivenNames x; (refine Kept.cutAA x ?_ (fun hx => ?_)); subst x; rotate_left; clear_value x)
    | (extract_lets +onlyGivenNames x; (have hf := fun y => x y); clear hf; subst x)
    | (extract_lets +onlyGivenNames x; clear_value x)
    | with_reducible apply Kept.ite
    | ((with_reducible apply Kept.by (logFault_keeps ..)); case hs => rfl)
    | ((with_reducible apply Kept.by (setReg_keeps ..)); case hs => rfl)
    | ((with_reducible apply Kept.by (takeAddress_keeps ..)); case hs => rfl)
    | split
    | ((with_reducible refine Kept.upd ?_ (fun p hp => ?_)); rotate_left; (cases p <;> first | exact absurd (by decide) hp | rfl); with_reducible assumption)

theorem sendHellos_keeps (s : State) : Kept [.dict, .ctl, .fabric, .out] s (sendHellos s) := by
  unfold sendHellos
  have h0 := Kept.refl [.dict, .ctl, .fabric, .out] s
  repeat' first
    | with_reducible assumption
    | (extract_lets +onlyGivenNames x; (refine Kept.cutAA x ?_ (fun hx => ?_)); subst x; rotate_left; clear_value x)
    | (extract_lets +onlyGivenNames x; clear_value x)
    | ((with_reducible apply Kept.by (findRoot_keeps ..)); case hs => rfl)
    | ((with_reducible apply Kept.by (emit_keeps ..)); case hs => rfl)
    | ((with_reducible apply Kept.by (floodOwn_keeps ..)); case hs => rfl)
    | ((with_reducible apply Kept.by (setReg_keeps ..)); case hs => rfl)
    | (with_reducible apply Kept.foldl; (intro t a; have h1 := Kept.refl [.dict, .ctl, .fabric, .out] t))
    | split
    | ((with_reducible refine Kept.upd ?_ (fun p hp => ?_)); rotate_left; (cases p <;> first | exact absurd (by decide) hp | rfl); with_reducible assumption)

theorem noteDelay_keeps (s : State) (a1 : Nat) (a2 : HelloData) : Kept [.dict, .fabric] s (noteDelay s a1 a2) := by
  unfold noteDelay
  have h0 := Kept.refl [.dict, .fabric] s
  repeat' first
    | with_reducible assumption
    | (extract_lets +onlyGivenNames x; clear_value x)
    | with_reducible apply Kept.ite
    | ((with_reducible apply Kept.by (setReg_keeps ..)); case hs => rfl)
    | ((with_reducible apply Kept.by (putLink_keeps ..)); case hs => rfl)

theorem takeHello_keeps (s : State) (a1 : Nat) (a2 : HelloData) : Kept [.dict, .clk, .ctl, .fabric, .out] s (takeHello s a1 a2) := by
  unfold takeHello
  have h0 := Kept.refl [.dict, .clk, .ctl, .fabric, .out] s
  repeat' first
    | with_reducible assumption
    | (extract_lets +onlyGivenNames x; (refine Kept.cutAA x ?_ (fun hx => ?_)); subst x; rotate_left; clear_value x)
    | (extract_lets +onlyGivenNames x; clear_value x)
    | with_reducible apply Kept.ite
    | ((with_reducible apply Kept.by (setReg_keeps ..)); case hs => rfl)
    | ((with_reducible apply Kept.by (noteDelay_keeps ..)); case hs => rfl)
    | ((with_reducible apply Kept.by (putLink_keeps ..)); case hs => rfl)
    | ((with_reducible apply Kept.by (pruneOffers_keeps ..)); case hs => rfl)
    | ((with_reducible apply Kept.by (findRoot_keeps ..)); case hs => rfl)
    | ((with_reducible apply Kept.by (floodOwn_keeps ..)); case hs => rfl)
    | ((with_reducible apply Kept.by (emit_keeps ..)); case hs => rfl)
    | (with_reducible apply Kept.foldl; (intro t a; have h1 := Kept.refl [.dict, .clk, .ctl, .fabric, .out] t))
    | ((with_reducible refine Kept.upd ?_ (fun p hp => ?_)); rotate_left; (cases p <;> first | exact absurd (by decide) hp | rfl); with_reducible assumption)

theorem takeMap_keeps (s : State) (a1 : Nat) (a2 : List (Nat × Nat)) : Kept [.dict, .ctl, .fabric, .out] s (takeMap s a1 a2) := by
  unfold takeMap
  have h0 := Kept.refl [.dict, .ctl, .fabric, .out] s
  repeat' first
    | with_reducible assumption
    | (extract_lets +onlyGivenNames x; (refine Kept.cutAA x ?_ (fun hx => ?_)); subst x; rotate_left; clear_value x)
    | (extract_lets +onlyGivenNames x; clear_value x)
    | with_reducible apply Kept.ite
    | ((with_reducible apply Kept.by (takeAddress_keeps ..)); case hs => rfl)
    | ((with_reducible apply Kept.by (emit_keeps ..)); case hs => rfl)
    | ((with_reducible apply Kept.by (countReachable_keeps ..)); case hs => rfl)
    | (with_reducible apply Kept.foldl; (intro t a; have h1 := Kept.refl [.dict, .ctl, .fabric, .out] t))
    | split
    | ((with_reducible refine Kept.upd ?_ (fun p hp => ?_)); rotate_left; (cases p <;> first | exact absurd (by decide) hp | rfl); with_reducible assumption)

theorem takeFlood_keeps (s : State) (a1 : Nat) (a2 : List (Nat × Nat)) : Kept [.dict, .fabric, .out] s (takeFlood s a1 a2) := by
  unfold takeFlood
  have h0 := Kept.refl [.dict, .fabric, .out] s
  repeat' first
    | with_reducible assumption
    | (extract_lets +onlyGivenNames x; (refine Kept.cutAA x ?_ (fun hx => ?_)); subst x; rotate_left; clear_value x)
    | (extract_lets +onlyGivenNames x; clear_value x)
    | with_reducible apply Kept.ite
    | ((with_reducible apply Kept.by (emit_keeps ..)); case hs => rfl)
    | ((with_reducible apply Kept.by (countReachable_keeps ..)); case hs => rfl)
    | ((with_reducible apply Kept.by (sendKept_keeps ..)); case hs => rfl)
    | (with_reducible apply Kept.foldl; (intro t a; have h1 := Kept.refl [.dict, .fabric, .out] t))
    | ((with_reducible refine Kept.upd ?_ (fun p hp => ?_)); rotate_left; (cases p <;> first | exact absurd (by decide) hp | rfl); with_reducible assumption)

theorem unpinFlow_keeps (s : State) (a1 : Nat) (a2 : Nat) : Kept [.fabric] s (unpinFlow s a1 a2) := by
  unfold unpinFlow
  have h0 := Kept.refl [.fabric] s
  repeat' first
    | (extract_lets +onlyGivenNames x; clear_value x)
    | ((with_reducible refine Kept.upd ?_ (fun p hp => ?_)); rotate_left; (cases p <;> first | exact absurd (by decide) hp | rfl); with_reducible assumption)

theorem takeTick_keeps (s : State) (a1 : Nat) (a2 : Nat) (a3 : Nat) (a4 : Nat) (a5 : Nat) (a6 : Nat) (a7 : Nat) : Kept [.dict, .clk, .out] s (takeTick s a1 a2 a3 a4 a5 a6 a7) := by
  unfold takeTick
  have h0 := Kept.refl [.dict, .clk, .out] s
  repeat' first
    | with_reducible assumption
    | (extract_lets +onlyGivenNames x; (refine Kept.cutAA x ?_ (fun hx => ?_)); subst x; rotate_left; clear_value x)
    | (extract_lets +onlyGivenNames x; clear_value x)
    | with_reducible apply Kept.ite
    | ((with_reducible apply Kept.by (setReg_keeps ..)); case hs => rfl)
    | ((with_reducible apply Kept.by (emit_keeps ..)); case hs => rfl)
    | (with_reducible apply Kept.foldl; (intro t a; have h1 := Kept.refl [.dict, .clk, .out] t))
    | ((with_reducible refine Kept.upd ?_ (fun p hp => ?_)); rotate_left; (cases p <;> first | exact absurd (by decide) hp | rfl); with_reducible assumption)

theorem offerTick_keeps (s : State) : Kept [.out] s (offerTick s) := by
  unfold offerTick
  have h0 := Kept.refl [.out] s
  repeat' first
    | with_reducible assumption
    | (extract_lets +onlyGivenNames x; clear_value x)
    | with_reducible apply Kept.ite
    | ((with_reducible apply Kept.by (emit_keeps ..)); case hs => rfl)
    | (with_reducible apply Kept.foldl; (intro t a; have h1 := Kept.refl [.out] t))

end Sys2Proof.Machine
end

