-- ==== Sys2Proof/Laws/KeepPools.lean ====
section
/-! SUPPORT. Which parts of the state each operation of Machine/Pools.lean may change. -/
namespace Sys2Proof.Machine
open Sys2Proof
seal findObj defaultOf getReg getBlob

theorem waitPool_keeps (s : State) (a1 : Nat) (a2 : Nat) : Kept [.media] s (waitPool s a1 a2) := by
  unfold waitPool
  have h0 := Kept.refl [.media] s
  repeat' first
    | with_reducible assumption
    | (extract_lets +onlyGivenNames x; clear_value x)
    | with_reducible apply Kept.ite
    | ((with_reducible refine Kept.upd ?_ (fun p hp => ?_)); rotate_left; (cases p <;> first | exact absurd (by decide) hp | rfl); with_reducible assumption)

theorem stopWaiting_keeps (s : State) (a1 : Nat) (a2 : Nat) : Kept [.media] s (stopWaiting s a1 a2) := by
  unfold stopWaiting
  have h0 := Kept.refl [.media] s
  repeat' first
    | (extract_lets +onlyGivenNames x; clear_value x)
    | ((with_reducible refine Kept.upd ?_ (fun p hp => ?_)); rotate_left; (cases p <;> first | exact absurd (by decide) hp | rfl); with_reducible assumption)

theorem breakCycle_keeps (s : State) (a1 : List Nat) : Kept [.dict, .media] s (breakCycle s a1) := by
  unfold breakCycle
  have h0 := Kept.refl [.dict, .media] s
  repeat' first
    | with_reducible assumption
    | (extract_lets +onlyGivenNames x; (refine Kept.cutAA x ?_ (fun hx => ?_)); subst x; rotate_left; clear_value x)
    | (extract_lets +onlyGivenNames x; clear_value x)
    | ((with_reducible apply Kept.by (addReg_keeps ..)); case hs => rfl)
    | ((with_reducible refine Kept.upd ?_ (fun p hp => ?_)); rotate_left; (cases p <;> first | exact absurd (by decide) hp | rfl); with_reducible assumption)

theorem breakCycles_keeps (a0 : Nat) (s : State) : Kept [.dict, .media] s (breakCycles a0 s) := by
  induction a0 generalizing s with
  | zero =>
    unfold breakCycles
    have h0 := Kept.refl [.dict, .media] s
    repeat' first
    | with_reducible assumption
  | succ n ih =>
    unfold breakCycles
    have h0 := Kept.refl [.dict, .media] s
    repeat' first
    | with_reducible apply Kept.trans _ (ih ..)
    | with_reducible assumption
    | ((with_reducible apply Kept.by (breakCycle_keeps ..)); case hs => rfl)
    | split

theorem returnSpilled_keeps (s : State) : Kept [.media] s (returnSpilled s) := by
  unfold returnSpilled
  have h0 := Kept.refl [.media] s
  repeat' first
    | with_reducible assumption
    | (extract_lets +onlyGivenNames x; clear_value x)
    | with_reducible apply Kept.ite
    | (with_reducible apply Kept.foldl; (intro t a; have h1 := Kept.refl [.media] t))
    | ((with_reducible refine Kept.upd ?_ (fun p hp => ?_)); rotate_left; (cases p <;> first | exact absurd (by decide) hp | rfl); with_reducible assumption)

end Sys2Proof.Machine
end

