-- ==== Sys2Proof/Laws/KeepEgress.lean ====
section
/-! SUPPORT. Which parts of the state each operation of Machine/Egress.lean may change. -/
namespace Sys2Proof.Machine
open Sys2Proof
seal findObj defaultOf getReg getBlob

theorem hostWrite_keeps (s : State) (a1 : Nat) (a2 : List Byte) : Kept [.host] s (hostWrite s a1 a2) := by
  unfold hostWrite
  have h0 := Kept.refl [.host] s
  repeat' first
    | ((with_reducible refine Kept.upd ?_ (fun p hp => ?_)); rotate_left; (cases p <;> first | exact absurd (by decide) hp | rfl); with_reducible assumption)

theorem putSring_keeps (s : State) (a1 : Nat) (a2 : StreamRing) : Kept [.srings] s (putSring s a1 a2) := by
  unfold putSring
  have h0 := Kept.refl [.srings] s
  repeat' first
    | ((with_reducible refine Kept.upd ?_ (fun p hp => ?_)); rotate_left; (cases p <;> first | exact absurd (by decide) hp | rfl); with_reducible assumption)

theorem sringWrite_keeps (s : State) (a1 : Nat) (a2 : Nat) (a3 : FrameEntry) : Kept [.host] s (sringWrite s a1 a2 a3) := by
  unfold sringWrite
  have h0 := Kept.refl [.host] s
  repeat' first
    | with_reducible assumption
    | (extract_lets +onlyGivenNames x; (refine Kept.cutAA x ?_ (fun hx => ?_)); subst x; rotate_left; clear_value x)
    | (extract_lets +onlyGivenNames x; clear_value x)
    | ((with_reducible apply Kept.by (hostWrite_keeps ..)); case hs => rfl)

theorem sringPut_keeps (s : State) (a1 : Nat) (a2 : Nat) (a3 : FrameEntry) : Kept [.host, .ctl, .srings] s (sringPut s a1 a2 a3) := by
  unfold sringPut
  have h0 := Kept.refl [.host, .ctl, .srings] s
  repeat' first
    | with_reducible assumption
    | (extract_lets +onlyGivenNames x; (refine Kept.cutAA x ?_ (fun hx => ?_)); subst x; rotate_left; clear_value x)
    | (extract_lets +onlyGivenNames x; clear_value x)
    | ((with_reducible apply Kept.by (sringWrite_keeps ..)); case hs => rfl)
    | ((with_reducible apply Kept.by (raiseVector_keeps ..)); case hs => rfl)
    | ((with_reducible apply Kept.by (putSring_keeps ..)); case hs => rfl)

theorem putFlow_keeps (s : State) (a1 : Nat) (a2 : Flow) : Kept [.flows] s (putFlow s a1 a2) := by
  unfold putFlow
  have h0 := Kept.refl [.flows] s
  repeat' first
    | ((with_reducible refine Kept.upd ?_ (fun p hp => ?_)); rotate_left; (cases p <;> first | exact absurd (by decide) hp | rfl); with_reducible assumption)

theorem setFlowBit_keeps (s : State) (a1 : Nat) (a2 : Nat) (a3 : Nat) : Kept [.dict] s (setFlowBit s a1 a2 a3) := by
  unfold setFlowBit
  have h0 := Kept.refl [.dict] s
  repeat' first
    | with_reducible assumption
    | ((with_reducible apply Kept.by (setReg_keeps ..)); case hs => rfl)

theorem clearFlowBit_keeps (s : State) (a1 : Nat) (a2 : Nat) (a3 : Nat) : Kept [.dict] s (clearFlowBit s a1 a2 a3) := by
  unfold clearFlowBit
  have h0 := Kept.refl [.dict] s
  repeat' first
    | with_reducible assumption
    | ((with_reducible apply Kept.by (setReg_keeps ..)); case hs => rfl)

theorem clearWait_keeps (s : State) (a1 : Nat) (a2 : Nat) (a3 : Nat × Nat) : Kept [.frames] s (clearWait s a1 a2 a3) := by
  unfold clearWait
  have h0 := Kept.refl [.frames] s
  repeat' first
    | with_reducible assumption
    | ((with_reducible apply Kept.by (putFrame_keeps ..)); case hs => rfl)
    | split

theorem addWait_keeps (s : State) (a1 : Nat) (a2 : Nat) (a3 : Nat × Nat) : Kept [.frames] s (addWait s a1 a2 a3) := by
  unfold addWait
  have h0 := Kept.refl [.frames] s
  repeat' first
    | with_reducible assumption
    | with_reducible apply Kept.ite
    | ((with_reducible apply Kept.by (putFrame_keeps ..)); case hs => rfl)
    | split

theorem settleFrame_keeps (s : State) (a1 : Nat) (a2 : Nat) : Kept [.frames, .allocs, .fabric, .out] s (settleFrame s a1 a2) := by
  unfold settleFrame
  have h0 := Kept.refl [.frames, .allocs, .fabric, .out] s
  repeat' first
    | with_reducible assumption
    | with_reducible apply Kept.ite
    | ((with_reducible apply Kept.by (freeFrame_keeps ..)); case hs => rfl)
    | split

theorem settleFrames_keeps (s : State) : Kept [.frames, .allocs, .fabric, .out] s (settleFrames s) := by
  unfold settleFrames
  have h0 := Kept.refl [.frames, .allocs, .fabric, .out] s
  repeat' first
    | with_reducible assumption
    | ((with_reducible apply Kept.by (settleFrame_keeps ..)); case hs => rfl)
    | (with_reducible apply Kept.foldl; (intro t a; have h1 := Kept.refl [.frames, .allocs, .fabric, .out] t))

theorem noteDelivered_keeps (s : State) (a1 : Nat) (a2 : Nat) (a3 : FrameEntry) : Kept [.dict, .ctl] s (noteDelivered s a1 a2 a3) := by
  unfold noteDelivered
  have h0 := Kept.refl [.dict, .ctl] s
  repeat' first
    | with_reducible assumption
    | with_reducible apply Kept.ite
    | ((with_reducible apply Kept.by (raiseVector_keeps ..)); case hs => rfl)
    | ((with_reducible apply Kept.by (logFault_keeps ..)); case hs => rfl)
    | ((with_reducible apply Kept.by (clearFlowBit_keeps ..)); case hs => rfl)

theorem deliverHeld_keeps (s : State) (a1 : Nat) (a2 : HeldOutput) : Kept [.dict, .host, .ctl, .srings, .flows, .fabric, .out] s (deliverHeld s a1 a2) := by
  unfold deliverHeld
  have h0 := Kept.refl [.dict, .host, .ctl, .srings, .flows, .fabric, .out] s
  repeat' first
    | with_reducible assumption
    | with_reducible apply Kept.ite
    | ((with_reducible apply Kept.by (noteDelivered_keeps ..)); case hs => rfl)
    | ((with_reducible apply Kept.by (putFlow_keeps ..)); case hs => rfl)
    | ((with_reducible apply Kept.by (KeptP.fst (sendMessage_keeps ..))); case hs => rfl)
    | ((with_reducible apply Kept.by (sringPut_keeps ..)); case hs => rfl)
    | dsimp only
    | split

theorem deliverFlow_keeps (s : State) (a1 : Nat) : Kept [.dict, .host, .ctl, .srings, .flows, .fabric, .out] s (deliverFlow s a1) := by
  unfold deliverFlow
  have h0 := Kept.refl [.dict, .host, .ctl, .srings, .flows, .fabric, .out] s
  repeat' first
    | with_reducible assumption
    | with_reducible apply Kept.ite
    | ((with_reducible apply Kept.by (deliverHeld_keeps ..)); case hs => rfl)
    | (with_reducible apply Kept.foldl; (intro t a; have h1 := Kept.refl [.dict, .host, .ctl, .srings, .flows, .fabric, .out] t))
    | split

theorem ackHeld_keeps (s : State) (a1 : Nat) (a2 : HeldOutput) : Kept [.frames, .allocs, .flows, .fabric, .out] s (ackHeld s a1 a2) := by
  unfold ackHeld
  have h0 := Kept.refl [.frames, .allocs, .flows, .fabric, .out] s
  repeat' first
    | with_reducible assumption
    | (extract_lets +onlyGivenNames x; (refine Kept.cutAA x ?_ (fun hx => ?_)); subst x; rotate_left; clear_value x)
    | (extract_lets +onlyGivenNames x; clear_value x)
    | ((with_reducible apply Kept.by (putFlow_keeps ..)); case hs => rfl)
    | ((with_reducible apply Kept.by (settleFrame_keeps ..)); case hs => rfl)
    | ((with_reducible apply Kept.by (clearWait_keeps ..)); case hs => rfl)

theorem resumeReceivers_keeps (s : State) (a1 : Nat) (a2 : FrameEntry) : Kept [.dict, .flows] s (resumeReceivers s a1 a2) := by
  unfold resumeReceivers
  have h0 := Kept.refl [.dict, .flows] s
  repeat' first
    | with_reducible assumption
    | (extract_lets +onlyGivenNames x; (refine Kept.cutAA x ?_ (fun hx => ?_)); subst x; rotate_left; clear_value x)
    | (extract_lets +onlyGivenNames x; clear_value x)
    | with_reducible apply Kept.ite
    | ((with_reducible apply Kept.by (setFlowBit_keeps ..)); case hs => rfl)
    | ((with_reducible apply Kept.by (clearFlowBit_keeps ..)); case hs => rfl)
    | ((with_reducible apply Kept.by (putFlow_keeps ..)); case hs => rfl)
    | (with_reducible apply Kept.foldl; (intro t a; have h1 := Kept.refl [.dict, .flows] t))

/-- The parts that `releaseFlow` may change. -/
def releaseFlowParts : List Sys2Proof.Part :=
  .dict :: .host :: .ctl :: .frames :: .srings :: .flows :: .fabric :: .out :: []

theorem releaseFlow_keeps (s : State) (a1 : FrameEntry) (a2 : Nat) : Kept releaseFlowParts s (releaseFlow s a1 a2) := by
  unfold releaseFlow
  have h0 := Kept.refl releaseFlowParts s
  repeat' first
    | with_reducible assumption
    | (extract_lets +onlyGivenNames x; (refine Kept.cutAA x ?_ (fun hx => ?_)); subst x; rotate_left; clear_value x)
    | (extract_lets +onlyGivenNames x; clear_value x)
    | with_reducible apply Kept.ite
    | ((with_reducible apply Kept.by (resumeReceivers_keeps ..)); case hs => rfl)
    | ((with_reducible apply Kept.by (addWait_keeps ..)); case hs => rfl)
    | ((with_reducible apply Kept.by (addReg_keeps ..)); case hs => rfl)
    | ((with_reducible apply Kept.by (deliverFlow_keeps ..)); case hs => rfl)
    | ((with_reducible apply Kept.by (putFlow_keeps ..)); case hs => rfl)
    | (with_reducible apply Kept.foldl; (intro t a; have h1 := Kept.refl releaseFlowParts t))

theorem releaseOutput_keeps (s : State) (a1 : Nat) (a2 : Nat) : Kept releaseFlowParts s (releaseOutput s a1 a2) := by
  unfold releaseOutput
  have h0 := Kept.refl releaseFlowParts s
  repeat' first
    | with_reducible assumption
    | with_reducible apply Kept.ite
    | ((with_reducible apply Kept.by (releaseFlow_keeps ..)); case hs => rfl)
    | (with_reducible apply Kept.foldl; (intro t a; have h1 := Kept.refl releaseFlowParts t))
    | split

theorem unhold_keeps (s : State) (a1 : Nat) (a2 : Nat) (a3 : Nat) : Kept releaseFlowParts s (unhold s a1 a2 a3) := by
  unfold unhold
  have h0 := Kept.refl releaseFlowParts s
  repeat' first
    | with_reducible assumption
    | with_reducible apply Kept.ite
    | ((with_reducible apply Kept.by (releaseOutput_keeps ..)); case hs => rfl)
    | ((with_reducible apply Kept.by (clearWait_keeps ..)); case hs => rfl)
    | split

theorem dropHeld_keeps (s : State) (a1 : Nat) (a2 : Nat) : Kept [.frames, .allocs, .flows, .fabric, .out] s (dropHeld s a1 a2) := by
  unfold dropHeld
  have h0 := Kept.refl [.frames, .allocs, .flows, .fabric, .out] s
  repeat' first
    | with_reducible assumption
    | ((with_reducible apply Kept.by (ackHeld_keeps ..)); case hs => rfl)
    | (with_reducible apply Kept.foldl; (intro t a; have h1 := Kept.refl [.frames, .allocs, .flows, .fabric, .out] t))

theorem benchReceiver_keeps (s : State) (a1 : Nat) (a2 : Nat) : Kept [.dict, .ctl, .frames, .allocs, .flows, .fabric, .out] s (benchReceiver s a1 a2) := by
  unfold benchReceiver
  have h0 := Kept.refl [.dict, .ctl, .frames, .allocs, .flows, .fabric, .out] s
  repeat' first
    | with_reducible assumption
    | (extract_lets +onlyGivenNames x; (refine Kept.cutAA x ?_ (fun hx => ?_)); subst x; rotate_left; clear_value x)
    | (extract_lets +onlyGivenNames x; clear_value x)
    | with_reducible apply Kept.ite
    | ((with_reducible apply Kept.by (dropHeld_keeps ..)); case hs => rfl)
    | ((with_reducible apply Kept.by (putFlow_keeps ..)); case hs => rfl)
    | ((with_reducible apply Kept.by (addReg_keeps ..)); case hs => rfl)
    | ((with_reducible apply Kept.by (clearFlowBit_keeps ..)); case hs => rfl)
    | ((with_reducible apply Kept.by (setFlowBit_keeps ..)); case hs => rfl)
    | ((with_reducible apply Kept.by (raiseVector_keeps ..)); case hs => rfl)
    | ((with_reducible apply Kept.by (logFault_keeps ..)); case hs => rfl)
    | split

theorem readyReceiver_keeps (s : State) (a1 : Nat) (a2 : Nat) : Kept [.flows] s (readyReceiver s a1 a2) := by
  unfold readyReceiver
  have h0 := Kept.refl [.flows] s
  repeat' first
    | with_reducible assumption
    | (extract_lets +onlyGivenNames x; clear_value x)
    | with_reducible apply Kept.ite
    | ((with_reducible apply Kept.by (putFlow_keeps ..)); case hs => rfl)
    | dsimp only
    | split

theorem takeReceivers_keeps (s : State) (a1 : Nat) : Kept [.dict, .frames, .allocs, .flows, .media, .fabric, .out] s (takeReceivers s a1) := by
  unfold takeReceivers
  have h0 := Kept.refl [.dict, .frames, .allocs, .flows, .media, .fabric, .out] s
  repeat' first
    | with_reducible assumption
    | (extract_lets +onlyGivenNames x; (refine Kept.cutAA x ?_ (fun hx => ?_)); subst x; rotate_left; clear_value x)
    | (extract_lets +onlyGivenNames x; (have hf := fun y => x y); clear hf; subst x)
    | (extract_lets +onlyGivenNames x; clear_value x)
    | ((with_reducible apply Kept.by (dropHeld_keeps ..)); case hs => rfl)
    | ((with_reducible apply Kept.by (clearFlowBit_keeps ..)); case hs => rfl)
    | ((with_reducible apply Kept.by (putFlow_keeps ..)); case hs => rfl)
    | (with_reducible apply Kept.foldl; (intro t a; have h1 := Kept.refl [.dict, .frames, .allocs, .flows, .media, .fabric, .out] t))
    | ((with_reducible refine Kept.upd ?_ (fun p hp => ?_)); rotate_left; (cases p <;> first | exact absurd (by decide) hp | rfl); with_reducible assumption)

theorem packFrame_keeps (s : State) (a1 : Nat) (a2 : Nat) (a3 : Nat) (a4 : FrameEntry) (a5 : List (Nat × List Byte)) : Kept [.frames, .flows, .media] s (packFrame s a1 a2 a3 a4 a5) := by
  unfold packFrame
  have h0 := Kept.refl [.frames, .flows, .media] s
  repeat' first
    | with_reducible assumption
    | (extract_lets +onlyGivenNames x; (refine Kept.cutAA x ?_ (fun hx => ?_)); subst x; rotate_left; clear_value x)
    | (extract_lets +onlyGivenNames x; clear_value x)
    | ((with_reducible apply Kept.by (putFlow_keeps ..)); case hs => rfl)
    | ((with_reducible apply Kept.by (putFrame_keeps ..)); case hs => rfl)
    | ((with_reducible apply Kept.by (clearWait_keeps ..)); case hs => rfl)
    | (with_reducible apply Kept.foldl; (intro t a; have h1 := Kept.refl [.frames, .flows, .media] t))
    | split
    | ((with_reducible refine Kept.upd ?_ (fun p hp => ?_)); rotate_left; (cases p <;> first | exact absurd (by decide) hp | rfl); with_reducible assumption)

theorem packable_keeps (s : State) (a1 : Nat) : KeptP [.media] s (packable s a1) := by
  unfold packable
  have h0 := Kept.refl [.media] s
  repeat' first
    | with_reducible assumption
    | (extract_lets +onlyGivenNames x; clear_value x)
    | ((with_reducible apply Kept.by (stopWaiting_keeps ..)); case hs => rfl)
    | ((with_reducible apply Kept.by (waitPool_keeps ..)); case hs => rfl)
    | with_reducible apply KeptP.mk
    | split

theorem packFlow_keeps (s : State) (a1 : Nat) : Kept [.dict, .frames, .flows, .media] s (packFlow s a1) := by
  unfold packFlow
  have h0 := Kept.refl [.dict, .frames, .flows, .media] s
  repeat' first
    | with_reducible assumption
    | with_reducible apply Kept.ite
    | ((with_reducible apply Kept.by (KeptP.fst (packable_keeps ..))); case hs => rfl)
    | ((with_reducible apply Kept.by (addReg_keeps ..)); case hs => rfl)
    | ((with_reducible apply Kept.by (packFrame_keeps ..)); case hs => rfl)
    | (with_reducible apply KeptP.fst; with_reducible apply KeptP.foldl; (intro t a; have h1 := Kept.refl [.dict, .frames, .flows, .media] t.1))
    | with_reducible apply KeptP.mk

/-- The parts that `sendPacket` may change. -/
def sendPacketParts : List Sys2Proof.Part :=
  .dict :: .clk :: .ctl :: .frames :: .allocs :: .media :: .fabric :: .out :: []

theorem sendPacket_keeps (s : State) (a1 : Nat) : Kept sendPacketParts s (sendPacket s a1) := by
  unfold sendPacket
  have h0 := Kept.refl sendPacketParts s
  repeat' first
    | with_reducible assumption
    | with_reducible apply Kept.ite
    | ((with_reducible apply Kept.by (addReg_keeps ..)); case hs => rfl)
    | ((with_reducible apply Kept.by (emit_keeps ..)); case hs => rfl)
    | ((with_reducible apply Kept.by (noteDelivered_keeps ..)); case hs => rfl)
    | ((with_reducible apply Kept.by (settleFrame_keeps ..)); case hs => rfl)
    | ((with_reducible apply Kept.by (clearWait_keeps ..)); case hs => rfl)
    | dsimp only
    | split
    | ((with_reducible refine Kept.upd ?_ (fun p hp => ?_)); rotate_left; (cases p <;> first | exact absurd (by decide) hp | rfl); ((with_reducible apply Kept.by (passTime_keeps ..)); case hs => rfl))

theorem silencePort_keeps (s : State) (a1 : Nat) : Kept [.frames, .allocs, .media, .fabric, .out] s (silencePort s a1) := by
  unfold silencePort
  have h0 := Kept.refl [.frames, .allocs, .media, .fabric, .out] s
  repeat' first
    | with_reducible assumption
    | (extract_lets +onlyGivenNames x; (refine Kept.cutAA x ?_ (fun hx => ?_)); subst x; rotate_left; clear_value x)
    | (extract_lets +onlyGivenNames x; clear_value x)
    | ((with_reducible apply Kept.by (settleFrame_keeps ..)); case hs => rfl)
    | ((with_reducible apply Kept.by (clearWait_keeps ..)); case hs => rfl)
    | (with_reducible apply Kept.foldl; (intro t a; have h1 := Kept.refl [.frames, .allocs, .media, .fabric, .out] t))
    | ((with_reducible refine Kept.upd ?_ (fun p hp => ?_)); rotate_left; (cases p <;> first | exact absurd (by decide) hp | rfl); with_reducible assumption)

theorem putRing_keeps (s : State) (a1 : Nat) (a2 : RingRun) : Kept [.rings] s (putRing s a1 a2) := by
  unfold putRing
  have h0 := Kept.refl [.rings] s
  repeat' first
    | ((with_reducible refine Kept.upd ?_ (fun p hp => ?_)); rotate_left; (cases p <;> first | exact absurd (by decide) hp | rfl); with_reducible assumption)

theorem putRecord_keeps (s : State) (a1 : Nat) (a2 : Nat) (a3 : Completion) : Kept [.host, .ctl] s (putRecord s a1 a2 a3) := by
  unfold putRecord
  have h0 := Kept.refl [.host, .ctl] s
  repeat' first
    | with_reducible assumption
    | (extract_lets +onlyGivenNames x; clear_value x)
    | ((with_reducible apply Kept.by (raiseVector_keeps ..)); case hs => rfl)
    | ((with_reducible apply Kept.by (hostWrite_keeps ..)); case hs => rfl)

theorem postReports_keeps (s : State) : Kept [.host, .ctl, .frames, .allocs, .fabric, .out] s (postReports s) := by
  unfold postReports
  have h0 := Kept.refl [.host, .ctl, .frames, .allocs, .fabric, .out] s
  repeat' first
    | with_reducible assumption
    | (extract_lets +onlyGivenNames x; (refine Kept.cutAA x ?_ (fun hx => ?_)); subst x; rotate_left; clear_value x)
    | with_reducible apply Kept.ite
    | ((with_reducible apply Kept.by (putRecord_keeps ..)); case hs => rfl)
    | ((with_reducible apply Kept.by (settleFrame_keeps ..)); case hs => rfl)
    | ((with_reducible apply Kept.by (clearWait_keeps ..)); case hs => rfl)
    | (with_reducible apply Kept.foldl; (intro t a; have h1 := Kept.refl [.host, .ctl, .frames, .allocs, .fabric, .out] t))

end Sys2Proof.Machine
end

