-- ==== Sys2Proof/Laws/KeepJournal.lean ====
section
/-! SUPPORT. Which parts of the state each operation of Machine/Journal.lean may change. -/
namespace Sys2Proof.Machine
open Sys2Proof
seal findObj defaultOf getReg getBlob

theorem diverged_keeps (s : State) (a1 : Work) (a2 : List (Nat × Nat)) (a3 : Nat) : Kept [.dict, .ctl, .tiles, .libero, .works] s (diverged s a1 a2 a3) := by
  unfold diverged
  have h0 := Kept.refl [.dict, .ctl, .tiles, .libero, .works] s
  repeat' first
    | with_reducible assumption
    | (extract_lets +onlyGivenNames x; (refine Kept.cutAA x ?_ (fun hx => ?_)); subst x; rotate_left; clear_value x)
    | (extract_lets +onlyGivenNames x; clear_value x)
    | ((with_reducible apply Kept.by (addReg_keeps ..)); case hs => rfl)
    | ((with_reducible apply Kept.by (logFault_keeps ..)); case hs => rfl)
    | ((with_reducible apply Kept.by (retireTile_keeps ..)); case hs => rfl)
    | (with_reducible apply Kept.foldl; (intro t a; have h1 := Kept.refl [.dict, .ctl, .tiles, .libero, .works] t))

theorem mirrorState_keeps (s : State) (a1 : Nat) (a2 : Nat) (a3 : Work) : Kept [.fabric, .out] s (mirrorState s a1 a2 a3) := by
  unfold mirrorState
  have h0 := Kept.refl [.fabric, .out] s
  repeat' first
    | with_reducible assumption
    | ((with_reducible apply Kept.by (toMirror_keeps ..)); case hs => rfl)
    | (with_reducible apply Kept.foldl; (intro t a; have h1 := Kept.refl [.fabric, .out] t))

theorem countLost_keeps (s : State) (a1 : Nat) (a2 : Nat) (a3 : Nat) : Kept [.dict, .ctl] s (countLost s a1 a2 a3) := by
  unfold countLost
  have h0 := Kept.refl [.dict, .ctl] s
  repeat' first
    | with_reducible assumption
    | with_reducible apply Kept.ite
    | ((with_reducible apply Kept.by (logFault_keeps ..)); case hs => rfl)
    | ((with_reducible apply Kept.by (addReg_keeps ..)); case hs => rfl)

/-- The parts that `commitFrame` may change. -/
def commitFrameParts : List Sys2Proof.Part :=
  .dict :: .mem :: .host :: .ctl :: .sync :: .works :: .frames :: .allocs :: .ctxs :: .srings :: .flows :: .fabric ::
    .umpire :: .out :: []

theorem commitFrame_keeps (s : State) (a1 : Nat) (a2 : Nat) (a3 : Work) (a4 : Nat) (a5 : List (List Byte)) : Kept commitFrameParts s (commitFrame s a1 a2 a3 a4 a5) := by
  unfold commitFrame
  have h0 := Kept.refl commitFrameParts s
  repeat' first
    | with_reducible assumption
    | (extract_lets +onlyGivenNames x; (refine Kept.cutAA x ?_ (fun hx => ?_)); subst x; rotate_left; clear_value x)
    | (extract_lets +onlyGivenNames x; (have hf := fun y => x y); clear hf; subst x)
    | (extract_lets +onlyGivenNames x; clear_value x)
    | with_reducible apply Kept.ite
    | ((with_reducible apply Kept.by (encodeEnd_keeps ..)); case hs => rfl)
    | ((with_reducible apply Kept.by (decodeEnd_keeps ..)); case hs => rfl)
    | ((with_reducible apply Kept.by (keepState_keeps ..)); case hs => rfl)
    | ((with_reducible apply Kept.by (encodeFailed_keeps ..)); case hs => rfl)
    | ((with_reducible apply Kept.by (decodeFailed_keeps ..)); case hs => rfl)
    | ((with_reducible apply Kept.by (mirrorState_keeps ..)); case hs => rfl)
    | ((with_reducible apply Kept.by (dropWork_keeps ..)); case hs => rfl)
    | ((with_reducible apply Kept.by (putFrame_keeps ..)); case hs => rfl)
    | ((with_reducible apply Kept.by (toMirror_keeps ..)); case hs => rfl)
    | ((with_reducible apply Kept.by (setReg_keeps ..)); case hs => rfl)
    | ((with_reducible apply Kept.by (addReg_keeps ..)); case hs => rfl)
    | ((with_reducible apply Kept.by (countLost_keeps ..)); case hs => rfl)
    | ((with_reducible apply Kept.by (releaseOutput_keeps ..)); case hs => rfl)
    | ((with_reducible apply Kept.by (postReports_keeps ..)); case hs => rfl)
    | ((with_reducible apply Kept.by (deliverVectors_keeps ..)); case hs => rfl)
    | ((with_reducible apply Kept.by (settleFrame_keeps ..)); case hs => rfl)
    | ((with_reducible apply Kept.by (settleStop_keeps ..)); case hs => rfl)
    | dsimp only
    | split
    | ((with_reducible refine Kept.upd ?_ (fun p hp => ?_)); rotate_left; (cases p <;> first | exact absurd (by decide) hp | rfl); with_reducible assumption)

theorem setJobState_keeps (s : State) (a1 : JobEntry) (a2 : Nat) : Kept [.jobs, .fabric, .out] s (setJobState s a1 a2) := by
  unfold setJobState
  have h0 := Kept.refl [.jobs, .fabric, .out] s
  repeat' first
    | with_reducible assumption
    | ((with_reducible apply Kept.by (toMirror_keeps ..)); case hs => rfl)
    | ((with_reducible apply Kept.by (putJob_keeps ..)); case hs => rfl)

theorem finishJob_keeps (s : State) (a1 : JobEntry) : Kept [.dict, .mem, .ctl, .jobs, .fabric, .out] s (finishJob s a1) := by
  unfold finishJob
  have h0 := Kept.refl [.dict, .mem, .ctl, .jobs, .fabric, .out] s
  repeat' first
    | with_reducible assumption
    | (extract_lets +onlyGivenNames x; (refine Kept.cutAA x ?_ (fun hx => ?_)); subst x; rotate_left; clear_value x)
    | (extract_lets +onlyGivenNames x; clear_value x)
    | with_reducible apply Kept.ite
    | ((with_reducible apply Kept.by (addReg_keeps ..)); case hs => rfl)
    | ((with_reducible apply Kept.by (countLost_keeps ..)); case hs => rfl)
    | ((with_reducible apply Kept.by (setJobState_keeps ..)); case hs => rfl)
    | (with_reducible apply Kept.foldl; (intro t a; have h1 := Kept.refl [.dict, .mem, .ctl, .jobs, .fabric, .out] t))
    | ((with_reducible refine Kept.upd ?_ (fun p hp => ?_)); rotate_left; (cases p <;> first | exact absurd (by decide) hp | rfl); with_reducible assumption)

/-- The parts that `commitJobFrame` may change. -/
def commitJobFrameParts : List Sys2Proof.Part :=
  .dict :: .mem :: .ctl :: .tiles :: .libero :: .works :: .jobs :: .allocs :: .fabric :: .out :: []

theorem commitJobFrame_keeps (s : State) (a1 : JobEntry) (a2 : Nat) (a3 : Work) (a4 : Nat) (a5 : List (List Byte)) : Kept commitJobFrameParts s (commitJobFrame s a1 a2 a3 a4 a5) := by
  unfold commitJobFrame
  have h0 := Kept.refl commitJobFrameParts s
  repeat' first
    | with_reducible assumption
    | (extract_lets +onlyGivenNames x; (refine Kept.cutAA x ?_ (fun hx => ?_)); subst x; rotate_left; clear_value x)
    | (extract_lets +onlyGivenNames x; clear_value x)
    | with_reducible apply Kept.ite
    | ((with_reducible apply Kept.by (dropWork_keeps ..)); case hs => rfl)
    | ((with_reducible apply Kept.by (releaseRange_keeps ..)); case hs => rfl)
    | ((with_reducible apply Kept.by (finishJob_keeps ..)); case hs => rfl)
    | ((with_reducible apply Kept.by (diverged_keeps ..)); case hs => rfl)
    | ((with_reducible apply Kept.by (putJob_keeps ..)); case hs => rfl)
    | split
    | ((with_reducible refine Kept.upd ?_ (fun p hp => ?_)); rotate_left; (cases p <;> first | exact absurd (by decide) hp | rfl); with_reducible assumption)

/-- The parts that `cancelFrame` may change. -/
def cancelFrameParts : List Sys2Proof.Part :=
  .dict :: .mem :: .host :: .ctl :: .tiles :: .sync :: .syncWins :: .works :: .frames :: .allocs :: .ctxs :: .srings ::
    .flows :: .fabric :: .umpire :: .out :: []

theorem cancelFrame_keeps (s : State) (a1 : Work) : Kept cancelFrameParts s (cancelFrame s a1) := by
  unfold cancelFrame
  have h0 := Kept.refl cancelFrameParts s
  repeat' first
    | with_reducible assumption
    | (extract_lets +onlyGivenNames x; (refine Kept.cutAA x ?_ (fun hx => ?_)); subst x; rotate_left; clear_value x)
    | ((with_reducible apply Kept.by (commitFrame_keeps ..)); case hs => rfl)
    | split
    | ((with_reducible refine Kept.upd ?_ (fun p hp => ?_)); rotate_left; (cases p <;> first | exact absurd (by decide) hp | rfl); with_reducible assumption)

/-- The parts that `commitWork` may change. -/
def commitWorkParts : List Sys2Proof.Part :=
  .dict :: .mem :: .host :: .ctl :: .tiles :: .libero :: .sync :: .syncWins :: .works :: .jobs :: .frames :: .allocs ::
    .ctxs :: .srings :: .flows :: .fabric :: .umpire :: .out :: []

theorem commitWork_keeps (s : State) (a1 : WorkId) : Kept commitWorkParts s (commitWork s a1) := by
  unfold commitWork
  have h0 := Kept.refl commitWorkParts s
  repeat' first
    | with_reducible assumption
    | with_reducible apply Kept.ite
    | ((with_reducible apply Kept.by (cancelFrame_keeps ..)); case hs => rfl)
    | ((with_reducible apply Kept.by (formOutput_keeps ..)); case hs => rfl)
    | ((with_reducible apply Kept.by (diverged_keeps ..)); case hs => rfl)
    | ((with_reducible apply Kept.by (commitFrame_keeps ..)); case hs => rfl)
    | ((with_reducible apply Kept.by (commitJobFrame_keeps ..)); case hs => rfl)
    | ((with_reducible apply Kept.by (dropWork_keeps ..)); case hs => rfl)
    | dsimp only
    | split

theorem postJob_keeps (s : State) (a1 : Nat) : Kept [.host, .ctl, .jobs, .allocs, .rings, .fabric, .out] s (postJob s a1) := by
  unfold postJob
  have h0 := Kept.refl [.host, .ctl, .jobs, .allocs, .rings, .fabric, .out] s
  repeat' first
    | with_reducible assumption
    | with_reducible apply Kept.ite
    | ((with_reducible apply Kept.by (hostWrite_keeps ..)); case hs => rfl)
    | ((with_reducible apply Kept.by (putRecord_keeps ..)); case hs => rfl)
    | ((with_reducible apply Kept.by (releaseRange_keeps ..)); case hs => rfl)
    | ((with_reducible apply Kept.by (setJobState_keeps ..)); case hs => rfl)
    | ((with_reducible apply Kept.by (putRing_keeps ..)); case hs => rfl)
    | (with_reducible apply Kept.foldl; (intro t a; have h1 := Kept.refl [.host, .ctl, .jobs, .allocs, .rings, .fabric, .out] t))
    | dsimp only
    | split

theorem restartWork_keeps (s : State) (a1 : Work) : Kept [.mem, .tiles, .images, .sync, .syncWins, .works, .ctxs] s (restartWork s a1) := by
  unfold restartWork
  have h0 := Kept.refl [.mem, .tiles, .images, .sync, .syncWins, .works, .ctxs] s
  repeat' first
    | with_reducible assumption
    | (extract_lets +onlyGivenNames x; (refine Kept.cutAA x ?_ (fun hx => ?_)); subst x; rotate_left; clear_value x)
    | (extract_lets +onlyGivenNames x; clear_value x)
    | with_reducible apply Kept.ite
    | ((with_reducible apply Kept.by (putCtx_keeps ..)); case hs => rfl)
    | ((with_reducible apply Kept.by (decodeFailed_keeps ..)); case hs => rfl)
    | ((with_reducible apply Kept.by (deliverVectors_keeps ..)); case hs => rfl)
    | ((with_reducible apply Kept.by (putWork_keeps ..)); case hs => rfl)
    | dsimp only
    | split
    | ((with_reducible refine Kept.upd ?_ (fun p hp => ?_)); rotate_left; (cases p <;> first | exact absurd (by decide) hp | rfl); with_reducible assumption)

/-- The parts that `replayWorks` may change. -/
def replayWorksParts : List Sys2Proof.Part :=
  .dict :: .mem :: .tiles :: .images :: .sync :: .syncWins :: .works :: .ctxs :: []

theorem replayWorks_keeps (s : State) (a1 : Work → Bool) : Kept replayWorksParts s (replayWorks s a1) := by
  unfold replayWorks
  have h0 := Kept.refl replayWorksParts s
  repeat' first
    | with_reducible assumption
    | (extract_lets +onlyGivenNames x; clear_value x)
    | ((with_reducible apply Kept.by (addReg_keeps ..)); case hs => rfl)
    | ((with_reducible apply Kept.by (restartWork_keeps ..)); case hs => rfl)
    | (with_reducible apply Kept.foldl; (intro t a; have h1 := Kept.refl replayWorksParts t))

theorem rewriteHeld_keeps (s : State) (a1 : Nat) (a2 : HeldOutput) : Kept [.host] s (rewriteHeld s a1 a2) := by
  unfold rewriteHeld
  have h0 := Kept.refl [.host] s
  repeat' first
    | with_reducible assumption
    | with_reducible apply Kept.ite
    | ((with_reducible apply Kept.by (sringWrite_keeps ..)); case hs => rfl)
    | split

/-- The parts that `releaseAgain` may change. -/
def releaseAgainParts : List Sys2Proof.Part :=
  .dict :: .host :: .ctl :: .frames :: .srings :: .flows :: .media :: .fabric :: .out :: []

theorem releaseAgain_keeps (s : State) : Kept releaseAgainParts s (releaseAgain s) := by
  unfold releaseAgain
  have h0 := Kept.refl releaseAgainParts s
  repeat' first
    | with_reducible assumption
    | (extract_lets +onlyGivenNames x; (refine Kept.cutAA x ?_ (fun hx => ?_)); subst x; rotate_left; clear_value x)
    | (extract_lets +onlyGivenNames x; clear_value x)
    | ((with_reducible apply Kept.by (rewriteHeld_keeps ..)); case hs => rfl)
    | ((with_reducible apply Kept.by (deliverFlow_keeps ..)); case hs => rfl)
    | (with_reducible apply Kept.foldl; (intro t a; have h1 := Kept.refl releaseAgainParts t))
    | ((with_reducible refine Kept.upd ?_ (fun p hp => ?_)); rotate_left; (cases p <;> first | exact absurd (by decide) hp | rfl); with_reducible assumption)

/-- The parts that `replayAll` may change. -/
def replayAllParts : List Sys2Proof.Part :=
  .dict :: .mem :: .host :: .ctl :: .tiles :: .images :: .sync :: .syncWins :: .works :: .frames :: .ctxs :: .srings ::
    .flows :: .media :: .fabric :: .out :: []

theorem replayAll_keeps (s : State) : Kept replayAllParts s (replayAll s) := by
  unfold replayAll
  have h0 := Kept.refl replayAllParts s
  repeat' first
    | with_reducible assumption
    | (extract_lets +onlyGivenNames x; (refine Kept.cutAA x ?_ (fun hx => ?_)); subst x; rotate_left; clear_value x)
    | (extract_lets +onlyGivenNames x; clear_value x)
    | ((with_reducible apply Kept.by (releaseAgain_keeps ..)); case hs => rfl)
    | ((with_reducible apply Kept.by (restartWork_keeps ..)); case hs => rfl)
    | ((with_reducible apply Kept.by (logFault_keeps ..)); case hs => rfl)
    | ((with_reducible apply Kept.by (addReg_keeps ..)); case hs => rfl)
    | (with_reducible apply Kept.foldl; (intro t a; have h1 := Kept.refl replayAllParts t))

end Sys2Proof.Machine
end

