-- ==== Sys2Proof/Laws/KeepProtect.lean ====
section
/-! SUPPORT. Which parts of the state each operation of Machine/Protect.lean may change. -/
namespace Sys2Proof.Machine
open Sys2Proof
seal findObj defaultOf getReg getBlob

theorem allocateHost_keeps (s : State) : Kept [.dict, .allocs, .free] s (allocateHost s) := by
  unfold allocateHost
  have h0 := Kept.refl [.dict, .allocs, .free] s
  repeat' first
    | with_reducible assumption
    | (extract_lets +onlyGivenNames x; clear_value x)
    | with_reducible apply Kept.ite
    | ((with_reducible apply Kept.by (reserve_keeps (by assumption))); case hs => rfl)
    | ((with_reducible apply Kept.by (setReg_keeps ..)); case hs => rfl)
    | split

theorem freeHost_keeps (s : State) : Kept [.dict, .allocs] s (freeHost s) := by
  unfold freeHost
  have h0 := Kept.refl [.dict, .allocs] s
  repeat' first
    | with_reducible assumption
    | with_reducible apply Kept.ite
    | ((with_reducible apply Kept.by (setReg_keeps ..)); case hs => rfl)
    | ((with_reducible apply Kept.by (releaseRange_keeps ..)); case hs => rfl)
    | dsimp only
    | split
    | ((with_reducible refine Kept.upd ?_ (fun p hp => ?_)); rotate_left; (cases p <;> first | exact absurd (by decide) hp | rfl); with_reducible assumption)

theorem releaseFreed_keeps (s : State) (a1 : Nat) : Kept [.dict, .allocs] s (releaseFreed s a1) := by
  unfold releaseFreed
  have h0 := Kept.refl [.dict, .allocs] s
  repeat' first
    | with_reducible assumption
    | (extract_lets +onlyGivenNames x; (refine Kept.cutAA x ?_ (fun hx => ?_)); subst x; rotate_left; clear_value x)
    | with_reducible apply Kept.ite
    | ((with_reducible apply Kept.by (releaseRange_keeps ..)); case hs => rfl)
    | ((with_reducible apply Kept.by (setReg_keeps ..)); case hs => rfl)
    | split

theorem startMigration_keeps (s : State) (a1 : Nat) (a2 : Nat) : Kept [.dict, .ctl, .protect] s (startMigration s a1 a2) := by
  unfold startMigration
  have h0 := Kept.refl [.dict, .ctl, .protect] s
  repeat' first
    | with_reducible assumption
    | (extract_lets +onlyGivenNames x; (refine Kept.cutAA x ?_ (fun hx => ?_)); subst x; rotate_left; clear_value x)
    | (extract_lets +onlyGivenNames x; clear_value x)
    | with_reducible apply Kept.ite
    | ((with_reducible apply Kept.by (logFault_keeps ..)); case hs => rfl)
    | ((with_reducible apply Kept.by (setReg_keeps ..)); case hs => rfl)
    | ((with_reducible refine Kept.upd ?_ (fun p hp => ?_)); rotate_left; (cases p <;> first | exact absurd (by decide) hp | rfl); with_reducible assumption)

theorem retireStack_keeps (s : State) (a1 : Nat) : Kept [.dict, .ctl, .protect] s (retireStack s a1) := by
  unfold retireStack
  have h0 := Kept.refl [.dict, .ctl, .protect] s
  repeat' first
    | with_reducible assumption
    | with_reducible apply Kept.ite
    | ((with_reducible apply Kept.by (setReg_keeps ..)); case hs => rfl)
    | ((with_reducible apply Kept.by (startMigration_keeps ..)); case hs => rfl)

theorem settleCopies_keeps (s : State) : Kept [.dict] s (settleCopies s) := by
  unfold settleCopies
  have h0 := Kept.refl [.dict] s
  repeat' first
    | with_reducible assumption
    | (extract_lets +onlyGivenNames x; clear_value x)
    | ((with_reducible apply Kept.by (setReg_keeps ..)); case hs => rfl)

theorem loseCopy_keeps (s : State) (a1 : Nat) : Kept [.dict, .protect] s (loseCopy s a1) := by
  unfold loseCopy
  have h0 := Kept.refl [.dict, .protect] s
  repeat' first
    | with_reducible assumption
    | (extract_lets +onlyGivenNames x; (refine Kept.cutAA x ?_ (fun hx => ?_)); subst x; rotate_left; clear_value x)
    | (extract_lets +onlyGivenNames x; clear_value x)
    | ((with_reducible apply Kept.by (setReg_keeps ..)); case hs => rfl)
    | split
    | ((with_reducible refine Kept.upd ?_ (fun p hp => ?_)); rotate_left; (cases p <;> first | exact absurd (by decide) hp | rfl); with_reducible assumption)

theorem endMigration_keeps (s : State) (a1 : Nat) : Kept [.dict, .ctl, .protect] s (endMigration s a1) := by
  unfold endMigration
  have h0 := Kept.refl [.dict, .ctl, .protect] s
  repeat' first
    | with_reducible assumption
    | (extract_lets +onlyGivenNames x; (refine Kept.cutAA x ?_ (fun hx => ?_)); subst x; rotate_left; clear_value x)
    | (extract_lets +onlyGivenNames x; clear_value x)
    | with_reducible apply Kept.ite
    | ((with_reducible apply Kept.by (setReg_keeps ..)); case hs => rfl)
    | ((with_reducible apply Kept.by (addJournal_keeps ..)); case hs => rfl)
    | ((with_reducible apply Kept.by (logFault_keeps ..)); case hs => rfl)
    | ((with_reducible apply Kept.by (loseCopy_keeps ..)); case hs => rfl)
    | ((with_reducible refine Kept.upd ?_ (fun p hp => ?_)); rotate_left; (cases p <;> first | exact absurd (by decide) hp | rfl); with_reducible assumption)

theorem rebuiltCopy_keeps (s : State) : Kept [.dict, .ctl, .protect] s (rebuiltCopy s) := by
  unfold rebuiltCopy
  have h0 := Kept.refl [.dict, .ctl, .protect] s
  repeat' first
    | with_reducible assumption
    | (extract_lets +onlyGivenNames x; (refine Kept.cutAA x ?_ (fun hx => ?_)); subst x; rotate_left; clear_value x)
    | (extract_lets +onlyGivenNames x; clear_value x)
    | ((with_reducible apply Kept.by (logFault_keeps ..)); case hs => rfl)
    | ((with_reducible apply Kept.by (setReg_keeps ..)); case hs => rfl)
    | split
    | ((with_reducible refine Kept.upd ?_ (fun p hp => ?_)); rotate_left; (cases p <;> first | exact absurd (by decide) hp | rfl); with_reducible assumption)

theorem noteErrors_keeps (s : State) (a1 : Nat) (a2 : Nat) (a3 : Nat) : Kept [.protect] s (noteErrors s a1 a2 a3) := by
  unfold noteErrors
  have h0 := Kept.refl [.protect] s
  repeat' first
    | (extract_lets +onlyGivenNames x; clear_value x)
    | ((with_reducible refine Kept.upd ?_ (fun p hp => ?_)); rotate_left; (cases p <;> first | exact absurd (by decide) hp | rfl); with_reducible assumption)

theorem correctError_keeps (s : State) (a1 : Nat) (a2 : Nat) : Kept [.dict, .protect] s (correctError s a1 a2) := by
  unfold correctError
  have h0 := Kept.refl [.dict, .protect] s
  repeat' first
    | with_reducible assumption
    | with_reducible apply Kept.ite
    | ((with_reducible apply Kept.by (noteErrors_keeps ..)); case hs => rfl)
    | ((with_reducible apply Kept.by (addReg_keeps ..)); case hs => rfl)

theorem spareRow_keeps (s : State) (a1 : Nat) (a2 : Nat) : Kept [.dict, .ctl, .protect] s (spareRow s a1 a2) := by
  unfold spareRow
  have h0 := Kept.refl [.dict, .ctl, .protect] s
  repeat' first
    | with_reducible assumption
    | (extract_lets +onlyGivenNames x; (refine Kept.cutAA x ?_ (fun hx => ?_)); subst x; rotate_left; clear_value x)
    | (extract_lets +onlyGivenNames x; clear_value x)
    | with_reducible apply Kept.ite
    | ((with_reducible apply Kept.by (startMigration_keeps ..)); case hs => rfl)
    | ((with_reducible apply Kept.by (addReg_keeps ..)); case hs => rfl)
    | ((with_reducible apply Kept.by (logFault_keeps ..)); case hs => rfl)
    | ((with_reducible refine Kept.upd ?_ (fun p hp => ?_)); rotate_left; (cases p <;> first | exact absurd (by decide) hp | rfl); with_reducible assumption)

theorem stopSoon_keeps (s : State) (a1 : Nat) : Kept [.ctxs] s (stopSoon s a1) := by
  unfold stopSoon
  have h0 := Kept.refl [.ctxs] s
  repeat' first
    | with_reducible assumption
    | (extract_lets +onlyGivenNames x; clear_value x)
    | with_reducible apply Kept.ite
    | ((with_reducible apply Kept.by (putCtx_keeps ..)); case hs => rfl)

theorem hitWork_keeps (s : State) (a1 : Nat) (a2 : Work) : Kept [.mem, .tiles, .images, .sync, .syncWins, .works, .ctxs] s (hitWork s a1 a2) := by
  unfold hitWork
  have h0 := Kept.refl [.mem, .tiles, .images, .sync, .syncWins, .works, .ctxs] s
  repeat' first
    | with_reducible assumption
    | (extract_lets +onlyGivenNames x; clear_value x)
    | with_reducible apply Kept.ite
    | ((with_reducible apply Kept.by (stopSoon_keeps ..)); case hs => rfl)
    | ((with_reducible apply Kept.by (putWork_keeps ..)); case hs => rfl)
    | ((with_reducible apply Kept.by (restartWork_keeps ..)); case hs => rfl)
    | split

theorem hitState_keeps (s : State) (a1 : Nat) : Kept [.works, .ctxs] s (hitState s a1) := by
  unfold hitState
  have h0 := Kept.refl [.works, .ctxs] s
  repeat' first
    | with_reducible assumption
    | (extract_lets +onlyGivenNames x; (refine Kept.cutAA x ?_ (fun hx => ?_)); subst x; rotate_left; clear_value x)
    | ((with_reducible apply Kept.by (putWork_keeps ..)); case hs => rfl)
    | ((with_reducible apply Kept.by (stopSoon_keeps ..)); case hs => rfl)
    | split

theorem hitJob_keeps (s : State) (a1 : Nat) (a2 : JobEntry) : Kept [.jobs] s (hitJob s a1 a2) := by
  unfold hitJob
  have h0 := Kept.refl [.jobs] s
  repeat' first
    | with_reducible assumption
    | (extract_lets +onlyGivenNames x; (have hf := fun y => x y); clear hf; subst x)
    | (extract_lets +onlyGivenNames x; clear_value x)
    | with_reducible apply Kept.ite
    | ((with_reducible apply Kept.by (putJob_keeps ..)); case hs => rfl)

/-- The parts that `hitMemory` may change. -/
def hitMemoryParts : List Sys2Proof.Part :=
  .dict :: .mem :: .tiles :: .images :: .sync :: .syncWins :: .pkgs :: .works :: .jobs :: .ctxs :: []

theorem hitMemory_keeps (s : State) (a1 : Nat) : Kept hitMemoryParts s (hitMemory s a1) := by
  unfold hitMemory
  have h0 := Kept.refl hitMemoryParts s
  repeat' first
    | with_reducible assumption
    | (extract_lets +onlyGivenNames x; (refine Kept.cutAA x ?_ (fun hx => ?_)); subst x; rotate_left; clear_value x)
    | with_reducible apply Kept.ite
    | ((with_reducible apply Kept.by (hitJob_keeps ..)); case hs => rfl)
    | ((with_reducible apply Kept.by (hitWork_keeps ..)); case hs => rfl)
    | ((with_reducible apply Kept.by (hitState_keeps ..)); case hs => rfl)
    | ((with_reducible apply Kept.by (addReg_keeps ..)); case hs => rfl)
    | (with_reducible apply Kept.foldl; (intro t a; have h1 := Kept.refl hitMemoryParts t))
    | dsimp only
    | split
    | ((with_reducible refine Kept.upd ?_ (fun p hp => ?_)); rotate_left; (cases p <;> first | exact absurd (by decide) hp | rfl); with_reducible assumption)

/-- The parts that `uncorrectError` may change. -/
def uncorrectErrorParts : List Sys2Proof.Part :=
  .dict :: .mem :: .ctl :: .tiles :: .images :: .sync :: .syncWins :: .pkgs :: .works :: .jobs :: .ctxs :: .protect :: []

theorem uncorrectError_keeps (s : State) (a1 : Nat) (a2 : Nat) (a3 : Nat) : Kept uncorrectErrorParts s (uncorrectError s a1 a2 a3) := by
  unfold uncorrectError
  have h0 := Kept.refl uncorrectErrorParts s
  repeat' first
    | with_reducible assumption
    | (extract_lets +onlyGivenNames x; (refine Kept.cutAA x ?_ (fun hx => ?_)); subst x; rotate_left; clear_value x)
    | with_reducible apply Kept.ite
    | ((with_reducible apply Kept.by (logFault_keeps ..)); case hs => rfl)
    | ((with_reducible apply Kept.by (addReg_keeps ..)); case hs => rfl)
    | ((with_reducible apply Kept.by (hitMemory_keeps ..)); case hs => rfl)
    | ((with_reducible apply Kept.by (noteErrors_keeps ..)); case hs => rfl)

theorem startMirror_keeps (s : State) : Kept [.dict, .fabric, .out] s (startMirror s) := by
  unfold startMirror
  have h0 := Kept.refl [.dict, .fabric, .out] s
  repeat' first
    | with_reducible assumption
    | (extract_lets +onlyGivenNames x; (refine Kept.cutAA x ?_ (fun hx => ?_)); subst x; rotate_left; clear_value x)
    | (extract_lets +onlyGivenNames x; clear_value x)
    | ((with_reducible apply Kept.by (setReg_keeps ..)); case hs => rfl)
    | ((with_reducible apply Kept.by (toMirror_keeps ..)); case hs => rfl)
    | (with_reducible apply Kept.foldl; (intro t a; have h1 := Kept.refl [.dict, .fabric, .out] t))
    | ((with_reducible refine Kept.upd ?_ (fun p hp => ?_)); rotate_left; (cases p <;> first | exact absurd (by decide) hp | rfl); with_reducible assumption)

theorem dropMirror_keeps (s : State) (a1 : Nat) : Kept releaseFlowParts s (dropMirror s a1) := by
  unfold dropMirror
  have h0 := Kept.refl releaseFlowParts s
  repeat' first
    | with_reducible assumption
    | (extract_lets +onlyGivenNames x; (refine Kept.cutAA x ?_ (fun hx => ?_)); subst x; rotate_left; clear_value x)
    | (extract_lets +onlyGivenNames x; clear_value x)
    | ((with_reducible apply Kept.by (setReg_keeps ..)); case hs => rfl)
    | ((with_reducible apply Kept.by (unhold_keeps ..)); case hs => rfl)
    | (with_reducible apply Kept.foldl; (intro t a; have h1 := Kept.refl releaseFlowParts t))
    | ((with_reducible refine Kept.upd ?_ (fun p hp => ?_)); rotate_left; (cases p <;> first | exact absurd (by decide) hp | rfl); with_reducible assumption)

theorem writeMirrorPeer_keeps (s : State) (a1 : Nat) : Kept releaseFlowParts s (writeMirrorPeer s a1) := by
  unfold writeMirrorPeer
  have h0 := Kept.refl releaseFlowParts s
  repeat' first
    | with_reducible assumption
    | (extract_lets +onlyGivenNames x; (refine Kept.cutAA x ?_ (fun hx => ?_)); subst x; rotate_left; clear_value x)
    | with_reducible apply Kept.ite
    | ((with_reducible apply Kept.by (setReg_keeps ..)); case hs => rfl)
    | ((with_reducible apply Kept.by (dropMirror_keeps ..)); case hs => rfl)
    | ((with_reducible apply Kept.by (startMirror_keeps ..)); case hs => rfl)

theorem unprotectMirror_keeps (s : State) : Kept releaseFlowParts s (unprotectMirror s) := by
  unfold unprotectMirror
  have h0 := Kept.refl releaseFlowParts s
  repeat' first
    | with_reducible assumption
    | (extract_lets +onlyGivenNames x; (refine Kept.cutAA x ?_ (fun hx => ?_)); subst x; rotate_left; clear_value x)
    | (extract_lets +onlyGivenNames x; clear_value x)
    | with_reducible apply Kept.ite
    | ((with_reducible apply Kept.by (dropMirror_keeps ..)); case hs => rfl)
    | ((with_reducible apply Kept.by (logFault_keeps ..)); case hs => rfl)
    | ((with_reducible refine Kept.upd ?_ (fun p hp => ?_)); rotate_left; (cases p <;> first | exact absurd (by decide) hp | rfl); with_reducible assumption)

theorem ackMirror_keeps (s : State) : Kept releaseFlowParts s (ackMirror s) := by
  unfold ackMirror
  have h0 := Kept.refl releaseFlowParts s
  repeat' first
    | with_reducible assumption
    | (extract_lets +onlyGivenNames x; clear_value x)
    | with_reducible apply Kept.ite
    | ((with_reducible apply Kept.by (unhold_keeps ..)); case hs => rfl)
    | ((with_reducible apply Kept.by (setReg_keeps ..)); case hs => rfl)
    | ((with_reducible apply Kept.by (logFault_keeps ..)); case hs => rfl)
    | dsimp only
    | split
    | ((with_reducible refine Kept.upd ?_ (fun p hp => ?_)); rotate_left; (cases p <;> first | exact absurd (by decide) hp | rfl); (first | with_reducible assumption | ((with_reducible apply Kept.by (setReg_keeps ..)); case hs => rfl)))

/-- The parts that `ackMessage` may change. -/
def ackMessageParts : List Sys2Proof.Part :=
  .dict :: .host :: .ctl :: .frames :: .allocs :: .srings :: .flows :: .fabric :: .out :: []

theorem ackMessage_keeps (s : State) (a1 : Nat) (a2 : Nat) (a3 : Nat) : Kept ackMessageParts s (ackMessage s a1 a2 a3) := by
  unfold ackMessage
  have h0 := Kept.refl ackMessageParts s
  repeat' first
    | with_reducible assumption
    | (extract_lets +onlyGivenNames x; (refine Kept.cutAA x ?_ (fun hx => ?_)); subst x; rotate_left; clear_value x)
    | (extract_lets +onlyGivenNames x; clear_value x)
    | with_reducible apply Kept.ite
    | ((with_reducible apply Kept.by (ackMirror_keeps ..)); case hs => rfl)
    | ((with_reducible apply Kept.by (ackHeld_keeps ..)); case hs => rfl)
    | (with_reducible apply Kept.foldl; (intro t a; have h1 := Kept.refl ackMessageParts t))
    | ((with_reducible refine Kept.upd ?_ (fun p hp => ?_)); rotate_left; (cases p <;> first | exact absurd (by decide) hp | rfl); with_reducible assumption)

theorem ackTo_keeps (s : State) (a1 : Nat) (a2 : Nat) : Kept [.out] s (ackTo s a1 a2) := by
  unfold ackTo
  have h0 := Kept.refl [.out] s
  repeat' first
    | with_reducible assumption
    | ((with_reducible apply Kept.by (emit_keeps ..)); case hs => rfl)

theorem storeBytes_keeps (s : State) (a1 : Nat) (a2 : Nat) (a3 : List Byte) : Kept [.dict] s (storeBytes s a1 a2 a3) := by
  unfold storeBytes
  have h0 := Kept.refl [.dict] s
  repeat' first
    | with_reducible assumption
    | with_reducible apply Kept.ite
    | ((with_reducible apply Kept.by (setReg_keeps ..)); case hs => rfl)
    | ((with_reducible apply Kept.by (setBlob_keeps ..)); case hs => rfl)
    | split

theorem takeRestored_keeps (s : State) (a1 : MirrorItem) : Kept [.dict, .ctl, .fabric] s (takeRestored s a1) := by
  unfold takeRestored
  have h0 := Kept.refl [.dict, .ctl, .fabric] s
  repeat' first
    | with_reducible assumption
    | (extract_lets +onlyGivenNames x; clear_value x)
    | with_reducible apply Kept.ite
    | ((with_reducible apply Kept.by (setBlob_keeps ..)); case hs => rfl)
    | dsimp only
    | split
    | ((with_reducible refine Kept.upd ?_ (fun p hp => ?_)); rotate_left; (cases p <;> first | exact absurd (by decide) hp | rfl); (first | with_reducible assumption | ((with_reducible apply Kept.by (storeBytes_keeps ..)); case hs => rfl)))

theorem storeMirror_keeps (s : State) (a1 : Nat) (a2 : MirrorItem) : Kept [.fabric, .out] s (storeMirror s a1 a2) := by
  unfold storeMirror
  have h0 := Kept.refl [.fabric, .out] s
  repeat' first
    | with_reducible assumption
    | (extract_lets +onlyGivenNames x; clear_value x)
    | with_reducible apply Kept.ite
    | ((with_reducible apply Kept.by (ackTo_keeps ..)); case hs => rfl)
    | ((with_reducible refine Kept.upd ?_ (fun p hp => ?_)); rotate_left; (cases p <;> first | exact absurd (by decide) hp | rfl); with_reducible assumption)

theorem copyMessages_keeps (s : State) (a1 : Nat) (a2 : Nat) (a3 : Nat) (a4 : Nat) (a5 : Nat) : KeptP [.dict, .fabric, .out] s (copyMessages s a1 a2 a3 a4 a5) := by
  induction a3 generalizing s a1 a2 a4 a5 with
  | zero =>
    unfold copyMessages
    have h0 := Kept.refl [.dict, .fabric, .out] s
    repeat' first
    | with_reducible exact KeptP.of (by assumption)
  | succ n ih =>
    unfold copyMessages
    have h0 := Kept.refl [.dict, .fabric, .out] s
    repeat' first
    | with_reducible apply Kept.trans _ (KeptP.fst (ih ..))
    | with_reducible assumption
    | with_reducible exact KeptP.of (by assumption)
    | (extract_lets +onlyGivenNames x; clear_value x)
    | with_reducible apply KeptP.ite
    | ((with_reducible apply Kept.by (KeptP.fst (sendMessage_keeps ..))); case hs => rfl)
    | with_reducible apply KeptP.mk

theorem startCopy_keeps (s : State) : Kept [.dict, .fabric, .out] s (startCopy s) := by
  unfold startCopy
  have h0 := Kept.refl [.dict, .fabric, .out] s
  repeat' first
    | with_reducible assumption
    | (extract_lets +onlyGivenNames x; (have hf := fun y => x y); clear hf; subst x)
    | (extract_lets +onlyGivenNames x; clear_value x)
    | with_reducible apply Kept.ite
    | ((with_reducible apply Kept.by (setReg_keeps ..)); case hs => rfl)
    | ((with_reducible refine Kept.upd ?_ (fun p hp => ?_)); rotate_left; (cases p <;> first | exact absurd (by decide) hp | rfl); ((with_reducible apply Kept.by (KeptP.fst (copyMessages_keeps ..))); case hs => rfl))

theorem endCopy_keeps (s : State) : Kept [.dict] s (endCopy s) := by
  unfold endCopy
  have h0 := Kept.refl [.dict] s
  repeat' first
    | with_reducible assumption
    | with_reducible apply Kept.ite
    | ((with_reducible apply Kept.by (setReg_keeps ..)); case hs => rfl)

theorem receiveCopy_keeps (s : State) (a1 : Nat) (a2 : Nat) (a3 : List Byte) : Kept [.mem, .out] s (receiveCopy s a1 a2 a3) := by
  unfold receiveCopy
  have h0 := Kept.refl [.mem, .out] s
  repeat' first
    | with_reducible assumption
    | with_reducible apply Kept.ite
    | ((with_reducible apply Kept.by (ackTo_keeps ..)); case hs => rfl)
    | ((with_reducible refine Kept.upd ?_ (fun p hp => ?_)); rotate_left; (cases p <;> first | exact absurd (by decide) hp | rfl); with_reducible assumption)

end Sys2Proof.Machine
end

