-- ==== Sys2Proof/Laws/KeepMedia.lean ====
section
/-! SUPPORT. Which parts of the state each operation of Machine/Media.lean may change. -/
namespace Sys2Proof.Machine
open Sys2Proof
seal findObj defaultOf getReg getBlob

theorem placePiece_keeps (s : State) (a1 : Nat) (a2 : HeldPacket) : Kept [.dict, .ctxs] s (placePiece s a1 a2) := by
  unfold placePiece
  have h0 := Kept.refl [.dict, .ctxs] s
  repeat' first
    | with_reducible assumption
    | (extract_lets +onlyGivenNames x; clear_value x)
    | with_reducible apply Kept.ite
    | ((with_reducible apply Kept.by (putCtx_keeps ..)); case hs => rfl)
    | ((with_reducible apply Kept.by (addReg_keeps ..)); case hs => rfl)

theorem takePacket_keeps (s : State) (a1 : Nat) (a2 : Nat) (a3 : RtpPacket) : Kept [.dict, .ctxs] s (takePacket s a1 a2 a3) := by
  unfold takePacket
  have h0 := Kept.refl [.dict, .ctxs] s
  repeat' first
    | with_reducible assumption
    | (extract_lets +onlyGivenNames x; (refine Kept.cutAA x ?_ (fun hx => ?_)); subst x; rotate_left; clear_value x)
    | (extract_lets +onlyGivenNames x; clear_value x)
    | with_reducible apply Kept.ite
    | ((with_reducible apply Kept.by (addReg_keeps ..)); case hs => rfl)
    | ((with_reducible apply Kept.by (putCtx_keeps ..)); case hs => rfl)
    | ((with_reducible apply Kept.by (placePiece_keeps ..)); case hs => rfl)
    | (with_reducible apply Kept.foldl; (intro t a; have h1 := Kept.refl [.dict, .ctxs] t))

theorem countDrop_keeps (s : State) (a1 : Nat) (a2 : PortFrame) : Kept [.dict] s (countDrop s a1 a2) := by
  unfold countDrop
  have h0 := Kept.refl [.dict] s
  repeat' first
    | with_reducible assumption
    | with_reducible apply Kept.ite
    | ((with_reducible apply Kept.by (addReg_keeps ..)); case hs => rfl)

theorem receivePacket_keeps (s : State) (a1 : Nat) (a2 : RtpPacket) : Kept [.dict, .ctxs] s (receivePacket s a1 a2) := by
  unfold receivePacket
  have h0 := Kept.refl [.dict, .ctxs] s
  repeat' first
    | with_reducible assumption
    | (extract_lets +onlyGivenNames x; clear_value x)
    | with_reducible apply Kept.ite
    | ((with_reducible apply Kept.by (countDrop_keeps ..)); case hs => rfl)
    | ((with_reducible apply Kept.by (takePacket_keeps ..)); case hs => rfl)
    | ((with_reducible apply Kept.by (addReg_keeps ..)); case hs => rfl)
    | (with_reducible apply Kept.foldl; (intro t a; have h1 := Kept.refl [.dict, .ctxs] t))

theorem expireSeq_keeps (s : State) (a1 : Nat) (a2 : Nat) : Kept [.ctxs] s (expireSeq s a1 a2) := by
  unfold expireSeq
  have h0 := Kept.refl [.ctxs] s
  repeat' first
    | with_reducible assumption
    | (extract_lets +onlyGivenNames x; clear_value x)
    | with_reducible apply Kept.ite
    | ((with_reducible apply Kept.by (putCtx_keeps ..)); case hs => rfl)

theorem admitInputs_keeps (a0 : Nat) (s : State) (a2 : Nat) : Kept [.frames, .ctxs, .media, .fabric, .out] s (admitInputs a0 s a2) := by
  induction a0 generalizing s a2 with
  | zero =>
    unfold admitInputs
    have h0 := Kept.refl [.frames, .ctxs, .media, .fabric, .out] s
    repeat' first
    | with_reducible assumption
  | succ n ih =>
    unfold admitInputs
    have h0 := Kept.refl [.frames, .ctxs, .media, .fabric, .out] s
    repeat' first
    | with_reducible apply Kept.trans _ (ih ..)
    | with_reducible assumption
    | (extract_lets +onlyGivenNames x; clear_value x)
    | with_reducible apply Kept.ite
    | ((with_reducible apply Kept.by (stopWaiting_keeps ..)); case hs => rfl)
    | ((with_reducible apply Kept.by (waitPool_keeps ..)); case hs => rfl)
    | ((with_reducible apply Kept.by (putCtx_keeps ..)); case hs => rfl)
    | ((with_reducible apply Kept.by (toMirror_keeps ..)); case hs => rfl)
    | ((with_reducible apply Kept.by (acceptFrame_keeps ..)); case hs => rfl)
    | dsimp only
    | split

theorem completeFrame_keeps (s : State) (a1 : Nat) (a2 : InFrame) : Kept [.dict, .frames, .ctxs, .media, .fabric, .out] s (completeFrame s a1 a2) := by
  unfold completeFrame
  have h0 := Kept.refl [.dict, .frames, .ctxs, .media, .fabric, .out] s
  repeat' first
    | with_reducible assumption
    | (extract_lets +onlyGivenNames x; (refine Kept.cutAA x ?_ (fun hx => ?_)); subst x; rotate_left; clear_value x)
    | (extract_lets +onlyGivenNames x; clear_value x)
    | with_reducible apply Kept.ite
    | ((with_reducible apply Kept.by (addReg_keeps ..)); case hs => rfl)
    | ((with_reducible apply Kept.by (putCtx_keeps ..)); case hs => rfl)
    | ((with_reducible apply Kept.by (admitInputs_keeps ..)); case hs => rfl)

theorem completeInput_keeps (s : State) (a1 : Nat) : Kept [.dict, .frames, .ctxs, .media, .fabric, .out] s (completeInput s a1) := by
  unfold completeInput
  have h0 := Kept.refl [.dict, .frames, .ctxs, .media, .fabric, .out] s
  repeat' first
    | with_reducible assumption
    | (extract_lets +onlyGivenNames x; (refine Kept.cutAA x ?_ (fun hx => ?_)); subst x; rotate_left; clear_value x)
    | with_reducible apply Kept.ite
    | ((with_reducible apply Kept.by (admitInputs_keeps ..)); case hs => rfl)
    | ((with_reducible apply Kept.by (completeFrame_keeps ..)); case hs => rfl)
    | split

theorem timeoutInput_keeps (s : State) (a1 : Nat) : Kept [.dict, .frames, .ctxs, .media, .fabric, .out] s (timeoutInput s a1) := by
  unfold timeoutInput
  have h0 := Kept.refl [.dict, .frames, .ctxs, .media, .fabric, .out] s
  repeat' first
    | with_reducible assumption
    | with_reducible apply Kept.ite
    | ((with_reducible apply Kept.by (completeFrame_keeps ..)); case hs => rfl)
    | split

theorem portAnswers_keeps (s : State) (a1 : Nat) (a2 : Bool) (a3 : PortFrame) (a4 : Option Emission) : Kept [.dict, .out] s (portAnswers s a1 a2 a3 a4) := by
  unfold portAnswers
  have h0 := Kept.refl [.dict, .out] s
  repeat' first
    | with_reducible assumption
    | (extract_lets +onlyGivenNames x; (refine Kept.cutAA x ?_ (fun hx => ?_)); subst x; rotate_left; clear_value x)
    | with_reducible apply Kept.ite
    | ((with_reducible apply Kept.by (countDrop_keeps ..)); case hs => rfl)
    | ((with_reducible apply Kept.by (addReg_keeps ..)); case hs => rfl)
    | ((with_reducible apply Kept.by (emit_keeps ..)); case hs => rfl)
    | split

theorem queryGroups_keeps (s : State) (a1 : Nat) (a2 : PortFrame) (a3 : Nat) (a4 : Bool) : Kept [.dict, .out] s (queryGroups s a1 a2 a3 a4) := by
  unfold queryGroups
  have h0 := Kept.refl [.dict, .out] s
  repeat' first
    | with_reducible assumption
    | ((with_reducible apply Kept.by (portAnswers_keeps ..)); case hs => rfl)

theorem faultPort_keeps (s : State) (a1 : Nat) : Kept [.dict, .ctl, .frames, .allocs, .media, .fabric, .out] s (faultPort s a1) := by
  unfold faultPort
  have h0 := Kept.refl [.dict, .ctl, .frames, .allocs, .media, .fabric, .out] s
  repeat' first
    | with_reducible assumption
    | with_reducible apply Kept.ite
    | ((with_reducible apply Kept.by (silencePort_keeps ..)); case hs => rfl)
    | ((with_reducible apply Kept.by (logFault_keeps ..)); case hs => rfl)
    | ((with_reducible apply Kept.by (setReg_keeps ..)); case hs => rfl)

theorem raiseLink_keeps (s : State) (a1 : Nat) : Kept [.dict, .out] s (raiseLink s a1) := by
  unfold raiseLink
  have h0 := Kept.refl [.dict, .out] s
  repeat' first
    | with_reducible assumption
    | (extract_lets +onlyGivenNames x; (refine Kept.cutAA x ?_ (fun hx => ?_)); subst x; rotate_left; clear_value x)
    | with_reducible apply Kept.ite
    | ((with_reducible apply Kept.by (setReg_keeps ..)); case hs => rfl)
    | ((with_reducible apply Kept.by (emit_keeps ..)); case hs => rfl)
    | (with_reducible apply Kept.foldl; (intro t a; have h1 := Kept.refl [.dict, .out] t))
    | split

end Sys2Proof.Machine
end

