-- ==== Sys2Proof/Laws/KeepUmpire.lean ====
section
/-! SUPPORT. Which parts of the state each operation of Machine/Umpire.lean may change. -/
namespace Sys2Proof.Machine
open Sys2Proof
seal findObj defaultOf getReg getBlob

theorem setUmpireState_keeps (s : State) (a1 : Nat) : Kept [.dict] s (setUmpireState s a1) := by
  unfold setUmpireState
  have h0 := Kept.refl [.dict] s
  repeat' first
    | with_reducible assumption
    | ((with_reducible apply Kept.by (setReg_keeps ..)); case hs => rfl)

theorem umpireOutcome_keeps (s : State) (a1 : Nat) (a2 : Nat) : Kept [.dict, .umpire] s (umpireOutcome s a1 a2) := by
  unfold umpireOutcome
  have h0 := Kept.refl [.dict, .umpire] s
  repeat' first
    | (extract_lets +onlyGivenNames x; clear_value x)
    | ((with_reducible apply Kept.by (setUmpireState_keeps ..)); case hs => rfl)
    | ((with_reducible refine Kept.upd ?_ (fun p hp => ?_)); rotate_left; (cases p <;> first | exact absurd (by decide) hp | rfl); with_reducible assumption)

theorem tryPair_keeps (s : State) : Kept [.dict, .umpire] s (tryPair s) := by
  unfold tryPair
  have h0 := Kept.refl [.dict, .umpire] s
  repeat' first
    | with_reducible assumption
    | (extract_lets +onlyGivenNames x; (refine Kept.cutAA x ?_ (fun hx => ?_)); subst x; rotate_left; clear_value x)
    | (extract_lets +onlyGivenNames x; clear_value x)
    | with_reducible apply Kept.ite
    | ((with_reducible apply Kept.by (umpireOutcome_keeps ..)); case hs => rfl)
    | ((with_reducible refine Kept.upd ?_ (fun p hp => ?_)); rotate_left; (cases p <;> first | exact absurd (by decide) hp | rfl); with_reducible assumption)

theorem enableUmpire_keeps (s : State) : Kept [.dict, .umpire, .out] s (enableUmpire s) := by
  unfold enableUmpire
  have h0 := Kept.refl [.dict, .umpire, .out] s
  repeat' first
    | with_reducible assumption
    | (extract_lets +onlyGivenNames x; (refine Kept.cutAA x ?_ (fun hx => ?_)); subst x; rotate_left; clear_value x)
    | (extract_lets +onlyGivenNames x; clear_value x)
    | with_reducible apply Kept.ite
    | ((with_reducible apply Kept.by (setReg_keeps ..)); case hs => rfl)
    | ((with_reducible apply Kept.by (umpireOutcome_keeps ..)); case hs => rfl)
    | ((with_reducible apply Kept.by (tryPair_keeps ..)); case hs => rfl)
    | ((with_reducible apply Kept.by (emit_keeps ..)); case hs => rfl)
    | (with_reducible apply Kept.foldl; (intro t a; have h1 := Kept.refl [.dict, .umpire, .out] t))
    | ((with_reducible refine Kept.upd ?_ (fun p hp => ?_)); rotate_left; (cases p <;> first | exact absurd (by decide) hp | rfl); with_reducible assumption)

theorem takeDigest_keeps (s : State) (a1 : Nat) (a2 : List Byte) : Kept [.dict, .umpire] s (takeDigest s a1 a2) := by
  unfold takeDigest
  have h0 := Kept.refl [.dict, .umpire] s
  repeat' first
    | (extract_lets +onlyGivenNames x; clear_value x)
    | ((with_reducible apply Kept.by (tryPair_keeps ..)); case hs => rfl)
    | ((with_reducible refine Kept.upd ?_ (fun p hp => ?_)); rotate_left; (cases p <;> first | exact absurd (by decide) hp | rfl); with_reducible assumption)

theorem umpireRelease_keeps (s : State) (a1 : Nat) (a2 : Nat) : Kept ackMessageParts s (umpireRelease s a1 a2) := by
  unfold umpireRelease
  have h0 := Kept.refl ackMessageParts s
  repeat' first
    | with_reducible assumption
    | (extract_lets +onlyGivenNames x; (refine Kept.cutAA x ?_ (fun hx => ?_)); subst x; rotate_left; clear_value x)
    | ((with_reducible apply Kept.by (unhold_keeps ..)); case hs => rfl)
    | ((with_reducible apply Kept.by (settleFrame_keeps ..)); case hs => rfl)
    | ((with_reducible apply Kept.by (postReports_keeps ..)); case hs => rfl)
    | ((with_reducible apply Kept.by (clearWait_keeps ..)); case hs => rfl)

/-- The parts that `comparedOk` may change. -/
def comparedOkParts : List Sys2Proof.Part :=
  .dict :: .host :: .ctl :: .frames :: .allocs :: .srings :: .flows :: .fabric :: .umpire :: .out :: []

theorem comparedOk_keeps (s : State) (a1 : Nat) (a2 : Nat) : Kept comparedOkParts s (comparedOk s a1 a2) := by
  unfold comparedOk
  have h0 := Kept.refl comparedOkParts s
  repeat' first
    | with_reducible assumption
    | (extract_lets +onlyGivenNames x; clear_value x)
    | with_reducible apply Kept.ite
    | ((with_reducible apply Kept.by (umpireRelease_keeps ..)); case hs => rfl)
    | ((with_reducible refine Kept.upd ?_ (fun p hp => ?_)); rotate_left; (cases p <;> first | exact absurd (by decide) hp | rfl); with_reducible assumption)

theorem releaseHeld_keeps (s : State) (a1 : List (Nat × Nat)) : Kept ackMessageParts s (releaseHeld s a1) := by
  unfold releaseHeld
  have h0 := Kept.refl ackMessageParts s
  repeat' first
    | with_reducible assumption
    | ((with_reducible apply Kept.by (umpireRelease_keeps ..)); case hs => rfl)
    | (with_reducible apply Kept.foldl; (intro t a; have h1 := Kept.refl ackMessageParts t))

theorem markMismatch_keeps (s : State) (a1 : Nat) (a2 : Nat) : Kept [.host, .ctl, .frames, .allocs, .fabric, .out] s (markMismatch s a1 a2) := by
  unfold markMismatch
  have h0 := Kept.refl [.host, .ctl, .frames, .allocs, .fabric, .out] s
  repeat' first
    | with_reducible assumption
    | ((with_reducible apply Kept.by (postReports_keeps ..)); case hs => rfl)
    | ((with_reducible apply Kept.by (clearWait_keeps ..)); case hs => rfl)
    | ((with_reducible apply Kept.by (putFrame_keeps ..)); case hs => rfl)
    | split

theorem noteMismatch_keeps (s : State) (a1 : CardRecord) (a2 : List CardRecord) : Kept [.dict, .ctl, .out] s (noteMismatch s a1 a2) := by
  unfold noteMismatch
  have h0 := Kept.refl [.dict, .ctl, .out] s
  repeat' first
    | with_reducible assumption
    | (extract_lets +onlyGivenNames x; (refine Kept.cutAA x ?_ (fun hx => ?_)); subst x; rotate_left; clear_value x)
    | (extract_lets +onlyGivenNames x; clear_value x)
    | ((with_reducible apply Kept.by (logFault_keeps ..)); case hs => rfl)
    | ((with_reducible apply Kept.by (setBlob_keeps ..)); case hs => rfl)
    | ((with_reducible apply Kept.by (addReg_keeps ..)); case hs => rfl)
    | ((with_reducible apply Kept.by (emit_keeps ..)); case hs => rfl)
    | (with_reducible apply Kept.foldl; (intro t a; have h1 := Kept.refl [.dict, .ctl, .out] t))

theorem dueHalt_keeps (s : State) (a1 : Nat) (a2 : Nat) : Kept [.umpire] s (dueHalt s a1 a2) := by
  unfold dueHalt
  have h0 := Kept.refl [.umpire] s
  repeat' first
    | with_reducible assumption
    | (extract_lets +onlyGivenNames x; (refine Kept.cutAA x ?_ (fun hx => ?_)); subst x; rotate_left; clear_value x)
    | (extract_lets +onlyGivenNames x; clear_value x)
    | with_reducible apply Kept.ite
    | ((with_reducible refine Kept.upd ?_ (fun p hp => ?_)); rotate_left; (cases p <;> first | exact absurd (by decide) hp | rfl); with_reducible assumption)

theorem leaveTrio_keeps (s : State) (a1 : List Nat) : Kept [.umpire] s (leaveTrio s a1) := by
  unfold leaveTrio
  have h0 := Kept.refl [.umpire] s
  repeat' first
    | (extract_lets +onlyGivenNames x; clear_value x)
    | ((with_reducible refine Kept.upd ?_ (fun p hp => ?_)); rotate_left; (cases p <;> first | exact absurd (by decide) hp | rfl); with_reducible assumption)

theorem applyMajority_keeps (s : State) (a1 : CardRecord) (a2 : List (Nat × CardRecord)) (a3 : Bool) : Kept comparedOkParts s (applyMajority s a1 a2 a3) := by
  unfold applyMajority
  have h0 := Kept.refl comparedOkParts s
  repeat' first
    | with_reducible assumption
    | (extract_lets +onlyGivenNames x; (refine Kept.cutAA x ?_ (fun hx => ?_)); subst x; rotate_left; clear_value x)
    | (extract_lets +onlyGivenNames x; clear_value x)
    | with_reducible apply Kept.ite
    | ((with_reducible apply Kept.by (setUmpireState_keeps ..)); case hs => rfl)
    | ((with_reducible apply Kept.by (leaveTrio_keeps ..)); case hs => rfl)
    | ((with_reducible apply Kept.by (comparedOk_keeps ..)); case hs => rfl)
    | ((with_reducible apply Kept.by (dueHalt_keeps ..)); case hs => rfl)
    | ((with_reducible apply Kept.by (markMismatch_keeps ..)); case hs => rfl)

theorem dropCompared_keeps (s : State) (a1 : CardRecord) : Kept [.umpire] s (dropCompared s a1) := by
  unfold dropCompared
  have h0 := Kept.refl [.umpire] s
  repeat' first
    | (extract_lets +onlyGivenNames x; (have hf := fun y => x y); clear hf; subst x)
    | (extract_lets +onlyGivenNames x; clear_value x)
    | dsimp only
    | ((with_reducible refine Kept.upd ?_ (fun p hp => ?_)); rotate_left; (cases p <;> first | exact absurd (by decide) hp | rfl); with_reducible assumption)

theorem comparePairs_keeps (s : State) (a1 : CardRecord) (a2 : List (Nat × CardRecord)) (a3 : List (Nat × CardRecord)) : Kept [.dict, .ctl, .umpire, .out] s (comparePairs s a1 a2 a3) := by
  unfold comparePairs
  have h0 := Kept.refl [.dict, .ctl, .umpire, .out] s
  repeat' first
    | with_reducible assumption
    | (extract_lets +onlyGivenNames x; (refine Kept.cutAA x ?_ (fun hx => ?_)); subst x; rotate_left; clear_value x)
    | (extract_lets +onlyGivenNames x; clear_value x)
    | ((with_reducible apply Kept.by (addReg_keeps ..)); case hs => rfl)
    | ((with_reducible apply Kept.by (noteMismatch_keeps ..)); case hs => rfl)
    | (with_reducible apply Kept.foldl; (intro t a; have h1 := Kept.refl [.dict, .ctl, .umpire, .out] t))
    | ((with_reducible refine Kept.upd ?_ (fun p hp => ?_)); rotate_left; (cases p <;> first | exact absurd (by decide) hp | rfl); with_reducible assumption)

theorem compareOne_keeps (s : State) (a1 : CardRecord) : Kept comparedOkParts s (compareOne s a1) := by
  unfold compareOne
  have h0 := Kept.refl comparedOkParts s
  repeat' first
    | with_reducible assumption
    | (extract_lets +onlyGivenNames x; (refine Kept.cutAA x ?_ (fun hx => ?_)); subst x; rotate_left; clear_value x)
    | (extract_lets +onlyGivenNames x; clear_value x)
    | with_reducible apply Kept.ite
    | ((with_reducible apply Kept.by (comparePairs_keeps ..)); case hs => rfl)
    | ((with_reducible apply Kept.by (dropCompared_keeps ..)); case hs => rfl)
    | ((with_reducible apply Kept.by (applyMajority_keeps ..)); case hs => rfl)
    | ((with_reducible apply Kept.by (comparedOk_keeps ..)); case hs => rfl)
    | ((with_reducible apply Kept.by (markMismatch_keeps ..)); case hs => rfl)
    | ((with_reducible apply Kept.by (dueHalt_keeps ..)); case hs => rfl)

theorem compareAll_keeps (s : State) : Kept comparedOkParts s (compareAll s) := by
  unfold compareAll
  have h0 := Kept.refl comparedOkParts s
  repeat' first
    | with_reducible assumption
    | ((with_reducible apply Kept.by (compareOne_keeps ..)); case hs => rfl)
    | (with_reducible apply Kept.foldl; (intro t a; have h1 := Kept.refl comparedOkParts t))

theorem sendCards_keeps (s : State) : Kept comparedOkParts s (sendCards s) := by
  unfold sendCards
  have h0 := Kept.refl comparedOkParts s
  repeat' first
    | with_reducible assumption
    | (extract_lets +onlyGivenNames x; (refine Kept.cutAA x ?_ (fun hx => ?_)); subst x; rotate_left; clear_value x)
    | (extract_lets +onlyGivenNames x; clear_value x)
    | with_reducible apply Kept.ite
    | ((with_reducible apply Kept.by (emit_keeps ..)); case hs => rfl)
    | ((with_reducible apply Kept.by (compareAll_keeps ..)); case hs => rfl)
    | (with_reducible apply Kept.foldl; (intro t a; have h1 := Kept.refl comparedOkParts t))
    | ((with_reducible refine Kept.upd ?_ (fun p hp => ?_)); rotate_left; (cases p <;> first | exact absurd (by decide) hp | rfl); with_reducible assumption)

theorem takeCards_keeps (s : State) (a1 : Nat) (a2 : List CardRecord) : Kept comparedOkParts s (takeCards s a1 a2) := by
  unfold takeCards
  have h0 := Kept.refl comparedOkParts s
  repeat' first
    | with_reducible assumption
    | (extract_lets +onlyGivenNames x; clear_value x)
    | with_reducible apply Kept.ite
    | ((with_reducible apply Kept.by (compareAll_keeps ..)); case hs => rfl)
    | ((with_reducible refine Kept.upd ?_ (fun p hp => ?_)); rotate_left; (cases p <;> first | exact absurd (by decide) hp | rfl); with_reducible assumption)

theorem takeNotice_keeps (s : State) (a1 : Nat) : Kept [.umpire] s (takeNotice s a1) := by
  unfold takeNotice
  have h0 := Kept.refl [.umpire] s
  repeat' first
    | with_reducible assumption
    | (extract_lets +onlyGivenNames x; clear_value x)
    | with_reducible apply Kept.ite
    | ((with_reducible refine Kept.upd ?_ (fun p hp => ?_)); rotate_left; (cases p <;> first | exact absurd (by decide) hp | rfl); with_reducible assumption)

theorem lagEvent_keeps (s : State) (a1 : Nat) (a2 : Nat) : Kept [.dict, .umpire] s (lagEvent s a1 a2) := by
  unfold lagEvent
  have h0 := Kept.refl [.dict, .umpire] s
  repeat' first
    | with_reducible assumption
    | (extract_lets +onlyGivenNames x; clear_value x)
    | with_reducible apply Kept.ite
    | ((with_reducible apply Kept.by (addReg_keeps ..)); case hs => rfl)
    | ((with_reducible refine Kept.upd ?_ (fun p hp => ?_)); rotate_left; (cases p <;> first | exact absurd (by decide) hp | rfl); with_reducible assumption)

theorem haltMarked_keeps (s : State) : Kept [.dict, .umpire] s (haltMarked s) := by
  unfold haltMarked
  have h0 := Kept.refl [.dict, .umpire] s
  repeat' first
    | with_reducible assumption
    | (extract_lets +onlyGivenNames x; (refine Kept.cutAA x ?_ (fun hx => ?_)); subst x; rotate_left; clear_value x)
    | (extract_lets +onlyGivenNames x; clear_value x)
    | with_reducible apply Kept.ite
    | ((with_reducible apply Kept.by (setUmpireState_keeps ..)); case hs => rfl)
    | ((with_reducible apply Kept.by (setCtxState_keeps ..)); case hs => rfl)
    | (with_reducible apply Kept.foldl; (intro t a; have h1 := Kept.refl [.dict, .umpire] t))
    | ((with_reducible refine Kept.upd ?_ (fun p hp => ?_)); rotate_left; (cases p <;> first | exact absurd (by decide) hp | rfl); with_reducible assumption)

theorem discardHeld_keeps (s : State) (a1 : Nat) (a2 : Nat) : Kept [.host, .ctl, .frames, .allocs, .fabric, .out] s (discardHeld s a1 a2) := by
  unfold discardHeld
  have h0 := Kept.refl [.host, .ctl, .frames, .allocs, .fabric, .out] s
  repeat' first
    | with_reducible assumption
    | with_reducible apply Kept.ite
    | ((with_reducible apply Kept.by (putFrame_keeps ..)); case hs => rfl)
    | ((with_reducible apply Kept.by (settleFrame_keeps ..)); case hs => rfl)
    | ((with_reducible apply Kept.by (postReports_keeps ..)); case hs => rfl)
    | dsimp only
    | split

/-- The parts that `stopUmpire` may change. -/
def stopUmpireParts : List Sys2Proof.Part :=
  .dict :: .host :: .ctl :: .frames :: .allocs :: .ctxs :: .fabric :: .umpire :: .out :: []

theorem stopUmpire_keeps (s : State) : Kept stopUmpireParts s (stopUmpire s) := by
  unfold stopUmpire
  have h0 := Kept.refl stopUmpireParts s
  repeat' first
    | with_reducible assumption
    | (extract_lets +onlyGivenNames x; (refine Kept.cutAA x ?_ (fun hx => ?_)); subst x; rotate_left; clear_value x)
    | (extract_lets +onlyGivenNames x; clear_value x)
    | with_reducible apply Kept.ite
    | ((with_reducible apply Kept.by (setUmpireState_keeps ..)); case hs => rfl)
    | ((with_reducible apply Kept.by (putCtx_keeps ..)); case hs => rfl)
    | ((with_reducible apply Kept.by (discardHeld_keeps ..)); case hs => rfl)
    | (with_reducible apply Kept.foldl; (intro t a; have h1 := Kept.refl stopUmpireParts t))
    | ((with_reducible refine Kept.upd ?_ (fun p hp => ?_)); rotate_left; (cases p <;> first | exact absurd (by decide) hp | rfl); with_reducible assumption)

theorem unhaltMarked_keeps (s : State) : Kept [.dict] s (unhaltMarked s) := by
  unfold unhaltMarked
  have h0 := Kept.refl [.dict] s
  repeat' first
    | with_reducible assumption
    | with_reducible apply Kept.ite
    | ((with_reducible apply Kept.by (setCtxState_keeps ..)); case hs => rfl)
    | (with_reducible apply Kept.foldl; (intro t a; have h1 := Kept.refl [.dict] t))

theorem resumeUmpire_keeps (s : State) : Kept comparedOkParts s (resumeUmpire s) := by
  unfold resumeUmpire
  have h0 := Kept.refl comparedOkParts s
  repeat' first
    | with_reducible assumption
    | (extract_lets +onlyGivenNames x; (refine Kept.cutAA x ?_ (fun hx => ?_)); subst x; rotate_left; clear_value x)
    | (extract_lets +onlyGivenNames x; clear_value x)
    | with_reducible apply Kept.ite
    | ((with_reducible apply Kept.by (releaseHeld_keeps ..)); case hs => rfl)
    | ((with_reducible apply Kept.by (unhaltMarked_keeps ..)); case hs => rfl)
    | ((with_reducible apply Kept.by (setUmpireState_keeps ..)); case hs => rfl)
    | ((with_reducible refine Kept.upd ?_ (fun p hp => ?_)); rotate_left; (cases p <;> first | exact absurd (by decide) hp | rfl); with_reducible assumption)

theorem losePartner_keeps (s : State) (a1 : Nat) : Kept comparedOkParts s (losePartner s a1) := by
  unfold losePartner
  have h0 := Kept.refl comparedOkParts s
  repeat' first
    | with_reducible assumption
    | (extract_lets +onlyGivenNames x; (refine Kept.cutAA x ?_ (fun hx => ?_)); subst x; rotate_left; clear_value x)
    | (extract_lets +onlyGivenNames x; clear_value x)
    | with_reducible apply Kept.ite
    | ((with_reducible apply Kept.by (leaveTrio_keeps ..)); case hs => rfl)
    | ((with_reducible apply Kept.by (compareAll_keeps ..)); case hs => rfl)
    | ((with_reducible apply Kept.by (setUmpireState_keeps ..)); case hs => rfl)
    | ((with_reducible apply Kept.by (releaseHeld_keeps ..)); case hs => rfl)
    | ((with_reducible apply Kept.by (unhaltMarked_keeps ..)); case hs => rfl)
    | ((with_reducible refine Kept.upd ?_ (fun p hp => ?_)); rotate_left; (cases p <;> first | exact absurd (by decide) hp | rfl); with_reducible assumption)

end Sys2Proof.Machine
end

