-- ==== Sys2Proof/Laws/KeepPower.lean ====
section
/-! SUPPORT. Which parts of the state each operation of Machine/Power.lean may change. -/
namespace Sys2Proof.Machine
open Sys2Proof
seal findObj defaultOf getReg getBlob

theorem putDie_keeps (s : State) (a1 : Nat) (a2 : DiePower) : Kept [.power] s (putDie s a1 a2) := by
  unfold putDie
  have h0 := Kept.refl [.power] s
  repeat' first
    | (extract_lets +onlyGivenNames x; clear_value x)
    | ((with_reducible refine Kept.upd ?_ (fun p hp => ?_)); rotate_left; (cases p <;> first | exact absurd (by decide) hp | rfl); with_reducible assumption)

theorem stepPoint_keeps (s : State) (a1 : Nat) (a2 : Bool) : Kept [.power, .out] s (stepPoint s a1 a2) := by
  unfold stepPoint
  have h0 := Kept.refl [.power, .out] s
  repeat' first
    | with_reducible assumption
    | (extract_lets +onlyGivenNames x; (refine Kept.cutAA x ?_ (fun hx => ?_)); subst x; rotate_left; clear_value x)
    | (extract_lets +onlyGivenNames x; clear_value x)
    | with_reducible apply Kept.ite
    | ((with_reducible apply Kept.by (putDie_keeps ..)); case hs => rfl)
    | ((with_reducible apply Kept.by (emit_keeps ..)); case hs => rfl)

theorem countReasons_keeps (s : State) : Kept [.dict, .power] s (countReasons s) := by
  unfold countReasons
  have h0 := Kept.refl [.dict, .power] s
  repeat' first
    | with_reducible assumption
    | (extract_lets +onlyGivenNames x; (refine Kept.cutAA x ?_ (fun hx => ?_)); subst x; rotate_left; clear_value x)
    | (extract_lets +onlyGivenNames x; clear_value x)
    | with_reducible apply Kept.ite
    | ((with_reducible apply Kept.by (addReg_keeps ..)); case hs => rfl)
    | (with_reducible apply Kept.foldl; (intro t a; have h1 := Kept.refl [.dict, .power] t))
    | ((with_reducible refine Kept.upd ?_ (fun p hp => ?_)); rotate_left; (cases p <;> first | exact absurd (by decide) hp | rfl); with_reducible assumption)

theorem noteReasons_keeps (s : State) : Kept [.dict, .ctl, .power] s (noteReasons s) := by
  unfold noteReasons
  have h0 := Kept.refl [.dict, .ctl, .power] s
  repeat' first
    | with_reducible assumption
    | (extract_lets +onlyGivenNames x; (refine Kept.cutAA x ?_ (fun hx => ?_)); subst x; rotate_left; clear_value x)
    | (extract_lets +onlyGivenNames x; clear_value x)
    | with_reducible apply Kept.ite
    | ((with_reducible apply Kept.by (logFault_keeps ..)); case hs => rfl)
    | ((with_reducible apply Kept.by (setReg_keeps ..)); case hs => rfl)
    | (with_reducible apply Kept.foldl; (intro t a; have h1 := Kept.refl [.dict, .ctl, .power] t))
    | ((with_reducible refine Kept.upd ?_ (fun p hp => ?_)); rotate_left; (cases p <;> first | exact absurd (by decide) hp | rfl); with_reducible assumption)

theorem breachDie_keeps (s : State) (a1 : Nat) : Kept [.power] s (breachDie s a1) := by
  unfold breachDie
  have h0 := Kept.refl [.power] s
  repeat' first
    | with_reducible assumption
    | (extract_lets +onlyGivenNames x; clear_value x)
    | with_reducible apply Kept.ite
    | ((with_reducible apply Kept.by (putDie_keeps ..)); case hs => rfl)

theorem estimateDie_keeps (s : State) (a1 : Nat) (a2 : Nat) : Kept [.power] s (estimateDie s a1 a2) := by
  unfold estimateDie
  have h0 := Kept.refl [.power] s
  repeat' first
    | with_reducible assumption
    | (extract_lets +onlyGivenNames x; (refine Kept.cutAA x ?_ (fun hx => ?_)); subst x; rotate_left; clear_value x)
    | (extract_lets +onlyGivenNames x; clear_value x)
    | with_reducible apply Kept.ite
    | ((with_reducible apply Kept.by (putDie_keeps ..)); case hs => rfl)
    | ((with_reducible apply Kept.by (breachDie_keeps ..)); case hs => rfl)

theorem recalibrate_keeps (s : State) (a1 : Nat) : Kept [.power] s (recalibrate s a1) := by
  unfold recalibrate
  have h0 := Kept.refl [.power] s
  repeat' first
    | with_reducible assumption
    | (extract_lets +onlyGivenNames x; clear_value x)
    | with_reducible apply Kept.ite
    | ((with_reducible apply Kept.by (putDie_keeps ..)); case hs => rfl)

theorem readRail_keeps (s : State) (a1 : RailReading) : Kept [.dict, .ctl, .power] s (readRail s a1) := by
  unfold readRail
  have h0 := Kept.refl [.dict, .ctl, .power] s
  repeat' first
    | with_reducible assumption
    | (extract_lets +onlyGivenNames x; (refine Kept.cutAA x ?_ (fun hx => ?_)); subst x; rotate_left; clear_value x)
    | (extract_lets +onlyGivenNames x; clear_value x)
    | with_reducible apply Kept.ite
    | ((with_reducible apply Kept.by (setBlob_keeps ..)); case hs => rfl)
    | ((with_reducible apply Kept.by (putDie_keeps ..)); case hs => rfl)
    | ((with_reducible apply Kept.by (breachDie_keeps ..)); case hs => rfl)
    | ((with_reducible apply Kept.by (logFault_keeps ..)); case hs => rfl)
    | ((with_reducible refine Kept.upd ?_ (fun p hp => ?_)); rotate_left; (cases p <;> first | exact absurd (by decide) hp | rfl); with_reducible assumption)

theorem meanPower_keeps (s : State) : Kept [.dict, .power] s (meanPower s) := by
  unfold meanPower
  have h0 := Kept.refl [.dict, .power] s
  repeat' first
    | (extract_lets +onlyGivenNames x; clear_value x)
    | with_reducible apply Kept.ite
    | ((with_reducible apply Kept.by (setReg_keeps ..)); case hs => rfl)
    | ((with_reducible refine Kept.upd ?_ (fun p hp => ?_)); rotate_left; (cases p <;> first | exact absurd (by decide) hp | rfl); with_reducible assumption)

theorem currentUp_keeps (s : State) (a1 : Nat) : Kept [.power] s (currentUp s a1) := by
  unfold currentUp
  have h0 := Kept.refl [.power] s
  repeat' first
    | with_reducible assumption
    | (extract_lets +onlyGivenNames x; clear_value x)
    | with_reducible apply Kept.ite
    | ((with_reducible apply Kept.by (putDie_keeps ..)); case hs => rfl)

theorem runBroker_keeps (s : State) : Kept [.power] s (runBroker s) := by
  unfold runBroker
  have h0 := Kept.refl [.power] s
  repeat' first
    | with_reducible assumption
    | (extract_lets +onlyGivenNames x; clear_value x)
    | ((with_reducible apply Kept.by (putDie_keeps ..)); case hs => rfl)
    | (with_reducible apply Kept.foldl; (intro t a; have h1 := Kept.refl [.power] t))

theorem detectDroop_keeps (s : State) (a1 : Nat) : Kept [.dict, .power] s (detectDroop s a1) := by
  unfold detectDroop
  have h0 := Kept.refl [.dict, .power] s
  repeat' first
    | with_reducible assumption
    | (extract_lets +onlyGivenNames x; clear_value x)
    | with_reducible apply Kept.ite
    | ((with_reducible apply Kept.by (addReg_keeps ..)); case hs => rfl)
    | ((with_reducible refine Kept.upd ?_ (fun p hp => ?_)); rotate_left; (cases p <;> first | exact absurd (by decide) hp | rfl); with_reducible assumption)

theorem releaseDroop_keeps (s : State) (a1 : Nat) : Kept [.power] s (releaseDroop s a1) := by
  unfold releaseDroop
  have h0 := Kept.refl [.power] s
  repeat' first
    | with_reducible assumption
    | (extract_lets +onlyGivenNames x; clear_value x)
    | with_reducible apply Kept.ite
    | split
    | ((with_reducible refine Kept.upd ?_ (fun p hp => ?_)); rotate_left; (cases p <;> first | exact absurd (by decide) hp | rfl); with_reducible assumption)

theorem dieHeat_keeps (s : State) (a1 : Nat) (a2 : Int) : Kept [.dict, .power] s (dieHeat s a1 a2) := by
  unfold dieHeat
  have h0 := Kept.refl [.dict, .power] s
  repeat' first
    | with_reducible assumption
    | (extract_lets +onlyGivenNames x; (refine Kept.cutAA x ?_ (fun hx => ?_)); subst x; rotate_left; clear_value x)
    | (extract_lets +onlyGivenNames x; clear_value x)
    | with_reducible apply Kept.ite
    | ((with_reducible apply Kept.by (setBlob_keeps ..)); case hs => rfl)
    | ((with_reducible apply Kept.by (putDie_keeps ..)); case hs => rfl)
    | split
    | ((with_reducible refine Kept.upd ?_ (fun p hp => ?_)); rotate_left; (cases p <;> first | exact absurd (by decide) hp | rfl); with_reducible assumption)

theorem stackHeat_keeps (s : State) (a1 : Nat) (a2 : Int) : Kept [.dict, .power] s (stackHeat s a1 a2) := by
  unfold stackHeat
  have h0 := Kept.refl [.dict, .power] s
  repeat' first
    | with_reducible assumption
    | (extract_lets +onlyGivenNames x; (refine Kept.cutAA x ?_ (fun hx => ?_)); subst x; rotate_left; clear_value x)
    | (extract_lets +onlyGivenNames x; clear_value x)
    | with_reducible apply Kept.ite
    | ((with_reducible apply Kept.by (setBlob_keeps ..)); case hs => rfl)
    | ((with_reducible apply Kept.by (putDie_keeps ..)); case hs => rfl)
    | split
    | ((with_reducible refine Kept.upd ?_ (fun p hp => ?_)); rotate_left; (cases p <;> first | exact absurd (by decide) hp | rfl); with_reducible assumption)

theorem tripThermal_keeps (s : State) (a1 : Nat) : Kept [.ctl, .out] s (tripThermal s a1) := by
  unfold tripThermal
  have h0 := Kept.refl [.ctl, .out] s
  repeat' first
    | with_reducible assumption
    | (extract_lets +onlyGivenNames x; clear_value x)
    | with_reducible apply Kept.ite
    | ((with_reducible apply Kept.by (emit_keeps ..)); case hs => rfl)
    | ((with_reducible refine Kept.upd ?_ (fun p hp => ?_)); rotate_left; (cases p <;> first | exact absurd (by decide) hp | rfl); with_reducible assumption)

theorem warnRail_keeps (s : State) (a1 : Nat) (a2 : Nat) : Kept [.dict, .ctl, .power] s (warnRail s a1 a2) := by
  unfold warnRail
  have h0 := Kept.refl [.dict, .ctl, .power] s
  repeat' first
    | with_reducible assumption
    | (extract_lets +onlyGivenNames x; (refine Kept.cutAA x ?_ (fun hx => ?_)); subst x; rotate_left; clear_value x)
    | (extract_lets +onlyGivenNames x; clear_value x)
    | with_reducible apply Kept.ite
    | ((with_reducible apply Kept.by (logFault_keeps ..)); case hs => rfl)
    | ((with_reducible apply Kept.by (putDie_keeps ..)); case hs => rfl)
    | ((with_reducible refine Kept.upd ?_ (fun p hp => ?_)); rotate_left; (cases p <;> first | exact absurd (by decide) hp | rfl); with_reducible assumption)

theorem clearWarning_keeps (s : State) (a1 : Nat) : Kept [.power] s (clearWarning s a1) := by
  unfold clearWarning
  have h0 := Kept.refl [.power] s
  repeat' first
    | with_reducible assumption
    | (extract_lets +onlyGivenNames x; (refine Kept.cutAA x ?_ (fun hx => ?_)); subst x; rotate_left; clear_value x)
    | (extract_lets +onlyGivenNames x; clear_value x)
    | with_reducible apply Kept.ite
    | ((with_reducible apply Kept.by (putDie_keeps ..)); case hs => rfl)
    | split
    | ((with_reducible refine Kept.upd ?_ (fun p hp => ?_)); rotate_left; (cases p <;> first | exact absurd (by decide) hp | rfl); with_reducible assumption)

theorem loseRail_keeps (s : State) (a1 : Nat) : Kept [.dict, .ctl] s (loseRail s a1) := by
  unfold loseRail
  have h0 := Kept.refl [.dict, .ctl] s
  repeat' first
    | with_reducible assumption
    | (extract_lets +onlyGivenNames x; (refine Kept.cutAA x ?_ (fun hx => ?_)); subst x; rotate_left; clear_value x)
    | (extract_lets +onlyGivenNames x; clear_value x)
    | with_reducible apply Kept.ite
    | ((with_reducible apply Kept.by (logFault_keeps ..)); case hs => rfl)
    | ((with_reducible refine Kept.upd ?_ (fun p hp => ?_)); rotate_left; (cases p <;> first | exact absurd (by decide) hp | rfl); with_reducible assumption)

theorem endEpisode_keeps (s : State) (a1 : Nat) : Kept [.dict, .power] s (endEpisode s a1) := by
  unfold endEpisode
  have h0 := Kept.refl [.dict, .power] s
  repeat' first
    | with_reducible assumption
    | (extract_lets +onlyGivenNames x; clear_value x)
    | with_reducible apply Kept.ite
    | ((with_reducible apply Kept.by (setReg_keeps ..)); case hs => rfl)
    | split
    | ((with_reducible refine Kept.upd ?_ (fun p hp => ?_)); rotate_left; (cases p <;> first | exact absurd (by decide) hp | rfl); with_reducible assumption)

theorem takeCap_keeps (s : State) (a1 : Nat) : Kept [.dict, .ctl] s (takeCap s a1) := by
  unfold takeCap
  have h0 := Kept.refl [.dict, .ctl] s
  repeat' first
    | with_reducible assumption
    | (extract_lets +onlyGivenNames x; (refine Kept.cutAA x ?_ (fun hx => ?_)); subst x; rotate_left; clear_value x)
    | (extract_lets +onlyGivenNames x; clear_value x)
    | with_reducible apply Kept.ite
    | ((with_reducible apply Kept.by (setReg_keeps ..)); case hs => rfl)
    | ((with_reducible apply Kept.by (logFault_keeps ..)); case hs => rfl)

end Sys2Proof.Machine
end

