-- ==== Sys2Proof/Laws/KeepRounds.lean ====
section
/-! SUPPORT. Which parts of the state each operation of Machine/Rounds.lean may change. -/
namespace Sys2Proof.Machine
open Sys2Proof
seal findObj defaultOf getReg getBlob

theorem nextTick_keeps (s : State) : Kept [.clk] s (nextTick s) := by
  unfold nextTick
  have h0 := Kept.refl [.clk] s
  repeat' first
    | (extract_lets +onlyGivenNames x; clear_value x)
    | ((with_reducible refine Kept.upd ?_ (fun p hp => ?_)); rotate_left; (cases p <;> first | exact absurd (by decide) hp | rfl); with_reducible assumption)

theorem takeSettings_keeps (s : State) : Kept [.dict, .clk, .ctl] s (takeSettings s) := by
  unfold takeSettings
  have h0 := Kept.refl [.dict, .clk, .ctl] s
  repeat' first
    | with_reducible assumption
    | (extract_lets +onlyGivenNames x; (refine Kept.cutAA x ?_ (fun hx => ?_)); subst x; rotate_left; clear_value x)
    | (extract_lets +onlyGivenNames x; clear_value x)
    | with_reducible apply Kept.ite
    | ((with_reducible apply Kept.by (pruneOffers_keeps ..)); case hs => rfl)
    | ((with_reducible refine Kept.upd ?_ (fun p hp => ?_)); rotate_left; (cases p <;> first | exact absurd (by decide) hp | rfl); with_reducible assumption)

/-- The parts that `moveRole` may change. -/
def moveRoleParts : List Sys2Proof.Part :=
  .dict :: .mem :: .ctl :: .tiles :: .images :: .sync :: .syncWins :: .works :: .ctxs :: []

theorem moveRole_keeps (s : State) (a1 : Nat × Nat) : Kept moveRoleParts s (moveRole s a1) := by
  unfold moveRole
  have h0 := Kept.refl moveRoleParts s
  repeat' first
    | with_reducible assumption
    | (extract_lets +onlyGivenNames x; (refine Kept.cutAA x ?_ (fun hx => ?_)); subst x; rotate_left; clear_value x)
    | (extract_lets +onlyGivenNames x; clear_value x)
    | ((with_reducible apply Kept.by (logFault_keeps ..)); case hs => rfl)
    | ((with_reducible apply Kept.by (replayWorks_keeps ..)); case hs => rfl)
    | ((with_reducible refine Kept.upd ?_ (fun p hp => ?_)); rotate_left; (cases p <;> first | exact absurd (by decide) hp | rfl); with_reducible assumption)

theorem moveRoles_keeps (s : State) : Kept moveRoleParts s (moveRoles s) := by
  unfold moveRoles
  have h0 := Kept.refl moveRoleParts s
  repeat' first
    | with_reducible assumption
    | (extract_lets +onlyGivenNames x; clear_value x)
    | ((with_reducible apply Kept.by (moveRole_keeps ..)); case hs => rfl)
    | (with_reducible apply Kept.foldl; (intro t a; have h1 := Kept.refl moveRoleParts t))
    | ((with_reducible refine Kept.upd ?_ (fun p hp => ?_)); rotate_left; (cases p <;> first | exact absurd (by decide) hp | rfl); with_reducible assumption)

/-- The parts that `retireDue` may change. -/
def retireDueParts : List Sys2Proof.Part :=
  .dict :: .ctl :: .tiles :: .libero :: .lanes :: .works :: .ctxs :: .cores :: []

theorem retireDue_keeps (s : State) : Kept retireDueParts s (retireDue s) := by
  unfold retireDue
  have h0 := Kept.refl retireDueParts s
  repeat' first
    | with_reducible assumption
    | (extract_lets +onlyGivenNames x; clear_value x)
    | with_reducible apply Kept.ite
    | ((with_reducible apply Kept.by (retireTile_keeps ..)); case hs => rfl)
    | ((with_reducible apply Kept.by (retireLane_keeps ..)); case hs => rfl)
    | ((with_reducible apply Kept.by (retireUnit_keeps ..)); case hs => rfl)
    | (with_reducible apply Kept.foldl; (intro t a; have h1 := Kept.refl retireDueParts t))
    | ((with_reducible refine Kept.upd ?_ (fun p hp => ?_)); rotate_left; (cases p <;> first | exact absurd (by decide) hp | rfl); with_reducible assumption)

/-- The parts that `takeOver` may change. -/
def takeOverParts : List Sys2Proof.Part :=
  .dict :: .mem :: .ctl :: .tiles :: .libero :: .images :: .sync :: .syncWins :: .lanes :: .works :: .ctxs :: .cores :: []

theorem takeOver_keeps (s : State) : Kept takeOverParts s (takeOver s) := by
  unfold takeOver
  have h0 := Kept.refl takeOverParts s
  repeat' first
    | with_reducible assumption
    | (extract_lets +onlyGivenNames x; (refine Kept.cutAA x ?_ (fun hx => ?_)); subst x; rotate_left; clear_value x)
    | (extract_lets +onlyGivenNames x; clear_value x)
    | with_reducible apply Kept.ite
    | ((with_reducible apply Kept.by (replayWorks_keeps ..)); case hs => rfl)
    | ((with_reducible apply Kept.by (retireDue_keeps ..)); case hs => rfl)
    | ((with_reducible apply Kept.by (logFault_keeps ..)); case hs => rfl)
    | split
    | ((with_reducible refine Kept.upd ?_ (fun p hp => ?_)); rotate_left; (cases p <;> first | exact absurd (by decide) hp | rfl); with_reducible assumption)

theorem carryRound_keeps (s : State) : Kept [.dict, .works, .carried] s (carryRound s) := by
  unfold carryRound
  have h0 := Kept.refl [.dict, .works, .carried] s
  repeat' first
    | with_reducible assumption
    | (extract_lets +onlyGivenNames x; (refine Kept.cutAA x ?_ (fun hx => ?_)); subst x; rotate_left; clear_value x)
    | (extract_lets +onlyGivenNames x; clear_value x)
    | with_reducible apply Kept.ite
    | ((with_reducible apply Kept.by (addReg_keeps ..)); case hs => rfl)
    | ((with_reducible apply Kept.by (setReg_keeps ..)); case hs => rfl)
    | (with_reducible apply Kept.foldl; (intro t a; have h1 := Kept.refl [.dict, .works, .carried] t))
    | ((with_reducible refine Kept.upd ?_ (fun p hp => ?_)); rotate_left; (cases p <;> first | exact absurd (by decide) hp | rfl); with_reducible assumption)

theorem limitLag_keeps (s : State) (a1 : Nat) : Kept [.dict, .ctl] s (limitLag s a1) := by
  unfold limitLag
  have h0 := Kept.refl [.dict, .ctl] s
  repeat' first
    | with_reducible assumption
    | (extract_lets +onlyGivenNames x; clear_value x)
    | with_reducible apply Kept.ite
    | ((with_reducible apply Kept.by (logFault_keeps ..)); case hs => rfl)
    | ((with_reducible apply Kept.by (setReg_keeps ..)); case hs => rfl)

theorem releaseCharges_keeps (s : State) : Kept [.ctxs] s (releaseCharges s) := by
  unfold releaseCharges
  have h0 := Kept.refl [.ctxs] s
  repeat' first
    | (extract_lets +onlyGivenNames x; (have hf := fun y => x y); clear hf; subst x)
    | dsimp only
    | ((with_reducible refine Kept.upd ?_ (fun p hp => ?_)); rotate_left; (cases p <;> first | exact absurd (by decide) hp | rfl); with_reducible assumption)

theorem takeStop_keeps (s : State) (a1 : Nat) : Kept [.dict, .frames, .allocs, .ctxs, .fabric, .out] s (takeStop s a1) := by
  unfold takeStop
  have h0 := Kept.refl [.dict, .frames, .allocs, .ctxs, .fabric, .out] s
  repeat' first
    | with_reducible assumption
    | (extract_lets +onlyGivenNames x; (refine Kept.cutAA x ?_ (fun hx => ?_)); subst x; rotate_left; clear_value x)
    | (extract_lets +onlyGivenNames x; clear_value x)
    | with_reducible apply Kept.ite
    | ((with_reducible apply Kept.by (setCmdStatus_keeps ..)); case hs => rfl)
    | ((with_reducible apply Kept.by (settleStop_keeps ..)); case hs => rfl)
    | ((with_reducible apply Kept.by (setCtxState_keeps ..)); case hs => rfl)
    | ((with_reducible apply Kept.by (putCtx_keeps ..)); case hs => rfl)

theorem followStop_keeps (s : State) (a1 : Nat) : Kept issueFrameParts s (followStop s a1) := by
  unfold followStop
  have h0 := Kept.refl issueFrameParts s
  repeat' first
    | with_reducible assumption
    | (extract_lets +onlyGivenNames x; (refine Kept.cutAA x ?_ (fun hx => ?_)); subst x; rotate_left; clear_value x)
    | with_reducible apply Kept.ite
    | ((with_reducible apply Kept.by (issueCtx_keeps ..)); case hs => rfl)
    | ((with_reducible apply Kept.by (settleStop_keeps ..)); case hs => rfl)
    | ((with_reducible apply Kept.by (setCtxState_keeps ..)); case hs => rfl)

theorem takeStops_keeps (s : State) : Kept issueFrameParts s (takeStops s) := by
  unfold takeStops
  have h0 := Kept.refl issueFrameParts s
  repeat' first
    | with_reducible assumption
    | (extract_lets +onlyGivenNames x; (refine Kept.cutAA x ?_ (fun hx => ?_)); subst x; rotate_left; clear_value x)
    | (extract_lets +onlyGivenNames x; clear_value x)
    | ((with_reducible apply Kept.by (takeStop_keeps ..)); case hs => rfl)
    | ((with_reducible apply Kept.by (followStop_keeps ..)); case hs => rfl)
    | (with_reducible apply Kept.foldl; (intro t a; have h1 := Kept.refl issueFrameParts t))

theorem endRoundHold_keeps (s : State) : Kept [.frames] s (endRoundHold s) := by
  unfold endRoundHold
  have h0 := Kept.refl [.frames] s
  repeat' first
    | (extract_lets +onlyGivenNames x; (have hf := fun y => x y); clear hf; subst x)
    | ((with_reducible refine Kept.upd ?_ (fun p hp => ?_)); rotate_left; (cases p <;> first | exact absurd (by decide) hp | rfl); with_reducible assumption)

theorem tickOutputs_keeps (s : State) : Kept [.dict, .frames, .allocs, .flows, .media, .fabric, .out] s (tickOutputs s) := by
  unfold tickOutputs
  have h0 := Kept.refl [.dict, .frames, .allocs, .flows, .media, .fabric, .out] s
  repeat' first
    | with_reducible assumption
    | (extract_lets +onlyGivenNames x; (refine Kept.cutAA x ?_ (fun hx => ?_)); subst x; rotate_left; clear_value x)
    | (extract_lets +onlyGivenNames x; clear_value x)
    | ((with_reducible apply Kept.by (packFlow_keeps ..)); case hs => rfl)
    | ((with_reducible apply Kept.by (endRoundHold_keeps ..)); case hs => rfl)
    | ((with_reducible apply Kept.by (takeReceivers_keeps ..)); case hs => rfl)
    | ((with_reducible apply Kept.by (returnSpilled_keeps ..)); case hs => rfl)
    | ((with_reducible apply Kept.by (settleFrames_keeps ..)); case hs => rfl)
    | ((with_reducible apply Kept.by (breakCycles_keeps ..)); case hs => rfl)
    | (with_reducible apply Kept.foldl; (intro t a; have h1 := Kept.refl [.dict, .frames, .allocs, .flows, .media, .fabric, .out] t))

theorem jobIssued_keeps (s : State) (a1 : JobEntry) : Kept [.jobs, .fabric, .out] s (jobIssued s a1) := by
  unfold jobIssued
  have h0 := Kept.refl [.jobs, .fabric, .out] s
  repeat' first
    | with_reducible assumption
    | (extract_lets +onlyGivenNames x; (refine Kept.cutAA x ?_ (fun hx => ?_)); subst x; rotate_left; clear_value x)
    | with_reducible apply Kept.ite
    | ((with_reducible apply Kept.by (putJob_keeps ..)); case hs => rfl)
    | ((with_reducible apply Kept.by (setJobState_keeps ..)); case hs => rfl)

/-- The parts that `issueJobFrame` may change. -/
def issueJobFrameParts : List Sys2Proof.Part :=
  .mem :: .tiles :: .cache :: .windows :: .syncWins :: .works :: .jobs :: .allocs :: .fabric :: .out :: .free :: []

theorem issueJobFrame_keeps (s : State) (a1 : JobEntry) : KeptO issueJobFrameParts s (issueJobFrame s a1) := by
  unfold issueJobFrame
  have h0 := Kept.refl issueJobFrameParts s
  repeat' first
    | with_reducible assumption
    | (extract_lets +onlyGivenNames x; clear_value x)
    | with_reducible apply KeptO.none
    | (with_reducible apply KeptO.map; rotate_left; (intro t ht; skip))
    | ((with_reducible apply Kept.by (KeptO.elim (placeWindow_keeps ..) (by assumption))); case hs => rfl)
    | ((with_reducible apply Kept.by (jobIssued_keeps ..)); case hs => rfl)
    | ((with_reducible apply KeptO.by (bindWork_keeps ..)); case hs => rfl)
    | dsimp only
    | split

theorem stageInput_keeps {s : State} {j : JobRec} : ∀ p, stageInput s j = some p → Kept [.mem, .allocs, .free] s p.1 := by
  intro p h
  unfold stageInput at h
  split at h
  · injection h with h
    subst h
    exact Kept.refl _ _
  · split at h
    · cases h
    · obtain ⟨⟨b, t⟩, hr, rfl⟩ := Option.map_eq_some_iff.mp h
      have hk := reserve_keeps hr
      refine Kept.upd (Kept.by hk rfl (Kept.refl _ _)) fun p hp => ?_
      cases p <;> first | exact absurd (by decide) hp | rfl

/-- The parts that `issueSlice` may change. -/
def issueSliceParts : List Sys2Proof.Part :=
  .mem :: .tiles :: .syncWins :: .works :: .jobs :: .allocs :: .fabric :: .out :: .free :: []

theorem issueSlice_keeps (s : State) (a1 : JobEntry) : KeptO issueSliceParts s (issueSlice s a1) := by
  unfold issueSlice
  extract_lets i
  split
  · exact KeptO.none _ _
  · extract_lets w
    apply KeptO.ite
    · exact KeptO.some (Kept.by (jobIssued_keeps _ a1) rfl (Kept.by (addWork_keeps s w) rfl (Kept.refl _ _)))
    · refine KeptO.mapFst (fun p h => (stageInput_keeps p h).mono rfl) fun p h => ?_
      exact Kept.by (jobIssued_keeps _ a1) rfl (Kept.by (addWork_keeps p.1 _) rfl h)

theorem issuePart_keeps (s : State) (a1 : JobEntry) : KeptO issueJobFrameParts s (issuePart s a1) := by
  unfold issuePart
  have h0 := Kept.refl issueJobFrameParts s
  repeat' first
    | with_reducible assumption
    | with_reducible apply KeptO.ite
    | ((with_reducible apply KeptO.by (issueSlice_keeps ..)); case hs => rfl)
    | ((with_reducible apply KeptO.by (issueJobFrame_keeps ..)); case hs => rfl)

theorem cutJob_keeps (s : State) (a1 : JobEntry) : Kept [.dict, .mem, .ctl, .jobs, .fabric, .out] s (cutJob s a1) := by
  unfold cutJob
  have h0 := Kept.refl [.dict, .mem, .ctl, .jobs, .fabric, .out] s
  repeat' first
    | with_reducible assumption
    | (extract_lets +onlyGivenNames x; clear_value x)
    | with_reducible apply Kept.ite
    | ((with_reducible apply Kept.by (finishJob_keeps ..)); case hs => rfl)
    | ((with_reducible apply Kept.by (putJob_keeps ..)); case hs => rfl)

/-- The parts that `issueJob` may change. -/
def issueJobParts : List Sys2Proof.Part :=
  .dict :: .mem :: .ctl :: .tiles :: .cache :: .windows :: .syncWins :: .works :: .jobs :: .allocs :: .fabric :: .out ::
    .free :: []

theorem issueJob_keeps (a0 : Nat) (s : State) (a2 : Nat) (a3 : Nat) : KeptP issueJobParts s (issueJob a0 s a2 a3) := by
  induction a0 generalizing s a2 a3 with
  | zero =>
    unfold issueJob
    have h0 := Kept.refl issueJobParts s
    repeat' first
    | with_reducible exact KeptP.of (by assumption)
  | succ n ih =>
    unfold issueJob
    have h0 := Kept.refl issueJobParts s
    repeat' first
    | with_reducible apply Kept.trans _ (KeptP.fst (ih ..))
    | with_reducible assumption
    | ((with_reducible apply Kept.by (cutJob_keeps ..)); case hs => rfl)
    | ((with_reducible apply Kept.by (KeptO.elim (issuePart_keeps ..) (by assumption))); case hs => rfl)
    | with_reducible apply KeptP.mk
    | split

theorem issueClass_keeps (a0 : List JobEntry) (s : State) : Kept issueJobParts s (issueClass a0 s) := by
  induction a0 generalizing s with
  | nil =>
    unfold issueClass
    have h0 := Kept.refl issueJobParts s
    repeat' first
    | with_reducible assumption
  | cons d r ih =>
    unfold issueClass
    have h0 := Kept.refl issueJobParts s
    repeat' first
    | with_reducible apply Kept.trans _ (ih ..)
    | with_reducible assumption
    | ((with_reducible apply Kept.by (KeptP.elim (issueJob_keeps ..) (by assumption))); case hs => rfl)
    | split

theorem resumeOne_keeps (s : State) (a1 : Work) : Kept [.works] s (resumeOne s a1) := by
  unfold resumeOne
  have h0 := Kept.refl [.works] s
  repeat' first
    | with_reducible assumption
    | with_reducible apply Kept.ite
    | ((with_reducible apply Kept.by (putWork_keeps ..)); case hs => rfl)
    | dsimp only
    | split

theorem resumeBulk_keeps (a0 : List Work) (s : State) : Kept [.works] s (resumeBulk a0 s) := by
  induction a0 generalizing s with
  | nil =>
    unfold resumeBulk
    have h0 := Kept.refl [.works] s
    repeat' first
    | with_reducible assumption
  | cons d r ih =>
    unfold resumeBulk
    have h0 := Kept.refl [.works] s
    repeat' first
    | with_reducible apply Kept.trans _ (ih ..)
    | with_reducible assumption
    | ((with_reducible apply Kept.by (resumeOne_keeps ..)); case hs => rfl)

theorem issueJobs_keeps (s : State) : Kept issueJobParts s (issueJobs s) := by
  unfold issueJobs
  have h0 := Kept.refl issueJobParts s
  repeat' first
    | with_reducible assumption
    | (extract_lets +onlyGivenNames x; (refine Kept.cutAA x ?_ (fun hx => ?_)); subst x; rotate_left; clear_value x)
    | with_reducible apply Kept.ite
    | ((with_reducible apply Kept.by (issueClass_keeps ..)); case hs => rfl)
    | ((with_reducible apply Kept.by (resumeBulk_keeps ..)); case hs => rfl)
    | (with_reducible apply Kept.foldl; (intro t a; have h1 := Kept.refl issueJobParts t))

theorem countMissing_keeps (s : State) : Kept [.fabric] s (countMissing s) := by
  unfold countMissing
  have h0 := Kept.refl [.fabric] s
  repeat' first
    | (extract_lets +onlyGivenNames x; (have hf := fun y => x y); clear hf; subst x)
    | (extract_lets +onlyGivenNames x; clear_value x)
    | ((with_reducible refine Kept.upd ?_ (fun p hp => ?_)); rotate_left; (cases p <;> first | exact absurd (by decide) hp | rfl); with_reducible assumption)

theorem countGap_keeps (s : State) : Kept [.fabric] s (countGap s) := by
  unfold countGap
  have h0 := Kept.refl [.fabric] s
  repeat' first
    | (extract_lets +onlyGivenNames x; clear_value x)
    | split
    | ((with_reducible refine Kept.upd ?_ (fun p hp => ?_)); rotate_left; (cases p <;> first | exact absurd (by decide) hp | rfl); with_reducible assumption)

/-- The parts that `closeRound` may change. -/
def closeRoundParts : List Sys2Proof.Part :=
  .dict :: .mem :: .host :: .ctl :: .tiles :: .images :: .sync :: .syncWins :: .works :: .frames :: .allocs :: .ctxs ::
    .srings :: .flows :: .media :: .fabric :: .umpire :: .carried :: .out :: .free :: []

theorem closeRound_keeps (s : State) (a1 : Nat) : Kept closeRoundParts s (closeRound s a1) := by
  unfold closeRound
  have h0 := Kept.refl closeRoundParts s
  repeat' first
    | with_reducible assumption
    | (extract_lets +onlyGivenNames x; (refine Kept.cutAA x ?_ (fun hx => ?_)); subst x; rotate_left; clear_value x)
    | ((with_reducible apply Kept.by (carryRound_keeps ..)); case hs => rfl)
    | ((with_reducible apply Kept.by (moveRoles_keeps ..)); case hs => rfl)
    | ((with_reducible apply Kept.by (takeCap_keeps ..)); case hs => rfl)
    | ((with_reducible apply Kept.by (setReg_keeps ..)); case hs => rfl)
    | ((with_reducible apply Kept.by (takeStops_keeps ..)); case hs => rfl)
    | ((with_reducible apply Kept.by (releaseCharges_keeps ..)); case hs => rfl)
    | ((with_reducible apply Kept.by (haltMarked_keeps ..)); case hs => rfl)
    | ((with_reducible apply Kept.by (flushDecoder_keeps ..)); case hs => rfl)
    | ((with_reducible apply Kept.by (tickOutputs_keeps ..)); case hs => rfl)
    | ((with_reducible apply Kept.by (sendCards_keeps ..)); case hs => rfl)
    | (with_reducible apply Kept.foldl; (intro t a; have h1 := Kept.refl closeRoundParts t))

/-- The parts that `issueRound` may change. -/
def issueRoundParts : List Sys2Proof.Part :=
  .dict :: .mem :: .ctl :: .tiles :: .cache :: .windows :: .sync :: .syncWins :: .lanes :: .cdf :: .fns :: .pkgs ::
    .queue :: .works :: .jobs :: .frames :: .allocs :: .ctxs :: .media :: .fabric :: .out :: .free :: []

theorem issueRound_keeps (s : State) : Kept issueRoundParts s (issueRound s) := by
  unfold issueRound
  have h0 := Kept.refl issueRoundParts s
  repeat' first
    | with_reducible assumption
    | (extract_lets +onlyGivenNames x; (refine Kept.cutAA x ?_ (fun hx => ?_)); subst x; rotate_left; clear_value x)
    | (extract_lets +onlyGivenNames x; clear_value x)
    | ((with_reducible apply Kept.by (deliverAll_keeps ..)); case hs => rfl)
    | ((with_reducible apply Kept.by (issueJobs_keeps ..)); case hs => rfl)
    | ((with_reducible apply Kept.by (issueDue_keeps ..)); case hs => rfl)
    | ((with_reducible apply Kept.by (setReg_keeps ..)); case hs => rfl)
    | ((with_reducible apply Kept.by (releaseWindows_keeps ..)); case hs => rfl)
    | ((with_reducible apply Kept.by (finishUnload_keeps ..)); case hs => rfl)
    | ((with_reducible refine Kept.upd ?_ (fun p hp => ?_)); rotate_left; (cases p <;> first | exact absurd (by decide) hp | rfl); with_reducible assumption)

/-- The parts that `takeEffects` may change. -/
def takeEffectsParts : List Sys2Proof.Part :=
  .dict :: .ctl :: .cache :: .windows :: .lanes :: .cdf :: .fns :: .pkgs :: .queue :: .works :: .ctxs :: .media :: []

theorem takeEffects_keeps (s : State) : Kept takeEffectsParts s (takeEffects s) := by
  unfold takeEffects
  have h0 := Kept.refl takeEffectsParts s
  repeat' first
    | with_reducible assumption
    | ((with_reducible apply Kept.by (switchesAtTick_keeps ..)); case hs => rfl)
    | ((with_reducible apply Kept.by (filterAtTick_keeps ..)); case hs => rfl)
    | ((with_reducible apply Kept.by (tablesAtTick_keeps ..)); case hs => rfl)

/-- The parts that `runRound` may change. -/
def runRoundParts : List Sys2Proof.Part :=
  .dict :: .mem :: .host :: .ctl :: .tiles :: .images :: .cache :: .windows :: .sync :: .syncWins :: .lanes :: .cdf ::
    .fns :: .pkgs :: .queue :: .works :: .jobs :: .frames :: .allocs :: .ctxs :: .srings :: .flows :: .media :: .fabric ::
    .umpire :: .carried :: .out :: .free :: []

theorem runRound_keeps (s : State) (a1 : Nat) : Kept runRoundParts s (runRound s a1) := by
  unfold runRound
  have h0 := Kept.refl runRoundParts s
  repeat' first
    | with_reducible assumption
    | (extract_lets +onlyGivenNames x; (refine Kept.cutAA x ?_ (fun hx => ?_)); subst x; rotate_left; clear_value x)
    | with_reducible apply Kept.ite
    | ((with_reducible apply Kept.by (takeEffects_keeps ..)); case hs => rfl)
    | ((with_reducible apply Kept.by (closeRound_keeps ..)); case hs => rfl)
    | ((with_reducible apply Kept.by (issueRound_keeps ..)); case hs => rfl)
    | ((with_reducible apply Kept.by (countGap_keeps ..)); case hs => rfl)
    | ((with_reducible apply Kept.by (countMissing_keeps ..)); case hs => rfl)
    | ((with_reducible apply Kept.by (offerTick_keeps ..)); case hs => rfl)
    | ((with_reducible apply Kept.by (raiseVector_keeps ..)); case hs => rfl)

/-- The parts that `tickOver` may change. -/
def tickOverParts : List Sys2Proof.Part :=
  .dict :: .mem :: .host :: .clk :: .ctl :: .tiles :: .libero :: .images :: .cache :: .windows :: .sync :: .syncWins ::
    .lanes :: .cdf :: .fns :: .pkgs :: .queue :: .works :: .jobs :: .frames :: .allocs :: .ctxs :: .srings :: .flows ::
    .media :: .cores :: .fabric :: .umpire :: .power :: .carried :: .out :: .free :: []

theorem tickOver_keeps (s : State) : Kept tickOverParts s (tickOver s) := by
  unfold tickOver
  have h0 := Kept.refl tickOverParts s
  repeat' first
    | with_reducible assumption
    | (extract_lets +onlyGivenNames x; (refine Kept.cutAA x ?_ (fun hx => ?_)); subst x; rotate_left; clear_value x)
    | (extract_lets +onlyGivenNames x; clear_value x)
    | with_reducible apply Kept.ite
    | ((with_reducible apply Kept.by (selectSource_keeps ..)); case hs => rfl)
    | ((with_reducible apply Kept.by (slewTime_keeps ..)); case hs => rfl)
    | ((with_reducible apply Kept.by (takeSettings_keeps ..)); case hs => rfl)
    | ((with_reducible apply Kept.by (nextTick_keeps ..)); case hs => rfl)
    | ((with_reducible apply Kept.by (countReasons_keeps ..)); case hs => rfl)
    | ((with_reducible apply Kept.by (takeOver_keeps ..)); case hs => rfl)
    | ((with_reducible apply Kept.by (noteReasons_keeps ..)); case hs => rfl)
    | ((with_reducible apply Kept.by (runRound_keeps ..)); case hs => rfl)
    | ((with_reducible refine Kept.upd ?_ (fun p hp => ?_)); rotate_left; (cases p <;> first | exact absurd (by decide) hp | rfl); with_reducible assumption)

end Sys2Proof.Machine
end

