-- ==== Sys2Proof/Laws/KeepHost.lean ====
section
/-! SUPPORT. Which parts of the state each operation of Machine/Host.lean may change. -/
namespace Sys2Proof.Machine
open Sys2Proof
seal findObj defaultOf getReg getBlob

theorem takeReset_keeps (s : State) (a1 : Nat) : Kept [.dict, .ctl] s (takeReset s a1) := by
  unfold takeReset
  have h0 := Kept.refl [.dict, .ctl] s
  repeat' first
    | with_reducible assumption
    | (extract_lets +onlyGivenNames x; (refine Kept.cutAA x ?_ (fun hx => ?_)); subst x; rotate_left; clear_value x)
    | ((with_reducible apply Kept.by (setBlob_keeps ..)); case hs => rfl)
    | ((with_reducible apply Kept.by (setReg_keeps ..)); case hs => rfl)
    | ((with_reducible apply Kept.by (logFault_keeps ..)); case hs => rfl)

theorem mirrorJob_keeps (s : State) (a1 : JobEntry) : Kept [.fabric, .out] s (mirrorJob s a1) := by
  unfold mirrorJob
  have h0 := Kept.refl [.fabric, .out] s
  repeat' first
    | with_reducible assumption
    | (extract_lets +onlyGivenNames x; (refine Kept.cutAA x ?_ (fun hx => ?_)); subst x; rotate_left; clear_value x)
    | (extract_lets +onlyGivenNames x; clear_value x)
    | with_reducible apply Kept.ite
    | ((with_reducible apply Kept.by (toMirror_keeps ..)); case hs => rfl)

theorem takeJob_keeps (s : State) (a1 : Nat) : Kept [.dict, .mem, .ctl, .jobs, .rings, .fabric, .out] s (takeJob s a1) := by
  unfold takeJob
  have h0 := Kept.refl [.dict, .mem, .ctl, .jobs, .rings, .fabric, .out] s
  repeat' first
    | with_reducible assumption
    | (extract_lets +onlyGivenNames x; (refine Kept.cutAA x ?_ (fun hx => ?_)); subst x; rotate_left; clear_value x)
    | (extract_lets +onlyGivenNames x; clear_value x)
    | with_reducible apply Kept.ite
    | ((with_reducible apply Kept.by (setReg_keeps ..)); case hs => rfl)
    | ((with_reducible apply Kept.by (putRing_keeps ..)); case hs => rfl)
    | ((with_reducible apply Kept.by (finishJob_keeps ..)); case hs => rfl)
    | ((with_reducible apply Kept.by (mirrorJob_keeps ..)); case hs => rfl)
    | ((with_reducible refine Kept.upd ?_ (fun p hp => ?_)); rotate_left; (cases p <;> first | exact absurd (by decide) hp | rfl); with_reducible assumption)

theorem takeJobs_keeps (a0 : Nat) (s : State) (a2 : Nat) (a3 : Nat) : Kept [.dict, .mem, .ctl, .jobs, .rings, .fabric, .out] s (takeJobs a0 s a2 a3) := by
  induction a0 generalizing s a2 a3 with
  | zero =>
    unfold takeJobs
    have h0 := Kept.refl [.dict, .mem, .ctl, .jobs, .rings, .fabric, .out] s
    repeat' first
    | with_reducible assumption
  | succ n ih =>
    unfold takeJobs
    have h0 := Kept.refl [.dict, .mem, .ctl, .jobs, .rings, .fabric, .out] s
    repeat' first
    | with_reducible apply Kept.trans _ (ih ..)
    | with_reducible assumption
    | with_reducible apply Kept.ite
    | ((with_reducible apply Kept.by (takeJob_keeps ..)); case hs => rfl)

theorem freeJobs_keeps (s : State) (a1 : Nat) : Kept [.jobs] s (freeJobs s a1) := by
  unfold freeJobs
  have h0 := Kept.refl [.jobs] s
  repeat' first
    | (extract_lets +onlyGivenNames x; clear_value x)
    | ((with_reducible refine Kept.upd ?_ (fun p hp => ?_)); rotate_left; (cases p <;> first | exact absurd (by decide) hp | rfl); with_reducible assumption)

theorem showIndex_keeps (s : State) (a1 : Nat) : Kept [.host, .rings] s (showIndex s a1) := by
  unfold showIndex
  have h0 := Kept.refl [.host, .rings] s
  repeat' first
    | with_reducible assumption
    | (extract_lets +onlyGivenNames x; clear_value x)
    | with_reducible apply Kept.ite
    | ((with_reducible apply Kept.by (putRing_keeps ..)); case hs => rfl)
    | ((with_reducible apply Kept.by (hostWrite_keeps ..)); case hs => rfl)

/-- The parts that `passRing` may change. -/
def passRingParts : List Sys2Proof.Part :=
  .dict :: .mem :: .host :: .ctl :: .jobs :: .rings :: .fabric :: .out :: []

theorem passRing_keeps (a0 : List Nat) (s : State) (a2 : Nat) : Kept passRingParts s (passRing a0 s a2) := by
  unfold passRing
  have h0 := Kept.refl passRingParts s
  repeat' first
    | with_reducible assumption
    | (extract_lets +onlyGivenNames x; (refine Kept.cutAA x ?_ (fun hx => ?_)); subst x; rotate_left; clear_value x)
    | (extract_lets +onlyGivenNames x; clear_value x)
    | with_reducible apply Kept.ite
    | ((with_reducible apply Kept.by (logFault_keeps ..)); case hs => rfl)
    | ((with_reducible apply Kept.by (freeJobs_keeps ..)); case hs => rfl)
    | ((with_reducible apply Kept.by (putRing_keeps ..)); case hs => rfl)
    | ((with_reducible apply Kept.by (showIndex_keeps ..)); case hs => rfl)
    | ((with_reducible apply Kept.by (takeJobs_keeps ..)); case hs => rfl)

theorem takeSlot_keeps (s : State) (a1 : Nat) (a2 : Nat) : KeptO [.dict, .frames, .ctxs, .srings, .media, .fabric, .out] s (takeSlot s a1 a2) := by
  unfold takeSlot
  have h0 := Kept.refl [.dict, .frames, .ctxs, .srings, .media, .fabric, .out] s
  repeat' first
    | with_reducible assumption
    | (extract_lets +onlyGivenNames x; (refine Kept.cutCA x ?_ (fun hx => ?_)); subst x; rotate_left; clear_value x)
    | (extract_lets +onlyGivenNames x; clear_value x)
    | with_reducible apply KeptO.ite
    | with_reducible apply KeptO.some
    | with_reducible apply KeptO.none
    | ((with_reducible apply Kept.by (putSring_keeps ..)); case hs => rfl)
    | ((with_reducible apply Kept.by (addReg_keeps ..)); case hs => rfl)
    | ((with_reducible apply Kept.by (stopWaiting_keeps ..)); case hs => rfl)
    | ((with_reducible apply Kept.by (acceptInput_keeps ..)); case hs => rfl)

theorem takeSlots_keeps (a0 : Nat) (s : State) (a2 : Nat) (a3 : Nat) : Kept [.dict, .frames, .ctxs, .srings, .media, .fabric, .out] s (takeSlots a0 s a2 a3) := by
  induction a0 generalizing s a2 a3 with
  | zero =>
    unfold takeSlots
    have h0 := Kept.refl [.dict, .frames, .ctxs, .srings, .media, .fabric, .out] s
    repeat' first
    | with_reducible assumption
  | succ n ih =>
    unfold takeSlots
    have h0 := Kept.refl [.dict, .frames, .ctxs, .srings, .media, .fabric, .out] s
    repeat' first
    | with_reducible apply Kept.trans _ (ih ..)
    | with_reducible assumption
    | with_reducible apply Kept.ite
    | ((with_reducible apply Kept.by (KeptO.elim (takeSlot_keeps ..) (by assumption))); case hs => rfl)
    | ((with_reducible apply Kept.by (waitPool_keeps ..)); case hs => rfl)
    | split

/-- The parts that `passInput` may change. -/
def passInputParts : List Sys2Proof.Part :=
  .dict :: .host :: .ctl :: .frames :: .ctxs :: .srings :: .media :: .fabric :: .out :: []

theorem passInput_keeps (s : State) (a1 : Nat) (a2 : Nat) : Kept passInputParts s (passInput s a1 a2) := by
  unfold passInput
  have h0 := Kept.refl passInputParts s
  repeat' first
    | with_reducible assumption
    | (extract_lets +onlyGivenNames x; (refine Kept.cutAA x ?_ (fun hx => ?_)); subst x; rotate_left; clear_value x)
    | (extract_lets +onlyGivenNames x; clear_value x)
    | with_reducible apply Kept.ite
    | ((with_reducible apply Kept.by (takeSlots_keeps ..)); case hs => rfl)
    | ((with_reducible apply Kept.by (raiseVector_keeps ..)); case hs => rfl)
    | ((with_reducible apply Kept.by (hostWrite_keeps ..)); case hs => rfl)

theorem passOutput_keeps (s : State) (a1 : Nat) : Kept [.frames, .allocs, .srings, .flows, .fabric, .out] s (passOutput s a1) := by
  unfold passOutput
  have h0 := Kept.refl [.frames, .allocs, .srings, .flows, .fabric, .out] s
  repeat' first
    | with_reducible assumption
    | (extract_lets +onlyGivenNames x; (refine Kept.cutAA x ?_ (fun hx => ?_)); subst x; rotate_left; clear_value x)
    | (extract_lets +onlyGivenNames x; clear_value x)
    | ((with_reducible apply Kept.by (putSring_keeps ..)); case hs => rfl)
    | ((with_reducible apply Kept.by (ackHeld_keeps ..)); case hs => rfl)
    | (with_reducible apply Kept.foldl; (intro t a; have h1 := Kept.refl [.frames, .allocs, .srings, .flows, .fabric, .out] t))

/-- The parts that `passSring` may change. -/
def passSringParts : List Sys2Proof.Part :=
  .dict :: .host :: .ctl :: .frames :: .allocs :: .ctxs :: .srings :: .flows :: .media :: .fabric :: .out :: []

theorem passSring_keeps (a0 : List Nat) (s : State) (a2 : Nat) : Kept passSringParts s (passSring a0 s a2) := by
  unfold passSring
  have h0 := Kept.refl passSringParts s
  repeat' first
    | with_reducible assumption
    | with_reducible apply Kept.ite
    | ((with_reducible apply Kept.by (logFault_keeps ..)); case hs => rfl)
    | ((with_reducible apply Kept.by (passOutput_keeps ..)); case hs => rfl)
    | ((with_reducible apply Kept.by (passInput_keeps ..)); case hs => rfl)
    | split

theorem sendVectors_keeps (s : State) : Kept [.ctl, .out] s (sendVectors s) := by
  unfold sendVectors
  have h0 := Kept.refl [.ctl, .out] s
  repeat' first
    | (extract_lets +onlyGivenNames x; clear_value x)
    | ((with_reducible refine Kept.upd ?_ (fun p hp => ?_)); rotate_left; (cases p <;> first | exact absurd (by decide) hp | rfl); with_reducible assumption)

/-- The parts that `servicePass` may change. -/
def servicePassParts : List Sys2Proof.Part :=
  .dict :: .mem :: .host :: .ctl :: .jobs :: .frames :: .allocs :: .ctxs :: .rings :: .srings :: .flows :: .media ::
    .fabric :: .out :: []

theorem servicePass_keeps (s : State) (a1 : List Nat) : Kept servicePassParts s (servicePass s a1) := by
  unfold servicePass
  have h0 := Kept.refl servicePassParts s
  repeat' first
    | with_reducible assumption
    | (extract_lets +onlyGivenNames x; (refine Kept.cutAA x ?_ (fun hx => ?_)); subst x; rotate_left; clear_value x)
    | with_reducible apply Kept.ite
    | ((with_reducible apply Kept.by (sendVectors_keeps ..)); case hs => rfl)
    | ((with_reducible apply Kept.by (passRing_keeps ..)); case hs => rfl)
    | ((with_reducible apply Kept.by (passSring_keeps ..)); case hs => rfl)
    | ((with_reducible apply Kept.by (postReports_keeps ..)); case hs => rfl)
    | ((with_reducible apply Kept.by (deliverFlow_keeps ..)); case hs => rfl)
    | (with_reducible apply Kept.foldl; (intro t a; have h1 := Kept.refl servicePassParts t))

theorem hostWrites_keeps (s : State) (a1 : List (Nat × Byte)) : Kept [.host] s (hostWrites s a1) := by
  unfold hostWrites
  have h0 := Kept.refl [.host] s
  repeat' first
    | ((with_reducible refine Kept.upd ?_ (fun p hp => ?_)); rotate_left; (cases p <;> first | exact absurd (by decide) hp | rfl); with_reducible assumption)

theorem writeBar2_keeps (s : State) (a1 : Nat) (a2 : List Byte) : Kept [.dict, .mem, .ctl] s (writeBar2 s a1 a2) := by
  unfold writeBar2
  have h0 := Kept.refl [.dict, .mem, .ctl] s
  repeat' first
    | with_reducible assumption
    | (extract_lets +onlyGivenNames x; (refine Kept.cutAA x ?_ (fun hx => ?_)); subst x; rotate_left; clear_value x)
    | (extract_lets +onlyGivenNames x; clear_value x)
    | ((with_reducible apply Kept.by (logFault_keeps ..)); case hs => rfl)
    | split
    | ((with_reducible refine Kept.upd ?_ (fun p hp => ?_)); rotate_left; (cases p <;> first | exact absurd (by decide) hp | rfl); with_reducible assumption)

theorem hotReset_keeps (s : State) : Kept [.dict, .ctl] s (hotReset s) := by
  unfold hotReset
  have h0 := Kept.refl [.dict, .ctl] s
  repeat' first
    | (extract_lets +onlyGivenNames x; clear_value x)
    | ((with_reducible apply Kept.by (takeReset_keeps ..)); case hs => rfl)
    | ((with_reducible refine Kept.upd ?_ (fun p hp => ?_)); rotate_left; (cases p <;> first | exact absurd (by decide) hp | rfl); with_reducible assumption)

theorem dropJobWorks_keeps (s : State) (a1 : JobEntry) : Kept [.tiles, .images, .syncWins, .works, .allocs] s (dropJobWorks s a1) := by
  unfold dropJobWorks
  have h0 := Kept.refl [.tiles, .images, .syncWins, .works, .allocs] s
  repeat' first
    | with_reducible assumption
    | (extract_lets +onlyGivenNames x; (refine Kept.cutAA x ?_ (fun hx => ?_)); subst x; rotate_left; clear_value x)
    | (extract_lets +onlyGivenNames x; (have hf := fun y => x y); clear hf; subst x)
    | ((with_reducible apply Kept.by (releaseRange_keeps ..)); case hs => rfl)
    | ((with_reducible apply Kept.by (dropWork_keeps ..)); case hs => rfl)
    | (with_reducible apply Kept.foldl; (intro t a; have h1 := Kept.refl [.tiles, .images, .syncWins, .works, .allocs] t))
    | split
    | ((with_reducible refine Kept.upd ?_ (fun p hp => ?_)); rotate_left; (cases p <;> first | exact absurd (by decide) hp | rfl); with_reducible assumption)

/-- The parts that `dmaError` may change. -/
def dmaErrorParts : List Sys2Proof.Part :=
  .dict :: .mem :: .ctl :: .tiles :: .images :: .syncWins :: .works :: .jobs :: .allocs :: .fabric :: .out :: []

theorem dmaError_keeps (s : State) (a1 : WorkId) : Kept dmaErrorParts s (dmaError s a1) := by
  unfold dmaError
  have h0 := Kept.refl dmaErrorParts s
  repeat' first
    | with_reducible assumption
    | with_reducible apply Kept.ite
    | ((with_reducible apply Kept.by (finishJob_keeps ..)); case hs => rfl)
    | ((with_reducible apply Kept.by (dropJobWorks_keeps ..)); case hs => rfl)
    | dsimp only
    | split

theorem heartbeat_keeps (s : State) (a1 : Bool) : Kept [.ctl] s (heartbeat s a1) := by
  unfold heartbeat
  have h0 := Kept.refl [.ctl] s
  repeat' first
    | with_reducible assumption
    | (extract_lets +onlyGivenNames x; clear_value x)
    | with_reducible apply Kept.ite
    | split
    | ((with_reducible refine Kept.upd ?_ (fun p hp => ?_)); rotate_left; (cases p <;> first | exact absurd (by decide) hp | rfl); with_reducible assumption)

theorem startTakeover_keeps (s : State) : Kept [.ctl] s (startTakeover s) := by
  unfold startTakeover
  have h0 := Kept.refl [.ctl] s
  repeat' first
    | with_reducible assumption
    | (extract_lets +onlyGivenNames x; clear_value x)
    | with_reducible apply Kept.ite
    | split
    | ((with_reducible refine Kept.upd ?_ (fun p hp => ?_)); rotate_left; (cases p <;> first | exact absurd (by decide) hp | rfl); with_reducible assumption)

theorem failCore_keeps (s : State) (a1 : Nat) (a2 : Nat) : Kept [.ctl] s (failCore s a1 a2) := by
  unfold failCore
  have h0 := Kept.refl [.ctl] s
  repeat' first
    | with_reducible assumption
    | (extract_lets +onlyGivenNames x; (refine Kept.cutAA x ?_ (fun hx => ?_)); subst x; rotate_left; clear_value x)
    | (extract_lets +onlyGivenNames x; clear_value x)
    | with_reducible apply Kept.ite
    | (with_reducible apply Kept.foldl; (intro t a; have h1 := Kept.refl [.ctl] t))
    | dsimp only
    | split
    | ((with_reducible refine Kept.upd ?_ (fun p hp => ?_)); rotate_left; (cases p <;> first | exact absurd (by decide) hp | rfl); with_reducible assumption)

end Sys2Proof.Machine
end

