-- ==== Sys2Proof/Laws/KeepSpan.lean ====
section
/-! SUPPORT. Which parts of the state each operation of Machine/Span.lean may change. -/
namespace Sys2Proof.Machine
open Sys2Proof
seal findObj defaultOf getReg getBlob

theorem endCollective_keeps (s : State) (a1 : Work) (a2 : CollRec) (a3 : Nat) (a4 : List Byte × Nat) (a5 : Nat) : Kept [.mem, .sync, .works] s (endCollective s a1 a2 a3 a4 a5) := by
  unfold endCollective
  have h0 := Kept.refl [.mem, .sync, .works] s
  repeat' first
    | with_reducible assumption
    | (extract_lets +onlyGivenNames x; (refine Kept.cutAA x ?_ (fun hx => ?_)); subst x; rotate_left; clear_value x)
    | (extract_lets +onlyGivenNames x; clear_value x)
    | with_reducible apply Kept.ite
    | ((with_reducible apply Kept.by (putWork_keeps ..)); case hs => rfl)
    | ((with_reducible apply Kept.by (deliver_keeps ..)); case hs => rfl)
    | ((with_reducible refine Kept.upd ?_ (fun p hp => ?_)); rotate_left; (cases p <;> first | exact absurd (by decide) hp | rfl); with_reducible assumption)

theorem sendCollective_keeps (s : State) (a1 : WorkId) (a2 : CollRec) (a3 : List Byte) (a4 : List (List Byte)) (a5 : List Byte) : Kept [.out] s (sendCollective s a1 a2 a3 a4 a5) := by
  unfold sendCollective
  have h0 := Kept.refl [.out] s
  repeat' first
    | with_reducible assumption
    | with_reducible apply Kept.ite
    | ((with_reducible apply Kept.by (emit_keeps ..)); case hs => rfl)
    | (with_reducible apply Kept.foldl; (intro t a; have h1 := Kept.refl [.out] t))
    | dsimp only
    | split

theorem noteGroupWait_keeps (s : State) (a1 : Nat) (a2 : List Nat) (a3 : List (Nat × Nat)) : Kept [.dict, .ctl] s (noteGroupWait s a1 a2 a3) := by
  unfold noteGroupWait
  have h0 := Kept.refl [.dict, .ctl] s
  repeat' first
    | with_reducible assumption
    | (extract_lets +onlyGivenNames x; (refine Kept.cutAA x ?_ (fun hx => ?_)); subst x; rotate_left; clear_value x)
    | (extract_lets +onlyGivenNames x; clear_value x)
    | with_reducible apply Kept.ite
    | ((with_reducible apply Kept.by (setBlob_keeps ..)); case hs => rfl)
    | ((with_reducible apply Kept.by (addReg_keeps ..)); case hs => rfl)
    | ((with_reducible apply Kept.by (logFault_keeps ..)); case hs => rfl)

theorem noteCollWait_keeps (s : State) (a1 : WorkId) (a2 : List (Nat × Nat)) : Kept [.dict, .ctl] s (noteCollWait s a1 a2) := by
  unfold noteCollWait
  split
  · exact Kept.refl _ _
  · split
    · exact noteGroupWait_keeps _ _ _ _
    · exact Kept.refl _ _

theorem runCollective_keeps (s : State) (a1 : WorkId) (a2 : Nat) (a3 : Nat) (a4 : Entered) : Kept [.dict, .mem, .ctl, .sync, .works, .fabric, .out] s (runCollective s a1 a2 a3 a4) := by
  unfold runCollective
  have h0 := Kept.refl [.dict, .mem, .ctl, .sync, .works, .fabric, .out] s
  repeat' first
    | with_reducible assumption
    | with_reducible apply Kept.ite
    | ((with_reducible apply Kept.by (endCollective_keeps ..)); case hs => rfl)
    | dsimp only
    | split
    | ((with_reducible refine Kept.upd ?_ (fun p hp => ?_)); rotate_left; (cases p <;> first | exact absurd (by decide) hp | rfl); ((with_reducible apply Kept.by (sendCollective_keeps ..)); case hs => rfl); ((with_reducible apply Kept.by (noteCollWait_keeps ..)); case hs => rfl))

theorem passBarrier_keeps (s : State) (a1 : Nat) (a2 : Nat) (a3 : List (Nat × Nat)) : Kept [.dict, .ctl, .fabric] s (passBarrier s a1 a2 a3) := by
  unfold passBarrier
  have h0 := Kept.refl [.dict, .ctl, .fabric] s
  repeat' first
    | with_reducible assumption
    | with_reducible apply Kept.ite
    | dsimp only
    | split
    | ((with_reducible refine Kept.upd ?_ (fun p hp => ?_)); rotate_left; (cases p <;> first | exact absurd (by decide) hp | rfl); ((with_reducible apply Kept.by (noteGroupWait_keeps ..)); case hs => rfl))

theorem takeBlob_keeps (s : State) (a1 : Nat) (a2 : Nat) (a3 : List Byte) (a4 : Nat) : Kept [.fabric] s (takeBlob s a1 a2 a3 a4) := by
  unfold takeBlob
  have h0 := Kept.refl [.fabric] s
  repeat' first
    | with_reducible assumption
    | (extract_lets +onlyGivenNames x; clear_value x)
    | with_reducible apply Kept.ite
    | ((with_reducible refine Kept.upd ?_ (fun p hp => ?_)); rotate_left; (cases p <;> first | exact absurd (by decide) hp | rfl); with_reducible assumption)

theorem losePeer_keeps (s : State) (a1 : Nat) : Kept comparedOkParts s (losePeer s a1) := by
  unfold losePeer
  have h0 := Kept.refl comparedOkParts s
  repeat' first
    | with_reducible assumption
    | (extract_lets +onlyGivenNames x; (refine Kept.cutAA x ?_ (fun hx => ?_)); subst x; rotate_left; clear_value x)
    | (extract_lets +onlyGivenNames x; clear_value x)
    | with_reducible apply Kept.ite
    | ((with_reducible apply Kept.by (losePartner_keeps ..)); case hs => rfl)
    | ((with_reducible apply Kept.by (logFault_keeps ..)); case hs => rfl)
    | ((with_reducible apply Kept.by (addReg_keeps ..)); case hs => rfl)
    | split
    | ((with_reducible refine Kept.upd ?_ (fun p hp => ?_)); rotate_left; (cases p <;> first | exact absurd (by decide) hp | rfl); with_reducible assumption)

theorem regainPeer_keeps (s : State) (a1 : Nat) : Kept [.dict, .ctl, .fabric, .out] s (regainPeer s a1) := by
  unfold regainPeer
  have h0 := Kept.refl [.dict, .ctl, .fabric, .out] s
  repeat' first
    | with_reducible assumption
    | (extract_lets +onlyGivenNames x; (refine Kept.cutAA x ?_ (fun hx => ?_)); subst x; rotate_left; clear_value x)
    | (extract_lets +onlyGivenNames x; clear_value x)
    | with_reducible apply Kept.ite
    | ((with_reducible apply Kept.by (logFault_keeps ..)); case hs => rfl)
    | ((with_reducible apply Kept.by (startMirror_keeps ..)); case hs => rfl)
    | ((with_reducible refine Kept.upd ?_ (fun p hp => ?_)); rotate_left; (cases p <;> first | exact absurd (by decide) hp | rfl); with_reducible assumption)

theorem takePeerOutput_keeps (s : State) (a1 : Nat) (a2 : Nat) (a3 : Nat) (a4 : Nat) (a5 : List Byte) : Kept [.dict, .frames, .ctxs, .media, .fabric, .out] s (takePeerOutput s a1 a2 a3 a4 a5) := by
  unfold takePeerOutput
  have h0 := Kept.refl [.dict, .frames, .ctxs, .media, .fabric, .out] s
  repeat' first
    | with_reducible assumption
    | (extract_lets +onlyGivenNames x; (refine Kept.cutAA x ?_ (fun hx => ?_)); subst x; rotate_left; clear_value x)
    | (extract_lets +onlyGivenNames x; clear_value x)
    | with_reducible apply Kept.ite
    | ((with_reducible apply Kept.by (addReg_keeps ..)); case hs => rfl)
    | ((with_reducible apply Kept.by (ackTo_keeps ..)); case hs => rfl)
    | ((with_reducible apply Kept.by (waitPool_keeps ..)); case hs => rfl)
    | ((with_reducible apply Kept.by (stopWaiting_keeps ..)); case hs => rfl)
    | ((with_reducible apply Kept.by (acceptInput_keeps ..)); case hs => rfl)
    | ((with_reducible apply Kept.by (putCtx_keeps ..)); case hs => rfl)

end Sys2Proof.Machine
end

