-- ==== Sys2Proof/Laws/KeepStart.lean ====
section
/-! SUPPORT. Which parts of the state each operation of Machine/Start.lean may change. -/
namespace Sys2Proof.Machine
open Sys2Proof
seal findObj defaultOf getReg getBlob

theorem noteReverted_keeps (s : State) (a1 : Bool) : Kept [.ctl] s (noteReverted s a1) := by
  unfold noteReverted
  have h0 := Kept.refl [.ctl] s
  repeat' first
    | (extract_lets +onlyGivenNames x; clear_value x)
    | ((with_reducible refine Kept.upd ?_ (fun p hp => ?_)); rotate_left; (cases p <;> first | exact absurd (by decide) hp | rfl); with_reducible assumption)

theorem restartClock_keeps (s : State) (a1 : Nat) : Kept [.clk] s (restartClock s a1) := by
  unfold restartClock
  have h0 := Kept.refl [.clk] s
  repeat' first
    | ((with_reducible refine Kept.upd ?_ (fun p hp => ?_)); rotate_left; (cases p <;> first | exact absurd (by decide) hp | rfl); with_reducible assumption)

/-- The parts that `loseAll` may change. -/
def loseAllParts : List Sys2Proof.Part :=
  .dict :: .mem :: .clk :: .ctl :: .tiles :: .flags :: .images :: .cache :: .windows :: .sync :: .syncWins :: .lanes ::
    .cdf :: .fns :: .pkgs :: .queue :: .works :: .jobs :: .frames :: .allocs :: .ctxs :: .rings :: .srings :: .flows ::
    .media :: .cores :: .fabric :: .umpire :: .power :: .protect :: .carried :: .traceAt :: []

theorem loseAll_keeps (s : State) : Kept loseAllParts s (loseAll s) := by
  unfold loseAll
  have h0 := Kept.refl loseAllParts s
  repeat' first
    | with_reducible assumption
    | (extract_lets +onlyGivenNames x; (refine Kept.cutAA x ?_ (fun hx => ?_)); subst x; rotate_left; clear_value x)
    | (extract_lets +onlyGivenNames x; clear_value x)
    | ((with_reducible apply Kept.by (noteReverted_keeps ..)); case hs => rfl)
    | ((with_reducible apply Kept.by (restartClock_keeps ..)); case hs => rfl)
    | ((with_reducible refine Kept.upd ?_ (fun p hp => ?_)); rotate_left; (cases p <;> first | exact absurd (by decide) hp | rfl); with_reducible assumption)

theorem powerUp_keeps (s : State) (a1 : Bool) : Kept loseAllParts s (powerUp s a1) := by
  unfold powerUp
  have h0 := Kept.refl loseAllParts s
  repeat' first
    | with_reducible assumption
    | (extract_lets +onlyGivenNames x; (refine Kept.cutAA x ?_ (fun hx => ?_)); subst x; rotate_left; clear_value x)
    | (extract_lets +onlyGivenNames x; clear_value x)
    | with_reducible apply Kept.ite
    | ((with_reducible apply Kept.by (loseAll_keeps ..)); case hs => rfl)
    | ((with_reducible refine Kept.upd ?_ (fun p hp => ?_)); rotate_left; (cases p <;> first | exact absurd (by decide) hp | rfl); with_reducible assumption)

theorem abandonStart_keeps (s : State) : Kept [.dict, .ctl] s (abandonStart s) := by
  unfold abandonStart
  have h0 := Kept.refl [.dict, .ctl] s
  repeat' first
    | with_reducible assumption
    | (extract_lets +onlyGivenNames x; (have hf := fun y => x y); clear hf; subst x)
    | (extract_lets +onlyGivenNames x; clear_value x)
    | ((with_reducible apply Kept.by (addJournal_keeps ..)); case hs => rfl)
    | (with_reducible apply Kept.foldl; (intro t a; have h1 := Kept.refl [.dict, .ctl] t))

theorem assertPerst_keeps (s : State) : Kept [.dict, .ctl] s (assertPerst s) := by
  unfold assertPerst
  have h0 := Kept.refl [.dict, .ctl] s
  repeat' first
    | with_reducible assumption
    | (extract_lets +onlyGivenNames x; (refine Kept.cutAA x ?_ (fun hx => ?_)); subst x; rotate_left; clear_value x)
    | (extract_lets +onlyGivenNames x; clear_value x)
    | with_reducible apply Kept.ite
    | ((with_reducible apply Kept.by (abandonStart_keeps ..)); case hs => rfl)
    | split
    | ((with_reducible refine Kept.upd ?_ (fun p hp => ?_)); rotate_left; (cases p <;> first | exact absurd (by decide) hp | rfl); with_reducible assumption)

theorem undoSlot_keeps (s : State) (a1 : Nat) : Kept [.dict, .fns, .pkgs, .allocs, .fabric, .out] s (undoSlot s a1) := by
  unfold undoSlot
  have h0 := Kept.refl [.dict, .fns, .pkgs, .allocs, .fabric, .out] s
  repeat' first
    | with_reducible assumption
    | (extract_lets +onlyGivenNames x; (refine Kept.cutAA x ?_ (fun hx => ?_)); subst x; rotate_left; clear_value x)
    | (extract_lets +onlyGivenNames x; (have hf := fun y => x y); clear hf; subst x)
    | (extract_lets +onlyGivenNames x; clear_value x)
    | with_reducible apply Kept.ite
    | ((with_reducible apply Kept.by (releaseRange_keeps ..)); case hs => rfl)
    | ((with_reducible apply Kept.by (setSlotStatus_keeps ..)); case hs => rfl)
    | ((with_reducible apply Kept.by (setSlotState_keeps ..)); case hs => rfl)
    | ((with_reducible apply Kept.by (showPackage_keeps ..)); case hs => rfl)
    | dsimp only
    | split
    | ((with_reducible refine Kept.upd ?_ (fun p hp => ?_)); rotate_left; (cases p <;> first | exact absurd (by decide) hp | rfl); with_reducible assumption)

theorem settleFn_keeps (s : State) (a1 : Nat) : Kept [.dict, .fns, .works] s (settleFn s a1) := by
  unfold settleFn
  have h0 := Kept.refl [.dict, .fns, .works] s
  repeat' first
    | with_reducible assumption
    | (extract_lets +onlyGivenNames x; clear_value x)
    | with_reducible apply Kept.ite
    | ((with_reducible apply Kept.by (switchFunction_keeps ..)); case hs => rfl)
    | ((with_reducible apply Kept.by (putFnSlot_keeps ..)); case hs => rfl)

theorem rebuildBanks_keeps (s : State) : Kept [.cdf, .works] s (rebuildBanks s) := by
  unfold rebuildBanks
  have h0 := Kept.refl [.cdf, .works] s
  repeat' first
    | (extract_lets +onlyGivenNames x; clear_value x)
    | split
    | ((with_reducible refine Kept.upd ?_ (fun p hp => ?_)); rotate_left; (cases p <;> first | exact absurd (by decide) hp | rfl); with_reducible assumption)

/-- The parts that `abandonCommands` may change. -/
def abandonCommandsParts : List Sys2Proof.Part :=
  .dict :: .cdf :: .fns :: .pkgs :: .queue :: .works :: .allocs :: .media :: .fabric :: .out :: []

theorem abandonCommands_keeps (a0 : State) (s : State) : Kept abandonCommandsParts s (abandonCommands a0 s) := by
  unfold abandonCommands
  have h0 := Kept.refl abandonCommandsParts s
  repeat' first
    | with_reducible assumption
    | (extract_lets +onlyGivenNames x; (refine Kept.cutAA x ?_ (fun hx => ?_)); subst x; rotate_left; clear_value x)
    | (extract_lets +onlyGivenNames x; (have hf := fun y => x y); clear hf; subst x)
    | (extract_lets +onlyGivenNames x; clear_value x)
    | with_reducible apply Kept.ite
    | ((with_reducible apply Kept.by (undoSlot_keeps ..)); case hs => rfl)
    | ((with_reducible apply Kept.by (rebuildBanks_keeps ..)); case hs => rfl)
    | ((with_reducible apply Kept.by (setReg_keeps ..)); case hs => rfl)
    | ((with_reducible apply Kept.by (settleFn_keeps ..)); case hs => rfl)
    | (with_reducible apply Kept.foldl; (intro t a; have h1 := Kept.refl abandonCommandsParts t))
    | ((with_reducible refine Kept.upd ?_ (fun p hp => ?_)); rotate_left; (cases p <;> first | exact absurd (by decide) hp | rfl); with_reducible assumption)

theorem resumeCtxs_keeps (a0 : State) (s : State) : Kept [.dict, .flows] s (resumeCtxs a0 s) := by
  unfold resumeCtxs
  have h0 := Kept.refl [.dict, .flows] s
  repeat' first
    | with_reducible assumption
    | (extract_lets +onlyGivenNames x; (refine Kept.cutAA x ?_ (fun hx => ?_)); subst x; rotate_left; clear_value x)
    | (extract_lets +onlyGivenNames x; (have hf := fun y => x y); clear hf; subst x)
    | ((with_reducible apply Kept.by (ownFlows_keeps ..)); case hs => rfl)
    | ((with_reducible apply Kept.by (setReg_keeps ..)); case hs => rfl)
    | (with_reducible apply Kept.foldl; (intro t a; have h1 := Kept.refl [.dict, .flows] t))
    | dsimp only
    | ((with_reducible refine Kept.upd ?_ (fun p hp => ?_)); rotate_left; (cases p <;> first | exact absurd (by decide) hp | rfl); with_reducible assumption)

theorem resumeCopies_keeps (a0 : State) (s : State) : Kept [.dict] s (resumeCopies a0 s) := by
  unfold resumeCopies
  have h0 := Kept.refl [.dict] s
  repeat' first
    | with_reducible assumption
    | (extract_lets +onlyGivenNames x; (refine Kept.cutAA x ?_ (fun hx => ?_)); subst x; rotate_left; clear_value x)
    | with_reducible apply Kept.ite
    | ((with_reducible apply Kept.by (setReg_keeps ..)); case hs => rfl)

/-- The parts that `loseVolatile` may change. -/
def loseVolatileParts : List Sys2Proof.Part :=
  .dict :: .clk :: .ctl :: .tiles :: .flags :: .images :: .cache :: .windows :: .sync :: .syncWins :: .lanes :: .cdf ::
    .fns :: .pkgs :: .queue :: .works :: .allocs :: .flows :: .media :: .cores :: .fabric :: .power :: .traceAt :: .out :: []

theorem loseVolatile_keeps (s : State) : Kept loseVolatileParts s (loseVolatile s) := by
  unfold loseVolatile
  have h0 := Kept.refl loseVolatileParts s
  repeat' first
    | with_reducible assumption
    | (extract_lets +onlyGivenNames x; (refine Kept.cutAA x ?_ (fun hx => ?_)); subst x; rotate_left; clear_value x)
    | (extract_lets +onlyGivenNames x; (have hf := fun y => x y); clear hf; subst x)
    | (extract_lets +onlyGivenNames x; clear_value x)
    | ((with_reducible apply Kept.by (noteReverted_keeps ..)); case hs => rfl)
    | ((with_reducible apply Kept.by (resumeCtxs_keeps ..)); case hs => rfl)
    | ((with_reducible apply Kept.by (abandonCommands_keeps ..)); case hs => rfl)
    | ((with_reducible apply Kept.by (restartClock_keeps ..)); case hs => rfl)
    | ((with_reducible apply Kept.by (resumeCopies_keeps ..)); case hs => rfl)
    | dsimp only
    | ((with_reducible refine Kept.upd ?_ (fun p hp => ?_)); rotate_left; (cases p <;> first | exact absurd (by decide) hp | rfl); with_reducible assumption)

/-- The parts that `releasePerst` may change. -/
def releasePerstParts : List Sys2Proof.Part :=
  .dict :: .mem :: .clk :: .ctl :: .tiles :: .flags :: .images :: .cache :: .windows :: .sync :: .syncWins :: .lanes ::
    .cdf :: .fns :: .pkgs :: .queue :: .works :: .jobs :: .frames :: .allocs :: .ctxs :: .rings :: .srings :: .flows ::
    .media :: .cores :: .fabric :: .umpire :: .power :: .protect :: .carried :: .traceAt :: .out :: []

theorem releasePerst_keeps (s : State) (a1 : Bool) : Kept releasePerstParts s (releasePerst s a1) := by
  unfold releasePerst
  have h0 := Kept.refl releasePerstParts s
  repeat' first
    | with_reducible assumption
    | (extract_lets +onlyGivenNames x; (refine Kept.cutAA x ?_ (fun hx => ?_)); subst x; rotate_left; clear_value x)
    | (extract_lets +onlyGivenNames x; clear_value x)
    | with_reducible apply Kept.ite
    | ((with_reducible apply Kept.by (takeReset_keeps ..)); case hs => rfl)
    | ((with_reducible apply Kept.by (loseVolatile_keeps ..)); case hs => rfl)
    | ((with_reducible apply Kept.by (settleCopies_keeps ..)); case hs => rfl)
    | ((with_reducible apply Kept.by (loseAll_keeps ..)); case hs => rfl)
    | ((with_reducible apply Kept.by (setReg_keeps ..)); case hs => rfl)
    | ((with_reducible refine Kept.upd ?_ (fun p hp => ?_)); rotate_left; (cases p <;> first | exact absurd (by decide) hp | rfl); with_reducible assumption)

theorem resetStatus_keeps (s : State) (a1 : Nat) : Kept [.dict] s (resetStatus s a1) := by
  unfold resetStatus
  have h0 := Kept.refl [.dict] s
  repeat' first
    | with_reducible assumption
    | ((with_reducible apply Kept.by (setReg_keeps ..)); case hs => rfl)

theorem warmReset_keeps (s : State) : Kept loseVolatileParts s (warmReset s) := by
  unfold warmReset
  have h0 := Kept.refl loseVolatileParts s
  repeat' first
    | with_reducible assumption
    | (extract_lets +onlyGivenNames x; (refine Kept.cutAA x ?_ (fun hx => ?_)); subst x; rotate_left; clear_value x)
    | (extract_lets +onlyGivenNames x; clear_value x)
    | with_reducible apply Kept.ite
    | ((with_reducible apply Kept.by (resetStatus_keeps ..)); case hs => rfl)
    | ((with_reducible apply Kept.by (loseVolatile_keeps ..)); case hs => rfl)
    | ((with_reducible apply Kept.by (abandonStart_keeps ..)); case hs => rfl)
    | ((with_reducible apply Kept.by (takeReset_keeps ..)); case hs => rfl)
    | ((with_reducible refine Kept.upd ?_ (fun p hp => ?_)); rotate_left; (cases p <;> first | exact absurd (by decide) hp | rfl); with_reducible assumption)

/-- The parts that `stopDie` may change. -/
def stopDieParts : List Sys2Proof.Part :=
  .dict :: .mem :: .ctl :: .tiles :: .images :: .cache :: .windows :: .sync :: .syncWins :: .lanes :: .works :: .ctxs :: []

theorem stopDie_keeps (s : State) (a1 : Nat) : Kept stopDieParts s (stopDie s a1) := by
  unfold stopDie
  have h0 := Kept.refl stopDieParts s
  repeat' first
    | with_reducible assumption
    | (extract_lets +onlyGivenNames x; (refine Kept.cutAA x ?_ (fun hx => ?_)); subst x; rotate_left; clear_value x)
    | (extract_lets +onlyGivenNames x; (have hf := fun y => x y); clear hf; subst x)
    | (extract_lets +onlyGivenNames x; clear_value x)
    | ((with_reducible apply Kept.by (takeReset_keeps ..)); case hs => rfl)
    | ((with_reducible apply Kept.by (logFault_keeps ..)); case hs => rfl)
    | ((with_reducible apply Kept.by (replayWorks_keeps ..)); case hs => rfl)
    | dsimp only
    | ((with_reducible refine Kept.upd ?_ (fun p hp => ?_)); rotate_left; (cases p <;> first | exact absurd (by decide) hp | rfl); with_reducible assumption)

theorem recoverDie_keeps (s : State) (a1 : Nat) : Kept stopDieParts s (recoverDie s a1) := by
  unfold recoverDie
  have h0 := Kept.refl stopDieParts s
  repeat' first
    | with_reducible assumption
    | (extract_lets +onlyGivenNames x; clear_value x)
    | with_reducible apply Kept.ite
    | ((with_reducible apply Kept.by (stopDie_keeps ..)); case hs => rfl)
    | ((with_reducible refine Kept.upd ?_ (fun p hp => ?_)); rotate_left; (cases p <;> first | exact absurd (by decide) hp | rfl); with_reducible assumption)

theorem dieCommand_keeps (s : State) : Kept stopDieParts s (dieCommand s) := by
  unfold dieCommand
  have h0 := Kept.refl stopDieParts s
  repeat' first
    | with_reducible assumption
    | with_reducible apply Kept.ite
    | ((with_reducible apply Kept.by (resetStatus_keeps ..)); case hs => rfl)
    | ((with_reducible apply Kept.by (recoverDie_keeps ..)); case hs => rfl)

theorem enterPark_keeps (s : State) : Kept [.dict] s (enterPark s) := by
  unfold enterPark
  have h0 := Kept.refl [.dict] s
  repeat' first
    | with_reducible assumption
    | with_reducible apply Kept.ite
    | ((with_reducible apply Kept.by (resetStatus_keeps ..)); case hs => rfl)
    | ((with_reducible apply Kept.by (setReg_keeps ..)); case hs => rfl)

theorem leavePark_keeps (s : State) : Kept [.dict, .ctl] s (leavePark s) := by
  unfold leavePark
  have h0 := Kept.refl [.dict, .ctl] s
  repeat' first
    | with_reducible assumption
    | with_reducible apply Kept.ite
    | ((with_reducible apply Kept.by (resetStatus_keeps ..)); case hs => rfl)
    | ((with_reducible apply Kept.by (takeReset_keeps ..)); case hs => rfl)
    | ((with_reducible apply Kept.by (setReg_keeps ..)); case hs => rfl)

theorem readmit_keeps (s : State) (a1 : Nat) : Kept [.dict, .ctl] s (readmit s a1) := by
  unfold readmit
  have h0 := Kept.refl [.dict, .ctl] s
  repeat' first
    | with_reducible assumption
    | (extract_lets +onlyGivenNames x; (refine Kept.cutAA x ?_ (fun hx => ?_)); subst x; rotate_left; clear_value x)
    | (extract_lets +onlyGivenNames x; clear_value x)
    | with_reducible apply Kept.ite
    | ((with_reducible apply Kept.by (setReg_keeps ..)); case hs => rfl)
    | ((with_reducible refine Kept.upd ?_ (fun p hp => ?_)); rotate_left; (cases p <;> first | exact absurd (by decide) hp | rfl); with_reducible assumption)

theorem clearReverted_keeps (s : State) : Kept [.ctl] s (clearReverted s) := by
  unfold clearReverted
  have h0 := Kept.refl [.ctl] s
  repeat' first
    | (extract_lets +onlyGivenNames x; clear_value x)
    | ((with_reducible refine Kept.upd ?_ (fun p hp => ?_)); rotate_left; (cases p <;> first | exact absurd (by decide) hp | rfl); with_reducible assumption)

theorem runUnitWith_keeps {ps : List Sys2Proof.Part} {r : State} (a9 : Nat) (a0 : StartFindings) (a1 a2 a3 a4 : Nat) (act : State → StepEnd) (acc : State × Bool)
    (hs : (([.dict, .ctl] : List Sys2Proof.Part).all fun p => ps.contains p) = true) (h : ∀ t, KeptP ps t (act t)) (hk : KeptP ps r acc) :
    KeptP ps r (runUnitWith a9 a0 a1 a2 a3 a4 act acc) := by
  have hd : ∀ qs : List Sys2Proof.Part, (qs.all fun p => ([.dict, .ctl] : List Sys2Proof.Part).contains p) = true → (qs.all fun p => ps.contains p) = true := by
    intro qs hq
    rw [List.all_eq_true] at *
    intro p hp
    exact hs p (by simpa using hq p hp)
  have set (t : State) (a b c : Nat) (k : Kept ps r t) : Kept ps r (setReg t a b c) := Kept.by (setReg_keeps t a b c) (hd _ rfl) k
  have jo (t : State) (a b c d e : Nat) (k : Kept ps r t) : Kept ps r (addJournal t a b c d e) := Kept.by (addJournal_keeps t a b c d e) (hd _ rfl) k
  have lo (t : State) (a b c d e f : Nat) (k : Kept ps r t) : Kept ps r (logFault t a b c d e f) := Kept.by (logFault_keeps t a b c d e f) (hd _ rfl) k
  have ct (t : State) (c : Control) (k : Kept ps r t) : Kept ps r { t with ctl := c } := 
    Kept.trans k (Kept.mono (qs := [.ctl]) (fun p hp => by cases p <;> first | exact absurd (by decide) hp | rfl) (hd _ rfl))
  unfold runUnitWith
  apply KeptP.ite hk
  extract_lets s
  refine KeptP.ite ?_ ?_
  · exact jo _ _ _ _ _ _ (Kept.ite (set _ _ _ _ hk) hk)
  · split
    next t p b e =>
      have ht : Kept ps r t := Kept.trans (jo _ _ _ _ _ _ (Kept.ite (set _ _ _ _ hk) hk)) (KeptP.elim (h _) e)
      have hj : Kept ps r (if p = true then addJournal t a1 a2 a3 2 0 else addJournal t a1 a2 a3 3 a9) :=
        Kept.ite (jo _ _ _ _ _ _ ht) (jo _ _ _ _ _ _ ht)
      refine KeptP.of ?_
      refine Kept.ite (ct _ _ ?_) ?_ <;> exact Kept.ite hj (lo _ _ _ _ _ _ _ hj)

theorem runUnit_keeps {ps : List Sys2Proof.Part} {r : State} (a0 : StartFindings) (a1 a2 a3 a4 : Nat) (act : State → StepEnd) (acc : State × Bool)
    (hs : (([.dict, .ctl] : List Sys2Proof.Part).all fun p => ps.contains p) = true) (h : ∀ t, KeptP ps t (act t)) (hk : KeptP ps r acc) :
    KeptP ps r (runUnit a0 a1 a2 a3 a4 act acc) :=
  runUnitWith_keeps 0 a0 a1 a2 a3 a4 act acc hs h hk

theorem runUnits_keeps {ps : List Sys2Proof.Part} {r : State} (f : Nat → State × Bool → State × Bool) (units : List Nat) (acc : State × Bool)
    (h : ∀ u b, KeptP ps b.1 (f u b)) (hk : KeptP ps r acc) : KeptP ps r (runUnits f units acc) := by
  unfold runUnits
  refine KeptP.foldl (fun t u => ?_) units hk
  split
  · exact Kept.refl _ _
  · exact h u t

theorem noteUnit_keeps (a0 : Nat) (a1 : Nat) (a2 : Nat) (a3 : Nat) (a4 : Nat) (acc : State × Bool) : KeptP [.dict, .ctl] acc.1 (noteUnit a0 a1 a2 a3 a4 acc) := by
  unfold noteUnit
  have h0 := Kept.refl [.dict, .ctl] acc.1
  repeat' first
    | with_reducible assumption
    | with_reducible exact KeptP.of (by assumption)
    | with_reducible apply KeptP.ite
    | ((with_reducible apply Kept.by (addJournal_keeps ..)); case hs => rfl)
    | with_reducible apply KeptP.mk

theorem stepClusters_keeps (a0 : StartFindings) (a1 : List JournalEntry) (acc : State × Bool) : KeptP [.dict, .ctl] acc.1 (stepClusters a0 a1 acc) := by
  unfold stepClusters
  have h0 := Kept.refl [.dict, .ctl] acc.1
  repeat' first
    | with_reducible assumption
    | with_reducible exact KeptP.fst (by assumption)
    | with_reducible exact KeptP.of (by assumption)
    | ((with_reducible apply runUnits_keeps); (intro u b; have h1 := Kept.refl [.dict, .ctl] b.1))
    | ((with_reducible apply runUnit_keeps); (case hs => rfl); (intro t; have h1 := Kept.refl [.dict, .ctl] t))
    | (extract_lets +onlyGivenNames x; (refine Kept.cutBA x ?_ (fun hx => ?_)); subst x; rotate_left; clear_value x)
    | (extract_lets +onlyGivenNames x; (refine Kept.cutBB x ?_ (fun hx => ?_)); subst x; rotate_left; clear_value x)
    | (extract_lets +onlyGivenNames x; (have hf := fun y => x y); clear hf; subst x)
    | (extract_lets +onlyGivenNames x; clear_value x)
    | with_reducible apply KeptP.ite
    | with_reducible apply KeptP.mk
    | dsimp only
    | split
    | ((with_reducible refine Kept.upd ?_ (fun p hp => ?_)); rotate_left; (cases p <;> first | exact absurd (by decide) hp | rfl); with_reducible assumption)

theorem stepManifest_keeps (a0 : StartFindings) (a1 : List JournalEntry) (acc : State × Bool) : KeptP [.dict, .ctl] acc.1 (stepManifest a0 a1 acc) := by
  unfold stepManifest
  have h0 := Kept.refl [.dict, .ctl] acc.1
  repeat' first
    | with_reducible assumption
    | with_reducible exact KeptP.of (by assumption)
    | ((with_reducible apply runUnit_keeps); (case hs => rfl); (intro t; have h1 := Kept.refl [.dict, .ctl] t))
    | (extract_lets +onlyGivenNames x; (refine Kept.cutBA x ?_ (fun hx => ?_)); subst x; rotate_left; clear_value x)
    | (extract_lets +onlyGivenNames x; clear_value x)
    | with_reducible apply Kept.ite
    | ((with_reducible apply Kept.by (logFault_keeps ..)); case hs => rfl)
    | with_reducible apply KeptP.mk
    | ((with_reducible refine Kept.upd ?_ (fun p hp => ?_)); rotate_left; (cases p <;> first | exact absurd (by decide) hp | rfl); with_reducible assumption)

theorem sendTables_keeps (s : State) : Kept [.out] s (sendTables s) := by
  unfold sendTables
  have h0 := Kept.refl [.out] s
  repeat' first
    | with_reducible assumption
    | ((with_reducible apply Kept.by (emit_keeps ..)); case hs => rfl)
    | (with_reducible apply Kept.foldl; (intro t a; have h1 := Kept.refl [.out] t))

theorem stepSupplies_keeps (a0 : StartFindings) (a1 : List JournalEntry) (acc : State × Bool) : KeptP [.dict, .ctl, .out] acc.1 (stepSupplies a0 a1 acc) := by
  unfold stepSupplies
  have h0 := Kept.refl [.dict, .ctl, .out] acc.1
  repeat' first
    | with_reducible assumption
    | with_reducible exact KeptP.of (by assumption)
    | ((with_reducible apply runUnit_keeps); (case hs => rfl); (intro t; have h1 := Kept.refl [.dict, .ctl, .out] t))
    | with_reducible apply Kept.ite
    | with_reducible apply KeptP.ite
    | ((with_reducible apply KeptP.by (noteUnit_keeps ..)); case hs => rfl)
    | ((with_reducible apply Kept.by (sendTables_keeps ..)); case hs => rfl)
    | with_reducible apply KeptP.mk

theorem deriveIdentity_keeps (s : State) : Kept [.dict, .ctl] s (deriveIdentity s) := by
  unfold deriveIdentity
  have h0 := Kept.refl [.dict, .ctl] s
  repeat' first
    | with_reducible assumption
    | (extract_lets +onlyGivenNames x; (refine Kept.cutAA x ?_ (fun hx => ?_)); subst x; rotate_left; clear_value x)
    | (extract_lets +onlyGivenNames x; clear_value x)
    | ((with_reducible apply Kept.by (setReg_keeps ..)); case hs => rfl)
    | ((with_reducible apply Kept.by (setBlob_keeps ..)); case hs => rfl)
    | ((with_reducible refine Kept.upd ?_ (fun p hp => ?_)); rotate_left; (cases p <;> first | exact absurd (by decide) hp | rfl); with_reducible assumption)

theorem stepIdentity_keeps (a0 : StartFindings) (a1 : List JournalEntry) (acc : State × Bool) : KeptP [.dict, .ctl] acc.1 (stepIdentity a0 a1 acc) := by
  unfold stepIdentity
  have h0 := Kept.refl [.dict, .ctl] acc.1
  repeat' first
    | with_reducible assumption
    | with_reducible exact KeptP.of (by assumption)
    | ((with_reducible apply runUnit_keeps); (case hs => rfl); (intro t; have h1 := Kept.refl [.dict, .ctl] t))
    | with_reducible apply KeptP.ite
    | ((with_reducible apply KeptP.by (noteUnit_keeps ..)); case hs => rfl)
    | ((with_reducible apply Kept.by (logFault_keeps ..)); case hs => rfl)
    | ((with_reducible apply Kept.by (setReg_keeps ..)); case hs => rfl)
    | ((with_reducible apply Kept.by (deriveIdentity_keeps ..)); case hs => rfl)
    | with_reducible apply KeptP.mk

theorem stepBridges_keeps (a0 : StartFindings) (a1 : List JournalEntry) (a2 : List Nat) (acc : State × Bool) : KeptP [.dict, .ctl] acc.1 (stepBridges a0 a1 a2 acc) := by
  unfold stepBridges
  have h0 := Kept.refl [.dict, .ctl] acc.1
  repeat' first
    | with_reducible assumption
    | with_reducible exact KeptP.of (by assumption)
    | ((with_reducible apply runUnits_keeps); (intro u b; have h1 := Kept.refl [.dict, .ctl] b.1))
    | ((with_reducible apply runUnit_keeps); (case hs => rfl); (intro t; have h1 := Kept.refl [.dict, .ctl] t))
    | (extract_lets +onlyGivenNames x; clear_value x)
    | with_reducible apply KeptP.ite
    | ((with_reducible apply KeptP.by (noteUnit_keeps ..)); case hs => rfl)
    | with_reducible apply KeptP.mk
    | ((with_reducible refine Kept.upd ?_ (fun p hp => ?_)); rotate_left; (cases p <;> first | exact absurd (by decide) hp | rfl); with_reducible assumption)

theorem exclude_keeps (s : State) (a1 : Nat) (a2 : Nat) : Kept [.ctl] s (exclude s a1 a2) := by
  unfold exclude
  have h0 := Kept.refl [.ctl] s
  repeat' first
    | with_reducible assumption
    | (extract_lets +onlyGivenNames x; clear_value x)
    | with_reducible apply Kept.ite
    | ((with_reducible refine Kept.upd ?_ (fun p hp => ?_)); rotate_left; (cases p <;> first | exact absurd (by decide) hp | rfl); with_reducible assumption)

theorem noteSkipped_keeps (a0 : Nat) (a1 : Nat × Nat → Bool) (acc : State × Bool) : KeptP [.dict, .ctl] acc.1 (noteSkipped a0 a1 acc) := by
  unfold noteSkipped
  have h0 := Kept.refl [.dict, .ctl] acc.1
  repeat' first
    | with_reducible assumption
    | with_reducible exact KeptP.of (by assumption)
    | ((with_reducible apply KeptP.by (noteUnit_keeps ..)); case hs => rfl)
    | (with_reducible apply KeptP.foldl; (intro t a; have h1 := Kept.refl [.dict, .ctl] t.1))

theorem mapOut_keeps (s : State) (a1 : Nat) (a2 : Nat) : Kept [.dict, .ctl, .protect] s (mapOut s a1 a2) := by
  unfold mapOut
  have h0 := Kept.refl [.dict, .ctl, .protect] s
  repeat' first
    | with_reducible assumption
    | (extract_lets +onlyGivenNames x; (refine Kept.cutAA x ?_ (fun hx => ?_)); subst x; rotate_left; clear_value x)
    | ((with_reducible apply Kept.by (addJournal_keeps ..)); case hs => rfl)
    | ((with_reducible apply Kept.by (setReg_keeps ..)); case hs => rfl)
    | ((with_reducible apply Kept.by (loseCopy_keeps ..)); case hs => rfl)
    | ((with_reducible apply Kept.by (logFault_keeps ..)); case hs => rfl)

theorem readmitStack_keeps (s : State) (a1 : Nat) : Kept [.dict, .ctl] s (readmitStack s a1) := by
  unfold readmitStack
  have h0 := Kept.refl [.dict, .ctl] s
  repeat' first
    | with_reducible assumption
    | (extract_lets +onlyGivenNames x; (refine Kept.cutAA x ?_ (fun hx => ?_)); subst x; rotate_left; clear_value x)
    | (extract_lets +onlyGivenNames x; clear_value x)
    | with_reducible apply Kept.ite
    | ((with_reducible apply Kept.by (addJournal_keeps ..)); case hs => rfl)
    | ((with_reducible apply Kept.by (setReg_keeps ..)); case hs => rfl)
    | ((with_reducible refine Kept.upd ?_ (fun p hp => ?_)); rotate_left; (cases p <;> first | exact absurd (by decide) hp | rfl); with_reducible assumption)

theorem stepStacks_keeps (a0 : StartFindings) (a1 : List JournalEntry) (a2 : List Nat) (acc : State × Bool) : KeptP [.dict, .ctl, .protect] acc.1 (stepStacks a0 a1 a2 acc) := by
  unfold stepStacks
  have h0 := Kept.refl [.dict, .ctl, .protect] acc.1
  repeat' first
    | with_reducible assumption
    | with_reducible exact KeptP.fst (by assumption)
    | with_reducible exact KeptP.of (by assumption)
    | ((with_reducible apply runUnits_keeps); (intro u b; have h1 := Kept.refl [.dict, .ctl, .protect] b.1))
    | ((with_reducible apply runUnit_keeps); (case hs => rfl); (intro t; have h1 := Kept.refl [.dict, .ctl, .protect] t))
    | (extract_lets +onlyGivenNames x; (refine Kept.cutBB x ?_ (fun hx => ?_)); subst x; rotate_left; clear_value x)
    | (extract_lets +onlyGivenNames x; clear_value x)
    | with_reducible apply Kept.ite
    | with_reducible apply KeptP.ite
    | ((with_reducible apply Kept.by (readmitStack_keeps ..)); case hs => rfl)
    | ((with_reducible apply KeptP.by (noteUnit_keeps ..)); case hs => rfl)
    | ((with_reducible apply Kept.by (mapOut_keeps ..)); case hs => rfl)
    | with_reducible apply KeptP.mk

theorem spareTested_keeps (s : State) (a1 : Nat) (a2 : Nat) : Kept [.dict, .ctl, .protect] s (spareTested s a1 a2) := by
  unfold spareTested
  have h0 := Kept.refl [.dict, .ctl, .protect] s
  repeat' first
    | with_reducible assumption
    | (extract_lets +onlyGivenNames x; (refine Kept.cutAA x ?_ (fun hx => ?_)); subst x; rotate_left; clear_value x)
    | (extract_lets +onlyGivenNames x; clear_value x)
    | with_reducible apply Kept.ite
    | ((with_reducible apply Kept.by (addReg_keeps ..)); case hs => rfl)
    | ((with_reducible apply Kept.by (logFault_keeps ..)); case hs => rfl)
    | ((with_reducible refine Kept.upd ?_ (fun p hp => ?_)); rotate_left; (cases p <;> first | exact absurd (by decide) hp | rfl); with_reducible assumption)

theorem stepStackTest_keeps (a0 : StartFindings) (a1 : List JournalEntry) (acc : State × Bool) : KeptP [.dict, .ctl, .protect] acc.1 (stepStackTest a0 a1 acc) := by
  unfold stepStackTest
  have h0 := Kept.refl [.dict, .ctl, .protect] acc.1
  repeat' first
    | with_reducible assumption
    | with_reducible exact KeptP.of (by assumption)
    | ((with_reducible apply runUnits_keeps); (intro u b; have h1 := Kept.refl [.dict, .ctl, .protect] b.1))
    | ((with_reducible apply runUnit_keeps); (case hs => rfl); (intro t; have h1 := Kept.refl [.dict, .ctl, .protect] t))
    | (extract_lets +onlyGivenNames x; (refine Kept.cutBB x ?_ (fun hx => ?_)); subst x; rotate_left; clear_value x)
    | (extract_lets +onlyGivenNames x; clear_value x)
    | with_reducible apply KeptP.ite
    | ((with_reducible apply KeptP.by (noteUnit_keeps ..)); case hs => rfl)
    | ((with_reducible apply Kept.by (mapOut_keeps ..)); case hs => rfl)
    | ((with_reducible apply Kept.by (spareTested_keeps ..)); case hs => rfl)
    | (with_reducible apply Kept.foldl; (intro t a; have h1 := Kept.refl [.dict, .ctl, .protect] t))
    | with_reducible apply KeptP.mk

theorem outTile_keeps (s : State) (a1 : Nat) : Kept [.dict, .ctl, .tiles, .libero, .works] s (outTile s a1) := by
  unfold outTile
  have h0 := Kept.refl [.dict, .ctl, .tiles, .libero, .works] s
  repeat' first
    | with_reducible assumption
    | ((with_reducible apply Kept.by (exclude_keeps ..)); case hs => rfl)
    | ((with_reducible apply Kept.by (retireTile_keeps ..)); case hs => rfl)

theorem reportTile_keeps (a0 : StartFindings) (s : State) (a2 : Nat) : Kept [.dict, .ctl, .tiles, .libero, .works] s (reportTile a0 s a2) := by
  unfold reportTile
  have h0 := Kept.refl [.dict, .ctl, .tiles, .libero, .works] s
  repeat' first
    | with_reducible assumption
    | ((with_reducible apply Kept.by (outTile_keeps ..)); case hs => rfl)
    | ((with_reducible apply Kept.by (addJournal_keeps ..)); case hs => rfl)

theorem stepTiles_keeps (a0 : StartFindings) (a1 : List JournalEntry) (a2 : Nat) (acc : State × Bool) : KeptP [.dict, .ctl, .tiles, .libero, .works] acc.1 (stepTiles a0 a1 a2 acc) := by
  unfold stepTiles
  have h0 := Kept.refl [.dict, .ctl, .tiles, .libero, .works] acc.1
  repeat' first
    | with_reducible assumption
    | with_reducible exact KeptP.fst (by assumption)
    | with_reducible exact KeptP.of (by assumption)
    | ((with_reducible apply runUnits_keeps); (intro u b; have h1 := Kept.refl [.dict, .ctl, .tiles, .libero, .works] b.1))
    | ((with_reducible apply runUnitWith_keeps); (case hs => rfl); (intro t; have h1 := Kept.refl [.dict, .ctl, .tiles, .libero, .works] t))
    | ((with_reducible apply runUnit_keeps); (case hs => rfl); (intro t; have h1 := Kept.refl [.dict, .ctl, .tiles, .libero, .works] t))
    | (extract_lets +onlyGivenNames x; (refine Kept.cutBB x ?_ (fun hx => ?_)); subst x; rotate_left; clear_value x)
    | (extract_lets +onlyGivenNames x; clear_value x)
    | with_reducible apply Kept.ite
    | with_reducible apply KeptP.ite
    | ((with_reducible apply KeptP.by (noteSkipped_keeps ..)); case hs => rfl)
    | ((with_reducible apply Kept.by (logFault_keeps ..)); case hs => rfl)
    | ((with_reducible apply Kept.by (outTile_keeps ..)); case hs => rfl)
    | ((with_reducible apply KeptP.by (noteUnit_keeps ..)); case hs => rfl)
    | ((with_reducible apply Kept.by (reportTile_keeps ..)); case hs => rfl)
    | (with_reducible apply Kept.foldl; (intro t a; have h1 := Kept.refl [.dict, .ctl, .tiles, .libero, .works] t))
    | with_reducible apply KeptP.mk

theorem retireFine_keeps (s : State) (a1 : Nat × Nat) : Kept [.dict, .ctl, .lanes, .works, .ctxs, .cores] s (retireFine s a1) := by
  unfold retireFine
  have h0 := Kept.refl [.dict, .ctl, .lanes, .works, .ctxs, .cores] s
  repeat' first
    | with_reducible assumption
    | with_reducible apply Kept.ite
    | ((with_reducible apply Kept.by (exclude_keeps ..)); case hs => rfl)
    | ((with_reducible apply Kept.by (retireLane_keeps ..)); case hs => rfl)
    | ((with_reducible apply Kept.by (retireUnit_keeps ..)); case hs => rfl)

theorem stepUnits_keeps (a0 : StartFindings) (a1 : List JournalEntry) (a2 : Nat) (acc : State × Bool) : KeptP [.dict, .ctl, .lanes, .works, .ctxs, .cores] acc.1 (stepUnits a0 a1 a2 acc) := by
  unfold stepUnits
  have h0 := Kept.refl [.dict, .ctl, .lanes, .works, .ctxs, .cores] acc.1
  repeat' first
    | with_reducible assumption
    | with_reducible exact KeptP.fst (by assumption)
    | with_reducible exact KeptP.of (by assumption)
    | ((with_reducible apply runUnit_keeps); (case hs => rfl); (intro t; have h1 := Kept.refl [.dict, .ctl, .lanes, .works, .ctxs, .cores] t))
    | (extract_lets +onlyGivenNames x; (refine Kept.cutBB x ?_ (fun hx => ?_)); subst x; rotate_left; clear_value x)
    | (extract_lets +onlyGivenNames x; clear_value x)
    | with_reducible apply Kept.ite
    | with_reducible apply KeptP.ite
    | ((with_reducible apply KeptP.by (noteSkipped_keeps ..)); case hs => rfl)
    | ((with_reducible apply KeptP.by (noteUnit_keeps ..)); case hs => rfl)
    | ((with_reducible apply Kept.by (retireFine_keeps ..)); case hs => rfl)
    | (with_reducible apply Kept.foldl; (intro t a; have h1 := Kept.refl [.dict, .ctl, .lanes, .works, .ctxs, .cores] t))
    | (with_reducible apply KeptP.foldl; (intro t a; have h1 := Kept.refl [.dict, .ctl, .lanes, .works, .ctxs, .cores] t.1))
    | with_reducible apply KeptP.mk

theorem stepTables_keeps (a0 : StartFindings) (acc : State × Bool) : KeptP [.dict, .ctl, .pkgs] acc.1 (stepTables a0 acc) := by
  unfold stepTables
  have h0 := Kept.refl [.dict, .ctl, .pkgs] acc.1
  repeat' first
    | with_reducible exact KeptP.of (by assumption)
    | ((with_reducible apply runUnit_keeps); (case hs => rfl); (intro t; have h1 := Kept.refl [.dict, .ctl, .pkgs] t))
    | with_reducible apply KeptP.mk
    | ((with_reducible refine Kept.upd ?_ (fun p hp => ?_)); rotate_left; (cases p <;> first | exact absurd (by decide) hp | rfl); with_reducible assumption)

theorem stepPorts_keeps (a0 : StartFindings) (acc : State × Bool) : KeptP [.dict, .ctl] acc.1 (stepPorts a0 acc) := by
  unfold stepPorts
  have h0 := Kept.refl [.dict, .ctl] acc.1
  repeat' first
    | with_reducible assumption
    | with_reducible exact KeptP.of (by assumption)
    | ((with_reducible apply runUnits_keeps); (intro u b; have h1 := Kept.refl [.dict, .ctl] b.1))
    | ((with_reducible apply runUnit_keeps); (case hs => rfl); (intro t; have h1 := Kept.refl [.dict, .ctl] t))
    | (extract_lets +onlyGivenNames x; clear_value x)
    | with_reducible apply KeptP.ite
    | ((with_reducible apply Kept.by (setReg_keeps ..)); case hs => rfl)
    | with_reducible apply KeptP.mk

theorem stepLink_keeps (a0 : StartFindings) (a1 : List JournalEntry) (a2 : Nat) (acc : State × Bool) : KeptP [.dict, .ctl, .fabric] acc.1 (stepLink a0 a1 a2 acc) := by
  unfold stepLink
  have h0 := Kept.refl [.dict, .ctl, .fabric] acc.1
  repeat' first
    | with_reducible assumption
    | with_reducible exact KeptP.of (by assumption)
    | ((with_reducible apply runUnit_keeps); (case hs => rfl); (intro t; have h1 := Kept.refl [.dict, .ctl, .fabric] t))
    | (extract_lets +onlyGivenNames x; (refine Kept.cutBA x ?_ (fun hx => ?_)); subst x; rotate_left; clear_value x)
    | (extract_lets +onlyGivenNames x; (refine Kept.cutBB x ?_ (fun hx => ?_)); subst x; rotate_left; clear_value x)
    | (extract_lets +onlyGivenNames x; clear_value x)
    | with_reducible apply Kept.ite
    | with_reducible apply KeptP.ite
    | ((with_reducible apply Kept.by (addJournal_keeps ..)); case hs => rfl)
    | ((with_reducible apply Kept.by (setLinkState_keeps ..)); case hs => rfl)
    | ((with_reducible apply KeptP.by (noteUnit_keeps ..)); case hs => rfl)
    | ((with_reducible apply Kept.by (logFault_keeps ..)); case hs => rfl)
    | ((with_reducible apply Kept.by (putLink_keeps ..)); case hs => rfl)
    | with_reducible apply KeptP.mk
    | ((with_reducible refine Kept.upd ?_ (fun p hp => ?_)); rotate_left; (cases p <;> first | exact absurd (by decide) hp | rfl); with_reducible assumption)

theorem stepDiscovery_keeps (a0 : StartFindings) (acc : State × Bool) : KeptP [.dict, .ctl, .fabric] acc.1 (stepDiscovery a0 acc) := by
  unfold stepDiscovery
  have h0 := Kept.refl [.dict, .ctl, .fabric] acc.1
  repeat' first
    | with_reducible assumption
    | with_reducible exact KeptP.of (by assumption)
    | ((with_reducible apply runUnit_keeps); (case hs => rfl); (intro t; have h1 := Kept.refl [.dict, .ctl, .fabric] t))
    | (extract_lets +onlyGivenNames x; (refine Kept.cutBA x ?_ (fun hx => ?_)); subst x; rotate_left; clear_value x)
    | ((with_reducible apply Kept.by (findRoot_keeps ..)); case hs => rfl)
    | ((with_reducible apply Kept.by (countReachable_keeps ..)); case hs => rfl)
    | ((with_reducible apply Kept.by (setReg_keeps ..)); case hs => rfl)
    | with_reducible apply KeptP.mk

theorem loseJournal_keeps (s : State) : Kept [.dict, .ctl, .works, .jobs, .frames] s (loseJournal s) := by
  unfold loseJournal
  have h0 := Kept.refl [.dict, .ctl, .works, .jobs, .frames] s
  repeat' first
    | with_reducible assumption
    | (extract_lets +onlyGivenNames x; (refine Kept.cutAA x ?_ (fun hx => ?_)); subst x; rotate_left; clear_value x)
    | ((with_reducible apply Kept.by (logFault_keeps ..)); case hs => rfl)
    | ((with_reducible apply Kept.by (setReg_keeps ..)); case hs => rfl)
    | ((with_reducible refine Kept.upd ?_ (fun p hp => ?_)); rotate_left; (cases p <;> first | exact absurd (by decide) hp | rfl); with_reducible assumption)

/-- The parts that `stepScorebook` may change. -/
def stepScorebookParts : List Sys2Proof.Part :=
  .dict :: .mem :: .host :: .ctl :: .tiles :: .images :: .sync :: .syncWins :: .works :: .jobs :: .frames :: .ctxs ::
    .srings :: .flows :: .media :: .fabric :: .carried :: .out :: []

theorem stepScorebook_keeps (a0 : StartFindings) (a1 : Bool) (acc : State × Bool) : KeptP stepScorebookParts acc.1 (stepScorebook a0 a1 acc) := by
  unfold stepScorebook
  have h0 := Kept.refl stepScorebookParts acc.1
  repeat' first
    | with_reducible assumption
    | with_reducible exact KeptP.of (by assumption)
    | ((with_reducible apply runUnit_keeps); (case hs => rfl); (intro t; have h1 := Kept.refl stepScorebookParts t))
    | (extract_lets +onlyGivenNames x; (refine Kept.cutBA x ?_ (fun hx => ?_)); subst x; rotate_left; clear_value x)
    | with_reducible apply Kept.ite
    | ((with_reducible apply Kept.by (setReg_keeps ..)); case hs => rfl)
    | ((with_reducible apply Kept.by (replayAll_keeps ..)); case hs => rfl)
    | ((with_reducible apply Kept.by (loseJournal_keeps ..)); case hs => rfl)
    | ((with_reducible refine Kept.upd ?_ (fun p hp => ?_)); rotate_left; (cases p <;> first | exact absurd (by decide) hp | rfl); with_reducible assumption)

theorem noteTrip_keeps (s : State) : Kept [.dict, .ctl] s (noteTrip s) := by
  unfold noteTrip
  have h0 := Kept.refl [.dict, .ctl] s
  repeat' first
    | with_reducible assumption
    | (extract_lets +onlyGivenNames x; clear_value x)
    | ((with_reducible apply Kept.by (logFault_keeps ..)); case hs => rfl)
    | ((with_reducible apply Kept.by (addReg_keeps ..)); case hs => rfl)
    | split
    | ((with_reducible refine Kept.upd ?_ (fun p hp => ?_)); rotate_left; (cases p <;> first | exact absurd (by decide) hp | rfl); with_reducible assumption)

theorem resumeModes_keeps (s : State) : Kept [.dict, .fabric, .umpire, .out] s (resumeModes s) := by
  unfold resumeModes
  have h0 := Kept.refl [.dict, .fabric, .umpire, .out] s
  repeat' first
    | with_reducible assumption
    | (extract_lets +onlyGivenNames x; (refine Kept.cutAA x ?_ (fun hx => ?_)); subst x; rotate_left; clear_value x)
    | with_reducible apply Kept.ite
    | ((with_reducible apply Kept.by (startMirror_keeps ..)); case hs => rfl)
    | ((with_reducible apply Kept.by (enableUmpire_keeps ..)); case hs => rfl)

theorem stepService_keeps (a0 : StartFindings) (acc : State × Bool) : KeptP [.dict, .ctl, .fabric, .umpire, .out] acc.1 (stepService a0 acc) := by
  unfold stepService
  have h0 := Kept.refl [.dict, .ctl, .fabric, .umpire, .out] acc.1
  repeat' first
    | with_reducible assumption
    | with_reducible exact KeptP.of (by assumption)
    | ((with_reducible apply runUnit_keeps); (case hs => rfl); (intro t; have h1 := Kept.refl [.dict, .ctl, .fabric, .umpire, .out] t))
    | (extract_lets +onlyGivenNames x; (refine Kept.cutBA x ?_ (fun hx => ?_)); subst x; rotate_left; clear_value x)
    | (extract_lets +onlyGivenNames x; clear_value x)
    | ((with_reducible apply Kept.by (setReg_keeps ..)); case hs => rfl)
    | ((with_reducible apply Kept.by (resumeModes_keeps ..)); case hs => rfl)
    | ((with_reducible apply Kept.by (logFault_keeps ..)); case hs => rfl)
    | ((with_reducible apply Kept.by (noteTrip_keeps ..)); case hs => rfl)
    | with_reducible apply KeptP.mk
    | ((with_reducible refine Kept.upd ?_ (fun p hp => ?_)); rotate_left; (cases p <;> first | exact absurd (by decide) hp | rfl); with_reducible assumption)

theorem countStart_keeps (s : State) : Kept [.dict] s (countStart s) := by
  unfold countStart
  have h0 := Kept.refl [.dict] s
  repeat' first
    | with_reducible assumption
    | ((with_reducible apply Kept.by (addReg_keeps ..)); case hs => rfl)

/-- The parts that `runStart` may change. -/
def runStartParts : List Sys2Proof.Part :=
  .dict :: .mem :: .host :: .clk :: .ctl :: .tiles :: .libero :: .images :: .sync :: .syncWins :: .lanes :: .pkgs ::
    .works :: .jobs :: .frames :: .ctxs :: .srings :: .flows :: .media :: .cores :: .fabric :: .umpire :: .protect :: .carried ::
    .out :: []

theorem runStart_keeps (s : State) (a1 : StartFindings) : Kept runStartParts s (runStart s a1) := by
  unfold runStart
  have h0 := Kept.refl runStartParts s
  repeat' first
    | with_reducible assumption
    | with_reducible exact KeptP.fst (by assumption)
    | (extract_lets +onlyGivenNames x; (refine Kept.cutAA x ?_ (fun hx => ?_)); subst x; rotate_left; clear_value x)
    | (extract_lets +onlyGivenNames x; (refine Kept.cutAB x ?_ (fun hx => ?_)); subst x; rotate_left; clear_value x)
    | (extract_lets +onlyGivenNames x; clear_value x)
    | with_reducible apply Kept.ite
    | with_reducible apply KeptP.ite
    | ((with_reducible apply Kept.by (restartClock_keeps ..)); case hs => rfl)
    | ((with_reducible apply Kept.by (countStart_keeps ..)); case hs => rfl)
    | ((with_reducible apply Kept.by (setReg_keeps ..)); case hs => rfl)
    | ((with_reducible apply KeptP.by (stepClusters_keeps ..)); case hs => rfl)
    | ((with_reducible apply Kept.by (retireDue_keeps ..)); case hs => rfl)
    | ((with_reducible apply KeptP.by (stepSupplies_keeps ..)); case hs => rfl)
    | ((with_reducible apply Kept.by (KeptP.fst (stepManifest_keeps ..))); case hs => rfl)
    | ((with_reducible apply KeptP.by (stepBridges_keeps ..)); case hs => rfl)
    | ((with_reducible apply Kept.by (KeptP.fst (stepIdentity_keeps ..))); case hs => rfl)
    | ((with_reducible apply KeptP.by (stepStacks_keeps ..)); case hs => rfl)
    | ((with_reducible apply KeptP.by (stepStackTest_keeps ..)); case hs => rfl)
    | ((with_reducible apply KeptP.by (stepTiles_keeps ..)); case hs => rfl)
    | ((with_reducible apply KeptP.by (stepUnits_keeps ..)); case hs => rfl)
    | ((with_reducible apply KeptP.by (stepTables_keeps ..)); case hs => rfl)
    | ((with_reducible apply KeptP.by (stepPorts_keeps ..)); case hs => rfl)
    | ((with_reducible apply KeptP.by (stepLink_keeps ..)); case hs => rfl)
    | ((with_reducible apply KeptP.by (stepService_keeps ..)); case hs => rfl)
    | ((with_reducible apply Kept.by (KeptP.fst (stepScorebook_keeps ..))); case hs => rfl)
    | ((with_reducible apply Kept.by (KeptP.fst (stepDiscovery_keeps ..))); case hs => rfl)
    | (with_reducible apply KeptP.foldl; (intro t a; have h1 := Kept.refl runStartParts t.1))
    | with_reducible apply KeptP.mk
    | ((with_reducible refine Kept.upd ?_ (fun p hp => ?_)); rotate_left; (cases p <;> first | exact absurd (by decide) hp | rfl); with_reducible assumption)

theorem plainStep_keeps (a0 : StartFindings) (a1 : Nat) (acc : State × Bool) : KeptP [.dict, .ctl] acc.1 (plainStep a0 a1 acc) :=
  runUnit_keeps a0 a1 0 0 0 _ acc rfl (fun t => Kept.refl _ t) (Kept.refl _ _)

/-- The parts that `runRecovery` may change. -/
def runRecoveryParts : List Sys2Proof.Part :=
  .dict :: .mem :: .ctl :: .tiles :: .libero :: .images :: .cache :: .windows :: .sync :: .syncWins :: .lanes :: .pkgs ::
    .works :: .ctxs :: .cores :: .fabric :: .protect :: []

theorem runRecovery_keeps (s : State) (a1 : Nat) (a2 : StartFindings) : Kept runRecoveryParts s (runRecovery s a1 a2) := by
  unfold runRecovery
  have h0 := Kept.refl runRecoveryParts s
  repeat' first
    | with_reducible assumption
    | with_reducible exact KeptP.fst (by assumption)
    | (extract_lets +onlyGivenNames x; (refine Kept.cutAA x ?_ (fun hx => ?_)); subst x; rotate_left; clear_value x)
    | (extract_lets +onlyGivenNames x; (refine Kept.cutAB x ?_ (fun hx => ?_)); subst x; rotate_left; clear_value x)
    | (extract_lets +onlyGivenNames x; clear_value x)
    | with_reducible apply Kept.ite
    | ((with_reducible apply Kept.by (countStart_keeps ..)); case hs => rfl)
    | ((with_reducible apply KeptP.by (stepStacks_keeps ..)); case hs => rfl)
    | ((with_reducible apply Kept.by (KeptP.fst (stepBridges_keeps ..))); case hs => rfl)
    | ((with_reducible apply KeptP.by (stepTables_keeps ..)); case hs => rfl)
    | ((with_reducible apply Kept.by (KeptP.fst (stepUnits_keeps ..))); case hs => rfl)
    | ((with_reducible apply Kept.by (KeptP.fst (stepTiles_keeps ..))); case hs => rfl)
    | ((with_reducible apply KeptP.by (stepLink_keeps ..)); case hs => rfl)
    | ((with_reducible apply KeptP.by (plainStep_keeps ..)); case hs => rfl)
    | ((with_reducible apply Kept.by (KeptP.fst (plainStep_keeps ..))); case hs => rfl)
    | ((with_reducible apply Kept.by (setReg_keeps ..)); case hs => rfl)
    | ((with_reducible apply Kept.by (logFault_keeps ..)); case hs => rfl)
    | ((with_reducible apply Kept.by (stopDie_keeps ..)); case hs => rfl)
    | (with_reducible apply KeptP.foldl; (intro t a; have h1 := Kept.refl runRecoveryParts t.1))
    | split
    | ((with_reducible refine Kept.upd ?_ (fun p hp => ?_)); rotate_left; (cases p <;> first | exact absurd (by decide) hp | rfl); with_reducible assumption)

/-- The parts that `runLeave` may change. -/
def runLeaveParts : List Sys2Proof.Part :=
  .dict :: .ctl :: .tiles :: .libero :: .lanes :: .pkgs :: .works :: .ctxs :: .cores :: .protect :: []

theorem runLeave_keeps (s : State) (a1 : StartFindings) : Kept runLeaveParts s (runLeave s a1) := by
  unfold runLeave
  have h0 := Kept.refl runLeaveParts s
  repeat' first
    | with_reducible assumption
    | with_reducible exact KeptP.fst (by assumption)
    | (extract_lets +onlyGivenNames x; (refine Kept.cutAA x ?_ (fun hx => ?_)); subst x; rotate_left; clear_value x)
    | (extract_lets +onlyGivenNames x; (refine Kept.cutAB x ?_ (fun hx => ?_)); subst x; rotate_left; clear_value x)
    | (extract_lets +onlyGivenNames x; clear_value x)
    | with_reducible apply Kept.ite
    | ((with_reducible apply Kept.by (countStart_keeps ..)); case hs => rfl)
    | ((with_reducible apply KeptP.by (stepStacks_keeps ..)); case hs => rfl)
    | ((with_reducible apply KeptP.by (stepTiles_keeps ..)); case hs => rfl)
    | ((with_reducible apply KeptP.by (stepUnits_keeps ..)); case hs => rfl)
    | ((with_reducible apply KeptP.by (plainStep_keeps ..)); case hs => rfl)
    | ((with_reducible apply Kept.by (KeptP.fst (plainStep_keeps ..))); case hs => rfl)
    | ((with_reducible apply Kept.by (KeptP.fst (stepTables_keeps ..))); case hs => rfl)
    | ((with_reducible apply Kept.by (logFault_keeps ..)); case hs => rfl)
    | ((with_reducible apply Kept.by (setReg_keeps ..)); case hs => rfl)
    | (with_reducible apply KeptP.foldl; (intro t a; have h1 := Kept.refl runLeaveParts t.1))

/-- The parts that `runSequence` may change. -/
def runSequenceParts : List Sys2Proof.Part :=
  .dict :: .mem :: .host :: .clk :: .ctl :: .tiles :: .libero :: .images :: .cache :: .windows :: .sync :: .syncWins ::
    .lanes :: .pkgs :: .works :: .jobs :: .frames :: .ctxs :: .srings :: .flows :: .media :: .cores :: .fabric :: .umpire ::
    .protect :: .carried :: .out :: []

theorem runSequence_keeps (s : State) (a1 : StartFindings) : Kept runSequenceParts s (runSequence s a1) := by
  unfold runSequence
  have h0 := Kept.refl runSequenceParts s
  repeat' first
    | with_reducible assumption
    | with_reducible apply Kept.ite
    | ((with_reducible apply Kept.by (runStart_keeps ..)); case hs => rfl)
    | ((with_reducible apply Kept.by (runRecovery_keeps ..)); case hs => rfl)
    | ((with_reducible apply Kept.by (runLeave_keeps ..)); case hs => rfl)
    | split

theorem restoreCtx_keeps (s : State) (a1 : Nat) : Kept enterRunningParts s (restoreCtx s a1) := by
  unfold restoreCtx
  have h0 := Kept.refl enterRunningParts s
  repeat' first
    | with_reducible assumption
    | (extract_lets +onlyGivenNames x; (refine Kept.cutAA x ?_ (fun hx => ?_)); subst x; rotate_left; clear_value x)
    | (extract_lets +onlyGivenNames x; (have hf := fun y => x y); clear hf; subst x)
    | (extract_lets +onlyGivenNames x; clear_value x)
    | with_reducible apply Kept.ite
    | ((with_reducible apply Kept.by (enterRunning_keeps ..)); case hs => rfl)
    | ((with_reducible apply Kept.by (setCtxState_keeps ..)); case hs => rfl)
    | ((with_reducible apply Kept.by (setReg_keeps ..)); case hs => rfl)
    | ((with_reducible apply Kept.by (putCtx_keeps ..)); case hs => rfl)
    | ((with_reducible refine Kept.upd ?_ (fun p hp => ?_)); rotate_left; (cases p <;> first | exact absurd (by decide) hp | rfl); with_reducible assumption)

theorem restoreJob_keeps (s : State) (a1 : Nat) (a2 : Nat) (a3 : Nat) (a4 : Nat) : Kept [.dict, .mem, .ctl, .jobs, .rings, .fabric, .out] s (restoreJob s a1 a2 a3 a4) := by
  unfold restoreJob
  have h0 := Kept.refl [.dict, .mem, .ctl, .jobs, .rings, .fabric, .out] s
  repeat' first
    | with_reducible assumption
    | (extract_lets +onlyGivenNames x; (refine Kept.cutAA x ?_ (fun hx => ?_)); subst x; rotate_left; clear_value x)
    | (extract_lets +onlyGivenNames x; clear_value x)
    | with_reducible apply Kept.ite
    | ((with_reducible apply Kept.by (putRing_keeps ..)); case hs => rfl)
    | ((with_reducible apply Kept.by (takeJob_keeps ..)); case hs => rfl)
    | ((with_reducible apply Kept.by (putJob_keeps ..)); case hs => rfl)
    | dsimp only
    | split
    | ((with_reducible refine Kept.upd ?_ (fun p hp => ?_)); rotate_left; (cases p <;> first | exact absurd (by decide) hp | rfl); with_reducible assumption)

theorem restoreJobs_keeps (s : State) : Kept [.dict, .mem, .ctl, .jobs, .rings, .fabric, .out] s (restoreJobs s) := by
  unfold restoreJobs
  have h0 := Kept.refl [.dict, .mem, .ctl, .jobs, .rings, .fabric, .out] s
  repeat' first
    | with_reducible assumption
    | ((with_reducible apply Kept.by (restoreJob_keeps ..)); case hs => rfl)
    | (with_reducible apply Kept.foldl; (intro t a; have h1 := Kept.refl [.dict, .mem, .ctl, .jobs, .rings, .fabric, .out] t))
    | split

/-- The parts that `recoverMirror` may change. -/
def recoverMirrorParts : List Sys2Proof.Part :=
  .dict :: .mem :: .ctl :: .tiles :: .cache :: .windows :: .sync :: .syncWins :: .works :: .jobs :: .frames :: .allocs ::
    .ctxs :: .rings :: .flows :: .fabric :: .out :: .free :: []

theorem recoverMirror_keeps (s : State) : Kept recoverMirrorParts s (recoverMirror s) := by
  unfold recoverMirror
  have h0 := Kept.refl recoverMirrorParts s
  repeat' first
    | with_reducible assumption
    | (extract_lets +onlyGivenNames x; (refine Kept.cutAA x ?_ (fun hx => ?_)); subst x; rotate_left; clear_value x)
    | (extract_lets +onlyGivenNames x; clear_value x)
    | with_reducible apply Kept.ite
    | ((with_reducible apply Kept.by (startMirror_keeps ..)); case hs => rfl)
    | ((with_reducible apply Kept.by (logFault_keeps ..)); case hs => rfl)
    | ((with_reducible apply Kept.by (setReg_keeps ..)); case hs => rfl)
    | ((with_reducible apply Kept.by (setBlob_keeps ..)); case hs => rfl)
    | ((with_reducible apply Kept.by (restoreJobs_keeps ..)); case hs => rfl)
    | ((with_reducible apply Kept.by (deliverAll_keeps ..)); case hs => rfl)
    | ((with_reducible apply Kept.by (restoreCtx_keeps ..)); case hs => rfl)
    | ((with_reducible apply Kept.by (addReg_keeps ..)); case hs => rfl)
    | (with_reducible apply Kept.foldl; (intro t a; have h1 := Kept.refl recoverMirrorParts t))
    | ((with_reducible refine Kept.upd ?_ (fun p hp => ?_)); rotate_left; (cases p <;> first | exact absurd (by decide) hp | rfl); with_reducible assumption)

theorem attest_keeps (s : State) : Kept [.dict, .mem, .free] s (attest s) := by
  unfold attest
  have h0 := Kept.refl [.dict, .mem, .free] s
  repeat' first
    | with_reducible assumption
    | (extract_lets +onlyGivenNames x; clear_value x)
    | with_reducible apply Kept.ite
    | ((with_reducible apply Kept.by (setReg_keeps ..)); case hs => rfl)
    | dsimp only
    | split
    | ((with_reducible refine Kept.upd ?_ (fun p hp => ?_)); rotate_left; (cases p <;> first | exact absurd (by decide) hp | rfl); ((with_reducible apply Kept.by (fresh_snd_keeps ..)); case hs => rfl))

end Sys2Proof.Machine
end

