-- ==== Sys2Proof/Laws/KeepDictionary.lean ====
section
/-! SUPPORT. Which parts of the state each operation of Machine/Dictionary.lean may change. -/
namespace Sys2Proof.Machine
open Sys2Proof
seal findObj defaultOf getReg getBlob

/-- The parts that `ctxCommand` may change. -/
def ctxCommandParts : List Sys2Proof.Part :=
  .dict :: .cache :: .windows :: .frames :: .allocs :: .ctxs :: .media :: .fabric :: .out :: .free :: []

theorem ctxCommand_keeps (s : State) (a1 : Nat) (a2 : Nat) : Kept ctxCommandParts s (ctxCommand s a1 a2) := by
  unfold ctxCommand
  have h0 := Kept.refl ctxCommandParts s
  repeat' first
    | with_reducible assumption
    | with_reducible apply Kept.ite
    | ((with_reducible apply Kept.by (startCtx_keeps ..)); case hs => rfl)
    | ((with_reducible apply Kept.by (stopCtx_keeps ..)); case hs => rfl)
    | ((with_reducible apply Kept.by (timeoutCtx_keeps ..)); case hs => rfl)
    | ((with_reducible apply Kept.by (resumeCtx_keeps ..)); case hs => rfl)
    | ((with_reducible apply Kept.by (switchCtx_keeps ..)); case hs => rfl)
    | ((with_reducible apply Kept.by (fresh_snd_keeps ..)); case hs => rfl)

/-- The parts that `behaviour` may change. -/
def behaviourParts : List Sys2Proof.Part :=
  .dict :: .mem :: .host :: .clk :: .ctl :: .tiles :: .flags :: .images :: .cache :: .windows :: .sync :: .syncWins ::
    .lanes :: .cdf :: .fns :: .pkgs :: .queue :: .works :: .frames :: .allocs :: .ctxs :: .srings :: .flows :: .media ::
    .cores :: .fabric :: .umpire :: .power :: .protect :: .traceAt :: .out :: .free :: []

theorem behaviour_keeps (s : State) (a1 : Origin) (a2 : Nat) (a3 : Nat) (a4 : List Byte) : KeptO behaviourParts s (behaviour s a1 a2 a3 a4) := by
  unfold behaviour
  have h0 := Kept.refl behaviourParts s
  repeat' first
    | with_reducible assumption
    | ((with_reducible apply diesCommand_keeps); (case hs => rfl); (intro t b; have h1 := Kept.refl behaviourParts t))
    | (extract_lets +onlyGivenNames x; clear_value x)
    | with_reducible apply Kept.ite
    | with_reducible apply KeptO.ite
    | with_reducible apply KeptO.some
    | with_reducible apply KeptO.none
    | ((with_reducible apply Kept.by (writeBinding_keeps ..)); case hs => rfl)
    | ((with_reducible apply Kept.by (ctxCommand_keeps ..)); case hs => rfl)
    | ((with_reducible apply Kept.by (requestReference_keeps ..)); case hs => rfl)
    | ((with_reducible apply Kept.by (acceptLoad_keeps ..)); case hs => rfl)
    | ((with_reducible apply Kept.by (acceptUnload_keeps ..)); case hs => rfl)
    | ((with_reducible apply Kept.by (clearDeviceFlags_keeps ..)); case hs => rfl)
    | ((with_reducible apply Kept.by (clearTileFlags_keeps ..)); case hs => rfl)
    | ((with_reducible apply Kept.by (loadFunction_keeps ..)); case hs => rfl)
    | ((with_reducible apply Kept.by (unloadFunction_keeps ..)); case hs => rfl)
    | ((with_reducible apply Kept.by (addTableSet_keeps ..)); case hs => rfl)
    | ((with_reducible apply Kept.by (removeTableSet_keeps ..)); case hs => rfl)
    | ((with_reducible apply Kept.by (retireStack_keeps ..)); case hs => rfl)
    | ((with_reducible apply Kept.by (allocateHost_keeps ..)); case hs => rfl)
    | ((with_reducible apply Kept.by (freeHost_keeps ..)); case hs => rfl)
    | ((with_reducible apply Kept.by (startCopy_keeps ..)); case hs => rfl)
    | ((with_reducible apply Kept.by (writeMirrorPeer_keeps ..)); case hs => rfl)
    | ((with_reducible apply Kept.by (resumeUmpire_keeps ..)); case hs => rfl)
    | ((with_reducible apply Kept.by (stopUmpire_keeps ..)); case hs => rfl)
    | ((with_reducible apply Kept.by (enableUmpire_keeps ..)); case hs => rfl)
    | ((with_reducible apply Kept.by (setReg_keeps ..)); case hs => rfl)
    | ((with_reducible apply Kept.by (loadFilter_keeps ..)); case hs => rfl)
    | ((with_reducible apply Kept.by (unloadFilter_keeps ..)); case hs => rfl)
    | ((with_reducible apply Kept.by (warmReset_keeps ..)); case hs => rfl)
    | ((with_reducible apply Kept.by (dieCommand_keeps ..)); case hs => rfl)
    | ((with_reducible apply Kept.by (enterPark_keeps ..)); case hs => rfl)
    | ((with_reducible apply Kept.by (leavePark_keeps ..)); case hs => rfl)
    | ((with_reducible apply Kept.by (readmit_keeps ..)); case hs => rfl)
    | ((with_reducible apply Kept.by (clearReverted_keeps ..)); case hs => rfl)
    | ((with_reducible apply Kept.by (acceptKey_keeps ..)); case hs => rfl)
    | ((with_reducible apply Kept.by (attest_keeps ..)); case hs => rfl)
    | split
    | ((with_reducible refine Kept.upd ?_ (fun p hp => ?_)); rotate_left; (cases p <;> first | exact absurd (by decide) hp | rfl); with_reducible assumption)

/-- The parts that `afterStore` may change. -/
def afterStoreParts : List Sys2Proof.Part :=
  .dict :: .ctl :: .jobs :: .frames :: .allocs :: .rings :: .srings :: .flows :: .media :: .fabric :: .traceAt :: .out :: []

theorem afterStore_keeps (s : State) (a1 : Nat) (a2 : Nat) (a3 : List Byte) : Kept afterStoreParts s (afterStore s a1 a2 a3) := by
  unfold afterStore
  have h0 := Kept.refl afterStoreParts s
  repeat' first
    | with_reducible assumption
    | (extract_lets +onlyGivenNames x; (refine Kept.cutAA x ?_ (fun hx => ?_)); subst x; rotate_left; clear_value x)
    | (extract_lets +onlyGivenNames x; clear_value x)
    | with_reducible apply Kept.ite
    | ((with_reducible apply Kept.by (setLinkState_keeps ..)); case hs => rfl)
    | ((with_reducible apply Kept.by (failLink_keeps ..)); case hs => rfl)
    | ((with_reducible apply Kept.by (silencePort_keeps ..)); case hs => rfl)
    | ((with_reducible apply Kept.by (setReg_keeps ..)); case hs => rfl)
    | ((with_reducible apply Kept.by (putFlow_keeps ..)); case hs => rfl)
    | split
    | ((with_reducible refine Kept.upd ?_ (fun p hp => ?_)); rotate_left; (cases p <;> first | exact absurd (by decide) hp | rfl); with_reducible assumption)

/-- The parts that `applyWrite` may change. -/
def applyWriteParts : List Sys2Proof.Part :=
  .dict :: .mem :: .host :: .clk :: .ctl :: .tiles :: .flags :: .images :: .cache :: .windows :: .sync :: .syncWins ::
    .lanes :: .cdf :: .fns :: .pkgs :: .queue :: .works :: .jobs :: .frames :: .allocs :: .ctxs :: .rings :: .srings ::
    .flows :: .media :: .cores :: .fabric :: .umpire :: .power :: .protect :: .traceAt :: .out :: .free :: []

theorem applyWrite_keeps (s : State) (a1 : Origin) (a2 : Nat) (a3 : Nat) (a4 : List Byte) : Kept applyWriteParts s (applyWrite s a1 a2 a3 a4) := by
  unfold applyWrite
  have h0 := Kept.refl applyWriteParts s
  repeat' first
    | with_reducible assumption
    | (extract_lets +onlyGivenNames x; (refine Kept.cutAA x ?_ (fun hx => ?_)); subst x; rotate_left; clear_value x)
    | with_reducible apply Kept.ite
    | ((with_reducible apply Kept.by (KeptO.elim (behaviour_keeps ..) (by assumption))); case hs => rfl)
    | ((with_reducible apply Kept.by (toMirror_keeps ..)); case hs => rfl)
    | ((with_reducible apply Kept.by (afterStore_keeps ..)); case hs => rfl)
    | ((with_reducible apply Kept.by (storeBytes_keeps ..)); case hs => rfl)
    | split

theorem runOp_keeps {serves : Nat → Bool} {flash : Bool} {s : State} {org : Origin} {p : DtpOp} {x : State × List Byte}
    (h : runOp serves flash s org p = .ok x) : Kept applyWriteParts s x.1 := by
  unfold runOp at h
  have h0 := Kept.refl applyWriteParts s
  repeat' first
    | (injection h with h; subst h; first | exact h0 | exact (applyWrite_keeps ..).mono rfl | exact Kept.by (applyWrite_keeps s org p.index p.sub p.data) rfl h0)
    | (cases h; done)
    | split at h

theorem runOps_keeps (serves : Nat → Bool) (flash : Bool) (org : Origin) (s : State) (room : Nat) (ops : List DtpOp) :
    KeptP applyWriteParts s (runOps serves flash org s room ops) := by
  induction ops generalizing s room with
  | nil => exact Kept.refl _ _
  | cons p r ih =>
    unfold runOps
    split
    · exact Kept.refl _ _
    next t d e =>
      have ht : Kept applyWriteParts s t := runOp_keeps e
      dsimp only
      split
      · exact Kept.refl _ _
      · exact Kept.trans ht (ih t _)

theorem runRequest_keeps (s : State) (a1 : Bool) (a2 : Origin) (a3 : Nat) (a4 : List DtpOp) : KeptP applyWriteParts s (runRequest s a1 a2 a3 a4) := by
  unfold runRequest
  have h0 := Kept.refl applyWriteParts s
  repeat' first
    | with_reducible assumption
    | with_reducible exact KeptP.fst (by assumption)
    | (extract_lets +onlyGivenNames x; (refine Kept.cutBB x ?_ (fun hx => ?_)); subst x; rotate_left; clear_value x)
    | ((with_reducible apply KeptP.by (runOps_keeps ..)); case hs => rfl)
    | with_reducible apply KeptP.mk
    | dsimp only
    | split

theorem countRequest_keeps (s : State) (a1 : List (DtpOp × Nat × List Byte)) : Kept [.dict] s (countRequest s a1) := by
  unfold countRequest
  have h0 := Kept.refl [.dict] s
  repeat' first
    | with_reducible assumption
    | with_reducible apply Kept.ite
    | ((with_reducible apply Kept.by (addReg_keeps ..)); case hs => rfl)

theorem plainRequest_keeps (s : State) (a1 : Bool) (a2 : Origin) (a3 : List Byte) : KeptP applyWriteParts s (plainRequest s a1 a2 a3) := by
  unfold plainRequest
  have h0 := Kept.refl applyWriteParts s
  repeat' first
    | with_reducible assumption
    | ((with_reducible apply Kept.by (addReg_keeps ..)); case hs => rfl)
    | ((with_reducible apply Kept.by (KeptP.fst (runRequest_keeps ..))); case hs => rfl)
    | ((with_reducible apply Kept.by (countRequest_keeps ..)); case hs => rfl)
    | with_reducible apply KeptP.mk
    | dsimp only
    | split

theorem showResponse_keeps (s : State) (a1 : Nat) (a2 : List Byte) : Kept [.ctl] s (showResponse s a1 a2) := by
  unfold showResponse
  have h0 := Kept.refl [.ctl] s
  repeat' first
    | (extract_lets +onlyGivenNames x; clear_value x)
    | ((with_reducible apply Kept.by (raiseVector_keeps ..)); case hs => rfl)
    | ((with_reducible refine Kept.upd ?_ (fun p hp => ?_)); rotate_left; (cases p <;> first | exact absurd (by decide) hp | rfl); with_reducible assumption)

theorem windowRequest_keeps (s : State) (a1 : Bool) (a2 : Nat) (a3 : List Byte) : Kept applyWriteParts s (windowRequest s a1 a2 a3) := by
  unfold windowRequest
  have h0 := Kept.refl applyWriteParts s
  repeat' first
    | with_reducible assumption
    | with_reducible exact KeptP.fst (by assumption)
    | (extract_lets +onlyGivenNames x; (refine Kept.cutAA x ?_ (fun hx => ?_)); subst x; rotate_left; clear_value x)
    | (extract_lets +onlyGivenNames x; (refine Kept.cutAB x ?_ (fun hx => ?_)); subst x; rotate_left; clear_value x)
    | (extract_lets +onlyGivenNames x; clear_value x)
    | with_reducible apply Kept.ite
    | ((with_reducible apply Kept.by (showResponse_keeps ..)); case hs => rfl)
    | ((with_reducible apply KeptP.by (plainRequest_keeps ..)); case hs => rfl)
    | split
    | ((with_reducible refine Kept.upd ?_ (fun p hp => ?_)); rotate_left; (cases p <;> first | exact absurd (by decide) hp | rfl); with_reducible assumption)

theorem acceptCounter_keeps (s : State) (a1 : Nat) : Kept [.dict, .ctl] s (acceptCounter s a1) := by
  unfold acceptCounter
  have h0 := Kept.refl [.dict, .ctl] s
  repeat' first
    | with_reducible assumption
    | (extract_lets +onlyGivenNames x; (refine Kept.cutAA x ?_ (fun hx => ?_)); subst x; rotate_left; clear_value x)
    | (extract_lets +onlyGivenNames x; clear_value x)
    | with_reducible apply Kept.ite
    | ((with_reducible apply Kept.by (setReg_keeps ..)); case hs => rfl)
    | ((with_reducible refine Kept.upd ?_ (fun p hp => ?_)); rotate_left; (cases p <;> first | exact absurd (by decide) hp | rfl); with_reducible assumption)

theorem netRequest_keeps (s : State) (a1 : Bool) (a2 : List Byte) : KeptP applyWriteParts s (netRequest s a1 a2) := by
  unfold netRequest
  have h0 := Kept.refl applyWriteParts s
  repeat' first
    | with_reducible assumption
    | (extract_lets +onlyGivenNames x; (refine Kept.cutBA x ?_ (fun hx => ?_)); subst x; rotate_left; clear_value x)
    | (extract_lets +onlyGivenNames x; clear_value x)
    | ((with_reducible apply Kept.by (addReg_keeps ..)); case hs => rfl)
    | ((with_reducible apply Kept.by (KeptP.fst (plainRequest_keeps ..))); case hs => rfl)
    | ((with_reducible apply Kept.by (KeptP.fst (runRequest_keeps ..))); case hs => rfl)
    | ((with_reducible apply Kept.by (acceptCounter_keeps ..)); case hs => rfl)
    | ((with_reducible apply Kept.by (countRequest_keeps ..)); case hs => rfl)
    | with_reducible apply KeptP.mk
    | dsimp only
    | split

theorem dtpNet_keeps (s : State) (a1 : Bool) (a2 : Nat) (a3 : List Byte) : Kept applyWriteParts s (dtpNet s a1 a2 a3) := by
  unfold dtpNet
  have h0 := Kept.refl applyWriteParts s
  repeat' first
    | with_reducible assumption
    | with_reducible exact KeptP.fst (by assumption)
    | (extract_lets +onlyGivenNames x; (refine Kept.cutAB x ?_ (fun hx => ?_)); subst x; rotate_left; clear_value x)
    | with_reducible apply Kept.ite
    | ((with_reducible apply KeptP.by (netRequest_keeps ..)); case hs => rfl)
    | ((with_reducible apply Kept.by (emit_keeps ..)); case hs => rfl)
    | split

theorem peerRequest_keeps (s : State) (a1 : Bool) (a2 : List Byte) : KeptP applyWriteParts s (peerRequest s a1 a2) := by
  unfold peerRequest
  have h0 := Kept.refl applyWriteParts s
  repeat' first
    | with_reducible assumption
    | ((with_reducible apply Kept.by (addReg_keeps ..)); case hs => rfl)
    | ((with_reducible apply Kept.by (KeptP.fst (plainRequest_keeps ..))); case hs => rfl)
    | with_reducible apply KeptP.mk
    | split

theorem dtpPeer_keeps (s : State) (a1 : Bool) (a2 : Nat) (a3 : List Byte) : Kept applyWriteParts s (dtpPeer s a1 a2 a3) := by
  unfold dtpPeer
  have h0 := Kept.refl applyWriteParts s
  repeat' first
    | with_reducible assumption
    | with_reducible exact KeptP.fst (by assumption)
    | (extract_lets +onlyGivenNames x; (refine Kept.cutAA x ?_ (fun hx => ?_)); subst x; rotate_left; clear_value x)
    | (extract_lets +onlyGivenNames x; (refine Kept.cutAB x ?_ (fun hx => ?_)); subst x; rotate_left; clear_value x)
    | ((with_reducible apply Kept.by (ackTo_keeps ..)); case hs => rfl)
    | ((with_reducible apply KeptP.by (peerRequest_keeps ..)); case hs => rfl)
    | ((with_reducible apply Kept.by (KeptP.fst (sendMessage_keeps ..))); case hs => rfl)
    | ((with_reducible apply Kept.by (emit_keeps ..)); case hs => rfl)
    | split

theorem dictWrite_keeps (s : State) (a1 : Bool) (a2 : Origin) (a3 : Nat) (a4 : Nat) (a5 : List Byte) : Kept applyWriteParts s (dictWrite s a1 a2 a3 a4 a5) := by
  unfold dictWrite
  have h0 := Kept.refl applyWriteParts s
  repeat' first
    | with_reducible assumption
    | ((with_reducible apply Kept.by (runOp_keeps (by assumption))); case hs => rfl)
    | split

theorem acknowledgeLog_keeps (s : State) (a1 : Nat) : Kept [.dict] s (acknowledgeLog s a1) := by
  unfold acknowledgeLog
  have h0 := Kept.refl [.dict] s
  repeat' first
    | with_reducible assumption
    | with_reducible apply Kept.ite
    | ((with_reducible apply Kept.by (setReg_keeps ..)); case hs => rfl)

end Sys2Proof.Machine
end

