-- ==== Sys2Proof/Laws/Memory.lean ====
section
/-! SUPPORT. Reads after writes, and that every operation on a memory or a sparse map keeps its canonical form. -/
namespace Sys2Proof.Machine
open Sys2Proof

/-! ### Sparse maps -/

@[simp] theorem nget_nset_same {α : Type} (m : NMap α) (k : Nat) (a : α) : nget (nset m k a) k = some a := by
  induction m with
  | nil => simp [nset, nget]
  | cons e r ih =>
    obtain ⟨x, b⟩ := e
    unfold nset
    split
    · simp [nget]
    · split
      · simp [nget]
      · next h => simp [nget, ih, Ne.symm h]

theorem nget_nset_ne {α : Type} (m : NMap α) {k j : Nat} (a : α) (h : k ≠ j) : nget (nset m k a) j = nget m j := by
  induction m with
  | nil => simp [nset, nget, h]
  | cons e r ih =>
    obtain ⟨x, b⟩ := e
    unfold nset
    split
    · simp [nget, h]
    · split
      · next h' => subst h'; simp [nget, h]
      · simp [nget, ih]

theorem nget_nset {α : Type} (m : NMap α) (k j : Nat) (a : α) : nget (nset m k a) j = if k = j then some a else nget m j := by
  split
  · next h => subst h; simp
  · next h => exact nget_nset_ne m a h

theorem nget_ndel {α : Type} (m : NMap α) (k j : Nat) : nget (ndel m k) j = if k = j then none else nget m j := by
  induction m with
  | nil => simp [ndel, nget]
  | cons e r ih =>
    obtain ⟨x, b⟩ := e
    unfold ndel at *
    rw [List.filter_cons]
    split
    · next h =>
      simp only [nget, ih]
      by_cases hk : k = j
      · subst hk; simp at h; simp [h]
      · simp [hk]
    · next h =>
      simp only [nget, ih]
      have : x = k := by simpa using h
      by_cases hk : k = j <;> simp_all

@[simp] theorem nget_ndel_same {α : Type} (m : NMap α) (k : Nat) : nget (ndel m k) k = none := by simp [nget_ndel]

@[simp] theorem ngetD_nset_same {α : Type} (m : NMap α) (k : Nat) (a d : α) : ngetD (nset m k a) k d = a := by simp [ngetD]
theorem ngetD_nset_ne {α : Type} (m : NMap α) {k j : Nat} (a d : α) (h : k ≠ j) : ngetD (nset m k a) j d = ngetD m j d := by
  simp [ngetD, nget_nset_ne m a h]
theorem ngetD_ndel_ne {α : Type} (m : NMap α) {k j : Nat} (d : α) (h : k ≠ j) : ngetD (ndel m k) j d = ngetD m j d := by
  simp [ngetD, nget_ndel, h]
@[simp] theorem ngetD_ndel_same {α : Type} (m : NMap α) (k : Nat) (d : α) : ngetD (ndel m k) k d = d := by simp [ngetD]

/-! ### Memory: one byte -/

theorem Memory.get_low {m : Memory} {a : Nat} (h : m.all (fun c => decide (a < c.1)) = true) : m.get a = 0 := by
  induction m with
  | nil => rfl
  | cons e r ih =>
    obtain ⟨x, b⟩ := e
    simp only [List.all_cons, Bool.and_eq_true, decide_eq_true_eq] at h
    simp [Memory.get, ih h.2, Nat.ne_of_gt h.1]

theorem Memory.get_set_ne (m : Memory) {a c : Nat} (b : Byte) (h : a ≠ c) : (m.set a b).get c = m.get c := by
  induction m with
  | nil => unfold Memory.set; split <;> simp [Memory.get, h]
  | cons e r ih =>
    obtain ⟨x, d⟩ := e
    unfold Memory.set
    split
    · split <;> simp [Memory.get, h]
    · split
      · next h' =>
        subst h'
        split <;> simp [Memory.get, h]
      · simp [Memory.get, ih]

theorem Memory.wf_cons {a : Nat} {b : Byte} {r : Memory} :
    Memory.wf ((a, b) :: r) = true ↔ b ≠ 0 ∧ r.all (fun c => decide (a < c.1)) = true ∧ Memory.wf r = true := by
  simp [Memory.wf, and_assoc]

theorem Memory.get_set_same {m : Memory} (hm : m.wf = true) (a : Nat) (b : Byte) : (m.set a b).get a = b := by
  induction m with
  | nil => unfold Memory.set; split <;> simp_all [Memory.get]
  | cons e r ih =>
    obtain ⟨x, d⟩ := e
    obtain ⟨hd, hr, hw⟩ := Memory.wf_cons.mp hm
    unfold Memory.set
    split
    · next h =>
      split
      · next hb =>
        subst hb
        refine Memory.get_low ?_
        simp only [List.all_cons, Bool.and_eq_true, decide_eq_true_eq, List.all_eq_true] at *
        exact ⟨h, fun y hy => Nat.lt_trans h (hr y hy)⟩
      · simp [Memory.get]
    · split
      · next h' =>
        subst h'
        split
        · next hb => subst hb; exact Memory.get_low hr
        · simp [Memory.get]
      · next h' => simp [Memory.get, ih hw, Ne.symm h']

theorem Memory.all_set {m : Memory} {p : Nat → Bool} {a : Nat} {b : Byte} (hm : m.all (fun c => p c.1) = true) (ha : p a = true) :
    (m.set a b).all (fun c => p c.1) = true := by
  induction m with
  | nil => unfold Memory.set; split <;> simp_all
  | cons e r ih =>
    obtain ⟨x, d⟩ := e
    simp only [List.all_cons, Bool.and_eq_true] at hm
    unfold Memory.set
    split
    · split
      · simp only [List.all_cons, Bool.and_eq_true]; exact hm
      · simp only [List.all_cons, Bool.and_eq_true]; exact ⟨ha, hm⟩
    · split
      · split
        · exact hm.2
        · simp only [List.all_cons, Bool.and_eq_true]; exact ⟨ha, hm.2⟩
      · simp only [List.all_cons, Bool.and_eq_true]
        exact ⟨hm.1, ih hm.2⟩

theorem Memory.wf_set {m : Memory} (hm : m.wf = true) (a : Nat) (b : Byte) : (m.set a b).wf = true := by
  induction m with
  | nil => unfold Memory.set; split <;> simp_all [Memory.wf]
  | cons e r ih =>
    obtain ⟨x, d⟩ := e
    obtain ⟨hd, hr, hw⟩ := Memory.wf_cons.mp hm
    unfold Memory.set
    split
    · next h =>
      split
      · exact hm
      · next hb =>
        refine Memory.wf_cons.mpr ⟨hb, ?_, hm⟩
        simp only [List.all_cons, Bool.and_eq_true, decide_eq_true_eq, List.all_eq_true] at *
        exact ⟨h, fun y hy => Nat.lt_trans h (hr y hy)⟩
    · split
      · next h' =>
        subst h'
        split
        · exact hw
        · next hb => exact Memory.wf_cons.mpr ⟨hb, hr, hw⟩
      · next h1 h2 =>
        refine Memory.wf_cons.mpr ⟨hd, ?_, ih hw⟩
        exact Memory.all_set (p := fun y => decide (x < y)) hr (by simp; omega)

/-! ### Memory: byte strings -/

theorem Memory.wf_write {m : Memory} (hm : m.wf = true) (a : Nat) (bs : List Byte) : (m.write a bs).wf = true := by
  induction bs generalizing m a with
  | nil => exact hm
  | cons b r ih => exact ih (Memory.wf_set hm a b) (a + 1)

theorem Memory.get_write_out (m : Memory) (a : Nat) (bs : List Byte) {c : Nat} (h : c < a ∨ a + bs.length ≤ c) :
    (m.write a bs).get c = m.get c := by
  induction bs generalizing m a with
  | nil => rfl
  | cons b r ih =>
    simp only [List.length_cons] at h
    unfold Memory.write
    rw [ih _ _ (by omega), Memory.get_set_ne _ _ (by omega)]

theorem Memory.get_write_in {m : Memory} (hm : m.wf = true) (a : Nat) (bs : List Byte) {i : Nat} (h : i < bs.length) :
    (m.write a bs).get (a + i) = bs[i] := by
  induction bs generalizing m a i with
  | nil => simp at h
  | cons b r ih =>
    unfold Memory.write
    cases i with
    | zero => rw [Memory.get_write_out _ _ _ (by omega)]; simpa using Memory.get_set_same hm a b
    | succ i =>
      have := ih (Memory.wf_set hm a b) (a + 1) (i := i) (by simpa using h)
      rw [show a + (i + 1) = a + 1 + i by omega, this]
      rfl

@[simp] theorem Memory.length_read (m : Memory) (a n : Nat) : (m.read a n).length = n := by
  induction n generalizing a with
  | zero => rfl
  | succ n ih => simp [Memory.read, ih]

theorem Memory.getElem_read (m : Memory) (a n : Nat) {i : Nat} (h : i < (m.read a n).length) : (m.read a n)[i] = m.get (a + i) := by
  induction n generalizing a i with
  | zero => simp [Memory.read] at h
  | succ n ih =>
    cases i with
    | zero => rfl
    | succ i =>
      have h' : i < (m.read (a + 1) n).length := by simpa [Memory.read] using h
      have := ih (a + 1) h'
      simp only [Memory.read, List.getElem_cons_succ, this]
      congr 1
      omega

/-- A read of what was just written gives it back. -/
theorem Memory.read_write {m : Memory} (hm : m.wf = true) (a : Nat) (bs : List Byte) : (m.write a bs).read a bs.length = bs := by
  refine List.ext_getElem (by simp) fun i h1 h2 => ?_
  rw [Memory.getElem_read, Memory.get_write_in hm a bs h2]

/-- A read of other bytes than those written is as before. -/
theorem Memory.read_write_out (m : Memory) (a : Nat) (bs : List Byte) {c n : Nat} (h : c + n ≤ a ∨ a + bs.length ≤ c) :
    (m.write a bs).read c n = m.read c n := by
  refine List.ext_getElem (by simp) fun i h1 h2 => ?_
  rw [Memory.getElem_read, Memory.getElem_read, Memory.get_write_out _ _ _ (by simp at h1; omega)]

theorem Memory.all_filter {m : Memory} {p : Nat → Bool} (q : Host.Cell → Bool) (hm : m.all (fun c => p c.1) = true) :
    (m.filter q).all (fun c => p c.1) = true := by
  simp only [List.all_eq_true, List.mem_filter] at *
  exact fun x hx => hm x hx.1

theorem Memory.wf_filter {m : Memory} (q : Host.Cell → Bool) (hm : m.wf = true) : Memory.wf (m.filter q) = true := by
  induction m with
  | nil => rfl
  | cons e r ih =>
    obtain ⟨x, d⟩ := e
    obtain ⟨hd, hr, hw⟩ := Memory.wf_cons.mp hm
    simp only [List.filter]
    split
    · exact Memory.wf_cons.mpr ⟨hd, Memory.all_filter (p := fun y => decide (x < y)) q hr, ih hw⟩
    · exact ih hw

theorem Memory.wf_zero {m : Memory} (hm : m.wf = true) (a n : Nat) : (m.zero a n).wf = true := Memory.wf_filter _ hm

theorem Memory.get_zero_out (m : Memory) (a n : Nat) {c : Nat} (h : c < a ∨ a + n ≤ c) : (m.zero a n).get c = m.get c := by
  induction m with
  | nil => rfl
  | cons e r ih =>
    obtain ⟨x, d⟩ := e
    unfold Memory.zero at *
    rw [List.filter_cons]
    split
    · simp only [Memory.get, ih]
    · next hq =>
      have : x ≠ c := by
        intro hx
        subst hx
        simp at hq
        omega
      simp only [Memory.get, this, if_false, ih]

theorem Memory.get_zero_in (m : Memory) (a n : Nat) {c : Nat} (h : a ≤ c) (h' : c < a + n) : (m.zero a n).get c = 0 := by
  induction m with
  | nil => rfl
  | cons e r ih =>
    obtain ⟨x, d⟩ := e
    unfold Memory.zero at *
    rw [List.filter_cons]
    split
    · next hq =>
      have : x ≠ c := by
        intro hx
        subst hx
        simp at hq
        omega
      simp only [Memory.get, this, if_false, ih]
    · exact ih

end Sys2Proof.Machine
end

