-- ==== Sys2Proof/Laws/State.lean ====
section
/-! SUPPORT. One lemma per field per update of the state, and reads of the dictionary after writes to it. -/
namespace Sys2Proof.Machine
open Sys2Proof

@[simp] theorem setReg_pending (s : State) (i j v : Nat) : (setReg s i j v).pending = s.pending := rfl
@[simp] theorem setReg_mem (s : State) (i j v : Nat) : (setReg s i j v).mem = s.mem := rfl
@[simp] theorem setReg_host (s : State) (i j v : Nat) : (setReg s i j v).host = s.host := rfl
@[simp] theorem setReg_clk (s : State) (i j v : Nat) : (setReg s i j v).clk = s.clk := rfl
@[simp] theorem setReg_ctl (s : State) (i j v : Nat) : (setReg s i j v).ctl = s.ctl := rfl
@[simp] theorem setReg_tiles (s : State) (i j v : Nat) : (setReg s i j v).tiles = s.tiles := rfl
@[simp] theorem setReg_flags (s : State) (i j v : Nat) : (setReg s i j v).flags = s.flags := rfl
@[simp] theorem setReg_libero (s : State) (i j v : Nat) : (setReg s i j v).libero = s.libero := rfl
@[simp] theorem setReg_images (s : State) (i j v : Nat) : (setReg s i j v).images = s.images := rfl
@[simp] theorem setReg_cache (s : State) (i j v : Nat) : (setReg s i j v).cache = s.cache := rfl
@[simp] theorem setReg_windows (s : State) (i j v : Nat) : (setReg s i j v).windows = s.windows := rfl
@[simp] theorem setReg_sync (s : State) (i j v : Nat) : (setReg s i j v).sync = s.sync := rfl
@[simp] theorem setReg_syncWins (s : State) (i j v : Nat) : (setReg s i j v).syncWins = s.syncWins := rfl
@[simp] theorem setReg_lanes (s : State) (i j v : Nat) : (setReg s i j v).lanes = s.lanes := rfl
@[simp] theorem setReg_cdf (s : State) (i j v : Nat) : (setReg s i j v).cdf = s.cdf := rfl
@[simp] theorem setReg_fns (s : State) (i j v : Nat) : (setReg s i j v).fns = s.fns := rfl
@[simp] theorem setReg_pkgs (s : State) (i j v : Nat) : (setReg s i j v).pkgs = s.pkgs := rfl
@[simp] theorem setReg_queue (s : State) (i j v : Nat) : (setReg s i j v).queue = s.queue := rfl
@[simp] theorem setReg_works (s : State) (i j v : Nat) : (setReg s i j v).works = s.works := rfl
@[simp] theorem setReg_jobs (s : State) (i j v : Nat) : (setReg s i j v).jobs = s.jobs := rfl
@[simp] theorem setReg_frames (s : State) (i j v : Nat) : (setReg s i j v).frames = s.frames := rfl
@[simp] theorem setReg_allocs (s : State) (i j v : Nat) : (setReg s i j v).allocs = s.allocs := rfl
@[simp] theorem setReg_ctxs (s : State) (i j v : Nat) : (setReg s i j v).ctxs = s.ctxs := rfl
@[simp] theorem setReg_rings (s : State) (i j v : Nat) : (setReg s i j v).rings = s.rings := rfl
@[simp] theorem setReg_srings (s : State) (i j v : Nat) : (setReg s i j v).srings = s.srings := rfl
@[simp] theorem setReg_flows (s : State) (i j v : Nat) : (setReg s i j v).flows = s.flows := rfl
@[simp] theorem setReg_media (s : State) (i j v : Nat) : (setReg s i j v).media = s.media := rfl
@[simp] theorem setReg_cores (s : State) (i j v : Nat) : (setReg s i j v).cores = s.cores := rfl
@[simp] theorem setReg_fabric (s : State) (i j v : Nat) : (setReg s i j v).fabric = s.fabric := rfl
@[simp] theorem setReg_umpire (s : State) (i j v : Nat) : (setReg s i j v).umpire = s.umpire := rfl
@[simp] theorem setReg_power (s : State) (i j v : Nat) : (setReg s i j v).power = s.power := rfl
@[simp] theorem setReg_protect (s : State) (i j v : Nat) : (setReg s i j v).protect = s.protect := rfl
@[simp] theorem setReg_carried (s : State) (i j v : Nat) : (setReg s i j v).carried = s.carried := rfl
@[simp] theorem setReg_traceAt (s : State) (i j v : Nat) : (setReg s i j v).traceAt = s.traceAt := rfl
@[simp] theorem setReg_out (s : State) (i j v : Nat) : (setReg s i j v).out = s.out := rfl
@[simp] theorem setReg_free (s : State) (i j v : Nat) : (setReg s i j v).free = s.free := rfl

@[simp] theorem setBlob_pending (s : State) (i j : Nat) (bs : List Byte) : (setBlob s i j bs).pending = s.pending := rfl
@[simp] theorem setBlob_mem (s : State) (i j : Nat) (bs : List Byte) : (setBlob s i j bs).mem = s.mem := rfl
@[simp] theorem setBlob_host (s : State) (i j : Nat) (bs : List Byte) : (setBlob s i j bs).host = s.host := rfl
@[simp] theorem setBlob_clk (s : State) (i j : Nat) (bs : List Byte) : (setBlob s i j bs).clk = s.clk := rfl
@[simp] theorem setBlob_ctl (s : State) (i j : Nat) (bs : List Byte) : (setBlob s i j bs).ctl = s.ctl := rfl
@[simp] theorem setBlob_tiles (s : State) (i j : Nat) (bs : List Byte) : (setBlob s i j bs).tiles = s.tiles := rfl
@[simp] theorem setBlob_flags (s : State) (i j : Nat) (bs : List Byte) : (setBlob s i j bs).flags = s.flags := rfl
@[simp] theorem setBlob_libero (s : State) (i j : Nat) (bs : List Byte) : (setBlob s i j bs).libero = s.libero := rfl
@[simp] theorem setBlob_images (s : State) (i j : Nat) (bs : List Byte) : (setBlob s i j bs).images = s.images := rfl
@[simp] theorem setBlob_cache (s : State) (i j : Nat) (bs : List Byte) : (setBlob s i j bs).cache = s.cache := rfl
@[simp] theorem setBlob_windows (s : State) (i j : Nat) (bs : List Byte) : (setBlob s i j bs).windows = s.windows := rfl
@[simp] theorem setBlob_sync (s : State) (i j : Nat) (bs : List Byte) : (setBlob s i j bs).sync = s.sync := rfl
@[simp] theorem setBlob_syncWins (s : State) (i j : Nat) (bs : List Byte) : (setBlob s i j bs).syncWins = s.syncWins := rfl
@[simp] theorem setBlob_lanes (s : State) (i j : Nat) (bs : List Byte) : (setBlob s i j bs).lanes = s.lanes := rfl
@[simp] theorem setBlob_cdf (s : State) (i j : Nat) (bs : List Byte) : (setBlob s i j bs).cdf = s.cdf := rfl
@[simp] theorem setBlob_fns (s : State) (i j : Nat) (bs : List Byte) : (setBlob s i j bs).fns = s.fns := rfl
@[simp] theorem setBlob_pkgs (s : State) (i j : Nat) (bs : List Byte) : (setBlob s i j bs).pkgs = s.pkgs := rfl
@[simp] theorem setBlob_queue (s : State) (i j : Nat) (bs : List Byte) : (setBlob s i j bs).queue = s.queue := rfl
@[simp] theorem setBlob_works (s : State) (i j : Nat) (bs : List Byte) : (setBlob s i j bs).works = s.works := rfl
@[simp] theorem setBlob_jobs (s : State) (i j : Nat) (bs : List Byte) : (setBlob s i j bs).jobs = s.jobs := rfl
@[simp] theorem setBlob_frames (s : State) (i j : Nat) (bs : List Byte) : (setBlob s i j bs).frames = s.frames := rfl
@[simp] theorem setBlob_allocs (s : State) (i j : Nat) (bs : List Byte) : (setBlob s i j bs).allocs = s.allocs := rfl
@[simp] theorem setBlob_ctxs (s : State) (i j : Nat) (bs : List Byte) : (setBlob s i j bs).ctxs = s.ctxs := rfl
@[simp] theorem setBlob_rings (s : State) (i j : Nat) (bs : List Byte) : (setBlob s i j bs).rings = s.rings := rfl
@[simp] theorem setBlob_srings (s : State) (i j : Nat) (bs : List Byte) : (setBlob s i j bs).srings = s.srings := rfl
@[simp] theorem setBlob_flows (s : State) (i j : Nat) (bs : List Byte) : (setBlob s i j bs).flows = s.flows := rfl
@[simp] theorem setBlob_media (s : State) (i j : Nat) (bs : List Byte) : (setBlob s i j bs).media = s.media := rfl
@[simp] theorem setBlob_cores (s : State) (i j : Nat) (bs : List Byte) : (setBlob s i j bs).cores = s.cores := rfl
@[simp] theorem setBlob_fabric (s : State) (i j : Nat) (bs : List Byte) : (setBlob s i j bs).fabric = s.fabric := rfl
@[simp] theorem setBlob_umpire (s : State) (i j : Nat) (bs : List Byte) : (setBlob s i j bs).umpire = s.umpire := rfl
@[simp] theorem setBlob_power (s : State) (i j : Nat) (bs : List Byte) : (setBlob s i j bs).power = s.power := rfl
@[simp] theorem setBlob_protect (s : State) (i j : Nat) (bs : List Byte) : (setBlob s i j bs).protect = s.protect := rfl
@[simp] theorem setBlob_carried (s : State) (i j : Nat) (bs : List Byte) : (setBlob s i j bs).carried = s.carried := rfl
@[simp] theorem setBlob_traceAt (s : State) (i j : Nat) (bs : List Byte) : (setBlob s i j bs).traceAt = s.traceAt := rfl
@[simp] theorem setBlob_out (s : State) (i j : Nat) (bs : List Byte) : (setBlob s i j bs).out = s.out := rfl
@[simp] theorem setBlob_free (s : State) (i j : Nat) (bs : List Byte) : (setBlob s i j bs).free = s.free := rfl

@[simp] theorem emit_pending (s : State) (e : Emission) : (emit s e).pending = s.pending := rfl
@[simp] theorem emit_dict (s : State) (e : Emission) : (emit s e).dict = s.dict := rfl
@[simp] theorem emit_mem (s : State) (e : Emission) : (emit s e).mem = s.mem := rfl
@[simp] theorem emit_host (s : State) (e : Emission) : (emit s e).host = s.host := rfl
@[simp] theorem emit_clk (s : State) (e : Emission) : (emit s e).clk = s.clk := rfl
@[simp] theorem emit_ctl (s : State) (e : Emission) : (emit s e).ctl = s.ctl := rfl
@[simp] theorem emit_tiles (s : State) (e : Emission) : (emit s e).tiles = s.tiles := rfl
@[simp] theorem emit_flags (s : State) (e : Emission) : (emit s e).flags = s.flags := rfl
@[simp] theorem emit_libero (s : State) (e : Emission) : (emit s e).libero = s.libero := rfl
@[simp] theorem emit_images (s : State) (e : Emission) : (emit s e).images = s.images := rfl
@[simp] theorem emit_cache (s : State) (e : Emission) : (emit s e).cache = s.cache := rfl
@[simp] theorem emit_windows (s : State) (e : Emission) : (emit s e).windows = s.windows := rfl
@[simp] theorem emit_sync (s : State) (e : Emission) : (emit s e).sync = s.sync := rfl
@[simp] theorem emit_syncWins (s : State) (e : Emission) : (emit s e).syncWins = s.syncWins := rfl
@[simp] theorem emit_lanes (s : State) (e : Emission) : (emit s e).lanes = s.lanes := rfl
@[simp] theorem emit_cdf (s : State) (e : Emission) : (emit s e).cdf = s.cdf := rfl
@[simp] theorem emit_fns (s : State) (e : Emission) : (emit s e).fns = s.fns := rfl
@[simp] theorem emit_pkgs (s : State) (e : Emission) : (emit s e).pkgs = s.pkgs := rfl
@[simp] theorem emit_queue (s : State) (e : Emission) : (emit s e).queue = s.queue := rfl
@[simp] theorem emit_works (s : State) (e : Emission) : (emit s e).works = s.works := rfl
@[simp] theorem emit_jobs (s : State) (e : Emission) : (emit s e).jobs = s.jobs := rfl
@[simp] theorem emit_frames (s : State) (e : Emission) : (emit s e).frames = s.frames := rfl
@[simp] theorem emit_allocs (s : State) (e : Emission) : (emit s e).allocs = s.allocs := rfl
@[simp] theorem emit_ctxs (s : State) (e : Emission) : (emit s e).ctxs = s.ctxs := rfl
@[simp] theorem emit_rings (s : State) (e : Emission) : (emit s e).rings = s.rings := rfl
@[simp] theorem emit_srings (s : State) (e : Emission) : (emit s e).srings = s.srings := rfl
@[simp] theorem emit_flows (s : State) (e : Emission) : (emit s e).flows = s.flows := rfl
@[simp] theorem emit_media (s : State) (e : Emission) : (emit s e).media = s.media := rfl
@[simp] theorem emit_cores (s : State) (e : Emission) : (emit s e).cores = s.cores := rfl
@[simp] theorem emit_fabric (s : State) (e : Emission) : (emit s e).fabric = s.fabric := rfl
@[simp] theorem emit_umpire (s : State) (e : Emission) : (emit s e).umpire = s.umpire := rfl
@[simp] theorem emit_power (s : State) (e : Emission) : (emit s e).power = s.power := rfl
@[simp] theorem emit_protect (s : State) (e : Emission) : (emit s e).protect = s.protect := rfl
@[simp] theorem emit_carried (s : State) (e : Emission) : (emit s e).carried = s.carried := rfl
@[simp] theorem emit_traceAt (s : State) (e : Emission) : (emit s e).traceAt = s.traceAt := rfl
@[simp] theorem emit_free (s : State) (e : Emission) : (emit s e).free = s.free := rfl

@[simp] theorem putTile_pending (s : State) (t : Nat) (x : Tile) : (putTile s t x).pending = s.pending := rfl
@[simp] theorem putTile_dict (s : State) (t : Nat) (x : Tile) : (putTile s t x).dict = s.dict := rfl
@[simp] theorem putTile_mem (s : State) (t : Nat) (x : Tile) : (putTile s t x).mem = s.mem := rfl
@[simp] theorem putTile_host (s : State) (t : Nat) (x : Tile) : (putTile s t x).host = s.host := rfl
@[simp] theorem putTile_clk (s : State) (t : Nat) (x : Tile) : (putTile s t x).clk = s.clk := rfl
@[simp] theorem putTile_ctl (s : State) (t : Nat) (x : Tile) : (putTile s t x).ctl = s.ctl := rfl
@[simp] theorem putTile_flags (s : State) (t : Nat) (x : Tile) : (putTile s t x).flags = s.flags := rfl
@[simp] theorem putTile_libero (s : State) (t : Nat) (x : Tile) : (putTile s t x).libero = s.libero := rfl
@[simp] theorem putTile_images (s : State) (t : Nat) (x : Tile) : (putTile s t x).images = s.images := rfl
@[simp] theorem putTile_cache (s : State) (t : Nat) (x : Tile) : (putTile s t x).cache = s.cache := rfl
@[simp] theorem putTile_windows (s : State) (t : Nat) (x : Tile) : (putTile s t x).windows = s.windows := rfl
@[simp] theorem putTile_sync (s : State) (t : Nat) (x : Tile) : (putTile s t x).sync = s.sync := rfl
@[simp] theorem putTile_syncWins (s : State) (t : Nat) (x : Tile) : (putTile s t x).syncWins = s.syncWins := rfl
@[simp] theorem putTile_lanes (s : State) (t : Nat) (x : Tile) : (putTile s t x).lanes = s.lanes := rfl
@[simp] theorem putTile_cdf (s : State) (t : Nat) (x : Tile) : (putTile s t x).cdf = s.cdf := rfl
@[simp] theorem putTile_fns (s : State) (t : Nat) (x : Tile) : (putTile s t x).fns = s.fns := rfl
@[simp] theorem putTile_pkgs (s : State) (t : Nat) (x : Tile) : (putTile s t x).pkgs = s.pkgs := rfl
@[simp] theorem putTile_queue (s : State) (t : Nat) (x : Tile) : (putTile s t x).queue = s.queue := rfl
@[simp] theorem putTile_works (s : State) (t : Nat) (x : Tile) : (putTile s t x).works = s.works := rfl
@[simp] theorem putTile_jobs (s : State) (t : Nat) (x : Tile) : (putTile s t x).jobs = s.jobs := rfl
@[simp] theorem putTile_frames (s : State) (t : Nat) (x : Tile) : (putTile s t x).frames = s.frames := rfl
@[simp] theorem putTile_allocs (s : State) (t : Nat) (x : Tile) : (putTile s t x).allocs = s.allocs := rfl
@[simp] theorem putTile_ctxs (s : State) (t : Nat) (x : Tile) : (putTile s t x).ctxs = s.ctxs := rfl
@[simp] theorem putTile_rings (s : State) (t : Nat) (x : Tile) : (putTile s t x).rings = s.rings := rfl
@[simp] theorem putTile_srings (s : State) (t : Nat) (x : Tile) : (putTile s t x).srings = s.srings := rfl
@[simp] theorem putTile_flows (s : State) (t : Nat) (x : Tile) : (putTile s t x).flows = s.flows := rfl
@[simp] theorem putTile_media (s : State) (t : Nat) (x : Tile) : (putTile s t x).media = s.media := rfl
@[simp] theorem putTile_cores (s : State) (t : Nat) (x : Tile) : (putTile s t x).cores = s.cores := rfl
@[simp] theorem putTile_fabric (s : State) (t : Nat) (x : Tile) : (putTile s t x).fabric = s.fabric := rfl
@[simp] theorem putTile_umpire (s : State) (t : Nat) (x : Tile) : (putTile s t x).umpire = s.umpire := rfl
@[simp] theorem putTile_power (s : State) (t : Nat) (x : Tile) : (putTile s t x).power = s.power := rfl
@[simp] theorem putTile_protect (s : State) (t : Nat) (x : Tile) : (putTile s t x).protect = s.protect := rfl
@[simp] theorem putTile_carried (s : State) (t : Nat) (x : Tile) : (putTile s t x).carried = s.carried := rfl
@[simp] theorem putTile_traceAt (s : State) (t : Nat) (x : Tile) : (putTile s t x).traceAt = s.traceAt := rfl
@[simp] theorem putTile_out (s : State) (t : Nat) (x : Tile) : (putTile s t x).out = s.out := rfl
@[simp] theorem putTile_free (s : State) (t : Nat) (x : Tile) : (putTile s t x).free = s.free := rfl

@[simp] theorem putLane_pending (s : State) (l : Nat) (x : Lane) : (putLane s l x).pending = s.pending := rfl
@[simp] theorem putLane_dict (s : State) (l : Nat) (x : Lane) : (putLane s l x).dict = s.dict := rfl
@[simp] theorem putLane_mem (s : State) (l : Nat) (x : Lane) : (putLane s l x).mem = s.mem := rfl
@[simp] theorem putLane_host (s : State) (l : Nat) (x : Lane) : (putLane s l x).host = s.host := rfl
@[simp] theorem putLane_clk (s : State) (l : Nat) (x : Lane) : (putLane s l x).clk = s.clk := rfl
@[simp] theorem putLane_ctl (s : State) (l : Nat) (x : Lane) : (putLane s l x).ctl = s.ctl := rfl
@[simp] theorem putLane_tiles (s : State) (l : Nat) (x : Lane) : (putLane s l x).tiles = s.tiles := rfl
@[simp] theorem putLane_flags (s : State) (l : Nat) (x : Lane) : (putLane s l x).flags = s.flags := rfl
@[simp] theorem putLane_libero (s : State) (l : Nat) (x : Lane) : (putLane s l x).libero = s.libero := rfl
@[simp] theorem putLane_images (s : State) (l : Nat) (x : Lane) : (putLane s l x).images = s.images := rfl
@[simp] theorem putLane_cache (s : State) (l : Nat) (x : Lane) : (putLane s l x).cache = s.cache := rfl
@[simp] theorem putLane_windows (s : State) (l : Nat) (x : Lane) : (putLane s l x).windows = s.windows := rfl
@[simp] theorem putLane_sync (s : State) (l : Nat) (x : Lane) : (putLane s l x).sync = s.sync := rfl
@[simp] theorem putLane_syncWins (s : State) (l : Nat) (x : Lane) : (putLane s l x).syncWins = s.syncWins := rfl
@[simp] theorem putLane_cdf (s : State) (l : Nat) (x : Lane) : (putLane s l x).cdf = s.cdf := rfl
@[simp] theorem putLane_fns (s : State) (l : Nat) (x : Lane) : (putLane s l x).fns = s.fns := rfl
@[simp] theorem putLane_pkgs (s : State) (l : Nat) (x : Lane) : (putLane s l x).pkgs = s.pkgs := rfl
@[simp] theorem putLane_queue (s : State) (l : Nat) (x : Lane) : (putLane s l x).queue = s.queue := rfl
@[simp] theorem putLane_works (s : State) (l : Nat) (x : Lane) : (putLane s l x).works = s.works := rfl
@[simp] theorem putLane_jobs (s : State) (l : Nat) (x : Lane) : (putLane s l x).jobs = s.jobs := rfl
@[simp] theorem putLane_frames (s : State) (l : Nat) (x : Lane) : (putLane s l x).frames = s.frames := rfl
@[simp] theorem putLane_allocs (s : State) (l : Nat) (x : Lane) : (putLane s l x).allocs = s.allocs := rfl
@[simp] theorem putLane_ctxs (s : State) (l : Nat) (x : Lane) : (putLane s l x).ctxs = s.ctxs := rfl
@[simp] theorem putLane_rings (s : State) (l : Nat) (x : Lane) : (putLane s l x).rings = s.rings := rfl
@[simp] theorem putLane_srings (s : State) (l : Nat) (x : Lane) : (putLane s l x).srings = s.srings := rfl
@[simp] theorem putLane_flows (s : State) (l : Nat) (x : Lane) : (putLane s l x).flows = s.flows := rfl
@[simp] theorem putLane_media (s : State) (l : Nat) (x : Lane) : (putLane s l x).media = s.media := rfl
@[simp] theorem putLane_cores (s : State) (l : Nat) (x : Lane) : (putLane s l x).cores = s.cores := rfl
@[simp] theorem putLane_fabric (s : State) (l : Nat) (x : Lane) : (putLane s l x).fabric = s.fabric := rfl
@[simp] theorem putLane_umpire (s : State) (l : Nat) (x : Lane) : (putLane s l x).umpire = s.umpire := rfl
@[simp] theorem putLane_power (s : State) (l : Nat) (x : Lane) : (putLane s l x).power = s.power := rfl
@[simp] theorem putLane_protect (s : State) (l : Nat) (x : Lane) : (putLane s l x).protect = s.protect := rfl
@[simp] theorem putLane_carried (s : State) (l : Nat) (x : Lane) : (putLane s l x).carried = s.carried := rfl
@[simp] theorem putLane_traceAt (s : State) (l : Nat) (x : Lane) : (putLane s l x).traceAt = s.traceAt := rfl
@[simp] theorem putLane_out (s : State) (l : Nat) (x : Lane) : (putLane s l x).out = s.out := rfl
@[simp] theorem putLane_free (s : State) (l : Nat) (x : Lane) : (putLane s l x).free = s.free := rfl

@[simp] theorem putCtx_pending (s : State) (k : Nat) (c : Ctx) : (putCtx s k c).pending = s.pending := rfl
@[simp] theorem putCtx_dict (s : State) (k : Nat) (c : Ctx) : (putCtx s k c).dict = s.dict := rfl
@[simp] theorem putCtx_mem (s : State) (k : Nat) (c : Ctx) : (putCtx s k c).mem = s.mem := rfl
@[simp] theorem putCtx_host (s : State) (k : Nat) (c : Ctx) : (putCtx s k c).host = s.host := rfl
@[simp] theorem putCtx_clk (s : State) (k : Nat) (c : Ctx) : (putCtx s k c).clk = s.clk := rfl
@[simp] theorem putCtx_ctl (s : State) (k : Nat) (c : Ctx) : (putCtx s k c).ctl = s.ctl := rfl
@[simp] theorem putCtx_tiles (s : State) (k : Nat) (c : Ctx) : (putCtx s k c).tiles = s.tiles := rfl
@[simp] theorem putCtx_flags (s : State) (k : Nat) (c : Ctx) : (putCtx s k c).flags = s.flags := rfl
@[simp] theorem putCtx_libero (s : State) (k : Nat) (c : Ctx) : (putCtx s k c).libero = s.libero := rfl
@[simp] theorem putCtx_images (s : State) (k : Nat) (c : Ctx) : (putCtx s k c).images = s.images := rfl
@[simp] theorem putCtx_cache (s : State) (k : Nat) (c : Ctx) : (putCtx s k c).cache = s.cache := rfl
@[simp] theorem putCtx_windows (s : State) (k : Nat) (c : Ctx) : (putCtx s k c).windows = s.windows := rfl
@[simp] theorem putCtx_sync (s : State) (k : Nat) (c : Ctx) : (putCtx s k c).sync = s.sync := rfl
@[simp] theorem putCtx_syncWins (s : State) (k : Nat) (c : Ctx) : (putCtx s k c).syncWins = s.syncWins := rfl
@[simp] theorem putCtx_lanes (s : State) (k : Nat) (c : Ctx) : (putCtx s k c).lanes = s.lanes := rfl
@[simp] theorem putCtx_cdf (s : State) (k : Nat) (c : Ctx) : (putCtx s k c).cdf = s.cdf := rfl
@[simp] theorem putCtx_fns (s : State) (k : Nat) (c : Ctx) : (putCtx s k c).fns = s.fns := rfl
@[simp] theorem putCtx_pkgs (s : State) (k : Nat) (c : Ctx) : (putCtx s k c).pkgs = s.pkgs := rfl
@[simp] theorem putCtx_queue (s : State) (k : Nat) (c : Ctx) : (putCtx s k c).queue = s.queue := rfl
@[simp] theorem putCtx_works (s : State) (k : Nat) (c : Ctx) : (putCtx s k c).works = s.works := rfl
@[simp] theorem putCtx_jobs (s : State) (k : Nat) (c : Ctx) : (putCtx s k c).jobs = s.jobs := rfl
@[simp] theorem putCtx_frames (s : State) (k : Nat) (c : Ctx) : (putCtx s k c).frames = s.frames := rfl
@[simp] theorem putCtx_allocs (s : State) (k : Nat) (c : Ctx) : (putCtx s k c).allocs = s.allocs := rfl
@[simp] theorem putCtx_rings (s : State) (k : Nat) (c : Ctx) : (putCtx s k c).rings = s.rings := rfl
@[simp] theorem putCtx_srings (s : State) (k : Nat) (c : Ctx) : (putCtx s k c).srings = s.srings := rfl
@[simp] theorem putCtx_flows (s : State) (k : Nat) (c : Ctx) : (putCtx s k c).flows = s.flows := rfl
@[simp] theorem putCtx_media (s : State) (k : Nat) (c : Ctx) : (putCtx s k c).media = s.media := rfl
@[simp] theorem putCtx_cores (s : State) (k : Nat) (c : Ctx) : (putCtx s k c).cores = s.cores := rfl
@[simp] theorem putCtx_fabric (s : State) (k : Nat) (c : Ctx) : (putCtx s k c).fabric = s.fabric := rfl
@[simp] theorem putCtx_umpire (s : State) (k : Nat) (c : Ctx) : (putCtx s k c).umpire = s.umpire := rfl
@[simp] theorem putCtx_power (s : State) (k : Nat) (c : Ctx) : (putCtx s k c).power = s.power := rfl
@[simp] theorem putCtx_protect (s : State) (k : Nat) (c : Ctx) : (putCtx s k c).protect = s.protect := rfl
@[simp] theorem putCtx_carried (s : State) (k : Nat) (c : Ctx) : (putCtx s k c).carried = s.carried := rfl
@[simp] theorem putCtx_traceAt (s : State) (k : Nat) (c : Ctx) : (putCtx s k c).traceAt = s.traceAt := rfl
@[simp] theorem putCtx_out (s : State) (k : Nat) (c : Ctx) : (putCtx s k c).out = s.out := rfl
@[simp] theorem putCtx_free (s : State) (k : Nat) (c : Ctx) : (putCtx s k c).free = s.free := rfl

@[simp] theorem setCtxState_pending (s : State) (k v : Nat) : (setCtxState s k v).pending = s.pending := rfl
@[simp] theorem setCtxState_mem (s : State) (k v : Nat) : (setCtxState s k v).mem = s.mem := rfl
@[simp] theorem setCtxState_host (s : State) (k v : Nat) : (setCtxState s k v).host = s.host := rfl
@[simp] theorem setCtxState_clk (s : State) (k v : Nat) : (setCtxState s k v).clk = s.clk := rfl
@[simp] theorem setCtxState_ctl (s : State) (k v : Nat) : (setCtxState s k v).ctl = s.ctl := rfl
@[simp] theorem setCtxState_tiles (s : State) (k v : Nat) : (setCtxState s k v).tiles = s.tiles := rfl
@[simp] theorem setCtxState_flags (s : State) (k v : Nat) : (setCtxState s k v).flags = s.flags := rfl
@[simp] theorem setCtxState_libero (s : State) (k v : Nat) : (setCtxState s k v).libero = s.libero := rfl
@[simp] theorem setCtxState_images (s : State) (k v : Nat) : (setCtxState s k v).images = s.images := rfl
@[simp] theorem setCtxState_cache (s : State) (k v : Nat) : (setCtxState s k v).cache = s.cache := rfl
@[simp] theorem setCtxState_windows (s : State) (k v : Nat) : (setCtxState s k v).windows = s.windows := rfl
@[simp] theorem setCtxState_sync (s : State) (k v : Nat) : (setCtxState s k v).sync = s.sync := rfl
@[simp] theorem setCtxState_syncWins (s : State) (k v : Nat) : (setCtxState s k v).syncWins = s.syncWins := rfl
@[simp] theorem setCtxState_lanes (s : State) (k v : Nat) : (setCtxState s k v).lanes = s.lanes := rfl
@[simp] theorem setCtxState_cdf (s : State) (k v : Nat) : (setCtxState s k v).cdf = s.cdf := rfl
@[simp] theorem setCtxState_fns (s : State) (k v : Nat) : (setCtxState s k v).fns = s.fns := rfl
@[simp] theorem setCtxState_pkgs (s : State) (k v : Nat) : (setCtxState s k v).pkgs = s.pkgs := rfl
@[simp] theorem setCtxState_queue (s : State) (k v : Nat) : (setCtxState s k v).queue = s.queue := rfl
@[simp] theorem setCtxState_works (s : State) (k v : Nat) : (setCtxState s k v).works = s.works := rfl
@[simp] theorem setCtxState_jobs (s : State) (k v : Nat) : (setCtxState s k v).jobs = s.jobs := rfl
@[simp] theorem setCtxState_frames (s : State) (k v : Nat) : (setCtxState s k v).frames = s.frames := rfl
@[simp] theorem setCtxState_allocs (s : State) (k v : Nat) : (setCtxState s k v).allocs = s.allocs := rfl
@[simp] theorem setCtxState_ctxs (s : State) (k v : Nat) : (setCtxState s k v).ctxs = s.ctxs := rfl
@[simp] theorem setCtxState_rings (s : State) (k v : Nat) : (setCtxState s k v).rings = s.rings := rfl
@[simp] theorem setCtxState_srings (s : State) (k v : Nat) : (setCtxState s k v).srings = s.srings := rfl
@[simp] theorem setCtxState_flows (s : State) (k v : Nat) : (setCtxState s k v).flows = s.flows := rfl
@[simp] theorem setCtxState_media (s : State) (k v : Nat) : (setCtxState s k v).media = s.media := rfl
@[simp] theorem setCtxState_cores (s : State) (k v : Nat) : (setCtxState s k v).cores = s.cores := rfl
@[simp] theorem setCtxState_fabric (s : State) (k v : Nat) : (setCtxState s k v).fabric = s.fabric := rfl
@[simp] theorem setCtxState_umpire (s : State) (k v : Nat) : (setCtxState s k v).umpire = s.umpire := rfl
@[simp] theorem setCtxState_power (s : State) (k v : Nat) : (setCtxState s k v).power = s.power := rfl
@[simp] theorem setCtxState_protect (s : State) (k v : Nat) : (setCtxState s k v).protect = s.protect := rfl
@[simp] theorem setCtxState_carried (s : State) (k v : Nat) : (setCtxState s k v).carried = s.carried := rfl
@[simp] theorem setCtxState_traceAt (s : State) (k v : Nat) : (setCtxState s k v).traceAt = s.traceAt := rfl
@[simp] theorem setCtxState_out (s : State) (k v : Nat) : (setCtxState s k v).out = s.out := rfl
@[simp] theorem setCtxState_free (s : State) (k v : Nat) : (setCtxState s k v).free = s.free := rfl

@[simp] theorem putWork_pending (s : State) (w : Work) : (putWork s w).pending = s.pending := rfl
@[simp] theorem putWork_dict (s : State) (w : Work) : (putWork s w).dict = s.dict := rfl
@[simp] theorem putWork_mem (s : State) (w : Work) : (putWork s w).mem = s.mem := rfl
@[simp] theorem putWork_host (s : State) (w : Work) : (putWork s w).host = s.host := rfl
@[simp] theorem putWork_clk (s : State) (w : Work) : (putWork s w).clk = s.clk := rfl
@[simp] theorem putWork_ctl (s : State) (w : Work) : (putWork s w).ctl = s.ctl := rfl
@[simp] theorem putWork_tiles (s : State) (w : Work) : (putWork s w).tiles = s.tiles := rfl
@[simp] theorem putWork_flags (s : State) (w : Work) : (putWork s w).flags = s.flags := rfl
@[simp] theorem putWork_libero (s : State) (w : Work) : (putWork s w).libero = s.libero := rfl
@[simp] theorem putWork_images (s : State) (w : Work) : (putWork s w).images = s.images := rfl
@[simp] theorem putWork_cache (s : State) (w : Work) : (putWork s w).cache = s.cache := rfl
@[simp] theorem putWork_windows (s : State) (w : Work) : (putWork s w).windows = s.windows := rfl
@[simp] theorem putWork_sync (s : State) (w : Work) : (putWork s w).sync = s.sync := rfl
@[simp] theorem putWork_syncWins (s : State) (w : Work) : (putWork s w).syncWins = s.syncWins := rfl
@[simp] theorem putWork_lanes (s : State) (w : Work) : (putWork s w).lanes = s.lanes := rfl
@[simp] theorem putWork_cdf (s : State) (w : Work) : (putWork s w).cdf = s.cdf := rfl
@[simp] theorem putWork_fns (s : State) (w : Work) : (putWork s w).fns = s.fns := rfl
@[simp] theorem putWork_pkgs (s : State) (w : Work) : (putWork s w).pkgs = s.pkgs := rfl
@[simp] theorem putWork_queue (s : State) (w : Work) : (putWork s w).queue = s.queue := rfl
@[simp] theorem putWork_jobs (s : State) (w : Work) : (putWork s w).jobs = s.jobs := rfl
@[simp] theorem putWork_frames (s : State) (w : Work) : (putWork s w).frames = s.frames := rfl
@[simp] theorem putWork_allocs (s : State) (w : Work) : (putWork s w).allocs = s.allocs := rfl
@[simp] theorem putWork_ctxs (s : State) (w : Work) : (putWork s w).ctxs = s.ctxs := rfl
@[simp] theorem putWork_rings (s : State) (w : Work) : (putWork s w).rings = s.rings := rfl
@[simp] theorem putWork_srings (s : State) (w : Work) : (putWork s w).srings = s.srings := rfl
@[simp] theorem putWork_flows (s : State) (w : Work) : (putWork s w).flows = s.flows := rfl
@[simp] theorem putWork_media (s : State) (w : Work) : (putWork s w).media = s.media := rfl
@[simp] theorem putWork_cores (s : State) (w : Work) : (putWork s w).cores = s.cores := rfl
@[simp] theorem putWork_fabric (s : State) (w : Work) : (putWork s w).fabric = s.fabric := rfl
@[simp] theorem putWork_umpire (s : State) (w : Work) : (putWork s w).umpire = s.umpire := rfl
@[simp] theorem putWork_power (s : State) (w : Work) : (putWork s w).power = s.power := rfl
@[simp] theorem putWork_protect (s : State) (w : Work) : (putWork s w).protect = s.protect := rfl
@[simp] theorem putWork_carried (s : State) (w : Work) : (putWork s w).carried = s.carried := rfl
@[simp] theorem putWork_traceAt (s : State) (w : Work) : (putWork s w).traceAt = s.traceAt := rfl
@[simp] theorem putWork_out (s : State) (w : Work) : (putWork s w).out = s.out := rfl
@[simp] theorem putWork_free (s : State) (w : Work) : (putWork s w).free = s.free := rfl

@[simp] theorem addWork_pending (s : State) (w : Work) : (addWork s w).pending = s.pending := rfl
@[simp] theorem addWork_dict (s : State) (w : Work) : (addWork s w).dict = s.dict := rfl
@[simp] theorem addWork_mem (s : State) (w : Work) : (addWork s w).mem = s.mem := rfl
@[simp] theorem addWork_host (s : State) (w : Work) : (addWork s w).host = s.host := rfl
@[simp] theorem addWork_clk (s : State) (w : Work) : (addWork s w).clk = s.clk := rfl
@[simp] theorem addWork_ctl (s : State) (w : Work) : (addWork s w).ctl = s.ctl := rfl
@[simp] theorem addWork_tiles (s : State) (w : Work) : (addWork s w).tiles = (forgetWork s w.id).tiles := rfl
@[simp] theorem addWork_flags (s : State) (w : Work) : (addWork s w).flags = s.flags := rfl
@[simp] theorem addWork_libero (s : State) (w : Work) : (addWork s w).libero = s.libero := rfl
@[simp] theorem addWork_images (s : State) (w : Work) : (addWork s w).images = s.images := rfl
@[simp] theorem addWork_cache (s : State) (w : Work) : (addWork s w).cache = s.cache := rfl
@[simp] theorem addWork_windows (s : State) (w : Work) : (addWork s w).windows = s.windows := rfl
@[simp] theorem addWork_sync (s : State) (w : Work) : (addWork s w).sync = s.sync := rfl
@[simp] theorem addWork_syncWins (s : State) (w : Work) :
    (addWork s w).syncWins = s.syncWins.filter fun x => !(x.work == w.id) := rfl
@[simp] theorem addWork_works (s : State) (w : Work) : (addWork s w).works = s.works ++ [w] := rfl
@[simp] theorem addWork_lanes (s : State) (w : Work) : (addWork s w).lanes = s.lanes := rfl
@[simp] theorem addWork_cdf (s : State) (w : Work) : (addWork s w).cdf = s.cdf := rfl
@[simp] theorem addWork_fns (s : State) (w : Work) : (addWork s w).fns = s.fns := rfl
@[simp] theorem addWork_pkgs (s : State) (w : Work) : (addWork s w).pkgs = s.pkgs := rfl
@[simp] theorem addWork_queue (s : State) (w : Work) : (addWork s w).queue = s.queue := rfl
@[simp] theorem addWork_jobs (s : State) (w : Work) : (addWork s w).jobs = s.jobs := rfl
@[simp] theorem addWork_frames (s : State) (w : Work) : (addWork s w).frames = s.frames := rfl
@[simp] theorem addWork_allocs (s : State) (w : Work) : (addWork s w).allocs = s.allocs := rfl
@[simp] theorem addWork_ctxs (s : State) (w : Work) : (addWork s w).ctxs = s.ctxs := rfl
@[simp] theorem addWork_rings (s : State) (w : Work) : (addWork s w).rings = s.rings := rfl
@[simp] theorem addWork_srings (s : State) (w : Work) : (addWork s w).srings = s.srings := rfl
@[simp] theorem addWork_flows (s : State) (w : Work) : (addWork s w).flows = s.flows := rfl
@[simp] theorem addWork_media (s : State) (w : Work) : (addWork s w).media = s.media := rfl
@[simp] theorem addWork_cores (s : State) (w : Work) : (addWork s w).cores = s.cores := rfl
@[simp] theorem addWork_fabric (s : State) (w : Work) : (addWork s w).fabric = s.fabric := rfl
@[simp] theorem addWork_umpire (s : State) (w : Work) : (addWork s w).umpire = s.umpire := rfl
@[simp] theorem addWork_power (s : State) (w : Work) : (addWork s w).power = s.power := rfl
@[simp] theorem addWork_protect (s : State) (w : Work) : (addWork s w).protect = s.protect := rfl
@[simp] theorem addWork_carried (s : State) (w : Work) : (addWork s w).carried = s.carried := rfl
@[simp] theorem addWork_traceAt (s : State) (w : Work) : (addWork s w).traceAt = s.traceAt := rfl
@[simp] theorem addWork_out (s : State) (w : Work) : (addWork s w).out = s.out := rfl
@[simp] theorem addWork_free (s : State) (w : Work) : (addWork s w).free = s.free := rfl

@[simp] theorem dropWork_pending (s : State) (w : WorkId) : (dropWork s w).pending = s.pending := rfl
@[simp] theorem dropWork_dict (s : State) (w : WorkId) : (dropWork s w).dict = s.dict := rfl
@[simp] theorem dropWork_mem (s : State) (w : WorkId) : (dropWork s w).mem = s.mem := rfl
@[simp] theorem dropWork_host (s : State) (w : WorkId) : (dropWork s w).host = s.host := rfl
@[simp] theorem dropWork_clk (s : State) (w : WorkId) : (dropWork s w).clk = s.clk := rfl
@[simp] theorem dropWork_ctl (s : State) (w : WorkId) : (dropWork s w).ctl = s.ctl := rfl
@[simp] theorem dropWork_tiles (s : State) (w : WorkId) : (dropWork s w).tiles = s.tiles := rfl
@[simp] theorem dropWork_flags (s : State) (w : WorkId) : (dropWork s w).flags = s.flags := rfl
@[simp] theorem dropWork_libero (s : State) (w : WorkId) : (dropWork s w).libero = s.libero := rfl
@[simp] theorem dropWork_images (s : State) (w : WorkId) : (dropWork s w).images = s.images := rfl
@[simp] theorem dropWork_cache (s : State) (w : WorkId) : (dropWork s w).cache = s.cache := rfl
@[simp] theorem dropWork_windows (s : State) (w : WorkId) : (dropWork s w).windows = s.windows := rfl
@[simp] theorem dropWork_sync (s : State) (w : WorkId) : (dropWork s w).sync = s.sync := rfl
@[simp] theorem dropWork_syncWins (s : State) (w : WorkId) : (dropWork s w).syncWins = s.syncWins := rfl
@[simp] theorem dropWork_lanes (s : State) (w : WorkId) : (dropWork s w).lanes = s.lanes := rfl
@[simp] theorem dropWork_cdf (s : State) (w : WorkId) : (dropWork s w).cdf = s.cdf := rfl
@[simp] theorem dropWork_fns (s : State) (w : WorkId) : (dropWork s w).fns = s.fns := rfl
@[simp] theorem dropWork_pkgs (s : State) (w : WorkId) : (dropWork s w).pkgs = s.pkgs := rfl
@[simp] theorem dropWork_queue (s : State) (w : WorkId) : (dropWork s w).queue = s.queue := rfl
@[simp] theorem dropWork_jobs (s : State) (w : WorkId) : (dropWork s w).jobs = s.jobs := rfl
@[simp] theorem dropWork_frames (s : State) (w : WorkId) : (dropWork s w).frames = s.frames := rfl
@[simp] theorem dropWork_allocs (s : State) (w : WorkId) : (dropWork s w).allocs = s.allocs := rfl
@[simp] theorem dropWork_ctxs (s : State) (w : WorkId) : (dropWork s w).ctxs = s.ctxs := rfl
@[simp] theorem dropWork_rings (s : State) (w : WorkId) : (dropWork s w).rings = s.rings := rfl
@[simp] theorem dropWork_srings (s : State) (w : WorkId) : (dropWork s w).srings = s.srings := rfl
@[simp] theorem dropWork_flows (s : State) (w : WorkId) : (dropWork s w).flows = s.flows := rfl
@[simp] theorem dropWork_media (s : State) (w : WorkId) : (dropWork s w).media = s.media := rfl
@[simp] theorem dropWork_cores (s : State) (w : WorkId) : (dropWork s w).cores = s.cores := rfl
@[simp] theorem dropWork_fabric (s : State) (w : WorkId) : (dropWork s w).fabric = s.fabric := rfl
@[simp] theorem dropWork_umpire (s : State) (w : WorkId) : (dropWork s w).umpire = s.umpire := rfl
@[simp] theorem dropWork_power (s : State) (w : WorkId) : (dropWork s w).power = s.power := rfl
@[simp] theorem dropWork_protect (s : State) (w : WorkId) : (dropWork s w).protect = s.protect := rfl
@[simp] theorem dropWork_carried (s : State) (w : WorkId) : (dropWork s w).carried = s.carried := rfl
@[simp] theorem dropWork_traceAt (s : State) (w : WorkId) : (dropWork s w).traceAt = s.traceAt := rfl
@[simp] theorem dropWork_out (s : State) (w : WorkId) : (dropWork s w).out = s.out := rfl
@[simp] theorem dropWork_free (s : State) (w : WorkId) : (dropWork s w).free = s.free := rfl

@[simp] theorem passTime_pending (s : State) (dt : Nat) : (passTime s dt).pending = s.pending := rfl
@[simp] theorem passTime_dict (s : State) (dt : Nat) : (passTime s dt).dict = s.dict := rfl
@[simp] theorem passTime_mem (s : State) (dt : Nat) : (passTime s dt).mem = s.mem := rfl
@[simp] theorem passTime_host (s : State) (dt : Nat) : (passTime s dt).host = s.host := rfl
@[simp] theorem passTime_ctl (s : State) (dt : Nat) : (passTime s dt).ctl = s.ctl := rfl
@[simp] theorem passTime_tiles (s : State) (dt : Nat) : (passTime s dt).tiles = s.tiles := rfl
@[simp] theorem passTime_flags (s : State) (dt : Nat) : (passTime s dt).flags = s.flags := rfl
@[simp] theorem passTime_libero (s : State) (dt : Nat) : (passTime s dt).libero = s.libero := rfl
@[simp] theorem passTime_images (s : State) (dt : Nat) : (passTime s dt).images = s.images := rfl
@[simp] theorem passTime_cache (s : State) (dt : Nat) : (passTime s dt).cache = s.cache := rfl
@[simp] theorem passTime_windows (s : State) (dt : Nat) : (passTime s dt).windows = s.windows := rfl
@[simp] theorem passTime_sync (s : State) (dt : Nat) : (passTime s dt).sync = s.sync := rfl
@[simp] theorem passTime_syncWins (s : State) (dt : Nat) : (passTime s dt).syncWins = s.syncWins := rfl
@[simp] theorem passTime_lanes (s : State) (dt : Nat) : (passTime s dt).lanes = s.lanes := rfl
@[simp] theorem passTime_cdf (s : State) (dt : Nat) : (passTime s dt).cdf = s.cdf := rfl
@[simp] theorem passTime_fns (s : State) (dt : Nat) : (passTime s dt).fns = s.fns := rfl
@[simp] theorem passTime_pkgs (s : State) (dt : Nat) : (passTime s dt).pkgs = s.pkgs := rfl
@[simp] theorem passTime_queue (s : State) (dt : Nat) : (passTime s dt).queue = s.queue := rfl
@[simp] theorem passTime_works (s : State) (dt : Nat) : (passTime s dt).works = s.works := rfl
@[simp] theorem passTime_jobs (s : State) (dt : Nat) : (passTime s dt).jobs = s.jobs := rfl
@[simp] theorem passTime_frames (s : State) (dt : Nat) : (passTime s dt).frames = s.frames := rfl
@[simp] theorem passTime_allocs (s : State) (dt : Nat) : (passTime s dt).allocs = s.allocs := rfl
@[simp] theorem passTime_ctxs (s : State) (dt : Nat) : (passTime s dt).ctxs = s.ctxs := rfl
@[simp] theorem passTime_rings (s : State) (dt : Nat) : (passTime s dt).rings = s.rings := rfl
@[simp] theorem passTime_srings (s : State) (dt : Nat) : (passTime s dt).srings = s.srings := rfl
@[simp] theorem passTime_flows (s : State) (dt : Nat) : (passTime s dt).flows = s.flows := rfl
@[simp] theorem passTime_media (s : State) (dt : Nat) : (passTime s dt).media = s.media := rfl
@[simp] theorem passTime_cores (s : State) (dt : Nat) : (passTime s dt).cores = s.cores := rfl
@[simp] theorem passTime_fabric (s : State) (dt : Nat) : (passTime s dt).fabric = s.fabric := rfl
@[simp] theorem passTime_umpire (s : State) (dt : Nat) : (passTime s dt).umpire = s.umpire := rfl
@[simp] theorem passTime_power (s : State) (dt : Nat) : (passTime s dt).power = s.power := rfl
@[simp] theorem passTime_protect (s : State) (dt : Nat) : (passTime s dt).protect = s.protect := rfl
@[simp] theorem passTime_carried (s : State) (dt : Nat) : (passTime s dt).carried = s.carried := rfl
@[simp] theorem passTime_traceAt (s : State) (dt : Nat) : (passTime s dt).traceAt = s.traceAt := rfl
@[simp] theorem passTime_out (s : State) (dt : Nat) : (passTime s dt).out = s.out := rfl
@[simp] theorem passTime_free (s : State) (dt : Nat) : (passTime s dt).free = s.free := rfl

@[simp] theorem releaseRange_pending (s : State) (b : Nat) : (releaseRange s b).pending = s.pending := rfl
@[simp] theorem releaseRange_dict (s : State) (b : Nat) : (releaseRange s b).dict = s.dict := rfl
@[simp] theorem releaseRange_mem (s : State) (b : Nat) : (releaseRange s b).mem = s.mem := rfl
@[simp] theorem releaseRange_host (s : State) (b : Nat) : (releaseRange s b).host = s.host := rfl
@[simp] theorem releaseRange_clk (s : State) (b : Nat) : (releaseRange s b).clk = s.clk := rfl
@[simp] theorem releaseRange_ctl (s : State) (b : Nat) : (releaseRange s b).ctl = s.ctl := rfl
@[simp] theorem releaseRange_tiles (s : State) (b : Nat) : (releaseRange s b).tiles = s.tiles := rfl
@[simp] theorem releaseRange_flags (s : State) (b : Nat) : (releaseRange s b).flags = s.flags := rfl
@[simp] theorem releaseRange_libero (s : State) (b : Nat) : (releaseRange s b).libero = s.libero := rfl
@[simp] theorem releaseRange_images (s : State) (b : Nat) : (releaseRange s b).images = s.images := rfl
@[simp] theorem releaseRange_cache (s : State) (b : Nat) : (releaseRange s b).cache = s.cache := rfl
@[simp] theorem releaseRange_windows (s : State) (b : Nat) : (releaseRange s b).windows = s.windows := rfl
@[simp] theorem releaseRange_sync (s : State) (b : Nat) : (releaseRange s b).sync = s.sync := rfl
@[simp] theorem releaseRange_syncWins (s : State) (b : Nat) : (releaseRange s b).syncWins = s.syncWins := rfl
@[simp] theorem releaseRange_lanes (s : State) (b : Nat) : (releaseRange s b).lanes = s.lanes := rfl
@[simp] theorem releaseRange_cdf (s : State) (b : Nat) : (releaseRange s b).cdf = s.cdf := rfl
@[simp] theorem releaseRange_fns (s : State) (b : Nat) : (releaseRange s b).fns = s.fns := rfl
@[simp] theorem releaseRange_pkgs (s : State) (b : Nat) : (releaseRange s b).pkgs = s.pkgs := rfl
@[simp] theorem releaseRange_queue (s : State) (b : Nat) : (releaseRange s b).queue = s.queue := rfl
@[simp] theorem releaseRange_works (s : State) (b : Nat) : (releaseRange s b).works = s.works := rfl
@[simp] theorem releaseRange_jobs (s : State) (b : Nat) : (releaseRange s b).jobs = s.jobs := rfl
@[simp] theorem releaseRange_frames (s : State) (b : Nat) : (releaseRange s b).frames = s.frames := rfl
@[simp] theorem releaseRange_ctxs (s : State) (b : Nat) : (releaseRange s b).ctxs = s.ctxs := rfl
@[simp] theorem releaseRange_rings (s : State) (b : Nat) : (releaseRange s b).rings = s.rings := rfl
@[simp] theorem releaseRange_srings (s : State) (b : Nat) : (releaseRange s b).srings = s.srings := rfl
@[simp] theorem releaseRange_flows (s : State) (b : Nat) : (releaseRange s b).flows = s.flows := rfl
@[simp] theorem releaseRange_media (s : State) (b : Nat) : (releaseRange s b).media = s.media := rfl
@[simp] theorem releaseRange_cores (s : State) (b : Nat) : (releaseRange s b).cores = s.cores := rfl
@[simp] theorem releaseRange_fabric (s : State) (b : Nat) : (releaseRange s b).fabric = s.fabric := rfl
@[simp] theorem releaseRange_umpire (s : State) (b : Nat) : (releaseRange s b).umpire = s.umpire := rfl
@[simp] theorem releaseRange_power (s : State) (b : Nat) : (releaseRange s b).power = s.power := rfl
@[simp] theorem releaseRange_protect (s : State) (b : Nat) : (releaseRange s b).protect = s.protect := rfl
@[simp] theorem releaseRange_carried (s : State) (b : Nat) : (releaseRange s b).carried = s.carried := rfl
@[simp] theorem releaseRange_traceAt (s : State) (b : Nat) : (releaseRange s b).traceAt = s.traceAt := rfl
@[simp] theorem releaseRange_out (s : State) (b : Nat) : (releaseRange s b).out = s.out := rfl
@[simp] theorem releaseRange_free (s : State) (b : Nat) : (releaseRange s b).free = s.free := rfl

@[simp] theorem orTileFlags_pending (s : State) (t f : Nat) : (orTileFlags s t f).pending = s.pending := rfl
@[simp] theorem orTileFlags_dict (s : State) (t f : Nat) : (orTileFlags s t f).dict = s.dict := rfl
@[simp] theorem orTileFlags_mem (s : State) (t f : Nat) : (orTileFlags s t f).mem = s.mem := rfl
@[simp] theorem orTileFlags_host (s : State) (t f : Nat) : (orTileFlags s t f).host = s.host := rfl
@[simp] theorem orTileFlags_clk (s : State) (t f : Nat) : (orTileFlags s t f).clk = s.clk := rfl
@[simp] theorem orTileFlags_ctl (s : State) (t f : Nat) : (orTileFlags s t f).ctl = s.ctl := rfl
@[simp] theorem orTileFlags_tiles (s : State) (t f : Nat) : (orTileFlags s t f).tiles = s.tiles := rfl
@[simp] theorem orTileFlags_libero (s : State) (t f : Nat) : (orTileFlags s t f).libero = s.libero := rfl
@[simp] theorem orTileFlags_images (s : State) (t f : Nat) : (orTileFlags s t f).images = s.images := rfl
@[simp] theorem orTileFlags_cache (s : State) (t f : Nat) : (orTileFlags s t f).cache = s.cache := rfl
@[simp] theorem orTileFlags_windows (s : State) (t f : Nat) : (orTileFlags s t f).windows = s.windows := rfl
@[simp] theorem orTileFlags_sync (s : State) (t f : Nat) : (orTileFlags s t f).sync = s.sync := rfl
@[simp] theorem orTileFlags_syncWins (s : State) (t f : Nat) : (orTileFlags s t f).syncWins = s.syncWins := rfl
@[simp] theorem orTileFlags_lanes (s : State) (t f : Nat) : (orTileFlags s t f).lanes = s.lanes := rfl
@[simp] theorem orTileFlags_cdf (s : State) (t f : Nat) : (orTileFlags s t f).cdf = s.cdf := rfl
@[simp] theorem orTileFlags_fns (s : State) (t f : Nat) : (orTileFlags s t f).fns = s.fns := rfl
@[simp] theorem orTileFlags_pkgs (s : State) (t f : Nat) : (orTileFlags s t f).pkgs = s.pkgs := rfl
@[simp] theorem orTileFlags_queue (s : State) (t f : Nat) : (orTileFlags s t f).queue = s.queue := rfl
@[simp] theorem orTileFlags_works (s : State) (t f : Nat) : (orTileFlags s t f).works = s.works := rfl
@[simp] theorem orTileFlags_jobs (s : State) (t f : Nat) : (orTileFlags s t f).jobs = s.jobs := rfl
@[simp] theorem orTileFlags_frames (s : State) (t f : Nat) : (orTileFlags s t f).frames = s.frames := rfl
@[simp] theorem orTileFlags_allocs (s : State) (t f : Nat) : (orTileFlags s t f).allocs = s.allocs := rfl
@[simp] theorem orTileFlags_ctxs (s : State) (t f : Nat) : (orTileFlags s t f).ctxs = s.ctxs := rfl
@[simp] theorem orTileFlags_rings (s : State) (t f : Nat) : (orTileFlags s t f).rings = s.rings := rfl
@[simp] theorem orTileFlags_srings (s : State) (t f : Nat) : (orTileFlags s t f).srings = s.srings := rfl
@[simp] theorem orTileFlags_flows (s : State) (t f : Nat) : (orTileFlags s t f).flows = s.flows := rfl
@[simp] theorem orTileFlags_media (s : State) (t f : Nat) : (orTileFlags s t f).media = s.media := rfl
@[simp] theorem orTileFlags_cores (s : State) (t f : Nat) : (orTileFlags s t f).cores = s.cores := rfl
@[simp] theorem orTileFlags_fabric (s : State) (t f : Nat) : (orTileFlags s t f).fabric = s.fabric := rfl
@[simp] theorem orTileFlags_umpire (s : State) (t f : Nat) : (orTileFlags s t f).umpire = s.umpire := rfl
@[simp] theorem orTileFlags_power (s : State) (t f : Nat) : (orTileFlags s t f).power = s.power := rfl
@[simp] theorem orTileFlags_protect (s : State) (t f : Nat) : (orTileFlags s t f).protect = s.protect := rfl
@[simp] theorem orTileFlags_carried (s : State) (t f : Nat) : (orTileFlags s t f).carried = s.carried := rfl
@[simp] theorem orTileFlags_traceAt (s : State) (t f : Nat) : (orTileFlags s t f).traceAt = s.traceAt := rfl
@[simp] theorem orTileFlags_out (s : State) (t f : Nat) : (orTileFlags s t f).out = s.out := rfl
@[simp] theorem orTileFlags_free (s : State) (t f : Nat) : (orTileFlags s t f).free = s.free := rfl

@[simp] theorem signalSync_pending (s : State) (o : Nat) : (signalSync s o).pending = s.pending := rfl
@[simp] theorem signalSync_dict (s : State) (o : Nat) : (signalSync s o).dict = s.dict := rfl
@[simp] theorem signalSync_mem (s : State) (o : Nat) : (signalSync s o).mem = s.mem := rfl
@[simp] theorem signalSync_host (s : State) (o : Nat) : (signalSync s o).host = s.host := rfl
@[simp] theorem signalSync_clk (s : State) (o : Nat) : (signalSync s o).clk = s.clk := rfl
@[simp] theorem signalSync_ctl (s : State) (o : Nat) : (signalSync s o).ctl = s.ctl := rfl
@[simp] theorem signalSync_tiles (s : State) (o : Nat) : (signalSync s o).tiles = s.tiles := rfl
@[simp] theorem signalSync_flags (s : State) (o : Nat) : (signalSync s o).flags = s.flags := rfl
@[simp] theorem signalSync_libero (s : State) (o : Nat) : (signalSync s o).libero = s.libero := rfl
@[simp] theorem signalSync_images (s : State) (o : Nat) : (signalSync s o).images = s.images := rfl
@[simp] theorem signalSync_cache (s : State) (o : Nat) : (signalSync s o).cache = s.cache := rfl
@[simp] theorem signalSync_windows (s : State) (o : Nat) : (signalSync s o).windows = s.windows := rfl
@[simp] theorem signalSync_syncWins (s : State) (o : Nat) : (signalSync s o).syncWins = s.syncWins := rfl
@[simp] theorem signalSync_lanes (s : State) (o : Nat) : (signalSync s o).lanes = s.lanes := rfl
@[simp] theorem signalSync_cdf (s : State) (o : Nat) : (signalSync s o).cdf = s.cdf := rfl
@[simp] theorem signalSync_fns (s : State) (o : Nat) : (signalSync s o).fns = s.fns := rfl
@[simp] theorem signalSync_pkgs (s : State) (o : Nat) : (signalSync s o).pkgs = s.pkgs := rfl
@[simp] theorem signalSync_queue (s : State) (o : Nat) : (signalSync s o).queue = s.queue := rfl
@[simp] theorem signalSync_works (s : State) (o : Nat) : (signalSync s o).works = s.works := rfl
@[simp] theorem signalSync_jobs (s : State) (o : Nat) : (signalSync s o).jobs = s.jobs := rfl
@[simp] theorem signalSync_frames (s : State) (o : Nat) : (signalSync s o).frames = s.frames := rfl
@[simp] theorem signalSync_allocs (s : State) (o : Nat) : (signalSync s o).allocs = s.allocs := rfl
@[simp] theorem signalSync_ctxs (s : State) (o : Nat) : (signalSync s o).ctxs = s.ctxs := rfl
@[simp] theorem signalSync_rings (s : State) (o : Nat) : (signalSync s o).rings = s.rings := rfl
@[simp] theorem signalSync_srings (s : State) (o : Nat) : (signalSync s o).srings = s.srings := rfl
@[simp] theorem signalSync_flows (s : State) (o : Nat) : (signalSync s o).flows = s.flows := rfl
@[simp] theorem signalSync_media (s : State) (o : Nat) : (signalSync s o).media = s.media := rfl
@[simp] theorem signalSync_cores (s : State) (o : Nat) : (signalSync s o).cores = s.cores := rfl
@[simp] theorem signalSync_fabric (s : State) (o : Nat) : (signalSync s o).fabric = s.fabric := rfl
@[simp] theorem signalSync_umpire (s : State) (o : Nat) : (signalSync s o).umpire = s.umpire := rfl
@[simp] theorem signalSync_power (s : State) (o : Nat) : (signalSync s o).power = s.power := rfl
@[simp] theorem signalSync_protect (s : State) (o : Nat) : (signalSync s o).protect = s.protect := rfl
@[simp] theorem signalSync_carried (s : State) (o : Nat) : (signalSync s o).carried = s.carried := rfl
@[simp] theorem signalSync_traceAt (s : State) (o : Nat) : (signalSync s o).traceAt = s.traceAt := rfl
@[simp] theorem signalSync_out (s : State) (o : Nat) : (signalSync s o).out = s.out := rfl
@[simp] theorem signalSync_free (s : State) (o : Nat) : (signalSync s o).free = s.free := rfl

/-! ### The dictionary: a read after a write -/

theorem objKey_inj {i j i' j' : Nat} (h : j < 256) (h' : j' < 256) : objKey i j = objKey i' j' ↔ i = i' ∧ j = j' := by
  unfold objKey
  omega

/-- The subentry just written reads as what was written. -/
@[simp] theorem getReg_setReg_same (s : State) (i j v : Nat) : getReg (setReg s i j v) i j = v := by
  unfold getReg setReg putReg
  dsimp only
  split
  · next h => rw [ngetD_ndel_same, h]
  · exact ngetD_nset_same ..

/-- Any other subentry reads as before. -/
theorem getReg_setReg_ne (s : State) {i j i' j' : Nat} (v : Nat) (h : objKey i j ≠ objKey i' j') :
    getReg (setReg s i j v) i' j' = getReg s i' j' := by
  unfold getReg setReg putReg
  dsimp only
  split
  · exact ngetD_ndel_ne _ _ h
  · exact ngetD_nset_ne _ _ _ h

theorem getReg_setReg (s : State) (i j v i' j' : Nat) (h : j < 256) (h' : j' < 256) :
    getReg (setReg s i j v) i' j' = if i = i' ∧ j = j' then v else getReg s i' j' := by
  split
  · next e => obtain ⟨rfl, rfl⟩ := e; exact getReg_setReg_same ..
  · next e => exact getReg_setReg_ne s v (mt (objKey_inj h h').mp e)

@[simp] theorem getBlob_setReg (s : State) (i j v i' j' : Nat) : getBlob (setReg s i j v) i' j' = getBlob s i' j' := rfl
@[simp] theorem inForceReg_setReg (s : State) (i j v i' j' : Nat) : inForceReg (setReg s i j v) i' j' = inForceReg s i' j' := rfl

/-- The str or blob subentry just written reads as what was written. -/
@[simp] theorem getBlob_setBlob_same (s : State) (i j : Nat) (bs : List Byte) : getBlob (setBlob s i j bs) i j = bs := by
  unfold getBlob setBlob
  dsimp only
  split
  · next h => rw [ngetD_ndel_same, h]
  · exact ngetD_nset_same ..

theorem getBlob_setBlob_ne (s : State) {i j i' j' : Nat} (bs : List Byte) (h : objKey i j ≠ objKey i' j') :
    getBlob (setBlob s i j bs) i' j' = getBlob s i' j' := by
  unfold getBlob setBlob
  dsimp only
  split
  · exact ngetD_ndel_ne _ _ h
  · exact ngetD_nset_ne _ _ _ h

@[simp] theorem getReg_setBlob (s : State) (i j : Nat) (bs : List Byte) (i' j' : Nat) : getReg (setBlob s i j bs) i' j' = getReg s i' j' := rfl

/-- Reads of the dictionary depend on it alone. -/
theorem getReg_congr {s t : State} (h : t.dict = s.dict) (i j : Nat) : getReg t i j = getReg s i j := by unfold getReg; rw [h]
theorem getBlob_congr {s t : State} (h : t.dict = s.dict) (i j : Nat) : getBlob t i j = getBlob s i j := by unfold getBlob; rw [h]

/-! ### Tables -/

@[simp] theorem tileOf_putTile_same (s : State) (t : Nat) (x : Tile) : tileOf (putTile s t x) t = x := by
  unfold tileOf putTile
  dsimp only
  split
  · next h => rw [ngetD_ndel_same, h]
  · exact ngetD_nset_same ..

theorem tileOf_putTile_ne (s : State) {t u : Nat} (x : Tile) (h : t ≠ u) : tileOf (putTile s t x) u = tileOf s u := by
  unfold tileOf putTile
  dsimp only
  split
  · exact ngetD_ndel_ne _ _ h
  · exact ngetD_nset_ne _ _ _ h

@[simp] theorem laneOf_putLane_same (s : State) (l : Nat) (x : Lane) : laneOf (putLane s l x) l = x := by simp [laneOf, putLane]
theorem laneOf_putLane_ne (s : State) {l k : Nat} (x : Lane) (h : l ≠ k) : laneOf (putLane s l x) k = laneOf s k := by
  unfold laneOf putLane
  exact ngetD_nset_ne _ _ _ h
@[simp] theorem ctxOf_putCtx_same (s : State) (k : Nat) (c : Ctx) : ctxOf (putCtx s k c) k = c := by simp [ctxOf, putCtx]
theorem ctxOf_putCtx_ne (s : State) {k l : Nat} (c : Ctx) (h : k ≠ l) : ctxOf (putCtx s k c) l = ctxOf s l := by
  unfold ctxOf putCtx
  exact ngetD_nset_ne _ _ _ h
@[simp] theorem syncValue_signalSync_same (s : State) (o : Nat) : syncValue (signalSync s o) o = wrap32 (syncValue s o + 1) := by
  simp [syncValue, signalSync]
theorem syncValue_signalSync_ne (s : State) {o p : Nat} (h : o ≠ p) : syncValue (signalSync s o) p = syncValue s p := by
  unfold syncValue signalSync
  exact ngetD_nset_ne _ _ _ h

@[simp] theorem raiseVector_log (s : State) (v : Nat) : (raiseVector s v).ctl.log = s.ctl.log := by unfold raiseVector; split <;> rfl
@[simp] theorem addReg_clk (s : State) (i j n : Nat) : (addReg s i j n).clk = s.clk := by unfold addReg; split <;> rfl
@[simp] theorem addReg_ctl (s : State) (i j n : Nat) : (addReg s i j n).ctl = s.ctl := by unfold addReg; split <;> rfl

theorem counterOf_congr {s t : State} (h : t.clk = s.clk) : counterOf t = counterOf s := by unfold counterOf period; rw [h]

/-- R396: the newest entry of the fault log after `logFault`. -/
theorem logFault_log (s : State) (code severity kind unit ctx detail : Nat) :
    ∃ kept, (logFault s code severity kind unit ctx detail).ctl.log =
      kept ++ [⟨code, severity, kind, unit, ctx, getReg s 0xE000 0x01 + 1, detail, counterOf s⟩] := by
  unfold logFault
  extract_lets seq lost s1 s2 kept entry
  have hc : s2.clk = s.clk := by
    show s1.clk = s.clk
    unfold s1
    split <;> simp
  refine ⟨kept, ?_⟩
  rw [raiseVector_log]
  show kept ++ [entry] = _
  rw [show entry = ⟨code, severity, kind, unit, ctx, seq, detail, counterOf s⟩ by unfold entry; rw [counterOf_congr hc]]

end Sys2Proof.Machine
end

