-- ==== Sys2Proof/Tests/Slice0.lean ====
section
/-! SUPPORT. Small tests by evaluation: ill-formed commands are refused, values that the spec works out, and for each statement of
Certificates/Slice0/Obligations.lean that has hypotheses a theorem witness_<its name> that shows a concrete state and operands that meet them. -/
namespace Sys2Proof.Tests
open Sys2Proof Sys2Proof.Machine

-- Each kernel evaluation waits for the declarations before it, so these theorems are elaborated one after another.
set_option Elab.async false

/-- The part in service with cluster 0 in control. -/
def serving : State := { ctl := { phase := .service, inCharge := some 0, busMaster := true } }

/-- The part in service with these dictionary values stored, also as of the last boundary: (index, subindex, value). -/
def withRegs (l : List (Nat × Nat × Nat)) : State :=
  let s := l.foldl (fun s e => setReg s e.1 e.2.1 e.2.2) serving
  { s with dict := { s.dict with inForce := s.dict.regs } }

/-! ### Witnesses: the tick, the host interface, power -/

/-- The part in service one tick in, its counter seeded. -/
def seeded : State := { serving with clk := { seeded := true } }

theorem witness_TickBoundary : inService seeded = true ∧ (seeded.clk.ptpEver || seeded.clk.seeded) = true := by decide

theorem witness_TickTiming :
    (inService seeded = true ∧ 0 < period seeded ∧ seeded.clk.rate = getReg seeded 0x2000 0x01 ∧ seeded.clk.free = getReg seeded 0x2000 0x02) ∧
    (tickSource serving 1).qualified = false ∧ (tickSource serving 3).qualified = false ∧
    (let s : State := { serving with clk := { sources := [{ qualified := true }, { qualified := true }, { qualified := true }] } }
     (tickSource s 1).qualified = true ∧ (tickSource s 3).qualified = true ∧ getReg s 0x2000 0x07 ≠ 3 ∧
     (let t := setReg s 0x2000 0x07 3
      (tickSource t 3).qualified = true ∧ getReg t 0x2000 0x07 = 3) ∧
     (let t : State := { s with clk := { s.clk with now := 90000000000 } }
      inService t = true ∧ (tickSource t 2).since + 90000000000 ≤ (passTime t 0).clk.now)) ∧
    (runningCtxs serving = [] ∧ serving.clk.now % period serving = 0) ∧
    (let s := withRegs [(ctxIndex 16383, 0x3A, 8), (0x2100, 0x09, 8)]
     controlled s = true ∧ getReg s 0x2100 0x09 ≤ getReg s (ctxIndex 16383) 0x3A ∧ (getReg s (ctxIndex 16383) 0x3B).testBit 0 = false) := by
  decide +kernel

theorem witness_ServiceLoop : (controlled serving = true ∧ dmaOk serving = true) ∧
    (let s : State := { serving with ctl := { serving.ctl with busMaster := false } }
     controlled s = true ∧ dmaOk s = false ∧ s.ctl.linkUp = true) ∧
    (let s : State := { serving with ctl := { serving.ctl with linkUp := false } }
     controlled s = true ∧ s.ctl.linkUp = false) := by decide

theorem witness_Clusters :
    (inService serving = true ∧ serving.ctl.inCharge = some 0 ∧ serving.ctl.clusterOk.getD (1 - 0) false = true) ∧
    (let s : State := { serving with ctl := { serving.ctl with missed := 3 } }
     inService s = true ∧ s.ctl.inCharge = some 0 ∧ 3 ≤ s.ctl.missed) ∧ serving.ctl.missed < 3 ∧
    serving.ctl.coreDown.contains (4 * 7 + 3) = false ∧ roleHolder serving 7 3 = 3 ∧
    ({ serving with ctl := { serving.ctl with coreDown := [31] } } : State).ctl.coreDown.contains (4 * 7 + 3) = true := by decide

theorem witness_PciExpress :
    inService serving = true ∧ serving.mem.wf = true ∧ (serving.ctl.phase = .starting ∨ serving.ctl.phase = .service ∨ serving.ctl.phase = .failed) ∧
    ¬ ((8 = 4 ∨ 8 = 8) ∧ 4 % 8 = 0) ∧ inHostAlloc serving 4096 1 = false ∧
    inHostAlloc { serving with allocs := [⟨4096, 4096, 0, false, 0⟩] } 8191 1 = true := by decide +kernel

theorem witness_PowerLimits :
    inService serving = true ∧ controlled serving = true ∧
    (let s : State := { serving with power := { dies := [(7, { current := 14, sumEst := 1, nAvs := 1, nEst := 1 })] }, clk := { now := 3000000 } }
     let u := countReasons (passTime s 0)
     inService s = true ∧ (diePower u 7).current < 15 ∧ stepDue u.clk.now 3000000 (diePower u 7).breachAt = true ∧
     (diePower u 7).upAt + 3000000 ≤ u.clk.now ∧ (diePower s 7).sumEst ≠ 0 ∧ (diePower s 7).nAvs ≠ 0) ∧
    ((⟨19, 700, 5⟩ : RailReading).rail < 20 ∧ railLimit serving 7 < 10000000 ∧
      stepDue (passTime serving 0).clk.now 150000 (diePower serving 7).breachAt = true) ∧
    sumAbove (countReasons (passTime serving 0)) ((List.range 8).map fun d => Nat.min (targetPoint (countReasons (passTime serving 0)) d)
      (otherHold (diePower (countReasons (passTime serving 0)) d)))
      (inForceReg (countReasons (passTime serving 0)) 0x3000 0x01 * 1000 - fixedPower (countReasons (passTime serving 0))) = false := by
  decide +kernel

/-- Die 7 held at point 3 while it runs at 12, die 0 at 3 with nothing to hold it. -/
def stepping : State := { serving with power := { dies := [(0, { point := 3 }), (7, { current := 3 })] } }

theorem witness_ClocksAndVoltages :
    (inService stepping = true ∧ (diePower (countReasons (passTime stepping 0)) 0).point < wantedPoint (countReasons (passTime stepping 0)) 0 ∧
      wantedPoint (countReasons (passTime stepping 0)) 7 < (diePower (countReasons (passTime stepping 0)) 7).point) ∧
    nget serving.power.droopAt 9 = none ∧
    (let s : State := { serving with power := { droopAt := [(9, 0)] }, clk := { now := 3000000 } }
     inService s = true ∧ nget s.power.droopAt 9 = some 0 ∧ 0 * dieMHz (countReasons (passTime s 0)) 9 + 192000 ≤
       (countReasons (passTime s 0)).clk.now * dieMHz (countReasons (passTime s 0)) 9) := by decide +kernel

theorem witness_HeatAndRails :
    (inService serving = true ∧ 10 * (getReg serving 0x3000 0x03 : Int) ≤ 1050 ∧
      stepDue (passTime serving 0).clk.now 300000 (diePower serving 7).tempAt = true) ∧
    (let s : State := { serving with ctl := { serving.ctl with vstbyOff := false } }
     s.ctl.vstbyOff = false ∧ s.ctl.phase ≠ .off ∧ s.ctl.tripped = none ∧ (9 < 10 ∨ (16 ≤ 9 ∧ 9 < 40)) ∧ (39 < 10 ∨ (16 ≤ 39 ∧ 39 < 40))) ∧
    (let s : State := { serving with power := { warnings := [(15, 0)], cleared := [(0, 0)] }, clk := { now := 30000000 } }
     let u := countReasons (passTime s 0)
     inService s = true ∧ nget s.power.warnings 15 = some 0 ∧ nget s.power.warnings ((15 + 8) % 16) = none ∧ 0 + 30000000 ≤ u.clk.now ∧
     nget s.power.cleared 0 = some 0 ∧ 0 + 3000000 ≤ u.clk.now ∧ holding u 0 = false) := by decide +kernel
/-! ### Witnesses: device memory, tables, contexts -/

/-- One host allocation of 64 KiB at address 4096, with these dictionary values. -/
def withAlloc (l : List (Nat × Nat × Nat)) : State := { withRegs l with allocs := [⟨4096, 65536, 0, false, 0⟩] }

theorem witness_HostAllocations :
    (let s := withAlloc [(0x4000, 0x10, 1)]
     controlled s = true ∧ getReg s 0x4000 0x10 ≠ 0) ∧ getReg serving 0x4000 0x10 = 0 ∧
    placeRange (withAlloc [(0x4000, 0x10, 1), (0x4000, 0x01, 65536)]) (alignUp 4096 1) = none ∧
    (let s := withAlloc [(0x4000, 0x11, 4096)]
     hostAlloc s (getReg s 0x4000 0x11) = some ⟨4096, 65536, 0, false, 0⟩ ∧ allocInUse s ⟨4096, 65536, 0, false, 0⟩ = false) ∧
    (let s : State := { withAlloc [(0x4000, 0x11, 4096)] with queue := [.load 0 8192 64] }
     hostAlloc s (getReg s 0x4000 0x11) = some ⟨4096, 65536, 0, false, 0⟩ ∧ allocInUse s ⟨4096, 65536, 0, false, 0⟩ = true) ∧
    hostAlloc serving (getReg serving 0x4000 0x11) = none ∧
    (let s : State := { serving with allocs := [⟨4096, 4096, 0, true, 0⟩] }
     (s.allocs.find? fun x => x.base == 4096 && x.owner == 0 && x.freed) = some ⟨4096, 4096, 0, true, 0⟩ ∧
     allocInUse s ⟨4096, 4096, 0, true, 0⟩ = false) := by decide +kernel

/-- A range is found in an empty device memory, wherever firmware prefers it. -/
theorem witness_HostAllocations_place : (placeRange serving (alignUp 4096 1)).isSome = true := by
  unfold placeRange
  rw [if_neg (by decide +kernel)]
  by_cases h : Config.allocPlace serving.free % 4096 = 0 ∧ rangeFree serving (Config.allocPlace serving.free) (alignUp 4096 1) = true
  · simp [h]
  · simp only [h, if_false]
    decide +kernel

/-- Four corrected errors of one row of the last stack. -/
def rowErrors : State := { serving with protect := { rowErrors := List.replicate 4 (23, 5, 0) } }

theorem witness_StackFaults :
    (controlled serving = true ∧ getReg serving (stackIndex 23) 0x01 = 0 ∧ serving.protect.migrating = none) ∧
    (inService rowErrors = true ∧ getReg rowErrors (stackIndex 23) 0x01 ≤ 1 ∧ rowDue rowErrors 23 5 = true ∧
      getReg rowErrors (stackIndex 23) 0x04 < 7168) ∧
    getReg (withRegs [(stackIndex 23, 0x01, 1)]) (stackIndex 23) 0x01 ≠ 0 ∧
    (let s : State := { serving with protect := { migrating := some 23, rebuild := some (0, 2) } }
     controlled s = true ∧ s.protect.migrating = some 23 ∧ s.protect.rebuild = some (0, 2)) := by decide +kernel

/-- Peer 2 beyond link 95. -/
def linked (l : List (Nat × Nat × Nat)) : State := withAlloc ([(0x4100, 0x01, 1), (linkIndex 95, 0x02, 2), (linkIndex 95, 0x04, 2)] ++ l)

theorem witness_FabricMessages :
    (let s := linked [(0x4100, 0x0A, 2), (0x4100, 0x0C, 4096), (0x4100, 0x0D, 1)]
     controlled s = true ∧ getReg s 0x4100 0x0F ≠ 1 ∧ getReg s 0x4100 0x0D ≠ 0 ∧ getReg s 0x4100 0x0A ≠ ownAddress s ∧
     reachable s (getReg s 0x4100 0x0A) = true ∧ inHostAlloc s (getReg s 0x4100 0x0C) (getReg s 0x4100 0x0D) = true ∧
     getReg s 0x4100 0x0B + getReg s 0x4100 0x0D ≤ 1650000000000) ∧
    (let s := linked [(0x4100, 0x0F, 1), (0x1100, 0x0A, 1)]
     controlled s = true ∧ getReg s 0x4100 0x0F = 1 ∧ s.fabric.copyMsgs = [] ∧ getReg s 0x1100 0x0A ≠ 0 ∧ inHostAlloc s 4096 65536 = true ∧
     s.mem.wf = true) ∧
    ((0 : Nat) ≠ 4 ∧ (0xFFF : Nat) ≠ 5 ∧ 0xFFF < 0x1000) ∧
    (let s := withRegs [(0x4000, 0x07, 4096)]
     let i : MirrorItem := .input (.frame 0 0) [1]
     controlled s = true ∧ getReg s 0x4000 0x08 ≠ 4 ∧
     (((s.fabric.mirror.filter fun (e : Nat × MirrorItem) => e.1 != 2 || (!sameItem i e.2 && !itemDone i e.2)) ++ [(2, i)]).map fun (e : Nat × MirrorItem) => itemBytes e.2).foldl (· + ·) 0
       ≤ getReg s 0x4000 0x07) ∧
    (∀ w c, MirrorItem.input (.frame 0 0) [1] ≠ .entry w 4 c) ∧
    (let s : State := { withRegs [(0x4100, 0x09, 2), (0x4000, 0x08, 2)] with fabric := { mirrorGap := 8 } }
     controlled s = true ∧ mirrorOn s = true ∧ 8 ≤ s.fabric.mirrorGap) := by
  refine ⟨by decide +kernel, by decide +kernel, by decide, by decide +kernel, fun _ _ h => MirrorItem.noConfusion h, by decide +kernel⟩

theorem witness_StickyFlags :
    inService serving = true ∧ tileDisabled (withRegs [(0x5000, 0x04, 383)]) 383 = false ∧
    (let s : State := { serving with ctl := { serving.ctl with manifest := { disabled := [0] } } }
     inService s = true ∧ tileDisabled s (getReg s 0x5000 0x04) = true) := by decide +kernel

/-- A function slot with nothing bound, a switch pending, and its old bank held. -/
def fnState (f : FnSlot) : State := { withRegs [(0x5100, 0x21, 31)] with fns := [(31, f)] }

theorem witness_FunctionSlots :
    (let s := fnState {}
     controlled s = true ∧ parked s = false ∧ (fnSlot s (getReg s 0x5100 0x21)).binders = [] ∧ fnBusy (fnSlot s (getReg s 0x5100 0x21)) = false) ∧
    (fnSlot (fnState { binders := [0] }) 31).binders ≠ [] ∧
    ((fnSlot (fnState { next := some none }) 31).binders = [] ∧ fnBusy (fnSlot (fnState { next := some none }) 31) = true ∧
      (let s : State := { fnState { next := some none } with clk := { now := period serving } }
       controlled s = true ∧ (fnSlot s 31).next = some none ∧ s.clk.now % period s = 0 ∧ (fnSlot s 31).asked < counterOf s)) ∧
    (fnSlot serving 31).next = none ∧
    (let s := fnState { oldHeld := true }
     controlled s = true ∧ (fnSlot s 31).oldHeld = true ∧ ∀ w, w ∈ s.works → 31 ∉ w.oldSlots) := by decide +kernel

/-- A table set with one row, and the bank state in which bank 1 can be written. -/
def oneSet : TableSet := { id := 7, version := 1, kinds := [false], slots := [List.replicate 256 0] }
def banked : State := { withRegs [(0x5200, 0x07, 1), (0x5200, 0x0A, 7), (0x5200, 0x0B, 1)] with cdf := { banks := [{ sets := [oneSet] }, {}] } }

theorem witness_CodingTables :
    (controlled banked = true ∧ parked banked = false ∧ targetBusy banked = false ∧ oneSet ∈ activeSets banked ∧
      oneSet.id = getReg banked 0x5200 0x0A ∧ oneSet.version = getReg banked 0x5200 0x0B) ∧
    targetBusy serving = true ∧
    (let s : State := { serving with cdf := { pending := some ⟨0, none, [], []⟩ }, clk := { now := period serving } }
     s.cdf.pending = some ⟨0, none, [], []⟩ ∧ controlled s = true ∧ s.clk.now % period s = 0 ∧ 0 < counterOf s) ∧
    (let s : State := { withRegs [(slotIndex 4095, 0x01, 2)] with cdf := { pending := some ⟨0, some 4095, [], []⟩ }, queue := [.load 4095 0 1] }
     controlled s = true ∧ slotState s 4095 = 2 ∧ s.queue.length ≤ 1) ∧ serving.cdf.pending = none ∧ serving.clk.now % period serving = 0 ∧
    (let s : State := { serving with cdf := { held := [1] } }
     controlled s = true ∧ s.cdf.held.contains 1 = true ∧ bankBound s 1 = false) := by decide +kernel

/-- A file of 64 bytes at 4096 that names its own length, and a request of zeros in the same allocation. -/
def filed : State := { withAlloc [(slotIndex 4095, 0x02, 4096), (slotIndex 4095, 0x03, 64), (0x1300, 0x08, 4096), (0x1300, 0x09, 512)] with
  mem := Memory.write [] (4096 + 16) [64] }

theorem witness_PackagesAndKeys :
    (controlled filed = true ∧ parked filed = false ∧ slotState filed 4095 = 0 ∧ badRange filed 4096 64 = false ∧
      filed.mem.num (getReg filed (slotIndex 4095) 0x02 + 16) 8 = getReg filed (slotIndex 4095) 0x03) ∧
    (let s := withRegs [(slotIndex 4095, 0x01, 3)]
     controlled s = true ∧ parked s = false ∧ slotState s 4095 = 3 ∧ slotUsers s 4095 = 0) ∧
    (let s : State := { withRegs [(slotIndex 4095, 0x01, 3), (ctxIndex 0, 0x02, 1), (ctxIndex 0, 0x01, 4095)] with ctxs := [(0, {})] }
     slotState s 4095 = 3 ∧ slotUsers s 4095 ≠ 0) ∧
    (let s : State := { filed with queue := [.load 4095 4096 64], dict := (setReg filed (slotIndex 4095) 0x01 1).dict }
     s.queue = [.load 4095 4096 64] ∧ slotState s 4095 = 1 ∧ ([true, false].all fun ok => match runLoad (fresh s).2 4095 4096 64 ok with | .error _ => true | .ok _ => false) = true) ∧
    (({ filed with queue := [.unload 0] } : State).queue ≠ [] ∧ filed.queue = [] ∧ getReg filed 0x1300 0x09 = 512 ∧ badRange filed (getReg filed 0x1300 0x08) 512 = false ∧
      (keyRefused filed .host (filed.mem.read (getReg filed 0x1300 0x08) 512)).isSome = true) := by decide +kernel
/-! ### Witnesses: contexts, commits, media -/

/-- Context 16383 in state `st` with these settings beside, one allocation at 4096. -/
def ctxIn (st : Nat) (l : List (Nat × Nat)) : State := withAlloc ((ctxIndex 16383, 0x02, st) :: l.map fun e => (ctxIndex 16383, e.1, e.2))

/-- A Zstd frame that holds its content as it is. -/
def zstdRaw (bs : List Byte) : List Byte := leBytes 4 0xFD2FB528 ++ [0xE0] ++ leBytes 8 bs.length ++ leBytes 3 (8 * bs.length + 1) ++ bs

/-- A timed-out context with a file of one byte in the buffer that a resume names. -/
def resumable : State :=
  let s := ctxIn 6 [(0x35, 4096), (0x36, 17)]
  { s with mem := Memory.write [] 4096 (zstdRaw [1]) }

/-- The hypotheses of a resume that finds another snapshot, and a snapshot that fits its own context. That a whole snapshot decompresses without an
error is not evaluated here: its 512 bytes take the kernel too long. -/
theorem witness_ContextCommands_resume :
    ((ctxState resumable 16383 = 1 ∨ ctxState resumable 16383 = 6) ∧ getReg resumable (ctxIndex 16383) 0x36 = 17 ∧
      getReg resumable (ctxIndex 16383) 0x35 = 4096 ∧ badRange resumable 4096 17 = false ∧
      cmdPending resumable 16383 = false ∧ parked resumable = false) ∧
    ((decompress 3 (resumable.mem.read 4096 17) (2 ^ 40)).dz = 0 ∧
      snapshotReserved (decompress 3 (resumable.mem.read 4096 17) (2 ^ 40)).out = true ∧
      snapshotFits resumable 16383 (decompress 3 (resumable.mem.read 4096 17) (2 ^ 40)).out = false) ∧
    snapshotReserved (List.replicate 512 1) = false ∧
    (snapshotReserved (snapshotBytes (ctxIn 1 []) 16383) = true ∧
      snapshotFits (ctxIn 1 []) 16383 (snapshotBytes (ctxIn 1 []) 16383) = true) := by decide +kernel

theorem witness_ContextCommands :
    ((∀ st, st ∈ [0, 1] → controlled (ctxIn st []) = true ∧ ctxState (ctxIn st []) 16383 = st ∧ cmdPending (ctxIn st []) 16383 = false) ∧
      1 < ctxState (ctxIn 2 []) 16383 ∧ parked (ctxIn 1 []) = false ∧ 0 < 0xFFFF ∧ 0xFFFE < 0xFFFF) ∧
    (ctxState (ctxIn 0 []) 16383 ≠ 1 ∧ parked (withRegs [(0x1200, 0x10, 2), (ctxIndex 0, 0x02, 1)]) = true) ∧
    (let s := ctxIn 3 [(0x33, 4096), (0x34, 64)]
     ctxState s 16383 = 3 ∧ getReg s (ctxIndex 16383) 0x34 ≠ 0 ∧
     badRange s (getReg s (ctxIndex 16383) 0x33) (getReg s (ctxIndex 16383) 0x34) = false ∧ cmdPending s 16383 = false) ∧
    cmdPending (ctxIn 2 [(0x04, 1)]) 16383 = true ∧
    (let s : State := { ctxIn 3 [] with ctxs := [(16383, { switchTo := some 4095 })] }
     ctxState s 16383 = 3 ∧ (ctxOf s 16383).switchTo ≠ none) ∧
    ((ctxState (ctxIn 2 []) 16383 = 2 ∧ (ctxOf (ctxIn 2 []) 16383).stopDue = false) ∧ (ctxState (ctxIn 7 []) 16383 = 7) ∧
      (ctxOf (ctxIn 3 []) 16383).switchTo = none) ∧
    (ctxState (ctxIn 5 []) 16383 = 5 ∧ ctxIdle (ctxIn 5 []) 16383 = true) ∧
    (∀ st, st ∈ [0, 1, 4, 6] → ctxState (ctxIn st []) 16383 = st ∧ (ctxOf (ctxIn st []) 16383).stopDue = false) := by decide +kernel

/-- A context of the AV1 encode service for pictures of 64 × 64, starting at a boundary. -/
def starting (w : Nat) : State :=
  ctxIn 2 [(0x01, 0xF001), (0x06, w), (0x07, 64), (0x0A, 1), (0x0B, 8)]

theorem witness_ContextStart :
    (let s := starting 0
     controlled s = true ∧ ctxState s 16383 = 2 ∧ s.clk.now % period s = 0 ∧ s.carried = false ∧
     (staticRefused s 16383).map (· != 0x0400) = some true) ∧
    (let s : State := { starting 64 with ctxs := [(0, { charge := { tile := 10 ^ 15 } })] }
     staticRefused s 16383 = none ∧ ((peakCharge s 16383).bind fun c => noRoom s 16383 (getReg s (ctxIndex 16383) 0x0D) c) = some 1) ∧
    (let s := starting 64
     staticRefused s 16383 = none ∧ (peakCharge s 16383).isSome = true ∧
     ((peakCharge s 16383).all fun c => (noRoom s 16383 (getReg s (ctxIndex 16383) 0x0D) c).isNone) = true ∧
     isService (binding s 16383) = true ∧
     (let v := putCtx (dropBlobs s 16383) 16383 (freshCtx (dropBlobs s 16383) 16383 {})
      let w := setReg v (ctxIndex 16383) 0x38 (serviceDie v)
      (takeBuffers w 16383 (((ctxInfo w 16383).map fun c => declsOf c [4]).getD [])).isSome = true)) ∧
    (let s := ctxIn 5 [(0x33, 4096), (0x34, 65536)]
     ctxState s 16383 = 5 ∧ ctxIdle s 16383 = true ∧ (ctxOf s 16383).stopDue = false ∧ s.mem.wf = true ∧ (ctxOf s 16383).failedCap = none) ∧
    (let s : State := { ctxIn 5 [(0x33, 4096), (0x34, 16)] with ctxs := [(16383, { failedCap := some 16 })] }
     ctxState s 16383 = 5 ∧ (ctxOf s 16383).failedCap = some 16 ∧ getReg s (ctxIndex 16383) 0x34 ≤ 16) ∧
    (let s : State := { ctxIn 5 [(0x33, 4096), (0x34, 16)] with works := [{ id := .frame 16383 0, slot := 0, cls := 0, prio := 2, seed := 0, issued := 0 }] }
     ctxState s 16383 = 5 ∧ ctxIdle s 16383 = false) := by decide +kernel
/-! ### Witnesses: switches, commits, media -/

/-- A package of one class with nothing but what is given. -/
def pkgWith (c : ClassInfo) : Pkg :=
  { id := 7, version := 1, kind := 0, mode := 0, nSync := 4, tableId := 0, digest := [], signer := 0, copy := 8192, len := 4096, image := none
    classes := [c], tables := [], fns := [] }

def plainClass : ClassInfo := { cls := 0, cost := {}, regions := [], parts := [], segs := [], colls := [], rc := none }

/-- Context 16383 running, bound to slot 0, with two packages of one id in slots 0 and 4095. -/
def switching (c : Ctx) : State :=
  { ctxIn 3 [(0x01, 0)] with
    pkgs := [(0, pkgWith plainClass), (4095, pkgWith plainClass)]
    ctxs := [(16383, c)]
    dict := (setReg (setReg (ctxIn 3 [(0x01, 0)]) (slotIndex 0) 0x01 3) (slotIndex 4095) 0x01 3).dict }

/-- An encoding service that stores a reference every second picture, at its picture 4. -/
def referring : State := ctxIn 3 [(0x01, 0xF001), (0x1A, 2), (0x1B, 4), (0x39, 4)]

theorem witness_ContextSwitches :
    (controlled (switching {}) = true ∧ cmdPending (switching {}) 16383 = false ∧ ctxState (switching {}) 16383 = 3 ∧
      switchRefused (switching {}) 16383 4095 = none ∧ switchRefused (switching {}) 16383 4094 = some stNoPackage) ∧
    (let s : State := { switching { switchTo := some 4095, charge := ⟨1, 1, 1, [], []⟩ } with clk := { now := period serving } }
     controlled s = true ∧ s.clk.now % period s = 0 ∧ (ctxOf s 16383).switchAsked < counterOf s ∧ (ctxOf s 16383).switchTo = some 4095 ∧ ctxState s 16383 = 3 ∧ switchRefused s 16383 4095 = none ∧
     peakCharge (setReg s (ctxIndex 16383) 0x01 4095) 16383 = some ⟨0, 0, 0, [(6, 0, 0)], []⟩ ∧
     chargeHigher ⟨0, 0, 0, [(6, 0, 0)], []⟩ (ctxOf s 16383).charge = false ∧
     (placeWindow (setReg s (ctxIndex 16383) 0x01 4095) (getReg s (ctxIndex 16383) 0x38) 4095).isSome = true) ∧
    ((ctxOf (switching {}) 16383).switchTo = none ∧ ctxState (ctxIn 1 []) 16383 ≠ 3 ∧ cmdPending (ctxIn 1 []) 16383 = false) ∧
    (let s : State := { switching { switchTo := some 4094 } with clk := { now := period serving } }
     s.clk.now % period s = 0 ∧ (ctxOf s 16383).switchAsked < counterOf s ∧ (ctxOf s 16383).switchTo = some 4094 ∧ ctxState s 16383 = 3 ∧ switchRefused s 16383 4094 = some stNoPackage) ∧
    (controlled referring = true ∧ referenceRefused referring 16383 1 5 = none ∧ referenceRefused referring 16383 3 5 = some stMissingReference) ∧
    (ctxState referring 16383 = 3 ∧ ctxKind referring 16383 = 1 ∧ 3 < getReg referring (ctxIndex 16383) 0x39) ∧
    ctxState serving 0 ≠ 3 := by decide +kernel

/-- A frame of context 16383 whose program ended, with one output region. -/
def ending : Work :=
  { id := .frame 16383 5, slot := 0, cls := 0, prio := 2, seed := 0, issued := 0, result := some 0, regions := [⟨3, 4096, 64, true, 3⟩] }

/-- A job of two frames on ring 31, and the frame 0 of it that ended. -/
def jobOf (frames : Nat) (state : Nat) : JobEntry :=
  { ring := 31, pos := 5, state := state, accepted := 0, image := ⟨9, 0, 0, false, false, false, false, false, 0, 0, 0, 0, 0, 0⟩
    job := { seq := 9, pkgSlot := 0, cls := 0, prio := 2, frames := frames, seed := 0, inAddr := 0, inStride := 0, outAddr := 0, outStride := 0, space := 0 } }

def jobDone : State := { serving with jobs := [jobOf 2 2], works := [{ ending with id := .job 31 5 0 }] }

theorem witness_Commits :
    (let s : State := { serving with works := [ending] }
     controlled s = true ∧ findWork s (.frame 16383 5) = some ending ∧ earlierOpen s (.frame 16383 5) = false ∧ ending.stopped = false ∧
     workDone s ending = true ∧ ending.oldCard = none) ∧
    (let w : Work := { ending with result := none, slot := 0xFFFF, aim := 1 }
     let s : State := { serving with works := [w] }
     findWork s (.frame 16383 5) = some w ∧ workDone s w = false ∧ spanCancelled s w = false) ∧
    (let w : Work := { ending with result := none }
     let s : State := { setBlob (switching {}) 0x4100 0x31 (leBytes 2 16383 ++ [2, 0, 1, 0, 2, 0]) with
       works := [w], fabric := { gone := [2] }, pkgs := [(0, pkgWith { plainClass with colls := [{ op := 1 }] })]
       dict := (setReg (setBlob (switching {}) 0x4100 0x31 (leBytes 2 16383 ++ [2, 0, 1, 0, 2, 0])) (ctxIndex 16383) 0x02 4).dict }
     controlled s = true ∧ workDone s w = false ∧ w.stopped = false ∧ spanCancelled s w = true) ∧
    (findWork jobDone (.job 31 5 0) = some { ending with id := .job 31 5 0 } ∧ earlierOpen jobDone (.job 31 5 0) = false ∧
      workDone jobDone { ending with id := .job 31 5 0 } = true ∧ findJob jobDone 31 5 = some (jobOf 2 2) ∧
      isEngineJob (jobOf 2 2).job = false ∧ (jobOf 2 2).cut = false ∧ 0 + 1 ≠ (jobOf 2 2).job.frames) ∧
    (let s : State := { jobDone with jobs := [jobOf 1 2] }
     workDone s { ending with id := .job 31 5 0 } = true ∧ findJob s 31 5 = some (jobOf 1 2) ∧ 0 + 1 = (jobOf 1 2).job.frames ∧
     (jobOf 1 2).oldCard = none) := by decide +kernel

theorem witness_Completions :
    (let s : State := { serving with jobs := [jobOf 2 3] }
     controlled s = true ∧ nextToPost s 31 = some (jobOf 2 3) ∧ (jobOf 2 3).state = 3 ∧ dmaOk s = true ∧
     mirrorWaits s (.job 31 (jobOf 2 3).pos 0) 3 = false ∧ s.host.wf = true) ∧
    ((findWork jobDone (.job 31 5 0)).isSome = true ∧ findJob jobDone 31 5 = some (jobOf 2 2) ∧ (jobOf 2 2).job.space.testBit 0 = false ∧
      (jobOf 2 2).state ≤ 2) := by decide +kernel

/-- Media port 3 up, with these values beside. -/
def portOn (l : List (Nat × Nat × Nat)) : State := withRegs ([(portIndex 3, 0x01, 1), (portIndex 3, 0x02, 2), (portIndex 3, 0x04, 9)] ++ l)

def onePacket : OutPacket := ⟨0, 0, 0, 3, 4095, 0, 1, 2, 3, 4, 5, 6, 7, true, [8]⟩

/-- The record of a receiver of kind 2 (a peer) and window 1. -/
def receiverRec : List Byte := [2, 0, 1] ++ List.replicate 61 0

theorem witness_Egress :
    (let s : State := { portOn [] with media := { egress := [onePacket] } }
     inService s = true ∧ s.media.egress.find? (fun q => q.port == 3) = some onePacket ∧ portUp s 3 = true ∧ portUp s 0 = false) ∧
    (let s : State := { portOn [(flowIndex 63, 0x06, 2 ^ 63), (0x4100, 0x01, 0)] with
       flows := [(63, { recs := [(63, receiverRec)], held := [⟨63, 0, 0, 0, false, 0⟩] })], clk := { now := 90000000000 } }
     controlled s = true ∧ nget (flowOf s 63).recs 63 = some receiverRec ∧
     ((flowOf s 63).held.any fun h => h.receiver == 63 && decide (h.round + recvWindow receiverRec ≤ counterOf s)) = true ∧
     flowBit s 63 0x06 63 = true ∧ 63 ∉ (flowOf s 63).ready ∧ recvKind receiverRec = 2 ∧ reachable s (recvTarget receiverRec) = true) ∧
    nget (flowOf serving 4095).recs 0 = none := by decide +kernel

/-- A good RTP packet for address 9, and one outside every check. -/
def goodPacket : RtpPacket := ⟨{}, 1, 9, 5004, 2, 0, false, false, true, 96, 7, 1000, [0, 0]⟩

/-- The blob of leg 0 on port 3, from any source to address 9 and UDP port 5004. -/
def legOn : List Byte := [3, 0] ++ leBytes 2 5004 ++ List.replicate 19 0 ++ [9] ++ List.replicate 40 0

/-- Context 16383 running from the network in payload format `fmt`, 16 × 1 pictures, with what is kept of it. -/
def receiving (fmt : Nat) (c : Ctx) (frames : List FrameEntry) : State :=
  let s := setBlob (setBlob (portOn ([(0x02, 3), (0x26, 1), (0x06, 16), (0x07, 1), (0x2A, fmt)].map fun (e : Nat × Nat) => (ctxIndex 16383, e.1, e.2)))
    (ctxIndex 16383) 0x28 legOn) (ctxIndex 16383) 0x29 [0xFF]
  { s with ctxs := [(16383, c)], frames := frames }

def openFrame : InFrame := { j := 255, bytes := [], complete := false, key := 1000 }
def heldSeven : HeldPacket := ⟨1000, 65536 + 7, 1000, true, 0, [0, 0]⟩

theorem witness_Ingress :
    (takers (passTime (portOn []) 5) 3 goodPacket = [] ∧ inService (portOn []) = true ∧ portUp (portOn []) 3 = true ∧ portUp (portOn []) 2 = false ∧
      portKeeps (portOn []) 3 false { fcsOk := false } = false) ∧
    (let s := receiving 2 { inputs := [openFrame] } []
     let p : RtpPacket := { goodPacket with payload := List.replicate 16 0 }
     inService s = true ∧ portUp s 3 = true ∧ portKeeps (passTime s 5) 3 false goodPacket.frame = true ∧ ctxState s 16383 = 3 ∧
     getReg s (ctxIndex 16383) 0x2A ≠ 1 ∧ (ctxOf s 16383).doneKeys.contains p.stamp = false ∧
     ((ctxOf s 16383).inputs.any fun f => !f.complete && f.key == p.stamp) = true) ∧
    (let s := receiving 0 { inputs := [openFrame] } []
     takers (passTime s 5) 3 goodPacket = [(16383, 0)] ∧ portKeeps (passTime s 5) 3 false goodPacket.frame = true ∧
     seqSeen (ctxOf s 16383) (packetSeq (passTime s 5) 16383 goodPacket) = false ∧
     (ctxOf s 16383).doneKeys.contains goodPacket.stamp = false ∧
     ((ctxOf s 16383).inputs.any fun f => !f.complete && f.key == goodPacket.stamp) = true) ∧
    (let s : State := { receiving 0 {} [] with dict := (setReg (receiving 0 {} []) (ctxIndex 16383) 0x02 1).dict }
     takers (passTime s 5) 3 goodPacket = [(16383, 0)] ∧ ctxState s 16383 ≠ 3 ∧ goodPacket.marker = true) ∧
    (let s := receiving 0 { inputs := [openFrame], lastSeq := some (2 ^ 40) } []
     takers (passTime s 5) 3 goodPacket = [(16383, 0)] ∧ seqSeen (ctxOf s 16383) (packetSeq (passTime s 5) 16383 goodPacket) = true) ∧
    (let s := receiving 0 { inputs := [openFrame], packets := [heldSeven], nextIn := 256 } []
     controlled s = true ∧ arriving s 16383 = some openFrame ∧ ((ctxOf s 16383).inputs.all fun g => !g.waits) = true ∧ framePresent s 16383 openFrame true = true ∧
     entryFree s 16383 openFrame.j = true ∧ storeRoom s 16383 (frameBits s 16383 openFrame).length = true ∧
     openFrame.first + period s ≤ ({ s with clk := { now := 90000000000 } } : State).clk.now) ∧
    (let s := receiving 0 { inputs := [openFrame], packets := [heldSeven], nextIn := 256 } [{ ctx := 16383, j := 255, state := 1 }]
     arriving s 16383 = some openFrame ∧ framePresent s 16383 openFrame true = true ∧ entryFree s 16383 openFrame.j = false) ∧
    (let s := setBlob (receiving 2 { inputs := [openFrame], packets := [{ heldSeven with seq := 65536 * 2 + 7 }], highSeq := some (65536 * 2 + 7) } []) (ctxIndex 16383) 0x29 legOn
     let t : State := { s with clk := { now := 90000000 } }
     inService t = true ∧ ctxState t 16383 = 3 ∧ twoLegs t 16383 = true ∧
     seqSeen (ctxOf t 16383) (nearest 16 ((ctxOf t 16383).highSeq.getD 0) 6) = false ∧
     ((ctxOf t 16383).packets.any fun h => decide (nearest 16 ((ctxOf t 16383).highSeq.getD 0) 6 < h.seq) &&
       decide (h.at_ + getReg t (ctxIndex 16383) 0x2C * 3000000 ≤ (passTime t 0).clk.now)) = true) := by decide +kernel

theorem witness_MediaPorts :
    (inService (portOn []) = true ∧ portUp (portOn []) 3 = true ∧
      ((portV4 (portOn []) 3).map mapped ++ portV6 (portOn []) 3).contains (mapped 9) = true) ∧
    (9 = getReg (portOn []) (portIndex 3) 0x04 ∧ (9 : Nat) ≠ 0 ∧ linkLocal (portMac (portOn []) 3) ∈ portV6 (portOn []) 3) ∧
    (portKeeps (portOn []) 3 false {} = true ∧ portKeeps (portOn []) 3 true {} = true ∧ portKeeps (portOn []) 3 false { control := true } = false) ∧
    portUp (portOn []) 0 = false ∧ getReg (portOn []) (portIndex 3) 0x01 = 1 := by decide +kernel
/-! ### Witnesses: umpire mode, Palton, the fabric, span groups -/

/-- Umpire mode with partner 2 in umpire state `st` and policy `policy`, with what it holds. -/
def umpired (st policy : Nat) (u : Umpire) : State :=
  { withRegs [(0x5000, 0x01, 1), (0x5020, 0x01, 1), (0x5020, 0x02, 2), (0x5020, 0x04, policy), (0x5020, 0x07, st), (ctxIndex 16383, 0x32, 1),
      (ctxIndex 16383, 0x02, 7)] with umpire := u }

def cardA : CardRecord := ⟨1, 2, 3, 16383⟩

theorem witness_Umpire :
    (controlled serving = true ∧ getReg serving 0x5020 0x01 = 0 ∧ getReg (withRegs [(0x5020, 0x01, 1), (0x5000, 0x01, 0)]) 0x5020 0x01 ≠ 0 ∧
      inForceReg (withRegs [(0x5020, 0x01, 1), (0x5000, 0x01, 0)]) 0x5000 0x01 = 0) ∧
    (let s := umpired 0 0 {}
     let v := setReg { s with umpire := { digests := s.umpire.digests, status := stPending } } 0x5020 0x07 1
     controlled s = true ∧ getReg s 0x5020 0x01 = 1 ∧ inForceReg s 0x5000 0x01 ≠ 0 ∧ 2 ∈ partners v ∧ ∀ d, d ∈ s.umpire.digests → d.1 ≠ 2) ∧
    (let s := umpired 2 0 { localR := [(cardA, 0)] }
     controlled s = true ∧ umpireState s = 2 ∧ partners s = [2] ∧ s.umpire.localR = [(cardA, 0)] ∧ s.umpire.remote = [] ∧
     sameCard cardA cardA = true ∧ sameCard cardA { cardA with card := 0 } = false ∧ getReg s 0x5020 0x04 ≠ 1 ∧
     s.umpire.seen = [] ∧ (16383, 2) ∉ s.umpire.late ∧
     ∃ r, r ∈ s.umpire.localR ∧ r.1.ctx = 16383 ∧ r.1.frame = 2 ∧
       r.2 + getReg s 0x5020 0x06 ≤ counterOf { s with clk := { now := 90000000000 } }) ∧
    (let s := umpired 3 0 {}
     controlled s = true ∧ umpireState s = 3 ∧ 2 ∈ partners s ∧ s.umpire.localR = [] ∧ umpirePolicy s = 0) ∧
    (let s := umpired 5 0 {}
     controlled s = true ∧ umpireState s = 5 ∧ 16383 ∈ markedCtxs s ∧ ctxState s 16383 = 7 ∧ ctxState s 0 ≠ 7) ∧
    umpireState serving ≠ 5 := by decide +kernel

/-- Pairing: one partner, whose digest is this member's own, or none at all. -/
theorem witness_Umpire_digest :
    (controlled (umpired 1 0 {}) = true ∧ umpireState (umpired 1 0 {}) = 1) ∧
    (∀ h, h ∈ ((partners (umpired 1 0 {})).map fun q => (([(2, umpireDigest (umpired 1 0 {}))] : List (Nat × List Byte)).find? fun x => x.1 == q).map (·.2)) →
      h = some (umpireDigest (umpired 1 0 {}))) ∧
    umpireDigest (umpired 1 0 {}) ≠ [] := by
  have hp : partners (umpired 1 0 {}) = [2] := by decide +kernel
  refine ⟨by decide +kernel, ?_, by decide +kernel⟩
  rw [hp]
  intro h hh
  simpa using hh

/-- A frame of flow 0xFFF that begins and ends its message. -/
def oneFrame : PaltonFrame := ⟨0, 0, 0, 0, 1, 2, 0xFFF, 4, 0, true, 0, [7], true⟩

theorem witness_Palton :
    (let s := linked []
     inService s = true ∧ linkUp s 95 = true ∧ oneFrame.crcOk = true ∧ oneFrame.seq = (linkOf s 95).expect ∧ (linkOf s 95).queue = [] ∧ oneFrame.dst = ownAddress s ∧
     oneFrame.index = 0 ∧ oneFrame.last = true ∧ 0 < oneFrame.flow ∧ oneFrame.flow < 0x1000 ∧
     oldMessage ((s.fabric.flowsIn.find? fun x => x.src == oneFrame.src && x.flow == oneFrame.flow).bind (·.done)) oneFrame.msg = false ∧
     { oneFrame with crcOk := false }.crcOk = false ∧ linkUp s 0 = false) ∧
    (let s := putLink (linked []) 95 { discard := true }
     linkUp s 95 = true ∧ { oneFrame with seq := 4095 }.seq ≠ (linkOf s 95).expect ∧ (linkOf s 95).discard = true) ∧
    (let s := putLink (linked []) 95 { queue := [oneFrame] }
     (linkOf s 95).queue = [oneFrame] ∧ (linkOf s 95).replay.length < 1024) ∧
    (let s := putLink (linked []) 95 { replay := [(4095, oneFrame)], retries := 15, retrySeq := 4095 }
     linkUp s 95 = true ∧ 16 ≤ (if (linkOf s 95).retrySeq = 4095 then (linkOf s 95).retries + 1 else 1)) ∧
    (let s := putLink (linked []) 95 { replay := [(4095, oneFrame)], retries := 14, retrySeq := 4095 }
     linkUp s 95 = true ∧ (linkOf s 95).replay ≠ [] ∧ (if (linkOf s 95).retrySeq = 4095 then (linkOf s 95).retries + 1 else 1) < 16) ∧
    (let s := putLink (withRegs [(linkIndex 95, 0x02, 1)]) 95 { attempts := [0, 0] }
     inService s = true ∧ linkState s 95 = 1 ∧ (linkOf s 95).attempts = [0, 0] ∧ nowUs (passTime s 1000) ≤ 0 + 1000000) := by decide +kernel

/-- The part with serial number 1, its root `root`. -/
def rooted (root : Nat) : State := { linked [(0x4100, 0x04, root)] with clk := { offers := [(3, 9, 95, 0)] } }

theorem witness_FabricRouting :
    (controlled (linked []) = true ∧ linkUp (linked []) 95 = true) ∧
    (let s : State := { rooted 0 with ctl := { (rooted 0).ctl with manifest := { serial := 5 } } }
     controlled s = true ∧ getReg s 0x4100 0x04 = 0 ∧ (0 : Nat) ≠ s.ctl.manifest.serial ∧
     ([(0, 3), (5, 4095)] : List (Nat × Nat)).find? (fun e => e.1 == s.ctl.manifest.serial) = some (s.ctl.manifest.serial, 4095)) ∧
    (getReg (rooted 1) 0x4100 0x04 = (rooted 1).ctl.manifest.serial ∧ 2 ≠ getReg (rooted 1) 0x4100 0x04) ∧
    (0 ≠ ownAddress (rooted 1) ∧ ngetD (rooted 1).fabric.graph 0 [] ≠ [(1, 2)] ∧ ownAddress (rooted 1) = 1) ∧
    (controlled (rooted 1) = true ∧ sameRate (rooted 1) 7 0 = true ∧ sameRate (rooted 1) 0xFF 0 = false ∧ getReg (rooted 1) 0x2000 0x07 ≠ 2) := by
  decide +kernel

/-- Context 16383 running from peer 2, its last output taken 4, its next input 256. -/
def fedBy (frames : List FrameEntry) : State :=
  { ctxIn 3 [(0x26, 3), (0x27, 2)] with ctxs := [(16383, { lastFrom := some 4, nextIn := 256 })], frames := frames }

theorem witness_PeerDevices :
    (let s : State := { serving with fabric := { missing := [(4095, 8)] } }
     controlled s = true ∧ 8 ≤ ngetD s.fabric.missing 4095 0 ∧ 4095 ∉ s.fabric.lost ∧ 4095 ∉ partners s) ∧
    ngetD serving.fabric.missing 2 0 < 8 ∧
    (let s : State := { linked [] with fabric := { lost := [2] } }
     controlled s = true ∧ 2 ∈ s.fabric.lost ∧ reachable s 2 = true) ∧
    (controlled (fedBy []) = true ∧ getReg (fedBy []) (ctxIndex 16383) 0x26 = 3 ∧ getReg (fedBy []) (ctxIndex 16383) 0x27 = 2 ∧
      ctxState (fedBy []) 16383 = 3 ∧ (ctxOf (fedBy []) 16383).lastFrom = some 4 ∧ 4 < 5 ∧ 4 ≤ 4 ∧ storeRoom (fedBy []) 16383 64 = true ∧
      entryFree (fedBy []) 16383 (ctxOf (fedBy []) 16383).nextIn = true) ∧
    getReg (fedBy []) (ctxIndex 16383) 0x27 ≠ 3 ∧
    (let s := ctxIn 1 [(0x26, 3), (0x27, 2)]
     controlled s = true ∧ getReg s (ctxIndex 16383) 0x26 = 3 ∧ getReg s (ctxIndex 16383) 0x27 = 2 ∧ ctxState s 16383 ≠ 3) := by decide +kernel

/-- A collective of one kind over `count` elements of region 5. -/
def collOf (op count : Nat) : CollRec := { op := op, count := count, loc := 5 * 2 ^ 40 }

/-- Frame 3 of context 16383, whose package has one collective, in a group of this device (rank 1 of 2) and device 7. -/
def grouped (op count : Nat) (kept : List (WorkId × Nat × List Byte × Nat × Nat)) : State :=
  let s := setBlob (setReg serving 0x4100 0x01 1) 0x4100 (0x12 + 31) (leBytes 2 16383 ++ [2, 0] ++ leBytes 2 7 ++ leBytes 2 1 ++ List.replicate 120 0)
  { s with
    pkgs := [(0, { pkgWith { plainClass with colls := [collOf op count] } with nSync := 0 })]
    works := [{ id := .frame 16383 3, slot := 0, cls := 0, prio := 2, seed := 0, issued := 1, regions := [⟨5, 4096, 256, true, 3⟩] }]
    fabric := { s.fabric with results := kept, barrier := [(31, 1)] } }

/-- The command of kind `op` for that collective, with what the other member enters. -/
def collCmd (op : Nat) (others : Entered) : Instr :=
  if op = 1 then .collectiveMaxAnchors (.frame 16383 3) 0 others else if op = 2 then .collectiveSumExact (.frame 16383 3) 0 others
  else if op = 3 then .collectiveSumAnchored (.frame 16383 3) 0 others else if op = 4 then .collectiveBroadcast (.frame 16383 3) 0 others
  else .collectiveElementwiseMax (.frame 16383 3) 0 others

/-- Each of the five collectives on two members' records of nothing, a sum of malformed records, a replay, and a collective of count 0. -/
theorem witness_Collectives :
    (∀ op, op ∈ [1, 2, 3, 4, 5] →
      controlled (grouped op 1 []) = true ∧ (∃ w, w ∈ (grouped op 1 []).works ∧ collReady (grouped op 1 []) (.frame 16383 3) 0 op = some (w, collOf op 1)) ∧
      (collOf op 1).count ≠ 0 ∧ keptResult (grouped op 1 []) (.frame 16383 3) 0 = none ∧ 1 + 1 = (rankOf (grouped op 1 []) (.frame 16383 3)).2) ∧
    (∀ op, op ∈ [1, 2, 3, 4, 5] →
      let z : List Byte := if op = 1 ∨ op = 3 then recordBytes true none else if op = 2 then recordBytes false none else [0, 0, 0, 0].take (collUnit (collOf op 1))
      (match collectiveResult (collOf op 1) z [z, z] with | .ok _ => true | .error _ => false) = true) ∧
    (let z : List Byte := List.replicate 32 255
     match collectiveResult (collOf 2 1) z [z, z] with | .ok _ => false | .error st => st != stOk) = true ∧
    collReady serving (.frame 16383 3) 0 1 = none ∧
    keptResult (grouped 4 1 [(.frame 16383 3, 0, [9], stOk, 0)]) (.frame 16383 3) 0 = some ([9], stOk, 0) ∧
    (collReady (grouped 4 0 []) (.frame 16383 3) 0 4).isSome = true ∧ (collOf 4 0).count = 0 := by decide +kernel

theorem witness_TickBarriers :
    (let s : State := { grouped 4 1 [] with works := [{ id := .frame 16383 4, slot := 0, cls := 0, prio := 2, seed := 0, issued := 2 }] }
     controlled s = true ∧ groupOf s 31 = some (16383, [7, 1]) ∧ ngetD s.fabric.barrier 31 0 ≤ 1 ∧
     (∀ a, a ∈ [7, 1] → ∃ e, e ∈ ([(7, 0), (1, 0)] : List (Nat × Nat)) ∧ e.1 = a) ∧ (∀ w, w ∈ s.works → 1 < w.issued) ∧
     7 ∈ ([7, 1] : List Nat) ∧ (∀ e, e ∈ ([(1, 0)] : List (Nat × Nat)) → e.1 ≠ 7) ∧ 4095 ≠ ownAddress s) := by decide +kernel
/-! ### Witnesses: tiles -/

/-- Frame 3 of context 16383 with regions 5 (read-write) and 6 (read only). -/
def frameWork : Work :=
  { id := .frame 16383 3, slot := 0, cls := 0, prio := 3, seed := 0, issued := 1, regions := [⟨5, 4096, 256, true, 5⟩, ⟨6, 8192, 256, false, 2⟩] }

/-- That frame's part 0 at one command and END on tile 43, with `low` in the low half, which works. -/
def partAt (op : Nat) (c : CmdRec) (low : List Byte) (l : List (Nat × Nat × Nat)) : State :=
  { withRegs l with
    pkgs := [(0, pkgWith plainClass)]
    works := [frameWork]
    tiles := [(43, { lo := Memory.write [] 0 low, part := some { work := .frame 16383 3, idx := 0, prio := 3, cmds := [(op, c), (opEND, {})], todo := [(op, c), (opEND, {})] } })] }

/-- The opcodes that compute within the tile, each with what it computes. -/
def inTile : List (Nat × (TEnv → CmdRec → Tile → Except Nat TOut)) :=
  [(opNOP, fun _ _ x => .ok { tile := x }), (opMMA, fun v c x => runMatrix v opMMA c x), (opCONV, fun v c x => runMatrix v opCONV c x),
    (opANCHOR, runAnchor), (opSTACC, fun _ => runStacc), (opLDACC, runLdacc), (opRNDACC, runRndacc), (opVEW, runVew), (opVRED, runVred),
    (opGATHER, runGather), (opSCADD, runScadd), (opSFN, runSfn), (opSMAX, runSmax), (opNSTAT, runNstat), (opMOVE, runMove),
    (opDGSTORE, fun _ => runDgstore)]

/-- A record of one element; LDACC finds an empty record at 128, the indices of GATHER and SCADD are zeros. -/
def oneElem : CmdRec := { m := 1, n := 1, k := 1, locA := 128, locB := 256, locC := 300, locOut := 512 }

theorem witness_TileCommands :
    (∀ e, e ∈ inTile →
      let s := partAt e.1 oneElem (List.replicate 128 0 ++ recordBytes false none) []
      ∃ x p, headCmd s 43 e.1 = some (x, p, oneElem) ∧ emptyShape e.1 oneElem = false ∧ findWork s p.work = some frameWork ∧
        (match e.2 (tileEnv s frameWork 43) oneElem x with | .ok _ => true | .error _ => false) = true) ∧
    (let c : CmdRec := { oneElem with func := 0xFF }
     let s := partAt opSFN c [] []
     headCmd serving 43 opNOP = none ∧ emptyShape opMMA { oneElem with m := 0 } = true ∧
     ∃ x p, headCmd s 43 opSFN = some (x, p, c) ∧ findWork s p.work = some frameWork ∧
       (match runSfn (tileEnv s frameWork 43) c x with | .ok _ => false | .error st => st == stEmptySlot) = true) ∧
    traced (partAt opNOP {} [] []) (.frame 16383 3) = none := by
  refine ⟨?_, ?_, by decide +kernel⟩
  · intro e he
    simp only [inTile, List.mem_cons, List.not_mem_nil, or_false] at he
    rcases he with rfl | rfl | rfl | rfl | rfl | rfl | rfl | rfl | rfl | rfl | rfl | rfl | rfl | rfl | rfl | rfl <;>
      exact ⟨_, _, rfl, by decide +kernel, by decide +kernel, by decide +kernel⟩
  · exact ⟨by decide +kernel, by decide +kernel, _, _, rfl, by decide +kernel, by decide +kernel⟩

/-- The 64 bytes of a descriptor with control 0, elements of 2 bytes, source region 6, destination region 5, counts 4 1 1 1 and stride 2. -/
def descBytes : List Byte :=
  leBytes 64 (2 * 2 ^ 424 + 5 * 2 ^ 412 + 6 * 2 ^ 360 + 4 * 2 ^ 64 + 2 ^ 144 + 2 ^ 224 + 2 ^ 304 + 2 * 2 ^ 32 + 2)

/-- One of SCADDR: the same with source 0 and no source stride. -/
def addrBytes : List Byte := leBytes 64 (2 * 2 ^ 424 + 5 * 2 ^ 412 + 4 * 2 ^ 64 + 2 ^ 144 + 2 ^ 224 + 2 ^ 304 + 2)

/-- A descriptor of part 0, `d`, at place `order` of queue 3. -/
def queued (order : Nat) (d : Desc) (started : Bool) : QDesc := ⟨.frame 16383 3, 0, order, 3, d, true, 0, started, 8192, 4096, none, order⟩

theorem witness_TileDataCommands :
    (let c : CmdRec := { imm := 3, locA := 0 }
     let s := partAt opSTREAM c descBytes []
     ∃ x p, headCmd s 43 opSTREAM = some (x, p, c) ∧ findWork s p.work = some frameWork ∧ (x.queue.filter fun e => e.queue == c.imm % 4).length < 16 ∧
       (let d := parseDesc (readSpace (tileEnv s frameWork 43) x (locSpace c.locA) (locOff c.locA) 64)
        (descOk (((pkgOf s frameWork.slot).map (·.nSync)).getD 0) d && descDeclared (frameWork.regions.map (·.num)) d) = true)) ∧
    (let s := partAt opSWAP {} [] []
     (headCmd s 43 opSWAP).isSome = true ∧ (tileOf s 43).queue.any touchesHalf = false ∧ touchesHalf (queued 0 { srcKind := 1 } false) = true) ∧
    (let s := partAt opEND {} [] []
     (headCmd s 43 opEND).isSome = true ∧ (tileOf s 43).queue = [] ∧ ([queued 0 {} true] : List QDesc) ≠ [] ∧
     16 ≤ ((List.replicate 16 (queued 0 {} false)).filter fun e => e.queue == 3 % 4).length) ∧
    (let c : CmdRec := { m := 1, n := 4, locOut := 0, locC := 64, locB := 128 }
     let s := partAt opSCADDR c (addrBytes ++ [3]) [(0x5000, 0x01, 0)]
     ∃ x p, headCmd s 43 opSCADDR = some (x, p, c) ∧ c.m ≠ 0 ∧ findWork s p.work = some frameWork ∧ strictOn s = false ∧ traced s p.work = none ∧
       (let v := tileEnv s frameWork 43
        let d := parseDesc (readSpace v x (locSpace c.locOut) (locOff c.locOut) 64)
        scaddrDescOk c d = true ∧ regionOf frameWork d.dstRegion = some ⟨5, 4096, 256, true, 5⟩ ∧ indicesOf v x c = [3] ∧ d.counts.headD 0 = 4 ∧
        (∀ i, i ∈ indicesOf v x c → i < d.counts.headD 0) ∧
        footInside frameWork 0 d.dstRegion (footprint d.dstOff d.elemSize (d.counts.take 1) [d.dstr.headD 0]) = true)) ∧
    (let s := partAt opSCADDR { m := 1 } [] [(0x5000, 0x01, 1)]
     strictOn s = true ∧ (headCmd s 43 opSCADDR).isSome = true) ∧
    (workHalf {}).wf = true := by
  refine ⟨⟨_, _, rfl, by decide +kernel⟩, by decide +kernel, by decide +kernel, ⟨_, _, rfl, by decide +kernel⟩, by decide +kernel, by decide +kernel⟩

/-- One product of two elements of a half, kept as an entry, or rounded out. -/
theorem witness_MatrixSums :
    anchoredCmd opMMA oneElem = false ∧ anchoredCmd opCONV oneElem = false ∧ ctlCT oneElem = false ∧ ctlAA oneElem = false ∧ oneElem.fmtOut < 4 ∧
    ctlKP oneElem = false ∧ ctlKP { oneElem with ctl := 0x20 } = true ∧ (0 : Nat) < oneElem.m ∧ 0 < oneElem.n ∧
    (arrayTerms (tileEnv serving frameWork 43) {} opMMA oneElem 0 0).length ≤ 2 ^ 30 := by decide +kernel

/-- The extreme sums and counts of both records, an anchor at each end, and products in two orders. -/
theorem witness_Records :
    (-2 ^ 127 : Int) ≤ -2 ^ 127 ∧ (-2 ^ 127 : Int) < 2 ^ 127 ∧ (-2 ^ 255 : Int) ≤ 2 ^ 255 - 1 ∧ (7 : Nat) < 8 ∧ (2 : Nat) ^ 30 ≤ 2 ^ 30 ∧
    (∀ e : Int, some (-32767) = some e → -2 ^ 15 < e ∧ e < 2 ^ 15) ∧ ([1, 2] : List Nat).Perm [2, 1] := by
  refine ⟨by decide, by decide, by decide, by decide, by decide, ?_, List.Perm.swap _ _ _⟩
  rintro e h
  cases h
  decide

theorem witness_Formats :
    ((workHalf {}).wf = true ∧ oneElem.locOut ≠ locNone ∧ (outShape opMMA oneElem).1 ≤ 1) ∧
    decodeF 1 0xFFFF = .fin true 2047 6 ∧ decodeF 3 1 = .fin false 1 (-1074) ∧ 0xFFFF < 2 ^ (fmtSignBit 1 + 1) := by decide +kernel

def planned : PartPlan := ⟨7, 1, 0, [(opEND, {})]⟩

/-- Frame 3 with its part 7 not yet dispatched, on a package without sync objects. -/
def dispatching : State :=
  { withRegs [(ctxIndex 16383, 0x02, 3)] with
    pkgs := [(0, { pkgWith { plainClass with parts := [planned] } with nSync := 0 })]
    works := [frameWork] }

/-- A part 0 on tile 43 that waits for sync object 1 to reach 1, since tick 0. -/
def waiting : State :=
  let s := partAt opNOP { ctl := 4, waitObj := 1, waitCount := 1 } [] []
  { s with clk := { now := 64 * period s }, tiles := s.tiles.map fun e => (e.1, { e.2 with part := e.2.part.map fun p => { p with waitSince := some 0 } })
           syncWins := [⟨.frame 16383 3, 0, 4⟩] }

/-- Tile 43 in the part with this queue. -/
def streaming (q : List QDesc) : State :=
  let s := partAt opNOP {} [] []
  { s with tiles := s.tiles.map fun e => (e.1, { e.2 with queue := q }) }

theorem witness_TilePartsAndStreams :
    (∃ w p c, findWork dispatching (.frame 16383 3) = some w ∧ pkgOf dispatching w.slot = some p ∧ classOf p w.cls = some c ∧
      c.parts.find? (fun q => q.idx == 7) = some planned ∧ tileUsable dispatching 331 = true ∧ (tileOf dispatching 331).part = none ∧
      (tileOf dispatching 331).checking = false ∧ (tileOf dispatching 331).queue = [] ∧ w.stopped = false ∧ w.result = none ∧ w.parts = [] ∧
      partRunning dispatching (.frame 16383 3) 7 = false ∧ p.nSync = 0 ∧ dispatchHeld dispatching w = false ∧
      placeOk dispatching w p planned 331 = true ∧ tileOwed dispatching w 331 = false ∧ dispatching.images = [] ∧ dispatchRefused dispatching p planned = none) ∧
    (let s : State := { dispatching with images := [⟨.frame 16383 3, 7, { workHi := true, digest := 5 }, 7⟩] }
     s.images.find? (fun i => i.work == .frame 16383 3 && i.idx == 7) = some ⟨.frame 16383 3, 7, { workHi := true, digest := 5 }, 7⟩ ∧
     dispatchHeld s frameWork = false ∧ (findWork s (.frame 16383 3)) = some frameWork) ∧
    (let s := { streaming [queued 1 {} false] with works := [{ frameWork with stopped := true }] }
     ∃ p, (tileOf s 43).part = some p ∧ p.prio = 3 ∧ (findWork s p.work).map (·.stopped) = some true ∧ p.todo.head?.map (·.2) = some {} ∧
       ctlTK {} = false ∧ (tileOf s 43).checking = false ∧ ∀ d, d ∈ (tileOf s 43).queue → d.started = false) ∧
    (∃ p, (tileOf waiting 43).part = some p ∧ (findWork waiting p.work).isSome = true ∧ waitExpired waiting (tileOf waiting 43) p = true) ∧
    (let d := queued 1 (parseDesc descBytes) false
     let s := streaming [queued 0 (parseDesc addrBytes) false, d].reverse
     (let s := streaming [d]
      nextDesc (tileOf s 43) 3 = some d ∧ holdDone s d = true ∧ (∀ e, e ∈ (tileOf s 43).queue → e.order < d.order → descConflict e d = false) ∧
      findWork s d.work = some frameWork ∧ descRefused frameWork d.desc = none) ∧ inService s = true) ∧
    (let s := streaming [queued 1 (parseDesc descBytes) true]
     ((tileOf s 43).queue.find? fun d => d.order == 1 && d.started && !aheadOf s 43 d) = some (queued 1 (parseDesc descBytes) true) ∧
     ((tileOf s 43).queue.find? fun d => d.order == 2 && d.started && !aheadOf s 43 d) = none ∧
     (queued 1 (parseDesc descBytes) true).desc.dstKind = 0) := by
  refine ⟨⟨_, _, _, rfl, rfl, rfl, by decide +kernel⟩, by decide +kernel, ⟨_, rfl, by decide +kernel⟩, ⟨_, rfl, by decide +kernel⟩, by decide +kernel, by decide +kernel⟩

/-- A package with a weight image of 4 KiB at 12288, its window on die 7 at 1 MiB. -/
def weighted (filled : Bool) : State :=
  { serving with pkgs := [(4095, { pkgWith plainClass with image := some (12288, 4096) })], windows := [⟨7, 4095, 2 ^ 20, 4096, filled⟩] }

theorem witness_WindowsAndCache :
    (let s : State := { partAt opNOP {} [] [] with syncWins := [⟨.frame 0 0, 0, 65532⟩] }
     controlled s = true ∧ findWork s (.frame 16383 3) = some frameWork ∧ (pkgOf s 0).map (·.nSync) = some 4 ∧ syncBase s (.frame 16383 3) = none ∧
     frameWork.result = none ∧ placeSync s 4 = some 65532) ∧
    findWork serving (.frame 16383 3) = none ∧
    (let s := streaming [queued 0 {} true]
     findWork s (.frame 16383 3) = some frameWork ∧ (workEnded s frameWork && workQuiet s (.frame 16383 3)) = false) ∧
    (lineSource (weighted true) 7 4111 = some 16128 ∧ (ngetD (weighted true).cache 7 []).wf = true ∧ inService (weighted true) = true) ∧
    ((windowOf (weighted false) 7 4095).map (·.filled) = some false ∧ ((pkgOf (weighted false) 4095).bind (·.image)) = some (12288, 4096)) := by
  decide +kernel

/-- Tile 43 that faulted at tick `n`, checking itself or not. -/
def faulty (n : Option Nat) (checking : Bool) : State :=
  let s := partAt opNOP {} [] []
  setBlob { s with tiles := s.tiles.map fun e => (e.1, { e.2 with faultAt := n, checking := checking }) } 0x1000 0x0D (List.replicate 48 0)

theorem witness_TileFaults :
    (inService (faulty none false) = true ∧ tileUsable (faulty none false) 43 = true ∧ (tileOf (faulty none false) 43).checking = false ∧
      (tileOf (faulty none false) 43).faultAt = none) ∧
    (tileUsable (faulty (some 0) false) 43 = true ∧ (tileOf (faulty (some 0) false) 43).faultAt = some 0 ∧ counterOf (faulty (some 0) false) ≤ 0 + 64 ∧
      (getBlob (faulty (some 0) false) 0x1000 0x0D).length = 48) ∧
    (∃ p, (tileOf (faulty none false) 43).part = some p ∧ partWaits (faulty none false) (tileOf (faulty none false) 43) p = false) ∧
    ((tileOf (faulty none true) 43).checking = true ∧ retirePending (faulty none true) 1 43 = false ∧ tileRetired (faulty none true) 43 = false) ∧
    (let s : State := { faulty (some 0) false with ctl := { (faulty (some 0) false).ctl with inCharge := none } }
     inService s = true ∧ tileUsable s 43 = true ∧ s.ctl.inCharge = none) := by
  refine ⟨by decide +kernel, by decide +kernel, ⟨_, rfl, by decide +kernel⟩, by decide +kernel, by decide +kernel⟩
/-! ### Witnesses: entropy coding, learned codecs, media units -/

/-- A row of two symbols, 0 and 1, each with half of the frequency. -/
def evenRow : List Nat := [256, 16384] ++ List.replicate 254 0

/-- The greatest and the least residual that a segment holds, and one below the escape. -/
theorem witness_EntropyRoundTrip :
    ∀ e, e ∈ [(evenRow, (524287 : Int)), (evenRow, -524288), (evenRow, 0)] → rowValid e.1 = true ∧ zigzag e.2 < 2 ^ 20 := by decide +kernel

/-- Frame 3 with one segment, on a package whose table set has one map slot and one row. -/
def coding (g : SegRec) (low : List Byte) : State :=
  let set : TableSet := ⟨0, 1, [true, false], [List.replicate 256 1, evenRow], 0⟩
  { serving with
    pkgs := [(0, { pkgWith { plainClass with segs := [g] } with nSync := 0 })]
    works := [{ frameWork with regions := [⟨5, 4096, 256, true, 3⟩, ⟨6, 8192, 256, false, 2⟩] }]
    cdf := { banks := [{ sets := [set] }, {}] }
    mem := Memory.write [] 8192 low }

def segOf (op count cap : Nat) : SegRec :=
  { opcode := op, count := count, payCap := cap, locRes := 5 * 2 ^ 40, locPay := 5 * 2 ^ 40 + 64, locY := 6 * 2 ^ 40, locMs := 6 * 2 ^ 40 + 64 }

/-- Does segment 0 of that frame run on lane 15 with the outcome `ec`, encoding or decoding. -/
def segEnds (g : SegRec) (low : List Byte) (ec : Nat) : Bool :=
  let s := coding g low
  match segReady s 15 (.frame 16383 3) 0 g.opcode with
  | some (w, p, g) =>
    let u := putWork s { w with started := true }
    let o := if g.opcode = 1 then encodeSegment u w g (findSet (bankOf u w) p.tableId (packageVersion p)) (packageVersion p)
      else decodeSegment u w g (bankOf u w) p.tableId
    o.status == ec && p.kind != 2
  | none => false

theorem witness_Segments :
    inService (coding (segOf 1 2 64) []) = true ∧ (coding (segOf 1 2 64) []).mem.wf = true ∧ segEnds { segOf 1 2 64 with mapSlot := 0 } [] ecOk = true ∧
    segEnds (segOf 1 2 64) [0, 0x80] ecNanOperand = true ∧ segEnds (segOf 1 2 0) [] ecPayloadOverflow = true ∧
    segEnds (segOf 2 0 0) [] ecOk = true ∧ segEnds (segOf 2 1 19) [] ecBadLength = true ∧ ecBadLength < 65536 ∧ ecNanOperand < 65536 ∧
    segReady serving 15 (.frame 16383 3) 0 1 = none ∧ segReady serving 15 (.frame 16383 3) 0 2 = none ∧
    takeVectors serving (.frame 16383 3) 0 = serving := by
  decide +kernel

/-- Lane 127 and unit 0 of every kind faulted at tick 0; `now` is the time. -/
def unitsFaulted (checking : Bool) (now : Nat) : State :=
  { serving with
    clk := { now := now }
    lanes := [(127, { faultAt := some 0, checking := checking })]
    cores := [0, 1, 2, 3].map fun k => (coreKey k 0, { faultAt := some 0, checking := checking }) }

/-- Frame 3 of context 16383 with its segment 0 still to code on lane 127, and a task of engine 1. -/
def lanesBusy : State :=
  { coding (segOf 1 2 64) [] with
    works := [{ frameWork with die := 7 }, { frameWork with id := .job 31 5 0, slot := 0xFFFF, die := 1 }] }

theorem witness_LaneAndUnitFaults :
    (laneLive serving 127 = true ∧ (laneOf serving 127).faultAt = none ∧ inService serving = true ∧ laneNext serving 127 = none) ∧
    (inService lanesBusy = true ∧ laneLive lanesBusy 127 = true ∧ (laneNext lanesBusy 127).isSome = true ∧
      ((List.range 16).map (16 * (127 / 16) + ·)).find? (fun l => l != 127 && laneActive lanesBusy l) = some 112 ∧
      unitBusy lanesBusy 3 1 = true ∧ unitLive lanesBusy 3 1 = true ∧ unitBusy lanesBusy 0 1 = false) ∧
    (laneLive (unitsFaulted false 0) 127 = true ∧ (laneOf (unitsFaulted false 0) 127).faultAt = some 0 ∧ counterOf (unitsFaulted false 0) ≤ 0 + 64 ∧
      (unitsFaulted false 0).ctl.inCharge ≠ none) ∧
    (0 + 64 < counterOf (unitsFaulted false (65 * period serving)) ∧ laneLive (unitsFaulted true 0) 127 = false ∧ (laneOf (unitsFaulted true 0) 127).checking = true) ∧
    (∀ k, k < 4 → 0 < 2 * unitsPerDie k ∧ unitLive serving k (2 * unitsPerDie k - 1) = true ∧ (coreOf serving k 0).faultAt = none ∧
      unitLive (unitsFaulted false 0) k 0 = true ∧ (coreOf (unitsFaulted false 0) k 0).faultAt = some 0 ∧ unitLive (unitsFaulted true 0) k 0 = false ∧
      (coreOf (unitsFaulted true 0) k 0).checking = true ∧ retirePending (unitsFaulted true 0) (7 + k) 0 = false) := by decide +kernel

/-- Frame 3 of context 16383, running on a decoding package, with this input. -/
def decoding (bs : List Byte) (c : Ctx) : State :=
  { ctxIn 3 [(0x01, 0)] with
    pkgs := [(0, { pkgWith plainClass with kind := 2 })]
    ctxs := [(16383, c)]
    works := [{ frameWork with inBase := 8192, inLen := bs.length }]
    syncWins := [⟨.frame 16383 3, 0, 4⟩]
    mem := Memory.write [] 8192 bs }

theorem witness_InputPictures :
    (∀ bs, bs ∈ [([] : List Byte), [1]] →
      let s := decoding bs {}
      let w : Work := { frameWork with inBase := 8192, inLen := bs.length }
      inService s = true ∧ findWork s (.frame 16383 3) = some w ∧ (pkgOf s w.slot).isSome = true ∧ unparsed s w = true ∧ w.result = none ∧ w.units = [] ∧ w.head = none ∧
      (s.works.all fun o => match o.id with | .frame 16383 c => decide (3 ≤ c) | _ => true) = true ∧
      (syncBase s (.frame 16383 3)).isSome = true ∧ workInput s w = bs) ∧
    parseUnits [1] 2 0 = none ∧
    (parseUnits (unitBytes 4 [] ++ unitBytes 2 []) 17 0).map unitsOrdered = some false ∧
    (parseUnits [] 1 0 = some [] ∧ unitOf [] 1 = none ∧ (ctxOf (decoding [] {}) 16383).seqHeader = none) ∧
    (let c : Ctx := { joined := true, seqHeader := some ⟨1, 1, 8, 0, 0, 0, 1, 1, false, 0, 0, 0⟩ }
     let bs := unitBytes 2 (leBytes 8 3 ++ [1] ++ List.replicate 7 0)
     (ctxOf (decoding bs c) 16383).joined = true ∧ (ctxOf (decoding bs c) 16383).seqHeader.isSome = true ∧
     (parseUnits bs (bs.length + 1) 0).map unitsOrdered = some true ∧
     (parseUnits bs (bs.length + 1) 0).map (fun us => us.any fun u => u.type == 5) = some false ∧
     (parseUnits bs (bs.length + 1) 0).map (fun us => (unitOf us 1).isNone) = some true ∧
     ((parseUnits bs (bs.length + 1) 0).bind fun us => (unitOf us 2).bind (parsePic bs false)) = some ⟨3, true, 0, 0, 0⟩) := by decide +kernel

/-- An encoding package of the class of 64 × 64 pictures whose step array lies in region 5, and its frame 3 with its first two segments coded. -/
def controlling : State :=
  { ctxIn 3 [(0x01, 0), (0x06, 64), (0x07, 64)] with
    pkgs := [(0, { pkgWith { plainClass with cls := (classFor 64 64).getD 0, rc := some ⟨5, 2, 0, 0, 16, 1⟩, cost := { motion := 1 } } with kind := 1 })]
    works := [{ frameWork with segs := [⟨0, ecOk, 0, 0, false, 0⟩, ⟨1, ecOk, 0, 20, false, 0⟩] }]
    ctxs := [(16383, { rc := { q := [] } })]
    syncWins := [⟨.frame 16383 3, 0, 4⟩] }

theorem witness_RateControl :
    ∃ w, pictureInProgress controlling 16383 = some (w, 3) ∧ findWork controlling w.id = some w ∧ rcParams controlling 16383 w.slot = some ⟨5, 2, 0, 0, 16, 1⟩ ∧
      isService (binding controlling 16383) = false ∧ ctxKind controlling 16383 = 1 ∧ 0 < bandCount controlling 16383 ∧
      (ctxOf controlling 16383).rc.q.length = 0 ∧ w.result = none ∧ w.raw = none ∧ (syncBase controlling w.id).isSome = true ∧
      (leadBits controlling 16383 3 w).isSome = true ∧ qiMin controlling 16383 ≤ qiMax controlling 16383 ∧
      0 + 1 - 2 ≤ (bandBits controlling 16383 w (bandCount controlling 16383) 0).length ∧ controlling.mem.wf = true := ⟨_, rfl, by decide +kernel⟩

/-- A job of one task for engine 7, operation `op`, of `n` bytes. -/
def engineJob (op n : Nat) : State :=
  { serving with
    jobs := [{ jobOf 1 2 with job := { (jobOf 1 2).job with pkgSlot := 0xFFFF, op := op, inLen := n, prio := 3, level := 3, format := 3, outCap := 64 } }]
    works := [{ ending with id := .job 31 5 0, slot := 0xFFFF, result := none, die := 7, aim := 1 }] }

theorem witness_Engines :
    ∀ op, op ∈ [1, 2] →
      (engineReady (engineJob op 0) 7 (.job 31 5 0) op).isSome = true ∧
      (engineReady (engineJob op 0) 7 (.job 31 5 0) op).map (fun r => decide (engineSlices r.2.1 ≤ r.2.2 + 1)) = some true ∧
      (engineReady (engineJob op (2 ^ 40)) 7 (.job 31 5 0) op).map (fun r => decide (r.2.2 + 1 < engineSlices r.2.1)) = some true := by decide +kernel

/-- Context 16383 with one media charge, pictures of 16 × 16, its input 1 waiting. -/
def searching (bind : Nat) (media : List (Nat × Nat × Nat)) : State :=
  { controlling with
    dict := (withRegs [(ctxIndex 16383, 0x01, bind), (ctxIndex 16383, 0x02, 3), (ctxIndex 16383, 0x06, 16), (ctxIndex 16383, 0x07, 16)]).dict
    pkgs := [(0, { pkgWith { plainClass with cls := (classFor 16 16).getD 0, cost := { motion := 1 } } with kind := 1 })]
    works := []
    ctxs := [(16383, { charge := { media := media }, firstJ := 1, inputs := [{ j := 0, bytes := List.replicate 512 0, complete := true },
      { j := 1, bytes := List.replicate 512 0, complete := true }] })] }

theorem witness_MotionSearch :
    (∀ b, b ∈ [0xF001, 0] →
      let s := searching b [(mkEstimator, 11, 1)]
      inService s = true ∧ estimatorOk s 11 16383 = true ∧ estimatorOk s 6 16383 = false ∧ runningState (ctxState s 16383) = true ∧ (inputOf s 16383 1).isSome = true ∧
      0 < ceilDiv (codedSize s 16383).2.1 16 ∧ (ngetD (ctxOf s 16383).vecs 1 []).length = 0 ∧ 1 = (ctxOf s 16383).firstJ) ∧
    (earlierCoded (searching 0xF001 []) 16383 1 = true ∧ keyPicture (searching 0xF001 []) 16383 1 = false) ∧
    (let s := searching 0 []
     needsMotion s 16383 = true ∧ (inputOf s 16383 1).map (fun c => rowsPresent c 16 16 16) = some true ∧
      (referenceInput s 16383 1).map (fun r => rowsPresent r 16 16 (16 + 513)) = some true) := by decide +kernel

/-- Frame 3 of a service in context 16383 with `aim` tile jobs, and what waits for the scaler. -/
def serviceWork (bind aim : Nat) (raw : Option (Nat × Nat)) : Work := { frameWork with slot := bind, aim := aim, raw := raw }

def serviced (bind : Nat) (media : List (Nat × Nat × Nat)) (w : Work) : State := { searching bind media with works := [w] }

/-- A service in context 16383 with the vectors of frame 3, its tile jobs on core 1. -/
def serviceAt (bind aim : Nat) : State :=
  { serviced bind [] (serviceWork bind aim none) with
    ctxs := [(16383, { charge := { jobs := [(0, 1), (1, 1)] }, vecs := [(3, List.replicate 5 (0, 0))] })] }

theorem witness_CodecsAndScalers :
    (∀ e, e ∈ [(0xF001, mkEncode, 11, true), (0xF011, mkDecode, 15, false)] →
      let s := serviced e.1 [(e.2.1, e.2.2.1, 1)] (serviceWork e.1 1 none)
      let w := serviceWork e.1 1 none
      inService s = true ∧ findWork s (.frame 16383 3) = some w ∧ isService w.slot = true ∧ 0 < w.aim ∧ w.segs = [] ∧ w.raw = none ∧ w.result = none ∧
      binding s 16383 = e.1) ∧
    (∀ aim, aim ∈ [1, 2] → ∀ e, e ∈ [(0xF001, ckEncode), (0xF011, ckDecode)] →
      let s := serviceAt e.1 aim
      let w := serviceWork e.1 aim none
      inService s = true ∧ findWork s (.frame 16383 3) = some w ∧ isService w.slot = true ∧ serviceCores w.slot = e.2 ∧
      unitLive s e.2 1 = true ∧ (firstJob (readyJobs s e.2 1)).map (·.2) = some (16383, 3, 0) ∧ qiMin s 16383 ≤ qiMax s 16383) ∧
    firstJob (readyJobs (serviceAt 0xF001 1) ckEncode 0) = none ∧
    (let w := serviceWork 0 0 (some (4096, 64))
     let s := serviced 0 [(mkScaler, 3, 1)] w
     findWork s (.frame 16383 3) = some w ∧ w.raw.isSome = true ∧ unitLive s ckScaler 2 = true ∧
     scalerOk s 3 16383 = true ∧ w.searched = true ∧ scalerOk s 2 16383 = false ∧ (rawInput s 16383 3 w).isSome = true ∧ s.mem.wf = true ∧
     w.regions.filter (fun r => r.source == 2) = [⟨6, 8192, 256, false, 2⟩]) ∧
    (let p : Plane := ⟨1, 2, #[0, 7]⟩
     0 < p.w ∧ 0 < p.h ∧ p.px.size = p.w * p.h ∧ ∀ v, v ∈ p.px.toList → v < 2 ^ 3) := by decide +kernel

/-- A filter-set file whose 64 phases all copy the fourth tap. -/
def copyTap : List Byte := (List.range 64).flatMap fun _ => leBytes 16 (1024 * 2 ^ 48)

/-- Filter set `set` named, its file at `a`. -/
def filtering (set a : Nat) (file : List Byte) (m : Media) : State :=
  { withAlloc [(0x6100, 0x06, set), (0x6100, 0x07, a)] with mem := Memory.write [] 4096 file, media := m }

theorem witness_FilterSets :
    (controlled (filtering 8 4096 [] {}) = true ∧ (filtering 8 4096 [] {}).media.filterNext = none ∧ getReg (filtering 8 4096 [] {}) 0x6100 0x06 = 8) ∧
    badRange (filtering 1 64 [] {}) 64 1024 = true ∧ badRange (filtering 7 4096 [] {}) 4096 1024 = false ∧ filterOk (filterCoefs (List.replicate 1024 0)) = false ∧
    filterOk (filterCoefs copyTap) = true ∧
    (let s := setBlob { ctxIn 3 [] with ctxs := [(16383, {})] } (ctxIndex 16383) 0x25 (List.replicate 16 0 ++ [7, 1] ++ List.replicate 6 0)
     filterUsed s 7 = true ∧ filterUsed s 1 = false ∧ nget s.media.filters 1 = none) ∧
    (nget (filtering 7 4096 [] { filters := [(7, [0])] }).media.filters 7).isSome = true ∧
    (let s := { filtering 0 0 [] { filterNext := some (7, none) } with clk := { now := period serving } }
     controlled s = true ∧ s.media.filterNext = some (7, none) ∧ s.clk.now % period s = 0 ∧ s.media.filterAsked < counterOf s) ∧
    ((filtering 0 0 [] {}).media.filterNext = none) := by decide +kernel
/-! ### Witnesses: power, resets, starts, the dictionary -/

/-- The part in a phase, with its status register of device memory. -/
def phased (p : Phase) (c : Control) (l : List (Nat × Nat × Nat)) : State := { withRegs l with ctl := { c with phase := p } }

theorem witness_Supplies :
    serving.ctl.phase ≠ .off ∧ (phased .off {} []).ctl.phase = .off ∧ (phased .off { tripped := some 0 } []).ctl.tripped.isSome = true ∧
    (phased .off {} []).ctl.tripped = none ∧ portAlive serving = true ∧ portAlive (phased .halted {} []) = false ∧
    ((phased .halted {} []).ctl.phase = .halted ∧ (phased .halted {} []).ctl.tripped = none) ∧ serving.ctl.phase = .service := by decide +kernel

/-- One begin of the present start, with no end. -/
def openBegin : JournalEntry := ⟨3, 1, 0, 1, 0, 0, 0⟩

theorem witness_Perst :
    (let s := phased .starting { journal := [openBegin] } []
     portAlive s = true ∧ s.ctl.phase ≠ .failed ∧ s.ctl.phase = .starting ∧ 2 * s.ctl.journal.length ≤ 65536 ∧ openBegin ∈ s.ctl.journal ∧
     openBegin.event = 1 ∧ openBegin.start = getReg s 0x1200 0x06) ∧
    (let s := phased .failed { lossOfW := true } []
     s.ctl.phase = .failed ∧ s.ctl.lossOfW = true) ∧
    (let s := phased .failed {} [(0x4000, 0x06, 1)]
     portAlive s = true ∧ s.ctl.lossOfW = false ∧ getReg s 0x4000 0x06 = 1) ∧
    (phased .reset { resetKind := 2 } []).ctl.resetKind = 2 ∧ (phased .reset { resetKind := 1 } []).ctl.resetKind ≠ 2 := by decide +kernel

/-- A transfer from device memory into a tile, and two of them on tile 383 from a stack of die 0. -/
def fromStack : Desc := { parseDesc descBytes with dstKind := 1 }
def bridged : State := { withAlloc [] with tiles := [(383, { queue := [queued 0 fromStack true, queued 1 fromStack true] })] }

theorem witness_ResetsAndBridges :
    ((phased .starting {} []).ctl.phase = .starting ∧ controlled serving = true ∧ parked serving = false ∧ serving.ctl.recovering = none ∧
      parkRefused serving = false ∧ getReg serving 0x1200 0x10 ≠ 2) ∧
    (let s := withRegs [(0x1200, 0x10, 1)]
     controlled s = true ∧ parked s = true ∧ parkRefused s = true ∧ getReg s 0x1200 0x10 = 1) ∧
    getReg (withRegs [(0x1200, 0x10, 2)]) 0x1200 0x10 = 2 ∧
    (phased .service { inCharge := some 0, recovering := some 7 } []).ctl.recovering.isSome = true ∧
    (inService serving = true ∧ inService (phased .service { recovering := some 7 } []) = true) ∧
    (let s := bridged
     inService s = true ∧ (tileOf s 383).queue.find? (fun q => q.order == 1 && q.started) = some (queued 1 fromStack true) ∧
     ((tileOf s 383).queue.all fun e => e.order != 1 || e == queued 1 fromStack true) = true ∧ crossesBridge 0 7 = true ∧
     transferUnits s 383 (queued 1 fromStack true) = some ((0, 385), 7, 383) ∧ transferUnits s 383 (queued 0 fromStack true) = some ((0, 385), 7, 383) ∧
     (queued 0 fromStack true).arrived < (queued 1 fromStack true).arrived) := by decide +kernel

/-- What a start finds with nothing wrong. -/
def allWell : StartFindings := ⟨[], [], none, true, true, true, 500, [], [], true, []⟩

/-- A manifest that a start accepts: four spare tiles on each die. -/
def goodCopy : Manifest := { spare := (List.range 32).map (fun i => 48 * (i / 4) + i % 4), helperHash := sha384 [] }

theorem witness_Starts :
    (let s := phased .starting { copyA := goodCopy } []
     s.ctl.phase = .starting ∧ s.ctl.clusterOk.length = 2 ∧ allWell.failed = [] ∧ allWell.failedTwice = [] ∧ allWell.lockedAt = none ∧
     manifestOk s allWell = true ∧ getReg s (stackIndex 23) 0x01 < 2 ∧ unended (lastStart (addReg s 0x1200 0x06 1)) 5 11 13 = false ∧
     lanesSpared { allWell with badLanes := [(13, 5), (13, 9)] } 13 = true) ∧
    manifestOk (phased .starting {} []) allWell = false ∧
    (let s := phased .service { inCharge := some 1, recovering := some 7 } []
     controlled s = true ∧ s.ctl.recovering = some 7 ∧ s.ctl.recoverQ = []) ∧
    (phased .service { inCharge := some 1, recovering := some 7, recoverQ := [0] } []).ctl.recoverQ = 0 :: [] ∧
    (let s := withRegs [(0x1200, 0x10, 3)]
     controlled s = true ∧ s.ctl.recovering = none ∧ getReg s 0x1200 0x10 = 3) ∧
    getReg serving 0x1200 0x10 ≠ 3 := by decide +kernel

/-- The part with identity 0 and the buffer of a report at 4096. -/
def identified (cap : Nat) : State :=
  let s := withAlloc [(0x1300, 0x01, 1), (0x1300, 0x0D, 4096), (0x1300, 0x0E, cap)]
  { s with ctl := { s.ctl with identity := some 0 } }

theorem witness_Recovery :
    (controlled serving = true ∧ ¬(3 = 3 ∧ 0 < 24 ∧ getReg serving (stackIndex 0) 0x01 = 3) ∧ 95 ∉ serving.ctl.linksOut ∧
      getReg (withRegs [(stackIndex 23, 0x01, 3)]) (stackIndex 23) 0x01 = 3) ∧
    (getReg serving 0x1300 0x01 ≠ 1 ∧ getReg (identified 0) 0x1300 0x01 = 1 ∧ (identified 0).ctl.identity = some 0 ∧
      getReg (identified 0) 0x1300 0x0E = 0 ∧ getReg (identified 65536) 0x1300 0x0E = 65536 ∧ badRange (identified 65536) 4096 40000 = false ∧
      badRange (identified 65536) 4096 65537 = true ∧ (identified 65536).mem.wf = true) ∧
    (let s := withRegs [(0x4000, 0x08, 4)]
     controlled s = true ∧ getReg s 0x4000 0x08 = 4 ∧ s.fabric.restored = [] ∧ getBlob s 0x4000 0x09 = []) ∧
    getReg serving 0x4000 0x08 ≠ 4 ∧
    (let s := setBlob (withRegs [(0x4000, 0x08, 4)]) 0x4000 0x09 (leBytes 2 4095 ++ List.replicate 48 9)
     awaited s = [(4095, List.replicate 48 9)] ∧ slotState s 4095 ≠ 3 ∧ getBlob s 0x4000 0x09 ≠ [] ∧
     (let t : State := { setReg s (slotIndex 4095) 0x01 3 with pkgs := [(4095, { pkgWith plainClass with digest := List.replicate 48 9 })] }
      slotState t 4095 = 3 ∧ (pkgOf t 4095).map (·.digest) = some (List.replicate 48 9))) := by decide +kernel

/-- The same in the report's size: it is 256 bytes and the two signatures. -/
theorem witness_Recovery_report : (reportBody (identified 65536)).length + 384 + 35664 ≤ 65536 := by decide +kernel

/-- A write to #3000.01 that passes its checks, writes that do not, and the fault log's acknowledgement. -/
theorem witness_DictionarySettings :
    (∃ row, findObj 0x3000 0x01 = some row ∧ served serving 0x3000 = true ∧ (recordOf 0x3000).isSome = true ∧
      writeRefused serving .host row 0x3000 0x01 (leBytes 2 1000) = none ∧ row.ty.width.isSome = true ∧
      behaviour serving .host 0x3000 0x01 (leBytes 2 1000) = none ∧ mirroredIndex 0x3000 = false ∧
      recordOf 0x3000 ∉ [some 0x4101, some 0x6001, some 0x1110, some 0x1130, some 0x5010, some 0xC000] ∧ typeFits row 3 = false ∧
      rangeOk serving row 0x3000 0x01 (leBytes 2 0) = false) ∧
    (findObj 0xE000 0x01).map (·.access) = some .ro ∧ (findObj 0x3000 0x00).map (·.access) = some .const ∧
    mayWrite .peer 0x1200 0x01 = false ∧ (findObj 0x2000 0x01).map (·.access) = some .rwi ∧
    unitIdle { ctxIn 3 [] with ctxs := [(16383, {})] } 0x2000 0x01 1 = false ∧
    (let s := withRegs [(0xE000, 0x01, 5), (0xE000, 0x04, 3)]
     served s 0xE000 = true ∧ getReg s 0xE000 0x04 ≤ 3 ∧ 5 ≤ getReg s 0xE000 0x01 ∧ 2 < getReg s 0xE000 0x04) ∧
    (serving.clk.rate = 0x07 ∧ ({ serving with clk := { rate := 0xFF } } : State).clk.rate = 0xFF ∧ served serving 0x2000 = true ∧
      (findObj 0x2000 0x01).isSome = true ∧ (findObj 0x2000 0x02).isSome = true ∧ leNat (leBytes 1 0x0B) = 0x0B ∧ leNat (leBytes 4 50001) = 50001 ∧
      unitIdle serving 0x2000 0x02 999 = true ∧ mayWrite .host 0x2000 0x02 = true ∧ frameTagged (List.replicate 12 1) = true) := by
  refine ⟨⟨_, rfl, by decide +kernel⟩, by decide +kernel⟩

/-- A request frame: one read of #1000.00; `tag` marks it authenticated. -/
def readFrame (tag counter : Nat) (mac : List Byte) : List Byte :=
  let n := 44 + mac.length
  leBytes 2 0x5444 ++ [1, 1] ++ leBytes 4 9 ++ leBytes 2 n ++ [1, BitVec.ofNat 8 tag] ++ leBytes 4 0 ++ leBytes 8 counter ++ leBytes 8 0 ++
    [1, 0] ++ leBytes 2 0x1000 ++ leBytes 8 0 ++ mac

/-- The part with the field network open on port 0 and the key of all zeros; its counter stands at `top`. -/
def netted (auth top : Nat) : State :=
  let s := setBlob (withRegs [(0x1100, 0x02, 1), (0x1100, 0x07, auth)]) 0x1100 0x08 (List.replicate 32 0)
  { s with ctl := { s.ctl with counterTop := top } }

theorem witness_DtpRequests :
    (portAlive serving = true ∧ serving.ctl.d3hot = false ∧ serving.ctl.linkUp = true ∧ 0 % 2 ^ 32 = serving.ctl.reqToken ∧
      1 % 2 ^ 32 ≠ serving.ctl.reqToken ∧ noCluster serving = false ∧ (parseFrame .host (readFrame 0 0 [])).map (·.length) = some 1) ∧
    noCluster (phased .service {} []) = true ∧
    (let f := readFrame 0 0 []
     portAlive (netted 0 0) = true ∧ noCluster (netted 0 0) = false ∧ netPortOpen (netted 0 0) 0 = true ∧ (parseFrame .net f).isSome = true ∧
     frameTagged f = false ∧ getReg (netted 0 0) 0x1100 0x07 = 0 ∧ getReg (netted 1 0) 0x1100 0x07 ≠ 0) ∧
    netPortOpen serving 3 = false ∧
    ((parseFrame .peer (readFrame 0 0 [])).isSome = true ∧ controlled serving = true ∧ getReg serving 0x1100 0x0A ≠ 0 ∧
      getReg (withRegs [(0x1100, 0x0A, 0)]) 0x1100 0x0A = 0) := by decide +kernel

/-- A request with a tag that is right, and one with a tag that is wrong. -/
theorem witness_DtpRequests_tag :
    let f := readFrame 1 5 (hmac256 (List.replicate 32 0) ((readFrame 1 5 (List.replicate 32 0)).take 44))
    (frameTagged f && (hmac256 (getBlob (netted 1 5) 0x1100 0x08) (f.take (f.length - 32)) == f.drop (f.length - 32))) = true ∧
    (parseFrame .net f).isSome = true ∧ frameCounter f = 5 ∧ (5 : Nat) ≤ (netted 1 5).ctl.counterTop ∧ (netted 1 4).ctl.counterTop < 5 := by decide +kernel

/-! ### Witnesses: the machine -/

/-- The guards of the commands, each met: the part in service, in control and reachable, and what single commands ask of their unit. -/
theorem witness_EveryCommandEffect :
    (inService serving = true ∧ controlled serving = true ∧ portAlive serving = true ∧ served serving 0xE000 = true ∧ badAccess 2 4 = true) ∧
    (tileUsable serving 383 = true ∧ (tileOf serving 383).checking = false ∧ laneLive serving 127 = true ∧ stackLive serving 23 = true) ∧
    (laneLive lanesBusy 127 = true ∧ (laneNext lanesBusy 127).isSome = true ∧ (unitLive lanesBusy 3 1 && unitBusy lanesBusy 3 1) = true) ∧
    (unitLive (serviceAt 0xF001 1) (kindNo .encode) 1 && unitBusy (serviceAt 0xF001 1) (kindNo .encode) 1) = true ∧
    (((tileOf waiting 43).part.map fun p => waitExpired waiting (tileOf waiting 43) p) = some true ∧
      ((tileOf (streaming []) 43).part.map fun p => partWaits (streaming []) (tileOf (streaming []) 43) p) = some false) ∧
    (let s := faulty none true
     (tileOf s 43).checking = true ∧ retirePending s 1 43 = false) ∧
    (laneOf (unitsFaulted true 0) 127).checking = true ∧ (lineSource (weighted true) 7 4111).isSome = true ∧
    (let s := putLink (linked []) 95 { replay := [(4095, oneFrame)] }
     (linkUp s 95 && !(linkOf s 95).replay.isEmpty) = true) ∧
    (let s : State := { fnState { next := some none } with clk := { now := period serving }, cdf := { pending := some ⟨0, none, [], []⟩ } }
     controlled s = true ∧ fnDue s 31 = true ∧ swapDue s = true) ∧
    (let s : State := { switching { switchTo := some 4095 } with clk := { now := period serving }, media := { filterNext := some (7, none) } }
     controlled s = true ∧ switchDue s 16383 = true ∧ filterDue s = true) ∧
    (ctxState (ctxIn 1 []) 16383 = 1 ∧ getReg (withRegs [(0x1200, 0x10, 1)]) 0x1200 0x10 = 1 ∧
      getReg (withRegs [(0x4000, 0x08, 4), (0x4100, 0x09, 2)]) 0x4000 0x08 = 4 ∧ getReg serving 0x4000 0x08 ≠ 4) ∧
    ((phased .starting {} []).ctl.phase = .starting ∧ serving.ctl.phase ≠ .off) := by decide +kernel

theorem witness_StepRunsFront : ({ serving with pending := [.tickBoundary] } : State).pending = .tickBoundary :: [] ∧ serving.pending = [] := by decide

theorem witness_MemoryCanonical :
    serving.mem.wf = true ∧ serving.host.wf = true ∧ ∃ t, step { serving with pending := [.tickBoundary] } = .next t := ⟨by decide, by decide, _, rfl⟩

theorem witness_BoundedLogs :
    serving.ctl.log.length ≤ 4096 ∧ serving.ctl.journal.length ≤ 65536 ∧ ∃ t, step { serving with pending := [.mediaPortFault 3] } = .next t :=
  ⟨by decide, by decide, _, rfl⟩

/-- The three changes of phase that the statement allows; the start is one whose identity step fails, since identity keys are free values. -/
theorem witness_PhaseChanges :
    (∃ t, exec (.startSequence { allWell with failed := [(4, 0)] }) (phased .starting { copyA := goodCopy } []) = .next t ∧ t.ctl.phase = .service) ∧
    (∃ t, exec .powerLoss (phased .halted {} []) = .next t ∧ t.ctl.phase ≠ .halted) ∧
    (∃ t, exec (.powerOn true) (phased .off {} []) = .next t ∧ t.ctl.phase ≠ .off) := by
  refine ⟨⟨_, rfl, by decide +kernel⟩, ⟨_, rfl, by decide +kernel⟩, ⟨_, rfl, by decide +kernel⟩⟩
/-! ### The spec's worked examples -/

/-- Stochastic rounding to FP16 of 1 + 2^-11 + 2^-13: a draw of 0x7123 rounds up, one of 0x5FFF does not, both inexact (after R77). -/
theorem test_round_stochastic :
    roundExact 0 4 0x7123 8197 1 (-13) = (0x3C01, fInexact) ∧ roundExact 0 4 0x5FFF 8197 1 (-13) = (0x3C00, fInexact) := by decide +kernel

/-- The dot product of length 4 split over two devices (after R102): both records, their sum, and its FP16 value. -/
theorem test_split_dot :
    let t (a b : Nat) : Term := formProduct 0 (decodeF 0 a) (decodeF 0 b)
    let a := [t 0x7BFF 0x4000, t 0x0001 0x3C00]
    let b := [t 0xFBFF 0x4000, t 0x0001 0x4200]
    exactSum a = 0x1FFC000000100000000 ∧ exactSum b = 0xFFFFFFFFFFFFFE004000000300000000 - 2 ^ 128 ∧
    (match combineAcc true (.exact (exactSum a) 0 2) (.exact (exactSum b) 0 2) with | .ok r => some r | .error _ => none) = some (.exact 0x400000000 0 4) ∧
    roundAcc 0 0 0 1 (.exact 0x400000000 0 4) = (0x0004, 0) := by decide +kernel

/-- The row of the five-symbol example (after R208). -/
def fiveRow : List Nat := [0x03FF, 0x1000, 0x7000, 0x7F80] ++ List.replicate 252 0

/-- Its payload of 22 bytes. -/
theorem test_five_symbols :
    payloadOf 3 (encodeElems [(fiveRow, 0), (fiveRow, 0), (fiveRow, 1), (fiveRow, -1), (fiveRow, 3)]).1 =
      [0x03, 0, 0, 0, 0xC0, 0xAF, 0x56, 0x15, 0, 0x50, 1, 0, 0, 0x78, 8, 0, 0, 0, 8, 0, 0, 0] := by decide +kernel

/-- 24 frames per second in a house of 60 Hz: the 2:3 pattern (after R47). -/
theorem test_cadence : (List.range 6).map (fun j => 100 + cadenceRound 24 1 50000000 j) = [100, 102, 105, 107, 110, 112] := by decide +kernel

/-- The request of the example after R388: #2100.01 = 850 and a read of #8025.02, answered in 60 bytes. -/
theorem test_window_request :
    let f : List Byte := [0x44, 0x54, 1, 1, 7, 0, 0, 0, 0x3C, 0, 2] ++ List.replicate 21 0 ++ [2, 1, 0, 0x21, 2, 0, 0, 0, 0, 0, 0, 0, 0x52, 3, 0, 0] ++
      [1, 2, 0x25, 0x80, 0, 0, 0, 0, 0, 0, 0, 0]
    let s := withRegs [(ctxIndex 37, 0x02, 3)]
    (match exec (.dictWindowRequest 1 ⟨f, true⟩) s with
      | .next t => (t.ctl.response.drop 32, getReg t 0x2100 0x01)
      | _ => ([], 0)) =
      ([2, 1, 0, 0x21, 0, 0, 0, 0, 0, 0, 0, 0] ++ [1, 2, 0x25, 0x80, 1, 0, 0, 0, 0, 0, 0, 0, 3, 0, 0, 0], 850) := by decide +kernel

/-! ### Some commands -/

/-- VEW adds two FP16 elements: 1 + 2 is 3 (R129). -/
theorem test_vew_add :
    let c : CmdRec := { func := 1, m := 1, n := 1, locA := 0, locB := 2, locOut := 4 }
    (match exec (.vew 43) (partAt opVEW c [0, 0x3C, 0, 0x40] []) with
      | .next t => (tileOf t 43).lo.num 4 2
      | _ => 0) = 0x4200 := by decide +kernel

/-- A free of an address that no allocation begins at changes only its status (R446). -/
theorem test_free_unknown :
    (match exec .free (withAlloc [(0x4000, 0x11, 8192)]) with
      | .next t => (t.allocs.length, getReg t 0x4000 0x13)
      | _ => (0, 0)) = (1, stBadAddress) := by decide +kernel

/-- The reset state takes PERST# deassertion and begins a cold start (R470, R474). -/
theorem test_first_start :
    (match exec (.perstDeassert true) State.reset with
      | .next t => (decide (t.ctl.phase = .starting), decide (t.ctl.kind = .cold))
      | _ => (false, false)) = (true, true) := by decide +kernel

/-- A message of four bytes through the queue: the step runs the front command and leaves the rest (log 1). -/
theorem test_step_front :
    (match step { State.reset with pending := [.perstDeassert true, .tickBoundary] } with
      | .next t => decide (t.pending = [.tickBoundary])
      | _ => false) = true := by decide +kernel

/-! ### Ill-formed commands are refused, one for each check -/

theorem test_wf_tile : (Instr.nop 384).wf = false ∧ (Instr.nop 383).wf = true := by decide
theorem test_wf_lane : (Instr.laneFault 128).wf = false ∧ (Instr.laneFault 127).wf = true := by decide
theorem test_wf_die : (Instr.currentStepUp 8 0).wf = false ∧ (Instr.currentStepUp 7 0).wf = true := by decide
theorem test_wf_any_die : (Instr.powerEstimate 10 0 0).wf = false ∧ (Instr.powerEstimate 9 0 0).wf = true := by decide
theorem test_wf_stack : (Instr.patrolScrub 24).wf = false ∧ (Instr.patrolScrub 23).wf = true := by decide
theorem test_wf_context : (Instr.contextStart 16384).wf = false ∧ (Instr.contextStart 16383).wf = true := by decide
theorem test_wf_slot : (Instr.packageLoad 4096).wf = false ∧ (Instr.packageLoad 4095).wf = true := by decide
theorem test_wf_flow : (Instr.receiverBench 4096 0).wf = false ∧ (Instr.receiverBench 4095 63).wf = true := by decide
theorem test_wf_receiver : (Instr.receiverReady 0 64).wf = false := by decide
theorem test_wf_ring : (Instr.completionPost 16).wf = false ∧ (Instr.completionPost 15).wf = true := by decide
theorem test_wf_link : (Instr.linkAckTimeout 96).wf = false ∧ (Instr.linkAckTimeout 95).wf = true := by decide
theorem test_wf_peer : (Instr.peerLost 4096).wf = false ∧ (Instr.peerLost 4095).wf = true := by decide
theorem test_wf_port : (Instr.packetSend 4).wf = false ∧ (Instr.packetSend 3).wf = true := by decide
theorem test_wf_group : (Instr.tickBarrier 32 0 []).wf = false ∧ (Instr.tickBarrier 31 0 []).wf = true := by decide
theorem test_wf_core :
    (Instr.codecCoreFault .encode 12).wf = false ∧ (Instr.codecCoreFault .decode 16).wf = false ∧ (Instr.codecCoreFault .scaler 4).wf = false ∧
    (Instr.codecCoreFault .decode 15).wf = true := by decide
theorem test_wf_engine : (Instr.engineFault 8).wf = false ∧ (Instr.engineFault 7).wf = true := by decide
theorem test_wf_rail : (Instr.railLost 20).wf = false ∧ (Instr.railLost 19).wf = true := by decide
theorem test_wf_reason : (Instr.throttleEpisodeEnd 7 0).wf = false ∧ (Instr.throttleEpisodeEnd 6 0).wf = true := by decide
theorem test_wf_source : (Instr.sourceLost 0 0).wf = false ∧ (Instr.sourceLost 4 0).wf = false ∧ (Instr.sourceLost 3 0).wf = true := by decide
theorem test_wf_bits : (Instr.faultLogAcknowledge (2 ^ 64)).wf = false ∧ (Instr.deviceFlagsClear 16).wf = false := by decide
theorem test_wf_work : (Instr.frameCommit (.frame 16384 0)).wf = false ∧ (Instr.frameCommit (.job 16 0 0)).wf = false := by decide
theorem test_wf_trip : (Instr.thermtrip 10).wf = false ∧ (Instr.thermtrip 40).wf = false ∧ (Instr.thermtrip 39).wf = true := by decide
theorem test_wf_queue : (Instr.descriptorStart 0 4).wf = false ∧ (Instr.descriptorStart 0 3).wf = true := by decide
theorem test_wf_others :
    (Instr.contextBind 0 0xFFFF).wf = false ∧ (Instr.functionSlotSwitch 32).wf = false ∧ (Instr.cdfBankFree 2).wf = false ∧
    (Instr.filterSetSwitch 0).wf = false ∧ (Instr.filterSetSwitch 8).wf = false ∧ (Instr.allocationRelease 1).wf = false ∧
    (Instr.keyRequest .peer).wf = false ∧ (Instr.bridgeError 14).wf = false ∧ (Instr.controlCoreFail 0 4).wf = false ∧
    (Instr.dtpNetRequest 5 ⟨[], true⟩).wf = false ∧ (Instr.umpireConfigurationDigest 0 []).wf = false ∧
    (Instr.paltonDataFrame 0 { oneFrame with data := [] }).wf = false := by decide

end Sys2Proof.Tests
end

section
/-! Clearing the sticky flags (R86, R87): the write-one-to-clear of a register commutes with the OR of registers, and one write to #5000.05
touches the selected tile's register alone. -/
namespace Sys2Proof.Machine
open Sys2Proof

theorem whenService_of_inService {s : State} (h : inService s = true) (f : State → State) : whenService s f = .next (f s) := by
  simp [whenService, h]

theorem exec_deviceFlagsClear {s : State} (h : inService s = true) (mask : Nat) :
    exec (.deviceFlagsClear mask) s = .next (clearDeviceFlags s mask) :=
  whenService_of_inService h (clearDeviceFlags · mask)

theorem exec_tileFlagsClear {s : State} (h : inService s = true) (mask : Nat) :
    exec (.tileFlagsClear mask) s = .next (clearTileFlags s mask) :=
  whenService_of_inService h (clearTileFlags · mask)

/-! ### One register -/

@[simp] theorem clearFlagBits_zero (mask : Nat) : clearFlagBits 0 mask = 0 := by simp [clearFlagBits]

theorem clearFlagBits_or (a b mask : Nat) : clearFlagBits (a ||| b) mask = clearFlagBits a mask ||| clearFlagBits b mask := by
  have hmod : (a ||| b) % 16 = a % 16 ||| b % 16 := Nat.or_mod_two_pow (n := 4)
  simp only [clearFlagBits, hmod, Nat.and_or_distrib_right]

/-! ### The registers of all tiles -/

/-- Registers that the clearing leaves at 0 are dropped from the table: they add nothing to the OR. -/
theorem deviceFlags_clearDeviceFlags (s : State) (mask : Nat) :
    deviceFlags (clearDeviceFlags s mask) = clearFlagBits (deviceFlags s) mask := by
  have hdrop (a : Nat) (e : Nat × Nat) :
      (if (clearFlagBits e.2 mask != 0) = true then a ||| clearFlagBits e.2 mask else a) = a ||| clearFlagBits e.2 mask := by
    by_cases h : clearFlagBits e.2 mask = 0 <;> simp [h]
  calc deviceFlags (clearDeviceFlags s mask)
    _ = s.flags.foldl (fun a e => a ||| clearFlagBits e.2 mask) (clearFlagBits 0 mask) := by
      simp only [deviceFlags, clearDeviceFlags, List.foldl_filter, List.foldl_map, hdrop, clearFlagBits_zero]
    _ = clearFlagBits (deviceFlags s) mask :=
      List.foldl_hom (clearFlagBits · mask) fun a e => (clearFlagBits_or a e.2 mask).symm

theorem mem_flags_clearDeviceFlags {s : State} {mask : Nat} {e : Nat × Nat} (h : e ∈ (clearDeviceFlags s mask).flags) :
    ∃ r, (e.1, r) ∈ s.flags ∧ e.2 = clearFlagBits r mask := by
  obtain ⟨⟨t, r⟩, hmem, rfl⟩ := List.mem_map.mp (List.mem_filter.mp h).1
  exact ⟨r, hmem, rfl⟩

/-! ### The register of the selected tile -/

theorem clearTileFlags_of_disabled {s : State} (h : tileDisabled s (getReg s 0x5000 0x04) = true) (mask : Nat) :
    clearTileFlags s mask = s := by
  simp [clearTileFlags, h]

theorem flags_clearTileFlags {s : State} (h : tileDisabled s (getReg s 0x5000 0x04) = false) (mask : Nat) :
    (clearTileFlags s mask).flags =
      if clearFlagBits (tileFlagsOf s (getReg s 0x5000 0x04)) mask = 0 then ndel s.flags (getReg s 0x5000 0x04)
      else nset s.flags (getReg s 0x5000 0x04) (clearFlagBits (tileFlagsOf s (getReg s 0x5000 0x04)) mask) := by
  simp [clearTileFlags, h]

theorem tileFlagsOf_clearTileFlags_selected {s : State} (h : tileDisabled s (getReg s 0x5000 0x04) = false) (mask : Nat) :
    tileFlagsOf (clearTileFlags s mask) (getReg s 0x5000 0x04) = clearFlagBits (tileFlagsOf s (getReg s 0x5000 0x04)) mask := by
  rw [tileFlagsOf, flags_clearTileFlags h]
  split
  · next hzero => rw [ngetD_ndel_same, hzero]
  · exact ngetD_nset_same ..

theorem tileFlagsOf_clearTileFlags_ne {s : State} (h : tileDisabled s (getReg s 0x5000 0x04) = false) (mask : Nat) {k : Nat}
    (hk : k ≠ getReg s 0x5000 0x04) : tileFlagsOf (clearTileFlags s mask) k = tileFlagsOf s k := by
  rw [tileFlagsOf, flags_clearTileFlags h]
  split
  · exact ngetD_ndel_ne _ _ hk.symm
  · exact ngetD_nset_ne _ _ _ hk.symm

/-! ### The obligation -/

/-- Settles O12: clearing commutes with the OR over all tiles, and a write to #5000.05 sets or deletes the selected tile's entry alone. -/
theorem stickyFlags : Obligations.StickyFlags := by
  unfold Obligations.StickyFlags
  refine ⟨fun s mask hs => ?device, fun s mask hs hd => ?tile, fun s mask hs hd => ?disabled⟩
  case device =>
    exact ⟨_, exec_deviceFlagsClear hs mask, deviceFlags_clearDeviceFlags s mask, fun _ => mem_flags_clearDeviceFlags,
      clearDeviceFlags_keeps s mask⟩
  case tile =>
    exact ⟨_, exec_tileFlagsClear hs mask, tileFlagsOf_clearTileFlags_selected hd mask,
      fun _ => tileFlagsOf_clearTileFlags_ne hd mask, clearTileFlags_keeps s mask⟩
  case disabled => rw [exec_tileFlagsClear hs, clearTileFlags_of_disabled hd]

end Sys2Proof.Machine
end

section
/-! Accumulator records (R98, R99): numbers laid out as fields of bytes read back as they were written, and two's complement codes read back as
the balanced remainder. -/
namespace Sys2Proof.Machine
open Sys2Proof

/-! ### Two's complement -/

theorem signedOf_eq_bmod (w n : Nat) : signedOf w n = Int.bmod n (2 ^ w) := by
  have hhalf : n % 2 ^ w < 2 ^ (w - 1) ↔ n % 2 ^ w < (2 ^ w + 1) / 2 := by
    cases w with
    | zero => simp [Nat.mod_one]
    | succ w => rw [Nat.add_sub_cancel, show (2 ^ (w + 1) + 1) / 2 = 2 ^ w by omega]
  rw [signedOf, Int.bmod_def]
  simp only [hhalf]
  norm_cast

theorem two_pow_cast_pos (w : Nat) : (0 : Int) < (2 ^ w : Nat) := Int.natCast_pos.mpr (Nat.two_pow_pos w)

theorem signedOf_codeOf (w : Nat) (z : Int) : signedOf w (codeOf w z) = z.bmod (2 ^ w) := by
  have hcode : (codeOf w z : Int) = z % (2 ^ w : Nat) := 
    Int.toNat_of_nonneg (Int.emod_nonneg z (Int.ne_of_gt (two_pow_cast_pos w)))
  rw [signedOf_eq_bmod, hcode, Int.emod_bmod]

theorem wrapSigned_eq_bmod (w : Nat) (z : Int) : wrapSigned w z = z.bmod (2 ^ w) := signedOf_codeOf w z

theorem codeOf_lt (w : Nat) (z : Int) : codeOf w z < 2 ^ w := by
  have hlt : z % (2 ^ w : Nat) < (2 ^ w : Nat) := Int.emod_lt_of_pos z (two_pow_cast_pos w)
  exact (Int.toNat_lt (Int.emod_nonneg z (Int.ne_of_gt (two_pow_cast_pos w)))).mpr hlt

/-- The code of an anchor is never the one that says none (R99). -/
theorem codeOf_sixteen_ne_none {e : Int} (hlo : -2 ^ 15 < e) (hhi : e < 2 ^ 15) : codeOf 16 e ≠ 0x8000 := by
  unfold codeOf
  omega

/-! ### Fields of bytes -/

@[simp] theorem length_leBytes (k n : Nat) : (leBytes k n).length = k := by
  induction k generalizing n with
  | zero => rfl
  | succ k ih => simp [leBytes, ih]

theorem leNat_leBytes (k n : Nat) : leNat (leBytes k n) = n % 256 ^ k := by
  induction k generalizing n with
  | zero => simp [leBytes, leNat, Nat.mod_one]
  | succ k ih => simp [leBytes, leNat, ih, Nat.pow_succ', Nat.mod_mul]

theorem leNat_replicate_zero (k : Nat) : leNat (List.replicate k 0#8) = 0 := by
  induction k with
  | zero => rfl
  | succ k ih => simp [List.replicate_succ, leNat, ih]

theorem numAt_append_left {a b : List Byte} {off n : Nat} (h : off + n ≤ a.length) : numAt (a ++ b) off n = numAt a off n := by
  simp only [numAt, sliceAt]
  rw [List.drop_append_of_le_length (by omega), List.take_append_of_le_length (by simp; omega)]

theorem numAt_append_right {a b : List Byte} {off n : Nat} (h : a.length ≤ off) :
    numAt (a ++ b) off n = numAt b (off - a.length) n := by
  simp [numAt, sliceAt, List.drop_append, List.drop_eq_nil_of_le h]

/-- The field in front of the rest of a record. -/
theorem numAt_leBytes (k n : Nat) : numAt (leBytes k n) 0 k = n % 256 ^ k := by
  rw [numAt, sliceAt, List.drop_zero, List.take_of_length_le (by simp), leNat_leBytes]

theorem numAt_replicate_zero (k off n : Nat) : numAt (List.replicate k 0) off n = 0 := by
  simp [numAt, sliceAt, leNat_replicate_zero]

/-! ### Records read back -/

theorem exactRecord_fields (s : Int) {tag count : Nat} (htag : tag < 8) (hcount : count ≤ maxProducts) :
    numAt (exactRecord s tag count) 0 16 = codeOf 128 s ∧ numAt (exactRecord s tag count) 16 4 = count ∧
    numAt (exactRecord s tag count) 20 1 = tag ∧ numAt (exactRecord s tag count) 21 1 = 1 ∧
    numAt (exactRecord s tag count) 22 16 = 0 := by
  unfold maxProducts at hcount
  simp (disch := simp) only [exactRecord, numAt_append_left, numAt_append_right, List.length_append, length_leBytes, Nat.reduceAdd,
    Nat.reduceSub, numAt_leBytes, numAt_replicate_zero]
  exact ⟨Nat.mod_eq_of_lt (codeOf_lt 128 s), by omega, by omega, by decide, trivial⟩

theorem anchoredRecord_fields (w : Int) {tag count : Nat} (tr : Bool) (an : Option Int) (htag : tag < 8) (hcount : count ≤ maxProducts) :
    numAt (anchoredRecord w tag count tr an) 0 32 = codeOf 256 w ∧ numAt (anchoredRecord w tag count tr an) 32 4 = count ∧
    numAt (anchoredRecord w tag count tr an) 36 2 = an.elim 0x8000 (codeOf 16) ∧
    numAt (anchoredRecord w tag count tr an) 38 1 = tag + (if tr then 8 else 0) ∧ numAt (anchoredRecord w tag count tr an) 39 1 = 2 ∧
    numAt (anchoredRecord w tag count tr an) 40 16 = 0 := by
  unfold maxProducts at hcount
  simp (disch := simp) only [anchoredRecord, numAt_append_left, numAt_append_right, List.length_append, length_leBytes, Nat.reduceAdd,
    Nat.reduceSub, numAt_leBytes, numAt_replicate_zero]
  refine ⟨Nat.mod_eq_of_lt (codeOf_lt 256 w), by omega, ?anchor, by split <;> omega, by decide, trivial⟩
  cases an with
  | none => rfl
  | some e => exact Nat.mod_eq_of_lt (codeOf_lt 16 e)

theorem parseRecord_exactRecord {s : Int} {tag count : Nat} (hlo : -2 ^ 127 ≤ s) (hhi : s < 2 ^ 127) (htag : tag < 8)
    (hcount : count ≤ maxProducts) : parseRecord false (exactRecord s tag count) = .ok (.exact s tag count) := by
  obtain ⟨hsum, hcnt, htg, hkind, hrest⟩ := exactRecord_fields s htag hcount
  have hs : signedOf 128 (codeOf 128 s) = s := (signedOf_codeOf 128 s).trans (Int.bmod_eq_of_le (by omega) (by omega))
  have htag' : ¬tag ≥ 16 := by omega
  simp [parseRecord, hsum, hcnt, htg, hkind, hrest, hs, htag', Nat.mod_eq_of_lt htag, hcount]

/-- The byte that holds a tag in bits 2 to 0 and the truncated bit in bit 3 (R99). -/
theorem tagByte_fields : ∀ tag < 8, ∀ tr : Bool,
    tag + (if tr then 8 else 0) < 16 ∧ (tag + if tr then 8 else 0) % 8 = tag ∧ (tag + if tr then 8 else 0).testBit 3 = tr := by
  decide

theorem anchorField_read {an : Option Int} (h : ∀ e, an = some e → -2 ^ 15 < e ∧ e < 2 ^ 15) :
    (if an.elim 0x8000 (codeOf 16) = 0x8000 then none else some (signedOf 16 (an.elim 0x8000 (codeOf 16)))) = an := by
  cases an with
  | none => rfl
  | some e =>
    obtain ⟨hlo, hhi⟩ := h e rfl
    rw [Option.elim_some, if_neg (codeOf_sixteen_ne_none hlo hhi), signedOf_codeOf, Int.bmod_eq_of_le (by omega) (by omega)]

theorem parseRecord_anchoredRecord {w : Int} {tag count : Nat} {tr : Bool} {an : Option Int} (hlo : -2 ^ 255 ≤ w) (hhi : w < 2 ^ 255)
    (htag : tag < 8) (hcount : count ≤ maxProducts) (han : ∀ e, an = some e → -2 ^ 15 < e ∧ e < 2 ^ 15) :
    parseRecord true (anchoredRecord w tag count tr an) = .ok (.anch w tag count tr an) := by
  obtain ⟨hwin, hcnt, hanchor, htg, hkind, hrest⟩ := anchoredRecord_fields w tr an htag hcount
  obtain ⟨hbyte, hmod, hbit⟩ := tagByte_fields tag htag tr
  have hw : signedOf 256 (codeOf 256 w) = w := (signedOf_codeOf 256 w).trans (Int.bmod_eq_of_le (by omega) (by omega))
  simp only [parseRecord, if_true, hwin, hcnt, hanchor, htg, hkind, hrest, hw, hmod, hbit, anchorField_read han]
  simp [Nat.not_le_of_lt hbyte, hcount]

theorem length_exactRecord (s : Int) (tag count : Nat) : (exactRecord s tag count).length = 32 := by
  simp [exactRecord]

theorem length_anchoredRecord (w : Int) (tag count : Nat) (tr : Bool) (an : Option Int) :
    (anchoredRecord w tag count tr an).length = 48 := by
  simp [anchoredRecord]

end Sys2Proof.Machine
end

section
/-! Sums that do not depend on the order of their products (R88, R90, R92, R93), and the combination of records (R100, R102). -/
namespace Sys2Proof.Machine
open Sys2Proof

/-! ### Orders of products -/

theorem termTag_perm {a b : List Term} (h : a.Perm b) : termTag a = termTag b :=
  h.foldl_eq' (fun x _ y _ z => by rw [Nat.or_assoc, Nat.or_comm x.tag, Nat.or_assoc]) 0

theorem exactSum_perm {a b : List Term} (h : a.Perm b) : exactSum a = exactSum b := by
  refine h.foldl_eq' (fun x _ y _ z => ?_) 0
  by_cases hx : x.mant = 0
  · simp only [if_pos hx]
  · by_cases hy : y.mant = 0
    · simp only [if_pos hy]
    · simp only [if_neg hx, if_neg hy]
      exact Int.add_right_comm ..

theorem maxAnchor_none_left (a : Option Int) : maxAnchor none a = a := rfl

theorem maxAnchor_none_right (a : Option Int) : maxAnchor a none = a := by cases a <;> rfl

theorem maxAnchor_some (x y : Int) : maxAnchor (some x) (some y) = some (max x y) := rfl

theorem maxAnchor_comm (a b : Option Int) : maxAnchor a b = maxAnchor b a := by
  cases a with
  | none => rw [maxAnchor_none_left, maxAnchor_none_right]
  | some x =>
    cases b with
    | none => rw [maxAnchor_none_left, maxAnchor_none_right]
    | some y => rw [maxAnchor_some, maxAnchor_some, Int.max_comm]

theorem maxAnchor_assoc (a b c : Option Int) : maxAnchor (maxAnchor a b) c = maxAnchor a (maxAnchor b c) := by
  cases a with
  | none => rw [maxAnchor_none_left, maxAnchor_none_left]
  | some x =>
    cases b with
    | none => rw [maxAnchor_none_right, maxAnchor_none_left]
    | some y =>
      cases c with
      | none => rw [maxAnchor_none_right, maxAnchor_none_right]
      | some z => simp only [maxAnchor_some, Int.max_assoc]

theorem maxAnchor_right_comm (z x y : Option Int) : maxAnchor (maxAnchor z x) y = maxAnchor (maxAnchor z y) x := by
  rw [maxAnchor_assoc, maxAnchor_comm x, maxAnchor_assoc]

/-- The anchor that one product asks for (R92). -/
def termAnchor (t : Term) : Option Int := if t.mant = 0 then none else some (floorLog2 t.mant.natAbs t.exp)

theorem anchorOf_eq_foldl (ts : List Term) : anchorOf ts = ts.foldl (fun a t => maxAnchor a (termAnchor t)) none := by
  unfold anchorOf
  congr
  funext a t
  unfold termAnchor
  split
  · cases a <;> rfl
  · cases a <;> rfl

theorem anchorOf_perm {a b : List Term} (h : a.Perm b) : anchorOf a = anchorOf b := by
  rw [anchorOf_eq_foldl, anchorOf_eq_foldl]
  exact h.foldl_eq' (fun x _ y _ z => maxAnchor_right_comm z _ _) none

theorem windowSum_perm (e : Int) {a b : List Term} (h : a.Perm b) : windowSum e a = windowSum e b :=
  h.foldl_eq' (fun _ _ _ _ _ => Prod.ext (Int.add_right_comm ..) (Bool.or_right_comm ..)) (0, false)

/-! ### Records combined -/

theorem wrapSigned_add_wrapSigned (w : Nat) (x y : Int) : wrapSigned w (x + wrapSigned w y) = wrapSigned w (x + y) := by
  simp only [wrapSigned_eq_bmod, Int.add_bmod_bmod]

theorem wrapSigned_wrapSigned_add (w : Nat) (x y : Int) : wrapSigned w (wrapSigned w x + y) = wrapSigned w (x + y) := by
  simp only [wrapSigned_eq_bmod, Int.bmod_add_bmod]

/-- What a combination of `n` products answers: a reduction too long is refused (R90). -/
def limited (n : Nat) (a : Acc) : Except Nat Acc := if n > maxProducts then .error stReductionTooLong else .ok a

/-- A combination that is refused is refused again with more products, so the later limit decides alone. -/
theorem limited_bind {n n' : Nat} {a b : Acc} {f : Acc → Except Nat Acc} (h : n ≤ n') (hf : f a = limited n' b) :
    (limited n a).bind f = limited n' b := by
  by_cases hn : n > maxProducts
  · rw [limited, limited, if_pos hn, if_pos (Nat.lt_of_lt_of_le hn h)]
    rfl
  · rw [limited, if_neg hn]
    exact hf

theorem combineAcc_exact (strict : Bool) (s s' : Int) (t t' c c' : Nat) :
    combineAcc strict (.exact s t c) (.exact s' t' c') = limited (c + c') (.exact (wrapSigned 128 (s + s')) (t ||| t') (c + c')) := rfl

/-- The windows of two records with one anchor joined; without an anchor there is no window. -/
def joinWindows (an : Option Int) (w w' : Int) : Int := an.elim 0 fun _ => wrapSigned 256 (w + w')

theorem joinWindows_none (w w' : Int) : joinWindows none w w' = 0 := rfl

theorem joinWindows_some (e w w' : Int) : joinWindows (some e) w w' = wrapSigned 256 (w + w') := rfl

theorem joinWindows_assoc (an : Option Int) (w w' w'' : Int) :
    joinWindows an (joinWindows an w w') w'' = joinWindows an w (joinWindows an w' w'') := by
  cases an with
  | none => rw [joinWindows_none, joinWindows_none]
  | some e => simp only [joinWindows_some, wrapSigned_wrapSigned_add, wrapSigned_add_wrapSigned, Int.add_assoc]

theorem joinWindows_comm (an : Option Int) (w w' : Int) : joinWindows an w w' = joinWindows an w' w := by
  simp only [joinWindows, Int.add_comm]

theorem combineAcc_sameAnchor (strict : Bool) (an : Option Int) (w w' : Int) (t t' c c' : Nat) (tr tr' : Bool) :
    combineAcc strict (.anch w t c tr an) (.anch w' t' c' tr' an) =
      limited (c + c') (.anch (joinWindows an w w') (t ||| t') (c + c') (tr || tr') an) := by
  cases an with
  | none => rfl
  | some e => simp [combineAcc, limited, joinWindows]

theorem combineAcc_assoc_exact (strict : Bool) (s s' s'' : Int) (t t' t'' c c' c'' : Nat) :
    ((combineAcc strict (.exact s t c) (.exact s' t' c')).bind fun r => combineAcc strict r (.exact s'' t'' c'')) =
      (combineAcc strict (.exact s' t' c') (.exact s'' t'' c'')).bind fun r => combineAcc strict (.exact s t c) r := by
  rw [combineAcc_exact, combineAcc_exact, limited_bind (f := fun r => combineAcc strict r _) (by omega) (combineAcc_exact ..),
    limited_bind (by omega) (combineAcc_exact ..), wrapSigned_wrapSigned_add, wrapSigned_add_wrapSigned, Int.add_assoc, Nat.or_assoc,
    Nat.add_assoc]

theorem combineAcc_assoc_sameAnchor (strict : Bool) (an : Option Int) (w w' w'' : Int) (t t' t'' c c' c'' : Nat) (tr tr' tr'' : Bool) :
    ((combineAcc strict (.anch w t c tr an) (.anch w' t' c' tr' an)).bind fun r => combineAcc strict r (.anch w'' t'' c'' tr'' an)) =
      (combineAcc strict (.anch w' t' c' tr' an) (.anch w'' t'' c'' tr'' an)).bind fun r => combineAcc strict (.anch w t c tr an) r := by
  rw [combineAcc_sameAnchor, combineAcc_sameAnchor, limited_bind (f := fun r => combineAcc strict r _) (by omega) (combineAcc_sameAnchor ..),
    limited_bind (by omega) (combineAcc_sameAnchor ..), joinWindows_assoc, Nat.or_assoc, Nat.add_assoc, Bool.or_assoc]

theorem combineAcc_comm_sameAnchor (strict : Bool) (an : Option Int) (w w' : Int) (t t' c c' : Nat) (tr tr' : Bool) :
    combineAcc strict (.anch w t c tr an) (.anch w' t' c' tr' an) = combineAcc strict (.anch w' t' c' tr' an) (.anch w t c tr an) := by
  rw [combineAcc_sameAnchor, combineAcc_sameAnchor, joinWindows_comm, Nat.or_comm, Nat.add_comm, Bool.or_comm]

/-- Of two windows with different anchors each is realigned to the greater, in either order. -/
theorem combineAcc_comm_anchors_ne (strict : Bool) {e e' : Int} (h : e ≠ e') (w w' : Int) (t t' c c' : Nat) (tr tr' : Bool) :
    combineAcc strict (.anch w t c tr (some e)) (.anch w' t' c' tr' (some e')) =
      combineAcc strict (.anch w' t' c' tr' (some e')) (.anch w t c tr (some e)) := by
  have hlost (l l' : Bool) : (tr || tr' || l || l') = (tr' || tr || l' || l) := by
    rw [Bool.or_comm tr, Bool.or_right_comm]
  simp only [combineAcc, if_neg h, if_neg h.symm, Nat.add_comm c', Nat.or_comm t', Int.max_comm e', Int.add_comm (realign w' _ _).1, hlost]

theorem combineAcc_comm (strict : Bool) (x y : Acc) : combineAcc strict x y = combineAcc strict y x := by
  cases x with
  | high => cases y <;> rfl
  | exact s t c =>
    cases y with
    | exact s' t' c' => rw [combineAcc_exact, combineAcc_exact, Int.add_comm, Nat.or_comm, Nat.add_comm]
    | anch w' t' c' tr' an' => rfl
    | high => rfl
  | anch w t c tr an =>
    cases y with
    | exact s' t' c' => rfl
    | high => rfl
    | anch w' t' c' tr' an' =>
      by_cases h : an = an'
      · subst h
        exact combineAcc_comm_sameAnchor ..
      · cases an with
        | none =>
          obtain ⟨e', rfl⟩ := Option.ne_none_iff_exists'.mp (Ne.symm h)
          simp only [combineAcc, Nat.add_comm c, Nat.or_comm t, Bool.or_comm tr]
        | some e =>
          cases an' with
          | none => simp only [combineAcc, Nat.add_comm c, Nat.or_comm t, Bool.or_comm tr]
          | some e' => exact combineAcc_comm_anchors_ne strict (by simpa using h) ..

/-! ### The obligation -/

/-- Settles O33: the fields of a record read back one by one; sums fold a right-commutative step; combining adds modulo the width of its field
under one limit on the joint count. -/
theorem records : Obligations.Records := by
  unfold Obligations.Records
  refine ⟨⟨?exact, ?anchored⟩, ⟨?sums, ?windows⟩, combineAcc_comm, ?assoc⟩
  case exact =>
    exact fun z tag count hlo hhi htag hcount => ⟨parseRecord_exactRecord hlo hhi htag hcount, length_exactRecord ..⟩
  case anchored =>
    exact fun z tag count tr an hlo hhi htag hcount han =>
      ⟨parseRecord_anchoredRecord hlo hhi htag hcount han, length_anchoredRecord ..⟩
  case sums => exact fun a b h => ⟨exactSum_perm h, termTag_perm h, anchorOf_perm h⟩
  case windows => exact fun a b e h => windowSum_perm e h
  case assoc =>
    rintro strict x y z (⟨s, t, c, s', t', c', s'', t'', c'', rfl, rfl, rfl⟩ |
      ⟨an, w, t, c, tr, w', t', c', tr', w'', t'', c'', tr'', rfl, rfl, rfl⟩)
    · exact combineAcc_assoc_exact ..
    · exact combineAcc_assoc_sameAnchor ..

end Sys2Proof.Machine
end

section
/-! MMA and CONV without continued targets and without anchors (R88, R90, R121 to R123): each output element is the exact sum of its products, kept
in its entry or rounded out once. -/
namespace Sys2Proof.Machine
open Sys2Proof

/-! ### The positions of a block -/

theorem positions_succ (m n : Nat) : positions (m + 1) n = positions m n ++ (List.range n).map fun j => (m, j) := by
  simp [positions, List.range_succ, List.flatMap_append]

@[simp] theorem length_positions (m n : Nat) : (positions m n).length = m * n := by
  induction m with
  | zero => simp [positions]
  | succ m ih => simp [positions_succ, ih, Nat.succ_mul]

theorem rowMajor_lt {m n i j : Nat} (hi : i < m) (hj : j < n) : i * n + j < m * n :=
  calc i * n + j < i * n + n := Nat.add_lt_add_left hj _
    _ = (i + 1) * n := (Nat.succ_mul i n).symm
    _ ≤ m * n := Nat.mul_le_mul_right n hi

theorem getElem?_positions {m n i j : Nat} (hi : i < m) (hj : j < n) : (positions m n)[i * n + j]? = some (i, j) := by
  induction m with
  | zero => omega
  | succ m ih =>
    rw [positions_succ]
    rcases Nat.lt_succ_iff_lt_or_eq.mp hi with h | rfl
    · rw [List.getElem?_append_left (by simpa using rowMajor_lt h hj), ih h]
    · rw [List.getElem?_append_right (by simp), length_positions, Nat.add_sub_cancel_left, List.getElem?_map, List.getElem?_range hj]
      rfl

theorem mem_positions {m n : Nat} {p : Nat × Nat} : p ∈ positions m n ↔ p.1 < m ∧ p.2 < n := by
  obtain ⟨i, j⟩ := p
  simp [positions]

/-! ### The entries of a block -/

theorem concat_induction {α : Type} {P : List α → Prop} (nil : P []) (concat : ∀ l a, P l → P (l ++ [a])) (l : List α) : P l := by
  have hrev (r : List α) : P r.reverse := by
    induction r with
    | nil => exact nil
    | cons a r ih =>
      rw [List.reverse_cons]
      exact concat _ a ih
  rw [← List.reverse_reverse l]
  exact hrev _

theorem getElem?_concat_ne {α : Type} {l : List α} {a : α} {q : Nat} (h : q ≠ l.length) : (l ++ [a])[q]? = l[q]? := by
  rcases Nat.lt_or_gt_of_ne h with hlt | hgt
  · exact List.getElem?_append_left hlt
  · rw [List.getElem?_eq_none (by simp; omega), List.getElem?_eq_none (by omega)]

theorem putBlock_concat (acc : NMap Acc) (base : Nat) (anchored : Bool) (new : List (Option Acc)) (a : Option Acc) :
    putBlock acc base anchored (new ++ [a]) =
      a.elim (clearAcc (putBlock acc base anchored new) (entryOf base new.length anchored) anchored)
        (putAcc (putBlock acc base anchored new) (entryOf base new.length anchored)) := by
  unfold putBlock
  rw [List.length_append, List.length_singleton, List.range_succ, List.zip_append (by simp), List.foldl_append]
  cases a <;> rfl

/-- An entry's new content takes one entry: it is an exact sum, or nothing. -/
def TakesOne (a : Option Acc) : Prop := a = none ∨ ∃ s t c, a = some (.exact s t c)

theorem nget_putBlock (acc : NMap Acc) (base : Nat) (new : List (Option Acc)) (hnew : ∀ a ∈ new, TakesOne a) (k : Nat) :
    nget (putBlock acc base false new) k = if k < base then nget acc k else (new[k - base]?).getD (nget acc k) := by
  induction new using concat_induction with
  | nil => simp [putBlock]
  | concat new a ih =>
    have hput : nget (putBlock acc base false (new ++ [a])) k =
        if base + new.length = k then a else nget (putBlock acc base false new) k := by
      rw [putBlock_concat]
      rcases hnew a (by simp) with rfl | ⟨s, t, c, rfl⟩
      · simp [clearAcc, entryOf, nget_ndel]
      · simp [putAcc, entryOf, nget_nset]
    rw [hput, ih fun b hb => hnew b (List.mem_append_left _ hb)]
    by_cases hk : base + new.length = k
    · subst hk
      rw [if_pos rfl, if_neg (by omega), Nat.add_sub_cancel_left, List.getElem?_concat_length, Option.getD_some]
    · rw [if_neg hk]
      split
      · rfl
      · have hne : k - base ≠ new.length := by omega
        rw [getElem?_concat_ne hne]

theorem nget_putBlock_in {acc : NMap Acc} {base : Nat} {new : List (Option Acc)} (hnew : ∀ a ∈ new, TakesOne a) {q : Nat} {a : Option Acc}
    (hq : new[q]? = some a) : nget (putBlock acc base false new) (base + q) = a := by
  rw [nget_putBlock _ _ _ hnew, if_neg (by omega), Nat.add_sub_cancel_left, hq, Option.getD_some]

theorem nget_putBlock_out {acc : NMap Acc} {base : Nat} {new : List (Option Acc)} (hnew : ∀ a ∈ new, TakesOne a) {k : Nat}
    (hk : k < base ∨ base + new.length ≤ k) : nget (putBlock acc base false new) k = nget acc k := by
  rw [nget_putBlock _ _ _ hnew]
  split
  · rfl
  · rw [List.getElem?_eq_none (by omega), Option.getD_none]

/-! ### Reductions without continued targets and without anchors -/

theorem targetsOf_uncontinued (acc : NMap Acc) (base : Nat) (anchored : Bool) {terms : List (List Term)}
    (h : ∀ ts ∈ terms, ts.length ≤ maxProducts) : targetsOf acc base anchored false terms = .ok (terms.map fun _ => none) := by
  have hnone : ((List.range terms.length).mapM fun q =>
      if false then targetAcc acc (entryOf base q anchored) anchored else .ok none) = .ok (terms.map fun _ => none) := by
    have hconst : ((List.range terms.length).map fun _ => (none : Option Acc)) = terms.map fun _ => none := by
      rw [List.map_const', List.map_const', List.length_range]
    rw [← hconst]
    exact List.mapM_pure
  have hshort : ((terms.map fun _ => (none : Option Acc)).zip terms).any
      (fun p => decide (((p.1.map accCount).getD 0) + p.2.length > maxProducts)) = false := by
    rw [← List.map_prod_right_eq_zip, List.any_map, List.any_eq_false]
    intro ts hts
    simpa using h ts hts
  unfold targetsOf
  rw [hnone]
  simp only [bind, Except.bind, hshort, Bool.false_eq_true, if_false]

theorem ownSum_false (ts : List Term) : ownSum false ts = .exact (exactSum ts) (termTag ts) ts.length := rfl

/-- Without a target and without anchors every entry becomes the sum of its own products. -/
theorem reduceElems_uncontinued (aa strict : Bool) (terms : List (List Term)) :
    (((terms.map fun _ => (none : Option Acc)).zip terms).mapM fun p => reduceElem false aa strict p.1 p.2) =
      .ok (terms.map (ownSum false)) := by
  rw [← List.map_prod_right_eq_zip, List.mapM_map]
  exact List.mapM_pure

/-- The flags that forming the products raises. -/
def formedFlags (terms : List (List Term)) : Nat := terms.foldl (fun a ts => a ||| termFlags ts) 0

section
variable {env : TEnv} {op : Nat} {c : CmdRec} {t : Tile} {base : Nat} {terms : List (List Term)} {draws : List Nat}
  (hct : ctlCT c = false) (haa : ctlAA c = false) (hlen : ∀ ts ∈ terms, ts.length ≤ maxProducts)
include hct haa hlen

theorem reduceAll_kept (hkp : ctlKP c = true) :
    reduceAll env op c t base false terms draws =
      .ok { tile := { t with acc := putBlock t.acc base false ((terms.map (ownSum false)).map some) }, flags := formedFlags terms } := by
  simp only [reduceAll, hct, haa, hkp, targetsOf_uncontinued _ _ _ hlen, reduceElems_uncontinued, Bool.false_and, Bool.and_false,
    Bool.false_eq_true, if_false, if_true, bind, Except.bind]
  rfl

theorem reduceAll_rounded (hkp : ctlKP c = false) :
    reduceAll env op c t base false terms draws =
      .ok (finish op c { t with acc := putBlock t.acc base false ((terms.map (ownSum false)).map fun _ => none) }
        (((terms.map (ownSum false)).zip draws).map fun p => roundAcc c.fmtOut c.rnd p.2 1 p.1) (formedFlags terms)) := by
  simp only [reduceAll, hct, haa, hkp, targetsOf_uncontinued _ _ _ hlen, reduceElems_uncontinued, Bool.false_and, Bool.and_false,
    Bool.false_eq_true, if_false, bind, Except.bind]
  rfl

end

/-! ### Rounded output -/

@[simp] theorem putOutput_acc (op : Nat) (c : CmdRec) (t : Tile) (codes : List Nat) : (putOutput op c t codes).acc = t.acc := by
  simp only [putOutput, putWorkHalf]
  split <;> rfl

@[simp] theorem finish_acc (op : Nat) (c : CmdRec) (t : Tile) (outs : List (Nat × Nat)) (flags : Nat) :
    (finish op c t outs flags).tile.acc = t.acc := putOutput_acc ..

/-- The output of row `i` and column `j` reaches the digest unit normalised, under its global index (R117). -/
theorem mem_finish_elems {op : Nat} {c : CmdRec} {rows cols i j : Nat} {outs : List (Nat × Nat)} {o : Nat × Nat} (t : Tile) (flags : Nat)
    (hshape : outShape op c = (rows, cols)) (hi : i < rows) (hj : j < cols) (ho : outs[i * cols + j]? = some o) :
    (outKind op c, elemIndex c i j, finish.normaliseKind (outKind op c) o.1) ∈ (finish op c t outs flags).elems := by
  have hcode : at2 (outs.map fun o => finish.normaliseKind (outKind op c) o.1) cols i j = finish.normaliseKind (outKind op c) o.1 := by
    simp [at2, List.getD, ho]
  simp only [finish, outElems, hshape, List.mem_flatMap, List.mem_map, List.mem_range]
  exact ⟨i, hi, j, hj, by rw [hcode]⟩

/-! ### The array commands -/

theorem outShape_matrix {op : Nat} (c : CmdRec) (hop : op = opMMA ∨ op = opCONV) : outShape op c = (c.m, c.n) := by
  rcases hop with rfl | rfl <;> rfl

theorem outKind_matrix {op : Nat} (c : CmdRec) (hop : op = opMMA ∨ op = opCONV) : outKind op c = c.fmtOut := by
  rcases hop with rfl | rfl <;> rfl

theorem mem_finish_elems_matrix {op : Nat} {c : CmdRec} {i j flags : Nat} {outs : List (Nat × Nat)} {o : Nat × Nat} {t : Tile}
    (hop : op = opMMA ∨ op = opCONV) (hfmt : c.fmtOut < 4) (hi : i < c.m) (hj : j < c.n) (ho : outs[i * c.n + j]? = some o) :
    (c.fmtOut, elemIndex c i j, normalise c.fmtOut o.1) ∈ (finish op c t outs flags).elems := by
  have hmem := mem_finish_elems t flags (outShape_matrix c hop) hi hj ho
  rwa [outKind_matrix c hop, finish.normaliseKind, if_neg (by omega)] at hmem

/-- The products of every output element of an array command, row by row. -/
def blockTerms (env : TEnv) (t : Tile) (op : Nat) (c : CmdRec) : List (List Term) :=
  (positions c.m c.n).map fun p => arrayTerms env t op c p.1 p.2

/-- The codes and flags of the rounded outputs, row by row. -/
def blockOuts (env : TEnv) (t : Tile) (op : Nat) (c : CmdRec) : List (Nat × Nat) :=
  (positions c.m c.n).map fun p => roundAcc c.fmtOut c.rnd (drawOf env c p.1 p.2) 1 (ownSum false (arrayTerms env t op c p.1 p.2))

section
variable {env : TEnv} {t : Tile} {op : Nat} {c : CmdRec}

@[simp] theorem length_blockTerms : (blockTerms env t op c).length = c.m * c.n := by simp [blockTerms]

theorem getElem?_blockTerms {i j : Nat} (hi : i < c.m) (hj : j < c.n) :
    (blockTerms env t op c)[i * c.n + j]? = some (arrayTerms env t op c i j) := by
  rw [blockTerms, List.getElem?_map, getElem?_positions hi hj, Option.map_some]

theorem getElem?_blockOuts {i j : Nat} (hi : i < c.m) (hj : j < c.n) :
    (blockOuts env t op c)[i * c.n + j]? =
      some (roundAcc c.fmtOut c.rnd (drawOf env c i j) 1 (ownSum false (arrayTerms env t op c i j))) := by
  rw [blockOuts, List.getElem?_map, getElem?_positions hi hj, Option.map_some]

theorem length_le_of_mem_blockTerms (hlen : ∀ i j, i < c.m → j < c.n → (arrayTerms env t op c i j).length ≤ maxProducts) :
    ∀ ts ∈ blockTerms env t op c, ts.length ≤ maxProducts := by
  intro ts hts
  obtain ⟨p, hp, rfl⟩ := List.mem_map.mp hts
  obtain ⟨hi, hj⟩ := mem_positions.mp hp
  exact hlen p.1 p.2 hi hj

variable (hanch : anchoredCmd op c = false) (hct : ctlCT c = false) (haa : ctlAA c = false)
  (hlen : ∀ i j, i < c.m → j < c.n → (arrayTerms env t op c i j).length ≤ maxProducts)
include hanch hct haa hlen

theorem runMatrix_kept (hkp : ctlKP c = true) :
    runMatrix env op c t = .ok
      { tile := { t with acc := putBlock t.acc (accBase c) false (((blockTerms env t op c).map (ownSum false)).map some) }
        flags := formedFlags (blockTerms env t op c) } := by
  rw [runMatrix, hanch]
  exact reduceAll_kept hct haa (length_le_of_mem_blockTerms hlen) hkp

theorem runMatrix_rounded (hkp : ctlKP c = false) :
    runMatrix env op c t = .ok
      (finish op c { t with acc := putBlock t.acc (accBase c) false (((blockTerms env t op c).map (ownSum false)).map fun _ => none) }
        (blockOuts env t op c) (formedFlags (blockTerms env t op c))) := by
  have houts : (((blockTerms env t op c).map (ownSum false)).zip ((positions c.m c.n).map fun p => drawOf env c p.1 p.2)).map
      (fun p => roundAcc c.fmtOut c.rnd p.2 1 p.1) = blockOuts env t op c := by
    rw [blockTerms, List.map_map, List.zip_map', List.map_map]
    rfl
  rw [runMatrix, hanch, ← houts]
  exact reduceAll_rounded hct haa (length_le_of_mem_blockTerms hlen) hkp

end

/-! ### The obligation -/

/-- Settles O32: the sums of a block are those of its elements' own products, and the block takes the entries from the base on. -/
theorem matrixSums : Obligations.MatrixSums := by
  unfold Obligations.MatrixSums
  intro v op c x hop hanch hct haa hfmt hlen
  cases hkp : ctlKP c with
  | true =>
    have hone : ∀ a ∈ ((blockTerms v x op c).map (ownSum false)).map some, TakesOne a := by
      simp [TakesOne, ownSum_false]
    refine ⟨_, runMatrix_kept hanch hct haa hlen hkp, fun _ => ⟨rfl, fun i j hi hj => ?_⟩, fun h => ?_, fun k hk => ?_⟩
    · exact nget_putBlock_in hone (by simp [getElem?_blockTerms hi hj, ownSum_false])
    · cases h
    · exact nget_putBlock_out hone (by simpa using hk)
  | false =>
    have hone : ∀ a ∈ ((blockTerms v x op c).map (ownSum false)).map fun _ => (none : Option Acc), TakesOne a := by
      simp [TakesOne]
    refine ⟨_, runMatrix_rounded hanch hct haa hlen hkp, fun h => ?_, fun _ i j hi hj => ⟨?_, ?_⟩, fun k hk => ?_⟩
    · cases h
    · rw [finish_acc]
      exact nget_putBlock_in hone (by simp [getElem?_blockTerms hi hj])
    · exact mem_finish_elems_matrix hop hfmt hi hj (getElem?_blockOuts hi hj)
    · rw [finish_acc]
      exact nget_putBlock_out hone (by simpa using hk)

end Sys2Proof.Machine
end

section
/-! Windows of sync objects (R167, R168) and the weight cache (R142, R163): a work's window is the lowest range of objects that no window
overlaps, with the counters in it dropped from the table, and the cache of a die takes bytes from device memory in one place alone. -/
namespace Sys2Proof.Machine
open Sys2Proof

/-! ### Commands while a cluster is in control -/

theorem inService_of_controlled {s : State} (h : controlled s = true) : inService s = true := (Bool.and_eq_true_iff.mp h).1

theorem whenControlled_of_controlled {s : State} (h : controlled s = true) (f : State → State) : whenControlled s f = .next (f s) := by
  simp [whenControlled, h]

/-! ### The place of a window -/

/-- `n` sync objects from `b` exist, and no window holds one of them. -/
def SyncFree (s : State) (n b : Nat) : Prop := b + n ≤ 65536 ∧ ∀ x ∈ s.syncWins, overlaps x.base x.n b n = false

theorem foldl_min_mem_cons (b : Nat) (r : List Nat) : r.foldl Nat.min b ∈ b :: r := List.min?_mem List.min?_cons'

/-- The place found is the least of those that were tried and found free. -/
theorem syncFree_of_placeSync {s : State} {n b : Nat} (h : placeSync s n = some b) : SyncFree s n b := by
  simp only [placeSync] at h
  split at h
  · cases h
  · next c r hfree =>
    have hmem := foldl_min_mem_cons c r
    rw [← hfree, Option.some.inj h, List.mem_filter] at hmem
    simpa [SyncFree] using hmem.2

/-! ### A window opened -/

theorem nget_filter_key {α : Type} (m : NMap α) (q : Nat → Bool) (k : Nat) :
    nget (m.filter fun e => q e.1) k = if q k then nget m k else none := by
  induction m with
  | nil => simp [nget]
  | cons e r ih =>
    obtain ⟨x, a⟩ := e
    by_cases hx : x = k
    · subst hx
      by_cases hq : q x = true <;> simp [nget, hq, ih]
    · by_cases hq : q x = true <;> simp [nget, hq, hx, ih]

/-- The window of `n` objects from `b` given to a work. -/
def openSyncWindow (s : State) (work : WorkId) (b n : Nat) : State :=
  { s with syncWins := s.syncWins ++ [⟨work, b, n⟩]
           sync := s.sync.filter fun e => !(decide (b ≤ e.1) && decide (e.1 < b + n)) }

theorem syncValue_openSyncWindow (s : State) (work : WorkId) (b n o : Nat) :
    syncValue (openSyncWindow s work b n) o = if b ≤ o ∧ o < b + n then 0 else syncValue s o := by
  have hget : nget (openSyncWindow s work b n).sync o = if !(decide (b ≤ o) && decide (o < b + n)) then nget s.sync o else none :=
    nget_filter_key s.sync (fun k => !(decide (b ≤ k) && decide (k < b + n))) o
  rw [← Bool.decide_and] at hget
  rw [syncValue, ngetD, hget]
  by_cases h : b ≤ o ∧ o < b + n
  · rw [if_pos h, decide_eq_true h, Bool.not_true, if_neg Bool.false_ne_true, Option.getD_none]
  · rw [if_neg h, decide_eq_false h, Bool.not_false, if_pos rfl, syncValue, ngetD]

theorem allocSync_eq_openSyncWindow {s : State} {id : WorkId} {w : Work} {p : Pkg} {b : Nat} (hw : findWork s id = some w)
    (hp : pkgOf s w.slot = some p) (hn : p.nSync ≠ 0) (hbase : syncBase s id = none) (hres : w.result = none)
    (hb : placeSync s p.nSync = some b) : allocSync s id = openSyncWindow s id b p.nSync := by
  simp [allocSync, hw, hp, hn, hbase, hres, hb, openSyncWindow]

theorem findWork_allocSync (s : State) (id id' : WorkId) : findWork (allocSync s id) id' = findWork s id' := by
  rw [findWork, allocSync_keeps s id .works (by decide), findWork]

/-- A frame whose searched vectors have been told of is told nothing more (R307). -/
theorem deliverVectors_of_searched {s : State} {k j : Nat} {w : Work} (hw : findWork s (.frame k j) = some w) (h : w.searched = true) :
    deliverVectors s k j = s := by
  simp only [deliverVectors, hw, h, true_or, if_true]
  split <;> rfl

/-- The command opens the window; only a frame whose vectors are still to be told of goes on from there (R307). -/
theorem exec_syncWindowAllocate {s : State} {id : WorkId} {w : Work} (h : controlled s = true) (hw : findWork s id = some w) :
    ∃ u, exec (.syncWindowAllocate id) s = .next u ∧ Kept [.mem, .sync, .works] (allocSync s id) u ∧
      ((w.searched = true ∨ ∃ r p i, id = .job r p i) → u = allocSync s id) := by
  cases id with
  | frame k j =>
    refine ⟨_, whenControlled_of_controlled h fun s => deliverVectors (allocSync s (.frame k j)) k j, deliverVectors_keeps _ k j, ?_⟩
    rintro (hs | ⟨_, _, _, hjob⟩)
    · exact deliverVectors_of_searched ((findWork_allocSync s _ _).trans hw) hs
    · cases hjob
  | job r p i => exact ⟨_, whenControlled_of_controlled h (allocSync · (.job r p i)), Kept.refl _ _, fun _ => rfl⟩

/-! ### A window released -/

theorem exec_syncWindowRelease {s : State} (h : controlled s = true) (id : WorkId) :
    exec (.syncWindowRelease id) s = .next (releaseSync s id) :=
  whenControlled_of_controlled h (releaseSync · id)

theorem releaseSync_of_ended {s : State} {id : WorkId}
    (h : ∀ w, findWork s id = some w → workEnded s w = true ∧ workQuiet s id = true) :
    releaseSync s id = { s with syncWins := s.syncWins.filter fun x => !(x.work == id) } := by
  cases hw : findWork s id with
  | none => simp [releaseSync, hw]
  | some w =>
    obtain ⟨hended, hquiet⟩ := h w hw
    simp [releaseSync, hw, hended, hquiet]

theorem releaseSync_of_running {s : State} {id : WorkId} {w : Work} (hw : findWork s id = some w)
    (h : (workEnded s w && workQuiet s id) = false) : releaseSync s id = s := by
  simp [releaseSync, hw, h]

/-! ### The weight cache filled from device memory -/

/-- The cache of a die with `n` bytes of device memory from `a` laid at `base`. -/
def fillCache (s : State) (die base a n : Nat) : State :=
  { s with cache := nset s.cache die ((ngetD s.cache die []).write base (s.mem.read a n)) }

section
variable (s : State) (die base a n : Nat)

theorem ngetD_cache_fillCache_same :
    ngetD (fillCache s die base a n).cache die [] = (ngetD s.cache die []).write base (s.mem.read a n) := ngetD_nset_same ..

theorem ngetD_cache_fillCache_ne {d : Nat} (h : d ≠ die) : ngetD (fillCache s die base a n).cache d [] = ngetD s.cache d [] :=
  ngetD_nset_ne _ _ _ h.symm

theorem read_fillCache (h : (ngetD s.cache die []).wf = true) :
    (ngetD (fillCache s die base a n).cache die []).read base n = s.mem.read a n := by
  simpa [ngetD_cache_fillCache_same] using Memory.read_write h base (s.mem.read a n)

theorem bytesBut_fillCache : BytesBut base n (ngetD s.cache die []) (ngetD (fillCache s die base a n).cache die []) := by
  intro x hx
  rw [ngetD_cache_fillCache_same]
  exact Memory.get_write_out _ _ _ (by simpa using hx)

theorem fillCache_keeps : Kept [.cache] s (fillCache s die base a n) := by
  intro p hp
  cases p
  case cache => simp at hp
  all_goals rfl

end

/-! ### Parity errors (R142) -/

theorem exec_weightCacheParity {s : State} {die line a : Nat} (h : inService s = true) (ha : lineSource s die line = some a) :
    exec (.weightCacheParity die line) s = .next (logFault (fillCache s die (256 * line) a 256) 0x0022 0 0 die 0xFFFF a) := by
  calc exec (.weightCacheParity die line) s
    _ = execWeightCacheParity die line s := rfl
    _ = .next (logFault (fillCache s die (256 * line) a 256) 0x0022 0 0 die 0xFFFF a) := by
      simp only [execWeightCacheParity, whenService_of_inService h, ha, fillCache]

theorem mem_log_logFault (s : State) (code severity kind unit ctx detail : Nat) :
    ∃ e ∈ (logFault s code severity kind unit ctx detail).ctl.log, e.code = code ∧ e.detail = detail := by
  obtain ⟨kept, hlog⟩ := logFault_log s code severity kind unit ctx detail
  rw [hlog]
  exact ⟨_, List.mem_concat_self, rfl, rfl⟩

/-! ### Windows filled (R163) -/

theorem exec_weightWindowFill {s : State} (h : inService s = true) (die slot : Nat) :
    exec (.weightWindowFill die slot) s = .next (fillWindow s die slot) :=
  whenService_of_inService h (fillWindow · die slot)

/-- The window of a package slot on a die, marked as filled. -/
def markFilled (die slot : Nat) (x : Window) : Window := if x.die = die ∧ x.slot = slot then { x with filled := true } else x

theorem markFilled_die (die slot : Nat) (x : Window) : (markFilled die slot x).die = x.die := by
  unfold markFilled
  split <;> rfl

theorem markFilled_slot (die slot : Nat) (x : Window) : (markFilled die slot x).slot = x.slot := by
  unfold markFilled
  split <;> rfl

theorem windowOf_mark {s t : State} (die slot : Nat) (h : t.windows = s.windows.map (markFilled die slot)) :
    (windowOf t die slot).map (·.filled) = (windowOf s die slot).map fun _ => true := by
  have hkey : ((fun w : Window => w.die == die && w.slot == slot) ∘ markFilled die slot) = fun w => w.die == die && w.slot == slot := by
    funext w
    simp only [Function.comp_apply, markFilled_die, markFilled_slot]
  rw [windowOf, windowOf, h, List.find?_map, hkey, Option.map_map]
  refine Option.map_congr fun w hw => ?_
  have hmatch : w.die = die ∧ w.slot = slot := by simpa using List.find?_some hw
  simp [markFilled, hmatch]

theorem fillWindow_eq {s : State} {die slot a n : Nat} {w : Window} (hw : windowOf s die slot = some w)
    (hi : (pkgOf s slot).bind (·.image) = some (a, n)) (hf : w.filled = false) :
    fillWindow s die slot = { fillCache s die w.base a n with windows := s.windows.map (markFilled die slot) } := by
  simp only [fillWindow, hw, hi, hf, Bool.false_eq_true, if_false]
  rfl

/-! ### The obligation -/

/-- Settles O36: a placed window is free and its counters leave the table, and a cache line or window takes the bytes of its source. -/
theorem windowsAndCache : Obligations.WindowsAndCache := by
  unfold Obligations.WindowsAndCache
  refine ⟨⟨?allocate, ?release, ?running⟩, ?parity, ?fill⟩
  case allocate =>
    intro s id w p b hs hw hp hn hbase hres hb
    obtain ⟨u, hexec, hkept, hstop⟩ := exec_syncWindowAllocate hs hw
    have hopen := allocSync_eq_openSyncWindow hw hp hn hbase hres hb
    have hwins : u.syncWins = (openSyncWindow s id b p.nSync).syncWins := hopen ▸ hkept .syncWins (by decide)
    obtain ⟨hlast, hapart⟩ := syncFree_of_placeSync hb
    refine ⟨u, hexec, hwins, hlast, hapart, fun hend => ?_, hkept.by rfl ((allocSync_keeps s id).mono rfl)⟩
    have hu : u = openSyncWindow s id b p.nSync := (hstop hend).trans hopen
    refine ⟨fun o hlo hhi => ?_, fun o hout => ?_, hstop hend ▸ allocSync_keeps s id⟩
    · rw [hu, syncValue_openSyncWindow, if_pos ⟨hlo, hhi⟩]
    · rw [hu, syncValue_openSyncWindow, if_neg (by omega)]
  case release =>
    intro s id hs hended
    rw [exec_syncWindowRelease hs, releaseSync_of_ended hended]
  case running =>
    intro s id w hs hw hrun
    rw [exec_syncWindowRelease hs, releaseSync_of_running hw hrun]
  case parity =>
    intro s die line a hs ha hwf
    have hlog := logFault_keeps (fillCache s die (256 * line) a 256) 0x0022 0 0 die 0xFFFF a
    have hcache := hlog .cache (by decide)
    refine ⟨_, exec_weightCacheParity hs ha, ?_, ?_, mem_log_logFault .., fun d hd => ?_,
      hlog.by rfl ((fillCache_keeps s die (256 * line) a 256).mono rfl)⟩
    · exact hcache ▸ read_fillCache s die (256 * line) a 256 hwf
    · exact hcache ▸ bytesBut_fillCache s die (256 * line) a 256
    · exact hcache ▸ ngetD_cache_fillCache_ne s die (256 * line) a 256 hd
  case fill =>
    intro s die slot w a n hs hw hi hf hwf
    refine ⟨_, exec_weightWindowFill hs die slot, ?_, ?_, ?_, fillWindow_keeps s die slot⟩
    all_goals rw [fillWindow_eq hw hi hf]
    · exact read_fillCache s die w.base a n hwf
    · rw [windowOf_mark (s := s) die slot rfl, hw, Option.map_some]
    · exact bytesBut_fillCache s die w.base a n

end Sys2Proof.Machine
end

section
/-! Umpire mode (R252): RESUME lets go of the held outputs, and one that leaves over Palton is counted in its link's record. Link `i` has the
record #4101 + `i` for any number `i`, so a flow pinned to a link beyond the 96 of the part (R399) is counted in another record's subentry .07. -/
namespace Sys2Proof.Machine
open Sys2Proof

theorem exec_umpireResume {s : State} (h : controlled s = true) : exec .umpireResume s = .next (resumeUmpire s) :=
  whenControlled_of_controlled h resumeUmpire

/-- Halted, with partner 2; the held output of context 0 goes to device 3 over flow 0x1000, pinned to the link whose record would be #5020. -/
def haltedWithStrayPin : State :=
  [(0x4100, 0x01, 1), (0x5020, 0x01, 1), (0x5020, 0x02, 2), (0x5020, 0x07, 5), (ctxIndex 0, 0x2E, 0)].foldl
    (fun s e => setReg s e.1 e.2.1 e.2.2)
    { ctl := { phase := .service, inCharge := some 0 }
      frames := [{ ctx := 0, j := 0, state := 3, waiting := [(0xFFFD, 0)] }]
      flows := [(0, { recs := [(0, leBytes 8 2 ++ leBytes 8 3)], active := [0] })]
      fabric := { pins := [{ src := 1, dst := 3, flow := 0x1000, link := 0x5020 - linkIndex 0, used := 0 }] }
      umpire := { held := [(0, 0)] } }

theorem haltedWithStrayPin_controlled : controlled haltedWithStrayPin = true := by decide

theorem haltedWithStrayPin_halted : umpireState haltedWithStrayPin = 5 := by decide

theorem afterHalt_haltedWithStrayPin : afterHalt haltedWithStrayPin = 2 := by decide

/-- RESUME pairs the member again (2); the frame of the released output then adds 1 to #5020.07. -/
theorem umpireState_resume_haltedWithStrayPin : umpireState (resumeUmpire haltedWithStrayPin) = 3 := by decide

/-- Refutes O24: a RESUME does not always leave the state that follows a halt, for the statement admits states whose pins name links that the
part does not have. The member of the counterexample, of one partner, is in a trio after it. -/
theorem not_umpire : ¬ Obligations.Umpire := by
  unfold Obligations.Umpire
  rintro ⟨-, -, hresume, -⟩
  obtain ⟨t, hexec, hstate, -⟩ := hresume haltedWithStrayPin haltedWithStrayPin_controlled haltedWithStrayPin_halted
  have ht : resumeUmpire haltedWithStrayPin = t := by
    rw [exec_umpireResume haltedWithStrayPin_controlled] at hexec
    exact Host.Outcome.next.inj hexec
  rw [← ht, umpireState_resume_haltedWithStrayPin, afterHalt_haltedWithStrayPin] at hstate
  exact absurd hstate (by decide)

end Sys2Proof.Machine
end

section
/-! Frames of the dictionary and of the whole state: what a chain of writes to single subentries leaves as it was. -/
namespace Sys2Proof
open Sys2Proof.Machine

/-! ### Frames from a `Kept` -/

theorem Same.of_kept {ps qs : List Part} {s t : State} (h : Kept qs s t) (hd : (ps.all fun p => !qs.contains p) = true) : Same ps s t := by
  intro p hp
  have hfree := List.all_eq_true.mp hd p hp
  exact h p (by simpa using hfree)

/-! ### One field written -/

theorem Kept.queue (s : State) (q : List QueueItem) : Kept [.queue] s { s with queue := q } := by
  intro p hp
  cases p
  case queue => simp at hp
  all_goals rfl

theorem Kept.pkgs (s : State) (m : NMap Pkg) : Kept [.pkgs] s { s with pkgs := m } := by
  intro p hp
  cases p
  case pkgs => simp at hp
  all_goals rfl

theorem Kept.mem (s : State) (m : Memory) : Kept [.mem] s { s with mem := m } := by
  intro p hp
  cases p
  case mem => simp at hp
  all_goals rfl

theorem Kept.ctl (s : State) (c : Control) : Kept [.ctl] s { s with ctl := c } := by
  intro p hp
  cases p
  case ctl => simp at hp
  all_goals rfl

/-! ### Scalar subentries -/

theorem RegsBut.of_dict {s t : State} (ps : List (Nat × Nat)) (h : t.dict = s.dict) : RegsBut ps s t := fun i j _ _ => getReg_congr h i j

theorem RegsBut.trans {ps qs : List (Nat × Nat)} {s t u : State} (h : RegsBut ps s t) (k : RegsBut qs t u) : RegsBut (ps ++ qs) s u := by
  intro i j hj hn
  rw [List.mem_append, not_or] at hn
  exact (k i j hj hn.2).trans (h i j hj hn.1)

theorem RegsBut.congr {ps : List (Nat × Nat)} {s t u : State} (h : RegsBut ps s t) (k : u.dict = t.dict) : RegsBut ps s u :=
  fun i j hj hn => (getReg_congr k i j).trans (h i j hj hn)

theorem RegsBut.mono {ps qs : List (Nat × Nat)} {s t : State} (h : RegsBut qs s t) (hs : qs ⊆ ps) : RegsBut ps s t :=
  fun i j hj hn => h i j hj fun hq => hn (hs hq)

theorem RegsBut.setReg {ps : List (Nat × Nat)} {s t : State} (h : RegsBut ps s t) {i j v : Nat} (hj : j < 256) (hm : (i, j) ∈ ps) :
    RegsBut ps s (setReg t i j v) := by
  intro i' j' hj' hn
  rw [getReg_setReg t i j v i' j' hj hj', if_neg, h i' j' hj' hn]
  rintro ⟨rfl, rfl⟩
  exact hn hm

theorem RegsBut.addReg {ps : List (Nat × Nat)} {s t : State} (h : RegsBut ps s t) {i j n : Nat} (hj : j < 256) (hm : (i, j) ∈ ps) :
    RegsBut ps s (addReg t i j n) := by
  unfold Machine.addReg
  split
  · exact h.setReg hj hm
  · exact h

theorem RegsBut.setBlob {ps : List (Nat × Nat)} {s t : State} (h : RegsBut ps s t) (i j : Nat) (bs : List Byte) :
    RegsBut ps s (setBlob t i j bs) :=
  fun i' j' hj hn => (getReg_setBlob t i j bs i' j').trans (h i' j' hj hn)

/-! ### Str and blob subentries -/

theorem BlobsBut.of_blobs {s t : State} (ps : List (Nat × Nat)) (h : t.dict.blobs = s.dict.blobs) : BlobsBut ps s t := by
  intro i j _ _
  rw [getBlob, getBlob, h]

theorem BlobsBut.setBlob {ps : List (Nat × Nat)} {s t : State} (h : BlobsBut ps s t) {i j : Nat} {bs : List Byte} (hj : j < 256)
    (hm : (i, j) ∈ ps) : BlobsBut ps s (setBlob t i j bs) := by
  intro i' j' hj' hn
  rw [getBlob_setBlob_ne, h i' j' hj' hn]
  rw [Ne, objKey_inj hj hj']
  rintro ⟨rfl, rfl⟩
  exact hn hm

end Sys2Proof

namespace Sys2Proof.Machine
open Sys2Proof

/-! ### Reads of the dictionary -/

/-- Another subentry of the same object reads as before. -/
theorem getReg_setReg_sub (s : State) (i v : Nat) {j j' : Nat} (h : j ≠ j') (hj : j < 256) (hj' : j' < 256) :
    getReg (setReg s i j v) i j' = getReg s i j' := getReg_setReg_ne s v fun hk => h ((objKey_inj hj hj').mp hk).2

/-- A subentry of another object reads as before. -/
theorem getReg_setReg_obj (s : State) (v : Nat) {i i' j j' : Nat} (h : i ≠ i') (hj : j < 256) (hj' : j' < 256) :
    getReg (setReg s i j v) i' j' = getReg s i' j' := getReg_setReg_ne s v fun hk => h ((objKey_inj hj hj').mp hk).1

theorem getReg_addReg_ne (s : State) {i j i' j' : Nat} (n : Nat) (h : objKey i j ≠ objKey i' j') :
    getReg (addReg s i j n) i' j' = getReg s i' j' := by
  unfold addReg
  split
  · exact getReg_setReg_ne s _ h
  · rfl

@[simp] theorem getBlob_addReg (s : State) (i j n i' j' : Nat) : getBlob (addReg s i j n) i' j' = getBlob s i' j' := by
  unfold addReg
  split <;> rfl

@[simp] theorem inForceReg_addReg (s : State) (i j n i' j' : Nat) : inForceReg (addReg s i j n) i' j' = inForceReg s i' j' := by
  unfold addReg
  split <;> rfl

/-! ### Commands while a cluster is in control -/

/-- A command with a guard, which holds. -/
theorem whenControlled_guarded {s : State} (h : controlled s = true) {c : State → Prop} [DecidablePred c] (hc : c s) (f : State → State) :
    whenControlled s (fun s => if c s then f s else s) = .next (f s) := by
  rw [whenControlled_of_controlled h, if_pos hc]

/-- A command with a guard, which does not hold. -/
theorem whenControlled_unguarded {s : State} (h : controlled s = true) {c : State → Prop} [DecidablePred c] (hc : ¬ c s) (f : State → State) :
    whenControlled s (fun s => if c s then f s else s) = .next s := by
  rw [whenControlled_of_controlled h, if_neg hc]

end Sys2Proof.Machine
end

section
/-! The commands of stream contexts (R243, R245, R268): each writes the state and the status of its own context, and beside them the one thing
that it is for. -/
namespace Sys2Proof.Machine
open Sys2Proof

variable {s t : State} {k : Nat}

/-! ### The state and the status of a context -/

@[simp] theorem ctxState_setCmdStatus (s : State) (k st l : Nat) : ctxState (setCmdStatus s k st) l = ctxState s l := by
  unfold ctxState setCmdStatus
  rw [getReg_setReg s _ _ _ _ _ (by decide) (by decide), if_neg (by simp)]

@[simp] theorem ctxState_setCtxState (s : State) (k v : Nat) : ctxState (setCtxState s k v) k = v := getReg_setReg_same ..

@[simp] theorem ctxState_putCtx (s : State) (k : Nat) (c : Ctx) (l : Nat) : ctxState (putCtx s k c) l = ctxState s l := rfl

@[simp] theorem cmdStatus_setCmdStatus (s : State) (k st : Nat) : getReg (setCmdStatus s k st) (ctxIndex k) 0x04 = st := getReg_setReg_same ..

@[simp] theorem ctxOf_setCmdStatus (s : State) (k st l : Nat) : ctxOf (setCmdStatus s k st) l = ctxOf s l := rfl

theorem ctxOf_congr (h : t.ctxs = s.ctxs) (l : Nat) : ctxOf t l = ctxOf s l := by rw [ctxOf, ctxOf, h]

theorem ctxState_congr (h : t.dict = s.dict) (l : Nat) : ctxState t l = ctxState s l := getReg_congr h ..

theorem regsBut_setCmdStatus (s : State) (k st : Nat) : RegsBut [(ctxIndex k, 0x04)] s (setCmdStatus s k st) :=
  (RegsBut.of_dict _ rfl).setReg (by decide) (List.mem_singleton_self _)

theorem regsBut_setCtxState (s : State) (k v : Nat) : RegsBut [(ctxIndex k, 0x02)] s (setCtxState s k v) :=
  (RegsBut.of_dict _ rfl).setReg (by decide) (List.mem_singleton_self _)

/-- A command that moves its context to state `v` and answers `st`. -/
theorem ctx_reads_of_dict {v st : Nat} (h : t.dict = (setCmdStatus (setCtxState s k v) k st).dict) :
    ctxState t k = v ∧ getReg t (ctxIndex k) 0x04 = st ∧ RegsBut [(ctxIndex k, 0x02), (ctxIndex k, 0x04)] s t := by
  refine ⟨?_, ?_, ?_⟩
  · rw [ctxState_congr h, ctxState_setCmdStatus, ctxState_setCtxState]
  · rw [getReg_congr h, cmdStatus_setCmdStatus]
  · exact ((regsBut_setCtxState s k v).trans (regsBut_setCmdStatus _ k st)).congr h

/-! ### Binding and unbinding -/

theorem exec_contextBind (h : controlled s = true) (hk : k < 16384) {v : Nat} (hv : v < 0xFFFF) :
    exec (.contextBind k v) s = .next (writeBinding s k v) :=
  whenControlled_guarded h (c := fun _ => k < maxCtx ∧ v < 0xFFFF) ⟨hk, hv⟩ (writeBinding · k v)

theorem exec_contextUnbind (h : controlled s = true) (hk : k < 16384) (hst : ctxState s k = 1) :
    exec (.contextUnbind k) s = .next (writeBinding s k 0xFFFF) :=
  whenControlled_guarded h (c := fun s => k < maxCtx ∧ ctxState s k = 1) ⟨hk, hst⟩ (writeBinding · k 0xFFFF)

theorem writeBinding_of_started (h : 1 < ctxState s k) (v : Nat) : writeBinding s k v = s := if_pos h

section
variable (h : ctxState s k ≤ 1) (v : Nat)
include h

/-- The context gets a run state of its own where it had none, and that is what it reads as without one. -/
theorem writeBinding_eq :
    let u := setCtxState (setReg s (ctxIndex k) 0x01 v) k (if v = 0xFFFF then 0 else 1)
    writeBinding s k v = if (nget s.ctxs k).isSome then u else putCtx u k {} := by
  rw [writeBinding, if_neg (Nat.not_lt.mpr h)]
  rfl

theorem dict_writeBinding :
    (writeBinding s k v).dict = (setCtxState (setReg s (ctxIndex k) 0x01 v) k (if v = 0xFFFF then 0 else 1)).dict := by
  rw [writeBinding_eq h]
  split <;> rfl

theorem ctxOf_writeBinding (l : Nat) : ctxOf (writeBinding s k v) l = ctxOf s l := by
  rw [writeBinding_eq h]
  split
  · rfl
  · next hnone =>
    by_cases hl : k = l
    · subst hl
      rw [ctxOf_putCtx_same, ctxOf, ngetD, Option.not_isSome_iff_eq_none.mp hnone, Option.getD_none]
    · exact ctxOf_putCtx_ne _ _ hl

theorem binding_writeBinding : getReg (writeBinding s k v) (ctxIndex k) 0x01 = v := by
  rw [getReg_congr (dict_writeBinding h v), setCtxState, getReg_setReg_sub _ _ _ (by decide) (by decide) (by decide), getReg_setReg_same]

theorem ctxState_writeBinding : ctxState (writeBinding s k v) k = if v = 0xFFFF then 0 else 1 := by
  rw [ctxState_congr (dict_writeBinding h v), ctxState_setCtxState]

theorem regsBut_writeBinding : RegsBut [(ctxIndex k, 0x01), (ctxIndex k, 0x02)] s (writeBinding s k v) :=
  (((RegsBut.of_dict _ rfl).setReg (by decide) (by simp)).setReg (by decide) (by simp)).congr (dict_writeBinding h v)

end

/-! ### START -/

theorem exec_contextStart (h : controlled s = true) (hk : k < 16384) : exec (.contextStart k) s = .next (startCtx s k) :=
  whenControlled_guarded h (c := fun _ => k < maxCtx) hk (startCtx · k)

theorem startCtx_of_pending (h : cmdPending s k = true) : startCtx s k = setCmdStatus s k stPending := if_pos h

theorem startCtx_of_badState (h : cmdPending s k = false) (hst : ctxState s k ≠ 1 ∨ parked s = true) :
    startCtx s k = setCmdStatus s k stBadState := by
  rw [startCtx, h, if_neg Bool.false_ne_true, if_pos hst]

theorem startCtx_of_stopped (h : cmdPending s k = false) (hst : ctxState s k = 1) (hp : parked s = false) :
    startCtx s k = enterStart (putCtx s k { ctxOf s k with fromSnap := false, snap := [] }) k := by
  rw [startCtx, h, if_neg Bool.false_ne_true, if_neg (by simp [hst, hp])]

theorem dict_enterStart (s : State) (k : Nat) : (enterStart s k).dict = (setCmdStatus (setCtxState s k 2) k stPending).dict :=
  sendBlob_keeps _ k .dict (by decide)

theorem ctxOf_enterStart (s : State) (k l : Nat) : ctxOf (enterStart s k) l = ctxOf s l :=
  ctxOf_congr (enterStart_keeps s k .ctxs (by decide)) l

/-! ### TIMEOUT -/

theorem exec_contextTimeout (h : controlled s = true) (hk : k < 16384) : exec (.contextTimeout k) s = .next (timeoutCtx s k) :=
  whenControlled_guarded h (c := fun _ => k < maxCtx) hk (timeoutCtx · k)

theorem timeoutCtx_of_pending (h : cmdPending s k = true) : timeoutCtx s k = setCmdStatus s k stPending := if_pos h

theorem timeoutCtx_of_badState (h : cmdPending s k = false) (hst : ctxState s k ≠ 3) : timeoutCtx s k = setCmdStatus s k stBadState := by
  rw [timeoutCtx, h, if_neg Bool.false_ne_true, if_pos hst]

theorem timeoutCtx_of_running (h : cmdPending s k = false) (hst : ctxState s k = 3) (hn : getReg s (ctxIndex k) 0x34 ≠ 0)
    (hr : badRange s (getReg s (ctxIndex k) 0x33) (getReg s (ctxIndex k) 0x34) = false) :
    timeoutCtx s k = setCmdStatus (setCtxState (putCtx s k { ctxOf s k with failedCap := none }) k 5) k stPending := by
  simp [timeoutCtx, h, hst, hn, hr, ctxReg]

/-! ### RESUME -/

section
variable (s) (a b c : Nat)

theorem regsBut_firmwareEngine : RegsBut [(0x6200, 0x03), (0x6200, 0x04)] s (firmwareEngine s a b c) :=
  ((RegsBut.of_dict _ rfl).addReg (by decide) (by simp)).addReg (by decide) (by simp)

/-- The counters that firmware's own work adds to are no setting of a context. -/
@[simp] theorem ctxReg_firmwareEngine (k j : Nat) : ctxReg (firmwareEngine s a b c) k j = ctxReg s k j := by
  have hkey (i : Nat) (hi : i < 256) : objKey 0x6200 i ≠ objKey (ctxIndex k) j := by
    unfold objKey ctxIndex
    omega
  exact (getReg_addReg_ne _ _ (hkey _ (by decide))).trans (getReg_addReg_ne _ _ (hkey _ (by decide)))

@[simp] theorem binding_firmwareEngine (k : Nat) : binding (firmwareEngine s a b c) k = binding s k := ctxReg_firmwareEngine ..

@[simp] theorem ctxState_firmwareEngine (k : Nat) : ctxState (firmwareEngine s a b c) k = ctxState s k := ctxReg_firmwareEngine s a b c k 0x02

@[simp] theorem ctxOf_firmwareEngine (k : Nat) : ctxOf (firmwareEngine s a b c) k = ctxOf s k :=
  ctxOf_congr (firmwareEngine_keeps s a b c .ctxs (by decide)) k

@[simp] theorem pkgOf_firmwareEngine (k : Nat) : pkgOf (firmwareEngine s a b c) k = pkgOf s k :=
  congrArg (nget · k) (firmwareEngine_keeps s a b c .pkgs (by decide))

@[simp] theorem clk_firmwareEngine : (firmwareEngine s a b c).clk = s.clk := firmwareEngine_keeps s a b c .clk (by decide)

@[simp] theorem cdf_firmwareEngine : (firmwareEngine s a b c).cdf = s.cdf := firmwareEngine_keeps s a b c .cdf (by decide)

@[simp] theorem getBlob_firmwareEngine (i j : Nat) : getBlob (firmwareEngine s a b c) i j = getBlob s i j :=
  (getBlob_addReg ..).trans (getBlob_addReg ..)

@[simp] theorem inForceReg_firmwareEngine (i j : Nat) : inForceReg (firmwareEngine s a b c) i j = inForceReg s i j :=
  (inForceReg_addReg ..).trans (inForceReg_addReg ..)

@[simp] theorem ctxKind_firmwareEngine (k : Nat) : ctxKind (firmwareEngine s a b c) k = ctxKind s k := by simp [ctxKind]

@[simp] theorem audioRate_firmwareEngine (k : Nat) : audioRate (firmwareEngine s a b c) k = audioRate s k := by simp [audioRate]

@[simp] theorem modeBits_firmwareEngine : modeBits (firmwareEngine s a b c) = modeBits s := by simp [modeBits]

@[simp] theorem activeSets_firmwareEngine : activeSets (firmwareEngine s a b c) = activeSets s := by simp [activeSets]

@[simp] theorem boundDigest_firmwareEngine (k : Nat) : boundDigest (firmwareEngine s a b c) k = boundDigest s k := by
  have hedition : getReg (firmwareEngine s a b c) 0x6100 0x01 = getReg s 0x6100 0x01 :=
    regsBut_firmwareEngine s a b c _ _ (by decide) (by decide)
  simp [boundDigest, hedition]

@[simp] theorem scalerBlob_firmwareEngine (k : Nat) : scalerBlob (firmwareEngine s a b c) k = scalerBlob s k := by simp [scalerBlob]

@[simp] theorem ctxClass_firmwareEngine (k : Nat) : ctxClass (firmwareEngine s a b c) k = ctxClass s k := by
  simp [ctxClass, codedSize, scalerOn]

@[simp] theorem refreshOf_firmwareEngine (k : Nat) : refreshOf (firmwareEngine s a b c) k = refreshOf s k := by
  simp [refreshOf, refreshWith, rcParams]

@[simp] theorem settingsBytes_firmwareEngine (k : Nat) : settingsBytes (firmwareEngine s a b c) k = settingsBytes s k := by
  simp [settingsBytes]

/-- R245: whether a snapshot fits does not depend on firmware's own work. -/
@[simp] theorem snapshotFits_firmwareEngine (k : Nat) (bs : List Byte) : snapshotFits (firmwareEngine s a b c) k bs = snapshotFits s k bs := by
  simp [snapshotFits]

end

theorem exec_contextResume (h : controlled s = true) (hk : k < 16384) : exec (.contextResume k) s = .next (resumeCtx s k) :=
  whenControlled_guarded h (c := fun _ => k < maxCtx) hk (resumeCtx · k)

theorem resumeCtx_of_pending (h : cmdPending s k = true) : resumeCtx s k = setCmdStatus s k stPending := if_pos h

/-- What decompressing the snapshot that a RESUME names answers. -/
def snapshotRead (s : State) (k : Nat) : DzOut :=
  decompress 3 (s.mem.read (getReg s (ctxIndex k) 0x35) (getReg s (ctxIndex k) 0x36)) (2 ^ 40)

/-- The block after firmware decompressed the snapshot on an engine. -/
def snapshotEngine (s : State) (k : Nat) : State :=
  firmwareEngine s (ceilDiv (snapshotRead s k).out.length 4) (snapshotRead s k).used (snapshotRead s k).out.length

theorem snapshotEngine_keeps (s : State) (k : Nat) : Kept [.dict, .media] s (snapshotEngine s k) := firmwareEngine_keeps s _ _ _

theorem regsBut_snapshotEngine (s : State) (k : Nat) : RegsBut [(0x6200, 0x03), (0x6200, 0x04)] s (snapshotEngine s k) :=
  regsBut_firmwareEngine s _ _ _

/-- A RESUME ended with a status: its context stays in its state. -/
def ResumeEnded (s : State) (k st : Nat) (t : State) : Prop :=
  ctxState t k = ctxState s k ∧ getReg t (ctxIndex k) 0x04 = st ∧
  RegsBut [(ctxIndex k, 0x04), (ctxIndex k, 0x05), (0x6200, 0x03), (0x6200, 0x04)] s t ∧ Kept [.dict, .media] s t

theorem resumeEnded_setCmdStatus (s : State) (k st : Nat) : ResumeEnded s k st (setCmdStatus (snapshotEngine s k) k st) := by
  refine ⟨?_, cmdStatus_setCmdStatus .., ?_, (setCmdStatus_keeps _ k st).by rfl (snapshotEngine_keeps s k)⟩
  · rw [ctxState_setCmdStatus, snapshotEngine, ctxState_firmwareEngine]
  · exact ((regsBut_snapshotEngine s k).mono (by simp)).setReg (by decide) (by simp)

theorem resumeEnded_setDetail {st : Nat} (h : ResumeEnded s k st t) (d : Nat) : ResumeEnded s k st (setDetail t k d) := by
  obtain ⟨hstate, hstatus, hregs, hkept⟩ := h
  refine ⟨?_, ?_, hregs.setReg (by decide) (by simp), (setDetail_keeps t k d).by rfl hkept⟩
  · exact (getReg_setReg_sub t _ d (by decide) (by decide) (by decide)).trans hstate
  · exact (getReg_setReg_sub t _ d (by decide) (by decide) (by decide)).trans hstatus

section
variable (h : cmdPending s k = false) (hst : ctxState s k = 1 ∨ ctxState s k = 6) (hp : parked s = false)
  (hn : getReg s (ctxIndex k) 0x36 ≠ 0) (hr : badRange s (getReg s (ctxIndex k) 0x35) (getReg s (ctxIndex k) 0x36) = false)
include h hst hp hn hr

/-- The checks of a decompressed snapshot in their order. -/
theorem resumeCtx_of_read :
    resumeCtx s k =
      let u := snapshotEngine s k
      let z := snapshotRead s k
      if z.dz ≠ 0 then setDetail (setCmdStatus u k stDecompressError) k z.dz
      else if !snapshotReserved z.out then setCmdStatus u k stBadDescriptor
      else if !snapshotFits s k z.out then setCmdStatus u k stSnapshotMismatch
      else enterStart (putCtx u k { ctxOf s k with fromSnap := true, snap := z.out }) k := by
  have hstate : ¬ ((ctxState s k ≠ 1 ∧ ctxState s k ≠ 6) ∨ parked s = true) := by
    rcases hst with hst | hst <;> simp [hst, hp]
  have hrange : ¬ (getReg s (ctxIndex k) 0x36 = 0 ∨ badRange s (getReg s (ctxIndex k) 0x35) (getReg s (ctxIndex k) 0x36) = true) := by
    simp [hn, hr]
  simp only [resumeCtx, ctxReg, h, hstate, hrange, Bool.false_eq_true, if_false, snapshotFits_firmwareEngine, ctxOf_firmwareEngine]
  rfl

theorem resumeCtx_of_fits (hdz : (snapshotRead s k).dz = 0) (hres : snapshotReserved (snapshotRead s k).out = true)
    (hfits : snapshotFits s k (snapshotRead s k).out = true) :
    resumeCtx s k =
      enterStart (putCtx (snapshotEngine s k) k { ctxOf s k with fromSnap := true, snap := (snapshotRead s k).out }) k := by
  simp [resumeCtx_of_read h hst hp hn hr, hdz, hres, hfits]

theorem resumeEnded_of_damaged (hdz : (snapshotRead s k).dz ≠ 0) : ResumeEnded s k stDecompressError (resumeCtx s k) := by
  rw [resumeCtx_of_read h hst hp hn hr]
  simpa [hdz] using resumeEnded_setDetail (resumeEnded_setCmdStatus s k _) _

theorem resumeEnded_of_reserved (hdz : (snapshotRead s k).dz = 0) (hres : snapshotReserved (snapshotRead s k).out = false) :
    ResumeEnded s k stBadDescriptor (resumeCtx s k) := by
  rw [resumeCtx_of_read h hst hp hn hr]
  simpa [hdz, hres] using resumeEnded_setCmdStatus s k _

theorem resumeEnded_of_misfit (hdz : (snapshotRead s k).dz = 0) (hres : snapshotReserved (snapshotRead s k).out = true)
    (hfits : snapshotFits s k (snapshotRead s k).out = false) : ResumeEnded s k stSnapshotMismatch (resumeCtx s k) := by
  rw [resumeCtx_of_read h hst hp hn hr]
  simpa [hdz, hres, hfits] using resumeEnded_setCmdStatus s k _

end

/-! ### STOP -/

theorem exec_contextStop (h : controlled s = true) (hk : k < 16384) : exec (.contextStop k) s = .next (stopCtx s k) :=
  whenControlled_guarded h (c := fun _ => k < maxCtx) hk (stopCtx · k)

theorem stopCtx_of_switching (hst : ctxState s k = 3) (h : (ctxOf s k).switchTo ≠ none) :
    stopCtx s k = setCmdStatus (putCtx s k { ctxOf s k with switchTo := none }) k stCancelled := by
  rw [stopCtx, if_pos ⟨hst, Option.isSome_iff_ne_none.mpr h⟩]

section
variable (h : (ctxOf s k).stopDue = false)
include h

theorem stopCtx_of_starting (hst : ctxState s k = 2) : stopCtx s k = setCmdStatus (setCtxState s k 1) k stCancelled := by
  simp [stopCtx, h, hst]

theorem stopCtx_of_issuing (hst : (ctxState s k = 3 ∧ (ctxOf s k).switchTo = none) ∨ ctxState s k = 7) :
    stopCtx s k = setCmdStatus (putCtx s k { ctxOf s k with stopDue := true }) k stPending := by
  rcases hst with ⟨hst, hto⟩ | hst
  · simp [stopCtx, h, hst, hto]
  · simp [stopCtx, h, hst]

theorem stopCtx_of_badState (hst : ctxState s k ≤ 1 ∨ ctxState s k = 4 ∨ ctxState s k = 6) :
    stopCtx s k = setCmdStatus s k stBadState := by
  have hnone : ctxState s k ≠ 3 ∧ ctxState s k ≠ 2 ∧ ctxState s k ≠ 7 ∧ ctxState s k ≠ 5 := by omega
  simp [stopCtx, h, hnone]

theorem stopCtx_of_timeout (hst : ctxState s k = 5) :
    stopCtx s k = if ctxIdle s k then leaveService (setCmdStatus s k stCancelled) k 1
      else putCtx (setCmdStatus s k stCancelled) k { ctxOf s k with stopDue := true } := by
  simp only [stopCtx, h, hst]
  rfl

end

/-! ### Leaving service -/

theorem getReg_ownFlows {i j : Nat} (hi : i < 0xC000) (hj : j < 256) (s : State) (k v : Nat) : getReg (ownFlows s k v) i j = getReg s i j := by
  have hstep (t : State) (f : Nat) : getReg (setReg t (flowIndex f) 0x01 v) i j = getReg t i j := by
    refine getReg_setReg_obj t v ?_ (by decide) hj
    unfold flowIndex
    omega
  exact List.foldlRecOn (ctxFlows s k) _ (motive := fun t => getReg t i j = getReg s i j) rfl fun t ht f _ => (hstep t f).trans ht

/-- What was given back before the context's own subentries change. -/
def withoutService (s : State) (k : Nat) : State := leaveLegs (ownFlows (dropBuffers (dropWaiting s k) k) k 0xFFFF) k

theorem getReg_withoutService {i j : Nat} (hi : i < 0xC000) (hj : j < 256) (s : State) (k : Nat) :
    getReg (withoutService s k) i j = getReg s i j := by
  have hgiven : (dropBuffers (dropWaiting s k) k).dict = s.dict :=
    Part.same_trans (dropWaiting_keeps s k .dict (by decide)) (dropBuffers_keeps _ k .dict (by decide))
  calc getReg (withoutService s k) i j
    _ = getReg (ownFlows (dropBuffers (dropWaiting s k) k) k 0xFFFF) i j := getReg_congr (leaveLegs_keeps _ k .dict (by decide)) i j
    _ = getReg (dropBuffers (dropWaiting s k) k) i j := getReg_ownFlows hi hj ..
    _ = getReg s i j := getReg_congr hgiven i j

theorem getReg_leaveService_self (hk : k < 16384) {j : Nat} (hj : j < 256) (s : State) (st : Nat) :
    getReg (leaveService s k st) (ctxIndex k) j = if j = 0x38 then 0xFF else if j = 0x02 then st else getReg s (ctxIndex k) j := by
  have hbelow : ctxIndex k < 0xC000 := by
    unfold ctxIndex
    omega
  have hdict : (leaveService s k st).dict = (setReg (setCtxState (withoutService s k) k st) (ctxIndex k) 0x38 0xFF).dict := rfl
  rw [getReg_congr hdict, setCtxState, getReg_setReg _ _ _ _ _ _ (by decide) hj, getReg_setReg _ _ _ _ _ _ (by decide) hj,
    getReg_withoutService hbelow hj]
  simp [eq_comm]

theorem inputs_leaveService (s : State) (k st : Nat) : (ctxOf (leaveService s k st) k).inputs = [] := by
  rw [leaveService, ctxOf_putCtx_same]

theorem stateBufs_leaveService (s : State) (k st : Nat) : (ctxOf (leaveService s k st) k).stateBufs = [] := by
  rw [leaveService, ctxOf_putCtx_same]

/-! ### Switches -/

theorem exec_contextSwitch (h : controlled s = true) (hk : k < 16384) (slot : Nat) : exec (.contextSwitch k slot) s = .next (switchCtx s k slot) :=
  whenControlled_guarded h (c := fun _ => k < maxCtx) hk (switchCtx · k slot)

theorem switchCtx_of_pending (h : cmdPending s k = true) (slot : Nat) : switchCtx s k slot = setCmdStatus s k stPending := if_pos h

/-! ### The obligation -/

/-- Settles O16: each command in each state is one chain of writes to its context's own subentries and run state. -/
theorem contextCommands : Obligations.ContextCommands := by
  unfold Obligations.ContextCommands
  refine ⟨⟨?bind, ?unbind, ?bound⟩, ⟨?start, ?noStart, ?timeout, ?noTimeout, ?resume, ?pending⟩,
    ⟨?stopSwitch, ?stopStart, ?stopRun, ?stopIdle, ?noStop, ?stopBusy⟩⟩
  case bind =>
    intro s k v hs hk hv hst
    refine ⟨_, exec_contextBind hs hk hv, binding_writeBinding hst v, ?_, regsBut_writeBinding hst v, ctxOf_writeBinding hst v,
      writeBinding_keeps s k v⟩
    rw [ctxState_writeBinding hst, if_neg (Nat.ne_of_lt hv)]
  case unbind =>
    intro s k hs hk hst
    have hlow : ctxState s k ≤ 1 := Nat.le_of_eq hst
    refine ⟨_, exec_contextUnbind hs hk hst, binding_writeBinding hlow _, ?_, regsBut_writeBinding hlow _, ctxOf_writeBinding hlow _,
      writeBinding_keeps s k _⟩
    rw [ctxState_writeBinding hlow, if_pos rfl]
  case bound =>
    intro s k v hs hk hv hst
    rw [exec_contextBind hs hk hv, writeBinding_of_started hst]
  case start =>
    intro s k hs hk hc hst hp
    have he := startCtx_of_stopped hc hst hp
    obtain ⟨hstate, hstatus, hregs⟩ := ctx_reads_of_dict (s := s) (t := startCtx s k) (he ▸ dict_enterStart _ k)
    refine ⟨_, exec_contextStart hs hk, hstate, hstatus, ?_, hregs, fun l hl => ?_, startCtx_keeps s k⟩
    · rw [he, ctxOf_enterStart, ctxOf_putCtx_same]
    · rw [he, ctxOf_enterStart, ctxOf_putCtx_ne _ _ hl.symm]
  case noStart =>
    intro s k hs hk hc hst
    rw [exec_contextStart hs hk, startCtx_of_badState hc hst]
    rfl
  case timeout =>
    intro s k hs hk hc hst hn hr
    have he := timeoutCtx_of_running hc hst hn hr
    obtain ⟨hstate, hstatus, hregs⟩ := ctx_reads_of_dict (s := s) (t := timeoutCtx s k) (by rw [he]; rfl)
    refine ⟨_, exec_contextTimeout hs hk, hstate, hstatus, ?_, hregs, fun l hl => ?_, timeoutCtx_keeps s k⟩
    · rw [he]
      exact ctxOf_putCtx_same ..
    · rw [he]
      exact ctxOf_putCtx_ne _ _ hl.symm
  case noTimeout =>
    intro s k hs hk hc hst
    rw [exec_contextTimeout hs hk, timeoutCtx_of_badState hc hst]
    rfl
  case resume =>
    intro s k hs hk hc hst hp hn hr z ends
    have hends {st : Nat} (h : ResumeEnded s k st (resumeCtx s k)) : ends st := ⟨_, exec_contextResume hs hk, h⟩
    refine ⟨fun hdz hres hfits => ?_, fun hdz => hends (resumeEnded_of_damaged hc hst hp hn hr hdz),
      fun hdz hres => hends (resumeEnded_of_reserved hc hst hp hn hr hdz hres),
      fun hdz hres hfits => hends (resumeEnded_of_misfit hc hst hp hn hr hdz hres hfits)⟩
    have he := resumeCtx_of_fits hc hst hp hn hr hdz hres hfits
    obtain ⟨hstate, hstatus, hregs⟩ := ctx_reads_of_dict (s := snapshotEngine s k) (t := resumeCtx s k) (he ▸ dict_enterStart _ k)
    refine ⟨_, exec_contextResume hs hk, hstate, hstatus, ?_, ?_, ((regsBut_snapshotEngine s k).trans hregs).mono (by simp),
      (resumeCtx_keeps s k).mono rfl⟩
    · rw [he, ctxOf_enterStart, ctxOf_putCtx_same]
    · rw [he, ctxOf_enterStart, ctxOf_putCtx_same]
      rfl
  case pending =>
    intro s k slot hs hk hc
    rw [exec_contextStart hs hk, exec_contextTimeout hs hk, exec_contextResume hs hk, exec_contextSwitch hs hk, startCtx_of_pending hc,
      timeoutCtx_of_pending hc, resumeCtx_of_pending hc, switchCtx_of_pending hc]
    exact ⟨rfl, rfl, rfl, rfl⟩
  case stopSwitch =>
    intro s k hs hk hst hto
    refine ⟨_, exec_contextStop hs hk, ?_⟩
    rw [stopCtx_of_switching hst hto]
    refine ⟨?_, ?_, cmdStatus_setCmdStatus .., (setCmdStatus_keeps _ k _).by rfl ((putCtx_keeps s k _).mono rfl)⟩
    · rw [ctxOf_setCmdStatus, ctxOf_putCtx_same]
    · rw [ctxState_setCmdStatus, ctxState_putCtx, hst]
  case stopStart =>
    intro s k hs hk hst hd
    rw [exec_contextStop hs hk, stopCtx_of_starting hd hst]
    rfl
  case stopRun =>
    intro s k hs hk hst hd
    rw [exec_contextStop hs hk, stopCtx_of_issuing hd hst]
    rfl
  case stopIdle =>
    intro s k hs hk hst hidle hd
    refine ⟨_, exec_contextStop hs hk, ?_⟩
    rw [stopCtx_of_timeout hd hst, if_pos hidle]
    refine ⟨?_, ?_, ?_, stateBufs_leaveService .., inputs_leaveService ..⟩
    · exact getReg_leaveService_self hk (by decide) ..
    · exact getReg_leaveService_self hk (by decide) ..
    · exact (getReg_leaveService_self hk (by decide) ..).trans (cmdStatus_setCmdStatus s k _)
  case noStop =>
    intro s k hs hk hst hd
    rw [exec_contextStop hs hk, stopCtx_of_badState hd hst]
    rfl
  case stopBusy =>
    intro s k hs hk hst hidle hd
    rw [exec_contextStop hs hk, stopCtx_of_timeout hd hst, hidle]
    rfl

end Sys2Proof.Machine
end

section
/-! Package switches and reference requests of a running context (R268, R270, R288, R312): a switch waits for its boundary in the run state
alone, and a request joins the others of its context in place of one for the same frame. -/
namespace Sys2Proof.Machine
open Sys2Proof

variable {s : State} {k slot : Nat}

/-! ### A weight window placed -/

theorem getD_placeWindow_keeps (s : State) (die slot : Nat) : Kept [.cache, .windows] s ((placeWindow s die slot).getD s) :=
  (placeWindow_keeps s die slot).getD (Kept.refl _ s)

/-! ### SWITCH asked for -/

theorem switchCtx_of_badState (hc : cmdPending s k = false) (hst : ctxState s k ≠ 3) (slot : Nat) :
    switchCtx s k slot = setCmdStatus s k stBadState := by
  rw [switchCtx, hc, if_neg Bool.false_ne_true, if_pos hst]

section
variable (hc : cmdPending s k = false) (hst : ctxState s k = 3)
include hc hst

theorem switchCtx_of_refused {st : Nat} (h : switchRefused s k slot = some st) : switchCtx s k slot = setCmdStatus s k st := by
  simp [switchCtx, hc, hst, h]

theorem switchCtx_of_accepted (h : switchRefused s k slot = none) :
    Kept [.cache, .windows] (setCmdStatus (putCtx s k { ctxOf s k with switchTo := some slot, switchAsked := counterOf s }) k stPending)
      (switchCtx s k slot) := by
  simp only [switchCtx, hc, hst, h, Bool.false_eq_true, if_false, ne_eq, not_true]
  exact getD_placeWindow_keeps _ _ slot

end

/-! ### SWITCH taking effect -/

theorem switchDue_iff : switchDue s k = true ↔
    (ctxOf s k).switchTo ≠ none ∧ s.clk.now % period s = 0 ∧ (ctxOf s k).switchAsked < counterOf s := by
  simp [switchDue, boundaryAfter, atBoundary, Option.isSome_iff_ne_none]

theorem exec_switchTakeEffect_of_due (h : controlled s = true) (hd : switchDue s k = true) :
    exec (.switchTakeEffect k) s = .next (takeSwitch s k) :=
  whenControlled_guarded h (c := fun s => switchDue s k = true) hd (takeSwitch · k)

theorem exec_switchTakeEffect_of_not_due (h : controlled s = true) (hd : ¬ switchDue s k = true) : exec (.switchTakeEffect k) s = .next s :=
  whenControlled_unguarded h (c := fun s => switchDue s k = true) hd (takeSwitch · k)

section
variable (hto : (ctxOf s k).switchTo = some slot) (hst : ctxState s k = 3)
include hto hst

theorem takeSwitch_of_refused {st : Nat} (h : switchRefused s k slot = some st) : takeSwitch s k = endSwitch s k st 0 := by
  simp [takeSwitch, hto, hst, h]

theorem takeSwitch_of_placed {c : Charge} {u : State} (h : switchRefused s k slot = none)
    (hpeak : peakCharge (setReg s (ctxIndex k) 0x01 slot) k = some c)
    (hroom : chargeHigher c (ctxOf s k).charge = true →
      s.carried = false ∧ noRoom (setReg s (ctxIndex k) 0x01 slot) k (getReg s (ctxIndex k) 0x0D) c = none)
    (hu : placeWindow (setReg s (ctxIndex k) 0x01 slot) (getReg s (ctxIndex k) 0x38) slot = some u) :
    takeSwitch s k = setCmdStatus (putCtx u k { ctxOf u k with switchTo := none, charge := c, seqDue := true }) k stOk := by
  cases hhigh : chargeHigher c (ctxOf s k).charge with
  | false => simp [takeSwitch, hto, hst, h, hpeak, hhigh, ctxReg, hu]
  | true =>
    obtain ⟨hcarried, hfits⟩ := hroom hhigh
    simp [takeSwitch, hto, hst, h, hpeak, hhigh, hcarried, ctxReg, hfits, hu]

end

/-! ### A switch that ends with a status -/

theorem ctxState_endSwitch (s : State) (k st d : Nat) : ctxState (endSwitch s k st d) k = ctxState s k := by
  unfold endSwitch setDetail
  exact (getReg_setReg_sub _ _ d (by decide) (by decide) (by decide)).trans (ctxState_setCmdStatus ..)

theorem cmdStatus_endSwitch (s : State) (k st d : Nat) : getReg (endSwitch s k st d) (ctxIndex k) 0x04 = st := by
  unfold endSwitch setDetail
  exact (getReg_setReg_sub _ _ d (by decide) (by decide) (by decide)).trans (cmdStatus_setCmdStatus ..)

theorem ctxOf_endSwitch_same (s : State) (k st d : Nat) : ctxOf (endSwitch s k st d) k = { ctxOf s k with switchTo := none } :=
  ctxOf_putCtx_same ..

theorem ctxOf_endSwitch_ne (s : State) {k l : Nat} (st d : Nat) (h : l ≠ k) : ctxOf (endSwitch s k st d) l = ctxOf s l :=
  ctxOf_putCtx_ne _ _ h.symm

theorem regsBut_endSwitch (s : State) (k st d : Nat) : RegsBut [(ctxIndex k, 0x04), (ctxIndex k, 0x05)] s (endSwitch s k st d) :=
  ((RegsBut.of_dict _ rfl).setReg (by decide) (by simp)).setReg (by decide) (by simp)

/-! ### Reference requests -/

theorem exec_referenceRequest (h : controlled s = true) (hk : k < 16384) (slot j : Nat) :
    exec (.referenceRequest k slot j) s = .next (requestReference s k slot j) :=
  whenControlled_guarded h (c := fun _ => k < maxCtx) hk (requestReference · k slot j)

/-- The requests of a context with one for frame `j` in place of an earlier one. -/
def withRequest (rs : List (Nat × Nat)) (j slot : Nat) : List (Nat × Nat) := rs.filter (fun r => r.1 != j) ++ [(j, slot)]

theorem mem_withRequest {rs : List (Nat × Nat)} {j : Nat} {r : Nat × Nat} :
    r ∈ withRequest rs j slot ↔ (r ∈ rs ∧ r.1 ≠ j) ∨ r = (j, slot) := by
  simp [withRequest]

theorem requestReference_of_refused {j st : Nat} (h : referenceRefused s k slot j = some st) :
    requestReference s k slot j = setReg s (ctxIndex k) 0x1D st := by
  simp [requestReference, h]

theorem requestReference_of_taken {j : Nat} (h : referenceRefused s k slot j = none) :
    requestReference s k slot j =
      setReg (putCtx s k { ctxOf s k with requests := withRequest (ctxOf s k).requests j slot }) (ctxIndex k) 0x1D stOk := by
  simp [requestReference, h, withRequest]

theorem referenceRefused_of_badState (h : ctxState s k ≠ 3 ∨ ctxKind s k ≠ 1) (slot j : Nat) :
    referenceRefused s k slot j = some stBadState := by
  have hbad : (ctxState s k != 3 || ctxKind s k != 1) = true := by simpa using h
  simp [referenceRefused, hbad, refuseIf, firstStatus]

theorem referenceRefused_of_late {j : Nat} (hst : ctxState s k = 3) (hkind : ctxKind s k = 1) (hj : j < getReg s (ctxIndex k) 0x39)
    (slot : Nat) : referenceRefused s k slot j = some stTooLate := by
  simp [referenceRefused, hst, hkind, ctxReg, hj, refuseIf, firstStatus]

/-! ### The obligation -/

/-- Settles O18: a switch is one field of its context's run state until it is due, and then the binding, the charge and the header owed; a
request replaces the one for its frame. -/
theorem contextSwitches : Obligations.ContextSwitches := by
  unfold Obligations.ContextSwitches
  refine ⟨⟨?ask, ?refuse, ?badState, ?take, ?fail, ?wait⟩, ⟨?request, ?noRequest, fun s k slot j h => referenceRefused_of_badState h slot j,
    fun s k slot j hst hkind hj => referenceRefused_of_late hst hkind hj slot⟩⟩
  case ask =>
    intro s k slot hs hk hc hst hr
    have hkept := switchCtx_of_accepted hc hst hr
    have hdict := hkept .dict (by decide)
    have hctxs := ctxOf_congr (hkept .ctxs (by decide))
    refine ⟨_, exec_contextSwitch hs hk slot, ?_, ?_, ?_, ?_, fun l hl => ?_, (switchCtx_keeps s k slot).mono rfl⟩
    · rw [hctxs, ctxOf_setCmdStatus, ctxOf_putCtx_same]
    · rw [ctxState_congr hdict, ctxState_setCmdStatus, ctxState_putCtx, hst]
    · rw [getReg_congr hdict]
      exact cmdStatus_setCmdStatus ..
    · exact (regsBut_setCmdStatus s k stPending).congr hdict
    · rw [hctxs, ctxOf_setCmdStatus, ctxOf_putCtx_ne _ _ hl.symm]
  case refuse =>
    intro s k slot st hs hk hc hst hr
    rw [exec_contextSwitch hs hk, switchCtx_of_refused hc hst hr]
    rfl
  case badState =>
    intro s k slot hs hk hc hst
    rw [exec_contextSwitch hs hk, switchCtx_of_badState hc hst]
    rfl
  case take =>
    intro s k slot c u hs hk hat hto hasked hst hr v hpeak hroom hu
    have hplaced := KeptO.elim (placeWindow_keeps v _ slot) hu
    have hctxs (l : Nat) : ctxOf u l = ctxOf s l := ctxOf_congr (hplaced .ctxs (by decide)) l
    have hdue := switchDue_iff.mpr ⟨by simp [hto], hat, hasked⟩
    have he := takeSwitch_of_placed hto hst hr hpeak hroom hu
    have hdict : (takeSwitch s k).dict = (setCmdStatus v k stOk).dict := by
      rw [he]
      exact congrArg (putReg · (ctxIndex k) 0x04 stOk) (hplaced .dict (by decide))
    refine ⟨_, exec_switchTakeEffect_of_due hs hdue, ?_, ?_, ?_, ?_, fun l hl => ?_, ?_, (takeSwitch_keeps s k).mono rfl⟩
    · rw [getReg_congr hdict, setCmdStatus, getReg_setReg_sub _ _ _ (by decide) (by decide) (by decide)]
      exact getReg_setReg_same ..
    · rw [he, ctxOf_setCmdStatus, ctxOf_putCtx_same, hctxs]
    · rw [getReg_congr hdict]
      exact cmdStatus_setCmdStatus ..
    · rw [ctxState_congr hdict, ctxState_setCmdStatus]
      exact (getReg_setReg_sub _ _ _ (by decide) (by decide) (by decide)).trans hst
    · rw [he, ctxOf_setCmdStatus, ctxOf_putCtx_ne _ _ hl.symm, hctxs]
    · exact (((RegsBut.of_dict _ rfl).setReg (by decide) (by simp)).setReg (by decide) (by simp)).congr hdict
  case fail =>
    intro s k slot st hs hk hat hto hasked hst hr
    have hdue := switchDue_iff.mpr ⟨by simp [hto], hat, hasked⟩
    have he := takeSwitch_of_refused hto hst hr
    refine ⟨_, exec_switchTakeEffect_of_due hs hdue, he ▸ ?_⟩
    exact ⟨cmdStatus_endSwitch .., ctxOf_endSwitch_same .., (ctxState_endSwitch ..).trans hst, fun l hl => ctxOf_endSwitch_ne s st 0 hl,
      regsBut_endSwitch s k st 0, endSwitch_keeps s k st 0⟩
  case wait =>
    intro s k hs hw
    refine exec_switchTakeEffect_of_not_due hs fun hd => ?_
    obtain ⟨hto, hat, hasked⟩ := switchDue_iff.mp hd
    rcases hw with h | h | h
    · exact hto h
    · exact h hat
    · omega
  case request =>
    intro s k slot j hs hk hr
    have he := requestReference_of_taken hr
    have hreqs : (ctxOf (requestReference s k slot j) k).requests = withRequest (ctxOf s k).requests j slot := by
      rw [he]
      exact congrArg Ctx.requests (ctxOf_putCtx_same ..)
    refine ⟨_, exec_referenceRequest hs hk slot j, ?_, ?_, ?_, fun l hl => ?_, ?_, ?_, requestReference_keeps s k slot j⟩
    · rw [hreqs, mem_withRequest]
      exact .inr rfl
    · intro r hmem hj
      rw [hreqs, mem_withRequest] at hmem
      rcases hmem with ⟨-, hne⟩ | rfl
      · exact absurd hj hne
      · rfl
    · intro r hmem hne
      rw [hreqs, mem_withRequest]
      exact .inl ⟨hmem, hne⟩
    · rw [he]
      exact ctxOf_putCtx_ne _ _ hl.symm
    · rw [he]
      exact getReg_setReg_same ..
    · rw [he]
      exact (RegsBut.of_dict _ rfl).setReg (by decide) (by simp)
  case noRequest =>
    intro s k slot j st hs hk hr
    rw [exec_referenceRequest hs hk, requestReference_of_refused hr]

end Sys2Proof.Machine
end

section
/-! The package controller's queue (R265 to R267, R483, R484): a load whose checks pass copies its file into a range of its own, and nothing that
the queue does to the items behind a load that was the last changes it again. -/
namespace Sys2Proof.Machine
open Sys2Proof

variable {s : State} {k a n : Nat}

/-! ### The state and the status of a slot -/

@[simp] theorem slotState_setSlotState (s : State) (k v : Nat) : slotState (setSlotState s k v) k = v := getReg_setReg_same ..

@[simp] theorem slotState_setSlotStatus (s : State) (k st : Nat) : slotState (setSlotStatus s k st) k = slotState s k :=
  getReg_setReg_sub s _ st (by decide) (by decide) (by decide)

theorem slotState_congr {t : State} (h : t.dict = s.dict) (k : Nat) : slotState t k = slotState s k := getReg_congr h ..

theorem regsBut_setSlot (s : State) (k v st : Nat) :
    RegsBut [(slotIndex k, 0x01), (slotIndex k, 0x05)] s (setSlotStatus (setSlotState s k v) k st) :=
  ((RegsBut.of_dict _ rfl).setReg (by decide) (by simp)).setReg (by decide) (by simp)

/-! ### The queue -/

theorem pumpQueue_of_empty (h : s.queue = []) : pumpQueue s = s := by
  rw [pumpQueue, h]
  rfl

/-! ### A load accepted -/

theorem exec_packageLoad (h : controlled s = true) (hk : k < 4096) : exec (.packageLoad k) s = .next (acceptLoad s k) :=
  whenControlled_guarded h (c := fun _ => k < 4096) hk (acceptLoad · k)

theorem acceptLoad_of_occupied (hp : parked s = false) (hst : slotState s k ≠ 0) : acceptLoad s k = setSlotStatus s k stSlotOccupied := by
  simp [acceptLoad, hp, hst]

theorem acceptLoad_of_valid (hp : parked s = false) (hst : slotState s k = 0) (ha : getReg s (slotIndex k) 0x02 = a)
    (hn : getReg s (slotIndex k) 0x03 = n) (hpos : 1 ≤ n) (hmax : n ≤ 2 ^ 34) (hr : badRange s a n = false)
    (hlen : s.mem.num (a + 16) 8 = n) :
    acceptLoad s k = { setSlotStatus (setSlotState s k 1) k stPending with queue := s.queue ++ [.load k a n] } := by
  have hsize : ¬ (n = 0 ∨ n > 2 ^ 34) := by omega
  rw [acceptLoad, ha, hn]
  dsimp only
  rw [hp, if_neg Bool.false_ne_true, if_neg (by simpa using hst), if_neg hsize, hr, if_neg Bool.false_ne_true, if_neg (by simpa using hlen)]
  rfl

/-! ### The turn of a load -/

theorem exec_packageLoadRun (h : controlled s = true) : exec .packageLoadRun s = .next (runQueuedLoad s) :=
  whenControlled_of_controlled h runQueuedLoad

theorem runQueuedLoad_of_empty (h : s.queue = []) : runQueuedLoad s = s := by
  rw [runQueuedLoad, h]

/-- The load at the head runs with an answer of the dies that is left open (log 13). -/
theorem runQueuedLoad_of_load {r : List QueueItem} (hq : s.queue = .load k a n :: r) (hst : slotState s k = 1) :
    ∃ diesOk, runQueuedLoad s = endLoad (fresh s).2 k r (runLoad (fresh s).2 k a n diesOk) := by
  refine ⟨Config.diesAnswer (fresh s).1, ?_⟩
  rw [runQueuedLoad, hq]
  exact if_pos hst

theorem endLoad_error_last (s : State) (k st : Nat) :
    endLoad s k [] (.error st) = { setSlotStatus (setSlotState s k 0) k st with queue := [] } := pumpQueue_of_empty rfl

theorem endLoad_ok_last {t : State} (s : State) (k : Nat) (r : List QueueItem) (h : slotState t k = 3 → t.queue = []) :
    endLoad s k r (.ok t) = t := by
  by_cases hst : slotState t k = 3
  · exact (if_pos hst).trans (pumpQueue_of_empty (h hst))
  · exact if_neg hst

/-! ### A package copied into memory -/

/-- The package as its slot holds it: its copy lies at `base`, and its weight image within that. -/
def placedPkg (p : Pkg) (base : Nat) : Pkg := { p with copy := base, image := p.image.map fun i => (base + i.1, i.2) }

/-- The file copied to `base`, the slot filled. -/
def writtenPkg (u : State) (k : Nat) (p : Pkg) (base : Nat) (bs : List Byte) : State :=
  { u with mem := u.mem.write base bs, pkgs := nset u.pkgs k (placedPkg p base) }

/-- The function tables bound too, and the slot described. -/
def copiedPkg (u : State) (k : Nat) (p : Pkg) (base : Nat) (bs : List Byte) : State :=
  showPackage (p.fns.foldl (bindFn k) (writtenPkg u k p base bs)) k (some (placedPkg p base))

/-- What a load that passes its checks leaves: the slot loaded, or loading while its tables are written. -/
def loadedPkg (u : State) (k : Nat) (p : Pkg) (base : Nat) (bs : List Byte) : State :=
  let t := copiedPkg u k p base bs
  if tablesPresent u p then { setSlotStatus (setSlotState t k 3) k stOk with queue := t.queue.drop 1 }
  else packageChange (setSlotState t k 2) (tableChange u (some k) p.tables [])

theorem except_ok_bind {ε α β : Type} (x : α) (f : α → Except ε β) : (Except.ok x >>= f) = f x := rfl

theorem runLoad_of_checked {p : Pkg} {base : Nat} {u : State} (hc : checkPackage s (s.mem.read a n) = .ok p)
    (hid : ∀ e, e ∈ s.pkgs → e.2.id = p.id → e.2.version = p.version → e.2.digest = p.digest)
    (hr : reserve s n (k + 1) = some (base, u)) (hf : fnsConflict u p.fns = none)
    (ht : changeRefused (futureSets u) (tableChange u (some k) p.tables []) = none) (diesOk : Bool) :
    runLoad s k a n diesOk =
      if !diesOk && writesDies u p then .error (dieFailed u) else .ok (loadedPkg u k p base (s.mem.read a n)) := by
  have hsame : (s.pkgs.any fun e => e.2.id == p.id && e.2.version == p.version && e.2.digest != p.digest) = false := by
    simpa using hid
  cases hdies : !diesOk && writesDies u p with
  | true =>
    simp only [runLoad, fileAt, hc, except_ok_bind, hsame, hr, hf, ht, hdies, firstStatus, refuseIf, Bool.false_eq_true, if_false, if_true]
  | false =>
    simp only [runLoad, fileAt, hc, except_ok_bind, hsame, hr, hf, ht, hdies, firstStatus, refuseIf, Bool.false_eq_true, if_false]
    exact (apply_ite Except.ok ..).symm

section
variable (u : State) (k : Nat) (p : Pkg) (base : Nat) (bs : List Byte)

theorem copiedPkg_keeps : Kept [.dict, .fabric, .out, .fns] (writtenPkg u k p base bs) (copiedPkg u k p base bs) :=
  (showPackage_keeps _ k _).by rfl (Kept.foldl (fun t e => (bindFn_keeps k t e).mono rfl) p.fns (Kept.refl _ _))

theorem getBlob_copiedPkg : getBlob (copiedPkg u k p base bs) (slotIndex k) 0x08 = p.digest := by
  rw [copiedPkg, showPackage, getBlob_congr (toMirror_keeps _ _ .dict (by decide)), getBlob_setBlob_same]
  rfl

theorem loadedPkg_keeps : Kept [.dict, .lanes, .cdf, .fns, .queue, .fabric, .out] (writtenPkg u k p base bs) (loadedPkg u k p base bs) := by
  have hcopied := (copiedPkg_keeps u k p base bs).mono (ps := [.dict, .lanes, .cdf, .fns, .queue, .fabric, .out]) rfl
  unfold loadedPkg
  refine Kept.ite ?present ?absent
  case present =>
    have hslot := (setSlotStatus_keeps _ k stOk).by rfl ((setSlotState_keeps _ k 3).by rfl hcopied)
    exact (Kept.queue _ _).by rfl hslot
  case absent => exact (packageChange_keeps _ _).by rfl ((setSlotState_keeps _ k 2).by rfl hcopied)

/-- Against the state in which the range was reserved. -/
theorem loadedPkg_keeps_reserved : Kept runLoadParts u (loadedPkg u k p base bs) := by
  have hcopied : Kept runLoadParts u { u with mem := u.mem.write base bs } := (Kept.mem u _).mono rfl
  have hwritten : Kept runLoadParts u (writtenPkg u k p base bs) := (Kept.pkgs { u with mem := u.mem.write base bs } _).by rfl hcopied
  exact (loadedPkg_keeps u k p base bs).by rfl hwritten

theorem mem_loadedPkg : (loadedPkg u k p base bs).mem = u.mem.write base bs := loadedPkg_keeps u k p base bs .mem (by decide)

theorem allocs_loadedPkg : (loadedPkg u k p base bs).allocs = u.allocs := loadedPkg_keeps u k p base bs .allocs (by decide)

theorem pkgOf_loadedPkg : pkgOf (loadedPkg u k p base bs) k = some (placedPkg p base) :=
  (congrArg (nget · k) (loadedPkg_keeps u k p base bs .pkgs (by decide))).trans (nget_nset_same ..)

theorem getBlob_loadedPkg : getBlob (loadedPkg u k p base bs) (slotIndex k) 0x08 = p.digest := by
  rw [← getBlob_copiedPkg u k p base bs, loadedPkg]
  split
  · rfl
  · exact getBlob_congr (packageChange_keeps _ _ .dict (by decide)) ..

/-- A package whose tables are all present is loaded at once, and its item leaves the queue. -/
theorem loadedPkg_slot :
    slotState (loadedPkg u k p base bs) k = 2 ∨
    (slotState (loadedPkg u k p base bs) k = 3 ∧ getReg (loadedPkg u k p base bs) (slotIndex k) 0x05 = stOk ∧
      (loadedPkg u k p base bs).queue = u.queue.drop 1) := by
  rw [loadedPkg]
  split
  · refine .inr ⟨?_, getReg_setReg_same .., ?_⟩
    · exact (slotState_setSlotStatus ..).trans (slotState_setSlotState ..)
    · exact congrArg (List.drop 1) (copiedPkg_keeps u k p base bs .queue (by decide))
  · exact .inl ((slotState_congr (packageChange_keeps _ _ .dict (by decide)) k).trans (slotState_setSlotState ..))

end

/-- The turn of the last load of the queue, its checks passed: the dies answer, or the package is loaded. -/
theorem runQueuedLoad_of_checked {p : Pkg} {base : Nat} {u : State} (hq : s.queue = [.load k a n]) (hst : slotState s k = 1)
    (hc : checkPackage (fresh s).2 (s.mem.read a n) = .ok p)
    (hid : ∀ e, e ∈ s.pkgs → e.2.id = p.id → e.2.version = p.version → e.2.digest = p.digest)
    (hr : reserve (fresh s).2 n (k + 1) = some (base, u)) (hf : fnsConflict u p.fns = none)
    (ht : changeRefused (futureSets u) (tableChange u (some k) p.tables []) = none) :
    (writesDies u p = true ∧
      runQueuedLoad s = { setSlotStatus (setSlotState (fresh s).2 k 0) k (dieFailed u) with queue := [] }) ∨
    runQueuedLoad s = loadedPkg u k p base (s.mem.read a n) := by
  obtain ⟨diesOk, hrun⟩ := runQueuedLoad_of_load hq hst
  have hload : runLoad (fresh s).2 k a n diesOk =
      if !diesOk && writesDies u p then .error (dieFailed u) else .ok (loadedPkg u k p base (s.mem.read a n)) :=
    runLoad_of_checked hc hid hr hf ht diesOk
  rw [hrun, hload]
  cases hdies : !diesOk && writesDies u p with
  | true =>
    rw [if_pos rfl]
    exact .inl ⟨(Bool.and_eq_true_iff.mp hdies).2, endLoad_error_last ..⟩
  | false =>
    rw [if_neg Bool.false_ne_true]
    refine .inr (endLoad_ok_last _ k _ fun hthree => ?_)
    rcases loadedPkg_slot u k p base (s.mem.read a n) with htwo | ⟨-, -, hrest⟩
    · rw [htwo] at hthree
      cases hthree
    · rw [hrest, reserve_keeps hr .queue (by decide), show (fresh s).2.queue = _ from hq]
      rfl

/-! ### Unloads -/

theorem exec_packageUnload (h : controlled s = true) (hk : k < 4096) : exec (.packageUnload k) s = .next (acceptUnload s k) :=
  whenControlled_guarded h (c := fun _ => k < 4096) hk (acceptUnload · k)

theorem acceptUnload_of_used (hp : parked s = false) (hst : slotState s k = 3) (hu : slotUsers s k ≠ 0) :
    acceptUnload s k = setSlotStatus s k stPackageInUse := by
  simp [acceptUnload, hp, hst, hu]

/-- The slot unloading, the unload at the end of the queue. -/
def unloading (s : State) (k : Nat) : State :=
  { setSlotStatus (setSlotState s k 4) k stPending with queue := s.queue ++ [.unload k] }

theorem unloading_keeps (s : State) (k : Nat) : Kept [.dict, .queue] s (unloading s k) :=
  (Kept.queue _ _).by rfl ((setSlotStatus_keeps _ k stPending).by rfl ((setSlotState_keeps s k 4).mono rfl))

theorem slotState_unloading (s : State) (k : Nat) : slotState (unloading s k) k = 4 :=
  (slotState_setSlotStatus (setSlotState s k 4) k stPending).trans (slotState_setSlotState ..)

theorem acceptUnload_of_unused (hp : parked s = false) (hst : slotState s k = 3) (hu : slotUsers s k = 0) :
    acceptUnload s k = if s.queue.isEmpty then pumpQueue (unloading s k) else unloading s k := by
  simp only [acceptUnload, hp, hst, hu, Bool.false_eq_true, if_false, ne_eq, not_true]
  rfl

theorem pumpQueue_of_unload {r : List QueueItem} (h : s.queue = .unload k :: r) : pumpQueue s = startUnload s k := by
  rw [pumpQueue, h, List.length_cons, advanceQueue, h]

/-- An unload's turn marks its package or asks for the change of its tables; it ends at a tick. -/
theorem startUnload_keeps_of_unloading (h : slotState s k = 4) : Kept [.lanes, .cdf, .pkgs] s (startUnload s k) := by
  unfold startUnload
  split
  · exact Kept.refl _ s
  · refine Kept.ite ?_ ((packageChange_keeps s _).mono rfl)
    rw [packageTablesDone, if_pos h]
    exact (Kept.pkgs s _).mono rfl

theorem acceptUnload_keeps_unloading (hp : parked s = false) (hst : slotState s k = 3) (hu : slotUsers s k = 0) :
    Kept [.lanes, .cdf, .pkgs] (unloading s k) (acceptUnload s k) := by
  rw [acceptUnload_of_unused hp hst hu]
  split
  · next hempty =>
    have hq : (unloading s k).queue = [.unload k] := by simp [unloading, List.isEmpty_iff.mp hempty]
    rw [pumpQueue_of_unload hq]
    exact startUnload_keeps_of_unloading (slotState_unloading s k)
  · exact Kept.refl _ _

/-! ### Key requests -/

theorem exec_keyRequest (h : controlled s = true) (o : Origin) : exec (.keyRequest o) s = .next (acceptKey s o) :=
  whenControlled_of_controlled h (acceptKey · o)

section
variable (hn : getReg s 0x1300 0x09 = 512 ∨ getReg s 0x1300 0x09 = 17120)
  (hr : badRange s (getReg s 0x1300 0x08) (getReg s 0x1300 0x09) = false) (o : Origin)
include hn hr

theorem acceptKey_of_valid :
    acceptKey s o =
      let u := { setReg s 0x1300 0x0B stPending with
        queue := s.queue ++ [.key o (getReg s 0x1300 0x08) (getReg s 0x1300 0x09)] }
      if s.queue.isEmpty then pumpQueue u else u := by
  have hsize : ¬ (getReg s 0x1300 0x09 ≠ 512 ∧ getReg s 0x1300 0x09 ≠ 17120) := by omega
  rw [acceptKey]
  dsimp only
  rw [if_neg hsize, hr]
  rfl

/-- With nothing queued the request takes its turn at once. -/
theorem acceptKey_of_empty (hq : s.queue = []) :
    acceptKey s o = applyKey (setReg s 0x1300 0x0B stPending) o (getReg s 0x1300 0x08) (getReg s 0x1300 0x09) := by
  have hsame : { setReg s 0x1300 0x0B stPending with queue := [] } = setReg s 0x1300 0x0B stPending := by rw [← hq]; rfl
  rw [acceptKey_of_valid hn hr, hq]
  exact congrArg (applyKey · o _ _) hsame

theorem acceptKey_of_busy (hq : s.queue ≠ []) :
    acceptKey s o = { setReg s 0x1300 0x0B stPending with
      queue := s.queue ++ [.key o (getReg s 0x1300 0x08) (getReg s 0x1300 0x09)] } := by
  rw [acceptKey_of_valid hn hr]
  exact if_neg (by simpa using hq)

end

/-- What decides a key request is none of its own status. -/
theorem keyRefused_setStatus (s : State) (o : Origin) (bs : List Byte) (st : Nat) :
    keyRefused (setReg s 0x1300 0x0B st) o bs = keyRefused s o bs := by
  unfold keyRefused
  rw [getReg_setReg_sub s _ st (by decide) (by decide) (by decide), getReg_setReg_sub s _ st (by decide) (by decide) (by decide),
    getBlob_setReg]
  rfl

theorem applyKey_of_refused {o : Origin} {st : Nat} (h : keyRefused s o (s.mem.read a n) = some st) :
    applyKey s o a n = setReg s 0x1300 0x0B st := by
  unfold applyKey
  extract_lets bs
  rw [show keyRefused s o bs = some st from h]

/-- The customer's keys as a request's file gives them: their hashes, all zero and not enrolled after a removal. -/
def storeKeys (s : State) (bs : List Byte) : State :=
  let t := setReg s 0x1300 0x04 (if numAt bs 4 1 = 3 then 0 else 1)
  let t := setBlob t 0x1300 0x05 (if numAt bs 4 1 = 3 then List.replicate 48 0 else sha384 (sliceAt bs 48 384))
  setBlob t 0x1300 0x06 (if numAt bs 4 1 = 3 then List.replicate 48 0 else sliceAt bs 432 48)

/-- The keys stored, the public modulus kept, the key counter raised. -/
def keyedState (s : State) (bs : List Byte) : State :=
  addReg { storeKeys s bs with ctl := { s.ctl with custRsa := beNat (sliceAt bs 48 384), custExp := numAt bs 32 4 } } 0x1300 0x07 1

theorem applyKey_of_accepted {o : Origin} (h : keyRefused s o (s.mem.read a n) = none) :
    applyKey s o a n = setReg (keyedState s (s.mem.read a n)) 0x1300 0x0B stOk := by
  unfold applyKey
  extract_lets bs
  rw [show keyRefused s o bs = none from h]
  rfl

/-- #1300.07 is a counter of 32 bits. -/
theorem addReg_keyCounter (s : State) (v : Nat) : addReg s 0x1300 0x07 v = setReg s 0x1300 0x07 ((getReg s 0x1300 0x07 + v) % 2 ^ 32) := by
  have hobj : findObj 0x1300 0x07 = some ⟨0x07, 0x07, .u32, .ro, .f, 0⟩ := by decide
  rw [addReg, hobj]
  rfl

section
variable (s : State) (bs : List Byte)

theorem keyCounter_keyedState : getReg (keyedState s bs) 0x1300 0x07 = (getReg s 0x1300 0x07 + 1) % 2 ^ 32 := by
  rw [keyedState, addReg_keyCounter, getReg_setReg_same]
  exact congrArg (fun c => (c + 1) % 2 ^ 32) (getReg_setReg_sub s _ _ (by decide) (by decide) (by decide))

theorem enrolled_keyedState : getReg (keyedState s bs) 0x1300 0x04 = if numAt bs 4 1 = 3 then 0 else 1 := by
  rw [keyedState, addReg_keyCounter, getReg_setReg_sub _ _ _ (by decide) (by decide) (by decide)]
  exact getReg_setReg_same s ..

theorem rsaHash_keyedState :
    getBlob (keyedState s bs) 0x1300 0x05 = if numAt bs 4 1 = 3 then List.replicate 48 0 else sha384 (sliceAt bs 48 384) := by
  rw [keyedState, getBlob_addReg]
  exact (getBlob_setBlob_ne _ _ (by decide)).trans (getBlob_setBlob_same ..)

theorem slhKey_keyedState :
    getBlob (keyedState s bs) 0x1300 0x06 = if numAt bs 4 1 = 3 then List.replicate 48 0 else sliceAt bs 432 48 := by
  rw [keyedState, getBlob_addReg]
  exact getBlob_setBlob_same ..

theorem regsBut_keyedState : RegsBut [(0x1300, 0x0B), (0x1300, 0x07), (0x1300, 0x04)] s (keyedState s bs) := by
  have henrolled : RegsBut [(0x1300, 0x0B), (0x1300, 0x07), (0x1300, 0x04)] s (setReg s 0x1300 0x04 (if numAt bs 4 1 = 3 then 0 else 1)) :=
    (RegsBut.of_dict _ rfl).setReg (by decide) (by simp)
  have hstored : RegsBut _ s (storeKeys s bs) := (henrolled.setBlob _ _ _).setBlob _ _ _
  unfold keyedState
  refine RegsBut.addReg ?_ (by decide) (by simp)
  exact hstored.congr rfl

theorem blobsBut_keyedState : BlobsBut [(0x1300, 0x05), (0x1300, 0x06)] s (keyedState s bs) := by
  have hstored : BlobsBut [(0x1300, 0x05), (0x1300, 0x06)] s (storeKeys s bs) :=
    ((BlobsBut.of_blobs _ rfl).setBlob (by decide) (by simp)).setBlob (by decide) (by simp)
  intro i j hj hn
  exact (getBlob_addReg ..).trans (hstored i j hj hn)

theorem custRsa_keyedState : (keyedState s bs).ctl.custRsa = beNat (sliceAt bs 48 384) := by
  rw [keyedState, addReg_ctl]

theorem keyedState_keeps : Kept [.dict, .ctl] s (keyedState s bs) := by
  have hstored : Kept [.dict, .ctl] s (storeKeys s bs) :=
    (setBlob_keeps _ _ _ _).by rfl ((setBlob_keeps _ _ _ _).by rfl ((setReg_keeps s _ _ _).mono rfl))
  exact (addReg_keeps _ _ _ _).by rfl ((Kept.ctl _ _).by rfl hstored)

end

section
variable (hn : getReg s 0x1300 0x09 = 512 ∨ getReg s 0x1300 0x09 = 17120)
  (hr : badRange s (getReg s 0x1300 0x08) (getReg s 0x1300 0x09) = false) {o : Origin} (hq : s.queue = [])
include hn hr hq

theorem acceptKey_of_refused {st : Nat} (h : keyRefused s o (s.mem.read (getReg s 0x1300 0x08) (getReg s 0x1300 0x09)) = some st) :
    acceptKey s o = setReg (setReg s 0x1300 0x0B stPending) 0x1300 0x0B st := by
  rw [acceptKey_of_empty hn hr o hq]
  exact applyKey_of_refused ((keyRefused_setStatus s o _ _).trans h)

theorem acceptKey_of_accepted (h : keyRefused s o (s.mem.read (getReg s 0x1300 0x08) (getReg s 0x1300 0x09)) = none) :
    acceptKey s o = setReg (keyedState (setReg s 0x1300 0x0B stPending) (s.mem.read (getReg s 0x1300 0x08) (getReg s 0x1300 0x09)))
      0x1300 0x0B stOk := by
  rw [acceptKey_of_empty hn hr o hq]
  exact applyKey_of_accepted ((keyRefused_setStatus s o _ _).trans h)

end

/-! ### The obligation -/

/-- Settles O15: a load, an unload and a key request are each an entry of the queue, and each entry's turn is one chain of named writes. -/
theorem packagesAndKeys : Obligations.PackagesAndKeys := by
  unfold Obligations.PackagesAndKeys
  refine ⟨⟨?accept, ?occupied, ?failed, ?loaded, ?idle, ?unload, ?used⟩, ?key, ?queued⟩
  case accept =>
    intro s k hs hk hp hst a n hpos hmax hr hlen u
    rw [exec_packageLoad hs hk, acceptLoad_of_valid hp hst rfl rfl hpos hmax hr hlen]
    rfl
  case occupied =>
    intro s k hs hk hp hst
    rw [exec_packageLoad hs hk, acceptLoad_of_occupied hp hst]
    rfl
  case failed =>
    intro s k a n st hs hq hst hfail u
    obtain ⟨diesOk, hrun⟩ := runQueuedLoad_of_load hq hst
    rw [exec_packageLoadRun hs, hrun, hfail, endLoad_error_last]
    rfl
  case loaded =>
    intro s k a n p base u hs hq hst hc hid hr hf ht hwf
    have hreserved := reserve_keeps hr
    have hmem : (loadedPkg u k p base (s.mem.read a n)).mem = s.mem.write base (s.mem.read a n) :=
      (mem_loadedPkg ..).trans (congrArg (Memory.write · base _) (hreserved .mem (by decide)))
    rcases runQueuedLoad_of_checked hq hst hc hid hr hf ht with ⟨hdies, hrun⟩ | hrun
    · refine .inl ⟨hdies, ?_⟩
      rw [exec_packageLoadRun hs, hrun]
      rfl
    · refine .inr ⟨loadedPkg u k p base (s.mem.read a n), ?runs, ⟨placedPkg p base, pkgOf_loadedPkg .., rfl, rfl, rfl, rfl⟩, ?copy, ?others,
        allocs_loadedPkg .., ?slot, getBlob_loadedPkg .., ?same⟩
      case runs => rw [exec_packageLoadRun hs, hrun]
      case copy =>
        rw [hmem]
        simpa using Memory.read_write hwf base (s.mem.read a n)
      case others =>
        intro x hx
        rw [hmem]
        exact Memory.get_write_out _ _ _ (by simpa using hx)
      case slot =>
        have hslot := loadedPkg_slot u k p base (s.mem.read a n)
        rwa [(hreserved .queue (by decide)).trans hq] at hslot
      case same =>
        have hfresh := (fresh_snd_keeps s).mono (ps := runLoadParts) rfl
        exact Same.of_kept ((loadedPkg_keeps_reserved _ _ _ _ _).by rfl (hreserved.by rfl hfresh)) rfl
  case idle =>
    intro s hs hq
    rw [exec_packageLoadRun hs, runQueuedLoad_of_empty hq]
  case unload =>
    intro s k hs hk hp hst hu
    have hkept := acceptUnload_keeps_unloading hp hst hu
    have hdict := hkept .dict (by decide)
    refine ⟨_, exec_packageUnload hs hk, ?_, ?_, hkept .queue (by decide), ?_, ?_⟩
    · exact (slotState_congr hdict k).trans (slotState_unloading s k)
    · exact (getReg_congr hdict ..).trans (getReg_setReg_same ..)
    · exact (regsBut_setSlot s k 4 stPending).congr hdict
    · exact hkept.by rfl ((unloading_keeps s k).mono rfl)
  case used =>
    intro s k hs hk hp hst hu
    rw [exec_packageUnload hs hk, acceptUnload_of_used hp hst hu]
    rfl
  case key =>
    intro s o hs hq n bs hn hr
    refine ⟨fun st href => ⟨_, exec_keyRequest hs o, ?_⟩, fun hok => ⟨_, exec_keyRequest hs o, ?_⟩⟩
    · rw [acceptKey_of_refused hn hr hq href]
      exact ⟨getReg_setReg_same _ _ _ _, ((RegsBut.of_dict _ rfl).setReg (by decide) (by simp)).setReg (by decide) (by simp),
        BlobsBut.of_blobs _ rfl, (setReg_keeps s _ _ _).trans (setReg_keeps _ _ _ _)⟩
    · rw [acceptKey_of_accepted hn hr hq hok]
      have hasked : RegsBut [(0x1300, 0x0B), (0x1300, 0x07), (0x1300, 0x04)] s (setReg s 0x1300 0x0B stPending) :=
        (RegsBut.of_dict _ rfl).setReg (by decide) (by simp)
      have hregs := (hasked.trans (regsBut_keyedState _ bs)).mono (ps := [(0x1300, 0x0B), (0x1300, 0x07), (0x1300, 0x04)]) (by simp)
      have hasked' : Kept [.dict, .ctl] s (setReg s 0x1300 0x0B stPending) := (setReg_keeps s _ _ _).mono rfl
      refine ⟨getReg_setReg_same _ _ _ _, ?counter, ?enrolled, fun hop => ⟨?rsa, ?slh, ?modulus⟩,
        fun hop => ⟨?noRsa, ?noSlh⟩, hregs.setReg (by decide) (by simp), ?blobs,
        (setReg_keeps _ _ _ _).by rfl (hasked'.trans (keyedState_keeps _ bs))⟩
      case counter =>
        rw [getReg_setReg_sub _ _ _ (by decide) (by decide) (by decide), keyCounter_keyedState,
          getReg_setReg_sub s _ _ (by decide) (by decide) (by decide)]
      case enrolled => rw [getReg_setReg_sub _ _ _ (by decide) (by decide) (by decide), enrolled_keyedState]
      case rsa => rw [getBlob_setReg, rsaHash_keyedState, if_neg hop]
      case slh => rw [getBlob_setReg, slhKey_keyedState, if_neg hop]
      case modulus => rw [setReg_ctl, custRsa_keyedState]
      case noRsa => rw [getBlob_setReg, rsaHash_keyedState, if_pos hop]
      case noSlh => rw [getBlob_setReg, slhKey_keyedState, if_pos hop]
      case blobs =>
        intro i j hj hn
        rw [getBlob_setReg, blobsBut_keyedState _ bs i j hj hn, getBlob_setReg]
  case queued =>
    intro s o hs hq n hn hr
    rw [exec_keyRequest hs, acceptKey_of_busy hn hr o hq]
    rfl

end Sys2Proof.Machine
end

section
/-! Issued work and its signals (R168, R292): a work is read back as it was put, and what is delivered to it beside its band steps changes the
list of its signals alone. -/
namespace Sys2Proof.Machine
open Sys2Proof

variable {s t : State} {id : WorkId} {w v : Work}

/-! ### The table of issued work -/

theorem id_of_findWork (h : findWork s id = some w) : w.id = id := by
  simpa using List.find?_some h

theorem findWork_congr (h : t.works = s.works) (id : WorkId) : findWork t id = findWork s id := by rw [findWork, findWork, h]

theorem findWork_putWork (hw : findWork s id = some w) (hv : v.id = id) : findWork (putWork s v) id = some v := by
  have hkey : ((fun x : Work => x.id == id) ∘ fun x => if x.id == v.id then v else x) = fun x => x.id == id := by
    funext x
    by_cases hx : x.id = id <;> simp [hx, hv]
  rw [findWork, putWork, List.find?_map, hkey, ← findWork, hw, Option.map_some, id_of_findWork hw, hv, beq_self_eq_true, if_pos rfl]

/-! ### Signals -/

/-- Work `id` stands in the table as `w`, but for the signals that were delivered to it. -/
def SignalledWork (s : State) (id : WorkId) (w : Work) : Prop := ∃ d, findWork s id = some { w with delivered := d }

theorem SignalledWork.of_findWork (h : findWork s id = some w) : SignalledWork s id w := ⟨w.delivered, h⟩

theorem SignalledWork.congr (h : SignalledWork s id w) (ht : t.works = s.works) : SignalledWork t id w := by
  obtain ⟨d, hd⟩ := h
  exact ⟨d, (findWork_congr ht id).trans hd⟩

theorem SignalledWork.deliver (h : SignalledWork s id w) (idx pos obj : Nat) : SignalledWork (deliver s id idx pos obj) id w := by
  obtain ⟨d, hd⟩ := h
  rw [Machine.deliver, hd]
  cases syncBase s id with
  | none => exact ⟨d, hd⟩
  | some b =>
    dsimp only
    split
    · exact ⟨d, hd⟩
    · have hid : w.id = id := id_of_findWork (w := { w with delivered := d }) hd
      exact ⟨d ++ [(idx, pos)], findWork_putWork (s := signalSync s (b + obj)) hd hid⟩

/-! ### Band steps -/

/-- R292: where the step of band `b` stands in the step array of a work. -/
def stepAddr (w : Work) (rc : RcParams) (b : Nat) : Nat := ((regionOf w rc.region).map (·.base)).getD 0 + rc.off + 2 * b

theorem deliverBand_of_findWork (h : findWork s id = some w) (rc : RcParams) (b step : Nat) :
    deliverBand s id rc b step =
      deliver { s with mem := s.mem.write (stepAddr w rc b) (leBytes 2 step) } id (2 ^ 24) b rc.bandObj := by
  rw [deliverBand, h]
  rfl

theorem mem_deliverBand (h : findWork s id = some w) (rc : RcParams) (b step : Nat) :
    (deliverBand s id rc b step).mem = s.mem.write (stepAddr w rc b) (leBytes 2 step) := by
  rw [deliverBand_of_findWork h]
  exact deliver_keeps _ id (2 ^ 24) b rc.bandObj .mem (by decide)

theorem SignalledWork.deliverBand (h : SignalledWork s id w) (rc : RcParams) (b step : Nat) :
    SignalledWork (deliverBand s id rc b step) id w := by
  have ⟨d, hd⟩ := h
  rw [deliverBand_of_findWork hd]
  refine SignalledWork.deliver ?_ ..
  exact h.congr rfl

theorem SignalledWork.deliverBands (h : SignalledWork s id w) (rc : RcParams) (us : List MediaUnit) (n : Nat) :
    SignalledWork (deliverBands s id rc us n) id w := by
  refine List.foldlRecOn (motive := (SignalledWork · id w)) (List.range n) _ h fun u hu b _ => ?_
  split <;> exact hu.deliverBand ..

end Sys2Proof.Machine
end

section
/-! Rate control of one band (R280, R291, R292, R295): the index is a choice within the context's limits, and its step goes to the band's place. -/
namespace Sys2Proof.Machine
open Sys2Proof

/-! ### The choice -/

theorem clampInt_bounds (z : Int) {lo hi : Int} (h : lo ≤ hi) : lo ≤ clampInt z lo hi ∧ clampInt z lo hi ≤ hi := by
  unfold clampInt
  split
  · omega
  · split <;> omega

theorem rcChoose_bounds (rc : RcState) (bsz t a0 : Int) (w bits : List Int) (lag b : Nat) {lo hi : Nat} (scale : Int) (h : lo ≤ hi) :
    lo ≤ rcChoose rc bsz t a0 w bits lag b lo hi scale ∧ rcChoose rc bsz t a0 w bits lag b lo hi scale ≤ hi := by
  unfold rcChoose
  extract_lets tl wsum n done want r q
  have hq : (lo : Int) ≤ q ∧ q ≤ hi := by
    unfold q
    split
    · omega
    · exact clampInt_bounds _ (by omega)
  omega

/-! ### The command -/

variable {s : State} {k b j a0 : Nat} {w : Work} {rp : RcParams}

theorem exec_rateControlBand (h : inService s = true) (k b : Nat) : exec (.rateControlBand k b) s = .next (controlBand s k b) :=
  whenService_of_inService h (controlBand · k b)

/-- R295: the state that band `b` starts from: with pacing, the first band takes the fill from the flows. -/
def pacedRc (s : State) (k b : Nat) : RcState :=
  if b = 0 ∧ ctxReg s k 0x14 ≠ 0 then { (ctxOf s k).rc with full := (queuedBits s k : Nat) } else (ctxOf s k).rc

theorem q_pacedRc (s : State) (k b : Nat) : (pacedRc s k b).q = (ctxOf s k).rc.q := by
  unfold pacedRc
  split <;> rfl

/-- R291: the index of band `b` of picture j. -/
def bandIndex (s : State) (k b j : Nat) (w : Work) (rp : RcParams) (a0 : Nat) : Nat :=
  let rc := pacedRc s k b
  rcChoose rc ((ctxReg s k 0x10 : Nat) : Int) (rcTarget rc ((ctxReg s k 0x10 : Nat) : Int) (drain s k j)) (a0 : Nat)
    ((List.range (bandCount s k)).map fun i => rcWeight (rc.prevbits.getD i 0) rp.sw (stripe s k j i))
    (bandBits s k w (bandCount s k) 0) rp.lag b (qiMin s k : Nat) (qiMax s k : Nat) 1

/-- The index `q` is listed, and the picture is not strict with pacing (R235). -/
def listIndex (s : State) (k b : Nat) (w : Work) (q : Nat) : State :=
  putWork (putCtx s k { ctxOf s k with rc := { pacedRc s k b with q := (pacedRc s k b).q ++ [q] } })
    { w with nonStrict := w.nonStrict || ctxReg s k 0x14 != 0 }

theorem controlBand_of_due (hpic : pictureInProgress s k = some (w, j)) (hrp : rcParams s k w.slot = some rp)
    (hserv : isService (binding s k) = false) (hkind : ctxKind s k = 1 ∨ ctxKind s k = 3) (hb : b < bandCount s k)
    (hq : (ctxOf s k).rc.q.length = b) (hres : w.result = none) (hraw : w.raw = none) (hsync : (syncBase s w.id).isSome = true)
    (hlead : leadBits s k j w = some a0) (hbits : b + 1 - rp.lag ≤ (bandBits s k w (bandCount s k) 0).length) :
    controlBand s k b =
      deliverBand (listIndex s k b w (bandIndex s k b j w rp a0)) w.id rp b (stepCode (bandIndex s k b j w rp a0)) := by
  have hsome : ((pictureInProgress s k).bind fun x => (rcParams s k x.1.slot).map fun rp => (x, rp)) = some ((w, j), rp) := by
    rw [hpic, Option.bind_some, hrp, Option.map_some]
  unfold controlBand
  rw [hsome]
  dsimp only
  rw [if_neg ?due, hlead]
  case due =>
    have henc : (ctxKind s k == 1 || ctxKind s k == 3) = true := by simpa using hkind
    have hwindow : (syncBase s w.id).isNone = false := by simpa using hsync
    simp [hserv, henc, hb, hq, hres, hraw, hwindow]
  dsimp only
  rw [if_neg (Nat.not_lt.mpr hbits)]
  rfl

theorem findWork_listIndex (hw : findWork s w.id = some w) (q : Nat) :
    findWork (listIndex s k b w q) w.id = some { w with nonStrict := w.nonStrict || ctxReg s k 0x14 != 0 } :=
  findWork_putWork (s := putCtx s k _) hw rfl

/-- Settles O42: the band's turn lists the index that R291 chooses, within the limits, and writes its step at the band's place. -/
theorem rateControl : Obligations.RateControl := by
  unfold Obligations.RateControl
  intro s k b w j rp a0 hs hpic hw hrp hserv hkind hb hq hres hraw hsync hlead hlim hbits hwf rc
  have he := controlBand_of_due hpic hrp hserv hkind hb hq hres hraw hsync hlead hbits
  have hctx : (controlBand s k b).ctxs = (putCtx s k { ctxOf s k with
      rc := { pacedRc s k b with q := (pacedRc s k b).q ++ [bandIndex s k b j w rp a0] } }).ctxs := by
    rw [he]
    exact deliverBand_keeps _ w.id rp b _ .ctxs (by decide)
  have hfound := findWork_listIndex (k := k) (b := b) hw (bandIndex s k b j w rp a0)
  have hmem : (controlBand s k b).mem = s.mem.write (stepAddr w rp b) (leBytes 2 (stepCode (bandIndex s k b j w rp a0))) := by
    rw [he]
    exact mem_deliverBand hfound rp b _
  obtain ⟨hmin, hmax⟩ : qiMin s k ≤ bandIndex s k b j w rp a0 ∧ bandIndex s k b j w rp a0 ≤ qiMax s k :=
    rcChoose_bounds _ _ _ _ _ _ _ _ _ hlim
  refine ⟨_, exec_rateControlBand hs k b, bandIndex s k b j w rp a0, ?listed, hmin, hmax, rfl, ⟨?step, ?bytes⟩, ?work, fun c hc => ?others,
    (controlBand_keeps s k b).mono rfl⟩
  case listed =>
    rw [ctxOf_congr hctx, ctxOf_putCtx_same, q_pacedRc]
    rfl
  case step =>
    rw [hmem]
    exact Memory.read_write hwf (stepAddr w rp b) (leBytes 2 (stepCode (bandIndex s k b j w rp a0)))
  case bytes =>
    intro x hx
    rw [hmem]
    exact Memory.get_write_out _ _ _ hx
  case work =>
    obtain ⟨d, hd⟩ := (SignalledWork.of_findWork hfound).deliverBand rp b (stepCode (bandIndex s k b j w rp a0))
    rw [he]
    exact ⟨_, hd, rfl⟩
  case others => rw [ctxOf_congr hctx, ctxOf_putCtx_ne _ _ hc.symm]

end Sys2Proof.Machine
end

section
/-! Parsing an input picture (R287, R289, R290): a picture that is refused ends its work without a signal, and one that decodes hands its units to
the work and forms in memory what its segments start from. -/
namespace Sys2Proof.Machine
open Sys2Proof

variable {s t u : State} {id : WorkId} {k j : Nat} {w v : Work} {p : Pkg} {us : List MediaUnit} {h : PicHeader}

/-! ### What a picture is parsed for -/

theorem exec_parseInputPicture (hs : inService s = true) (id : WorkId) : exec (.parseInputPicture id) s = .next (parseInput s id) :=
  whenService_of_inService hs (parseInput · id)

/-- The bytes of the input of frame w join those that context `k` has taken. -/
def countInput (s : State) (k : Nat) (w : Work) : State :=
  putCtx s k { ctxOf s k with emitted := (ctxOf s k).emitted + w.inLen }

theorem ctxOf_countInput (s : State) (k : Nat) (w : Work) :
    ctxOf (countInput s k w) k = { ctxOf s k with emitted := (ctxOf s k).emitted + w.inLen } := ctxOf_putCtx_same ..

theorem parseInput_of_due (hw : findWork s (.frame k j) = some w) (hp : pkgOf s w.slot = some p) (hun : unparsed s w = true)
    (hres : w.result = none) (hhead : w.head = none) (hsync : (syncBase s (.frame k j)).isSome = true)
    (hfirst : ∀ o c, o ∈ s.works → o.id = .frame k c → j ≤ c) :
    parseInput s (.frame k j) = parsePicture (countInput s k w) k j w p := by
  unfold parseInput
  rw [hw]
  dsimp only
  rw [hp]
  dsimp only
  rw [if_neg ?due, hhead]
  case due =>
    rintro (hparsed | hearlier | hended | ⟨-, hnone⟩)
    · simp [hun] at hparsed
    · obtain ⟨o, ho, hlt⟩ := List.any_eq_true.mp hearlier
      cases hid : o.id with
      | job r q i => simp [hid] at hlt
      | frame c i =>
        obtain ⟨rfl, hij⟩ : c = k ∧ i < j := by simpa [hid] using hlt
        exact Nat.not_le.mpr hij (hfirst o i ho hid)
    · simp [hres] at hended
    · simp [Option.isNone_iff_eq_none.mp hnone] at hsync
  rfl

/-! ### A picture that is refused -/

/-- A work ends with status `st` before anything is dispatched or signalled for it. -/
def EndsParse (s t : State) (id : WorkId) (st : Nat) : Prop :=
  (∃ v, findWork t id = some v ∧ v.parsed = true ∧ v.result = some st ∧ v.units = []) ∧
    t.sync = s.sync ∧ Kept [.works, .mem, .dict, .ctxs] s t

/-- Whatever the context keeps of the picture, and whether or not it is counted as discarded. -/
theorem endsParse_discarded (hw : findWork s (.frame k j) = some w) (hunits : w.units = []) (hu : Kept [.ctxs] s u) (st : Nat) :
    EndsParse s (endParse (discardPicture u k) k j w st) (.frame k j) st := by
  have hdisc : Kept [.ctxs, .dict] s (discardPicture u k) := (discardPicture_keeps u k).by rfl (hu.mono rfl)
  have hkept := (endParse_keeps (discardPicture u k) k j w st).by (ps := [.works, .mem, .dict, .ctxs]) rfl (hdisc.mono rfl)
  have hfound : findWork (discardPicture u k) (.frame k j) = some w := (findWork_congr (hdisc .works (by decide)) _).trans hw
  have hid : w.id = .frame k j := id_of_findWork hw
  have hput : findWork (putWork (discardPicture u k) { w with parsed := true, result := some st }) (.frame k j) =
      some { w with parsed := true, result := some st } := findWork_putWork hfound hid
  refine ⟨⟨{ w with parsed := true, result := some st }, ?_, rfl, rfl, hunits⟩, hkept .sync (by decide), hkept⟩
  exact (findWork_congr (keepState_keeps _ k j w .works (by decide)) _).trans hput

/-- R290: the units are out of order, name a band that the picture has not, or hold a sequence header that is none. -/
def badUnits (s : State) (k : Nat) (bs : List Byte) (audio : Bool) (us : List MediaUnit) : Bool :=
  !unitsOrdered us || us.any (fun u => u.type == 5 && decide (bandCount s k ≤ u.band)) ||
    ((unitOf us 1).isSome && ((unitOf us 1).bind (parseSeq bs audio)).isNone)

theorem badUnits_iff {bs : List Byte} {audio : Bool} : badUnits s k bs audio us = true ↔
    (!unitsOrdered us) = true ∨ us.any (fun u => u.type == 5 && decide (u.band ≥ bandCount s k)) = true ∨
      ((unitOf us 1).isSome = true ∧ ((unitOf us 1).bind (parseSeq bs audio)).isNone = true) := by
  simp only [badUnits, Bool.or_eq_true, Bool.and_eq_true, or_assoc, ge_iff_le]

/-- R287, R290: the sequence header does not match, or there has been none. -/
def headerRefused (s : State) (k : Nat) (p : Pkg) : Option SeqHeader → Bool
  | some h => !seqMatches s k p h
  | none => (ctxOf s k).seqHeader.isNone

theorem parsePicture_of_malformed (hp : parseUnits (workInput s w) ((workInput s w).length + 1) 0 = none) :
    parsePicture s k j w p = endParse (discardPicture s k) k j w stBadBitstream := by
  rw [parsePicture]
  dsimp only
  rw [hp]

section
variable (hparse : parseUnits (workInput s w) ((workInput s w).length + 1) 0 = some us)
include hparse

theorem parsePicture_of_badUnits (hbad : badUnits s k (workInput s w) (isAudio p.kind) us = true) :
    parsePicture s k j w p = endParse (discardPicture s k) k j w stBadBitstream := by
  rw [parsePicture]
  dsimp only
  rw [hparse]
  exact if_pos (badUnits_iff.mp hbad)

variable (hgood : badUnits s k (workInput s w) (isAudio p.kind) us = false)
include hgood

theorem parsePicture_of_headerRefused (hr : headerRefused s k p ((unitOf us 1).bind (parseSeq (workInput s w) (isAudio p.kind))) = true) :
    parsePicture s k j w p =
      endParse (discardPicture (putCtx s k { ctxOf s k with seqHeader := none }) k) k j w stSequenceMismatch := by
  rw [parsePicture]
  dsimp only
  rw [hparse]
  dsimp only
  rw [if_neg (mt badUnits_iff.mpr (by simp [hgood]))]
  exact if_pos hr

theorem parsePicture_of_joined (hjoined : (ctxOf s k).joined = true) (hseq : (ctxOf s k).seqHeader.isSome = true)
    (hnone : unitOf us 1 = none) (hpic : (unitOf us 2).bind (parsePic (workInput s w) (isAudio p.kind)) = some h) :
    parsePicture s k j w p = acceptPicture s k j w p us h false := by
  have hheader : (ctxOf s k).seqHeader.isNone = false := by simpa using hseq
  rw [parsePicture]
  dsimp only
  rw [hparse]
  dsimp only
  rw [if_neg (mt badUnits_iff.mpr (by simp [hgood])), hnone, Option.bind_none]
  dsimp only
  rw [hheader, if_neg Bool.false_ne_true, hpic]
  exact if_pos hjoined

end

/-! ### A picture that decodes -/

/-- What the work of a picture takes from its units `us` and its header `h` in context state `c`. -/
structure TakesPicture (c : Ctx) (audio : Bool) (us : List MediaUnit) (h : PicHeader) (w v : Work) : Prop where
  id : v.id = w.id
  parsed : v.parsed = true
  startPic : v.startPic = h.start
  head : v.head = some h
  result : v.result = w.result
  units : v.units = (us.filter fun u => decide (3 ≤ u.type)).map (fun u =>
    (if u.type = 3 then 0 else if u.type = 4 then 1 else 2 + u.band, u.off, u.len))
  note : v.note = stMissingReference ↔ referenceMissing c audio h = true

/-- Signals delivered to the work are none of this. -/
theorem TakesPicture.signalled {c : Ctx} {audio : Bool} (ht : TakesPicture c audio us h w v) (d : List (Nat × Nat)) :
    TakesPicture c audio us h w { v with delivered := d } :=
  ⟨ht.id, ht.parsed, ht.startPic, ht.head, ht.result, ht.units, ht.note⟩

/-- In a joined context the picture goes to its work, and the context notes whether its reference still sweeps. -/
theorem acceptPicture_of_joined (s : State) (k j : Nat) (w : Work) (p : Pkg) (us : List MediaUnit) (h : PicHeader) :
    ∃ sweep v, acceptPicture s k j w p us h false =
      formDecode (putWork (putCtx s k { ctxOf s k with joined := true, sweeping := sweep }) v) k j v p us h ∧
      TakesPicture (ctxOf s k) (isAudio p.kind) us h w v := by
  unfold acceptPicture
  extract_lets audio c missing sweeping r part note c' s' units n w1 w2
  refine ⟨part, w2, rfl, ?_⟩
  have hnote : note = stMissingReference ↔ referenceMissing c audio h = true := by
    have hm : missing = referenceMissing c audio h := Bool.true_and _
    unfold note
    rw [hm]
    cases referenceMissing c audio h <;> cases part <;> decide
  unfold w2 w1
  cases audio <;> exact ⟨rfl, rfl, rfl, rfl, rfl, rfl, hnote⟩

/-! ### What its segments start from -/

/-- `t` differs from `s` in memory and in the vectors of context `k`, if at all. -/
def FormedFrom (s t : State) (k : Nat) : Prop := Kept [.mem, .ctxs] s t ∧ ∃ vs, ctxOf t k = { ctxOf s k with vecs := vs }

theorem FormedFrom.of_mem (hm : Kept [.mem] s t) : FormedFrom s t k :=
  ⟨hm.mono rfl, (ctxOf s k).vecs, ctxOf_congr (hm .ctxs (by decide)) k⟩

theorem FormedFrom.trans (hst : FormedFrom s t k) (htu : FormedFrom t u k) : FormedFrom s u k := by
  obtain ⟨hkst, vs, hvs⟩ := hst
  obtain ⟨hktu, ws, hws⟩ := htu
  exact ⟨hkst.trans hktu, ws, by rw [hws, hvs]⟩

theorem formedFrom_warpDecoded (s : State) (k j : Nat) (w : Work) (p : Pkg) (h : PicHeader) (vs : List (Int × Int)) :
    FormedFrom s (warpDecoded s k j w p h vs) k := by
  refine ⟨warpDecoded_keeps s k j w p h vs, ?_⟩
  unfold warpDecoded
  extract_lets x nb r grey wm vs' s' slot
  exact ⟨_, (ctxOf_congr (putWarp_keeps s' k w p _ vs' grey .ctxs (by decide)) k).trans (ctxOf_putCtx_same ..)⟩

/-- R281, R282, R296: what a picture's segments start from before its band steps: of a frame of audio, zeros in place of the state that an
independent one reads; of a picture, its motion operands and the warped reference of a start picture. -/
def decodeStart (s : State) (k j : Nat) (w : Work) (p : Pkg) (info : ClassInfo) (h : PicHeader) : State :=
  if isAudio p.kind then (if h.start then clearPrevious s k j else s)
  else
    let t := parsedMotion s k w p info
    if h.start then warpDecoded t k j w p h (List.replicate (motionBlocks t k) (0, 0)) else t

theorem formedFrom_decodeStart (s : State) (k j : Nat) (w : Work) (p : Pkg) (info : ClassInfo) (h : PicHeader) :
    FormedFrom s (decodeStart s k j w p info h) k := by
  have hmotion : FormedFrom s (parsedMotion s k w p info) k := .of_mem (parsedMotion_keeps s k w p info)
  unfold decodeStart
  split
  case isTrue =>
    split
    · exact .of_mem (clearPrevious_keeps s k j)
    · exact .of_mem (Kept.refl _ s)
  case isFalse =>
    dsimp only
    split
    · exact hmotion.trans (formedFrom_warpDecoded ..)
    · exact hmotion

/-- Beside what it forms, a picture's decode delivers its band steps. -/
theorem formDecode_cases (s : State) (k j : Nat) (w : Work) (p : Pkg) (us : List MediaUnit) (h : PicHeader) :
    ∃ t, FormedFrom s t k ∧ (formDecode s k j w p us h = t ∨
      ∃ rc n, formDecode s k j w p us h = deliverBands t w.id rc us n) := by
  cases hc : classOf p w.cls with
  | none => exact ⟨s, .of_mem (Kept.refl _ s), .inl (by rw [formDecode, hc])⟩
  | some info =>
    refine ⟨decodeStart s k j w p info h, formedFrom_decodeStart s k j w p info h, ?_⟩
    rw [formDecode, hc]
    cases hrc : info.rc with
    | none => exact .inl (by dsimp only; rw [hrc]; rfl)
    | some rc => exact .inr ⟨rc, bandCount (decodeStart s k j w p info h) k, by dsimp only; rw [hrc]; rfl⟩

theorem SignalledWork.formDecode (hv : SignalledWork s v.id v) (k j : Nat) (p : Pkg) (us : List MediaUnit) (h : PicHeader) :
    SignalledWork (formDecode s k j v p us h) v.id v := by
  obtain ⟨t, ⟨hkept, -⟩, he⟩ := formDecode_cases s k j v p us h
  have ht : SignalledWork t v.id v := hv.congr (hkept .works (by decide))
  rcases he with he | ⟨rc, n, he⟩
  · rwa [he]
  · rw [he]
    exact ht.deliverBands rc us n

theorem ctxOf_formDecode (s : State) (k j : Nat) (w : Work) (p : Pkg) (us : List MediaUnit) (h : PicHeader) :
    ∃ vs, ctxOf (formDecode s k j w p us h) k = { ctxOf s k with vecs := vs } := by
  obtain ⟨t, ⟨-, vs, hvs⟩, he⟩ := formDecode_cases s k j w p us h
  refine ⟨vs, ?_⟩
  rcases he with he | ⟨rc, n, he⟩
  · rw [he, hvs]
  · rw [he, ctxOf_congr (deliverBands_keeps t w.id rc us n .ctxs (by decide)), hvs]

theorem acceptPicture_takes (hw : findWork s (.frame k j) = some w) (p : Pkg) (us : List MediaUnit) (h : PicHeader) :
    ∃ v, findWork (acceptPicture s k j w p us h false) (.frame k j) = some v ∧ TakesPicture (ctxOf s k) (isAudio p.kind) us h w v := by
  obtain ⟨sweep, v, he, ht⟩ := acceptPicture_of_joined s k j w p us h
  have hid : v.id = .frame k j := ht.id.trans (id_of_findWork hw)
  have hput : findWork (putWork (putCtx s k { ctxOf s k with joined := true, sweeping := sweep }) v) v.id = some v :=
    findWork_putWork (hid ▸ hw) rfl
  obtain ⟨d, hd⟩ := (SignalledWork.of_findWork hput).formDecode k j p us h
  rw [he, ← hid]
  exact ⟨_, hd, ht.signalled d⟩

theorem ctxOf_acceptPicture (s : State) (k j : Nat) (w : Work) (p : Pkg) (us : List MediaUnit) (h : PicHeader) :
    ∃ sweep vs, ctxOf (acceptPicture s k j w p us h false) k = { ctxOf s k with joined := true, sweeping := sweep, vecs := vs } := by
  obtain ⟨sweep, v, he, -⟩ := acceptPicture_of_joined s k j w p us h
  obtain ⟨vs, hvs⟩ := ctxOf_formDecode (putWork (putCtx s k { ctxOf s k with joined := true, sweeping := sweep }) v) k j v p us h
  refine ⟨sweep, vs, ?_⟩
  rw [he, hvs, ctxOf_congr (putWork_keeps _ v .ctxs (by decide)), ctxOf_putCtx_same]

/-! ### The obligation -/

/-- Settles O41: a refused picture ends its work with the status of its fault; one that decodes hands units and note to its work, and its
context counts only the bytes taken. -/
theorem inputPictures : Obligations.InputPictures := by
  unfold Obligations.InputPictures
  intro s k j w p hs hw hp hun hres hunits hhead hsync hfirst bs audio bad stops
  have hexec : exec (.parseInputPicture (.frame k j)) s = .next (parsePicture (countInput s k w) k j w p) := by
    rw [exec_parseInputPicture hs, parseInput_of_due hw hp hun hres hhead hsync hfirst]
  have hcount : Kept [.ctxs] s (countInput s k w) := putCtx_keeps s k _
  refine ⟨fun hparse => ?malformed, fun us hparse hbad => ?badUnits, fun us hparse hgood hseq => ?mismatch,
    fun us h hparse hgood hjoined hseq hnone hpic => ?decodes⟩
  case malformed =>
    refine ⟨_, hexec, ?_⟩
    rw [parsePicture_of_malformed (s := countInput s k w) hparse]
    exact endsParse_discarded hw hunits hcount _
  case badUnits =>
    refine ⟨_, hexec, ?_⟩
    rw [parsePicture_of_badUnits (s := countInput s k w) hparse hbad]
    exact endsParse_discarded hw hunits hcount _
  case mismatch =>
    have hrefused : headerRefused (countInput s k w) k p ((unitOf us 1).bind (parseSeq bs audio)) = true := by
      cases hh : (unitOf us 1).bind (parseSeq bs audio) with
      | none =>
        rw [hh] at hseq
        rw [headerRefused, ctxOf_countInput]
        exact Option.isNone_iff_eq_none.mpr hseq
      | some h =>
        rw [hh] at hseq
        exact congrArg not hseq
    refine ⟨_, hexec, ?_⟩
    rw [parsePicture_of_headerRefused (s := countInput s k w) hparse hgood hrefused]
    exact endsParse_discarded hw hunits (hcount.trans (putCtx_keeps _ k _)) _
  case decodes =>
    have hctx := ctxOf_countInput s k w
    have haccept : parsePicture (countInput s k w) k j w p = acceptPicture (countInput s k w) k j w p us h false :=
      parsePicture_of_joined (s := countInput s k w) hparse hgood (by rw [hctx]; exact hjoined) (by rw [hctx]; exact hseq) hnone hpic
    have hfound : findWork (countInput s k w) (.frame k j) = some w := hw
    obtain ⟨v, hv, htakes⟩ := acceptPicture_takes hfound p us h
    obtain ⟨sweep, vs, hafter⟩ := ctxOf_acceptPicture (countInput s k w) k j w p us h
    have hkept := (acceptPicture_keeps (countInput s k w) k j w p us h false).by (ps := [.works, .mem, .ctxs, .sync]) rfl (hcount.mono rfl)
    have hnote : v.note = stMissingReference ↔ referenceMissing (ctxOf s k) audio h = true := by
      rw [htakes.note, hctx]
      rfl
    rw [hctx] at hafter
    refine ⟨_, hexec, ?_⟩
    rw [haccept]
    exact ⟨v, hv, htakes.parsed, htakes.startPic, htakes.head, htakes.result.trans hres, htakes.units, hnote,
      by rw [hafter], by rw [hafter], by rw [hafter], hkept⟩

end Sys2Proof.Machine
end

section
/-! Scaler filter sets (R320, R395): a command on a set names why it is refused or is kept until the next boundary, which puts the set in place
or takes it away and records that in the map of loaded sets. -/
namespace Sys2Proof.Machine
open Sys2Proof

/-! ### Bits of a register -/

theorem testBit_add_two_pow {n i : Nat} (h : n.testBit i = false) (j : Nat) :
    (n + 2 ^ i).testBit j = if i = j then true else n.testBit j := by
  induction i generalizing n j with
  | zero =>
    have heven : n % 2 = 0 := by simpa [Nat.testBit_zero] using h
    cases j with
    | zero => simp [Nat.testBit_zero]; omega
    | succ j => rw [Nat.testBit_add_one, Nat.testBit_add_one, Nat.pow_zero, show (n + 1) / 2 = n / 2 by omega, if_neg (by omega)]
  | succ i ih =>
    have hhalf : (n / 2).testBit i = false := by rwa [← Nat.testBit_add_one]
    cases j with
    | zero => rw [Nat.testBit_zero, Nat.testBit_zero, Nat.pow_succ, Nat.add_mul_mod_self_right, if_neg (by omega)]
    | succ j =>
      rw [Nat.testBit_add_one, Nat.testBit_add_one n, Nat.pow_succ, Nat.add_mul_div_right _ _ Nat.two_pos, ih hhalf]
      simp

theorem testBit_sub_two_pow {n i : Nat} (h : n.testBit i = true) (j : Nat) :
    (n - 2 ^ i).testBit j = if i = j then false else n.testBit j := by
  have hflip (l : Nat) : (n ^^^ 2 ^ i).testBit l = if i = l then false else n.testBit l := by
    rw [Nat.testBit_xor, Nat.testBit_two_pow]
    by_cases hl : i = l
    · subst hl
      simp [h]
    · simp [hl]
  have hback : (n ^^^ 2 ^ i) + 2 ^ i = n := by
    refine Nat.eq_of_testBit_eq fun l => ?_
    rw [testBit_add_two_pow (by rw [hflip, if_pos rfl]), hflip]
    by_cases hl : i = l
    · rw [if_pos hl, ← hl, h]
    · rw [if_neg hl, if_neg hl]
  rw [show n - 2 ^ i = n ^^^ 2 ^ i by omega, hflip]

theorem testBit_setBitAt (n i j : Nat) : (setBitAt n i).testBit j = if i = j then true else n.testBit j := by
  unfold setBitAt
  split
  · next h =>
    by_cases hj : i = j
    · rw [if_pos hj, ← hj, h]
    · rw [if_neg hj]
  · next h => exact testBit_add_two_pow (by simpa using h) j

theorem testBit_clearBitAt (n i j : Nat) : (clearBitAt n i).testBit j = if i = j then false else n.testBit j := by
  unfold clearBitAt
  split
  · next h => exact testBit_sub_two_pow h j
  · next h =>
    by_cases hj : i = j
    · rw [if_pos hj, ← hj]
      simpa using h
    · rw [if_neg hj]

/-! ### Loads and unloads -/

variable {s : State}

theorem exec_filterSetLoad (h : controlled s = true) : exec .filterSetLoad s = .next (loadFilter s) := whenControlled_of_controlled h loadFilter

theorem exec_filterSetUnload (h : controlled s = true) : exec .filterSetUnload s = .next (unloadFilter s) :=
  whenControlled_of_controlled h unloadFilter

/-- A load (`some` coefficients) or unload (`none`) of a set waits for the next boundary. -/
def askFilter (s : State) (set : Nat) (new : Option (List Int)) : State :=
  setFilterStatus { s with media := { s.media with filterNext := some (set, new), filterAsked := counterOf s } } stPending

section
variable (hnext : s.media.filterNext = none)
include hnext

theorem loadFilter_of_badSet (h : getReg s 0x6100 0x06 = 0 ∨ 7 < getReg s 0x6100 0x06) : loadFilter s = setFilterStatus s stBadDescriptor := by
  simp [loadFilter, hnext, h]

theorem unloadFilter_of_badSet (h : getReg s 0x6100 0x06 = 0 ∨ 7 < getReg s 0x6100 0x06) :
    unloadFilter s = setFilterStatus s stBadDescriptor := by
  simp [unloadFilter, hnext, h]

variable (hlo : 1 ≤ getReg s 0x6100 0x06) (hhi : getReg s 0x6100 0x06 ≤ 7)
include hlo hhi

/-- R320: the status of a load of one of the sets 1 to 7, or the load itself. -/
theorem loadFilter_of_set : loadFilter s =
    if badRange s (getReg s 0x6100 0x07) 1024 then setFilterStatus s stBadAddress
    else if !filterOk (filterCoefs (s.mem.read (getReg s 0x6100 0x07) 1024)) then setFilterStatus s stBadTable
    else askFilter s (getReg s 0x6100 0x06) (some (filterCoefs (s.mem.read (getReg s 0x6100 0x07) 1024))) := by
  unfold loadFilter
  dsimp only
  rw [hnext, if_neg (by simp), if_neg (by omega)]
  rfl

/-- R395: the status of an unload of one of the sets 1 to 7, or the unload itself. -/
theorem unloadFilter_of_set : unloadFilter s =
    if filterUsed s (getReg s 0x6100 0x06) then setFilterStatus s stSlotInUse
    else if (nget s.media.filters (getReg s 0x6100 0x06)).isNone then setFilterStatus s stEmptySlot
    else askFilter s (getReg s 0x6100 0x06) none := by
  unfold unloadFilter
  dsimp only
  rw [hnext, if_neg (by simp), if_neg (by omega)]
  rfl

end

/-! ### The switch at a boundary -/

theorem filterDue_iff : filterDue s = true ↔
    s.media.filterNext ≠ none ∧ s.clk.now % period s = 0 ∧ s.media.filterAsked < counterOf s := by
  simp [filterDue, boundaryAfter, atBoundary, Option.isSome_iff_ne_none]

theorem exec_filterSetSwitch_of_due (h : controlled s = true) (hd : filterDue s = true) (set : Nat) :
    exec (.filterSetSwitch set) s = .next (switchFilter s set) :=
  whenControlled_guarded h (c := fun s => filterDue s = true) hd (switchFilter · set)

theorem exec_filterSetSwitch_of_not_due (h : controlled s = true) (hd : ¬ filterDue s = true) (set : Nat) :
    exec (.filterSetSwitch set) s = .next s :=
  whenControlled_unguarded h (c := fun s => filterDue s = true) hd (switchFilter · set)

/-- The sets of the scalers once set `set` holds the coefficients `new`, or none. -/
def putFilter (m : NMap (List Int)) (set : Nat) : Option (List Int) → NMap (List Int)
  | some cs => nset m set cs
  | none => ndel m set

theorem nget_putFilter (m : NMap (List Int)) (set : Nat) (new : Option (List Int)) (x : Nat) :
    nget (putFilter m set new) x = if set = x then new else nget m x := by
  cases new with
  | some cs => exact nget_nset ..
  | none => exact nget_ndel ..

/-- The map of loaded sets with the bit of `set` as `on` says. -/
def markLoaded (bits set : Nat) (on : Bool) : Nat := if on then setBitAt bits set else clearBitAt bits set

theorem testBit_markLoaded (bits set : Nat) (on : Bool) (x : Nat) :
    (markLoaded bits set on).testBit x = if set = x then on else bits.testBit x := by
  cases on with
  | true => exact testBit_setBitAt ..
  | false => exact testBit_clearBitAt ..

theorem switchFilter_of_pending {set : Nat} {new : Option (List Int)} (h : s.media.filterNext = some (set, new)) :
    ∃ m : Media, m.filters = putFilter s.media.filters set new ∧ m.filterNext = none ∧
      switchFilter s set =
        setReg (setReg { s with media := m } 0x6100 0x05 (markLoaded (getReg s 0x6100 0x05) set new.isSome)) 0x6100 0x09 stOk := by
  unfold switchFilter
  rw [h]
  dsimp only
  rw [if_neg (by simp)]
  exact ⟨_, by cases new <;> rfl, rfl, rfl⟩

/-! ### The obligation -/

/-- Settles O46: each command on a filter set answers its status or waits, and the first boundary after puts the set in place. -/
theorem filterSets : Obligations.FilterSets := by
  unfold Obligations.FilterSets
  refine ⟨fun s hs hnext => ?commands, fun s set new hs _ hnext hnow hasked => ?switch, fun s set hs hearly => ?early⟩
  case commands =>
    dsimp only
    refine ⟨fun hset => ⟨⟨_, exec_filterSetLoad hs, loadFilter_of_badSet hnext hset⟩, _, exec_filterSetUnload hs,
        unloadFilter_of_badSet hnext hset⟩,
      fun hlo hhi hbad => ⟨_, exec_filterSetLoad hs, ?address⟩, fun hlo hhi hrange hok => ⟨_, exec_filterSetLoad hs, ?table⟩,
      fun hlo hhi hrange hok => ?load, fun hlo hhi hused => ⟨_, exec_filterSetUnload hs, ?used⟩,
      fun hlo hhi hidle hempty => ⟨_, exec_filterSetUnload hs, ?empty⟩, fun hlo hhi hidle hloaded => ?unload⟩
    case address => rw [loadFilter_of_set hnext hlo hhi, if_pos hbad, setFilterStatus]
    case table => rw [loadFilter_of_set hnext hlo hhi, if_neg (by simp [hrange]), if_pos (by simp [hok]), setFilterStatus]
    case load =>
      rw [exec_filterSetLoad hs, loadFilter_of_set hnext hlo hhi, if_neg (by simp [hrange]), if_neg (by simp [hok])]
      rfl
    case used => rw [unloadFilter_of_set hnext hlo hhi, if_pos hused, setFilterStatus]
    case empty => rw [unloadFilter_of_set hnext hlo hhi, if_neg (by simp [hidle]), if_pos (by simp [hempty]), setFilterStatus]
    case unload =>
      have hsome : ¬ (nget s.media.filters (getReg s 0x6100 0x06)).isNone = true := by simpa [Option.isSome_iff_ne_none] using hloaded
      rw [exec_filterSetUnload hs, unloadFilter_of_set hnext hlo hhi, if_neg (by simp [hidle]), if_neg hsome]
      rfl
  case switch =>
    have hdue : filterDue s = true := filterDue_iff.mpr ⟨by simp [hnext], hnow, hasked⟩
    obtain ⟨m, hfilters, hdone, he⟩ := switchFilter_of_pending hnext
    have hbits : getReg (switchFilter s set) 0x6100 0x05 = markLoaded (getReg s 0x6100 0x05) set new.isSome := by
      rw [he, getReg_setReg_sub _ _ _ (by decide) (by decide) (by decide), getReg_setReg_same]
    have hmedia : (switchFilter s set).media = m := by rw [he]; rfl
    refine ⟨_, exec_filterSetSwitch_of_due hs hdue set, ?_, fun x hx => ?_, ?_, fun x hx => ?_, ?_, ?_, ?_, (switchFilter_keeps s set).mono rfl⟩
    · rw [hmedia, hfilters, nget_putFilter, if_pos rfl]
    · rw [hmedia, hfilters, nget_putFilter, if_neg hx.symm]
    · rw [hbits, testBit_markLoaded, if_pos rfl]
    · rw [hbits, testBit_markLoaded, if_neg hx.symm]
    · rw [he, getReg_setReg_same]
    · rw [hmedia, hdone]
    · rw [he]
      exact ((RegsBut.of_dict _ rfl).setReg (by decide) (by simp)).setReg (by decide) (by simp)
  case early =>
    refine exec_filterSetSwitch_of_not_due hs (fun hdue => ?_) set
    obtain ⟨hpending, hnow, hasked⟩ := filterDue_iff.mp hdue
    rcases hearly with h | h | h
    · exact hpending h
    · exact h hnow
    · omega

end Sys2Proof.Machine
end

section
/-! Scaling to the size a plane has (R319): each output sample lies on a source sample at phase 0, where set 0 is one tap of 1.0. -/
namespace Sys2Proof.Machine
open Sys2Proof

/-! ### Positions and taps -/

theorem axisPos_same {n : Nat} (hn : 0 < n) (k : Nat) : axisPos n n k = ((k : Int), 0) := by
  have hpos : ((k * 65536 + 65536 / 2 : Nat) : Int) - 32768 = k * 65536 := by omega
  unfold axisPos
  rw [Nat.mul_div_cancel_left _ hn]
  dsimp only
  rw [hpos]
  refine Prod.ext ?_ ?_
  · exact Int.mul_ediv_cancel _ (by decide)
  · dsimp only
    omega

/-- R320: phase 0 of set 0. -/
theorem filterZero_phaseZero : ∀ t < 8, filterZero.getD (0 * 8 + t) 0 = if t = 3 then 1024 else 0 := by decide

theorem tapSum_filterZero (base : Int) (f : Int → Int) : tapSum filterZero base 0 f = 1024 * f base := by
  rw [tapSum, show List.range 8 = [0, 1, 2, 3, 4, 5, 6, 7] from rfl]
  simp (disch := decide) only [List.foldl_cons, List.foldl_nil, filterZero_phaseZero]
  rw [show base - 3 + (3 : Nat) = base by omega]
  simp

/-! ### Samples in place -/

theorem clampCoord_of_lt {x n : Nat} (h : x < n) : clampCoord x n = x := by
  unfold clampCoord clampInt
  rw [if_neg (by omega), if_neg (by omega), Int.toNat_natCast]

theorem Plane.get_of_lt {p : Plane} {x y : Nat} (hx : x < p.w) (hy : y < p.h) : p.get x y = p.px.toList.getD (y * p.w + x) 0 := by
  rw [Plane.get, clampCoord_of_lt hx, clampCoord_of_lt hy, Array.getD_eq_getD_getElem?, List.getD_eq_getElem?_getD, Array.getElem?_toList]

/-- Rows one after another are the numbers one after another. -/
theorem flatMap_rows {α : Type} (f : Nat → α) (h w : Nat) :
    ((List.range h).flatMap fun m => (List.range w).map fun k => f (m * w + k)) = (List.range (h * w)).map f := by
  induction h with
  | zero => simp
  | succ h ih => simp [List.range_succ, List.flatMap_append, ih, Nat.succ_mul, List.range_add]

theorem map_getD_range {α : Type} (l : List α) (d : α) : (List.range l.length).map (l.getD · d) = l := by
  refine List.ext_getElem (by simp) fun i h1 h2 => ?_
  simp [List.getElem?_eq_getElem h2]

/-! ### A plane scaled to its own size -/

/-- What two passes of one tap of 1.0 leave of a sample is the sample again. -/
theorem rounded_sample {v bd : Nat} (h : v < 2 ^ bd) :
    (clampInt ((1024 * (1024 * (v : Int)) + 2 ^ (20 + bd - bd - 1)) / 2 ^ (20 + bd - bd)) 0 (2 ^ bd - 1)).toNat = v := by
  have htop : (v : Int) < 2 ^ bd := by exact_mod_cast h
  have hround : (1024 * (1024 * (v : Int)) + 2 ^ 19) / 2 ^ 20 = v := by omega
  rw [Nat.add_sub_cancel, show 20 - 1 = 19 from rfl, hround, clampInt, if_neg (by omega), if_neg (by omega), Int.toNat_natCast]

theorem scalePlane_filterZero {p : Plane} {bd : Nat} (hw : 0 < p.w) (hh : 0 < p.h) (hsize : p.px.size = p.w * p.h)
    (hbound : ∀ v, v ∈ p.px.toList → v < 2 ^ bd) : scalePlane filterZero p p.w p.h bd bd = p.px.toList := by
  have hlen : p.h * p.w = p.px.toList.length := by rw [Array.length_toList, hsize, Nat.mul_comm]
  have hrow {m k : Nat} (hm : m < p.h) (hk : k < p.w) : m * p.w + k < p.px.toList.length := hlen ▸ rowMajor_lt hm hk
  calc scalePlane filterZero p p.w p.h bd bd
    _ = (List.range p.h).flatMap fun m => (List.range p.w).map fun k => p.px.toList.getD (m * p.w + k) 0 := by
      unfold scalePlane
      simp only [axisPos_same hw, axisPos_same hh, tapSum_filterZero]
      rw [List.flatMap_def, List.flatMap_def]
      refine congrArg List.flatten (List.map_congr_left fun m hm => List.map_congr_left fun k hk => ?_)
      rw [List.mem_range] at hm hk
      have hlt : p.px.toList.getD (m * p.w + k) 0 < 2 ^ bd := by
        rw [List.getD_eq_getElem?_getD, List.getElem?_eq_getElem (hrow hm hk), Option.getD_some]
        exact hbound _ (List.getElem_mem _)
      rw [clampCoord_of_lt hm]
      simp only [Array.getD_eq_getD_getElem?, List.getElem?_toArray, List.getElem?_map, List.getElem?_range hm, List.getElem?_range hk,
        Option.map_some, Option.getD_some, Plane.get_of_lt hk hm]
      exact rounded_sample hlt
    _ = (List.range (p.h * p.w)).map (p.px.toList.getD · 0) := flatMap_rows (p.px.toList.getD · 0) p.h p.w
    _ = p.px.toList := by rw [hlen, map_getD_range]

end Sys2Proof.Machine
end

section
/-! The scaler's pictures (R318, R322): the scaled picture stands in the input region of its work, and only the signals of its vectors (R307) may
follow. -/
namespace Sys2Proof.Machine
open Sys2Proof

variable {s : State} {u k j : Nat} {w : Work} {bs : List Byte}

/-! ### Vectors delivered (R307) -/

theorem SignalledWork.signalMotion {v : Work} (h : SignalledWork s v.id w) (p : Pkg) : SignalledWork (signalMotion s v p) v.id w := by
  unfold Machine.signalMotion
  split
  · exact h.deliver ..
  · exact h

/-- Delivering a frame's vectors changes nothing of its work but the note of it and its signals. -/
theorem findWork_deliverVectors (hw : findWork s (.frame k j) = some w) :
    ∃ b d, findWork (deliverVectors s k j) (.frame k j) = some { w with searched := b, delivered := d } := by
  have hsame : ∃ b d, findWork s (.frame k j) = some { w with searched := b, delivered := d } := ⟨w.searched, w.delivered, hw⟩
  have hid : w.id = .frame k j := id_of_findWork hw
  unfold deliverVectors
  extract_lets busy
  rw [hw]
  dsimp only
  cases (pkgOf s w.slot).bind fun p => (classOf p w.cls).map fun c => (p, c) with
  | none => exact hsame
  | some pc =>
    obtain ⟨p, c⟩ := pc
    dsimp only
    split
    · exact hsame
    · split
      · cases codedVecs s k j with
        | none => exact hsame
        | some vs =>
          dsimp only
          have hformed : SignalledWork (formVideo s k j w p c vs) w.id w :=
            (SignalledWork.of_findWork (hid ▸ hw)).congr (formVideo_keeps s k j w p c vs .works (by decide))
          obtain ⟨d, hd⟩ := hformed.signalMotion p
          rw [hd, Option.getD_some, ← hid]
          exact ⟨true, d, findWork_putWork hd rfl⟩
      · have hcleared : findWork (if p.kind = 3 ∧ phaseOf s k j = 0 then clearPrevious s k j else s) (.frame k j) = some w := by
          split
          · exact (findWork_congr (clearPrevious_keeps s k j .works (by decide)) _).trans hw
          · exact hw
        exact ⟨true, w.delivered, findWork_putWork hcleared hid⟩

/-! ### The scaled picture -/

theorem exec_scalerFrame (h : inService s = true) (u : Nat) (id : WorkId) : exec (.scalerFrame u id) s = .next (scaleFrame s u id) :=
  whenService_of_inService h (scaleFrame · u id)

theorem scaleFrame_of_idle (hw : findWork s (.frame k j) = some w) (h : w.raw = none ∨ scalerOk s u k = false) :
    scaleFrame s u (.frame k j) = s := by
  unfold scaleFrame
  rw [hw]
  exact if_pos (by simpa using h)

/-- The picture `bs` as the scaler of context `k` makes it for work `w`. -/
def scaledInput (s : State) (k : Nat) (w : Work) (bs : List Byte) : List Byte :=
  let depth := numAt (scalerBlob s k) 15 1
  scalePicture s k (filterFor s (numAt (scalerBlob s k) 16 1) w.issued) (Config.monoChroma depth % 2 ^ depth) bs

theorem scaleFrame_of_ready (hw : findWork s (.frame k j) = some w) (hraw : w.raw.isSome = true) (hok : scalerOk s u k = true)
    (hin : rawInput s k j w = some bs) : scaleFrame s u (.frame k j) = putScaled s k j w (scaledInput s k w bs) := by
  unfold scaleFrame
  rw [hw]
  dsimp only
  rw [if_neg (by simp [Option.isSome_iff_ne_none.mp hraw, hok]), hin]
  rfl

/-- The bytes `out` in the input regions of a work, in order, each filled with zeros. -/
def inputMemory (m : Memory) (w : Work) (out : List Byte) : Memory :=
  ((w.regions.filter fun r => r.source == 2).foldl
    (fun a r => (Memory.write a.1 r.base (padTo r.len (a.2.take r.len)), a.2.drop r.len)) (m, out)).1

/-- Work `w` with its scaled picture `out`. -/
def takeScaled (s : State) (w : Work) (out : List Byte) : State :=
  putWork { s with mem := inputMemory s.mem w out } { w with raw := none, inLen := out.length }

theorem putScaled_eq (s : State) (k j : Nat) (w : Work) (out : List Byte) : putScaled s k j w out = deliverVectors (takeScaled s w out) k j := rfl

theorem findWork_takeScaled (hw : findWork s (.frame k j) = some w) (out : List Byte) :
    findWork (takeScaled s w out) (.frame k j) = some { w with raw := none, inLen := out.length } :=
  findWork_putWork (s := { s with mem := inputMemory s.mem w out }) hw (id_of_findWork (w := w) hw)

theorem takeScaled_keeps (s : State) (w : Work) (out : List Byte) : Kept [.mem, .works] s (takeScaled s w out) :=
  (putWork_keeps { s with mem := inputMemory s.mem w out } _).by rfl ((Kept.mem s _).mono rfl)

theorem putScaled_of_searched (hw : findWork s (.frame k j) = some w) (h : w.searched = true) (out : List Byte) :
    putScaled s k j w out = takeScaled s w out := deliverVectors_of_searched (findWork_takeScaled hw out) h

theorem findWork_putScaled (hw : findWork s (.frame k j) = some w) (out : List Byte) :
    ∃ v, findWork (putScaled s k j w out) (.frame k j) = some v ∧ v.raw = none ∧ v.inLen = out.length := by
  obtain ⟨b, d, h⟩ := findWork_deliverVectors (findWork_takeScaled hw out)
  exact ⟨_, h, rfl, rfl⟩

/-! ### One input region -/

theorem length_padTo {n : Nat} {bs : List Byte} (h : bs.length ≤ n) : (padTo n bs).length = n := by
  rw [padTo, List.length_append, List.length_replicate]
  omega

section
variable {r : Region} (hr : w.regions.filter (fun r => r.source == 2) = [r]) (out : List Byte)
include hr

theorem inputMemory_of_one (m : Memory) : inputMemory m w out = m.write r.base (padTo r.len (out.take r.len)) := by
  rw [inputMemory, hr]
  rfl

theorem read_inputMemory {m : Memory} (hm : m.wf = true) : (inputMemory m w out).read r.base r.len = padTo r.len (out.take r.len) := by
  have h := Memory.read_write hm r.base (padTo r.len (out.take r.len))
  rwa [length_padTo (List.length_take_le ..), ← inputMemory_of_one hr] at h

theorem bytesBut_inputMemory (m : Memory) : BytesBut r.base r.len m (inputMemory m w out) := by
  intro x hx
  rw [inputMemory_of_one hr]
  exact Memory.get_write_out _ _ _ (by rwa [length_padTo (List.length_take_le ..)])

end

end Sys2Proof.Machine
end

section
/-! The tile jobs of the block-codec cores (R298 to R304, R310, R316, R321): the rows of a tile take quantisers within the context's limits, the
last tile ends the picture, and an access unit moves its decoder on. -/
namespace Sys2Proof.Machine
open Sys2Proof

variable {s t u : State} {core k j tile : Nat} {w : Work}

theorem findWork_putWork_ne (s : State) {v : Work} {id : WorkId} (h : v.id ≠ id) : findWork (putWork s v) id = findWork s id := by
  rw [findWork, putWork, findWork]
  induction s.works with
  | nil => rfl
  | cons x r ih =>
    rw [List.map_cons, List.find?_cons, List.find?_cons, ih]
    by_cases hx : x.id = v.id
    · rw [if_pos (by simpa using hx), beq_false_of_ne h, hx, beq_false_of_ne h]
    · rw [if_neg (by simpa using hx)]

/-! ### The job that a core takes (R316) -/

theorem exec_codecTileJob (h : inService s = true) (core tile : Nat) (id : WorkId) :
    exec (.codecTileJob core id tile) s = .next (tileJob s core id tile) := whenService_of_inService h (tileJob · core id tile)

/-- Tile `tile` of frame j is what a live core runs next. -/
def TakesTile (s : State) (core k j tile : Nat) (w : Work) : Prop :=
  unitLive s (serviceCores w.slot) core = true ∧ (firstJob (readyJobs s (serviceCores w.slot) core)).map (·.2) = some (k, j, tile)

theorem tileJob_of_not_taken (hw : findWork s (.frame k j) = some w) (h : ¬ TakesTile s core k j tile w) :
    tileJob s core (.frame k j) tile = s := by
  unfold tileJob
  rw [hw]
  have hnot : ¬ unitLive s (serviceCores w.slot) core = true ∨
      ¬ (firstJob (readyJobs s (serviceCores w.slot) core)).map (·.2) = some (k, j, tile) := Classical.not_and_iff_not_or_not.mp h
  exact if_pos (.inr (hnot.imp_left fun hdead => by rw [Bool.not_eq_true] at hdead; rw [hdead]; rfl))

theorem tileJob_of_taken (hw : findWork s (.frame k j) = some w) (hslot : isService w.slot = true) (h : TakesTile s core k j tile w) :
    tileJob s core (.frame k j) tile =
      if serviceCores w.slot = ckEncode then encodeTile s core k j tile w else decodeTile s core k j tile w := by
  obtain ⟨hlive, hfirst⟩ := h
  unfold tileJob
  rw [hw]
  exact if_neg (by simp [hslot, hlive, hfirst])

/-! ### The rows of a tile (R302, R310) -/

theorem length_qs_codeRows (e : TileEnv) (n b : Nat) (acc : TileOut) : (codeRows e n b acc).qs.length = acc.qs.length + n := by
  induction n generalizing b acc with
  | zero => rfl
  | succ n ih =>
    rw [codeRows]
    dsimp only
    rw [ih, List.length_append, List.length_singleton]
    omega

theorem qs_codeRows_bounds {e : TileEnv} {lo hi : Nat} (hlo : e.qmin = lo) (hhi : e.qmax = hi) (h : lo ≤ hi) (n b : Nat) (acc : TileOut)
    (hacc : ∀ q ∈ acc.qs, lo ≤ q ∧ q ≤ hi) : ∀ q ∈ (codeRows e n b acc).qs, lo ≤ q ∧ q ≤ hi := by
  induction n generalizing b acc with
  | zero => exact hacc
  | succ n ih =>
    rw [codeRows]
    refine ih _ _ fun q hq => ?_
    rcases List.mem_append.mp hq with hq | hq
    · exact hacc q hq
    · rw [List.mem_singleton.mp hq, hlo, hhi]
      exact rcChoose_bounds _ _ _ _ _ _ _ _ _ h

/-! ### A tile of an encode -/

/-- R295, R310: under latency-aware control the picture's first tile reads the fill of the flows. -/
def readBuffer (s : State) (k : Nat) (w : Work) : Work :=
  if ctxReg s k 0x14 != 0 && w.buffer.isNone then { w with buffer := some (queuedBits s k : Nat) } else w

theorem readBuffer_eq (s : State) (k : Nat) (w : Work) : ∃ b, readBuffer s k w = { w with buffer := b } := by
  unfold readBuffer
  split
  · exact ⟨_, rfl⟩
  · exact ⟨w.buffer, rfl⟩

/-- R302: what the rows of a tile leave. -/
def codedTile (s : State) (k j tile : Nat) (w : Work) : TileOut :=
  let e := tileEnvOf s k j tile (readBuffer s k w)
  codeRows e e.rows 0 ⟨tile, [], [], [], []⟩

theorem length_qs_codedTile (s : State) (k j tile : Nat) (w : Work) :
    (codedTile s k j tile w).qs.length = (tileEnvOf s k j tile (readBuffer s k w)).rows := by
  rw [codedTile, length_qs_codeRows]
  exact Nat.zero_add _

theorem qs_codedTile_bounds (h : qiMin s k ≤ qiMax s k) : ∀ q ∈ (codedTile s k j tile w).qs, qiMin s k ≤ q ∧ q ≤ qiMax s k := by
  refine qs_codeRows_bounds ?_ ?_ h _ _ _ (fun q hq => nomatch hq)
  · rfl
  · rfl

/-- R302: the work with its tile coded. -/
def withTile (s : State) (core k j tile : Nat) (w : Work) : Work :=
  let o := codedTile s k j tile w
  { readBuffer s k w with
    started := true, nonStrict := w.nonStrict || ctxReg s k 0x14 != 0 || ctxReg s k 0x23 != 0, tilesOut := insertTile o w.tilesOut
    segs := w.segs ++ [⟨tile, ecOk, 0, o.bytes.length, false, core⟩] }

theorem id_withTile (s : State) (core k j tile : Nat) (w : Work) : (withTile s core k j tile w).id = w.id := by
  obtain ⟨b, hb⟩ := readBuffer_eq s k w
  rw [withTile, hb]

theorem encodeTile_eq (s : State) (core k j tile : Nat) (w : Work) : encodeTile s core k j tile w =
    if w.segs.length + 1 = w.aim then endPicture s k j (withTile s core k j tile w) else putWork s (withTile s core k j tile w) := by
  obtain ⟨b, hb⟩ := readBuffer_eq s k w
  have hw : encodeTile s core k j tile w =
      let v := { readBuffer s k w with
        started := true, nonStrict := (readBuffer s k w).nonStrict || ctxReg s k 0x14 != 0 || ctxReg s k 0x23 != 0
        tilesOut := insertTile (codedTile s k j tile w) (readBuffer s k w).tilesOut
        segs := (readBuffer s k w).segs ++ [⟨tile, ecOk, 0, (codedTile s k j tile w).bytes.length, false, core⟩] }
      if v.segs.length = v.aim then endPicture s k j v else putWork s v := rfl
  rw [hw, withTile, hb]
  dsimp only
  rw [List.length_append, List.length_singleton]

/-! ### The end of a picture (R312) -/

/-- The output of a service goes to memory, and its work notes it or the failure. -/
theorem placeOutput_eq (s : State) (w : Work) (out : List Byte) :
    ∃ m r o n v, placeOutput s w out = ({ s with mem := m }, { w with result := r, output := o, outLen := n, valid := v }) := by
  unfold placeOutput
  split
  · split
    · exact ⟨s.mem, _, w.output, w.outLen, w.valid, rfl⟩
    · exact ⟨_, w.result, _, _, _, rfl⟩
  · exact ⟨s.mem, w.result, w.output, w.outLen, w.valid, rfl⟩

/-- Context state `c` without the vectors of picture j and the requests on it. -/
def dropVectors (c : Ctx) (j : Nat) : Ctx :=
  { c with vecs := ndel c.vecs j, vecRefs := ndel c.vecRefs j, requests := c.requests.filter fun r => r.1 != j }

theorem endPicture_eq (s : State) (k j : Nat) (v : Work) : ∃ out c, endPicture s k j v =
    putWork (putCtx (placeOutput s { v with tilesOut := [] } out).1 k (dropVectors c j)) (placeOutput s { v with tilesOut := [] } out).2 :=
  ⟨_, _, rfl⟩

/-- The last tile leaves the picture's work without its tiles, and the encoder without the picture's vectors. -/
theorem endPicture_ends (hw : findWork s (.frame k j) = some w) {v : Work} (hid : v.id = w.id) :
    (∃ x, findWork (endPicture s k j v) (.frame k j) = some x ∧ x.segs = v.segs ∧ x.tilesOut = []) ∧
      nget (ctxOf (endPicture s k j v) k).vecs j = none ∧ ∀ l, l ≠ k → ctxOf (endPicture s k j v) l = ctxOf s l := by
  obtain ⟨out, c, he⟩ := endPicture_eq s k j v
  obtain ⟨m, r, o, n, y, hplace⟩ := placeOutput_eq s { v with tilesOut := [] } out
  rw [he, hplace]
  refine ⟨⟨_, findWork_putWork (s := putCtx { s with mem := m } k _) hw (hid.trans (id_of_findWork hw)), rfl, rfl⟩, ?_, fun l hl => ?_⟩
  · rw [ctxOf_congr (putWork_ctxs ..), ctxOf_putCtx_same]
    exact nget_ndel_same ..
  · rw [ctxOf_congr (putWork_ctxs ..), ctxOf_putCtx_ne _ _ hl.symm]
    rfl

/-! ### Pictures output (R321) -/

/-- A decoder's context after pictures have been output: its place in output order and the newest picture apart, it is as it was. -/
def OutputsPictures (k : Nat) (s t : State) : Prop :=
  (∃ q o, ctxOf t k = { ctxOf s k with outSeq := q, lastOut := o }) ∧ ∀ l, l ≠ k → ctxOf t l = ctxOf s l

theorem OutputsPictures.of_ctxs (h : t.ctxs = s.ctxs) : OutputsPictures k s t :=
  ⟨⟨(ctxOf s k).outSeq, (ctxOf s k).lastOut, ctxOf_congr h k⟩, fun l _ => ctxOf_congr h l⟩

theorem OutputsPictures.trans (h : OutputsPictures k s t) (h' : OutputsPictures k t u) : OutputsPictures k s u := by
  obtain ⟨⟨q, o, hk⟩, hne⟩ := h
  obtain ⟨⟨q', o', hk'⟩, hne'⟩ := h'
  exact ⟨⟨q', o', by rw [hk', hk]⟩, fun l hl => (hne' l hl).trans (hne l hl)⟩

theorem OutputsPictures.putCtx (s : State) (k q : Nat) (o : List Byte) (w : Work) :
    OutputsPictures k s (putWork (putCtx s k { ctxOf s k with outSeq := q, lastOut := o }) w) :=
  ⟨⟨q, o, (ctxOf_congr (putWork_ctxs ..) k).trans (ctxOf_putCtx_same ..)⟩,
    fun l hl => (ctxOf_congr (putWork_ctxs ..) l).trans (ctxOf_putCtx_ne _ _ hl.symm)⟩

theorem outputsPictures_outputPicture (k : Nat) (s : State) (i : Nat) : OutputsPictures k s (outputPicture k s i) := by
  unfold outputPicture
  split
  · exact .of_ctxs rfl
  · split
    · exact .of_ctxs rfl
    · exact .putCtx ..

theorem outputsPictures_foldl (k : Nat) (outs : List Nat) (s : State) : OutputsPictures k s (outs.foldl (outputPicture k) s) := by
  induction outs generalizing s with
  | nil => exact .of_ctxs rfl
  | cons i r ih => exact (outputsPictures_outputPicture k s i).trans (ih _)

theorem outputsPictures_showPicture (s : State) (k : Nat) (w : Work) (f : Config.AuFacts) (pic : List Byte) :
    OutputsPictures k s (showPicture s k w f pic) := by
  unfold showPicture
  extract_lets note
  obtain ⟨m, r, o, n, y, hplace⟩ := placeOutput_eq s { w with note, concealed := w.concealed || f.bad != [] } pic
  rw [hplace]
  dsimp only
  split
  · exact .putCtx { s with mem := m } ..
  · exact .of_ctxs rfl

/-- A work that has ended is not output. -/
theorem findWork_outputPicture_ended {id : WorkId} (hw : findWork s id = some w) (hres : w.result.isSome = true) (k i : Nat) :
    findWork (outputPicture k s i) id = some w := by
  unfold outputPicture
  split
  · exact hw
  · next v hv =>
    split
    · exact hw
    · next hopen =>
      have hne : v.id ≠ id := by
        rintro rfl
        rw [id_of_findWork hv, hv] at hw
        exact hopen (.inr (.inl (Option.some.inj hw ▸ hres)))
      refine (findWork_putWork_ne _ ?_).trans hw
      exact hne

theorem findWork_foldl_outputPicture_ended {id : WorkId} (k : Nat) (outs : List Nat) (hw : findWork s id = some w)
    (hres : w.result.isSome = true) : findWork (outs.foldl (outputPicture k) s) id = some w := by
  induction outs generalizing s with
  | nil => exact hw
  | cons i r ih => exact ih (findWork_outputPicture_ended hw hres k i)

/-! ### An access unit decoded (R299, R321) -/

theorem flushDecoder_eq (s : State) (k : Nat) : ∃ outs : List Nat, flushDecoder s k = outs.foldl (outputPicture k) s := by
  unfold flushDecoder
  extract_lets waiting
  split
  · exact ⟨_, rfl⟩
  · exact ⟨[], rfl⟩

/-- What a decoder keeps of an access unit with the facts `f` whose bytes are counted as `n`, its state then `codec`. -/
def decoderAfter (c : Ctx) (f : Config.AuFacts) (n : Nat) (codec : List Byte) : Ctx :=
  { c with codec, mute := (muteAfter c f).2, noParams := (muteAfter c f).1, emitted := c.emitted + n }

/-- R299, R321: an access unit ends with a status, or with its picture. -/
def endUnit (s : State) (k : Nat) (w : Work) (f : Config.AuFacts) (pic : List Byte) : Option Nat → State
  | some st => putWork s { w with result := some st }
  | none => showPicture s k w f pic

theorem decodeUnit_eq (s : State) (k j : Nat) (w : Work) :
    ∃ codec pic, ∃ outs : List Nat, decodeUnit s k j w = outs.foldl (outputPicture k)
      (endUnit (putCtx s k (decoderAfter (ctxOf s k) (unitFacts s k j w) w.inLen codec)) k w (unitFacts s k j w) pic
        (muteAfter (ctxOf s k) (unitFacts s k j w)).2) := by
  obtain ⟨codec, pic, he⟩ : ∃ codec pic, decodeUnit s k j w = flushDecoder ((unitFacts s k j w).outputs.foldl (outputPicture k)
      (endUnit (putCtx s k (decoderAfter (ctxOf s k) (unitFacts s k j w) w.inLen codec)) k w (unitFacts s k j w) pic
        (muteAfter (ctxOf s k) (unitFacts s k j w)).2)) k := ⟨_, _, rfl⟩
  obtain ⟨outs, hflush⟩ := flushDecoder_eq ((unitFacts s k j w).outputs.foldl (outputPicture k)
    (endUnit (putCtx s k (decoderAfter (ctxOf s k) (unitFacts s k j w) w.inLen codec)) k w (unitFacts s k j w) pic
      (muteAfter (ctxOf s k) (unitFacts s k j w)).2)) k
  exact ⟨codec, pic, (unitFacts s k j w).outputs ++ outs, by rw [he, hflush, List.foldl_append]⟩

theorem outputsPictures_endUnit (s : State) (k : Nat) (w : Work) (f : Config.AuFacts) (pic : List Byte) (mute : Option Nat) :
    OutputsPictures k s (endUnit s k w f pic mute) := by
  cases mute with
  | some st => exact .of_ctxs rfl
  | none => exact outputsPictures_showPicture ..

/-- The decoder's context after the access unit, and the others. -/
theorem ctxOf_decodeUnit (s : State) (k j : Nat) (w : Work) :
    (∃ codec q o, ctxOf (decodeUnit s k j w) k =
      { decoderAfter (ctxOf s k) (unitFacts s k j w) w.inLen codec with outSeq := q, lastOut := o }) ∧
    ∀ l, l ≠ k → ctxOf (decodeUnit s k j w) l = ctxOf s l := by
  obtain ⟨codec, pic, outs, he⟩ := decodeUnit_eq s k j w
  have hout := (outputsPictures_endUnit (putCtx s k (decoderAfter (ctxOf s k) (unitFacts s k j w) w.inLen codec)) k w (unitFacts s k j w) pic
    (muteAfter (ctxOf s k) (unitFacts s k j w)).2).trans (outputsPictures_foldl k outs _)
  rw [← he] at hout
  obtain ⟨⟨q, o, hk⟩, hne⟩ := hout
  refine ⟨⟨codec, q, o, by rw [hk, ctxOf_putCtx_same]⟩, fun l hl => ?_⟩
  rw [hne l hl, ctxOf_putCtx_ne _ _ hl.symm]

/-- An access unit without a picture ends with its status. -/
theorem findWork_decodeUnit_muted (hw : findWork s (.frame k j) = some w) {v : Work} (hid : v.id = w.id) {st : Nat}
    (hmute : (muteAfter (ctxOf s k) (unitFacts s k j v)).2 = some st) :
    findWork (decodeUnit s k j v) (.frame k j) = some { v with result := some st } := by
  obtain ⟨codec, pic, outs, he⟩ := decodeUnit_eq s k j v
  rw [he, hmute]
  refine findWork_foldl_outputPicture_ended k outs ?_ rfl
  exact findWork_putWork (s := putCtx s k _) hw (hid.trans (id_of_findWork hw))

/-! ### A tile of a decode (R303, R304) -/

/-- R304: how many jobs a decode has: known once its first job finds the unit's tiles. -/
def decodeAim (s : State) (k j : Nat) (w : Work) : Nat :=
  if w.segs = [] then Nat.min w.aim (Nat.max 1 (unitFacts s k j w).tiles) else w.aim

/-- The work with a job of its gang done. -/
def withJob (s : State) (core k j tile : Nat) (w : Work) : Work :=
  { w with aim := decodeAim s k j w, started := true, segs := w.segs ++ [⟨tile, ecOk, 0, 0, false, core⟩] }

theorem decodeTile_of_spare (h : decodeAim s k j w ≤ tile) (core : Nat) :
    decodeTile s core k j tile w = putWork s { w with aim := decodeAim s k j w } := if_pos h

theorem decodeTile_of_needed (h : tile < decodeAim s k j w) (core : Nat) : decodeTile s core k j tile w =
    if w.segs.length + 1 < decodeAim s k j w then putWork s (withJob s core k j tile w) else decodeUnit s k j (withJob s core k j tile w) := by
  have hlen : (withJob s core k j tile w).segs.length = w.segs.length + 1 := List.length_append
  rw [← hlen]
  exact if_neg (Nat.not_le.mpr h)

/-! ### The obligation -/

section
variable (hs : inService s = true) (hw : findWork s (.frame k j) = some w) (hslot : isService w.slot = true)
  (htaken : TakesTile s core k j tile w)
include hs hw hslot htaken

theorem exec_codecTileJob_encode (henc : serviceCores w.slot = ckEncode) :
    exec (.codecTileJob core (.frame k j) tile) s = .next (encodeTile s core k j tile w) := by
  rw [exec_codecTileJob hs, tileJob_of_taken hw hslot htaken, if_pos henc]

theorem exec_codecTileJob_decode (hdec : serviceCores w.slot ≠ ckEncode) :
    exec (.codecTileJob core (.frame k j) tile) s = .next (decodeTile s core k j tile w) := by
  rw [exec_codecTileJob hs, tileJob_of_taken hw hslot htaken, if_neg hdec]

end

/-- Settles O45: a core runs the first of its tile jobs, the last tile ends its picture or access unit, the scaler's picture becomes the input of
its work, and set 0 at the size of a plane is the identity. -/
theorem codecsAndScalers : Obligations.CodecsAndScalers := by
  unfold Obligations.CodecsAndScalers
  refine ⟨fun s core k j tile w hs hw hslot => ⟨fun hmine => ?other, fun hmine henc => ?encode, fun hmine hdec => ?decode⟩,
    ⟨fun s u k j w bs hs hw hraw hok hin hwf => ?scaled, fun s u k j w hs hw hidle => ?unscaled⟩,
    fun p bd hw hh hsize _ hbound => scalePlane_filterZero hw hh hsize hbound⟩
  case other => rw [exec_codecTileJob hs, tileJob_of_not_taken hw hmine]
  case encode =>
    have hexec := exec_codecTileJob_encode hs hw hslot hmine henc
    rw [encodeTile_eq] at hexec
    refine ⟨⟨length_qs_codedTile s k j tile w, fun q hq hlim => qs_codedTile_bounds hlim q hq⟩, fun hmore => ?_, fun hlast => ?_⟩
    · rw [hexec, if_neg hmore]
      rfl
    · rw [if_pos hlast] at hexec
      obtain ⟨hwork, hvecs, hothers⟩ := endPicture_ends hw (id_withTile s core k j tile w)
      exact ⟨_, hexec, hwork, hvecs, hothers, (endPicture_keeps s k j _).mono rfl⟩
  case decode =>
    have hexec := exec_codecTileJob_decode hs hw hslot hmine hdec
    refine ⟨fun (hspare : decodeAim s k j w ≤ tile) => ?_,
      fun (hneeded : tile < decodeAim s k j w) (hmore : w.segs.length + 1 < decodeAim s k j w) => ?_,
      fun (hneeded : tile < decodeAim s k j w) (hlast : decodeAim s k j w ≤ w.segs.length + 1) => ?_⟩
    · rw [hexec, decodeTile_of_spare hspare]
      rfl
    · rw [hexec, decodeTile_of_needed hneeded, if_pos hmore]
      rfl
    · rw [decodeTile_of_needed hneeded, if_neg (Nat.not_lt.mpr hlast)] at hexec
      obtain ⟨⟨codec, q, o, hctx⟩, hothers⟩ := ctxOf_decodeUnit s k j (withJob s core k j tile w)
      refine ⟨_, hexec, by rw [hctx]; rfl, by rw [hctx]; rfl, by rw [hctx]; rfl, fun st hst => ?_, hothers, (decodeUnit_keeps s k j _).mono rfl⟩
      exact ⟨_, findWork_decodeUnit_muted hw (v := withJob s core k j tile w) rfl hst, rfl⟩
  case scaled =>
    have he := scaleFrame_of_ready hw hraw hok hin
    refine ⟨_, exec_scalerFrame hs u _, fun hsearched r hr => ?_, ?_, fun hsearched => ?_, (scaleFrame_keeps s u _).mono rfl⟩
    · rw [he, putScaled_of_searched hw hsearched]
      exact ⟨read_inputMemory hr _ hwf, bytesBut_inputMemory hr _ s.mem⟩
    · rw [he]
      exact findWork_putScaled hw _
    · rw [he, putScaled_of_searched hw hsearched]
      exact takeScaled_keeps s w _
  case unscaled => rw [exec_scalerFrame hs, scaleFrame_of_idle hw hidle]

end Sys2Proof.Machine
end
section
/-! The step of the machine and the state after reset (O54, O57). -/
namespace Sys2Proof.Machine
open Sys2Proof
/-- Settles O54. -/
theorem stepRunsFront : Obligations.StepRunsFront := by
  unfold Obligations.StepRunsFront
  refine ⟨fun s c rest h => ?_, fun s h => ?_⟩ <;> (unfold step; rw [h])

/-- Settles O57: the reset state is the model's, whose dictionary holds nothing, so that every subentry reads its default. -/
theorem resetState : Obligations.ResetState := by
  unfold Obligations.ResetState
  exact ⟨rfl, rfl, rfl, rfl, fun _ => rfl, rfl, rfl, fun _ _ => rfl, rfl, rfl⟩
end Sys2Proof.Machine
end
section
/-! What every operation does to the control part: the two journals are only lengthened by `logFault` and `addJournal`, which drop the oldest entry
at the bound, and only the start steps and the supplies move the phase. One lemma per operation, in the order of the model: `<name>_ctl` where the
operation leaves the control part alone, `<name>_steady` where it does not. -/
namespace Sys2Proof
theorem Kept.ctl_eq {ps : List Part} {s t : Machine.State} (k : Kept ps s t) (h : ps.contains .ctl = false) : t.ctl = s.ctl :=
  k .ctl (by simpa using h)
end Sys2Proof
namespace Sys2Proof.Machine
open Sys2Proof

/-- From one control part to a later one: the fault log and the start journal stay within their bounds (R396, R472), and, where `strict`, a part
that is not in service keeps its phase. The phase may change only in the start steps and at the supplies and reset inputs. -/
structure Steady (strict : Bool) (c d : Control) : Prop where
  phase : strict = true → c.phase ≠ .service → d.phase = c.phase
  log : c.log.length ≤ 4096 → d.log.length ≤ 4096
  journal : c.journal.length ≤ 65536 → d.journal.length ≤ 65536

variable {b : Bool} {c : Control} {s : State}

theorem Steady.refl (c : Control) : Steady b c c := ⟨fun _ _ => rfl, id, id⟩

theorem Steady.of_eq {d e : Control} (h : Steady b c d) (he : e = d) : Steady b c e := he ▸ h

theorem Steady.same {d e : Control} (h : Steady b c d) (hp : e.phase = d.phase) (hl : e.log = d.log) (hj : e.journal = d.journal) :
    Steady b c e := ⟨hp ▸ h.phase, hl ▸ h.log, hj ▸ h.journal⟩

theorem raiseVector_steady (h : Steady b c s.ctl) (v : Nat) : Steady b c (raiseVector s v).ctl := by
  unfold raiseVector
  split
  · exact h
  · exact h.same rfl rfl rfl

theorem length_dropOldest_le {α : Type} (n : Nat) {l : List α} (hn : 0 < n) (h : l.length ≤ n) (a : α) :
    ((if l.length ≥ n then l.drop 1 else l) ++ [a]).length ≤ n := by
  split <;> simp <;> omega

theorem logFault_steady (h : Steady b c s.ctl) (code severity kind unit ctx detail : Nat) :
    Steady b c (logFault s code severity kind unit ctx detail).ctl := by
  unfold logFault
  extract_lets seq lost s1 s2 kept entry
  have hs2 : s2.ctl = s.ctl := by
    show s1.ctl = s.ctl
    unfold s1
    split <;> simp
  refine raiseVector_steady (s := { s2 with ctl := { s2.ctl with log := kept ++ [entry] } }) ?_ 49
  unfold kept
  rw [hs2]
  exact ⟨h.phase, fun hc => length_dropOldest_le 4096 (by decide) (h.log hc) entry, h.journal⟩

theorem addJournal_steady (h : Steady b c s.ctl) (step kind unit event detail : Nat) :
    Steady b c (addJournal s step kind unit event detail).ctl :=
  ⟨h.phase, h.log, fun hc => length_dropOldest_le 65536 (by decide) (h.journal hc) _⟩

theorem retireLater_steady (h : Steady b c s.ctl) (kind unit : Nat) : Steady b c (retireLater s kind unit).ctl := h.same rfl rfl rfl

theorem Steady.foldl {α : Type} {f : State → α → State} (hf : ∀ t a, Steady b c t.ctl → Steady b c (f t a).ctl) :
    ∀ (l : List α) {s : State}, Steady b c s.ctl → Steady b c (l.foldl f s).ctl
  | [], _, h => h
  | a :: l, _, h => Steady.foldl hf l (hf _ a h)

/-! ### Operations that leave the control part alone -/

theorem toMirror_ctl (s : State) (i) : (toMirror s i).ctl = s.ctl := Kept.ctl_eq (toMirror_keeps s i) rfl
theorem clearDeviceFlags_ctl (s : State) (mask) : (clearDeviceFlags s mask).ctl = s.ctl := Kept.ctl_eq (clearDeviceFlags_keeps s mask) rfl
theorem clearTileFlags_ctl (s : State) (mask) : (clearTileFlags s mask).ctl = s.ctl := Kept.ctl_eq (clearTileFlags_keeps s mask) rfl
theorem deliver_ctl (s : State) (work idx pos obj) : (deliver s work idx pos obj).ctl = s.ctl := Kept.ctl_eq (deliver_keeps s work idx pos obj) rfl
theorem writeSegment_ctl (s : State) (w g encode o) : (writeSegment s w g encode o).ctl = s.ctl := Kept.ctl_eq (writeSegment_keeps s w g encode o) rfl
theorem usePocket_ctl (s : State) (w g lane base o) : (usePocket s w g lane base o).ctl = s.ctl := Kept.ctl_eq (usePocket_keeps s w g lane base o) rfl
theorem commitSegment_ctl (s : State) (w p g seg lane encode o) : (commitSegment s w p g seg lane encode o).ctl = s.ctl :=
  Kept.ctl_eq (commitSegment_keeps s w p g seg lane encode o) rfl
theorem restartSegment_ctl (s : State) (lane x0) : (restartSegment s lane x0).ctl = s.ctl := Kept.ctl_eq (restartSegment_keeps s lane x0) rfl
theorem addTableSet_ctl (s : State) (diesOk) : (addTableSet s diesOk).ctl = s.ctl := Kept.ctl_eq (addTableSet_keeps s diesOk) rfl
theorem removeTableSet_ctl (s : State) (diesOk) : (removeTableSet s diesOk).ctl = s.ctl := Kept.ctl_eq (removeTableSet_keeps s diesOk) rfl
theorem setSlotState_ctl (s : State) (k v) : (setSlotState s k v).ctl = s.ctl := Kept.ctl_eq (setSlotState_keeps s k v) rfl
theorem setSlotStatus_ctl (s : State) (k st) : (setSlotStatus s k st).ctl = s.ctl := Kept.ctl_eq (setSlotStatus_keeps s k st) rfl
theorem swapBanks_ctl (s : State) : (swapBanks s).ctl = s.ctl := Kept.ctl_eq (swapBanks_keeps s) rfl
theorem freeBank_ctl (s : State) (b) : (freeBank s b).ctl = s.ctl := Kept.ctl_eq (freeBank_keeps s b) rfl
theorem loadFunction_ctl (s : State) (diesOk) : (loadFunction s diesOk).ctl = s.ctl := Kept.ctl_eq (loadFunction_keeps s diesOk) rfl
theorem unloadFunction_ctl (s : State) : (unloadFunction s).ctl = s.ctl := Kept.ctl_eq (unloadFunction_keeps s) rfl
theorem switchFunction_ctl (s : State) (k) : (switchFunction s k).ctl = s.ctl := Kept.ctl_eq (switchFunction_keeps s k) rfl
theorem acceptLoad_ctl (s : State) (k) : (acceptLoad s k).ctl = s.ctl := Kept.ctl_eq (acceptLoad_keeps s k) rfl
theorem showPackage_ctl (s : State) (k p) : (showPackage s k p).ctl = s.ctl := Kept.ctl_eq (showPackage_keeps s k p) rfl
theorem startUnload_ctl (s : State) (k) : (startUnload s k).ctl = s.ctl := Kept.ctl_eq (startUnload_keeps s k) rfl
theorem releaseWindows_ctl (s : State) : (releaseWindows s).ctl = s.ctl := Kept.ctl_eq (releaseWindows_keeps s) rfl
theorem putFrame_ctl (s : State) (f) : (putFrame s f).ctl = s.ctl := Kept.ctl_eq (putFrame_keeps s f) rfl
theorem issueDue_ctl (s : State) : (issueDue s).ctl = s.ctl := Kept.ctl_eq (issueDue_keeps s) rfl
theorem writeBinding_ctl (s : State) (k v) : (writeBinding s k v).ctl = s.ctl := Kept.ctl_eq (writeBinding_keeps s k v) rfl
theorem settleStop_ctl (s : State) (k) : (settleStop s k).ctl = s.ctl := Kept.ctl_eq (settleStop_keeps s k) rfl
theorem switchesAtTick_ctl (s : State) : (switchesAtTick s).ctl = s.ctl := Kept.ctl_eq (switchesAtTick_keeps s) rfl
theorem requestReference_ctl (s : State) (k slot j0) : (requestReference s k slot j0).ctl = s.ctl :=
  Kept.ctl_eq (requestReference_keeps s k slot j0) rfl
theorem keepState_ctl (s : State) (k j w) : (keepState s k j w).ctl = s.ctl := Kept.ctl_eq (keepState_keeps s k j w) rfl
theorem encodeEnd_ctl (s : State) (k j w stream) : (encodeEnd s k j w stream).ctl = s.ctl := Kept.ctl_eq (encodeEnd_keeps s k j w stream) rfl
theorem encodeFailed_ctl (s : State) (k j w) : (encodeFailed s k j w).ctl = s.ctl := Kept.ctl_eq (encodeFailed_keeps s k j w) rfl
theorem putCore_ctl (s : State) (kind unit c) : (putCore s kind unit c).ctl = s.ctl := Kept.ctl_eq (putCore_keeps s kind unit c) rfl
theorem setRetiredBits_ctl (s : State) (kind v) : (setRetiredBits s kind v).ctl = s.ctl := Kept.ctl_eq (setRetiredBits_keeps s kind v) rfl
theorem putJob_ctl (s : State) (e) : (putJob s e).ctl = s.ctl := Kept.ctl_eq (putJob_keeps s e) rfl
theorem moveJob_ctl (s : State) (kind core) : (moveJob s kind core).ctl = s.ctl := Kept.ctl_eq (moveJob_keeps s kind core) rfl
theorem moveTasks_ctl (s : State) (engine ws) : (moveTasks s engine ws).ctl = s.ctl := Kept.ctl_eq (moveTasks_keeps s engine ws) rfl
theorem moveCharges_ctl (s : State) (kind unit) : (moveCharges s kind unit).ctl = s.ctl := Kept.ctl_eq (moveCharges_keeps s kind unit) rfl
theorem deliverVectors_ctl (s : State) (k j) : (deliverVectors s k j).ctl = s.ctl := Kept.ctl_eq (deliverVectors_keeps s k j) rfl
theorem deliverAll_ctl (s : State) : (deliverAll s).ctl = s.ctl := Kept.ctl_eq (deliverAll_keeps s) rfl
theorem formOutput_ctl (s : State) (k j w) : (formOutput s k j w).ctl = s.ctl := Kept.ctl_eq (formOutput_keeps s k j w) rfl
theorem decodeEnd_ctl (s : State) (k j w) : (decodeEnd s k j w).ctl = s.ctl := Kept.ctl_eq (decodeEnd_keeps s k j w) rfl
theorem decodeFailed_ctl (s : State) (k j) : (decodeFailed s k j).ctl = s.ctl := Kept.ctl_eq (decodeFailed_keeps s k j) rfl
theorem loadFilter_ctl (s : State) : (loadFilter s).ctl = s.ctl := Kept.ctl_eq (loadFilter_keeps s) rfl
theorem unloadFilter_ctl (s : State) : (unloadFilter s).ctl = s.ctl := Kept.ctl_eq (unloadFilter_keeps s) rfl
theorem filterAtTick_ctl (s : State) : (filterAtTick s).ctl = s.ctl := Kept.ctl_eq (filterAtTick_keeps s) rfl
theorem flushDecoder_ctl (s : State) (k) : (flushDecoder s k).ctl = s.ctl := Kept.ctl_eq (flushDecoder_keeps s k) rfl
theorem putSource_ctl (s : State) (i x) : (putSource s i x).ctl = s.ctl := Kept.ctl_eq (putSource_keeps s i x) rfl
theorem settleHoldover_ctl (s : State) : (settleHoldover s).ctl = s.ctl := Kept.ctl_eq (settleHoldover_keeps s) rfl
theorem slewTime_ctl (s : State) : (slewTime s).ctl = s.ctl := Kept.ctl_eq (slewTime_keeps s) rfl
theorem putLink_ctl (s : State) (i l) : (putLink s i l).ctl = s.ctl := Kept.ctl_eq (putLink_keeps s i l) rfl
theorem setLinkState_ctl (s : State) (i v) : (setLinkState s i v).ctl = s.ctl := Kept.ctl_eq (setLinkState_keeps s i v) rfl
theorem serveLink_ctl (s : State) (i) : (serveLink s i).ctl = s.ctl := Kept.ctl_eq (serveLink_keeps s i) rfl
theorem resendKept_ctl (s : State) (pick) : (resendKept s pick).ctl = s.ctl := Kept.ctl_eq (resendKept_keeps s pick) rfl
theorem countReachable_ctl (s : State) : (countReachable s).ctl = s.ctl := Kept.ctl_eq (countReachable_keeps s) rfl
theorem floodOwn_ctl (s : State) : (floodOwn s).ctl = s.ctl := Kept.ctl_eq (floodOwn_keeps s) rfl
theorem noteDelay_ctl (s : State) (i d) : (noteDelay s i d).ctl = s.ctl := Kept.ctl_eq (noteDelay_keeps s i d) rfl
theorem offerTick_ctl (s : State) : (offerTick s).ctl = s.ctl := Kept.ctl_eq (offerTick_keeps s) rfl
theorem hostWrite_ctl (s : State) (a bs) : (hostWrite s a bs).ctl = s.ctl := Kept.ctl_eq (hostWrite_keeps s a bs) rfl
theorem putSring_ctl (s : State) (r x) : (putSring s r x).ctl = s.ctl := Kept.ctl_eq (putSring_keeps s r x) rfl
theorem sringWrite_ctl (s : State) (r n f) : (sringWrite s r n f).ctl = s.ctl := Kept.ctl_eq (sringWrite_keeps s r n f) rfl
theorem putFlow_ctl (s : State) (f x) : (putFlow s f x).ctl = s.ctl := Kept.ctl_eq (putFlow_keeps s f x) rfl
theorem setFlowBit_ctl (s : State) (f sub r) : (setFlowBit s f sub r).ctl = s.ctl := Kept.ctl_eq (setFlowBit_keeps s f sub r) rfl
theorem clearFlowBit_ctl (s : State) (f sub r) : (clearFlowBit s f sub r).ctl = s.ctl := Kept.ctl_eq (clearFlowBit_keeps s f sub r) rfl
theorem clearWait_ctl (s : State) (k j m) : (clearWait s k j m).ctl = s.ctl := Kept.ctl_eq (clearWait_keeps s k j m) rfl
theorem addWait_ctl (s : State) (k j m) : (addWait s k j m).ctl = s.ctl := Kept.ctl_eq (addWait_keeps s k j m) rfl
theorem settleFrame_ctl (s : State) (k j) : (settleFrame s k j).ctl = s.ctl := Kept.ctl_eq (settleFrame_keeps s k j) rfl
theorem ackHeld_ctl (s : State) (f h) : (ackHeld s f h).ctl = s.ctl := Kept.ctl_eq (ackHeld_keeps s f h) rfl
theorem resumeReceivers_ctl (s : State) (f e) : (resumeReceivers s f e).ctl = s.ctl := Kept.ctl_eq (resumeReceivers_keeps s f e) rfl
theorem dropHeld_ctl (s : State) (f r) : (dropHeld s f r).ctl = s.ctl := Kept.ctl_eq (dropHeld_keeps s f r) rfl
theorem silencePort_ctl (s : State) (port) : (silencePort s port).ctl = s.ctl := Kept.ctl_eq (silencePort_keeps s port) rfl
theorem putRing_ctl (s : State) (r x) : (putRing s r x).ctl = s.ctl := Kept.ctl_eq (putRing_keeps s r x) rfl
theorem mirrorState_ctl (s : State) (k j w) : (mirrorState s k j w).ctl = s.ctl := Kept.ctl_eq (mirrorState_keeps s k j w) rfl
theorem setJobState_ctl (s : State) (e st) : (setJobState s e st).ctl = s.ctl := Kept.ctl_eq (setJobState_keeps s e st) rfl
theorem restartWork_ctl (s : State) (w) : (restartWork s w).ctl = s.ctl := Kept.ctl_eq (restartWork_keeps s w) rfl
theorem replayWorks_ctl (s : State) (pick) : (replayWorks s pick).ctl = s.ctl := Kept.ctl_eq (replayWorks_keeps s pick) rfl
theorem rewriteHeld_ctl (s : State) (f h) : (rewriteHeld s f h).ctl = s.ctl := Kept.ctl_eq (rewriteHeld_keeps s f h) rfl
theorem allocateHost_ctl (s : State) : (allocateHost s).ctl = s.ctl := Kept.ctl_eq (allocateHost_keeps s) rfl
theorem freeHost_ctl (s : State) : (freeHost s).ctl = s.ctl := Kept.ctl_eq (freeHost_keeps s) rfl
theorem settleCopies_ctl (s : State) : (settleCopies s).ctl = s.ctl := Kept.ctl_eq (settleCopies_keeps s) rfl
theorem loseCopy_ctl (s : State) (k) : (loseCopy s k).ctl = s.ctl := Kept.ctl_eq (loseCopy_keeps s k) rfl
theorem noteErrors_ctl (s : State) (k row n) : (noteErrors s k row n).ctl = s.ctl := Kept.ctl_eq (noteErrors_keeps s k row n) rfl
theorem hitMemory_ctl (s : State) (a) : (hitMemory s a).ctl = s.ctl := Kept.ctl_eq (hitMemory_keeps s a) rfl
theorem startMirror_ctl (s : State) : (startMirror s).ctl = s.ctl := Kept.ctl_eq (startMirror_keeps s) rfl
theorem ackTo_ctl (s : State) (peer flow) : (ackTo s peer flow).ctl = s.ctl := Kept.ctl_eq (ackTo_keeps s peer flow) rfl
theorem storeBytes_ctl (s : State) (index sub bs) : (storeBytes s index sub bs).ctl = s.ctl := Kept.ctl_eq (storeBytes_keeps s index sub bs) rfl
theorem startCopy_ctl (s : State) : (startCopy s).ctl = s.ctl := Kept.ctl_eq (startCopy_keeps s) rfl
theorem setUmpireState_ctl (s : State) (v) : (setUmpireState s v).ctl = s.ctl := Kept.ctl_eq (setUmpireState_keeps s v) rfl
theorem enableUmpire_ctl (s : State) : (enableUmpire s).ctl = s.ctl := Kept.ctl_eq (enableUmpire_keeps s) rfl
theorem dueHalt_ctl (s : State) (k j) : (dueHalt s k j).ctl = s.ctl := Kept.ctl_eq (dueHalt_keeps s k j) rfl
theorem leaveTrio_ctl (s : State) (ps) : (leaveTrio s ps).ctl = s.ctl := Kept.ctl_eq (leaveTrio_keeps s ps) rfl
theorem dropCompared_ctl (s : State) (r) : (dropCompared s r).ctl = s.ctl := Kept.ctl_eq (dropCompared_keeps s r) rfl
theorem haltMarked_ctl (s : State) : (haltMarked s).ctl = s.ctl := Kept.ctl_eq (haltMarked_keeps s) rfl
theorem unhaltMarked_ctl (s : State) : (unhaltMarked s).ctl = s.ctl := Kept.ctl_eq (unhaltMarked_keeps s) rfl
theorem putDie_ctl (s : State) (d x) : (putDie s d x).ctl = s.ctl := Kept.ctl_eq (putDie_keeps s d x) rfl
theorem countReasons_ctl (s : State) : (countReasons s).ctl = s.ctl := Kept.ctl_eq (countReasons_keeps s) rfl
theorem breachDie_ctl (s : State) (d) : (breachDie s d).ctl = s.ctl := Kept.ctl_eq (breachDie_keeps s d) rfl
theorem nextTick_ctl (s : State) : (nextTick s).ctl = s.ctl := Kept.ctl_eq (nextTick_keeps s) rfl
theorem carryRound_ctl (s : State) : (carryRound s).ctl = s.ctl := Kept.ctl_eq (carryRound_keeps s) rfl
theorem releaseCharges_ctl (s : State) : (releaseCharges s).ctl = s.ctl := Kept.ctl_eq (releaseCharges_keeps s) rfl
theorem takeStops_ctl (s : State) : (takeStops s).ctl = s.ctl := Kept.ctl_eq (takeStops_keeps s) rfl
theorem tickOutputs_ctl (s : State) : (tickOutputs s).ctl = s.ctl := Kept.ctl_eq (tickOutputs_keeps s) rfl
theorem resumeBulk_ctl (s : State) (x0) : (resumeBulk x0 s).ctl = s.ctl := Kept.ctl_eq (resumeBulk_keeps x0 s) rfl
theorem countMissing_ctl (s : State) : (countMissing s).ctl = s.ctl := Kept.ctl_eq (countMissing_keeps s) rfl
theorem countGap_ctl (s : State) : (countGap s).ctl = s.ctl := Kept.ctl_eq (countGap_keeps s) rfl
theorem mirrorJob_ctl (s : State) (e) : (mirrorJob s e).ctl = s.ctl := Kept.ctl_eq (mirrorJob_keeps s e) rfl
theorem freeJobs_ctl (s : State) (r) : (freeJobs s r).ctl = s.ctl := Kept.ctl_eq (freeJobs_keeps s r) rfl
theorem showIndex_ctl (s : State) (r) : (showIndex s r).ctl = s.ctl := Kept.ctl_eq (showIndex_keeps s r) rfl
theorem takeSlots_ctl (s : State) (x0 x2 x3) : (takeSlots x0 s x2 x3).ctl = s.ctl := Kept.ctl_eq (takeSlots_keeps x0 s x2 x3) rfl
theorem passOutput_ctl (s : State) (r) : (passOutput s r).ctl = s.ctl := Kept.ctl_eq (passOutput_keeps s r) rfl
theorem dropJobWorks_ctl (s : State) (e) : (dropJobWorks s e).ctl = s.ctl := Kept.ctl_eq (dropJobWorks_keeps s e) rfl
theorem endCollective_ctl (s : State) (w g i r flags) : (endCollective s w g i r flags).ctl = s.ctl :=
  Kept.ctl_eq (endCollective_keeps s w g i r flags) rfl
theorem sendCollective_ctl (s : State) (work g own all result) : (sendCollective s work g own all result).ctl = s.ctl :=
  Kept.ctl_eq (sendCollective_keeps s work g own all result) rfl
theorem restartClock_ctl (s : State) (now) : (restartClock s now).ctl = s.ctl := Kept.ctl_eq (restartClock_keeps s now) rfl
theorem abandonCommands_ctl (a s : State) : (abandonCommands a s).ctl = s.ctl := Kept.ctl_eq (abandonCommands_keeps a s) rfl
theorem resumeCtxs_ctl (a s : State) : (resumeCtxs a s).ctl = s.ctl := Kept.ctl_eq (resumeCtxs_keeps a s) rfl
theorem resumeCopies_ctl (a s : State) : (resumeCopies a s).ctl = s.ctl := Kept.ctl_eq (resumeCopies_keeps a s) rfl
theorem resetStatus_ctl (s : State) (st) : (resetStatus s st).ctl = s.ctl := Kept.ctl_eq (resetStatus_keeps s st) rfl
theorem enterPark_ctl (s : State) : (enterPark s).ctl = s.ctl := Kept.ctl_eq (enterPark_keeps s) rfl
theorem sendTables_ctl (s : State) : (sendTables s).ctl = s.ctl := Kept.ctl_eq (sendTables_keeps s) rfl
theorem resumeModes_ctl (s : State) : (resumeModes s).ctl = s.ctl := Kept.ctl_eq (resumeModes_keeps s) rfl
theorem countStart_ctl (s : State) : (countStart s).ctl = s.ctl := Kept.ctl_eq (countStart_keeps s) rfl
theorem restoreCtx_ctl (s : State) (k) : (restoreCtx s k).ctl = s.ctl := Kept.ctl_eq (restoreCtx_keeps s k) rfl
theorem attest_ctl (s : State) : (attest s).ctl = s.ctl := Kept.ctl_eq (attest_keeps s) rfl
theorem ctxCommand_ctl (s : State) (k v) : (ctxCommand s k v).ctl = s.ctl := Kept.ctl_eq (ctxCommand_keeps s k v) rfl
theorem countRequest_ctl (s : State) (ops) : (countRequest s ops).ctl = s.ctl := Kept.ctl_eq (countRequest_keeps s ops) rfl
theorem sendMessage_fst_ctl (s : State) (peer flow bytes) : (sendMessage s peer flow bytes).1.ctl = s.ctl :=
  Kept.ctl_eq (sendMessage_keeps s peer flow bytes) rfl

/-! ### Operations on the control part -/

theorem retireTile_steady (h : Steady b c s.ctl) (t) : Steady b c (retireTile s t).ctl := by
  unfold retireTile
  grind [setBlob_ctl, putTile_ctl, addJournal_steady, logFault_steady]

theorem faultTile_steady (h : Steady b c s.ctl) (t) : Steady b c (faultTile s t).ctl := by
  unfold faultTile
  grind [logFault_steady, putWork_ctl, putTile_ctl, retireLater_steady, retireTile_steady]

theorem failSegment_steady (h : Steady b c s.ctl) (w p g seg lane f) : Steady b c (failSegment s w p g seg lane f).ctl := by
  unfold failSegment
  grind [addReg_ctl, writeSegment_ctl, deliver_ctl, putWork_ctl, logFault_steady]

theorem endSegment_steady (h : Steady b c s.ctl) (w p g seg lane encode base o) : Steady b c (endSegment s w p g seg lane encode base o).ctl := by
  unfold endSegment
  grind [usePocket_ctl, commitSegment_ctl, failSegment_steady]

theorem encodeStep_steady (h : Steady b c s.ctl) (lane work seg) : Steady b c (encodeStep s lane work seg).ctl := by
  unfold encodeStep
  grind [putWork_ctl, endSegment_steady]

theorem decodeStep_steady (h : Steady b c s.ctl) (lane work seg) : Steady b c (decodeStep s lane work seg).ctl := by
  unfold decodeStep
  grind [putWork_ctl, endSegment_steady]

theorem retireLane_steady (h : Steady b c s.ctl) (lane) : Steady b c (retireLane s lane).ctl := by
  unfold retireLane
  grind [retireLater_steady, setReg_ctl, putLane_ctl, logFault_steady, addJournal_steady]

theorem faultLane_steady (h : Steady b c s.ctl) (lane) : Steady b c (faultLane s lane).ctl := by
  unfold faultLane
  grind [restartSegment_ctl, logFault_steady, putLane_ctl, retireLane_steady]

theorem applyKey_steady (h : Steady b c s.ctl) (origin a n) : Steady b c (applyKey s origin a n).ctl := by
  unfold applyKey
  grind [setReg_ctl, setBlob_ctl, addReg_ctl, Steady.same]

theorem advanceQueue_steady : ∀ (fuel : Nat) {s : State}, Steady b c s.ctl → Steady b c (advanceQueue fuel s).ctl
  | 0, _, h => h
  | fuel + 1, s, h => by
    unfold advanceQueue
    split
    · next r _ =>
      exact advanceQueue_steady fuel (applyKey_steady (s := { s with queue := r }) h _ _ _)
    · exact h.of_eq (startUnload_ctl ..)
    · exact h
    · exact h

theorem pumpQueue_steady (h : Steady b c s.ctl) : Steady b c (pumpQueue s).ctl := advanceQueue_steady _ h

theorem runLoad_ctl {k a n : Nat} {ok : Bool} {t : State} (e : runLoad s k a n ok = .ok t) : t.ctl = s.ctl :=
  Kept.ctl_eq (runLoad_keeps s k a n ok t e) rfl

theorem endLoad_steady (h : Steady b c s.ctl) (k : Nat) (rest : List QueueItem) (e : Except Nat State) (he : ∀ t, e = .ok t → t.ctl = s.ctl) :
    Steady b c (endLoad s k rest e).ctl := by
  unfold endLoad
  split
  · next t =>
    have ht : Steady b c t.ctl := he t rfl ▸ h
    split
    · exact pumpQueue_steady ht
    · exact ht
  · exact pumpQueue_steady (by simpa [setSlotStatus_ctl, setSlotState_ctl] using h)

theorem runQueuedLoad_steady (h : Steady b c s.ctl) : Steady b c (runQueuedLoad s).ctl := by
  unfold runQueuedLoad diesCommand
  split
  · split
    · exact endLoad_steady (s := (fresh s).2) h _ _ _ fun _ => runLoad_ctl
    · exact h
  · exact h

theorem acceptUnload_steady (h : Steady b c s.ctl) (k) : Steady b c (acceptUnload s k).ctl := by
  unfold acceptUnload
  grind [setSlotStatus_ctl, setSlotState_ctl, pumpQueue_steady]

theorem finishUnload_steady (h : Steady b c s.ctl) : Steady b c (finishUnload s).ctl := by
  unfold finishUnload
  grind [pumpQueue_steady, setSlotStatus_ctl, setSlotState_ctl, showPackage_ctl, releaseRange_ctl]

theorem acceptKey_steady (h : Steady b c s.ctl) (origin) : Steady b c (acceptKey s origin).ctl := by
  unfold acceptKey
  grind [setReg_ctl, pumpQueue_steady]

theorem takeSwap_steady (h : Steady b c s.ctl) : Steady b c (takeSwap s).ctl := by
  unfold takeSwap
  grind [pumpQueue_steady, swapBanks_ctl]

theorem tablesAtTick_steady (h : Steady b c s.ctl) : Steady b c (tablesAtTick s).ctl := by
  unfold tablesAtTick
  refine Steady.foldl (fun t k ht => ?_) _ ?_
  · grind [switchFunction_ctl]
  · grind [freeBank_ctl, takeSwap_steady]

theorem retireUnit_steady (h : Steady b c s.ctl) (kind unit) : Steady b c (retireUnit s kind unit).ctl := by
  unfold retireUnit
  grind [setRetiredBits_ctl, addJournal_steady, putCore_ctl, moveCharges_ctl, logFault_steady, moveTasks_ctl]

theorem retireWhenHeld_steady (h : Steady b c s.ctl) (kind unit) : Steady b c (retireWhenHeld s kind unit).ctl := by
  unfold retireWhenHeld
  grind [retireLater_steady, retireUnit_steady]

theorem faultUnit_steady (h : Steady b c s.ctl) (kind unit) : Steady b c (faultUnit s kind unit).ctl := by
  unfold faultUnit
  grind [logFault_steady, moveTasks_ctl, moveJob_ctl, putCore_ctl, retireWhenHeld_steady]

theorem checkUnit_steady (h : Steady b c s.ctl) (kind unit passed) : Steady b c (checkUnit s kind unit passed).ctl := by
  unfold checkUnit
  grind [putCore_ctl, retireWhenHeld_steady]

theorem turnSource_steady (h : Steady b c s.ctl) (next) : Steady b c (turnSource s next).ctl := by
  unfold turnSource
  grind [logFault_steady, addReg_ctl, setReg_ctl]

theorem loseSource_steady (h : Steady b c s.ctl) (i) : Steady b c (loseSource s i).ctl := by
  unfold loseSource
  grind [putSource_ctl, settleHoldover_ctl, turnSource_steady]

theorem pruneOffers_steady (h : Steady b c s.ctl) (keep) : Steady b c (pruneOffers s keep).ctl := by
  unfold pruneOffers
  grind [loseSource_steady]

theorem stepTime_steady (h : Steady b c s.ctl) (d) : Steady b c (stepTime s d).ctl := by
  unfold stepTime
  grind [logFault_steady]

theorem seedTime_steady (h : Steady b c s.ctl) : Steady b c (seedTime s).ctl := by
  unfold seedTime
  grind [stepTime_steady]

theorem selectSource_steady (h : Steady b c s.ctl) : Steady b c (selectSource s).ctl := by
  unfold selectSource
  grind [seedTime_steady, settleHoldover_ctl, turnSource_steady]

theorem stepTimebase_steady (h : Steady b c s.ctl) (ns) : Steady b c (stepTimebase s ns).ctl := by
  unfold stepTimebase
  grind [setReg_ctl, stepTime_steady]

theorem failLink_steady (h : Steady b c s.ctl) (i) : Steady b c (failLink s i).ctl := by
  unfold failLink
  grind [logFault_steady, setLinkState_ctl, putLink_ctl, resendKept_ctl, floodOwn_ctl]

theorem emits_steady {α : Type} (f : State → α → Emission) (l : List α) (h : Steady b c s.ctl) :
    Steady b c (l.foldl (fun s a => emit s (f s a)) s).ctl :=
  Steady.foldl (fun t a ht => by exact ht) l h

theorem retryLink_steady (h : Steady b c s.ctl) (i expected) : Steady b c (retryLink s i expected).ctl := by
  have resend (l : Link) {t : State} (ht : Steady b c t.ctl) := emits_steady (fun _ e => .palton i e.2) l.replay ht
  unfold retryLink
  grind [putLink_ctl, failLink_steady, serveLink_ctl]

theorem trainLink_steady (h : Steady b c s.ctl) (i passed) : Steady b c (trainLink s i passed).ctl := by
  unfold trainLink
  grind [addReg_ctl, setLinkState_ctl, putLink_ctl, logFault_steady]

theorem takeAddress_steady (h : Steady b c s.ctl) (a) : Steady b c (takeAddress s a).ctl := by
  unfold takeAddress
  grind [setReg_ctl, logFault_steady, addReg_ctl]

theorem findRoot_steady (h : Steady b c s.ctl) : Steady b c (findRoot s).ctl := by
  unfold findRoot
  extract_lets heard root key less parent hops changed f t u
  have ht : Steady b c t.ctl := h
  have hu : Steady b c u.ctl := by
    unfold u
    split
    · exact logFault_steady (s := setReg t 0x4100 0x04 root) ht _ _ _ _ _ _
    · exact ht
  split
  · exact takeAddress_steady hu _
  · exact hu

theorem sendHellos_steady (h : Steady b c s.ctl) : Steady b c (sendHellos s).ctl := by
  unfold sendHellos
  extract_lets f s0 s1 s2
  have h0 : Steady b c s0.ctl := findRoot_steady h
  have h1 : Steady b c s1.ctl := emits_steady (fun s i => .helloOut i (helloData s i)) _ (h0.of_eq (floodOwn_ctl _))
  grind [setReg_ctl, emit_ctl]

theorem takeHello_steady (h : Steady b c s.ctl) (i d) : Steady b c (takeHello s i d).ctl := by
  have flood (l : NMap (List (Nat × Nat))) {t : State} (ht : Steady b c t.ctl) := emits_steady (fun _ e => .flood i e.1 e.2) l ht
  unfold takeHello
  grind [setReg_ctl, noteDelay_ctl, putLink_ctl, pruneOffers_steady, findRoot_steady, floodOwn_ctl]

theorem takeMap_steady (h : Steady b c s.ctl) (root map) : Steady b c (takeMap s root map).ctl := by
  unfold takeMap
  split
  · exact h
  · extract_lets all f t u v
    rw [countReachable_ctl]
    refine emits_steady (fun _ i => .mapDown i root all) _ ?_
    unfold u
    split
    · exact takeAddress_steady (s := t) h _
    · exact h

theorem sringPut_steady (h : Steady b c s.ctl) (r k f) : Steady b c (sringPut s r k f).ctl := by
  unfold sringPut
  grind [sringWrite_ctl, raiseVector_steady, putSring_ctl]

theorem noteDelivered_steady (h : Steady b c s.ctl) (f r e) : Steady b c (noteDelivered s f r e).ctl := by
  unfold noteDelivered
  grind [raiseVector_steady, logFault_steady, clearFlowBit_ctl]

theorem deliverHeld_steady (h : Steady b c s.ctl) (f) (o : HeldOutput) : Steady b c (deliverHeld s f o).ctl := by
  unfold deliverHeld
  split
  · split
    · exact h
    · dsimp only
      split
      · exact noteDelivered_steady (h.of_eq (by rw [putFlow_ctl, sendMessage_fst_ctl])) _ _ _
      · split
        · exact noteDelivered_steady ((sringPut_steady h _ _ _).of_eq (by rw [putFlow_ctl])) _ _ _
        · exact h
  · exact h

theorem deliverFlow_steady (h : Steady b c s.ctl) (f) : Steady b c (deliverFlow s f).ctl := by
  unfold deliverFlow
  refine Steady.foldl (fun t o ht => ?_) _ h
  grind [deliverHeld_steady]

theorem releaseFlow_steady (h : Steady b c s.ctl) (e f) : Steady b c (releaseFlow s e f).ctl := by
  unfold releaseFlow
  extract_lets s1 x live held s2 s3
  have h2 : Steady b c s2.ctl := Steady.foldl (fun t r ht => ht.of_eq (addWait_ctl ..)) _ (h.of_eq (resumeReceivers_ctl ..))
  have h3 : Steady b c s3.ctl := by grind [addReg_ctl]
  exact deliverFlow_steady (h3.of_eq (putFlow_ctl ..)) _

theorem releaseOutput_steady (h : Steady b c s.ctl) (k j) : Steady b c (releaseOutput s k j).ctl := by
  unfold releaseOutput
  split
  · split
    · exact h
    · exact Steady.foldl (fun _ _ ht => releaseFlow_steady ht _ _) _ h
  · exact h

theorem unhold_steady (h : Steady b c s.ctl) (k j m) : Steady b c (unhold s k j m).ctl := by
  unfold unhold
  grind [releaseOutput_steady, clearWait_ctl]

theorem benchReceiver_steady (h : Steady b c s.ctl) (f r) : Steady b c (benchReceiver s f r).ctl := by
  unfold benchReceiver
  grind [dropHeld_ctl, putFlow_ctl, addReg_ctl, clearFlowBit_ctl, setFlowBit_ctl, raiseVector_steady, logFault_steady]

theorem sendPacket_steady (h : Steady b c s.ctl) (port) : Steady b c (sendPacket s port).ctl := by
  unfold sendPacket
  grind [addReg_ctl, emit_ctl, noteDelivered_steady, settleFrame_ctl, clearWait_ctl, passTime_ctl]

theorem putRecord_steady (h : Steady b c s.ctl) (r pos) (image : Completion) : Steady b c (putRecord s r pos image).ctl := by
  unfold putRecord
  exact raiseVector_steady (h.of_eq (by rw [hostWrite_ctl, hostWrite_ctl])) _

theorem postReports_steady (h : Steady b c s.ctl) : Steady b c (postReports s).ctl := by
  unfold postReports
  split
  · exact h
  · refine Steady.foldl (fun t e ht => Steady.foldl (fun u m hu => ?_) _ ht) _ h
    exact (putRecord_steady hu _ _ _).of_eq ((settleFrame_ctl ..).trans (clearWait_ctl ..))

theorem diverged_steady (h : Steady b c s.ctl) (w old seq) : Steady b c (diverged s w old seq).ctl := by
  unfold diverged
  refine Steady.foldl (fun _ _ ht => retireTile_steady ht _) _ ?_
  refine Steady.foldl (fun _ _ ht => logFault_steady ht _ _ _ _ _ _) _ ?_
  exact h.of_eq (addReg_ctl ..)

theorem countLost_steady (h : Steady b c s.ctl) (st ctx detail) : Steady b c (countLost s st ctx detail).ctl := by
  unfold countLost
  grind [logFault_steady, addReg_ctl]

theorem commitFrame_steady (h : Steady b c s.ctl) (k j w st outs) : Steady b c (commitFrame s k j w st outs).ctl := by
  unfold commitFrame
  grind [encodeEnd_ctl, decodeEnd_ctl, keepState_ctl, encodeFailed_ctl, decodeFailed_ctl, mirrorState_ctl, dropWork_ctl, putFrame_ctl,
    toMirror_ctl, setReg_ctl, addReg_ctl, countLost_steady, releaseOutput_steady, postReports_steady, deliverVectors_ctl, settleFrame_ctl,
    settleStop_ctl]

theorem finishJob_steady (h : Steady b c s.ctl) (e) : Steady b c (finishJob s e).ctl := by
  have write (l : List (Nat × List Byte × Nat)) {t : State} (ht : Steady b c t.ctl) :
      Steady b c (l.foldl (fun s w => { s with mem := Memory.zero (s.mem.write w.1 w.2.1) (w.1 + w.2.1.length) w.2.2 }) t).ctl :=
    Steady.foldl (fun _ _ h' => by exact h') _ ht
  unfold finishJob
  grind [addReg_ctl, countLost_steady, setJobState_ctl]

theorem commitJobFrame_steady (h : Steady b c s.ctl) (e i w st outs) : Steady b c (commitJobFrame s e i w st outs).ctl := by
  unfold commitJobFrame
  grind [dropWork_ctl, releaseRange_ctl, finishJob_steady, diverged_steady, putJob_ctl]

theorem cancelFrame_steady (h : Steady b c s.ctl) (w) : Steady b c (cancelFrame s w).ctl := by
  unfold cancelFrame
  grind [commitFrame_steady]

theorem commitWork_steady (h : Steady b c s.ctl) (work) : Steady b c (commitWork s work).ctl := by
  unfold commitWork
  split
  · exact h
  · next w hw =>
    split
    · exact h
    · split
      · split
        · exact cancelFrame_steady h _
        · exact h
      · extract_lets st s1 outs total st1 st2
        have h1 : Steady b c s1.ctl := by
          unfold s1
          grind [formOutput_ctl]
        split
        · refine commitFrame_steady ?_ _ _ _ _ _
          split
          · exact diverged_steady h1 _ _ _
          · exact h1
        · split
          · refine commitJobFrame_steady ?_ _ _ _ _ _
            split
            · exact diverged_steady h1 _ _ _
            · exact h1
          · exact h1

theorem postJob_steady (h : Steady b c s.ctl) (r) : Steady b c (postJob s r).ctl := by
  have write (l : List (Nat × List Byte × Nat)) {t : State} (ht : Steady b c t.ctl) :
      Steady b c (l.foldl (fun s w => hostWrite s w.1 (w.2.1 ++ List.replicate w.2.2 0)) t).ctl :=
    Steady.foldl (fun t w h' => h'.of_eq (hostWrite_ctl ..)) _ ht
  have release (l : List (Nat × Nat × Nat)) {t : State} (ht : Steady b c t.ctl) :
      Steady b c (l.foldl (fun s x => releaseRange s x.1) t).ctl := Steady.foldl (fun _ _ h' => by exact h') _ ht
  unfold postJob
  grind [putRecord_steady, setJobState_ctl, putRing_ctl]

theorem releaseAgain_steady (h : Steady b c s.ctl) : Steady b c (releaseAgain s).ctl := by
  unfold releaseAgain
  refine Steady.foldl (fun _ _ ht => deliverFlow_steady ht _) _ ?_
  exact Steady.foldl (fun _ _ ht => Steady.foldl (fun t _ h' => rewriteHeld_ctl t _ _ ▸ h') _ ht) _ h

theorem replayAll_steady (h : Steady b c s.ctl) : Steady b c (replayAll s).ctl := by
  unfold replayAll
  refine logFault_steady ?_ _ _ _ _ _ _
  rw [addReg_ctl]
  exact releaseAgain_steady (Steady.foldl (fun t _ ht => restartWork_ctl t _ ▸ ht) _ h)

theorem startMigration_steady (h : Steady b c s.ctl) (k why) : Steady b c (startMigration s k why).ctl := by
  unfold startMigration
  grind [logFault_steady, setReg_ctl]

theorem retireStack_steady (h : Steady b c s.ctl) (k) : Steady b c (retireStack s k).ctl := by
  unfold retireStack
  grind [setReg_ctl, startMigration_steady]

theorem endMigration_steady (h : Steady b c s.ctl) (k) : Steady b c (endMigration s k).ctl := by
  unfold endMigration
  grind [setReg_ctl, addJournal_steady, logFault_steady, loseCopy_ctl]

theorem rebuiltCopy_steady (h : Steady b c s.ctl) : Steady b c (rebuiltCopy s).ctl := by
  unfold rebuiltCopy
  grind [logFault_steady, setReg_ctl]

theorem spareRow_steady (h : Steady b c s.ctl) (k row) : Steady b c (spareRow s k row).ctl := by
  unfold spareRow
  grind [startMigration_steady, addReg_ctl, logFault_steady]

theorem uncorrectError_steady (h : Steady b c s.ctl) (k row a) : Steady b c (uncorrectError s k row a).ctl := by
  unfold uncorrectError
  grind [logFault_steady, addReg_ctl, hitMemory_ctl, noteErrors_ctl]

theorem dropMirror_steady (h : Steady b c s.ctl) (st) : Steady b c (dropMirror s st).ctl := by
  unfold dropMirror
  exact Steady.foldl (fun _ _ ht => unhold_steady ht _ _ _) _ h

theorem writeMirrorPeer_steady (h : Steady b c s.ctl) (v) : Steady b c (writeMirrorPeer s v).ctl := by
  unfold writeMirrorPeer
  grind [setReg_ctl, dropMirror_steady, startMirror_ctl]

theorem unprotectMirror_steady (h : Steady b c s.ctl) : Steady b c (unprotectMirror s).ctl := by
  unfold unprotectMirror
  grind [dropMirror_steady, logFault_steady]

theorem ackMirror_steady (h : Steady b c s.ctl) : Steady b c (ackMirror s).ctl := by
  unfold ackMirror
  grind [unhold_steady, setReg_ctl, logFault_steady]

theorem ackMessage_steady (h : Steady b c s.ctl) (peer flow msg) : Steady b c (ackMessage s peer flow msg).ctl := by
  unfold ackMessage
  dsimp only
  split
  · split
    · exact ackMirror_steady h
    · exact h
  · split
    · split <;> exact h
    · split
      · exact Steady.foldl (fun t _ ht => ackHeld_ctl t _ _ ▸ ht) _ h
      · exact h

theorem takeRestored_steady (h : Steady b c s.ctl) (i) : Steady b c (takeRestored s i).ctl := by
  unfold takeRestored
  grind [storeBytes_ctl, setBlob_ctl, Steady.same]

theorem faultPort_steady (h : Steady b c s.ctl) (port) : Steady b c (faultPort s port).ctl := by
  unfold faultPort
  grind [silencePort_ctl, logFault_steady, setReg_ctl]

theorem umpireRelease_steady (h : Steady b c s.ctl) (k j) : Steady b c (umpireRelease s k j).ctl := by
  unfold umpireRelease
  grind [unhold_steady, settleFrame_ctl, postReports_steady, clearWait_ctl]

theorem comparedOk_steady (h : Steady b c s.ctl) (k j) : Steady b c (comparedOk s k j).ctl := by
  unfold comparedOk
  grind [umpireRelease_steady]

theorem releaseHeld_steady (h : Steady b c s.ctl) (es) : Steady b c (releaseHeld s es).ctl := by
  unfold releaseHeld
  exact Steady.foldl (fun _ _ ht => umpireRelease_steady ht _ _) _ h

theorem markMismatch_steady (h : Steady b c s.ctl) (k j) : Steady b c (markMismatch s k j).ctl := by
  unfold markMismatch
  grind [postReports_steady, clearWait_ctl, putFrame_ctl]

theorem noteMismatch_steady (h : Steady b c s.ctl) (r rs) : Steady b c (noteMismatch s r rs).ctl := by
  unfold noteMismatch
  refine emits_steady (fun _ p => .haltNotice p r.ctx r.frame) _ (logFault_steady ?_ _ _ _ _ _ _)
  exact h.of_eq (by rw [setBlob_ctl, addReg_ctl])

theorem applyMajority_steady (h : Steady b c s.ctl) (r rs released) : Steady b c (applyMajority s r rs released).ctl := by
  unfold applyMajority
  grind [setUmpireState_ctl, leaveTrio_ctl, comparedOk_steady, dueHalt_ctl, markMismatch_steady]

theorem comparePairs_steady (h : Steady b c s.ctl) (r rs fresh) : Steady b c (comparePairs s r rs fresh).ctl := by
  unfold comparePairs
  refine Steady.foldl (fun _ _ ht => noteMismatch_steady ht _ _) _ ?_
  exact h.of_eq (addReg_ctl ..)

theorem compareOne_steady (h : Steady b c s.ctl) (r) : Steady b c (compareOne s r).ctl := by
  unfold compareOne
  grind [comparePairs_steady, dropCompared_ctl, applyMajority_steady, comparedOk_steady, markMismatch_steady, dueHalt_ctl]

theorem compareAll_steady (h : Steady b c s.ctl) : Steady b c (compareAll s).ctl := by
  unfold compareAll
  exact Steady.foldl (fun _ _ ht => compareOne_steady ht _) _ h

theorem sendCards_steady (h : Steady b c s.ctl) : Steady b c (sendCards s).ctl := by
  have send (ps : List Nat) (cards : List CardRecord) {t : State} (ht : Steady b c t.ctl) := emits_steady (fun _ p => .cards p cards) ps ht
  unfold sendCards
  extract_lets state cards t mine f g
  split
  · refine compareAll_steady ?_
    exact send _ _ h
  · exact h

theorem takeCards_steady (h : Steady b c s.ctl) (p records) : Steady b c (takeCards s p records).ctl := by
  unfold takeCards
  grind [compareAll_steady]

theorem discardHeld_steady (h : Steady b c s.ctl) (k j) : Steady b c (discardHeld s k j).ctl := by
  unfold discardHeld
  grind [putFrame_ctl, settleFrame_ctl, postReports_steady]

theorem stopUmpire_steady (h : Steady b c s.ctl) : Steady b c (stopUmpire s).ctl := by
  unfold stopUmpire
  split
  · exact h
  · refine Steady.foldl (fun t k ht => ?_) _ ?_
    · split
      · refine Steady.foldl (fun _ _ h' => discardHeld_steady h' _ _) _ ?_
        exact ht.of_eq (putCtx_ctl ..)
      · exact ht
    · exact h.of_eq (setUmpireState_ctl s (afterHalt s))

theorem resumeUmpire_steady (h : Steady b c s.ctl) : Steady b c (resumeUmpire s).ctl := by
  unfold resumeUmpire
  grind [releaseHeld_steady, unhaltMarked_ctl, setUmpireState_ctl]

theorem losePartner_steady (h : Steady b c s.ctl) (p) : Steady b c (losePartner s p).ctl := by
  unfold losePartner
  grind [leaveTrio_ctl, compareAll_steady, setUmpireState_ctl, releaseHeld_steady, unhaltMarked_ctl]

theorem noteReasons_steady (h : Steady b c s.ctl) : Steady b c (noteReasons s).ctl := by
  unfold noteReasons
  refine Steady.foldl (fun t r ht => ?_) _ h
  grind [setReg_ctl, logFault_steady]

theorem readRail_steady (h : Steady b c s.ctl) (r) : Steady b c (readRail s r).ctl := by
  unfold readRail
  grind [setBlob_ctl, putDie_ctl, breachDie_ctl, logFault_steady]

theorem tripThermal_steady (h : Steady false c s.ctl) (unit) : Steady false c (tripThermal s unit).ctl := by
  unfold tripThermal
  split
  · exact h
  · exact ⟨nofun, h.log, h.journal⟩

theorem warnRail_steady (h : Steady b c s.ctl) (rail status) : Steady b c (warnRail s rail status).ctl := by
  unfold warnRail
  grind [logFault_steady, putDie_ctl]

theorem loseRail_steady (h : Steady false c s.ctl) (rail) : Steady false c (loseRail s rail).ctl := by
  unfold loseRail
  split
  · exact h
  · obtain ⟨-, hlog, hjournal⟩ := logFault_steady h 0x0302 1 0 0 0xFFFF rail
    exact ⟨nofun, hlog, hjournal⟩

theorem takeCap_steady (h : Steady b c s.ctl) (old) : Steady b c (takeCap s old).ctl := by
  unfold takeCap
  grind [setReg_ctl, logFault_steady]

theorem takeSettings_steady (h : Steady b c s.ctl) : Steady b c (takeSettings s).ctl := by
  unfold takeSettings
  grind [pruneOffers_steady]

theorem moveRole_steady (h : Steady b c s.ctl) (m) : Steady b c (moveRole s m).ctl := by
  unfold moveRole
  refine Steady.of_eq (logFault_steady ?_ _ _ _ _ _ _) (replayWorks_ctl ..)
  exact h.same rfl rfl rfl

theorem moveRoles_steady (h : Steady b c s.ctl) : Steady b c (moveRoles s).ctl := by
  unfold moveRoles
  exact Steady.foldl (fun _ _ ht => moveRole_steady ht _) _ (h.same rfl rfl rfl)

theorem retireDue_steady (h : Steady b c s.ctl) : Steady b c (retireDue s).ctl := by
  unfold retireDue
  refine Steady.foldl (fun t u ht => ?_) _ (h.same rfl rfl rfl)
  grind [retireTile_steady, retireLane_steady, retireUnit_steady]

theorem takeOver_steady (h : Steady b c s.ctl) : Steady b c (takeOver s).ctl := by
  unfold takeOver
  split
  · exact h
  · dsimp only
    split
    · exact h.same rfl rfl rfl
    · refine Steady.of_eq (retireDue_steady (logFault_steady ?_ _ _ _ _ _ _)) (replayWorks_ctl ..)
      exact h.same rfl rfl rfl

theorem limitLag_steady (h : Steady b c s.ctl) (k) : Steady b c (limitLag s k).ctl := by
  unfold limitLag
  grind [logFault_steady, setReg_ctl]

theorem cutJob_steady (h : Steady b c s.ctl) (e) : Steady b c (cutJob s e).ctl := by
  unfold cutJob
  grind [finishJob_steady, putJob_ctl]

theorem issuePart_ctl {e : JobEntry} {t : State} (ht : issuePart s e = some t) : t.ctl = s.ctl :=
  Kept.ctl_eq (issuePart_keeps s e t ht) rfl

theorem issueJob_steady : ∀ (fuel : Nat) {s : State}, Steady b c s.ctl → ∀ ring pos, Steady b c (issueJob fuel s ring pos).1.ctl
  | 0, _, h, _, _ => h
  | fuel + 1, s, h, ring, pos => by
    unfold issueJob
    split
    · exact h
    · split
      · exact h
      · split
        · exact h
        · split
          · exact cutJob_steady h _
          · split
            · exact h
            · next t ht => exact issueJob_steady fuel (issuePart_ctl ht ▸ h) _ _

theorem issueClass_steady : ∀ (es : List JobEntry) {s : State}, Steady b c s.ctl → Steady b c (issueClass es s).ctl
  | [], _, h => h
  | e :: r, s, h => by
    have hj := issueJob_steady (jobParts e.job + 1) h e.ring e.pos
    unfold issueClass
    split
    · next t ht => exact issueClass_steady r (by simpa [ht] using hj)
    · next t ht => simpa [ht] using hj

theorem issueJobs_steady (h : Steady b c s.ctl) : Steady b c (issueJobs s).ctl := by
  unfold issueJobs
  extract_lets s1 s2
  have h1 : Steady b c s1.ctl := Steady.foldl (fun t p ht => issueClass_steady _ ht) _ h
  split
  · exact h1
  · exact issueClass_steady _ (h1.of_eq (resumeBulk_ctl ..))

theorem closeRound_steady (h : Steady b c s.ctl) (cap) : Steady b c (closeRound s cap).ctl := by
  have flush (ks : List Nat) {t : State} (ht : Steady b c t.ctl) : Steady b c (ks.foldl flushDecoder t).ctl :=
    Steady.foldl (fun t k h' => flushDecoder_ctl t k ▸ h') _ ht
  unfold closeRound
  grind [moveRoles_steady, carryRound_ctl, takeCap_steady, setReg_ctl, releaseCharges_ctl, takeStops_ctl, haltMarked_ctl, sendCards_steady,
    tickOutputs_ctl]

theorem issueRound_steady (h : Steady b c s.ctl) : Steady b c (issueRound s).ctl := by
  unfold issueRound
  grind [deliverAll_ctl, issueJobs_steady, issueDue_ctl, setReg_ctl, releaseWindows_ctl, finishUnload_steady]

theorem takeEffects_steady (h : Steady b c s.ctl) : Steady b c (takeEffects s).ctl := by
  unfold takeEffects
  grind [switchesAtTick_ctl, filterAtTick_ctl, tablesAtTick_steady]

theorem runRound_steady (h : Steady b c s.ctl) (cap) : Steady b c (runRound s cap).ctl := by
  unfold runRound
  grind [takeEffects_steady, closeRound_steady, issueRound_steady, countGap_ctl, countMissing_ctl, offerTick_ctl, raiseVector_steady]

theorem tickOver_steady (h : Steady b c s.ctl) : Steady b c (tickOver s).ctl := by
  unfold tickOver
  grind [selectSource_steady, slewTime_ctl, takeSettings_steady, nextTick_ctl, countReasons_ctl, takeOver_steady, noteReasons_steady,
    runRound_steady]

theorem takeReset_steady (h : Steady b c s.ctl) (k) : Steady b c (takeReset s k).ctl := by
  unfold takeReset
  grind [setBlob_ctl, setReg_ctl, logFault_steady]

theorem takeJob_steady (h : Steady b c s.ctl) (r) : Steady b c (takeJob s r).ctl := by
  unfold takeJob
  grind [setReg_ctl, putRing_ctl, finishJob_steady, mirrorJob_ctl]

theorem takeJobs_steady : ∀ (fuel : Nat) {s : State}, Steady b c s.ctl → ∀ r top, Steady b c (takeJobs fuel s r top).ctl
  | 0, _, h, _, _ => h
  | fuel + 1, s, h, r, top => by
    unfold takeJobs
    split
    · exact takeJobs_steady fuel (takeJob_steady h r) r top
    · exact h

theorem passRing_steady (h : Steady b c s.ctl) (failed r) : Steady b c (passRing failed s r).ctl := by
  unfold passRing
  grind [logFault_steady, freeJobs_ctl, putRing_ctl, showIndex_ctl, takeJobs_steady]

theorem passInput_steady (h : Steady b c s.ctl) (r k) : Steady b c (passInput s r k).ctl := by
  unfold passInput
  grind [takeSlots_ctl, raiseVector_steady, hostWrite_ctl]

theorem passSring_steady (h : Steady b c s.ctl) (failed r) : Steady b c (passSring failed s r).ctl := by
  unfold passSring
  grind [logFault_steady, passOutput_ctl, passInput_steady]

theorem sendVectors_steady (h : Steady b c s.ctl) : Steady b c (sendVectors s).ctl := by
  exact h.same rfl rfl rfl

theorem servicePass_steady (h : Steady b c s.ctl) (failed) : Steady b c (servicePass s failed).ctl := by
  have rings {t : State} (ht : Steady b c t.ctl) : Steady b c ((List.range 16).foldl (passRing failed) t).ctl :=
    Steady.foldl (fun _ _ h' => passRing_steady h' _ _) _ ht
  have streams {t : State} (ht : Steady b c t.ctl) : Steady b c ((List.range 64).foldl (passSring failed) t).ctl :=
    Steady.foldl (fun _ _ h' => passSring_steady h' _ _) _ ht
  unfold servicePass
  split
  · split
    · exact sendVectors_steady h
    · exact h
  · refine sendVectors_steady (postReports_steady (Steady.foldl (fun _ _ h' => deliverFlow_steady h' _) _ ?_))
    grind

theorem writeBar2_steady (h : Steady b c s.ctl) (a bs) : Steady b c (writeBar2 s a bs).ctl := by
  unfold writeBar2
  grind [logFault_steady]

theorem hotReset_steady (h : Steady b c s.ctl) : Steady b c (hotReset s).ctl := by
  unfold hotReset
  refine takeReset_steady ?_ _
  exact h.same rfl rfl rfl

theorem dmaError_steady (h : Steady b c s.ctl) (work) : Steady b c (dmaError s work).ctl := by
  unfold dmaError
  grind [finishJob_steady, dropJobWorks_ctl]

theorem heartbeat_steady (h : Steady b c s.ctl) (arrived) : Steady b c (heartbeat s arrived).ctl := by
  unfold heartbeat
  grind [Steady.same]

theorem startTakeover_steady (h : Steady b c s.ctl) : Steady b c (startTakeover s).ctl := by
  unfold startTakeover
  grind [Steady.same]

theorem failCore_steady (h : Steady b c s.ctl) (die core) : Steady b c (failCore s die core).ctl := by
  unfold failCore
  split
  · exact h
  · dsimp only
    split
    · exact h.same rfl rfl rfl
    · refine Steady.foldl (fun _ _ ht => by exact ht.same rfl rfl rfl) _ ?_
      exact h.same rfl rfl rfl

theorem noteGroupWait_steady (h : Steady b c s.ctl) (g ranks entries) : Steady b c (noteGroupWait s g ranks entries).ctl := by
  unfold noteGroupWait
  grind [setBlob_ctl, addReg_ctl, logFault_steady]

theorem noteCollWait_steady (h : Steady b c s.ctl) (work times) : Steady b c (noteCollWait s work times).ctl := by
  unfold noteCollWait
  split
  · exact h
  · split
    · exact noteGroupWait_steady h _ _ _
    · exact h

theorem runCollective_steady (h : Steady b c s.ctl) (work i op e) : Steady b c (runCollective s work i op e).ctl := by
  unfold runCollective
  grind [endCollective_ctl, sendCollective_ctl, noteCollWait_steady]

theorem passBarrier_steady (h : Steady b c s.ctl) (g n entries) : Steady b c (passBarrier s g n entries).ctl := by
  unfold passBarrier
  grind [noteGroupWait_steady]

theorem losePeer_steady (h : Steady b c s.ctl) (p) : Steady b c (losePeer s p).ctl := by
  unfold losePeer
  grind [losePartner_steady, logFault_steady, addReg_ctl]

theorem regainPeer_steady (h : Steady b c s.ctl) (p) : Steady b c (regainPeer s p).ctl := by
  unfold regainPeer
  grind [logFault_steady, startMirror_ctl]

theorem noteReverted_steady (h : Steady b c s.ctl) (w) : Steady b c (noteReverted s w).ctl := by
  exact h.same rfl rfl rfl

theorem loseAll_steady (h : Steady b c s.ctl) : Steady b c (loseAll s).ctl := by
  exact ⟨fun _ hc => h.phase ‹_› hc, fun _ => Nat.zero_le _, h.journal⟩

theorem powerUp_steady (h : Steady false c s.ctl) (vstbyHeld) : Steady false c (powerUp s vstbyHeld).ctl := by
  unfold powerUp
  split
  · exact h
  · extract_lets s1 off
    have hl : Steady false c s1.ctl := by
      unfold s1
      split
      · exact h
      · exact loseAll_steady h
    split <;> exact ⟨nofun, hl.log, hl.journal⟩

theorem abandonStart_steady (h : Steady b c s.ctl) : Steady b c (abandonStart s).ctl := by
  unfold abandonStart
  exact Steady.foldl (fun _ _ ht => addJournal_steady ht _ _ _ _ _) _ h

theorem assertPerst_steady (h : Steady false c s.ctl) : Steady false c (assertPerst s).ctl := by
  unfold assertPerst
  split
  · exact h
  · exact ⟨nofun, (abandonStart_steady h).log, (abandonStart_steady h).journal⟩

theorem loseVolatile_steady (h : Steady b c s.ctl) : Steady b c (loseVolatile s).ctl := by
  unfold loseVolatile
  extract_lets t now f ctl fabric empty g u
  have hu : Steady b c (restartClock (resumeCopies s u) now).ctl := by
    rw [restartClock_ctl, resumeCopies_ctl]
    exact h.same rfl rfl rfl
  exact hu.of_eq ((resumeCtxs_ctl ..).trans (abandonCommands_ctl ..))

theorem releasePerst_steady (h : Steady false c s.ctl) (vmemHeld) : Steady false c (releasePerst s vmemHeld).ctl := by
  have hv := loseVolatile_steady h
  have hl : Steady false c (settleCopies (loseAll s)).ctl := (loseAll_steady h).of_eq (settleCopies_ctl ..)
  unfold releasePerst
  split
  · exact h
  · extract_lets kind f g t off k u
    split
    · refine takeReset_steady ?_ _
      exact ⟨nofun, hv.log, hv.journal⟩
    · refine takeReset_steady ?_ _
      have hu : Steady false c u.ctl := ⟨nofun, hl.log, hl.journal⟩
      split
      · exact hu
      · exact hu

theorem warmReset_steady (h : Steady b c s.ctl) : Steady b c (warmReset s).ctl := by
  unfold warmReset
  split
  · exact h
  · next hs =>
    have hservice : s.ctl.phase = .service := by
      simp only [inService] at hs
      simp_all
    have hv : Steady b c (loseVolatile (resetStatus (abandonStart s) stOk)).ctl := loseVolatile_steady (abandonStart_steady h)
    refine takeReset_steady ?_ 3
    exact ⟨fun hb hc => absurd (h.phase hb hc ▸ hservice) hc, hv.log, hv.journal⟩

theorem stopDie_steady (h : Steady b c s.ctl) (d) : Steady b c (stopDie s d).ctl := by
  unfold stopDie
  extract_lets f s1 s2 onDie wipe s3
  have h1 : Steady b c s1.ctl := by
    refine takeReset_steady ?_ _
    exact h.same rfl rfl rfl
  have h2 : Steady b c s2.ctl := logFault_steady h1 _ _ _ _ _ _
  exact h2.of_eq (replayWorks_ctl ..)

theorem recoverDie_steady (h : Steady b c s.ctl) (d) : Steady b c (recoverDie s d).ctl := by
  unfold recoverDie
  split
  · exact h.same rfl rfl rfl
  · exact stopDie_steady h _

theorem dieCommand_steady (h : Steady b c s.ctl) : Steady b c (dieCommand s).ctl := by
  unfold dieCommand
  grind [resetStatus_ctl, recoverDie_steady]

theorem leavePark_steady (h : Steady b c s.ctl) : Steady b c (leavePark s).ctl := by
  unfold leavePark
  grind [resetStatus_ctl, takeReset_steady, setReg_ctl]

theorem readmit_steady (h : Steady b c s.ctl) (v) : Steady b c (readmit s v).ctl := by
  unfold readmit
  grind [setReg_ctl, Steady.same]

theorem clearReverted_steady (h : Steady b c s.ctl) : Steady b c (clearReverted s).ctl := by
  exact h.same rfl rfl rfl

/-! ### The steps of a start, which may change the phase -/

theorem Steady.foldl_fst {α : Type} {f : State × Bool → α → State × Bool} (hf : ∀ acc a, Steady b c acc.1.ctl → Steady b c (f acc a).1.ctl) :
    ∀ (l : List α) {acc : State × Bool}, Steady b c acc.1.ctl → Steady b c (l.foldl f acc).1.ctl
  | [], _, h => h
  | a :: l, _, h => Steady.foldl_fst hf l (hf _ a h)

section
variable {acc : State × Bool} {act : State → StepEnd} {f : Nat → State × Bool → State × Bool}

theorem runUnitWith_steady (hact : ∀ t, Steady false c t.ctl → Steady false c (act t).1.ctl) (h : Steady false c acc.1.ctl)
    (detail found step kind unit name) : Steady false c (runUnitWith detail found step kind unit name act acc).1.ctl := by
  unfold runUnitWith
  split
  · exact h
  · extract_lets s0 s1 s2
    have h2 : Steady false c s2.ctl := by
      refine addJournal_steady (s := s1) ?_ _ _ _ _ _
      unfold s1
      split <;> exact h
    split
    · exact h2
    · have h3 := hact s2 h2
      generalize act s2 = r at h3
      obtain ⟨s3, passed, stop⟩ := r
      dsimp -zeta only
      extract_lets s4 s5
      have h4 : Steady false c s4.ctl := by
        unfold s4
        split <;> exact addJournal_steady h3 _ _ _ _ _
      have h5 : Steady false c s5.ctl := by
        unfold s5
        split
        · exact h4
        · exact logFault_steady h4 _ _ _ _ _ _
      dsimp only
      split
      · exact ⟨nofun, h5.log, h5.journal⟩
      · exact h5

theorem runUnit_steady (hact : ∀ t, Steady false c t.ctl → Steady false c (act t).1.ctl) (h : Steady false c acc.1.ctl)
    (found step kind unit name) : Steady false c (runUnit found step kind unit name act acc).1.ctl := runUnitWith_steady hact h _ _ _ _ _ _

theorem runUnits_steady (hf : ∀ u acc, Steady false c acc.1.ctl → Steady false c (f u acc).1.ctl) (h : Steady false c acc.1.ctl)
    (units : List Nat) : Steady false c (runUnits f units acc).1.ctl :=
  Steady.foldl_fst (fun _ u ha => by split <;> [exact ha; exact hf u _ ha]) units h

theorem noteUnit_steady (h : Steady b c acc.1.ctl) (step kind unit event detail) :
    Steady b c (noteUnit step kind unit event detail acc).1.ctl := by
  unfold noteUnit
  split
  · exact h
  · exact addJournal_steady h _ _ _ _ _

theorem stepClusters_steady (h : Steady false c acc.1.ctl) (found prev) : Steady false c (stepClusters found prev acc).1.ctl := by
  unfold stepClusters
  extract_lets order one acc'
  have ha : Steady false c acc'.1.ctl := by
    refine runUnits_steady (fun u acc h' => runUnit_steady (fun t ht => ?_) h' _ _ _ _ _) h _
    exact ht.same rfl rfl rfl
  split
  · exact ha
  · split
    · exact ha.same rfl rfl rfl
    · exact ⟨nofun, ha.log, ha.journal⟩

theorem stepManifest_steady (h : Steady false c acc.1.ctl) (found prev) : Steady false c (stepManifest found prev acc).1.ctl := by
  refine runUnit_steady (fun t ht => ?_) h _ _ _ _ _
  dsimp only
  split
  · exact (logFault_steady ht _ _ _ _ _ _).same rfl rfl rfl
  · exact ht.same rfl rfl rfl

theorem stepSupplies_steady (h : Steady false c acc.1.ctl) (found prev) : Steady false c (stepSupplies found prev acc).1.ctl := by
  unfold stepSupplies
  refine runUnit_steady (fun t ht => ?_) ?_ _ _ _ _ _
  · grind [sendTables_ctl]
  · grind [noteUnit_steady]

theorem deriveIdentity_steady (h : Steady b c s.ctl) : Steady b c (deriveIdentity s).ctl := by
  exact h.same rfl rfl rfl

theorem stepIdentity_steady (h : Steady false c acc.1.ctl) (found prev) : Steady false c (stepIdentity found prev acc).1.ctl := by
  unfold stepIdentity
  split
  · exact noteUnit_steady h _ _ _ _ _
  · refine runUnit_steady (fun t ht => ?_) h _ _ _ _ _
    grind [setReg_ctl, logFault_steady, deriveIdentity_steady]

theorem stepBridges_steady (h : Steady false c acc.1.ctl) (found prev units) : Steady false c (stepBridges found prev units acc).1.ctl := by
  refine runUnits_steady (fun b acc ha => runUnit_steady (fun t ht => ht.same rfl rfl rfl) ?_ _ _ _ _ _) h _
  split
  · exact noteUnit_steady ha _ _ _ _ _
  · exact ha

theorem exclude_steady (h : Steady b c s.ctl) (kind unit) : Steady b c (exclude s kind unit).ctl := by
  unfold exclude
  grind [Steady.same]

theorem noteSkipped_steady (h : Steady false c acc.1.ctl) (step mine) : Steady false c (noteSkipped step mine acc).1.ctl :=
  Steady.foldl_fst (fun _ _ ha => noteUnit_steady ha _ _ _ _ _) _ h

theorem mapOut_steady (h : Steady b c s.ctl) (step k) : Steady b c (mapOut s step k).ctl := by
  unfold mapOut
  grind [addJournal_steady, setReg_ctl, loseCopy_ctl, logFault_steady]

theorem readmitStack_steady (h : Steady b c s.ctl) (k) : Steady b c (readmitStack s k).ctl := by
  unfold readmitStack
  split
  · refine addJournal_steady ?_ _ _ _ _ _
    exact h.same rfl rfl rfl
  · exact h

theorem stepStacks_steady (h : Steady false c acc.1.ctl) (found prev units) : Steady false c (stepStacks found prev units acc).1.ctl := by
  refine runUnits_steady (fun k acc ha => ?_) h _
  extract_lets acc1
  have h1 : Steady false c acc1.1.ctl := by grind [readmitStack_steady]
  split
  · exact noteUnit_steady h1 _ _ _ _ _
  · refine runUnit_steady (fun t ht => ?_) ?_ _ _ _ _ _
    · grind [mapOut_steady]
    · grind [noteUnit_steady]

theorem spareTested_steady (h : Steady b c s.ctl) (k row) : Steady b c (spareTested s k row).ctl := by
  unfold spareTested
  grind [addReg_ctl, logFault_steady]

theorem stepStackTest_steady (h : Steady false c acc.1.ctl) (found prev) : Steady false c (stepStackTest found prev acc).1.ctl := by
  refine runUnits_steady (fun k acc ha => ?_) h _
  split
  · exact ha
  · refine runUnit_steady (fun t ht => ?_) ?_ _ _ _ _ _
    · dsimp only
      split
      · exact mapOut_steady ht _ _
      · exact Steady.foldl (fun _ _ h' => spareTested_steady h' _ _) _ ht
    · grind [noteUnit_steady]

theorem outTile_steady (h : Steady b c s.ctl) (t) : Steady b c (outTile s t).ctl := by
  unfold outTile
  grind [exclude_steady, retireTile_steady]

theorem reportTile_steady (h : Steady b c s.ctl) (found t) : Steady b c (reportTile found s t).ctl := by
  unfold reportTile
  grind [outTile_steady, addJournal_steady]

theorem stepTiles_steady (h : Steady false c acc.1.ctl) (found prev d) : Steady false c (stepTiles found prev d acc).1.ctl := by
  unfold stepTiles
  split
  · exact h
  · extract_lets acc1 hung acc2 acc3
    have h1 : Steady false c acc1.1.ctl := noteSkipped_steady h _ _
    have h2 : Steady false c acc2.1.ctl := Steady.foldl (fun _ _ ht => logFault_steady (outTile_steady ht _) _ _ _ _ _ _) _ h1
    split
    · refine runUnits_steady (fun t acc ha => runUnitWith_steady (fun u hu => ?_) ha _ _ _ _ _ _) (noteUnit_steady h2 _ _ _ _ _) _
      grind [outTile_steady]
    · exact runUnit_steady (fun t ht => Steady.foldl (fun _ _ h' => reportTile_steady h' _ _) _ ht) h2 _ _ _ _ _

theorem retireFine_steady (h : Steady b c s.ctl) (u) : Steady b c (retireFine s u).ctl := by
  unfold retireFine
  grind [exclude_steady, retireLane_steady, retireUnit_steady]

theorem stepUnits_steady (h : Steady false c acc.1.ctl) (found prev d) : Steady false c (stepUnits found prev d acc).1.ctl := by
  unfold stepUnits
  split
  · exact h
  · extract_lets acc1 us acc2
    have h1 : Steady false c acc1.1.ctl := noteSkipped_steady h _ _
    split
    · refine Steady.foldl_fst (fun acc u ha => runUnit_steady (fun t ht => ?_) ha _ _ _ _ _) _ (noteUnit_steady h1 _ _ _ _ _)
      grind [retireFine_steady]
    · exact runUnit_steady (fun t ht => Steady.foldl (fun _ _ h' => retireFine_steady h' _) _ ht) h1 _ _ _ _ _

theorem stepTables_steady (h : Steady false c acc.1.ctl) (found) : Steady false c (stepTables found acc).1.ctl :=
  runUnit_steady (fun _ ht => ht) h _ _ _ _ _

theorem stepPorts_steady (h : Steady false c acc.1.ctl) (found) : Steady false c (stepPorts found acc).1.ctl := by
  refine runUnits_steady (fun p acc ha => ?_) h _
  split
  · exact ha
  · exact runUnit_steady (fun _ ht => ht) ha _ _ _ _ _

theorem stepLink_steady (h : Steady false c acc.1.ctl) (found prev i) : Steady false c (stepLink found prev i acc).1.ctl := by
  unfold stepLink
  split
  · exact h
  · extract_lets s back f s1 low acc1
    have h1 : Steady false c s1.ctl := by
      unfold s1
      split
      · refine addJournal_steady ?_ _ _ _ _ _
        exact h.same rfl rfl rfl
      · exact h
    split
    · exact h1.of_eq (setLinkState_ctl ..)
    · split
      · refine noteUnit_steady ?_ _ _ _ _ _
        exact h1.of_eq (setLinkState_ctl ..)
      · have h2 : Steady false c acc1.1.ctl := by grind [noteUnit_steady]
        refine runUnit_steady (fun t ht => ?_) h2 _ _ _ _ _
        extract_lets bad _ _ t1 fresh
        split
        · refine logFault_steady (addJournal_steady ?_ _ _ _ _ _) _ _ _ _ _ _
          exact (ht.of_eq (setLinkState_ctl t i 0)).same rfl rfl rfl
        · exact ht.of_eq ((setLinkState_ctl ..).trans (putLink_ctl ..))

theorem stepDiscovery_steady (h : Steady false c acc.1.ctl) (found) : Steady false c (stepDiscovery found acc).1.ctl :=
  runUnit_steady (fun t ht => countReachable_ctl _ ▸ findRoot_steady ht) h _ _ _ _ _

theorem loseJournal_steady (h : Steady b c s.ctl) : Steady b c (loseJournal s).ctl := by
  unfold loseJournal
  grind [logFault_steady, setReg_ctl]

theorem stepScorebook_steady (h : Steady false c acc.1.ctl) (found cold) : Steady false c (stepScorebook found cold acc).1.ctl := by
  refine runUnit_steady (fun t ht => ?_) h _ _ _ _ _
  have hr : Steady false c (replayAll { t with carried := !t.works.isEmpty }).ctl := replayAll_steady (s := { t with carried := _ }) ht
  grind [setReg_ctl, loseJournal_steady]

theorem noteTrip_steady (h : Steady b c s.ctl) : Steady b c (noteTrip s).ctl := by
  unfold noteTrip
  split
  · refine logFault_steady ?_ _ _ _ _ _ _
    rw [addReg_ctl]
    exact h.same rfl rfl rfl
  · exact h

theorem stepService_steady (h : Steady false c acc.1.ctl) (found) : Steady false c (stepService found acc).1.ctl := by
  refine runUnit_steady (fun t ht => ?_) h _ _ _ _ _
  refine Steady.of_eq (logFault_steady (noteTrip_steady ?_) _ _ _ _ _ _) (resumeModes_ctl ..)
  exact ⟨nofun, ht.log, ht.journal⟩

theorem runStart_steady (h : Steady false c s.ctl) (found) : Steady false c (runStart s found).ctl := by
  have tiles (prev) {acc : State × Bool} (ha : Steady false c acc.1.ctl) :
      Steady false c ((List.range 8).foldl (fun acc d => stepTiles found prev d acc) acc).1.ctl :=
    Steady.foldl_fst (fun _ d h' => stepTiles_steady h' found prev d) _ ha
  have units (prev) {acc : State × Bool} (ha : Steady false c acc.1.ctl) :
      Steady false c ((List.range 10).foldl (fun acc d => stepUnits found prev d acc) acc).1.ctl :=
    Steady.foldl_fst (fun _ d h' => stepUnits_steady h' found prev d) _ ha
  have links (prev) {acc : State × Bool} (ha : Steady false c acc.1.ctl) :
      Steady false c ((List.range 96).foldl (fun acc i => stepLink found prev i acc) acc).1.ctl :=
    Steady.foldl_fst (fun _ i h' => stepLink_steady h' found prev i) _ ha
  unfold runStart
  extract_lets cold s1 prev f s2 a1 a2 a3 a4 a5 a6 a7 a8 a9 a10 a11 a12
  have h1 : Steady false c s1.ctl := h.of_eq ((restartClock_ctl ..).trans (countStart_ctl ..))
  have h2 : Steady false c s2.ctl := by grind [setReg_ctl, Steady.same]
  have h3 : Steady false c a2.1.ctl := by grind [stepClusters_steady, retireDue_steady]
  have h5 : Steady false c a5.1.ctl := by
    have h4 : Steady false c a3.1.ctl := stepSupplies_steady (stepManifest_steady h3 _ _) _ _
    exact stepStacks_steady (stepBridges_steady (stepIdentity_steady h4 _ _) _ _ _) _ _ _
  have h6 : Steady false c a6.1.ctl := by grind [stepStackTest_steady]
  have h7 : Steady false c a7.1.ctl := tiles prev h6
  have h8 : Steady false c a8.1.ctl := units prev h7
  have h9 : Steady false c a9.1.ctl := by grind [stepTables_steady]
  have h10 : Steady false c a10.1.ctl := stepPorts_steady h9 _
  have h11 : Steady false c a11.1.ctl := by
    unfold a11
    exact links prev h10
  have h12 : Steady false c a12.1.ctl := by
    unfold a12
    exact stepService_steady (stepScorebook_steady (stepDiscovery_steady h11 _) _ _) _
  clear_value a12
  split
  · exact h12
  · exact h12

theorem plainStep_steady (h : Steady false c acc.1.ctl) (found step) : Steady false c (plainStep found step acc).1.ctl :=
  runUnit_steady (fun _ ht => ht) h _ _ _ _ _

end

theorem runRecovery_steady (h : Steady false c s.ctl) (d found) : Steady false c (runRecovery s d found).ctl := by
  unfold runRecovery
  extract_lets s1 prev a1 a2 a3 a4 g f t s3
  have h1 : Steady false c s1.ctl := h.of_eq (countStart_ctl s)
  have h4 : Steady false c a4.1.ctl := by
    refine plainStep_steady (plainStep_steady (Steady.foldl_fst (f := fun acc i => stepLink found prev i acc) (fun _ i h' => stepLink_steady h'
      found prev i) _ ?_) _ _) _ _
    refine stepTables_steady (stepUnits_steady (stepTiles_steady ?_ _ _ _) _ _ _) _
    exact stepStacks_steady (stepBridges_steady h1 _ _ _) _ _ _
  split
  · exact h4
  · have h3 : Steady false c s3.ctl := by
      refine logFault_steady (s := t) ?_ _ _ _ _ _ _
      exact h4.same rfl rfl rfl
    split
    · exact h3
    · refine stopDie_steady ?_ _
      exact h3.same rfl rfl rfl

theorem runLeave_steady (h : Steady false c s.ctl) (found) : Steady false c (runLeave s found).ctl := by
  unfold runLeave
  extract_lets s1 prev a1 a2 a3 a4
  have h1 : Steady false c s1.ctl := h.of_eq (countStart_ctl s)
  have h4 : Steady false c a4.1.ctl := by
    refine plainStep_steady (plainStep_steady (stepTables_steady ?_ _) _ _) _ _
    refine Steady.foldl_fst (f := fun acc d => stepUnits found prev d acc) (fun _ d h' => stepUnits_steady h' found prev d) _ ?_
    refine Steady.foldl_fst (f := fun acc d => stepTiles found prev d acc) (fun _ d h' => stepTiles_steady h' found prev d) _ ?_
    exact stepStacks_steady h1 _ _ _
  split
  · exact h4
  · refine logFault_steady ?_ _ _ _ _ _ _
    exact h4

theorem runSequence_steady (h : Steady false c s.ctl) (found) : Steady false c (runSequence s found).ctl := by
  unfold runSequence
  grind [runStart_steady, runRecovery_steady, runLeave_steady]

theorem restoreJob_steady (h : Steady b c s.ctl) (r p st card) : Steady b c (restoreJob s r p st card).ctl := by
  unfold restoreJob
  grind [putRing_ctl, takeJob_steady, putJob_ctl]

theorem restoreJobs_steady (h : Steady b c s.ctl) : Steady b c (restoreJobs s).ctl := by
  unfold restoreJobs
  refine Steady.foldl (fun t i ht => ?_) _ h
  split
  · exact restoreJob_steady ht _ _ _ _
  all_goals exact ht

theorem recoverMirror_steady (h : Steady b c s.ctl) : Steady b c (recoverMirror s).ctl := by
  unfold recoverMirror
  split
  · exact h
  · split
    · exact Steady.of_eq (logFault_steady (s := setReg s _ _ _) h _ _ _ _ _ _) (startMirror_ctl ..)
    · split
      · exact h
      · extract_lets ks s1 n s2 f s3
        have hc : Steady b c (ks.foldl restoreCtx s1).ctl := Steady.foldl (fun t k ht => ht.of_eq (restoreCtx_ctl ..)) _ h
        have h2 : Steady b c s2.ctl := restoreJobs_steady (hc.of_eq (deliverAll_ctl ..))
        have h3 : Steady b c (addReg s3 0x4000 0x0A n).ctl := h2.of_eq (addReg_ctl ..)
        exact (logFault_steady h3 _ _ _ _ _ _).of_eq (startMirror_ctl ..)

theorem fresh_ctl (s : State) : (fresh s).2.ctl = s.ctl := rfl

theorem behaviour_steady (h : Steady b c s.ctl) (o : Origin) (index sub : Nat) (bs : List Byte) {t : State}
    (ht : behaviour s o index sub bs = some t) : Steady b c t.ctl := by
  unfold behaviour at ht
  grind (splits := 30) [fresh_ctl, writeBinding_ctl, ctxCommand_ctl, requestReference_ctl, acceptLoad_ctl, acceptUnload_steady,
      clearDeviceFlags_ctl, clearTileFlags_ctl,
    unloadFunction_ctl, retireStack_steady, allocateHost_ctl, freeHost_ctl, startCopy_ctl, writeMirrorPeer_steady, resumeUmpire_steady,
    stopUmpire_steady, enableUmpire_ctl, setReg_ctl, loadFilter_ctl, unloadFilter_ctl, warmReset_steady, dieCommand_steady, enterPark_ctl,
    leavePark_steady, readmit_steady, clearReverted_steady, acceptKey_steady, attest_ctl, diesCommand, loadFunction_ctl, addTableSet_ctl,
    removeTableSet_ctl]

theorem afterStore_steady (h : Steady b c s.ctl) (index sub bs) : Steady b c (afterStore s index sub bs).ctl := by
  unfold afterStore
  grind [setLinkState_ctl, failLink_steady, silencePort_ctl, setReg_ctl, putFlow_ctl, Steady.same]

theorem applyWrite_steady (h : Steady b c s.ctl) (o index sub bs) : Steady b c (applyWrite s o index sub bs).ctl := by
  unfold applyWrite
  split
  · next t ht =>
    have hb := behaviour_steady h _ _ _ _ ht
    split
    · exact hb.of_eq (toMirror_ctl ..)
    · exact hb
  · have hs : Steady b c (storeBytes s index sub bs).ctl := h.of_eq (storeBytes_ctl ..)
    have ha := afterStore_steady hs index sub bs
    dsimp only
    split
    · exact ha.of_eq (toMirror_ctl ..)
    · exact ha

theorem runOp_steady (h : Steady b c s.ctl) {serves : Nat → Bool} {flash : Bool} {o : Origin} {p : DtpOp} {x : State × List Byte}
    (hx : runOp serves flash s o p = .ok x) : Steady b c x.1.ctl := by
  have hw := applyWrite_steady h o p.index p.sub p.data
  unfold runOp at hx
  grind

theorem runOps_steady (serves : Nat → Bool) (flash : Bool) (o : Origin) :
    ∀ (ops : List DtpOp) {s : State}, Steady b c s.ctl → ∀ room, Steady b c (runOps serves flash o s room ops).1.ctl
  | [], _, h, _ => h
  | p :: r, s, h, room => by
    unfold runOps
    split
    · exact h
    · next t data ht =>
      dsimp only
      split
      · exact h
      · exact runOps_steady serves flash o r (runOp_steady h ht) _

theorem runRequest_steady (h : Steady b c s.ctl) (flash o room ops) : Steady b c (runRequest s flash o room ops).1.ctl := by
  unfold runRequest
  dsimp only
  split
  · exact runOps_steady _ _ _ _ h _
  · exact h

theorem plainRequest_steady (h : Steady b c s.ctl) (flash o f) : Steady b c (plainRequest s flash o f).1.ctl := by
  unfold plainRequest
  split
  · exact h.of_eq (addReg_ctl ..)
  · exact (runRequest_steady h _ _ _ _).of_eq (countRequest_ctl ..)

theorem showResponse_steady (h : Steady b c s.ctl) (token f) : Steady b c (showResponse s token f).ctl := by
  refine raiseVector_steady ?_ _
  exact h.same rfl rfl rfl

theorem windowRequest_steady (h : Steady b c s.ctl) (flash token f) : Steady b c (windowRequest s flash token f).ctl := by
  unfold windowRequest
  split
  · exact h
  · extract_lets f s1 x
    have h1 : Steady b c s1.ctl := h.same rfl rfl rfl
    have hx : Steady b c x.1.ctl := plainRequest_steady h1 _ _ _
    grind [showResponse_steady]

theorem acceptCounter_steady (h : Steady b c s.ctl) (n) : Steady b c (acceptCounter s n).ctl := by
  unfold acceptCounter
  grind [setReg_ctl, Steady.same]

theorem netRequest_steady (h : Steady b c s.ctl) (flash f) : Steady b c (netRequest s flash f).1.ctl := by
  have refused : Steady b c (addReg s 0x1100 0x0C 1).ctl := h.of_eq (addReg_ctl ..)
  have hr (ops) := runRequest_steady (acceptCounter_steady h (frameCounter f)) flash .net (1472 - 64) ops
  unfold netRequest
  grind [plainRequest_steady, countRequest_ctl]

theorem dtpNet_steady (h : Steady b c s.ctl) (flash port f) : Steady b c (dtpNet s flash port f).ctl := by
  have hn := netRequest_steady h flash f
  unfold dtpNet
  grind [emit_ctl]

theorem peerRequest_steady (h : Steady b c s.ctl) (flash f) : Steady b c (peerRequest s flash f).1.ctl := by
  have refused : Steady b c (addReg s 0x1100 0x0C 1).ctl := h.of_eq (addReg_ctl ..)
  unfold peerRequest
  grind [plainRequest_steady]

theorem dtpPeer_steady (h : Steady b c s.ctl) (flash peer f) : Steady b c (dtpPeer s flash peer f).ctl := by
  have hp := peerRequest_steady (h.of_eq (ackTo_ctl s peer 1)) flash f
  unfold dtpPeer
  grind [emit_ctl, sendMessage_fst_ctl]

theorem dictWrite_steady (h : Steady b c s.ctl) (flash o index sub bs) : Steady b c (dictWrite s flash o index sub bs).ctl := by
  unfold dictWrite
  split
  · next x hx => exact runOp_steady h hx
  · exact h

end Sys2Proof.Machine
end
section
/-! Every command (O55, O59, O60): each ends in a next state, and what it leaves of the control part. -/
namespace Sys2Proof.Machine
open Sys2Proof
variable {b : Bool} {c : Control} {s : State}

/-! ### Every command -/

/-- A step from `s` to `t`: the queue is left alone, the journals stay in bounds, and with `b` a part out of service keeps its phase. -/
structure Sound (b : Bool) (s t : State) : Prop where
  pending : t.pending = s.pending
  steady : Steady b s.ctl t.ctl

section
variable {t u : State} {f : State → State} {ps : List Sys2Proof.Part}

theorem Steady.trans {d e : Control} (h : Steady b c d) (h' : Steady b d e) : Steady b c e :=
  ⟨fun hb hc => (h'.phase hb (h.phase hb hc ▸ hc)).trans (h.phase hb hc), h'.log ∘ h.log, h'.journal ∘ h.journal⟩

theorem Sound.refl (s : State) : Sound b s s := ⟨rfl, .refl _⟩

theorem Sound.trans (h : Sound b s t) (h' : Sound b t u) : Sound b s u := ⟨h'.pending.trans h.pending, h.steady.trans h'.steady⟩

theorem Sound.of_steady (k : Kept ps s t) (hs : Steady b s.ctl t.ctl) (h : ps.contains .pending = false := by decide) : Sound b s t :=
  ⟨k .pending (by simpa using h), hs⟩

theorem Sound.of_kept (k : Kept ps s t) (h : ps.contains .pending = false := by decide)
    (hc : ps.contains .ctl = false := by decide) : Sound b s t :=
  .of_steady k ((Steady.refl _).of_eq (k.ctl_eq hc)) h

theorem Sound.ite {p : Prop} [Decidable p] (h : Sound b s t) (h' : Sound b s u) : Sound b s (if p then t else u) := by
  split
  · exact h
  · exact h'

theorem Sound.foldl {α : Type} {f : State → α → State} (hf : ∀ t a, Sound b t (f t a)) : ∀ (l : List α) (s : State), Sound b s (l.foldl f s)
  | [], s => .refl s
  | a :: l, s => (hf s a).trans (Sound.foldl hf l (f s a))

theorem powerEvent_sound (dt : Nat) (hf : ∀ t, Sound b t (f t)) : Sound b s (powerEvent s dt f) := by
  have hp : Sound b s (passTime s dt) := .of_kept (passTime_keeps s dt)
  have hc : Sound b (passTime s dt) (countReasons (passTime s dt)) := .of_kept (countReasons_keeps _)
  exact ((hp.trans hc).trans (hf _)).trans (.of_steady (noteReasons_keeps _) (noteReasons_steady (.refl _)))

/-- An outcome is a next state that a sound step leads to. -/
def SoundNext (b : Bool) (s : State) (o : Host.Outcome State Fault Refusal) : Prop := ∃ t, o = .next t ∧ Sound b s t

theorem SoundNext.next (h : Sound b s t) : SoundNext b s (.next t) := ⟨t, rfl, h⟩

theorem SoundNext.whenService (h : Sound b s (f s)) : SoundNext b s (whenService s f) := .next (.ite h (.refl s))

theorem SoundNext.whenControlled (h : Sound b s (f s)) : SoundNext b s (whenControlled s f) := .next (.ite h (.refl s))

theorem Sound.next_trans {o : Host.Outcome State Fault Refusal} (h : Sound b s t) (ho : SoundNext b t o) : SoundNext b s o := by
  obtain ⟨u, hu, h'⟩ := ho
  exact ⟨u, hu, h.trans h'⟩

/-- The commands that may change the phase of a part that is not in service. -/
def movesPhase : Instr → Bool
  | .thermtrip _ | .railLost _ | .powerLoss | .powerOn _ | .perstAssert | .perstDeassert _ | .stbyOkFall | .mainOkFall | .startSequence _ => true
  | _ => false

theorem exec_sound (i : Instr) (s : State) : SoundNext (!movesPhase i) s (exec i s) := by
  cases i with
  | deviceFlagsClear mask => exact .whenService (f := fun s => clearDeviceFlags s mask) (.of_kept (clearDeviceFlags_keeps s mask))
  | tileFlagsClear mask => exact .whenService (f := fun s => clearTileFlags s mask) (.of_kept (clearTileFlags_keeps s mask))
  | nop tile =>
    exact .whenService (f := fun s => tileCommand s tile opNOP fun _ _ t => .ok { tile := t }) (.of_kept (tileCommand_keeps s tile opNOP _))
  | mma tile =>
    exact .whenService (f := fun s => tileCommand s tile opMMA fun env c t => runMatrix env opMMA c t) (.of_kept (tileCommand_keeps s tile opMMA _))
  | conv tile =>
    exact .whenService (f := fun s => tileCommand s tile opCONV fun env c t => runMatrix env opCONV c t) (.of_kept (tileCommand_keeps s tile opCONV
      _))
  | anchor tile => exact .whenService (f := fun s => tileCommand s tile opANCHOR runAnchor) (.of_kept (tileCommand_keeps s tile opANCHOR runAnchor))
  | stacc tile =>
    exact .whenService (f := fun s => tileCommand s tile opSTACC fun _ c t => runStacc c t) (.of_kept (tileCommand_keeps s tile opSTACC _))
  | ldacc tile => exact .whenService (f := fun s => tileCommand s tile opLDACC runLdacc) (.of_kept (tileCommand_keeps s tile opLDACC runLdacc))
  | rndacc tile => exact .whenService (f := fun s => tileCommand s tile opRNDACC runRndacc) (.of_kept (tileCommand_keeps s tile opRNDACC runRndacc))
  | vew tile => exact .whenService (f := fun s => tileCommand s tile opVEW runVew) (.of_kept (tileCommand_keeps s tile opVEW runVew))
  | vred tile => exact .whenService (f := fun s => tileCommand s tile opVRED runVred) (.of_kept (tileCommand_keeps s tile opVRED runVred))
  | gather tile => exact .whenService (f := fun s => tileCommand s tile opGATHER runGather) (.of_kept (tileCommand_keeps s tile opGATHER runGather))
  | scadd tile => exact .whenService (f := fun s => tileCommand s tile opSCADD runScadd) (.of_kept (tileCommand_keeps s tile opSCADD runScadd))
  | sfn tile => exact .whenService (f := fun s => tileCommand s tile opSFN runSfn) (.of_kept (tileCommand_keeps s tile opSFN runSfn))
  | smax tile => exact .whenService (f := fun s => tileCommand s tile opSMAX runSmax) (.of_kept (tileCommand_keeps s tile opSMAX runSmax))
  | nstat tile => exact .whenService (f := fun s => tileCommand s tile opNSTAT runNstat) (.of_kept (tileCommand_keeps s tile opNSTAT runNstat))
  | move tile => exact .whenService (f := fun s => tileCommand s tile opMOVE runMove) (.of_kept (tileCommand_keeps s tile opMOVE runMove))
  | dgstore tile =>
    exact .whenService (f := fun s => tileCommand s tile opDGSTORE fun _ c t => runDgstore c t) (.of_kept (tileCommand_keeps s tile opDGSTORE _))
  | stream tile => exact .whenService (f := fun s => streamStep s tile) (.of_kept (streamStep_keeps s tile))
  | swap tile => exact .whenService (f := fun s => swapStep s tile) (.of_kept (swapStep_keeps s tile))
  | endPart tile => exact .whenService (f := fun s => endStep s tile) (.of_kept (endStep_keeps s tile))
  | scaddr tile => exact .whenService (f := fun s => scaddrStep s tile) (.of_kept (scaddrStep_keeps s tile))
  | descriptorStart tile queue => exact .whenService (f := fun s => startDesc s tile queue) (.of_kept (startDesc_keeps s tile queue))
  | descriptorComplete tile order => exact .whenService (f := fun s => completeDesc s tile order) (.of_kept (completeDesc_keeps s tile order))
  | syncTimeout tile =>
    show SoundNext _ s (execSyncTimeout tile s)
    unfold execSyncTimeout
    refine .whenService ?_
    split
    · exact .ite (.of_kept (refusePart_keeps s tile stSyncTimeout)) (.refl s)
    · exact .refl s
  | syncWindowRelease work => exact .whenControlled (f := fun s => releaseSync s work) (.of_kept (releaseSync_keeps s work))
  | tilePartDispatch tile work part =>
    exact .whenService (f := fun s => dispatchPart s tile work part) (.of_kept (dispatchPart_keeps s tile work part))
  | tileFault tile =>
    exact .whenService (f := fun s => if tileUsable s tile ∧ !(tileOf s tile).checking then faultTile s tile else s) (.ite (.of_steady
      (faultTile_keeps s tile) (faultTile_steady (.refl _) tile)) (.refl s))
  | tileWatchdog tile =>
    show SoundNext _ s (execTileWatchdog tile s)
    unfold execTileWatchdog
    refine .whenService ?_
    split
    · exact .ite (.of_steady (faultTile_keeps s tile) (faultTile_steady (.refl _) tile)) (.refl s)
    · exact .refl s
  | tileSelfCheck tile passed =>
    refine .whenService (f := fun s => if (tileOf s tile).checking ∧ !retirePending s 1 tile then (if passed then putTile s tile { tileOf s tile
      with checking := false } else if flashHeld s then retireLater s 1 tile else retireTile s tile) else s) (.ite (.ite (.of_kept (putTile_keeps s
      tile _)) (.ite ?_ ?_)) (.refl s))
    · exact .of_steady (retireLater_keeps s 1 tile) (retireLater_steady (.refl _) 1 tile)
    · exact .of_steady (retireTile_keeps s tile) (retireTile_steady (.refl _) tile)
  | weightCacheParity die line =>
    show SoundNext _ s (execWeightCacheParity die line s)
    unfold execWeightCacheParity
    refine .whenService ?_
    split
    · exact .refl s
    · refine .trans ?_ (.of_steady (logFault_keeps _ 0x0022 0 0 die 0xFFFF _) (logFault_steady (.refl _) 0x0022 0 0 die 0xFFFF _))
      exact ⟨rfl, .refl _⟩
  | weightWindowFill die slot => exact .whenService (f := fun s => fillWindow s die slot) (.of_kept (fillWindow_keeps s die slot))
  | class3Stop tile => exact .whenService (f := fun s => stopPart s tile) (.of_kept (stopPart_keeps s tile))
  | segmentEncode lane work seg =>
    exact .whenService (f := fun s => encodeStep s lane work seg) (.of_steady (encodeStep_keeps s lane work seg) (encodeStep_steady (.refl _) lane
      work seg))
  | laneFault lane =>
    exact .whenService (f := fun s => if laneLive s lane then faultLane s lane else s) (.ite (.of_steady (faultLane_keeps s lane) (faultLane_steady
      (.refl _) lane)) (.refl s))
  | laneWatchdog lane =>
    exact .whenService (f := fun s => if laneLive s lane ∧ (laneNext s lane).isSome then faultLane s lane else s) (.ite (.of_steady
      (faultLane_keeps s lane) (faultLane_steady (.refl _) lane)) (.refl s))
  | laneSelfCheck lane passed =>
    refine .whenService (f := fun s => if (laneOf s lane).checking then (if passed then putLane s lane { laneOf s lane with checking := false }
      else retireLane s lane) else s) (.ite (.ite (.of_kept (putLane_keeps s lane _)) ?_) (.refl s))
    exact .of_steady (retireLane_keeps s lane) (retireLane_steady (.refl _) lane)
  | tableSetAdd diesOk => exact .whenControlled (f := fun s => addTableSet s diesOk) (.of_kept (addTableSet_keeps s diesOk))
  | tableSetRemove diesOk => exact .whenControlled (f := fun s => removeTableSet s diesOk) (.of_kept (removeTableSet_keeps s diesOk))
  | cdfBankFree bank => exact .whenControlled (f := fun s => freeBank s bank) (.of_kept (freeBank_keeps s bank))
  | functionSlotLoad diesOk => exact .whenControlled (f := fun s => loadFunction s diesOk) (.of_kept (loadFunction_keeps s diesOk))
  | functionSlotUnload => exact .whenControlled (f := unloadFunction) (.of_kept (unloadFunction_keeps s))
  | functionSlotSwitch slot =>
    exact .whenControlled (f := fun s => if slot < 32 ∧ fnDue s slot then switchFunction s slot else s) (.ite (.of_kept (switchFunction_keeps s
      slot)) (.refl s))
  | functionBankRelease slot => exact .whenControlled (f := fun s => releaseFunction s slot) (.of_kept (releaseFunction_keeps s slot))
  | packageLoad slot =>
    exact .whenControlled (f := fun s => if slot < 4096 then acceptLoad s slot else s) (.ite (.of_kept (acceptLoad_keeps s slot)) (.refl s))
  | packageLoadRun => exact .whenControlled (f := runQueuedLoad) (.of_steady (runQueuedLoad_keeps s) (runQueuedLoad_steady (.refl _)))
  | packageUnload slot =>
    exact .whenControlled (f := fun s => if slot < 4096 then acceptUnload s slot else s) (.ite (.of_steady (acceptUnload_keeps s slot)
      (acceptUnload_steady (.refl _) slot)) (.refl s))
  | keyRequest origin =>
    exact .whenControlled (f := fun s => acceptKey s origin) (.of_steady (acceptKey_keeps s origin) (acceptKey_steady (.refl _) origin))
  | cdfBankSwap =>
    exact .whenControlled (f := fun s => if swapDue s then takeSwap s else s) (.ite (.of_steady (takeSwap_keeps s) (takeSwap_steady (.refl _)))
      (.refl s))
  | contextBind ctx value =>
    exact .whenControlled (f := fun s => if ctx < maxCtx ∧ value < 0xFFFF then writeBinding s ctx value else s) (.ite (.of_kept (writeBinding_keeps
      s ctx value)) (.refl s))
  | contextUnbind ctx =>
    exact .whenControlled (f := fun s => if ctx < maxCtx ∧ ctxState s ctx = 1 then writeBinding s ctx 0xFFFF else s) (.ite (.of_kept
      (writeBinding_keeps s ctx 0xFFFF)) (.refl s))
  | contextStart ctx =>
    exact .whenControlled (f := fun s => if ctx < maxCtx then startCtx s ctx else s) (.ite (.of_kept (startCtx_keeps s ctx)) (.refl s))
  | contextStop ctx =>
    exact .whenControlled (f := fun s => if ctx < maxCtx then stopCtx s ctx else s) (.ite (.of_kept (stopCtx_keeps s ctx)) (.refl s))
  | contextTimeout ctx =>
    exact .whenControlled (f := fun s => if ctx < maxCtx then timeoutCtx s ctx else s) (.ite (.of_kept (timeoutCtx_keeps s ctx)) (.refl s))
  | snapshotWrite ctx => exact .whenControlled (f := fun s => writeSnapshot s ctx) (.of_kept (writeSnapshot_keeps s ctx))
  | contextResume ctx =>
    exact .whenControlled (f := fun s => if ctx < maxCtx then resumeCtx s ctx else s) (.ite (.of_kept (resumeCtx_keeps s ctx)) (.refl s))
  | contextSwitch ctx slot =>
    exact .whenControlled (f := fun s => if ctx < maxCtx then switchCtx s ctx slot else s) (.ite (.of_kept (switchCtx_keeps s ctx slot)) (.refl s))
  | switchTakeEffect ctx =>
    exact .whenControlled (f := fun s => if switchDue s ctx then takeSwitch s ctx else s) (.ite (.of_kept (takeSwitch_keeps s ctx)) (.refl s))
  | referenceRequest ctx slot j0 =>
    exact .whenControlled (f := fun s => if ctx < maxCtx then requestReference s ctx slot j0 else s) (.ite (.of_kept (requestReference_keeps s ctx
      slot j0)) (.refl s))
  | rateControlBand ctx band => exact .whenService (f := fun s => controlBand s ctx band) (.of_kept (controlBand_keeps s ctx band))
  | codecCoreFault kind core =>
    exact .whenService (f := fun s => if unitLive s (kindNo kind) core then faultUnit s (kindNo kind) core else s) (.ite (.of_steady
      (faultUnit_keeps s (kindNo kind) core) (faultUnit_steady (.refl _) (kindNo kind) core)) (.refl s))
  | codecCoreWatchdog kind core =>
    exact .whenService (f := fun s => if unitLive s (kindNo kind) core && unitBusy s (kindNo kind) core then faultUnit s (kindNo kind) core else s)
      (.ite (.of_steady (faultUnit_keeps s (kindNo kind) core) (faultUnit_steady (.refl _) (kindNo kind) core)) (.refl s))
  | codecCoreSelfCheck kind core passed =>
    exact .whenService (f := fun s => checkUnit s (kindNo kind) core passed) (.of_steady (checkUnit_keeps s (kindNo kind) core passed)
      (checkUnit_steady (.refl _) (kindNo kind) core passed))
  | engineFault engine =>
    exact .whenService (f := fun s => if unitLive s ckEngine engine then faultUnit s ckEngine engine else s) (.ite (.of_steady (faultUnit_keeps s
      ckEngine engine) (faultUnit_steady (.refl _) ckEngine engine)) (.refl s))
  | engineWatchdog engine =>
    exact .whenService (f := fun s => if unitLive s ckEngine engine && unitBusy s ckEngine engine then faultUnit s ckEngine engine else s) (.ite
      (.of_steady (faultUnit_keeps s ckEngine engine) (faultUnit_steady (.refl _) ckEngine engine)) (.refl s))
  | engineSelfCheck engine passed =>
    exact .whenService (f := fun s => checkUnit s ckEngine engine passed) (.of_steady (checkUnit_keeps s ckEngine engine passed) (checkUnit_steady
      (.refl _) ckEngine engine passed))
  | contextStartCheck ctx =>
    exact .whenControlled (f := fun s => deliverAll (checkStart s ctx)) (.trans (.of_kept (checkStart_keeps s ctx)) (.of_kept (deliverAll_keeps _)))
  | parseInputPicture work => exact .whenService (f := fun s => parseInput s work) (.of_kept (parseInput_keeps s work))
  | segmentDecode lane work seg =>
    exact .whenService (f := fun s => takeVectors (decodeStep s lane work seg) work seg) (.trans (.of_steady (decodeStep_keeps s lane work seg)
      (decodeStep_steady (.refl _) lane work seg)) (.of_kept (takeVectors_keeps _ work seg)))
  | syncWindowAllocate work =>
    have alloc : Sound true s (allocSync s work) := .of_kept (allocSync_keeps s work)
    show SoundNext _ s (execSyncWindowAllocate work s)
    unfold execSyncWindowAllocate
    refine .whenControlled ?_
    split
    · exact alloc.trans (.of_kept (deliverVectors_keeps _ _ _))
    · exact alloc
  | motionSearchRow core ctx j row =>
    exact .whenService (f := fun s => searchMotion s core ctx j row) (.of_kept (searchMotion_keeps s core ctx j row))
  | filterSetLoad => exact .whenControlled (f := loadFilter) (.of_kept (loadFilter_keeps s))
  | filterSetUnload => exact .whenControlled (f := unloadFilter) (.of_kept (unloadFilter_keeps s))
  | filterSetSwitch set =>
    exact .whenControlled (f := fun s => if filterDue s then switchFilter s set else s) (.ite (.of_kept (switchFilter_keeps s set)) (.refl s))
  | scalerFrame unit work => exact .whenService (f := fun s => scaleFrame s unit work) (.of_kept (scaleFrame_keeps s unit work))
  | codecTileJob core work tile => exact .whenService (f := fun s => tileJob s core work tile) (.of_kept (tileJob_keeps s core work tile))
  | engineCompress engine work => exact .whenService (f := fun s => compressTask s engine work) (.of_kept (compressTask_keeps s engine work))
  | engineDecompress engine work => exact .whenService (f := fun s => decompressTask s engine work) (.of_kept (decompressTask_keeps s engine work))
  | sourceQualified src dt =>
    exact .whenService (f := fun s => qualifySource (passTime s dt) src) (.trans (.of_kept (passTime_keeps s dt)) (.of_kept (qualifySource_keeps _
      src)))
  | sourceLost src dt =>
    exact .whenService (f := fun s => loseSource (passTime s dt) src) (.trans (.of_kept (passTime_keeps s dt)) (.of_steady (loseSource_keeps _ src)
      (loseSource_steady (.refl _) src)))
  | sourceAdoptionHold src dt =>
    exact .whenService (f := fun s => holdSource (passTime s dt) src) (.trans (.of_kept (passTime_keeps s dt)) (.of_kept (holdSource_keeps _ src)))
  | timebaseStep ns => exact .whenService (f := fun s => stepTimebase s ns) (.of_steady (stepTimebase_keeps s ns) (stepTimebase_steady (.refl _) ns))
  | paltonDataFrame link frame => exact .whenService (f := fun s => dataFrame s link frame) (.of_kept (dataFrame_keeps s link frame))
  | paltonControlFrame link ack credit level =>
    exact .whenService (f := fun s => controlFrame s link ack credit level) (.of_kept (controlFrame_keeps s link ack credit level))
  | retryRequest link expected =>
    exact .whenService (f := fun s => retryLink s link expected) (.of_steady (retryLink_keeps s link expected) (retryLink_steady (.refl _) link
      expected))
  | linkAckTimeout link =>
    exact .whenService (f := fun s => if linkUp s link && !(linkOf s link).replay.isEmpty then failLink s link else s) (.ite (.of_steady
      (failLink_keeps s link) (failLink_steady (.refl _) link)) (.refl s))
  | linkTraining link passed dt =>
    exact .whenService (f := fun s => trainLink (passTime s dt) link passed) (.trans (.of_kept (passTime_keeps s dt)) (.of_steady (trainLink_keeps
      _ link passed) (trainLink_steady (.refl _) link passed)))
  | helloSend dt =>
    exact .whenControlled (f := fun s => sendHellos (passTime s dt)) (.trans (.of_kept (passTime_keeps s dt)) (.of_steady (sendHellos_keeps _)
      (sendHellos_steady (.refl _))))
  | hello link data dt =>
    exact .whenControlled (f := fun s => takeHello (passTime s dt) link data) (.trans (.of_kept (passTime_keeps s dt)) (.of_steady (takeHello_keeps
      _ link data) (takeHello_steady (.refl _) link data)))
  | addressMap root map =>
    exact .whenControlled (f := fun s => takeMap s root map) (.of_steady (takeMap_keeps s root map) (takeMap_steady (.refl _) root map))
  | routeFlood src upLinks => exact .whenControlled (f := fun s => takeFlood s src upLinks) (.of_kept (takeFlood_keeps s src upLinks))
  | flowUnpin src flow => exact .whenService (f := fun s => unpinFlow s src flow) (.of_kept (unpinFlow_keeps s src flow))
  | fabricTickMessage link counter rate precedence serial ptp free =>
    exact .whenControlled (f := fun s => takeTick s link counter rate precedence serial ptp free) (.of_kept (takeTick_keeps s link counter rate
      precedence serial ptp free))
  | receiverBench flow receiver =>
    exact .whenControlled (f := fun s => benchReceiver s flow receiver) (.of_steady (benchReceiver_keeps s flow receiver) (benchReceiver_steady
      (.refl _) flow receiver))
  | receiverReady flow receiver =>
    exact .whenControlled (f := fun s => readyReceiver s flow receiver) (.of_kept (readyReceiver_keeps s flow receiver))
  | packetSend port => exact .whenService (f := fun s => sendPacket s port) (.of_steady (sendPacket_keeps s port) (sendPacket_steady (.refl _) port))
  | frameCommit work =>
    exact .whenControlled (f := fun s => commitWork s work) (.of_steady (commitWork_keeps s work) (commitWork_steady (.refl _) work))
  | completionPost ring => exact .whenControlled (f := fun s => postJob s ring) (.of_steady (postJob_keeps s ring) (postJob_steady (.refl _) ring))
  | allocate => exact .whenControlled (f := allocateHost) (.of_kept (allocateHost_keeps s))
  | free => exact .whenControlled (f := freeHost) (.of_kept (freeHost_keeps s))
  | allocationRelease base => exact .whenControlled (f := fun s => releaseFreed s base) (.of_kept (releaseFreed_keeps s base))
  | stackRetireCommand stack =>
    exact .whenControlled (f := fun s => retireStack s stack) (.of_steady (retireStack_keeps s stack) (retireStack_steady (.refl _) stack))
  | stackMigrationComplete stack =>
    exact .whenControlled (f := fun s => endMigration s stack) (.of_steady (endMigration_keeps s stack) (endMigration_steady (.refl _) stack))
  | scorebookCopyRebuilt => exact .whenControlled (f := rebuiltCopy) (.of_steady (rebuiltCopy_keeps s) (rebuiltCopy_steady (.refl _)))
  | correctedError stack row address => exact .whenService (f := fun s => correctError s stack row) (.of_kept (correctError_keeps s stack row))
  | patrolScrub stack =>
    exact .whenService (f := fun s => if stackLive s stack then addReg s (stackIndex stack) 0x05 1 else s) (.ite (.of_kept (addReg_keeps s
      (stackIndex stack) 0x05 1)) (.refl s))
  | rowSpare stack row =>
    exact .whenControlled (f := fun s => spareRow s stack row) (.of_steady (spareRow_keeps s stack row) (spareRow_steady (.refl _) stack row))
  | stackRateLimit stack =>
    exact .whenControlled (f := fun s => startMigration s stack 1) (.of_steady (startMigration_keeps s stack 1) (startMigration_steady (.refl _)
      stack 1))
  | uncorrectedError stack row address =>
    exact .whenService (f := fun s => uncorrectError s stack row address) (.of_steady (uncorrectError_keeps s stack row address)
      (uncorrectError_steady (.refl _) stack row address))
  | mirrorUnprotected => exact .whenControlled (f := unprotectMirror) (.of_steady (unprotectMirror_keeps s) (unprotectMirror_steady (.refl _)))
  | messageAck peer flow msg =>
    exact .whenService (f := fun s => ackMessage s peer flow msg) (.of_steady (ackMessage_keeps s peer flow msg) (ackMessage_steady (.refl _) peer
      flow msg))
  | mirrorMessage sender item =>
    refine .whenControlled (f := fun s => if getReg s 0x4000 0x08 = 4 ∧ sender = getReg s 0x4100 0x09 then ackTo (takeRestored s item) sender 4
      else storeMirror s sender item) (.ite ?_ (.of_kept (storeMirror_keeps s sender item)))
    refine .trans (.of_steady (takeRestored_keeps s item) (takeRestored_steady (.refl _) item)) ?_
    exact .of_kept (ackTo_keeps _ sender 4)
  | fabricCopyStart => exact .whenControlled (f := startCopy) (.of_kept (startCopy_keeps s))
  | fabricCopyDone => exact .whenControlled (f := endCopy) (.of_kept (endCopy_keeps s))
  | fabricCopyReceive sender address data =>
    exact .whenControlled (f := fun s => receiveCopy s sender address data) (.of_kept (receiveCopy_keeps s sender address data))
  | rtpPacketReceive port packet dt =>
    exact .whenService (f := fun s => receivePacket (passTime s dt) port packet) (.trans (.of_kept (passTime_keeps s dt)) (.of_kept
      (receivePacket_keeps _ port packet)))
  | mergeWindowExpiry ctx seq dt =>
    exact .whenService (f := fun s => expireSeq (passTime s dt) ctx seq) (.trans (.of_kept (passTime_keeps s dt)) (.of_kept (expireSeq_keeps _ ctx
      seq)))
  | inputFrameComplete ctx => exact .whenControlled (f := fun s => completeInput s ctx) (.of_kept (completeInput_keeps s ctx))
  | inputFrameTimeout ctx => exact .whenControlled (f := fun s => timeoutInput s ctx) (.of_kept (timeoutInput_keeps s ctx))
  | icmpEcho port src dst ident seq data =>
    exact .whenService (f := fun s => portAnswers s port.port false port.frame (if ((portV4 s port.port).map mapped ++ portV6 s port.port).contains
      dst then some (.echoReply port.port (egressTag s port.port) src ident seq data) else none)) (.of_kept (portAnswers_keeps s port.port false
      port.frame _))
  | arpRequest port target sender senderMac =>
    exact .whenService (f := fun s => portAnswers s port.port false port.frame (if (portV4 s port.port).contains target then some (.arpReply
      port.port (egressTag s port.port) sender senderMac (portMac s port.port)) else none)) (.of_kept (portAnswers_keeps s port.port false
      port.frame _))
  | neighbourDiscovery port target sender senderMac =>
    exact .whenService (f := fun s => portAnswers s port.port false port.frame (if (portV6 s port.port).contains target then some (.neighbourAdvert
      port.port (egressTag s port.port) sender senderMac (portMac s port.port)) else none)) (.of_kept (portAnswers_keeps s port.port false
      port.frame _))
  | multicastQuery port group v6 =>
    exact .whenService (f := fun s => queryGroups s port.port port.frame group v6) (.of_kept (queryGroups_keeps s port.port port.frame group v6))
  | mediaPortFault port => exact .whenService (f := fun s => faultPort s port) (.of_steady (faultPort_keeps s port) (faultPort_steady (.refl _) port))
  | mediaLinkUp port => exact .whenService (f := fun s => raiseLink s port) (.of_kept (raiseLink_keeps s port))
  | umpireEnable => exact .whenControlled (f := enableUmpire) (.of_kept (enableUmpire_keeps s))
  | umpireConfigurationDigest partner digest =>
    exact .whenControlled (f := fun s => takeDigest s partner digest) (.of_kept (takeDigest_keeps s partner digest))
  | umpireScorecardFrame partner records =>
    exact .whenControlled (f := fun s => takeCards s partner records) (.of_steady (takeCards_keeps s partner records) (takeCards_steady (.refl _)
      partner records))
  | umpireHaltNotice partner ctx frame => exact .whenControlled (f := fun s => takeNotice s partner) (.of_kept (takeNotice_keeps s partner))
  | umpireLagEvent ctx frame => exact .whenControlled (f := fun s => lagEvent s ctx frame) (.of_kept (lagEvent_keeps s ctx frame))
  | umpireStop => exact .whenControlled (f := stopUmpire) (.of_steady (stopUmpire_keeps s) (stopUmpire_steady (.refl _)))
  | umpireResume => exact .whenControlled (f := resumeUmpire) (.of_steady (resumeUmpire_keeps s) (resumeUmpire_steady (.refl _)))
  | powerEstimate die mW dt =>
    exact .whenService (f := fun s => powerEvent s dt fun s => estimateDie s die mW) (powerEvent_sound dt fun s => .of_kept (estimateDie_keeps s
      die mW))
  | estimateRecalibrate die => exact .whenService (f := fun s => recalibrate s die) (.of_kept (recalibrate_keeps s die))
  | railTelemetry readings dt =>
    refine .whenService (f := fun s => powerEvent s dt fun s => meanPower (readings.foldl readRail s)) (powerEvent_sound dt fun t => .trans (t :=
      readings.foldl readRail t) ?_ ?_)
    · exact .foldl (fun u r => .of_steady (readRail_keeps u r) (readRail_steady (.refl _) r)) readings t
    · exact .of_kept (meanPower_keeps _)
  | currentStepUp die dt =>
    exact .whenService (f := fun s => powerEvent s dt fun s => currentUp s die) (powerEvent_sound dt fun s => .of_kept (currentUp_keeps s die))
  | budgetBroker dt => exact .whenControlled (f := fun s => powerEvent s dt runBroker) (powerEvent_sound dt fun t => .of_kept (runBroker_keeps t))
  | operatingPointStep die up =>
    exact .whenService (f := fun s => powerEvent s 0 fun s => stepPoint s die up) (powerEvent_sound 0 fun s => .of_kept (stepPoint_keeps s die up))
  | droopDetect die dt =>
    exact .whenService (f := fun s => powerEvent s dt fun s => detectDroop s die) (powerEvent_sound dt fun s => .of_kept (detectDroop_keeps s die))
  | droopRelease die dt =>
    exact .whenService (f := fun s => powerEvent s dt fun s => releaseDroop s die) (powerEvent_sound dt fun s => .of_kept (releaseDroop_keeps s die))
  | dieTemperatureStep die tenths dt =>
    exact .whenService (f := fun s => powerEvent s dt fun s => dieHeat s die tenths) (powerEvent_sound dt fun s => .of_kept (dieHeat_keeps s die
      tenths))
  | stackTemperature stack tenths dt =>
    exact .whenService (f := fun s => powerEvent s dt fun s => stackHeat s stack tenths) (powerEvent_sound dt fun s => .of_kept (stackHeat_keeps s
      stack tenths))
  | thermtrip unit => exact .next (t := tripThermal s unit) (.of_steady (tripThermal_keeps s unit) (tripThermal_steady (.refl _) unit))
  | regulatorWarning rail status dt =>
    exact .whenService (f := fun s => powerEvent s dt fun s => warnRail s rail status) (powerEvent_sound dt fun s => .of_steady (warnRail_keeps s
      rail status) (warnRail_steady (.refl _) rail status))
  | regulatorWarningClear rail dt =>
    exact .whenService (f := fun s => powerEvent s dt fun s => clearWarning s rail) (powerEvent_sound dt fun s => .of_kept (clearWarning_keeps s
      rail))
  | railLost rail =>
    exact .next (t := if inService s || s.ctl.phase == .starting then loseRail s rail else s) (.ite (.of_steady (loseRail_keeps s rail)
      (loseRail_steady (.refl _) rail)) (.refl s))
  | throttleEpisodeEnd reason dt =>
    exact .whenService (f := fun s => powerEvent s dt fun s => endEpisode s reason) (powerEvent_sound dt fun s => .of_kept (endEpisode_keeps s
      reason))
  | lagLimit ctx => exact .whenControlled (f := fun s => limitLag s ctx) (.of_steady (limitLag_keeps s ctx) (limitLag_steady (.refl _) ctx))
  | tickBoundary => exact .whenService (f := tickOver) (.of_steady (tickOver_keeps s) (tickOver_steady (.refl _)))
  | serviceLoopPass hostWrites failedReads =>
    have written : Sound true s (Machine.hostWrites s hostWrites) := .of_kept (hostWrites_keeps s hostWrites)
    refine written.next_trans (.whenControlled (f := fun s => servicePass s failedReads) ?_)
    exact .of_steady (servicePass_keeps _ failedReads) (servicePass_steady (.refl _) failedReads)
  | bar2Read offset length =>
    exact .whenService (f := fun s => emit s (.hostRead ((List.range length).map fun i => bar2Byte s (offset + i)))) (.of_kept (emit_keeps s _))
  | bar2Write offset data =>
    exact .whenService (f := fun s => writeBar2 s offset data) (.of_steady (writeBar2_keeps s offset data) (writeBar2_steady (.refl _) offset data))
  | bar0BadAccess offset width =>
    exact .next (t := if portAlive s && badAccess offset width then emit s .unsupportedRequest else s) (.ite (.of_kept (emit_keeps s _)) (.refl s))
  | pcieHotReset =>
    exact .next (t := if portAlive s then hotReset s else s) (.ite (.of_steady (hotReset_keeps s) (hotReset_steady (.refl _))) (.refl s))
  | pciePowerStateChange d3hot =>
    exact .next (t := if portAlive s then { s with ctl := { s.ctl with d3hot } } else s) (.ite ⟨rfl, (Steady.refl s.ctl).same rfl rfl rfl⟩ (.refl s))
  | busMasterEnable on =>
    exact .next (t := if portAlive s then { s with ctl := { s.ctl with busMaster := on } } else s) (.ite ⟨rfl, (Steady.refl s.ctl).same rfl rfl
      rfl⟩ (.refl s))
  | hostDmaError work => exact .whenControlled (f := fun s => dmaError s work) (.of_steady (dmaError_keeps s work) (dmaError_steady (.refl _) work))
  | heartbeat arrived =>
    exact .whenService (f := fun s => heartbeat s arrived) (.of_steady (heartbeat_keeps s arrived) (heartbeat_steady (.refl _) arrived))
  | standbyTakeover => exact .whenService (f := startTakeover) (.of_steady (startTakeover_keeps s) (startTakeover_steady (.refl _)))
  | controlCoreFail die core =>
    exact .whenService (f := fun s => failCore s die core) (.of_steady (failCore_keeps s die core) (failCore_steady (.refl _) die core))
  | collectiveMaxAnchors work record others =>
    exact .whenService (f := fun s => runCollective s work record 1 others) (.of_steady (runCollective_keeps s work record 1 others)
      (runCollective_steady (.refl _) work record 1 others))
  | collectiveSumExact work record others =>
    exact .whenService (f := fun s => runCollective s work record 2 others) (.of_steady (runCollective_keeps s work record 2 others)
      (runCollective_steady (.refl _) work record 2 others))
  | collectiveSumAnchored work record others =>
    exact .whenService (f := fun s => runCollective s work record 3 others) (.of_steady (runCollective_keeps s work record 3 others)
      (runCollective_steady (.refl _) work record 3 others))
  | collectiveBroadcast work record others =>
    exact .whenService (f := fun s => runCollective s work record 4 others) (.of_steady (runCollective_keeps s work record 4 others)
      (runCollective_steady (.refl _) work record 4 others))
  | collectiveElementwiseMax work record others =>
    exact .whenService (f := fun s => runCollective s work record 5 others) (.of_steady (runCollective_keeps s work record 5 others)
      (runCollective_steady (.refl _) work record 5 others))
  | tickBarrier group n entries =>
    exact .whenControlled (f := fun s => passBarrier s group n entries) (.of_steady (passBarrier_keeps s group n entries) (passBarrier_steady
      (.refl _) group n entries))
  | spanGroupBlob group member blob modes =>
    exact .whenControlled (f := fun s => takeBlob s group member blob modes) (.of_kept (takeBlob_keeps s group member blob modes))
  | peerLost peer => exact .whenControlled (f := fun s => losePeer s peer) (.of_steady (losePeer_keeps s peer) (losePeer_steady (.refl _) peer))
  | peerRegained peer =>
    exact .whenControlled (f := fun s => regainPeer s peer) (.of_steady (regainPeer_keeps s peer) (regainPeer_steady (.refl _) peer))
  | fabricOutputMessage sender flow ctx j data =>
    exact .whenControlled (f := fun s => takePeerOutput s sender flow ctx j data) (.of_kept (takePeerOutput_keeps s sender flow ctx j data))
  | powerLoss =>
    refine .next (t := if s.ctl.phase = .off then s else loseAll { s with ctl := { s.ctl with phase := .off, lossOfW := true } }) (.ite (.refl s)
      ⟨rfl, loseAll_steady ?_⟩)
    exact ⟨nofun, id, id⟩
  | powerOn vstbyHeld => exact .next (t := powerUp s vstbyHeld) (.of_steady (powerUp_keeps s vstbyHeld) (powerUp_steady (.refl _) vstbyHeld))
  | perstAssert => exact .next (t := assertPerst s) (.of_steady (assertPerst_keeps s) (assertPerst_steady (.refl _)))
  | perstDeassert vmemHeld =>
    exact .next (t := releasePerst s vmemHeld) (.of_steady (releasePerst_keeps s vmemHeld) (releasePerst_steady (.refl _) vmemHeld))
  | stbyOkFall =>
    exact .next (t := if s.ctl.phase = .off then s else { s with ctl := { s.ctl with phase := .halted, lossOfW := true, vstbyOff := true, inCharge
      := none } }) (.ite (.refl s) ⟨rfl, nofun, id, id⟩)
  | mainOkFall =>
    exact .next (t := if portAlive s then { s with ctl := { s.ctl with phase := .failed, lossOfW := true, inCharge := none } } else s) (.ite ⟨rfl,
      nofun, id, id⟩ (.refl s))
  | warmReset =>
    exact .next (t := if controlled s || s.ctl.phase == .starting then warmReset s else s) (.ite (.of_steady (warmReset_keeps s) (warmReset_steady
      (.refl _))) (.refl s))
  | dieRecovery =>
    exact .next (t := if controlled s || s.ctl.phase == .starting then dieCommand s else s) (.ite (.of_steady (dieCommand_keeps s)
      (dieCommand_steady (.refl _))) (.refl s))
  | bridgeError bridge =>
    exact .whenService (f := fun s => if bridge < 14 then recoverDie (logFault s 0x0010 2 11 bridge 0xFFFF bridge) (bridgeDie bridge) else s) (.ite
      (.trans (.of_steady (logFault_keeps s 0x0010 2 11 bridge 0xFFFF bridge) (logFault_steady (.refl _) 0x0010 2 11 bridge 0xFFFF bridge))
      (.of_steady (recoverDie_keeps _ (bridgeDie bridge)) (recoverDie_steady (.refl _) (bridgeDie bridge)))) (.refl s))
  | parkEnter =>
    exact .next (t := if controlled s || s.ctl.phase == .starting then enterPark s else s) (.ite (.of_kept (enterPark_keeps s)) (.refl s))
  | parkEntered =>
    exact .whenControlled (f := fun s => if getReg s 0x1200 0x10 = 1 then logFault (setReg s 0x1200 0x10 2) 0x0406 0 0 0 0xFFFF 0 else s) (.ite
      (.trans (.of_kept (setReg_keeps s 0x1200 0x10 2)) (.of_steady (logFault_keeps _ 0x0406 0 0 0 0xFFFF 0) (logFault_steady (.refl _) 0x0406 0 0
      0 0xFFFF 0))) (.refl s))
  | parkLeave =>
    exact .next (t := if controlled s || s.ctl.phase == .starting then leavePark s else s) (.ite (.of_steady (leavePark_keeps s) (leavePark_steady
      (.refl _))) (.refl s))
  | readmit value =>
    exact .next (t := if controlled s || s.ctl.phase == .starting then readmit s value else s) (.ite (.of_steady (readmit_keeps s value)
      (readmit_steady (.refl _) value)) (.refl s))
  | clearReverted =>
    exact .next (t := if controlled s || s.ctl.phase == .starting then clearReverted s else s) (.ite (.of_steady (clearReverted_keeps s)
      (clearReverted_steady (.refl _))) (.refl s))
  | startSequence found => exact .next (t := runSequence s found) (.of_steady (runSequence_keeps s found) (runSequence_steady (.refl _) found))
  | mirrorRecovery => exact .whenControlled (f := recoverMirror) (.of_steady (recoverMirror_keeps s) (recoverMirror_steady (.refl _)))
  | attestationReport =>
    exact .next (t := if controlled s || s.ctl.phase == .starting then attest s else s) (.ite (.of_kept (attest_keeps s)) (.refl s))
  | dictWindowRequest token frame =>
    exact .next (t := windowRequest s frame.flashOk token frame.bytes) (.of_steady (windowRequest_keeps s frame.flashOk token frame.bytes)
      (windowRequest_steady (.refl _) frame.flashOk token frame.bytes))
  | dtpNetRequest port frame =>
    exact .next (t := dtpNet s frame.flashOk port frame.bytes) (.of_steady (dtpNet_keeps s frame.flashOk port frame.bytes) (dtpNet_steady (.refl _)
      frame.flashOk port frame.bytes))
  | dtpPeerRequest peer frame =>
    exact .whenControlled (f := fun s => dtpPeer s frame.flashOk peer frame.bytes) (.of_steady (dtpPeer_keeps s frame.flashOk peer frame.bytes)
      (dtpPeer_steady (.refl _) frame.flashOk peer frame.bytes))
  | dictWrite origin index sub data =>
    exact .next (t := dictWrite s data.flashOk origin index sub data.bytes) (.of_steady (dictWrite_keeps s data.flashOk origin index sub
      data.bytes) (dictWrite_steady (.refl _) data.flashOk origin index sub data.bytes))
  | faultLogAcknowledge sequence =>
    exact .next (t := if served s 0xE000 then acknowledgeLog s sequence else s) (.ite (.of_kept (acknowledgeLog_keeps s sequence)) (.refl s))

end

/-- Settles O55: whatever the command, its effect is a next state with the same queue. -/
theorem everyCommandCompletes : Obligations.EveryCommandCompletes := by
  unfold Obligations.EveryCommandCompletes
  intro i s
  obtain ⟨t, ht, h⟩ := exec_sound i s
  exact ⟨t, ht, h.pending⟩

theorem step_sound_ctl {s t : State} (h : step s = .next t) : Steady false s.ctl t.ctl := by
  unfold step at h
  split at h
  · cases h
    exact .refl _
  · next i rest _ =>
    obtain ⟨u, hu, hs⟩ := exec_sound i { s with pending := rest }
    obtain rfl : u = t := by simpa [hu] using h
    exact ⟨nofun, hs.steady.log, hs.steady.journal⟩

/-- Settles O59: every append to either list drops its oldest entry at the bound, and no other step lengthens them. -/
theorem boundedLogs : Obligations.BoundedLogs := by
  unfold Obligations.BoundedLogs
  intro s t hlog hjournal h
  exact ⟨(step_sound_ctl h).log hlog, (step_sound_ctl h).journal hjournal⟩

/-- A command that does not move the phase leaves a part out of service in its phase. -/
theorem phase_eq_of_exec {i : Instr} {s t : State} (hi : movesPhase i = false) (h : exec i s = .next t) (hs : s.ctl.phase ≠ .service) :
    t.ctl.phase = s.ctl.phase := by
  obtain ⟨u, hu, hsound⟩ := exec_sound i s
  obtain rfl : u = t := by simpa [hu] using h
  exact hsound.steady.phase (by simp [hi]) hs

theorem tripThermal_phase (s : State) (unit : Nat) : (tripThermal s unit).ctl.phase = s.ctl.phase ∨
    (s.ctl.phase ≠ .off ∧ (tripThermal s unit).ctl.phase = .halted) := by
  unfold tripThermal
  split
  · exact .inl rfl
  · next h => exact .inr ⟨fun ho => h (.inr (.inl ho)), rfl⟩

theorem loseRail_phase (s : State) (rail : Nat) : (loseRail s rail).ctl.phase = s.ctl.phase ∨ (loseRail s rail).ctl.phase = .failed := by
  unfold loseRail
  split
  · exact .inl rfl
  · exact .inr rfl

theorem powerUp_phase (s : State) (v : Bool) :
    (powerUp s v).ctl.phase = s.ctl.phase ∨ (powerUp s v).ctl.phase = .halted ∨ (powerUp s v).ctl.phase = .reset := by
  unfold powerUp
  split
  · exact .inl rfl
  · extract_lets
    split
    · exact .inr (.inl rfl)
    · exact .inr (.inr rfl)

theorem assertPerst_phase (s : State) : (assertPerst s).ctl.phase = s.ctl.phase ∨ (portAlive s = true ∧ (assertPerst s).ctl.phase = .reset) := by
  unfold assertPerst
  split
  · exact .inl rfl
  · next h => exact .inr ⟨by simp at h; exact h.1, rfl⟩

theorem raiseVector_phase (s : State) (v : Nat) : (raiseVector s v).ctl.phase = s.ctl.phase := by
  unfold raiseVector
  split <;> rfl

theorem logFault_phase (s : State) (code severity kind unit ctx detail : Nat) : (logFault s code severity kind unit ctx detail).ctl.phase = s.ctl.phase := by
  unfold logFault
  extract_lets seq lost s1 s2 kept entry
  rw [raiseVector_phase]
  show s1.ctl.phase = s.ctl.phase
  unfold s1
  split <;> rfl

theorem takeReset_phase (s : State) (k : Nat) : (takeReset s k).ctl.phase = s.ctl.phase := logFault_phase ..

theorem releasePerst_phase (s : State) (v : Bool) :
    (releasePerst s v).ctl.phase = s.ctl.phase ∨ (s.ctl.phase = .reset ∧ (releasePerst s v).ctl.phase = .starting) := by
  unfold releasePerst
  split
  · exact .inl rfl
  · next h => 
    extract_lets
    refine .inr ⟨by simpa using h, ?_⟩
    split
    · rw [takeReset_phase]
    · rw [takeReset_phase]
      split <;> rfl

theorem runSequence_of_not_running {s : State} (hs : s.ctl.phase ≠ .starting) (hc : s.ctl.phase ≠ .service) (found : StartFindings) :
    runSequence s found = s := by
  unfold runSequence
  rw [if_neg hs, if_pos]
  simp [controlled, inService, hc]

/-- The changes of phase that a command makes of its own, from a part that is not in service. -/
def Moves (p q : Phase) : Instr → Prop
  | .thermtrip _ | .stbyOkFall => p ≠ .off ∧ q = .halted
  | .railLost _ => p = .starting ∧ q = .failed
  | .powerLoss => q = .off
  | .powerOn _ => q = .halted ∨ q = .reset
  | .perstAssert => (p = .starting ∨ p = .failed) ∧ q = .reset
  | .perstDeassert _ => p = .reset ∧ q = .starting
  | .mainOkFall => (p = .starting ∨ p = .failed) ∧ q = .failed
  | .startSequence _ => p = .starting
  | _ => False

theorem portAlive_cases (h : portAlive s = true) (hs : s.ctl.phase ≠ .service) : s.ctl.phase = .starting ∨ s.ctl.phase = .failed := by
  simpa [portAlive, hs] using h

theorem phase_after_exec {i : Instr} {t : State} (h : exec i s = .next t) (hs : s.ctl.phase ≠ .service) :
    t.ctl.phase = s.ctl.phase ∨ Moves s.ctl.phase t.ctl.phase i := by
  cases hi : movesPhase i with
  | false => exact .inl (phase_eq_of_exec hi h hs)
  | true =>
    unfold movesPhase at hi
    split at hi
    · obtain rfl := Host.Outcome.next.inj h
      exact tripThermal_phase s _
    · obtain rfl := Host.Outcome.next.inj h
      split
      · next hr => exact (loseRail_phase s _).imp_right fun hf => ⟨by simpa [inService, hs] using hr, hf⟩
      · exact .inl rfl
    · obtain rfl := Host.Outcome.next.inj h
      split
      · exact .inl rfl
      · exact .inr rfl
    · obtain rfl := Host.Outcome.next.inj h
      exact powerUp_phase s _
    · obtain rfl := Host.Outcome.next.inj h
      exact (assertPerst_phase s).imp_right fun ⟨ha, hr⟩ => ⟨portAlive_cases ha hs, hr⟩
    · obtain rfl := Host.Outcome.next.inj h
      exact releasePerst_phase s _
    · obtain rfl := Host.Outcome.next.inj h
      split
      · exact .inl rfl
      · next ho => exact .inr ⟨ho, rfl⟩
    · obtain rfl := Host.Outcome.next.inj h
      split
      · next ha => exact .inr ⟨portAlive_cases ha hs, rfl⟩
      · exact .inl rfl
    · next found =>
      obtain rfl : runSequence s found = t := Host.Outcome.next.inj h
      by_cases hp : s.ctl.phase = .starting
      · exact .inr hp
      · rw [runSequence_of_not_running hp hs]
        exact .inl rfl
    · cases hi

theorem starting_of_enters_service {i : Instr} {p : Phase} (h : Moves p .service i) : p = .starting ∧ ∃ f, i = .startSequence f := by
  unfold Moves at h
  split at h <;> simp_all

theorem moves_from_halted {i : Instr} {q : Phase} (h : Moves .halted q i) : q = .halted ∨ i = .powerLoss ∨ ∃ v, i = .powerOn v := by
  unfold Moves at h
  split at h <;> simp_all

theorem moves_from_off {i : Instr} {q : Phase} (h : Moves .off q i) : q = .off ∨ ∃ v, i = .powerOn v := by
  unfold Moves at h
  split at h <;> simp_all

/-- Settles O60, from the changes of phase that the commands make. -/
theorem phaseChanges : Obligations.PhaseChanges := by
  unfold Obligations.PhaseChanges
  refine ⟨fun i s t h hs ht => ?_, fun i s t h hs ht => ?_, fun i s t h hs ht => ?_⟩
  · have hm := phase_after_exec h hs
    rw [ht] at hm
    exact starting_of_enters_service (hm.resolve_left hs.symm)
  · have hm := (phase_after_exec h (by simp [hs])).resolve_left (hs ▸ ht)
    rw [hs] at hm
    exact (moves_from_halted hm).resolve_left ht
  · have hm := (phase_after_exec h (by simp [hs])).resolve_left (hs ▸ ht)
    rw [hs] at hm
    exact (moves_from_off hm).resolve_left ht

end Sys2Proof.Machine
end
section
/-! The lossless engine's jobs (O43): a task that an engine may take changes its own work alone. -/
namespace Sys2Proof.Machine
open Sys2Proof

variable {s : State} {u op i : Nat} {id : WorkId} {w v : Work} {j : JobRec}

theorem exec_engineCompress (h : inService s = true) (u : Nat) (id : WorkId) : exec (.engineCompress u id) s = .next (compressTask s u id) :=
  whenService_of_inService h fun s => compressTask s u id

theorem exec_engineDecompress (h : inService s = true) (u : Nat) (id : WorkId) : exec (.engineDecompress u id) s = .next (decompressTask s u id) :=
  whenService_of_inService h fun s => decompressTask s u id

/-- The work of a ready task is the one asked for, and it has no result yet. -/
theorem findWork_of_engineReady (h : engineReady s u id op = some (w, j, i)) : findWork s id = some w ∧ w.result = none := by
  unfold engineReady at h
  split at h
  · next w' ring pos i' hw =>
    split at h
    · split at h
      · cases h
      · next hbusy =>
        obtain rfl := (Prod.mk.inj (Option.some.inj h)).1
        exact ⟨hw, Option.not_isSome_iff_eq_none.mp fun hr => hbusy (by simp [hr])⟩
    · cases h
  · cases h

theorem compressTask_of_slice (h : engineReady s u id 1 = some (w, j, i)) (hi : i + 1 < engineSlices j) : compressTask s u id = engineDone s w := by
  simp only [compressTask, h, if_pos hi]

theorem compressTask_of_last (h : engineReady s u id 1 = some (w, j, i)) (hi : engineSlices j ≤ i + 1) :
    compressTask s u id =
      let out := compress j.format j.level j.windowLog (s.mem.read w.inBase w.inLen)
      if j.outCap < out.length then engineDone s { w with result := some stOutputOverflow }
      else engineDone s { w with output := out ++ engineRecord out.length w.inLen 0, outLen := out.length, valid := out.length } := by
  simp only [compressTask, h, if_neg (Nat.not_lt.mpr hi)]

theorem decompressTask_of_slice (h : engineReady s u id 2 = some (w, j, i)) (hi : i + 1 < engineSlices j) :
    decompressTask s u id = engineDone s w := by
  simp only [decompressTask, h, if_pos hi]

theorem decompressTask_of_last (h : engineReady s u id 2 = some (w, j, i)) (hi : engineSlices j ≤ i + 1) :
    decompressTask s u id =
      let z := decompress j.format (s.mem.read w.inBase w.inLen) j.outCap
      engineDone s { w with output := z.out ++ engineRecord z.out.length z.used z.dz, outLen := z.out.length, valid := z.out.length, detail := z.dz
                            note := if z.dz = 0 then 0 else stDecompressError } := by
  simp only [decompressTask, h, if_neg (Nat.not_lt.mpr hi)]

theorem findWork_engineDone (hw : findWork s id = some w) (hv : v.id = id) :
    findWork (engineDone s v) id = some { v with started := true, segs := [⟨0, ecOk, 0, 0, false, 0⟩] } := findWork_putWork hw hv

theorem findWork_engineDone_ne (hv : v.id = id) {d : WorkId} (hd : d ≠ id) : findWork (engineDone s v) d = findWork s d :=
  findWork_putWork_ne s (fun h => hd (h.symm.trans hv))

/-- Settles O43, from what a finished task leaves in its work. -/
theorem engines : Obligations.Engines := by
  unfold Obligations.Engines
  refine ⟨fun s u id w j i hs h => ⟨fun hi => ?_, fun hi => ?_⟩, fun s u id w j i hs h => ⟨fun hi => ?_, fun hi => ?_⟩⟩
  case refine_1 => rw [exec_engineCompress hs, compressTask_of_slice h hi]; rfl
  case refine_3 => rw [exec_engineDecompress hs, decompressTask_of_slice h hi]; rfl
  all_goals
    obtain ⟨hw, hres⟩ := findWork_of_engineReady h
    have hid := id_of_findWork hw
  case refine_2 =>
    refine ⟨_, exec_engineCompress hs u id, ?_⟩
    rw [compressTask_of_last h hi]
    dsimp only
    split
    · next hover =>
      exact ⟨_, findWork_engineDone hw hid, rfl, rfl, fun hfit => absurd hover (Nat.not_lt.mpr hfit), fun _ => ⟨rfl, rfl⟩,
        fun _ hd => findWork_engineDone_ne (by exact hid) hd, putWork_keeps s _⟩
    · next hfit =>
      exact ⟨_, findWork_engineDone hw hid, rfl, rfl, fun _ => ⟨rfl, rfl, hres⟩, fun hover => absurd hover hfit,
        fun _ hd => findWork_engineDone_ne (by exact hid) hd, putWork_keeps s _⟩
  case refine_4 =>
    refine ⟨_, exec_engineDecompress hs u id, ?_⟩
    rw [decompressTask_of_last h hi]
    refine ⟨_, findWork_engineDone hw hid, rfl, rfl, rfl, rfl, ?_, hres, fun _ hd => findWork_engineDone_ne (by exact hid) hd, putWork_keeps s _⟩
    dsimp only
    split <;> simp_all [stDecompressError]

end Sys2Proof.Machine
end
section
/-! What a fault-log entry and a raised vector leave of the dictionary and of the fabric part: lemmas that many statements share. -/
namespace Sys2Proof.Machine
open Sys2Proof

@[simp] theorem raiseVector_dict (s : State) (v : Nat) : (raiseVector s v).dict = s.dict := by unfold raiseVector; split <;> rfl

@[simp] theorem getReg_raiseVector (s : State) (v i j : Nat) : getReg (raiseVector s v) i j = getReg s i j := getReg_congr (raiseVector_dict s v) i j

@[simp] theorem getBlob_raiseVector (s : State) (v i j : Nat) : getBlob (raiseVector s v) i j = getBlob s i j :=
  getBlob_congr (raiseVector_dict s v) i j

/-- The dictionary after an entry of the fault log: the newest sequence number, and the count of lost entries. -/
theorem logFault_dict (s : State) (code severity kind unit ctx detail : Nat) :
    (logFault s code severity kind unit ctx detail).dict = (setReg s 0xE000 0x01 (getReg s 0xE000 0x01 + 1)).dict ∨
    (logFault s code severity kind unit ctx detail).dict = (setReg (addReg s 0xE000 0x05 1) 0xE000 0x01 (getReg s 0xE000 0x01 + 1)).dict := by
  unfold logFault
  extract_lets seq lost s1 s2 kept entry
  have hs2 : s2.dict = (setReg s1 0xE000 0x01 seq).dict := rfl
  rw [raiseVector_dict]
  show s2.dict = _ ∨ s2.dict = _
  rw [hs2]
  unfold s1
  split
  · exact .inr rfl
  · exact .inl rfl

theorem raiseVector_ctl (s : State) (v : Nat) : ∃ msix,
    (raiseVector s v).ctl = { s.ctl with msix } ∧ v ∈ msix ∧ ∀ u, u ∈ s.ctl.msix → u ∈ msix := by
  unfold raiseVector
  split
  · next h => exact ⟨_, rfl, by simpa using h, fun _ hu => hu⟩
  · exact ⟨_, rfl, List.mem_concat_self, fun _ hu => List.mem_append_left _ hu⟩

/-- The control part after an entry of the fault log: the log and the vectors due alone have changed, and vector 49 is due. -/
theorem logFault_ctl (s : State) (code severity kind unit ctx detail : Nat) : ∃ log msix,
    (logFault s code severity kind unit ctx detail).ctl = { s.ctl with log, msix } ∧ 49 ∈ msix ∧ ∀ v, v ∈ s.ctl.msix → v ∈ msix := by
  unfold logFault
  extract_lets seq lost s1 s2 kept entry
  have h1 : s1.ctl = s.ctl := by
    unfold s1
    split
    · exact addReg_ctl s _ _ _
    · rfl
  have h2 : s2.ctl = s.ctl := h1
  have hlogged : ({ s2 with ctl := { s2.ctl with log := kept ++ [entry] } } : State).ctl = { s.ctl with log := kept ++ [entry] } := by
    rw [← h2]
  obtain ⟨msix, hctl, hdue, hkept⟩ := raiseVector_ctl { s2 with ctl := { s2.ctl with log := kept ++ [entry] } } 49
  rw [hlogged] at hctl hkept
  exact ⟨_, msix, hctl, hdue, hkept⟩

end Sys2Proof.Machine

namespace Sys2Proof
open Machine

variable {ps : List (Nat × Nat)} {s t : State}

theorem Kept.fabric (s : State) (f : Fabric) : Kept [.fabric] s { s with fabric := f } := by
  intro p hp
  cases p
  case fabric => simp at hp
  all_goals rfl

theorem RegsBut.refl (ps : List (Nat × Nat)) (s : State) : RegsBut ps s s := fun _ _ _ _ => rfl

theorem BlobsBut.refl (ps : List (Nat × Nat)) (s : State) : BlobsBut ps s s := fun _ _ _ _ => rfl

theorem RegsBut.raiseVector (h : RegsBut ps s t) (v : Nat) : RegsBut ps s (raiseVector t v) := h.congr (raiseVector_dict t v)

/-- An entry of the fault log moves #E000.01 and #E000.05 alone. -/
theorem RegsBut.logFault (h : RegsBut ps s t) (h1 : (0xE000, 0x01) ∈ ps) (h5 : (0xE000, 0x05) ∈ ps) (code severity kind unit ctx detail : Nat) :
    RegsBut ps s (logFault t code severity kind unit ctx detail) := by
  rcases logFault_dict t code severity kind unit ctx detail with hd | hd
  · exact (h.setReg (by decide) h1).congr hd
  · exact ((h.addReg (by decide) h5).setReg (by decide) h1).congr hd

theorem BlobsBut.congr {u : State} (h : BlobsBut ps s t) (k : u.dict = t.dict) : BlobsBut ps s u :=
  fun i j hj hn => (getBlob_congr k i j).trans (h i j hj hn)

theorem BlobsBut.setReg (h : BlobsBut ps s t) (i j v : Nat) : BlobsBut ps s (setReg t i j v) := h

theorem BlobsBut.addReg (h : BlobsBut ps s t) (i j n : Nat) : BlobsBut ps s (addReg t i j n) :=
  fun i' j' hj hn => (getBlob_addReg t i j n i' j').trans (h i' j' hj hn)

theorem BlobsBut.logFault (h : BlobsBut ps s t) (code severity kind unit ctx detail : Nat) :
    BlobsBut ps s (logFault t code severity kind unit ctx detail) := by
  rcases logFault_dict t code severity kind unit ctx detail with hd | hd
  · exact (h.setReg _ _ _).congr hd
  · exact ((h.addReg _ _ _).setReg _ _ _).congr hd

end Sys2Proof

namespace Sys2Proof.Machine
open Sys2Proof

theorem getReg_logFault {i j : Nat} (hj : j < 256) (hi : i ≠ 0xE000) (s : State) (code severity kind unit ctx detail : Nat) :
    getReg (logFault s code severity kind unit ctx detail) i j = getReg s i j :=
  (RegsBut.refl [(0xE000, 0x01), (0xE000, 0x05)] s).logFault (by simp) (by simp) _ _ _ _ _ _ i j hj (by simp [hi])

@[simp] theorem getBlob_logFault (s : State) (code severity kind unit ctx detail i j : Nat) :
    getBlob (logFault s code severity kind unit ctx detail) i j = getBlob s i j := by
  rcases logFault_dict s code severity kind unit ctx detail with hd | hd
  · rw [getBlob_congr hd, getBlob_setReg]
  · rw [getBlob_congr hd, getBlob_setReg, getBlob_addReg]

theorem addReg_blobs (s : State) (i j n : Nat) : (addReg s i j n).dict.blobs = s.dict.blobs := by
  unfold addReg
  split <;> rfl

theorem logFault_blobs (s : State) (code severity kind unit ctx detail : Nat) :
    (logFault s code severity kind unit ctx detail).dict.blobs = s.dict.blobs := by
  rcases logFault_dict s code severity kind unit ctx detail with hd | hd <;> rw [hd]
  · rfl
  · exact addReg_blobs s _ _ _

theorem addReg_congr {s t : State} (h : t.dict = s.dict) (i j n : Nat) : (addReg t i j n).dict = (addReg s i j n).dict := by
  unfold addReg
  split
  · rw [getReg_congr h]
    unfold setReg
    rw [h]
  · exact h

end Sys2Proof.Machine
end

section
/-! The wait for a group's last member, and the tick barrier (O29). -/
namespace Sys2Proof.Machine
open Sys2Proof

variable {s : State} {g n k a : Nat} {ranks : List Nat} {entries : List (Nat × Nat)}

theorem lt_of_groupOf (h : groupOf s g = some (k, ranks)) : g < 32 := by
  unfold groupOf at h
  dsimp only at h
  split at h
  · next hg => exact hg.1
  · cases h

/-- The wait that is added to #4100.10 and to the member's slot, before it is logged. -/
def addGroupWait (s : State) (g late wait : Nat) (ranks : List Nat) : State :=
  let r := ranks.findIdx (· == late)
  let slots := padTo 512 (getBlob s 0x4100 (0x32 + g))
  addReg (setBlob s 0x4100 (0x32 + g) (slots.take (8 * r) ++ leBytes 8 (numAt slots (8 * r) 8 + wait / 1000) ++ slots.drop (8 * r + 8)))
    0x4100 0x10 (wait / 1000)

theorem noteGroupWait_of_none (h : (groupWait s ranks entries).2 = 0) : noteGroupWait s g ranks entries = s := by
  simp only [noteGroupWait, h, if_true]

theorem noteGroupWait_of_some (h : (groupWait s ranks entries).2 ≠ 0) :
    let t := addGroupWait s g (groupWait s ranks entries).1 (groupWait s ranks entries).2 ranks
    noteGroupWait s g ranks entries = t ∨ ∃ detail, noteGroupWait s g ranks entries = logFault t 0x0106 0 0 0 0xFFFF detail := by
  simp only [noteGroupWait, h, if_false]
  split
  · exact .inr ⟨_, rfl⟩
  · exact .inl rfl

theorem regsBut_addGroupWait (g : Nat) (s : State) (late wait : Nat) (ranks : List Nat) :
    RegsBut [(0x4100, 0x10), (0xE000, 0x01), (0xE000, 0x05)] s (addGroupWait s g late wait ranks) :=
  ((RegsBut.refl _ s).setBlob _ _ _).addReg (by decide) (by simp)

theorem blobsBut_addGroupWait (hg : g < 32) (s : State) (late wait : Nat) (ranks : List Nat) :
    BlobsBut [(0x4100, 0x32 + g)] s (addGroupWait s g late wait ranks) :=
  ((BlobsBut.refl _ s).setBlob (by omega) (by simp)).addReg _ _ _

theorem getReg_addGroupWait (s : State) (late wait : Nat) (ranks : List Nat) :
    getReg (addGroupWait s g late wait ranks) 0x4100 0x10 = getReg (addReg s 0x4100 0x10 (wait / 1000)) 0x4100 0x10 := by
  unfold addGroupWait addReg
  split
  · rw [getReg_setReg_same, getReg_setReg_same, getReg_setBlob]
  · rw [getReg_setBlob]

/-- R414: what the wait for the last member leaves. -/
theorem noteGroupWait_spec (hg : g < 32) (s : State) (ranks : List Nat) (entries : List (Nat × Nat)) :
    let wait := (groupWait s ranks entries).2
    let t := noteGroupWait s g ranks entries
    (wait ≠ 0 → getReg t 0x4100 0x10 = getReg (addReg s 0x4100 0x10 (wait / 1000)) 0x4100 0x10) ∧ (wait = 0 → t.dict = s.dict) ∧
      RegsBut [(0x4100, 0x10), (0xE000, 0x01), (0xE000, 0x05)] s t ∧ BlobsBut [(0x4100, 0x32 + g)] s t := by
  intro wait t
  by_cases hw : wait = 0
  · have ht : t = s := noteGroupWait_of_none hw
    rw [ht]
    exact ⟨fun hn => absurd hw hn, fun _ => rfl, .refl _ s, .refl _ s⟩
  · rcases noteGroupWait_of_some (g := g) hw with ht | ⟨detail, ht⟩
    · rw [show t = _ from ht]
      exact ⟨fun _ => getReg_addGroupWait s _ _ _, fun h0 => absurd h0 hw, regsBut_addGroupWait g s _ _ _, blobsBut_addGroupWait hg s _ _ _⟩
    · rw [show t = _ from ht]
      refine ⟨fun _ => ?_, fun h0 => absurd h0 hw, (regsBut_addGroupWait g s _ _ _).logFault (by simp) (by simp) _ _ _ _ _ _,
        (blobsBut_addGroupWait hg s _ _ _).logFault _ _ _ _ _ _⟩
      rw [getReg_logFault (by decide) (by decide), getReg_addGroupWait]

/-- A kept result is dropped once its frame has committed. -/
def keepsResult (s : State) (k : Nat) (id : WorkId) : Bool :=
  match id with
  | .frame c _ => c != k || (findWork s id).isSome
  | .job _ _ _ => true

/-- The barrier of round `n` passed. -/
def passedBarrier (s : State) (g n k : Nat) (ranks : List Nat) (entries : List (Nat × Nat)) : State :=
  let t := noteGroupWait s g ranks entries
  { t with fabric := { t.fabric with barrier := nset t.fabric.barrier g (n + 1), results := t.fabric.results.filter fun r => keepsResult t k r.1 } }

theorem passBarrier_of_passable (hgr : groupOf s g = some (k, ranks)) (hn : ngetD s.fabric.barrier g 0 ≤ n)
    (hall : ∀ a, a ∈ ranks → ∃ e, e ∈ entries ∧ e.1 = a) (hrun : ∀ w j, w ∈ s.works → w.id = .frame k j → n < w.issued) :
    passBarrier s g n entries = passedBarrier s g n k ranks entries := by
  have hin : (ranks.all fun a => entries.any fun e => e.1 == a) = true := by simpa [List.all_eq_true] using hall
  unfold passBarrier
  rw [hgr]
  dsimp only
  rw [if_neg]
  · rfl
  · rintro (hbusy | hmissing | hlate)
    · obtain ⟨w, hw, hlive⟩ := List.any_eq_true.mp hbusy
      split at hlive
      · next c j hid =>
        obtain ⟨rfl, hle⟩ : c = k ∧ w.issued ≤ n := by simpa using hlive
        exact absurd (hrun w j hw hid) (Nat.not_lt.mpr hle)
      · cases hlive
    · simp [hin] at hmissing
    · exact absurd hn (Nat.not_le.mpr hlate)

theorem passBarrier_of_missing (hgr : groupOf s g = some (k, ranks)) (ha : a ∈ ranks) (hno : ∀ e, e ∈ entries → e.1 ≠ a) :
    passBarrier s g n entries = s := by
  have hin : (ranks.all fun a => entries.any fun e => e.1 == a) = false := by
    rw [List.all_eq_false]
    exact ⟨a, ha, by simpa using fun x hx => hno (a, x) hx rfl⟩
  unfold passBarrier
  rw [hgr]
  dsimp only
  rw [if_pos (by simp [hin])]

theorem find?_filter_of_imp {α : Type} (p q : α → Bool) (h : ∀ x, p x = true → q x = true) : ∀ l : List α, (l.filter q).find? p = l.find? p
  | [] => rfl
  | x :: l => by
    have ih := find?_filter_of_imp p q h l
    by_cases hq : q x = true <;> by_cases hp : p x = true <;> simp_all [List.find?_cons]

theorem keptResult_passedBarrier_of_none {j : Nat} (h : findWork s (.frame k j) = none) (i : Nat) :
    keptResult (passedBarrier s g n k ranks entries) (.frame k j) i = none := by
  have hw : (noteGroupWait s g ranks entries).works = s.works := noteGroupWait_keeps s g ranks entries .works (by decide)
  have hf : findWork (noteGroupWait s g ranks entries) (.frame k j) = none := by rw [findWork, hw, ← findWork, h]
  unfold keptResult passedBarrier
  rw [Option.map_eq_none_iff, List.find?_eq_none]
  rintro r hr hid
  obtain ⟨-, hlive⟩ := List.mem_filter.mp hr
  obtain ⟨hrid, -⟩ : r.1 = .frame k j ∧ r.2.1 = i := by simpa using hid
  simp [hrid, keepsResult, hf] at hlive

theorem keptResult_passedBarrier_of_some {id : WorkId} (h : (findWork s id).isSome = true) (i : Nat) :
    keptResult (passedBarrier s g n k ranks entries) id i = keptResult s id i := by
  have hw : (noteGroupWait s g ranks entries).works = s.works := noteGroupWait_keeps s g ranks entries .works (by decide)
  have hfab : (noteGroupWait s g ranks entries).fabric = s.fabric := noteGroupWait_keeps s g ranks entries .fabric (by decide)
  unfold keptResult passedBarrier
  dsimp only
  rw [hfab, find?_filter_of_imp]
  rintro r hr
  obtain ⟨hrid, -⟩ : r.1 = id ∧ r.2.1 = i := by simpa using hr
  rw [hrid]
  have hfind : findWork (noteGroupWait s g ranks entries) id = findWork s id := by rw [findWork, hw, ← findWork]
  cases id with
  | frame c j =>
    rw [← hfind] at h
    simp [keepsResult, h]
  | job _ _ _ => rfl

theorem blobs_takeBlob {m : Nat} (hg : g < 32) (hm : m ≠ ownAddress s) (blob : List Byte) (modes : Nat) :
    (takeBlob s g m blob modes).fabric.blobs = (s.fabric.blobs.filter fun b => !(b.1 == g && b.2.1 == m)) ++ [(g, m, blob, modes)] := by
  rw [takeBlob, if_neg (by omega)]

/-- Settles O29. -/
theorem tickBarriers : Obligations.TickBarriers := by
  unfold Obligations.TickBarriers
  refine ⟨fun s g n entries k ranks hs hgr hn hall hrun => ?_, fun s g n entries k ranks a hs hgr ha hno => ?_, fun s g m blob modes hs hg hm => ?_⟩
  · obtain ⟨hadd, hzero, hregs, hblobs⟩ := noteGroupWait_spec (lt_of_groupOf hgr) s ranks entries
    have hfab : (noteGroupWait s g ranks entries).fabric = s.fabric := noteGroupWait_keeps s g ranks entries .fabric (by decide)
    refine ⟨passedBarrier s g n k ranks entries, ?_, ?_, ?_, ?_, ?_, ⟨hadd, hzero⟩, hregs, hblobs, ?_⟩
    · rw [← passBarrier_of_passable hgr hn hall hrun]
      exact whenControlled_of_controlled hs fun s => passBarrier s g n entries
    · exact ngetD_nset_same ..
    · intro g' hg'
      rw [← hfab]
      exact ngetD_nset_ne _ _ _ (Ne.symm hg')
    · exact fun j i hf => keptResult_passedBarrier_of_none hf i
    · exact fun id i hf => keptResult_passedBarrier_of_some hf i
    · rw [← passBarrier_of_passable hgr hn hall hrun]
      exact (passBarrier_keeps s g n entries).mono rfl
  · rw [show exec (.tickBarrier g n entries) s = .next (passBarrier s g n entries) from
      whenControlled_of_controlled hs fun s => passBarrier s g n entries, passBarrier_of_missing hgr ha hno]
  · refine ⟨_, whenControlled_of_controlled hs fun s => takeBlob s g m blob modes, ?_⟩
    refine ⟨?_, ?_, ?_, takeBlob_keeps s g m blob modes⟩ <;> rw [blobs_takeBlob hg hm]
    · simp
    · intro b ms hb
      simpa using hb
    · rintro ⟨g', m', b, ms⟩ he
      have hne : ¬(g' = g ∧ m' = m ∧ b = blob ∧ ms = modes) := fun ⟨hg', hm', _, _⟩ => he ⟨hg', hm'⟩
      simpa [hne] using fun _ => not_and_or.mp he

end Sys2Proof.Machine
end
section
/-! Lost and regained peers, and their outputs as inputs (O27). Releasing held frames sends and stores, but leaves the lists of lost peers as they
are, and every vector that is due stays due. -/
namespace Sys2Proof.Machine
open Sys2Proof

/-- The peers that are lost are `lost`, those whose absence was noted are `gone`, and vector `v` is due. -/
structure PeersAt (lost gone : List Nat) (v : Nat) (f : Fabric) (c : Control) : Prop where
  lost : f.lost = lost
  gone : f.gone = gone
  due : v ∈ c.msix

variable {lost gone : List Nat} {v : Nat} {s t : State}

theorem PeersAt.same {f f' : Fabric} {c c' : Control} (h : PeersAt lost gone v f c) (hl : f'.lost = f.lost) (hg : f'.gone = f.gone)
    (hc : c'.msix = c.msix) : PeersAt lost gone v f' c' := ⟨hl.trans h.lost, hg.trans h.gone, hc ▸ h.due⟩

theorem PeersAt.kept {ps : List Sys2Proof.Part} (h : PeersAt lost gone v s.fabric s.ctl) (k : Kept ps s t)
    (hf : ps.contains .fabric = false := by decide) (hc : ps.contains .ctl = false := by decide) : PeersAt lost gone v t.fabric t.ctl := by
  have ef : t.fabric = s.fabric := k .fabric (by simpa using hf)
  have ec : t.ctl = s.ctl := k .ctl (by simpa using hc)
  rwa [ef, ec]

theorem PeersAt.foldl {α : Type} {f : State → α → State}
    (hf : ∀ t a, PeersAt lost gone v t.fabric t.ctl → PeersAt lost gone v (f t a).fabric (f t a).ctl) :
    ∀ (l : List α) {s : State}, PeersAt lost gone v s.fabric s.ctl → PeersAt lost gone v (l.foldl f s).fabric (l.foldl f s).ctl
  | [], _, h => h
  | a :: l, _, h => PeersAt.foldl hf l (hf _ a h)

theorem raiseVector_peersAt (h : PeersAt lost gone v s.fabric s.ctl) (n : Nat) :
    PeersAt lost gone v (raiseVector s n).fabric (raiseVector s n).ctl := by
  unfold raiseVector
  split
  · exact h
  · exact ⟨h.lost, h.gone, List.mem_append_left _ h.due⟩

theorem logFault_peersAt (h : PeersAt lost gone v s.fabric s.ctl) (code severity kind unit ctx detail : Nat) :
    PeersAt lost gone v (logFault s code severity kind unit ctx detail).fabric (logFault s code severity kind unit ctx detail).ctl := by
  unfold logFault
  extract_lets seq lost' s1 s2 kept entry
  have h1 : PeersAt lost gone v s1.fabric s1.ctl := by
    unfold s1
    split
    · exact h.kept (addReg_keeps _ _ _ _)
    · exact h
  refine raiseVector_peersAt ?_ 49
  exact h1.same rfl rfl rfl

theorem putLink_peersAt (h : PeersAt lost gone v s.fabric s.ctl) (i : Nat) (l : Link) :
    PeersAt lost gone v (putLink s i l).fabric (putLink s i l).ctl := h.same rfl rfl rfl

theorem pumpLink_peersAt (i : Nat) : ∀ (fuel : Nat) {s : State}, PeersAt lost gone v s.fabric s.ctl →
    PeersAt lost gone v (pumpLink i fuel s).fabric (pumpLink i fuel s).ctl
  | 0, _, h => h
  | fuel + 1, s, h => by
    unfold pumpLink
    extract_lets l
    split
    · exact h
    · extract_lets g turn t
      refine pumpLink_peersAt i fuel ?_
      have ht : PeersAt lost gone v t.fabric t.ctl := putLink_peersAt h i _
      exact (ht.kept (addReg_keeps t (linkIndex i) 0x07 1)).kept (emit_keeps _ _)

theorem sendFrame_peersAt (h : PeersAt lost gone v s.fabric s.ctl) (i : Nat) (f : PaltonFrame) :
    PeersAt lost gone v (sendFrame s i f).fabric (sendFrame s i f).ctl := pumpLink_peersAt i _ (putLink_peersAt h i _)

theorem sendKept_peersAt (h : PeersAt lost gone v s.fabric s.ctl) (k : KeptMsg) :
    PeersAt lost gone v (sendKept s k).fabric (sendKept s k).ctl := by
  unfold sendKept
  extract_lets me
  split
  · exact h
  · refine PeersAt.foldl (fun t f ht => sendFrame_peersAt ht _ f) _ ?_
    exact h.same rfl rfl rfl

theorem sendMessage_peersAt (h : PeersAt lost gone v s.fabric s.ctl) (peer flow : Nat) (data : List Byte) :
    PeersAt lost gone v (sendMessage s peer flow data).1.fabric (sendMessage s peer flow data).1.ctl := by
  unfold sendMessage
  refine sendKept_peersAt ?_ _
  exact h.same rfl rfl rfl

theorem noteDelivered_peersAt (h : PeersAt lost gone v s.fabric s.ctl) (f r : Nat) (e : FrameEntry) :
    PeersAt lost gone v (noteDelivered s f r e).fabric (noteDelivered s f r e).ctl := by
  unfold noteDelivered
  split
  · exact raiseVector_peersAt (logFault_peersAt (h.kept (clearFlowBit_keeps _ _ _ _)) _ _ _ _ _ _) 51
  · exact h

theorem sringPut_peersAt (h : PeersAt lost gone v s.fabric s.ctl) (r k : Nat) (f : FrameEntry) :
    PeersAt lost gone v (sringPut s r k f).fabric (sringPut s r k f).ctl := by
  unfold sringPut
  exact raiseVector_peersAt ((h.kept (sringWrite_keeps _ _ _ _)).kept (putSring_keeps _ _ _)) _

theorem deliverHeld_peersAt (h : PeersAt lost gone v s.fabric s.ctl) (f : Nat) (o : HeldOutput) :
    PeersAt lost gone v (deliverHeld s f o).fabric (deliverHeld s f o).ctl := by
  unfold deliverHeld
  split
  · split
    · exact h
    · dsimp only
      split
      · exact noteDelivered_peersAt ((sendMessage_peersAt h _ _ _).kept (putFlow_keeps _ _ _)) _ _ _
      · split
        · exact noteDelivered_peersAt ((sringPut_peersAt h _ _ _).kept (putFlow_keeps _ _ _)) _ _ _
        · exact h
  · exact h

theorem deliverFlow_peersAt (h : PeersAt lost gone v s.fabric s.ctl) (f : Nat) :
    PeersAt lost gone v (deliverFlow s f).fabric (deliverFlow s f).ctl := by
  unfold deliverFlow
  refine PeersAt.foldl (fun t o ht => ?_) _ h
  split
  · split
    · exact deliverHeld_peersAt ht _ _
    · exact ht
  · exact ht

theorem releaseFlow_peersAt (h : PeersAt lost gone v s.fabric s.ctl) (e : FrameEntry) (f : Nat) :
    PeersAt lost gone v (releaseFlow s e f).fabric (releaseFlow s e f).ctl := by
  unfold releaseFlow
  extract_lets s1 x live held s2 s3
  have h2 : PeersAt lost gone v s2.fabric s2.ctl :=
    PeersAt.foldl (fun t r ht => ht.kept (addWait_keeps _ _ _ _)) _ (h.kept (resumeReceivers_keeps _ _ _))
  have h3 : PeersAt lost gone v s3.fabric s3.ctl := by
    unfold s3
    split
    · exact h2.kept (addReg_keeps _ _ _ _)
    · exact h2
  exact deliverFlow_peersAt (h3.kept (putFlow_keeps _ _ _)) _

theorem releaseOutput_peersAt (h : PeersAt lost gone v s.fabric s.ctl) (k j : Nat) :
    PeersAt lost gone v (releaseOutput s k j).fabric (releaseOutput s k j).ctl := by
  unfold releaseOutput
  split
  · split
    · exact h
    · exact PeersAt.foldl (fun _ _ ht => releaseFlow_peersAt ht _ _) _ h
  · exact h

theorem unhold_peersAt (h : PeersAt lost gone v s.fabric s.ctl) (k j m : Nat) :
    PeersAt lost gone v (unhold s k j m).fabric (unhold s k j m).ctl := by
  unfold unhold
  split
  · split
    · exact releaseOutput_peersAt (h.kept (clearWait_keeps _ _ _ _)) _ _
    · exact h
  · exact h

theorem toMirror_peersAt (h : PeersAt lost gone v s.fabric s.ctl) (i : MirrorItem) :
    PeersAt lost gone v (toMirror s i).fabric (toMirror s i).ctl := by
  unfold toMirror
  split
  · exact h.same rfl rfl rfl
  · exact h

theorem freeFrame_peersAt (h : PeersAt lost gone v s.fabric s.ctl) (k j : Nat) :
    PeersAt lost gone v (freeFrame s k j).fabric (freeFrame s k j).ctl := by
  unfold freeFrame
  extract_lets s1 s2
  have h1 : PeersAt lost gone v s1.fabric s1.ctl := by
    unfold s1
    split
    · exact h.kept (releaseRange_keeps _ _)
    · exact h
  exact toMirror_peersAt h1 _

theorem settleFrame_peersAt (h : PeersAt lost gone v s.fabric s.ctl) (k j : Nat) :
    PeersAt lost gone v (settleFrame s k j).fabric (settleFrame s k j).ctl := by
  unfold settleFrame
  split
  · split
    · exact freeFrame_peersAt h _ _
    · exact h
  · exact h

theorem putRecord_peersAt (h : PeersAt lost gone v s.fabric s.ctl) (r pos : Nat) (image : Completion) :
    PeersAt lost gone v (putRecord s r pos image).fabric (putRecord s r pos image).ctl := by
  unfold putRecord
  exact raiseVector_peersAt ((h.kept (hostWrite_keeps _ _ _)).kept (hostWrite_keeps _ _ _)) _

theorem postReports_peersAt (h : PeersAt lost gone v s.fabric s.ctl) :
    PeersAt lost gone v (postReports s).fabric (postReports s).ctl := by
  unfold postReports
  split
  · exact h
  · refine PeersAt.foldl (fun t e ht => PeersAt.foldl (fun u m hu => ?_) _ ht) _ h
    exact settleFrame_peersAt ((putRecord_peersAt hu _ _ _).kept (clearWait_keeps _ _ _ _)) _ _

theorem umpireRelease_peersAt (h : PeersAt lost gone v s.fabric s.ctl) (k j : Nat) :
    PeersAt lost gone v (umpireRelease s k j).fabric (umpireRelease s k j).ctl := by
  unfold umpireRelease
  exact settleFrame_peersAt (postReports_peersAt ((unhold_peersAt h k j _).kept (clearWait_keeps _ _ _ _))) k j

theorem comparedOk_peersAt (h : PeersAt lost gone v s.fabric s.ctl) (k j : Nat) :
    PeersAt lost gone v (comparedOk s k j).fabric (comparedOk s k j).ctl := by
  unfold comparedOk
  split
  · exact h
  · exact umpireRelease_peersAt h k j

theorem markMismatch_peersAt (h : PeersAt lost gone v s.fabric s.ctl) (k j : Nat) :
    PeersAt lost gone v (markMismatch s k j).fabric (markMismatch s k j).ctl := by
  unfold markMismatch
  split
  · exact postReports_peersAt ((h.kept (putFrame_keeps _ _)).kept (clearWait_keeps _ _ _ _))
  · exact h

theorem applyMajority_peersAt (h : PeersAt lost gone v s.fabric s.ctl) (r : CardRecord) (rs : List (Nat × CardRecord)) (released : Bool) :
    PeersAt lost gone v (applyMajority s r rs released).fabric (applyMajority s r rs released).ctl := by
  unfold applyMajority
  split
  · extract_lets s1
    have h1 : PeersAt lost gone v s1.fabric s1.ctl := h
    split
    · exact h1
    · exact comparedOk_peersAt h1 _ _
  · extract_lets two s1
    have h1 : PeersAt lost gone v s1.fabric s1.ctl := (markMismatch_peersAt h _ _).kept (dueHalt_keeps _ _ _)
    split
    · exact h1
    · exact h1

theorem noteMismatch_peersAt (h : PeersAt lost gone v s.fabric s.ctl) (r : CardRecord) (rs : List CardRecord) :
    PeersAt lost gone v (noteMismatch s r rs).fabric (noteMismatch s r rs).ctl := by
  unfold noteMismatch
  refine PeersAt.foldl (fun t p ht => ht.kept (emit_keeps _ _)) _ (logFault_peersAt ?_ _ _ _ _ _ _)
  exact (h.kept (addReg_keeps _ _ _ _)).kept (setBlob_keeps _ _ _ _)

theorem comparePairs_peersAt (h : PeersAt lost gone v s.fabric s.ctl) (r : CardRecord) (rs fresh : List (Nat × CardRecord)) :
    PeersAt lost gone v (comparePairs s r rs fresh).fabric (comparePairs s r rs fresh).ctl := by
  unfold comparePairs
  refine PeersAt.foldl (fun _ _ ht => noteMismatch_peersAt ht _ _) _ ?_
  exact (h.kept (addReg_keeps s 0x5020 0x08 fresh.length)).same rfl rfl rfl

theorem compareOne_peersAt (h : PeersAt lost gone v s.fabric s.ctl) (r : CardRecord) :
    PeersAt lost gone v (compareOne s r).fabric (compareOne s r).ctl := by
  unfold compareOne
  extract_lets ps rs complete policy differs
  generalize rs.partition _ = p
  obtain ⟨old, fresh⟩ := p
  dsimp -zeta only
  extract_lets s1 s2 released
  split
  · exact h
  · have h1 : PeersAt lost gone v s1.fabric s1.ctl := comparePairs_peersAt h _ _ _
    have h2 : PeersAt lost gone v s2.fabric s2.ctl := by
      unfold s2
      split
      · exact h1.kept (dropCompared_keeps _ _)
      · exact h1
    have hm := markMismatch_peersAt h2 r.ctx r.frame
    have hd := hm.kept (dueHalt_keeps _ r.ctx r.frame)
    grind [applyMajority_peersAt, comparedOk_peersAt]

theorem losePartner_peersAt (h : PeersAt lost gone v s.fabric s.ctl) (p : Nat) :
    PeersAt lost gone v (losePartner s p).fabric (losePartner s p).ctl := by
  unfold losePartner
  extract_lets st s1 s2
  have h1 : PeersAt lost gone v s1.fabric s1.ctl := h
  split
  · exact h
  · split
    · refine PeersAt.foldl (fun _ _ ht => compareOne_peersAt ht _) _ ?_
      split
      · exact h1
      · exact h1
    · refine PeersAt.foldl (fun _ _ ht => umpireRelease_peersAt ht _ _) _ ?_
      exact PeersAt.kept (s := s2) h1 (unhaltMarked_keeps _)

/-! ### Peers lost and regained -/

section
variable {p : Nat}

/-- A peer that is lost, counted and logged, before the Umpire hears of it. -/
def lostPeer (s : State) (p : Nat) : State :=
  let gone := if s.fabric.gone.contains p then s.fabric.gone else s.fabric.gone ++ [p]
  let s := { s with fabric := { s.fabric with lost := s.fabric.lost ++ [p], gone } }
  logFault (addReg s 0x4100 0x11 1) 0x0103 0 0 0 0xFFFF p

theorem losePeer_of_missing (hm : 8 ≤ ngetD s.fabric.missing p 0) (hp : p ∉ s.fabric.lost) : losePeer s p = losePartner (lostPeer s p) p := by
  rw [losePeer, if_neg]
  · rfl
  · simpa [hp] using hm

theorem losePeer_of_not (h : ngetD s.fabric.missing p 0 < 8 ∨ p ∈ s.fabric.lost) : losePeer s p = s := by
  rw [losePeer, if_pos (by simpa using h)]

theorem losePartner_of_not (h : p ∉ partners s) : losePartner s p = s := by
  rw [losePartner]
  exact if_pos (.inl (by simpa using h))

theorem due_logFault (s : State) (code severity kind unit ctx detail : Nat) : 49 ∈ (logFault s code severity kind unit ctx detail).ctl.msix := by
  unfold logFault
  extract_lets seq lost' s1 s2 kept entry
  unfold raiseVector
  split
  · next h => simpa using h
  · exact List.mem_append_right _ (List.mem_singleton.mpr rfl)

theorem lostPeer_fabric (s : State) (p : Nat) : (lostPeer s p).fabric =
    { s.fabric with lost := s.fabric.lost ++ [p], gone := if s.fabric.gone.contains p then s.fabric.gone else s.fabric.gone ++ [p] } := by
  unfold lostPeer
  extract_lets gone f t
  have hl : (logFault (addReg t 0x4100 0x11 1) 0x0103 0 0 0 0xFFFF p).fabric = (addReg t 0x4100 0x11 1).fabric :=
    logFault_keeps _ _ _ _ _ _ _ .fabric (by decide)
  rw [hl]
  exact addReg_keeps t 0x4100 0x11 1 .fabric (by decide)

theorem lostPeer_peersAt (s : State) (p : Nat) :
    PeersAt (s.fabric.lost ++ [p]) (lostPeer s p).fabric.gone 49 (lostPeer s p).fabric (lostPeer s p).ctl :=
  ⟨by rw [lostPeer_fabric], rfl, due_logFault _ _ _ _ _ _ _⟩

theorem lostPeer_keeps (s : State) (p : Nat) : Kept [.dict, .fabric, .ctl] s (lostPeer s p) :=
  (((Kept.fabric s _).mono rfl).trans ((addReg_keeps _ 0x4100 0x11 1).mono rfl)).trans ((logFault_keeps _ 0x0103 0 0 0 0xFFFF p).mono rfl)

theorem mem_gone_lostPeer (s : State) (p : Nat) : p ∈ (lostPeer s p).fabric.gone := by
  rw [lostPeer_fabric]
  dsimp only
  split
  · next h => simpa using h
  · simp

theorem partners_lostPeer (s : State) (p : Nat) : partners (lostPeer s p) = partners s := by
  have hreg (j : Nat) (hj : j < 256) : getReg (lostPeer s p) 0x5020 j = getReg s 0x5020 j :=
    ((RegsBut.of_dict [(0x4100, 0x11), (0xE000, 0x01), (0xE000, 0x05)] rfl).addReg (by decide) (by simp)).logFault (by simp) (by simp) _ _ _ _ _ _
      0x5020 j hj (by simp)
  have humpire : (lostPeer s p).umpire = s.umpire := logFault_keeps _ _ _ _ _ _ _ .umpire (by decide) |>.trans
    (addReg_keeps _ _ _ _ .umpire (by decide))
  simp only [partners, hreg _ (by decide : (1 : Nat) < 256), hreg _ (by decide : (2 : Nat) < 256), hreg _ (by decide : (3 : Nat) < 256), humpire]

/-- A peer that is back: no longer lost, its missed boundaries forgotten, and logged. -/
def backPeer (s : State) (p : Nat) : State :=
  logFault { s with fabric := { s.fabric with lost := s.fabric.lost.filter (· != p), missing := ndel s.fabric.missing p } } 0x0104 0 0 0 0xFFFF p

theorem regainPeer_of_lost (hp : p ∈ s.fabric.lost) (hr : reachable s p = true) :
    regainPeer s p = backPeer s p ∨ regainPeer s p = startMirror (backPeer s p) := by
  have h : regainPeer s p = if getReg (backPeer s p) 0x4100 0x09 = p ∧ getReg (backPeer s p) 0x4000 0x08 = 3 then startMirror (backPeer s p)
      else backPeer s p := by
    rw [regainPeer, if_neg]
    · rfl
    · simp [hp, hr]
  rw [h]
  split
  · exact .inr rfl
  · exact .inl rfl

theorem startMirror_peers (s : State) : (startMirror s).fabric.lost = s.fabric.lost ∧ (startMirror s).fabric.missing = s.fabric.missing := by
  have one (t : State) (i : MirrorItem) : (toMirror t i).fabric.lost = t.fabric.lost ∧ (toMirror t i).fabric.missing = t.fabric.missing := by
    unfold toMirror
    split <;> exact ⟨rfl, rfl⟩
  have all : ∀ (l : List MirrorItem) (t : State),
      (l.foldl toMirror t).fabric.lost = t.fabric.lost ∧ (l.foldl toMirror t).fabric.missing = t.fabric.missing := by
    intro l
    induction l with
    | nil => exact fun _ => ⟨rfl, rfl⟩
    | cons i l ih => exact fun t => ⟨(ih _).1.trans (one t i).1, (ih _).2.trans (one t i).2⟩
  exact all _ _

theorem backPeer_fabric (s : State) (p : Nat) :
    (backPeer s p).fabric = { s.fabric with lost := s.fabric.lost.filter (· != p), missing := ndel s.fabric.missing p } :=
  logFault_keeps _ _ _ _ _ _ _ .fabric (by decide)

/-- What a peer that is back leaves, whether or not the mirror starts again. -/
theorem regainPeer_spec (hp : p ∈ s.fabric.lost) (hr : reachable s p = true) :
    (regainPeer s p).fabric.lost = s.fabric.lost.filter (· != p) ∧ (regainPeer s p).fabric.missing = ndel s.fabric.missing p ∧
      (regainPeer s p).ctl = (backPeer s p).ctl := by
  rcases regainPeer_of_lost hp hr with h | h <;> rw [h]
  · exact ⟨by rw [backPeer_fabric], by rw [backPeer_fabric], rfl⟩
  · obtain ⟨hlost, hmissing⟩ := startMirror_peers (backPeer s p)
    rw [hlost, hmissing, backPeer_fabric]
    exact ⟨rfl, rfl, startMirror_keeps (backPeer s p) .ctl (by decide)⟩

end

/-! ### Outputs of a peer as inputs (R419, R437) -/

theorem ctxOf_ackTo (s : State) (peer flow k : Nat) : ctxOf (ackTo s peer flow) k = ctxOf s k := rfl

/-- The context after input `bytes` was taken as the frame in turn. -/
def fedCtx (s : State) (k : Nat) (bytes : List Byte) : Ctx :=
  let c := ctxOf s k
  let f : InFrame := { j := c.nextIn, bytes, complete := true, tick := counterOf s, first := s.clk.now }
  { c with inputs := c.inputs ++ [f], nextIn := c.nextIn + 1, prevInput := bytes, prevStamp := 0 }

/-- An input that its context takes, in an entry that is free. -/
theorem acceptInput_spec {k : Nat} (hst : ctxState s k = 3) (hfree : entryFree s k (ctxOf s k).nextIn = true) (bytes : List Byte) :
    let t := acceptInput s k bytes 0 false false
    t.ctxs = nset s.ctxs k (fedCtx s k bytes) ∧ t.frames = s.frames ++ [{ ctx := k, j := (ctxOf s k).nextIn, state := 1 }] ∧
      Kept [.ctxs, .frames, .fabric, .out] s t := by
  extract_lets t
  let u := acceptFrame (putCtx s k (fedCtx s k bytes)) k (ctxOf s k).nextIn
  have ht : t = toMirror (toMirror u (.input (.frame k (ctxOf s k).nextIn) bytes)) (.entry (.frame k (ctxOf s k).nextIn) 1 0) := by
    simp only [t, acceptInput, takesInput, hst, hfree]
    rfl
  have hk : Kept [.fabric, .out] u t := by
    rw [ht]
    exact (toMirror_keeps u _).trans (toMirror_keeps _ _)
  exact ⟨hk .ctxs (by decide), hk .frames (by decide),
    (((putCtx_keeps s k _).mono rfl).trans ((acceptFrame_keeps _ k _).mono rfl)).trans (hk.mono rfl)⟩

section
variable {sender flow k j : Nat} {d : List Byte}

theorem exec_fabricOutputMessage (h : controlled s = true) (sender flow k j : Nat) (d : List Byte) :
    exec (.fabricOutputMessage sender flow k j d) s = .next (takePeerOutput s sender flow k j d) :=
  whenControlled_of_controlled h fun s => takePeerOutput s sender flow k j d

theorem takePeerOutput_of_other (h : getReg s (ctxIndex k) 0x26 ≠ 3 ∨ getReg s (ctxIndex k) 0x27 ≠ sender) :
    takePeerOutput s sender flow k j d = s := by
  rw [takePeerOutput, if_pos (.inr h)]

section
variable (hk : k < 16384) (hfed : getReg s (ctxIndex k) 0x26 = 3) (hfrom : getReg s (ctxIndex k) 0x27 = sender)
include hk hfed hfrom

theorem takePeerOutput_of_fed : takePeerOutput s sender flow k j d =
    if !takesInput s k then addReg s (ctxIndex k) 0x3D 1
    else if (ctxOf s k).lastFrom.any fun l => decide (j ≤ l) then ackTo s sender flow
    else if !storeRoom s k d.length then waitPool s k 2
    else
      let taken := entryFree s k (ctxOf s k).nextIn
      let s := stopWaiting (acceptInput s k d 0 false false) k 2
      if taken then ackTo (putCtx s k { ctxOf s k with lastFrom := some j }) sender flow else s := by
  rw [takePeerOutput, if_neg]
  simp [ctxReg, hfed, hfrom, maxCtx, hk]

end

end

/-- Settles O27. -/
theorem peerDevices : Obligations.PeerDevices := by
  unfold Obligations.PeerDevices
  refine ⟨⟨fun s p hs hm hp => ?_, fun s p hs h => ?_, fun s p hs hp hr => ?_⟩, fun s sender flow k j d hs hk hfed hfrom hst hl hroom hfree => ?_,
    fun s sender flow k j l d hs hk hfed hfrom hst hl hj => ?_, fun s sender flow k j d hs hk hfed hfrom hst => ?_,
    fun s sender flow k j d hs h => ?_⟩
  · refine ⟨_, whenControlled_of_controlled hs fun s => losePeer s p, ?_⟩
    rw [losePeer_of_missing hm hp]
    have hq := losePartner_peersAt (lostPeer_peersAt s p) p
    refine ⟨hq.lost, by rw [hq.gone]; exact mem_gone_lostPeer s p, hq.due, fun hn => ?_⟩
    have hlost : losePartner (lostPeer s p) p = lostPeer s p := losePartner_of_not (by rwa [partners_lostPeer])
    refine ⟨?_, ?_, ?_⟩
    · rw [hlost]
      exact mem_log_logFault _ _ _ _ _ _ _
    · rw [hlost, lostPeer, getReg_logFault (by decide) (by decide)]
      exact getReg_congr (addReg_congr rfl _ _ _) _ _
    · rw [hlost]
      exact lostPeer_keeps s p
  · rw [show exec (.peerLost p) s = .next (losePeer s p) from whenControlled_of_controlled hs fun s => losePeer s p, losePeer_of_not h]
  · refine ⟨_, whenControlled_of_controlled hs fun s => regainPeer s p, ?_⟩
    obtain ⟨hlost, hmissing, hctl⟩ := regainPeer_spec hp hr
    rw [hlost, hmissing, hctl]
    refine ⟨by simp, fun q hq => by simp [hq], nget_ndel_same .., mem_log_logFault _ _ _ _ _ _ _, (regainPeer_keeps s p).mono rfl⟩
  · refine ⟨_, exec_fabricOutputMessage hs .., ?_⟩
    rw [takePeerOutput_of_fed hk hfed hfrom, if_neg (by simp [takesInput, hst]), if_neg, if_neg (by simp [hroom])]
    · obtain ⟨hctxs, hframes, hkept⟩ := acceptInput_spec hst hfree d
      simp only [hfree, if_true]
      generalize acceptInput s k d 0 false false = u at hctxs hframes hkept
      have hctx : ctxOf (stopWaiting u k 2) k = fedCtx s k d := by
        unfold ctxOf
        rw [show (stopWaiting u k 2).ctxs = _ from hctxs, ngetD_nset_same]
      have hown : ctxOf (ackTo (putCtx (stopWaiting u k 2) k { ctxOf (stopWaiting u k 2) k with lastFrom := some j }) sender flow) k =
          { fedCtx s k d with lastFrom := some j } := by
        rw [ctxOf_ackTo, ctxOf_putCtx_same, hctx]
      refine ⟨by rw [hown]; rfl, by rw [hown], ?_, hframes, ⟨_, List.mem_concat_self⟩, fun l hl => ?_, ?_⟩
      · rw [hown]
        exact ⟨_, rfl, rfl, rfl, rfl⟩
      · rw [ctxOf_ackTo, ctxOf_putCtx_ne _ _ (Ne.symm hl)]
        unfold ctxOf
        rw [show (stopWaiting u k 2).ctxs = _ from hctxs, ngetD_nset_ne _ _ _ (Ne.symm hl)]
      · refine Kept.by (ackTo_keeps _ sender flow) rfl (Kept.by (putCtx_keeps _ k _) rfl ?_)
        exact Kept.by (stopWaiting_keeps u k 2) rfl (hkept.mono rfl)
    · simpa [Option.any_eq_true] using hl
  · refine ⟨_, exec_fabricOutputMessage hs .., ?_⟩
    rw [takePeerOutput_of_fed hk hfed hfrom, if_neg (by simp [takesInput, hst]), if_pos (by simpa [hl] using hj)]
    exact ⟨⟨_, rfl⟩, ackTo_keeps s sender flow⟩
  · rw [exec_fabricOutputMessage hs, takePeerOutput_of_fed hk hfed hfrom, if_pos (by simp [takesInput, hst])]
  · rw [exec_fabricOutputMessage hs, takePeerOutput_of_other h]

end Sys2Proof.Machine
end
section
/-! BAR2, bad accesses of BAR0, the hot reset and the power states of the port (O5). -/
namespace Sys2Proof.Machine
open Sys2Proof

/-! ### Writes through BAR2 -/

/-- The bytes `bs` written from `a + k` on, those apart whose address `p` refuses. -/
def setAllowed (p : Nat → Bool) (a : Nat) (m : Memory) (bs : List (Byte × Nat)) : Memory :=
  (bs.filter fun b => p (a + b.2)).foldl (fun m b => m.set (a + b.2) b.1) m

theorem setAllowed_cons (p : Nat → Bool) (a : Nat) (m : Memory) (b : Byte × Nat) (bs : List (Byte × Nat)) :
    setAllowed p a m (b :: bs) = setAllowed p a (if p (a + b.2) then m.set (a + b.2) b.1 else m) bs := by
  unfold setAllowed
  by_cases h : p (a + b.2) = true <;> simp [h]

theorem get_setAllowed_out (p : Nat → Bool) (a : Nat) (bs : List Byte) : ∀ (k : Nat) (m : Memory) {c : Nat}, (c < a + k ∨ a + k + bs.length ≤ c) →
    (setAllowed p a m (bs.zipIdx k)).get c = m.get c := by
  induction bs with
  | nil => exact fun _ _ _ _ => rfl
  | cons b bs ih =>
    intro k m c hc
    rw [List.zipIdx_cons, setAllowed_cons, ih (k + 1) _ (by rw [List.length_cons] at hc; omega)]
    split
    · exact Memory.get_set_ne m b (by rw [List.length_cons] at hc; simp only; omega)
    · rfl

theorem get_setAllowed_in (p : Nat → Bool) (a : Nat) (bs : List Byte) : ∀ (k : Nat) {m : Memory}, m.wf = true → ∀ (i : Nat) (h : i < bs.length),
    (setAllowed p a m (bs.zipIdx k)).get (a + (k + i)) = if p (a + (k + i)) then bs[i] else m.get (a + (k + i)) := by
  induction bs with
  | nil => exact fun _ _ _ _ h => absurd h (Nat.not_lt_zero _)
  | cons b bs ih =>
    intro k m hm i h
    rw [List.zipIdx_cons, setAllowed_cons]
    cases i with
    | zero =>
      rw [get_setAllowed_out p a bs (k + 1) _ (by omega)]
      simp only [Nat.add_zero, List.getElem_cons_zero]
      split
      · exact Memory.get_set_same hm _ _
      · rfl
    | succ i =>
      have hw : (if p (a + k) then m.set (a + k) b else m).wf = true := by
        split
        · exact Memory.wf_set hm _ _
        · exact hm
      have hget : (if p (a + k) then m.set (a + k) b else m).get (a + (k + (i + 1))) = m.get (a + (k + (i + 1))) := by
        split
        · exact Memory.get_set_ne m b (by omega)
        · rfl
      have := ih (k + 1) hw i (by simpa using h)
      rw [show k + 1 + i = k + (i + 1) by omega, hget] at this
      exact this

variable {s : State} {a : Nat} {bs : List Byte}

/-- Device memory after a write through BAR2. -/
def bar2Memory (s : State) (a : Nat) (bs : List Byte) : Memory := setAllowed (fun x => inHostAlloc s x 1) a s.mem bs.zipIdx

theorem writeBar2_of_all (h : ∀ i, i < bs.length → inHostAlloc s (a + i) 1 = true) : writeBar2 s a bs = { s with mem := bar2Memory s a bs } := by
  have hlost : (bs.zipIdx.filter fun b => !inHostAlloc s (a + b.2) 1) = [] := by
    rw [List.filter_eq_nil_iff]
    rintro ⟨b, i⟩ hb
    have hi := (List.mem_zipIdx hb).2.1
    simp [h i (by omega)]
  simp only [writeBar2, hlost]
  rfl

theorem writeBar2_of_first {i : Nat} (hi : i < bs.length) (hno : inHostAlloc s (a + i) 1 = false)
    (hfirst : ∀ j, j < i → inHostAlloc s (a + j) 1 = true) :
    writeBar2 s a bs = logFault { s with mem := bar2Memory s a bs } 0x0090 0 0 0 0xFFFF (a + i) := by
  have hfind : (bs.zipIdx.filter fun b => !inHostAlloc s (a + b.2) 1).head? = some (bs[i], i) := by
    rw [List.head?_filter, List.find?_eq_some_iff_getElem]
    refine ⟨by simp [hno], i, by simpa using hi, by simp, fun j hj => ?_⟩
    simp [hfirst j hj]
  obtain ⟨rest, hlost⟩ := List.head?_eq_some_iff.mp hfind
  simp only [writeBar2, hlost]
  rfl

/-- Either every byte lies inside host allocations or one is the first that does not. -/
theorem exists_first_outside (s : State) (a n : Nat) : (∀ i, i < n → inHostAlloc s (a + i) 1 = true) ∨
    ∃ i, i < n ∧ inHostAlloc s (a + i) 1 = false ∧ ∀ j, j < i → inHostAlloc s (a + j) 1 = true := by
  induction n with
  | zero => exact .inl fun i hi => absurd hi (Nat.not_lt_zero i)
  | succ n ih =>
    rcases ih with hall | ⟨i, hi, hno, hfirst⟩
    · cases hn : inHostAlloc s (a + n) 1 with
      | false => exact .inr ⟨n, Nat.lt_succ_self n, hn, hall⟩
      | true => exact .inl fun i hi => (Nat.lt_succ_iff_lt_or_eq.mp hi).elim (hall i) (by rintro rfl; exact hn)
    · exact .inr ⟨i, Nat.lt_succ_of_lt hi, hno, hfirst⟩

theorem mem_writeBar2 (s : State) (a : Nat) (bs : List Byte) : (writeBar2 s a bs).mem = bar2Memory s a bs := by
  rcases exists_first_outside s a bs.length with hall | ⟨i, hi, hno, hfirst⟩
  · rw [writeBar2_of_all hall]
  · rw [writeBar2_of_first hi hno hfirst]
    exact logFault_keeps _ _ _ _ _ _ _ .mem (by decide)

/-! ### The port -/

theorem portAlive_of_phase (h : s.ctl.phase = .starting ∨ s.ctl.phase = .service ∨ s.ctl.phase = .failed) : portAlive s = true := by
  rcases h with h | h | h <;> simp [portAlive, h]

/-- R436: what a counted reset leaves of the dictionary. -/
theorem takeReset_regs (s : State) (k : Nat) : getReg (takeReset s k) 0x1200 0x04 = k ∧
    RegsBut [(0x1200, 0x04), (0xE000, 0x01), (0xE000, 0x05)] s (takeReset s k) ∧ BlobsBut [(0x1200, 0x05)] s (takeReset s k) := by
  refine ⟨?_, ?_, ?_⟩
  · rw [takeReset, getReg_logFault (by decide) (by decide), getReg_setBlob, getReg_setReg_same]
  · exact (((RegsBut.refl _ s).setReg (by decide) (by simp)).setBlob _ _ _).logFault (by simp) (by simp) _ _ _ _ _ _
  · exact (((BlobsBut.refl _ s).setReg _ _ _).setBlob (by decide) (by simp)).logFault _ _ _ _ _ _

/-- Settles O5. -/
theorem pciExpress : Obligations.PciExpress := by
  unfold Obligations.PciExpress
  refine ⟨⟨fun s a n hs => ?_, fun s a bs hs hwf => ?_, fun s a w hp hw => ?_⟩, fun s hp => ?_, fun s b hp => ?_, fun s b hp => ?_⟩
  · exact whenService_of_inService hs fun s => emit s (.hostRead ((List.range n).map fun i => bar2Byte s (a + i)))
  · refine ⟨_, whenService_of_inService hs fun s => writeBar2 s a bs, ?_, fun i hi => ?_,
      (writeBar2_keeps s a bs).mono rfl, fun i hi hno hfirst => ?_, fun hall => ?_⟩
    · rw [mem_writeBar2]
      exact fun x hx => get_setAllowed_out _ a bs 0 s.mem hx
    · rw [mem_writeBar2]
      simpa [bar2Memory] using get_setAllowed_in (fun x => inHostAlloc s x 1) a bs 0 hwf i hi
    · rw [writeBar2_of_first hi hno hfirst]
      obtain ⟨kept, hlog⟩ := logFault_log { s with mem := bar2Memory s a bs } 0x0090 0 0 0 0xFFFF (a + i)
      exact ⟨_, by rw [hlog, List.getLast?_concat], rfl, rfl, rfl⟩
    · rw [writeBar2_of_all hall]
      exact Kept.mem s _
  · have hbad : badAccess a w = true := by
      rw [badAccess, Bool.not_eq_true']
      exact Bool.eq_false_iff.mpr fun h => hw (by simpa using h)
    show Host.Outcome.next _ = _
    rw [portAlive_of_phase hp, hbad]
    rfl
  · refine ⟨hotReset s, ?_, ?_⟩
    · show Host.Outcome.next _ = _
      rw [portAlive_of_phase hp]
      rfl
    · obtain ⟨hkind, hregs, hblobs⟩ := takeReset_regs { s with ctl := { s.ctl with busMaster := false, d3hot := false } } 4
      have hctl : ∃ log msix, (hotReset s).ctl = { s.ctl with busMaster := false, d3hot := false, log, msix } := by
        obtain ⟨log, msix, h, -, -⟩ := logFault_ctl (setBlob (setReg { s with ctl := { s.ctl with busMaster := false, d3hot := false } } 0x1200 0x04 4)
          0x1200 0x05 (countedReset (getBlob s 0x1200 0x05) 4)) 0x0408 2 0 0 0xFFFF 4
        exact ⟨log, msix, h⟩
      obtain ⟨log, msix, hctl⟩ := hctl
      exact ⟨by rw [hctl], by rw [hctl], hkind, (hotReset_keeps s).mono rfl, hregs, hblobs⟩
  · show Host.Outcome.next _ = _
    rw [portAlive_of_phase hp]
    rfl
  · show Host.Outcome.next _ = _
    rw [portAlive_of_phase hp]
    rfl

end Sys2Proof.Machine
end
section
/-! The power loops (O6, O7, O8). Counting the reasons' times and noting their episodes (R464) leaves what the loops read: the dies, the rails'
readings and warnings, the droops and the media dies' heat. -/
namespace Sys2Proof.Machine
open Sys2Proof

variable {s t u : State} {d : Nat}

/-- From `s` to `t` the reasons' counters, bits and episodes alone have changed, besides the fault log. -/
structure ReasonsOnly (s t : State) : Prop where
  power : ∃ cleared parts at_, t.power = { s.power with cleared, parts, at_ }
  blobs : t.dict.blobs = s.dict.blobs
  clk : t.clk = s.clk
  regs : ∀ i j, j < 256 → i ≠ 0xE000 → ¬ (i = 0x3000 ∧ 0x09 ≤ j ∧ j ≤ 0x10) → getReg t i j = getReg s i j

theorem ReasonsOnly.refl (s : State) : ReasonsOnly s s := ⟨⟨_, _, _, rfl⟩, rfl, rfl, fun _ _ _ _ _ => rfl⟩

theorem ReasonsOnly.trans (h : ReasonsOnly s t) (k : ReasonsOnly t u) : ReasonsOnly s u := by
  obtain ⟨⟨_, _, _, hp⟩, hb, hc, hr⟩ := h
  obtain ⟨⟨c, p, a, kp⟩, kb, kc, kr⟩ := k
  exact ⟨⟨c, p, a, by rw [kp, hp]⟩, kb.trans hb, kc.trans hc, fun i j hj hi hn => (kr i j hj hi hn).trans (hr i j hj hi hn)⟩

theorem ReasonsOnly.foldl {f : State → Nat → State} {n : Nat} (hf : ∀ s r, r < n → ReasonsOnly s (f s r)) :
    ∀ (l : List Nat) (s : State), (∀ r, r ∈ l → r < n) → ReasonsOnly s (l.foldl f s)
  | [], s, _ => .refl s
  | r :: l, s, hl => (hf s r (hl r (by simp))).trans (ReasonsOnly.foldl hf l _ fun x hx => hl x (by simp [hx]))

/-- The counter of reason `r` runs by `dt`, where the reason holds. -/
def countReason (dt : Nat) (s : State) (r : Nat) : State :=
  if holding s r then
    let n := ngetD s.power.parts r 0 + dt
    addReg { s with power := { s.power with parts := nset s.power.parts r (n % 3000) } } 0x3000 (0x0A + r) (n / 3000)
  else s

/-- The state once every reason's counter has run. -/
def countedReasons (s : State) : State := (List.range 7).foldl (countReason (s.clk.now - s.power.at_)) s

theorem countReasons_eq (s : State) : countReasons s =
    { countedReasons s with power := { (countedReasons s).power with at_ := (countedReasons s).clk.now } } := by
  unfold countReasons countedReasons countReason
  rfl

theorem reasonsOnly_countReason (dt : Nat) (s : State) {r : Nat} (hr : r < 7) : ReasonsOnly s (countReason dt s r) := by
  unfold countReason
  split
  · extract_lets n p
    refine ⟨⟨_, _, _, addReg_keeps _ _ _ _ .power (by decide)⟩, ?_, addReg_keeps _ _ _ _ .clk (by decide), fun i j hj _ hn => ?_⟩
    · exact addReg_blobs _ _ _ _
    · refine (getReg_addReg_ne _ _ ?_).trans rfl
      rw [Ne, objKey_inj (by omega) hj]
      omega
  · exact .refl s

theorem reasonsOnly_countReasons (s : State) : ReasonsOnly s (countReasons s) := by
  have h : ReasonsOnly s (countedReasons s) :=
    ReasonsOnly.foldl (n := 7) (fun t r hr => reasonsOnly_countReason _ t hr) _ s fun r hr => List.mem_range.mp hr
  rw [countReasons_eq]
  generalize countedReasons s = t at h
  exact h.trans ⟨⟨_, _, _, rfl⟩, rfl, rfl, fun _ _ _ _ _ => rfl⟩

/-- The episode of reason `r` begins, or its end is noted. -/
def noteReason (s : State) (r : Nat) : State :=
  let ds := heldDies s r
  if ds ≠ [] then
    let s := { s with power := { s.power with cleared := ndel s.power.cleared r } }
    if (getReg s 0x3000 0x09).testBit r then s
    else
      let die := if r = 0 then 0xFF else ds.headD 0xFF
      logFault (setReg s 0x3000 0x09 (setBitAt (getReg s 0x3000 0x09) r)) 0x0300 0 0 0 0xFFFF (2 ^ r * 256 + die)
  else if (getReg s 0x3000 0x09).testBit r ∧ (nget s.power.cleared r).isNone then
    { s with power := { s.power with cleared := nset s.power.cleared r s.clk.now } }
  else s

theorem noteReasons_eq (s : State) : noteReasons s = (List.range 7).foldl noteReason s := rfl

theorem reasonsOnly_noteReason (s : State) (r : Nat) : ReasonsOnly s (noteReason s r) := by
  unfold noteReason
  extract_lets ds p t die q
  have ht : ReasonsOnly s t := ⟨⟨_, _, _, rfl⟩, rfl, rfl, fun _ _ _ _ _ => rfl⟩
  split
  · split
    · exact ht
    · refine ht.trans ⟨⟨_, _, _, logFault_keeps _ _ _ _ _ _ _ .power (by decide)⟩, logFault_blobs _ _ _ _ _ _ _,
        logFault_keeps _ _ _ _ _ _ _ .clk (by decide), fun i j hj hi hn => ?_⟩
      rw [getReg_logFault hj hi]
      refine getReg_setReg_ne _ _ ?_
      rw [Ne, objKey_inj (by decide) hj]
      omega
  · split
    · exact ⟨⟨_, _, _, rfl⟩, rfl, rfl, fun _ _ _ _ _ => rfl⟩
    · exact .refl s

theorem reasonsOnly_noteReasons (s : State) : ReasonsOnly s (noteReasons s) := by
  rw [noteReasons_eq]
  exact ReasonsOnly.foldl (n := 7) (fun t r _ => reasonsOnly_noteReason t r) _ s fun r hr => List.mem_range.mp hr

/-! ### What the loops read after the reasons were counted or noted -/

theorem ReasonsOnly.diePower (h : ReasonsOnly s t) (d : Nat) : diePower t d = diePower s d := by
  obtain ⟨_, _, _, hp⟩ := h.power
  rw [Machine.diePower, Machine.diePower, hp]

theorem ReasonsOnly.getBlob (h : ReasonsOnly s t) (i j : Nat) : getBlob t i j = getBlob s i j := by
  rw [Machine.getBlob, Machine.getBlob, h.blobs]

theorem ReasonsOnly.droopAt (h : ReasonsOnly s t) : t.power.droopAt = s.power.droopAt := by obtain ⟨_, _, _, hp⟩ := h.power; rw [hp]

theorem ReasonsOnly.warnings (h : ReasonsOnly s t) : t.power.warnings = s.power.warnings := by obtain ⟨_, _, _, hp⟩ := h.power; rw [hp]

theorem ReasonsOnly.rails (h : ReasonsOnly s t) : t.power.rails = s.power.rails := by obtain ⟨_, _, _, hp⟩ := h.power; rw [hp]

theorem ReasonsOnly.mediaHot (h : ReasonsOnly s t) : t.power.mediaHot = s.power.mediaHot := by obtain ⟨_, _, _, hp⟩ := h.power; rw [hp]

theorem ReasonsOnly.refresh2x (h : ReasonsOnly s t) : t.power.refresh2x = s.power.refresh2x := by obtain ⟨_, _, _, hp⟩ := h.power; rw [hp]

/-- The state that a power event finds. -/
theorem reasonsOnly_event (s : State) (dt : Nat) : ReasonsOnly (passTime s dt) (countReasons (passTime s dt)) := reasonsOnly_countReasons _

@[simp] theorem diePower_putDie_same (s : State) (d : Nat) (x : DiePower) : diePower (putDie s d x) d = x := by simp [diePower, putDie]

theorem diePower_putDie_ne (s : State) {d e : Nat} (x : DiePower) (h : d ≠ e) : diePower (putDie s d x) e = diePower s e := by
  unfold diePower putDie
  exact ngetD_nset_ne _ _ _ h

theorem nset_nset {α : Type} (m : NMap α) (k : Nat) (a b : α) : nset (nset m k a) k b = nset m k b := by
  induction m with
  | nil => simp [nset]
  | cons e r ih =>
    obtain ⟨x, c⟩ := e
    by_cases hlt : k < x
    · simp [nset, hlt]
    · by_cases heq : k = x <;> simp [nset, hlt, heq, ih]

theorem putDie_putDie (s : State) (d : Nat) (x y : DiePower) : putDie (putDie s d x) d y = putDie s d y := by
  unfold putDie
  rw [nset_nset]

/-! ### Power events -/

theorem event_keeps {f : State → State} (hf : ∀ u, Kept [.power, .clk, .dict, .ctl] u (f u)) (s : State) (dt : Nat) :
    Kept [.power, .clk, .dict, .ctl] s (powerEvent s dt f) := by
  refine Kept.by (noteReasons_keeps _) rfl (Kept.trans ?_ (hf _))
  exact Kept.by (countReasons_keeps _) rfl ((passTime_keeps s dt).mono rfl)

theorem estimateDie_of_die (hd : d < 8) (u : State) (mW : Nat) : estimateDie u d mW =
    let x := diePower u d
    let e := mW * x.scale / 1000000
    let x' : DiePower := { x with estimate := e, sumEst := x.sumEst + mW, nEst := x.nEst + 1 }
    if railLimit u d * (pointOf u d x.point).2 < e * 1000 then
      putDie (putDie u d x') d (if stepDue u.clk.now 150000 x.breachAt then
        { x' with current := Nat.min x.current x.point - 1, breachAt := some u.clk.now } else x')
    else putDie u d x' := by
  rw [estimateDie, if_neg (by omega)]
  extract_lets x e v x'
  have hx : diePower v d = x' := diePower_putDie_same u d x'
  show (if railLimit u d * (pointOf u d x.point).2 < e * 1000 then breachDie v d else v) = _
  split
  · unfold breachDie
    rw [hx]
    show (if stepDue u.clk.now 150000 x.breachAt then _ else _) = _
    split
    · rfl
    · rfl
  · rfl

/-- The die's reading and a breach of a compute rail. -/
theorem rails_breachDie (u : State) (d : Nat) : (breachDie u d).power.rails = u.power.rails := by
  unfold breachDie
  dsimp only
  split <;> rfl

theorem diePower_breachDie (u : State) (d : Nat) (hdue : stepDue u.clk.now 150000 (diePower u d).breachAt = true) :
    diePower (breachDie u d) d =
      { diePower u d with current := Nat.min (diePower u d).current (diePower u d).point - 1, breachAt := some u.clk.now } := by
  unfold breachDie
  extract_lets x
  rw [if_pos (show stepDue u.clk.now (us 50) x.breachAt = true from hdue)]
  exact diePower_putDie_same ..

/-- The reading of a rail, in #3000.14 and for the loops. -/
def noteReading (u : State) (r : RailReading) : State :=
  let blob := getBlob u 0x3000 0x14
  let bytes := leBytes 2 r.mV ++ leBytes 2 0 ++ leBytes 4 r.mA
  let u := setBlob u 0x3000 0x14 (blob.take (8 * r.rail) ++ bytes ++ blob.drop (8 * r.rail + 8))
  { u with power := { u.power with rails := nset u.power.rails r.rail (r.mV, r.mA) } }

/-- The reading of a compute rail counted for its die. -/
def meterDie (u : State) (r : RailReading) : State :=
  let x := diePower u r.rail
  putDie (noteReading u r) r.rail { x with sumAvs := x.sumAvs + r.mV * r.mA / 1000, nAvs := x.nAvs + 1 }

theorem railLimit_noteReading (u : State) (r : RailReading) (rail : Nat) : railLimit (noteReading u r) rail = railLimit u rail := by
  unfold railLimit
  rw [show getBlob (noteReading u r) 0x3000 0x15 = getBlob u 0x3000 0x15 from getBlob_setBlob_ne u _ (by decide)]

theorem readRail_of_compute {r : RailReading} (hr : r.rail < 8) (u : State) :
    readRail u r = if railLimit u r.rail < r.mA then breachDie (meterDie u r) r.rail else meterDie u r := by
  rw [← railLimit_noteReading u r]
  unfold readRail
  rw [if_neg (by omega)]
  dsimp only
  rw [if_pos hr]
  simp only [decide_eq_true_eq]
  rfl

theorem readRail_of_fixed {r : RailReading} (hr : 8 ≤ r.rail) (hr' : r.rail < 20) (u : State) :
    (readRail u r).power.rails = (noteReading u r).power.rails := by
  unfold readRail
  rw [if_neg (by omega)]
  dsimp only
  rw [if_neg (by omega)]
  split
  · rfl
  · split
    · exact rails_breachDie _ _
    · split
      · rfl
      · exact congrArg Power.rails (logFault_keeps _ _ _ _ _ _ _ .power (by decide))

theorem diePower_readRail {r : RailReading} (hr : r.rail < 8) (u : State) (hb : railLimit u r.rail < r.mA)
    (hdue : stepDue u.clk.now 150000 (diePower u r.rail).breachAt = true) :
    (diePower (readRail u r) r.rail).current = Nat.min (diePower u r.rail).current (diePower u r.rail).point - 1 := by
  have hx : diePower (meterDie u r) r.rail =
      { diePower u r.rail with sumAvs := (diePower u r.rail).sumAvs + r.mV * r.mA / 1000, nAvs := (diePower u r.rail).nAvs + 1 } :=
    diePower_putDie_same _ _ _
  rw [readRail_of_compute hr, if_pos hb, diePower_breachDie _ _ (by rw [hx]; exact hdue), hx]

theorem rails_readRail {r : RailReading} (hr : r.rail < 20) (u : State) : nget (readRail u r).power.rails r.rail = some (r.mV, r.mA) := by
  have hnote : nget (noteReading u r).power.rails r.rail = some (r.mV, r.mA) := nget_nset_same ..
  by_cases h8 : r.rail < 8
  · rw [readRail_of_compute h8]
    split
    · rw [rails_breachDie]
      exact hnote
    · exact hnote
  · rw [readRail_of_fixed (by omega) hr]
    exact hnote

theorem rails_meanPower (u : State) : (meanPower u).power.rails = u.power.rails := by
  unfold meanPower
  dsimp only
  split <;> rfl

theorem diePower_meanPower (u : State) (d : Nat) : diePower (meanPower u) d = diePower u d := by
  unfold meanPower
  dsimp only
  split <;> rfl

theorem readings_keeps (rs : List RailReading) (u : State) : Kept [.power, .clk, .dict, .ctl] u (meanPower (rs.foldl readRail u)) :=
  Kept.by (meanPower_keeps _) rfl (Kept.foldl (fun u r => (readRail_keeps u r).mono rfl) rs (Kept.refl _ u))

/-! ### The broker (R457) -/

theorem diePower_putBrokers (b : Nat → Nat) : ∀ (l : List Nat) (u : State) (e : Nat),
    diePower (l.foldl (fun s d => putDie s d { diePower s d with broker := b d }) u) e =
      if e ∈ l then { diePower u e with broker := b e } else diePower u e
  | [], _, _ => rfl
  | d :: l, u, e => by
    rw [List.foldl_cons, diePower_putBrokers b l]
    by_cases hd : d = e
    · subst hd
      rw [diePower_putDie_same]
      by_cases hl : d ∈ l <;> simp [hl]
    · rw [diePower_putDie_ne _ _ hd]
      by_cases hl : e ∈ l <;> simp [hl, Ne.symm hd]

/-- The points that the other reasons allow the dies. -/
def openPoints (s : State) : List Nat := (List.range 8).map fun d => Nat.min (targetPoint s d) (otherHold (diePower s d))

/-- What the broker makes of them. -/
def brokeredPoints (s : State) : List Nat := lowerDies s (inForceReg s 0x3000 0x01 * 1000 - fixedPower s) 128 (openPoints s)

/-- The broker's hold on a die. -/
def brokerHold (s : State) (d : Nat) : Nat :=
  if (brokeredPoints s).getD d 0 < (openPoints s).getD d 0 then (brokeredPoints s).getD d 0 else 15

theorem runBroker_eq (s : State) :
    runBroker s = (List.range 8).foldl (fun s' d => putDie s' d { diePower s' d with broker := brokerHold s d }) s := by
  unfold runBroker brokerHold brokeredPoints openPoints
  rfl

theorem diePower_runBroker (hd : d < 8) (s : State) : diePower (runBroker s) d = { diePower s d with broker := brokerHold s d } := by
  rw [runBroker_eq, diePower_putBrokers, if_pos (List.mem_range.mpr hd)]

theorem targetPoint_le (s : State) (d : Nat) : targetPoint s d ≤ 15 := by
  unfold targetPoint
  split <;> decide

theorem getD_openPoints_le (s : State) (d : Nat) : (openPoints s).getD d 0 ≤ 15 := by
  unfold openPoints
  by_cases hd : d < 8
  · simpa [hd] using .inl (targetPoint_le s d)
  · simp [hd]

theorem brokerHold_le (s : State) (d : Nat) : brokerHold s d ≤ 15 := by
  have := getD_openPoints_le s d
  unfold brokerHold
  split <;> omega

theorem brokerHold_of_within (h : sumAbove s (openPoints s) (inForceReg s 0x3000 0x01 * 1000 - fixedPower s) = false) (d : Nat) :
    brokerHold s d = 15 := by
  have hpoints : brokeredPoints s = openPoints s := by
    unfold brokeredPoints lowerDies
    rw [h]
    rfl
  rw [brokerHold, hpoints, if_neg (Nat.lt_irrefl _)]

/-- Settles O6. -/
theorem powerLimits : Obligations.PowerLimits := by
  unfold Obligations.PowerLimits
  refine ⟨⟨fun s d mW dt hs hd => ?_, fun s d dt hs hd => ?_, fun s d hs hd => ?_, fun s rs dt hs => ?_, fun s r dt hs hr => ?_⟩, fun s dt hs => ?_⟩
  · intro u x e x'
    rw [← estimateDie_of_die hd u mW]
    exact whenService_of_inService hs fun s => powerEvent s dt fun s => estimateDie s d mW
  · intro u x hcur hdue hup
    have hstep : currentUp u d = putDie u d { x with current := x.current + 1, upAt := u.clk.now } := if_pos ⟨hd, hcur, hdue, hup⟩
    rw [← hstep]
    exact whenService_of_inService hs fun s => powerEvent s dt fun s => currentUp s d
  · intro x hest havs
    have hstep : recalibrate s d = putDie s d
        { x with scale := x.sumAvs * x.nEst * 1000000 / (x.nAvs * x.sumEst), sumEst := 0, nEst := 0, sumAvs := 0, nAvs := 0 } := by
      unfold recalibrate
      exact if_neg (by rintro (h | h | h); exacts [absurd hd (Nat.not_lt.mpr h), hest h, havs h])
    rw [← hstep]
    exact whenService_of_inService hs fun s => recalibrate s d
  · refine ⟨_, whenService_of_inService hs fun s => powerEvent s dt fun s => meanPower (rs.foldl readRail s), event_keeps (readings_keeps rs) s dt,
      fun r hlast hr => ?_⟩
    obtain ⟨rest, rfl⟩ := List.getLast?_eq_some_iff.mp hlast
    unfold powerEvent
    rw [(reasonsOnly_noteReasons _).rails, rails_meanPower, List.foldl_append]
    exact rails_readRail hr _
  · refine ⟨_, whenService_of_inService hs fun s => powerEvent s dt fun s => meanPower ([r].foldl readRail s), ?_, event_keeps (readings_keeps [r]) s dt,
      fun hr8 hb hdue => ?_⟩
    · unfold powerEvent
      rw [(reasonsOnly_noteReasons _).rails, rails_meanPower]
      exact rails_readRail hr _
    · have hu := reasonsOnly_event s dt
      unfold powerEvent
      rw [(reasonsOnly_noteReasons _).diePower, diePower_meanPower]
      have hd := hu.diePower r.rail
      rw [show diePower s r.rail = diePower (passTime s dt) r.rail from rfl] at hdue ⊢
      rw [← hd] at hdue ⊢
      refine diePower_readRail hr8 _ ?_ (by rw [hu.clk]; exact hdue)
      rw [railLimit, hu.getBlob]
      exact hb
  · have hdie (d : Nat) (hd : d < 8) : diePower (powerEvent s dt runBroker) d =
        { diePower s d with broker := brokerHold (countReasons (passTime s dt)) d } := by
      unfold powerEvent
      rw [(reasonsOnly_noteReasons _).diePower, diePower_runBroker hd, (reasonsOnly_event s dt).diePower]
      rfl
    refine ⟨_, whenControlled_of_controlled hs fun s => powerEvent s dt runBroker, fun d hd => ?_, fun hwithin d hd => ?_,
      event_keeps (fun u => (runBroker_keeps u).mono rfl) s dt⟩
    · rw [hdie d hd]
      exact ⟨rfl, rfl, rfl, brokerHold_le _ d⟩
    · rw [hdie d hd]
      exact brokerHold_of_within hwithin d

end Sys2Proof.Machine
end
section
/-! Operating points and droops (O7), heat, regulator warnings and lost rails (O8). -/
namespace Sys2Proof.Machine
open Sys2Proof

variable {s u : State} {d rail r : Nat}

theorem stepPoint_of_due (hd : d < 8) (u : State) (up : Bool)
    (hdue : if up then (diePower u d).point < wantedPoint u d else wantedPoint u d < (diePower u d).point) :
    stepPoint u d up =
      let p := if up then (diePower u d).point + 1 else (diePower u d).point - 1
      let v := putDie u d { diePower u d with point := p }
      { v with out := v.out ++ [.avsVoltage d (pointOf u d p).2] } := by
  unfold stepPoint
  extract_lets x want go p x' v
  rw [if_neg]
  · rfl
  · rintro (h | h)
    · omega
    · cases up <;> simp_all [go, want, x]

theorem valueOf_points (v : State) : valueOf v 0x3000 0x11 = .ok ((List.range 8).map fun e => BitVec.ofNat 8 (diePower v e).point) := by
  have hrec : recordOf 0x3000 = some 0x3000 := by decide
  unfold valueOf
  rw [if_neg (by decide), if_neg (by decide), computedValue, hrec]
  rfl

/-- Settles O7. -/
theorem clocksAndVoltages : Obligations.ClocksAndVoltages := by
  unfold Obligations.ClocksAndVoltages
  refine ⟨fun s d up hs hd => ?_, fun s d dt hs hd hnone => ?_, fun s d dt at' hs hsome => ?_⟩
  · intro u x hdue p v
    refine ⟨?_, valueOf_points v⟩
    rw [show ({ v with out := v.out ++ [.avsVoltage d (pointOf u d p).2] } : State) = stepPoint u d up from (stepPoint_of_due hd u up hdue).symm]
    exact whenService_of_inService hs fun s => powerEvent s 0 fun s => stepPoint s d up
  · intro u
    have hdroop : nget u.power.droopAt d = none := by rw [(reasonsOnly_event s dt).droopAt]; exact hnone
    have hstep : detectDroop u d = addReg { u with power := { u.power with droopAt := nset u.power.droopAt d u.clk.now } } 0x3000 0x17 1 := by
      rw [detectDroop, if_neg]
      simp [hdroop]
      omega
    rw [← hstep]
    exact whenService_of_inService hs fun s => powerEvent s dt fun s => detectDroop s d
  · intro u hend
    have hdroop : nget u.power.droopAt d = some at' := by rw [(reasonsOnly_event s dt).droopAt]; exact hsome
    have hstep : releaseDroop u d = { u with power := { u.power with droopAt := ndel u.power.droopAt d } } := by
      simp only [releaseDroop, hdroop]
      exact if_pos hend
    rw [← hstep]
    exact whenService_of_inService hs fun s => powerEvent s dt fun s => releaseDroop s d

/-- A power event: the reasons are counted, the event's own change follows, and the episodes are noted. -/
theorem powerEvent_split (s : State) (dt : Nat) (f : State → State) :
    ∃ u, ReasonsOnly (passTime s dt) u ∧ ReasonsOnly (f u) (powerEvent s dt f) :=
  ⟨_, reasonsOnly_countReasons _, reasonsOnly_noteReasons _⟩

theorem cleared_countReasons (s : State) : (countReasons s).power.cleared = s.power.cleared := by
  have one (dt : Nat) (t : State) (r : Nat) : (countReason dt t r).power.cleared = t.power.cleared := by
    unfold countReason
    split
    · have hk (v : State) (i j n : Nat) : (addReg v i j n).power = v.power := addReg_keeps v i j n .power (by decide)
      dsimp only
      rw [hk]
    · rfl
  have all (dt : Nat) : ∀ (l : List Nat) (t : State), (l.foldl (countReason dt) t).power.cleared = t.power.cleared := by
    intro l
    induction l with
    | nil => exact fun _ => rfl
    | cons r l ih => exact fun t => (ih _).trans (one dt t r)
  have h : (countedReasons s).power.cleared = s.power.cleared := by
    unfold countedReasons
    exact all _ _ s
  rw [countReasons_eq]
  generalize countedReasons s = t at h
  exact h

/-! ### Heat (R460, R461) -/

theorem stepDue_congr {s t : State} (h : t.clk = s.clk) (gap : Nat) (last : Option Nat) : stepDue t.clk.now gap last = stepDue s.clk.now gap last := by
  rw [h]

theorem thermalStep_of_hot {now : Nat} {tenths th : Int} {last : Option Nat} (h : th ≤ tenths) (hdue : stepDue now 300000 last = true)
    (point hold : Nat) (cool : Option Nat) : thermalStep now tenths th point hold last cool = (Nat.min hold point - 1, some now, none) := by
  unfold thermalStep
  rw [if_pos h]
  exact if_pos hdue

/-- The reading of a die in #3000.12. -/
def shownDie (u : State) (d : Nat) (tenths : Int) : State := setBlob u 0x3000 0x12 (putTenths (getBlob u 0x3000 0x12) d tenths)

theorem dieHeat_of_compute (hd : d < 8) (u : State) (tenths : Int) :
    dieHeat u d tenths =
      let x := diePower u d
      let y := thermalStep u.clk.now tenths (10 * (getReg u 0x3000 0x03 : Int)) x.point x.temp x.tempAt x.coolAt
      putDie (shownDie u d tenths) d { x with temp := y.1, tempAt := y.2.1, coolAt := y.2.2, hotTenths := tenths } := by
  rw [dieHeat, if_neg (by omega)]
  dsimp only
  rw [if_pos hd]
  rfl

/-- What a reading of a compute die leaves. -/
theorem dieHeat_spec (hd : d < 8) (u : State) (tenths : Int) :
    getBlob (dieHeat u d tenths) 0x3000 0x12 = putTenths (getBlob u 0x3000 0x12) d tenths ∧
    (10 * (getReg u 0x3000 0x03 : Int) ≤ tenths → stepDue u.clk.now 300000 (diePower u d).tempAt = true →
      (diePower (dieHeat u d tenths) d).temp = Nat.min (diePower u d).temp (diePower u d).point - 1 ∧
      (diePower (dieHeat u d tenths) d).tempAt = some u.clk.now) ∧
    ∀ e, e ≠ d → diePower (dieHeat u d tenths) e = diePower u e := by
  rw [dieHeat_of_compute hd]
  refine ⟨getBlob_setBlob_same .., fun hhot hdue => ?_, fun e he => (diePower_putDie_ne _ _ (Ne.symm he)).trans rfl⟩
  dsimp only
  rw [diePower_putDie_same, thermalStep_of_hot hhot hdue]
  exact ⟨rfl, rfl⟩

/-- What a reading of a media die leaves. -/
theorem dieHeat_of_media (hd : d = 8 ∨ d = 9) (u : State) (tenths : Int) :
    getBlob (dieHeat u d tenths) 0x3000 0x12 = putTenths (getBlob u 0x3000 0x12) d tenths ∧
    (10 * (getReg u 0x3000 0x03 : Int) ≤ tenths → d ∈ (dieHeat u d tenths).power.mediaHot) ∧
    ∀ e, e ≠ d → diePower (dieHeat u d tenths) e = diePower u e := by
  have hshown : getBlob (shownDie u d tenths) 0x3000 0x12 = putTenths (getBlob u 0x3000 0x12) d tenths := getBlob_setBlob_same ..
  rw [dieHeat, if_neg (by omega)]
  dsimp only
  rw [if_neg (by omega)]
  split
  · refine ⟨hshown, fun _ => ?_, fun e he => (diePower_putDie_ne _ _ (Ne.symm he)).trans rfl⟩
    exact List.mem_concat_self
  · next hcold =>
    have hno : 10 * (getReg u 0x3000 0x03 : Int) ≤ tenths → False := fun h => hcold h
    split
    · exact ⟨hshown, fun h => (hno h).elim, fun e he => (diePower_putDie_ne _ _ (Ne.symm he)).trans rfl⟩
    · split
      · exact ⟨hshown, fun h => (hno h).elim, fun e he => (diePower_putDie_ne _ _ (Ne.symm he)).trans rfl⟩
      · split
        · exact ⟨hshown, fun h => (hno h).elim, fun e he => rfl⟩
        · exact ⟨hshown, fun h => (hno h).elim, fun e he => rfl⟩

/-- What a reading of a stack leaves. -/
theorem stackHeat_spec {k : Nat} (hk : k < 24) (u : State) (tenths : Int) :
    getBlob (stackHeat u k tenths) 0x3000 0x13 = putTenths (getBlob u 0x3000 0x13) k tenths ∧
    (k ∈ (stackHeat u k tenths).power.refresh2x ↔ 850 ≤ tenths) ∧ ∀ e, e ≠ k / 3 → diePower (stackHeat u k tenths) e = diePower u e := by
  rw [stackHeat, if_neg (by omega)]
  dsimp only
  refine ⟨getBlob_setBlob_same .., ?_, fun e he => (diePower_putDie_ne _ _ (Ne.symm he)).trans rfl⟩
  show k ∈ (if 850 ≤ tenths then (u.power.refresh2x.filter (· != k)) ++ [k] else u.power.refresh2x.filter (· != k)) ↔ _
  split
  · next h => simp [h]
  · next h => simp [h]

/-- Settles O8. -/
theorem heatAndRails : Obligations.HeatAndRails := by
  unfold Obligations.HeatAndRails
  refine ⟨⟨fun s d tenths dt hs hd => ?_, fun s d tenths dt hs hd => ?_, fun s k tenths dt hs hk => ?_⟩, fun s u hoff hphase htrip hu => ?_,
    fun s rail status dt hs hr => ?_, fun s rail status dt hs hr hr' => ?_, fun s rail dt at' hs hr hw hother => ?_, fun s dt at' hs hw => ?_,
    fun s rail hs hr => ?_, fun s r dt at' hs hcl => ?_⟩
  · obtain ⟨u, hu, ht⟩ := powerEvent_split s dt fun s => dieHeat s d tenths
    obtain ⟨hblob, hhot, hothers⟩ := dieHeat_spec hd u tenths
    refine ⟨_, whenService_of_inService hs fun s => powerEvent s dt fun s => dieHeat s d tenths, ?_,
      event_keeps (fun u => (dieHeat_keeps u d tenths).mono rfl) s dt, fun hth hdue => ?_, fun e he => ?_⟩
    · rw [ht.getBlob, hblob, hu.getBlob]
      rfl
    · rw [hu.regs 0x3000 0x03 (by decide) (by decide) (by omega), hu.clk, hu.diePower] at hhot
      rw [ht.diePower]
      exact hhot hth hdue
    · rw [ht.diePower, hothers e he, hu.diePower]
      rfl
  · obtain ⟨u, hu, ht⟩ := powerEvent_split s dt fun s => dieHeat s d tenths
    obtain ⟨hblob, hhot, hothers⟩ := dieHeat_of_media hd u tenths
    refine ⟨_, whenService_of_inService hs fun s => powerEvent s dt fun s => dieHeat s d tenths, ?_,
      event_keeps (fun u => (dieHeat_keeps u d tenths).mono rfl) s dt, fun hth => ?_, fun e he => ?_⟩
    · rw [ht.getBlob, hblob, hu.getBlob]
      rfl
    · rw [hu.regs 0x3000 0x03 (by decide) (by decide) (by omega)] at hhot
      rw [ht.mediaHot]
      exact hhot hth
    · rw [ht.diePower, hothers e he, hu.diePower]
      rfl
  · obtain ⟨u, hu, ht⟩ := powerEvent_split s dt fun s => stackHeat s k tenths
    obtain ⟨hblob, hrefresh, hothers⟩ := stackHeat_spec hk u tenths
    refine ⟨_, whenService_of_inService hs fun s => powerEvent s dt fun s => stackHeat s k tenths, ?_, ?_, fun e he => ?_,
      event_keeps (fun u => (stackHeat_keeps u k tenths).mono rfl) s dt⟩
    · rw [ht.getBlob, hblob, hu.getBlob]
      rfl
    · rw [ht.refresh2x]
      exact hrefresh
    · rw [ht.diePower, hothers e he, hu.diePower]
      rfl
  · show Host.Outcome.next _ = _
    rw [tripThermal, if_neg]
    · rfl
    · simp only [hoff, hphase, htrip]
      simp
      omega
  · intro u v w
    have hstep : warnRail u rail status = putDie w (rail % 8) { diePower w (rail % 8) with warned := 7 } := by
      rw [warnRail, if_neg (by omega)]
      dsimp only
      rw [if_pos (by omega), if_pos hr]
    rw [← hstep]
    exact whenService_of_inService hs fun s => powerEvent s dt fun s => warnRail s rail status
  · intro v
    have hstep : warnRail (countReasons (passTime s dt)) rail status =
        if rail = 16 then { v with power := { v.power with warnings := nset v.power.warnings rail v.clk.now } } else v := by
      rw [warnRail, if_neg (by omega)]
      dsimp only
      by_cases h16 : rail = 16
      · rw [if_pos (by omega), if_neg (by omega), if_pos h16]
      · rw [if_neg (by omega), if_neg h16]
    rw [← hstep]
    exact whenService_of_inService hs fun s => powerEvent s dt fun s => warnRail s rail status
  · intro u hend w
    have hwarn := (reasonsOnly_event s dt).warnings
    have hrail : nget u.power.warnings rail = some at' := by rw [hwarn]; exact hw
    have hpair : nget u.power.warnings ((rail + 8) % 16) = none := by rw [hwarn]; exact hother
    have hclear (x : Nat) (hx : x = rail ∨ x = (rail + 8) % 16) : nget (ndel u.power.warnings rail) x = none := by
      rw [nget_ndel]
      rcases hx with rfl | rfl
      · exact if_pos rfl
      · rw [hpair, ite_self]
    have hstep : clearWarning u rail = putDie w (rail % 8) { diePower w (rail % 8) with warned := 15 } := by
      simp only [clearWarning, hrail]
      rw [if_neg (show ¬ u.clk.now < at' + us 10000 from Nat.not_lt.mpr hend), if_pos]
      refine ⟨hr, ?_, ?_⟩
      · rw [hclear _ (by omega)]
        rfl
      · rw [hclear _ (by omega)]
        rfl
    rw [← hstep]
    exact whenService_of_inService hs fun s => powerEvent s dt fun s => clearWarning s rail
  · intro u hend
    have hrail : nget u.power.warnings 16 = some at' := by rw [(reasonsOnly_event s dt).warnings]; exact hw
    have hstep : clearWarning u 16 = { u with power := { u.power with warnings := ndel u.power.warnings 16 } } := by
      simp only [clearWarning, hrail]
      rw [if_neg (show ¬ u.clk.now < at' + us 10000 from Nat.not_lt.mpr hend), if_neg (by omega)]
    rw [← hstep]
    exact whenService_of_inService hs fun s => powerEvent s dt fun s => clearWarning s 16
  · intro u
    show Host.Outcome.next _ = _
    rw [if_pos (by simpa using hs), loseRail, if_neg (by omega)]
  · intro u hend hno
    have hcleared : nget u.power.cleared r = some at' := by
      rw [cleared_countReasons]
      exact hcl
    have hstep : endEpisode u r = setReg { u with power := { u.power with cleared := ndel u.power.cleared r } } 0x3000 0x09
        (clearBitAt (getReg u 0x3000 0x09) r) := by
      simp only [endEpisode, hcleared]
      exact if_pos ⟨hend, by simp [hno]⟩
    rw [← hstep]
    exact whenService_of_inService hs fun s => powerEvent s dt fun s => endEpisode s r

end Sys2Proof.Machine
end
section
/-! ALLOCATE and FREE (O9). -/
namespace Sys2Proof.Machine
open Sys2Proof

variable {s : State} {b n : Nat} {a : Alloc}

theorem rangeFree_of_placeRange (h : placeRange s n = some b) : rangeFree s b n = true := by
  unfold placeRange at h
  split at h
  · cases h
  · extract_lets hint at h
    split at h
    · next hh =>
      obtain rfl := Option.some.inj h
      exact hh.2
    · split at h
      · cases h
      · next c r hl =>
        obtain rfl := Option.some.inj h
        have hm : r.foldl Nat.min c ∈ c :: r := foldl_min_mem_cons ..
        rw [← hl] at hm
        exact (List.mem_filter.mp hm).2

theorem overlaps_of_rangeFree (h : rangeFree s b n = true) (ha : a ∈ s.allocs) : overlaps a.base a.size b n = false := by
  rw [rangeFree, Bool.and_eq_true] at h
  simpa using List.all_eq_true.mp h.2 a ha

theorem reserve_of_place (n : Nat) (h : placeRange s (alignUp 4096 n) = some b) : ∃ t, reserve s n 0 = some (b, t) ∧
    t.allocs = s.allocs ++ [⟨b, alignUp 4096 n, 0, false, anyDie s⟩] ∧ t.dict = s.dict ∧ Kept [.allocs, .free] s t := by
  have hr : ∃ t, reserve s n 0 = some (b, t) ∧ t.allocs = s.allocs ++ [⟨b, alignUp 4096 n, 0, false, anyDie s⟩] := by
    unfold reserve reserveOn
    simp only [h]
    exact ⟨_, rfl, rfl⟩
  obtain ⟨t, ht, hal⟩ := hr
  have hk := reserve_keeps ht
  exact ⟨t, ht, hal, hk .dict (by decide), hk⟩

theorem reserve_of_none (n : Nat) (h : placeRange s (alignUp 4096 n) = none) : reserve s n 0 = none := by
  simp only [reserve, reserveOn, h, Option.map_none]

theorem hostAlloc_marked (hfree : ∀ x, x ∈ s.allocs → x.base = b → x.freed = true) : hostAlloc s b = none := by
  rw [hostAlloc, List.find?_eq_none]
  intro x hx hp
  simp only [Bool.and_eq_true, beq_iff_eq, Bool.not_eq_true'] at hp
  simp [hfree x hx hp.1.1] at hp

/-- Settles O9. -/
theorem hostAllocations : Obligations.HostAllocations := by
  unfold Obligations.HostAllocations
  refine ⟨fun s b hs hn hb => ?_, fun s hs hn => ?_, fun s hs hn hb => ?_, fun s a hs ha huse => ?_, fun s a hs ha huse => ?_, fun s hs ha => ?_,
    fun s a hs ha huse => ?_⟩
  · obtain ⟨t, ht, hal, hd, hk⟩ := reserve_of_place _ hb
    refine ⟨_, whenControlled_of_controlled hs allocateHost, ?_⟩
    have he : allocateHost s = setReg (setReg t 0x4000 0x11 b) 0x4000 0x13 stOk := by simp only [allocateHost, hn, if_false, ht]
    rw [he]
    refine ⟨hal, Nat.mod_lt _ (by decide), ?_, getReg_setReg_same .., fun a ha => overlaps_of_rangeFree (rangeFree_of_placeRange hb) ha, ?_, ?_⟩
    · rw [getReg_setReg_sub _ _ _ (by decide) (by decide) (by decide), getReg_setReg_same]
    · exact ((RegsBut.of_dict _ hd).setReg (by decide) (by simp)).setReg (by decide) (by simp)
    · exact Kept.by (setReg_keeps _ _ _ _) rfl (Kept.by (setReg_keeps _ _ _ _) rfl (hk.mono rfl))
  · have he : allocateHost s = setReg s 0x4000 0x13 0x0200 := by rw [allocateHost]; exact if_pos hn
    rw [← he]
    exact whenControlled_of_controlled hs allocateHost
  · have he : allocateHost s = setReg s 0x4000 0x13 0x0310 := by
      simp only [allocateHost, hn, if_false, reserve_of_none _ hb]
      rfl
    rw [← he]
    exact whenControlled_of_controlled hs allocateHost
  · have he : freeHost s = setReg { s with allocs := s.allocs.filter fun x => x.base != a.base } 0x4000 0x13 0 := by
      simp only [freeHost, ha, huse]
      rfl
    rw [← he]
    exact whenControlled_of_controlled hs freeHost
  · refine ⟨_, whenControlled_of_controlled hs freeHost, ?_⟩
    have he : freeHost s =
        setReg { s with allocs := s.allocs.map fun x => if x.base = a.base then { x with freed := true } else x } 0x4000 0x13 stPending := by
      simp only [freeHost, ha, huse]
      rfl
    refine ⟨by rw [he, getReg_setReg_same]; rfl, hostAlloc_marked fun x hx hb => ?_, ?_, (freeHost_keeps s).mono rfl⟩
    · rw [he] at hx
      obtain ⟨y, -, rfl⟩ := List.mem_map.mp hx
      by_cases hy : y.base = a.base
      · simp [hy]
      · simp [hy] at hb
    · rw [he]
      rw [setReg_allocs, List.map_map]
      refine List.map_congr_left fun x _ => ?_
      by_cases hx : x.base = a.base <;> simp [hx]
  · have he : freeHost s = setReg s 0x4000 0x13 0x0204 := by
      simp only [freeHost, ha]
      rfl
    rw [← he]
    exact whenControlled_of_controlled hs freeHost
  · refine ⟨_, whenControlled_of_controlled hs fun s => releaseFreed s a.base, ?_⟩
    have he : releaseFreed s a.base =
        if getReg s 0x4000 0x13 = stPending ∧ getReg s 0x4000 0x11 = a.base then setReg (releaseRange s a.base) 0x4000 0x13 stOk
        else releaseRange s a.base := by
      simp only [releaseFreed, ha, huse]
      rfl
    have hr : RegsBut [(0x4000, 0x13)] s (releaseRange s a.base) := RegsBut.of_dict _ rfl
    refine ⟨?_, ?_, fun hp hb => ?_, (releaseFreed_keeps s a.base).mono rfl⟩ <;> rw [he]
    · split <;> rfl
    · split
      · exact hr.setReg (by decide) (by simp)
      · exact hr
    · rw [if_pos ⟨hp, hb⟩, getReg_setReg_same]
      rfl

end Sys2Proof.Machine
end
section
/-! Corrected and uncorrected errors, row sparing, retirement and migration of stacks (O10). -/
namespace Sys2Proof.Machine
open Sys2Proof

variable {ps : List (Nat × Nat)} {s t : State} {k row a : Nat}

theorem stackLive_of (hk : k < 24) (hl : getReg s (stackIndex k) 0x01 ≤ 1) : stackLive s k = true := by
  simp [stackLive, stackState, hk, hl]

theorem startMigration_of_inService (why : Nat) (hk : k < 24) (h0 : getReg s (stackIndex k) 0x01 = 0) (hm : s.protect.migrating = none) :
    startMigration s k why =
      let u := logFault (setReg s (stackIndex k) 0x01 1) 0x0202 0 3 k 0xFFFF why
      { u with protect := { u.protect with migrating := some k, migratedWhy := why } } := by
  unfold startMigration
  rw [if_neg (by simp [stackState, hk, h0, hm])]

theorem getReg_addReg_le (s : State) (i j n : Nat) : getReg (addReg s i j n) i j ≤ getReg s i j + n := by
  unfold addReg
  split
  · rw [getReg_setReg_same]
    exact Nat.mod_le _ _
  · exact Nat.le_add_right _ _

theorem spareRow_of_spares_left (hk : k < 24) (hl : getReg s (stackIndex k) 0x01 ≤ 1) (hd : rowDue s k row = true)
    (hn : getReg s (stackIndex k) 0x04 < 7168) :
    spareRow s k row =
      let u := addReg s (stackIndex k) 0x04 1
      logFault { u with protect := { u.protect with
        rowErrors := u.protect.rowErrors.filter (fun e => !(e.1 == k && e.2.1 == row))
        spared := u.protect.spared ++ [(k, row)] } } 0x0200 0 3 k 0xFFFF row := by
  unfold spareRow
  rw [if_neg (by simp [stackLive_of hk hl, hd]), if_neg (by omega)]
  refine if_neg ?_
  rw [getReg_logFault (by decide) (by unfold stackIndex; omega)]
  have := getReg_addReg_le s (stackIndex k) 0x04 1
  exact fun h => absurd (show getReg (addReg s (stackIndex k) 0x04 1) (stackIndex k) 0x04 > 7168 from h) (by omega)

theorem rowDue_noteErrors_four (s : State) (k row : Nat) : rowDue (noteErrors s k row 4) k row = true := by
  have hnow : nowUs (noteErrors s k row 4) = nowUs s := rfl
  unfold rowDue
  rw [hnow]
  simp [noteErrors, List.filter_append, List.filter_replicate]

/-- What a memory error reaches beyond the works, jobs and contexts: the part's count of frames hit. -/
theorem hitMemory_regs (s : State) (a : Nat) : RegsBut [(0x4000, 0x0A)] s (hitMemory s a) := by
  unfold hitMemory
  extract_lets s1 mark
  have h1 : RegsBut [(0x4000, 0x0A)] s s1 :=
    .of_dict _ ((Kept.foldl (fun t e => hitJob_keeps t a e) _ (.refl _ _) : Kept [.jobs] s s1) .dict (by decide))
  split
  · exact h1
  · split
    · exact h1.congr ((hitWork_keeps s1 a _) .dict (by decide))
    · split
      · exact h1.congr ((hitState_keeps s1 _) .dict (by decide))
      · split
        · exact h1.addReg (by decide) (by simp)
        · exact h1

theorem rowDue_congr (hp : t.protect = s.protect) (hc : t.clk = s.clk) (k row : Nat) : rowDue t k row = rowDue s k row := by
  unfold rowDue nowUs
  rw [hp, hc]

theorem uncorrectError_regs (hk : k < 24) (hl : getReg s (stackIndex k) 0x01 ≤ 1) :
    getReg (uncorrectError s k row a) (stackIndex k) 0x03 = getReg (addReg s (stackIndex k) 0x03 1) (stackIndex k) 0x03 := by
  unfold uncorrectError
  rw [if_neg (by simp [stackLive_of hk hl])]
  have hne : stackIndex k ≠ 0xE000 := by unfold stackIndex; omega
  have hne' : stackIndex k ≠ 0x4000 := by unfold stackIndex; omega
  rw [hitMemory_regs _ _ _ _ (by decide) (by simp [hne']), getReg_congr (noteErrors_keeps _ k row 4 .dict (by decide)),
    getReg_logFault (by decide) hne, getReg_addReg_ne _ _ fun h => hne' ((objKey_inj (by decide) (by decide)).mp h).1.symm]

theorem uncorrectError_rowDue (hk : k < 24) (hl : getReg s (stackIndex k) 0x01 ≤ 1) : rowDue (uncorrectError s k row a) k row = true := by
  unfold uncorrectError
  rw [if_neg (by simp [stackLive_of hk hl]), rowDue_congr (hitMemory_keeps _ a .protect (by decide)) (hitMemory_keeps _ a .clk (by decide))]
  exact rowDue_noteErrors_four _ k row

/-! ### The end of a migration -/

/-- The state of the stack, its bit, the end of the command and the journal's entry; the log and the lost copy of the scorebook come after. -/
def migrated (s : State) (k : Nat) : State :=
  let s := { s with protect := { s.protect with migrating := none } }
  let s := setReg (setReg s (stackIndex k) 0x01 2) (stackIndex k) 0x06 migratedBytes
  let s := setReg s 0x4000 0x03 (setBitAt (getReg s 0x4000 0x03) k)
  if getReg s 0x4000 0x0F = stPending then setReg s 0x4000 0x0F stOk else s

theorem addJournal_regs (h : RegsBut ps s t) (hm : (0x1200, 0x0B) ∈ ps) (step kind unit event detail : Nat) :
    RegsBut ps s (addJournal t step kind unit event detail) := by
  unfold addJournal
  extract_lets seq u kept
  exact (h.setReg (by decide) hm : RegsBut ps s u)

theorem addJournal_getLast (s : State) (step kind unit event detail : Nat) :
    ((addJournal s step kind unit event detail).ctl.journal.getLast?.map fun e => (e.step, e.kind, e.unit, e.event)) =
      some (step, kind, unit, event) := by
  simp [addJournal]

theorem loseCopy_regs (h : RegsBut ps s t) (hm : (0x4000, 0x04) ∈ ps) (k : Nat) : RegsBut ps s (loseCopy t k) := by
  have hset : RegsBut ps s (setReg t 0x4000 0x04 1) := h.setReg (by decide) hm
  unfold loseCopy
  extract_lets c which
  clear_value which
  split
  · exact h
  · split <;> exact hset

theorem loseCopy_migrating (s : State) (k : Nat) : (loseCopy s k).protect.migrating = s.protect.migrating := by
  unfold loseCopy
  extract_lets c which
  clear_value which
  split
  · rfl
  · split <;> rfl

theorem logFault_journal (s : State) (code severity kind unit ctx detail : Nat) :
    (logFault s code severity kind unit ctx detail).ctl.journal = s.ctl.journal := by
  obtain ⟨log, msix, hc, -, -⟩ := logFault_ctl s code severity kind unit ctx detail
  rw [hc]

theorem logFault_protect (s : State) (code severity kind unit ctx detail : Nat) :
    (logFault s code severity kind unit ctx detail).protect = s.protect := logFault_keeps s code severity kind unit ctx detail .protect (by decide)

theorem endMigration_eq (hm : s.protect.migrating = some k) :
    endMigration s k =
      let u := addJournal (logFault (migrated s k) 0x0203 1 3 k 0xFFFF migratedBytes) 0x06 3 k 0x06 0
      loseCopy (if popCount 24 (getReg s 0x4000 0x03) ≥ 1 then logFault u 0x0204 1 0 0 0xFFFF stackAllocatable else u) k := by
  unfold endMigration
  rw [if_neg (by simp [hm])]
  rfl

/-- What the end of a migration writes after the stack's own entries. -/
theorem endMigration_spec (hm : s.protect.migrating = some k) :
    RegsBut [(0xE000, 0x01), (0xE000, 0x05), (0x1200, 0x0B), (0x4000, 0x04)] (migrated s k) (endMigration s k) ∧
    (endMigration s k).protect.migrating = none ∧
    ((endMigration s k).ctl.journal.getLast?.map fun e => (e.step, e.kind, e.unit, e.event)) = some (6, 3, k, 6) := by
  rw [endMigration_eq hm]
  extract_lets u
  have hu : RegsBut [(0xE000, 0x01), (0xE000, 0x05), (0x1200, 0x0B), (0x4000, 0x04)] (migrated s k) u :=
    addJournal_regs ((RegsBut.refl _ _).logFault (by simp) (by simp) _ _ _ _ _ _) (by simp) _ _ _ _ _
  have hj := addJournal_getLast (logFault (migrated s k) 0x0203 1 3 k 0xFFFF migratedBytes) 0x06 3 k 0x06 0
  have hp : u.protect.migrating = none := by
    show (addJournal _ _ _ _ _ _).protect.migrating = none
    rw [addJournal_keeps _ _ _ _ _ _ .protect (by decide), logFault_protect]
    unfold migrated
    extract_lets p u1 u2 u3
    split <;> rfl
  rw [loseCopy_ctl, loseCopy_migrating]
  split
  · rw [logFault_journal, logFault_protect]
    exact ⟨loseCopy_regs (hu.logFault (by simp) (by simp) _ _ _ _ _ _) (by simp) k, hp, hj⟩
  · exact ⟨loseCopy_regs hu (by simp) k, hp, hj⟩

theorem migrated_regs (s : State) (k : Nat) (hk : k < 24) :
    getReg (migrated s k) (stackIndex k) 0x01 = 2 ∧
    getReg (migrated s k) 0x4000 0x03 = setBitAt (getReg s 0x4000 0x03) k ∧
    (getReg s 0x4000 0x0F = 1 → getReg (migrated s k) 0x4000 0x0F = 0) ∧
    getReg (migrated s k) 0x4000 0x01 = getReg s 0x4000 0x01 := by
  have hne : stackIndex k ≠ 0x4000 := by unfold stackIndex; omega
  unfold migrated
  extract_lets p u1 u2 u3
  have h3 : ∀ j, j < 256 → getReg u2 0x4000 j = getReg s 0x4000 j := fun j hj => by
    unfold u2
    rw [getReg_setReg_obj _ _ hne (by decide) hj, getReg_setReg_obj _ _ hne (by decide) hj]
    rfl
  have hst : getReg u3 (stackIndex k) 0x01 = 2 := by
    unfold u3 u2
    rw [getReg_setReg_obj _ _ hne.symm (by decide) (by decide), getReg_setReg_sub _ _ _ (by decide) (by decide) (by decide), getReg_setReg_same]
  have hbit : getReg u3 0x4000 0x03 = setBitAt (getReg s 0x4000 0x03) k := by rw [getReg_setReg_same, h3 _ (by decide)]
  have hsub : ∀ j, j < 256 → 3 ≠ j → getReg u3 0x4000 j = getReg s 0x4000 j := fun j hj hn => by
    rw [getReg_setReg_sub _ _ _ hn (by decide) hj, h3 j hj]
  split
  · refine ⟨?_, ?_, fun _ => ?_, ?_⟩
    · rw [getReg_setReg_obj _ _ hne.symm (by decide) (by decide), hst]
    · rw [getReg_setReg_sub _ _ _ (by decide) (by decide) (by decide), hbit]
    · exact getReg_setReg_same ..
    · rw [getReg_setReg_sub _ _ _ (by decide) (by decide) (by decide), hsub _ (by decide) (by decide)]
  · next hn => exact ⟨hst, hbit, fun h => absurd ((hsub 0x0F (by decide) (by decide)).trans h) hn, hsub _ (by decide) (by decide)⟩

/-! ### The retired stacks counted -/

theorem popCount_succ (w n : Nat) : popCount (w + 1) n = popCount w n + if n.testBit w then 1 else 0 := by
  simp only [popCount, List.range_succ, List.filter_append, List.length_append]
  cases h : n.testBit w <;> simp [h]

theorem popCount_setBitAt_of_le (n : Nat) {w k : Nat} (h : w ≤ k) : popCount w (setBitAt n k) = popCount w n := by
  unfold popCount
  congr 1
  refine List.filter_congr fun i hi => ?_
  rw [testBit_setBitAt, if_neg]
  have := List.mem_range.mp hi
  omega

/-- A bit newly set counts once. -/
theorem popCount_setBitAt {n : Nat} {w k : Nat} (h : k < w) (hn : n.testBit k = false) : popCount w (setBitAt n k) = popCount w n + 1 := by
  induction w with
  | zero => omega
  | succ w ih =>
    rw [popCount_succ, popCount_succ, testBit_setBitAt]
    rcases Nat.lt_succ_iff_lt_or_eq.mp h with hlt | rfl
    · rw [ih hlt, if_neg (show k ≠ w by omega)]
      omega
    · simp [popCount_setBitAt_of_le n (Nat.le_refl k), hn]

theorem popCount_setBitAt_zero (h : k < 24) : popCount 24 (setBitAt 0 k) = 1 := popCount_setBitAt h (by simp)

theorem popCount_setBitAt_two_pow {j : Nat} (h : k < 24) (hj : j < 24) (hne : j ≠ k) : popCount 24 (setBitAt (2 ^ j) k) = 2 := by
  have hpow : setBitAt 0 j = 2 ^ j := by simp [setBitAt]
  rw [popCount_setBitAt h (Nat.testBit_two_pow_of_ne hne), ← hpow, popCount_setBitAt_zero hj]

theorem endMigration_capacity (hk : k < 24) (hm : s.protect.migrating = some k) :
    allocCapacity (endMigration s k) =
      getReg s 0x4000 0x01 - stackAllocatable * (popCount 24 (setBitAt (getReg s 0x4000 0x03) k) - 1) := by
  obtain ⟨hregs, -, -⟩ := endMigration_spec hm
  obtain ⟨-, hbit, -, hcap⟩ := migrated_regs s k hk
  unfold allocCapacity
  rw [hregs _ _ (by decide) (by decide), hregs _ _ (by decide) (by decide), hbit, hcap]

/-! ### The obligation -/

/-- Settles O10: each event is its operation, whose equation the lemmas above give; the end of a migration is read off the stack's own entries,
which neither the journal, the log nor the lost copy of the scorebook writes. -/
theorem stackFaults : Obligations.StackFaults := by
  unfold Obligations.StackFaults
  refine ⟨⟨?_, ?_, ?_, ?_, ?_, ?_, ?_, ?_⟩, ?_, ?_⟩
  · intro s k row a hs hk hl u
    refine (whenService_of_inService hs fun s => correctError s k row).trans (congrArg _ ?_)
    exact if_neg (by simp [stackLive_of hk hl])
  · intro s k hs hk hl
    refine (whenService_of_inService hs fun s => if stackLive s k then addReg s (stackIndex k) 0x05 1 else s).trans (congrArg _ ?_)
    exact if_pos (stackLive_of hk hl)
  · intro s k row hs hk h0 hm hd hn u
    refine (whenControlled_of_controlled hs fun s => spareRow s k row).trans (congrArg _ ?_)
    unfold spareRow
    rw [if_neg (by simp [stackLive_of hk (by omega : getReg s (stackIndex k) 0x01 ≤ 1), hd]), if_pos hn]
    exact startMigration_of_inService 2 hk h0 hm
  · intro s k row hs hk hl hd hn u
    exact (whenControlled_of_controlled hs fun s => spareRow s k row).trans (congrArg _ (spareRow_of_spares_left hk hl hd hn))
  · intro s k hs hk h0 hm u
    exact (whenControlled_of_controlled hs fun s => startMigration s k 1).trans (congrArg _ (startMigration_of_inService 1 hk h0 hm))
  · intro s k hs hk h0 hm u
    refine (whenControlled_of_controlled hs fun s => retireStack s k).trans (congrArg _ ?_)
    unfold retireStack
    rw [if_neg (by omega), if_neg (by simp [stackState, h0, hm]), startMigration_of_inService 3 hk h0 hm]
    rfl
  · intro s k hs hk h
    refine (whenControlled_of_controlled hs fun s => retireStack s k).trans (congrArg _ ?_)
    unfold retireStack
    rw [if_neg (by omega), if_pos (by simpa [stackState, Option.isSome_iff_ne_none] using h)]
    rfl
  · intro s k row a hs hk hl
    refine ⟨_, whenService_of_inService hs fun s => uncorrectError s k row a, uncorrectError_regs hk hl, uncorrectError_rowDue hk hl, ?_⟩
    exact .of_kept (uncorrectError_keeps s k row a) (by decide)
  · intro s k hs hk hm
    obtain ⟨hregs, hnone, hlast⟩ := endMigration_spec hm
    obtain ⟨hst, hbit, hcmd, -⟩ := migrated_regs s k hk
    have hne : stackIndex k ≠ 0x4000 ∧ stackIndex k ≠ 0xE000 ∧ stackIndex k ≠ 0x1200 := by unfold stackIndex; omega
    refine ⟨_, whenControlled_of_controlled hs fun s => endMigration s k, ?_, ?_, hnone, fun h => ?_, hlast, fun h => ?_, fun j hj hn h => ?_, ?_⟩
    · rw [hregs _ _ (by decide) (by simp [hne]), hst]
    · rw [hregs _ _ (by decide) (by decide), hbit, testBit_setBitAt, if_pos rfl]
    · rw [hregs _ _ (by decide) (by decide), hcmd h]
    · rw [endMigration_capacity hk hm, h, popCount_setBitAt_zero hk]
      omega
    · rw [endMigration_capacity hk hm, h, popCount_setBitAt_two_pow hk hj hn]
      rfl
    · exact (endMigration_keeps s k).mono rfl
  · intro s i n hs hr c u
    refine (whenControlled_of_controlled hs rebuiltCopy).trans (congrArg _ ?_)
    unfold rebuiltCopy
    rw [hr]

end Sys2Proof.Machine
end
section
/-! Supplies lost and back, and PERST# (O47, O48). -/
namespace Sys2Proof.Machine
open Sys2Proof

variable {s : State}

/-! ### What the loss of all supplies leaves of the dictionary -/

theorem keyKept_objKey {i j : Nat} {o : Obj} (w : Bool) (hj : j < 256) (ho : findObj i j = some o) :
    keyKept w (objKey i j) = (o.pers == .f || (w && o.pers == .w)) := by
  have hi : objKey i j / 256 = i := by unfold objKey; omega
  have hm : objKey i j % 256 = j := by unfold objKey; omega
  unfold keyKept keyObj
  rw [hi, hm, ho]

theorem getReg_of_keptDict {t : State} {w : Bool} (ht : t.dict.regs = (keptDict s.dict w).regs) {i j : Nat} {o : Obj} (hj : j < 256)
    (ho : findObj i j = some o) :
    getReg t i j = if (o.pers == .f || (w && o.pers == .w)) = true then getReg s i j else defaultOf i j := by
  unfold getReg ngetD
  rw [ht]
  unfold keptDict
  rw [nget_filter_key, keyKept_objKey w hj ho]
  split <;> rfl

theorem getBlob_of_keptDict {t : State} {w : Bool} (ht : t.dict.blobs = (keptDict s.dict w).blobs) {i j : Nat} {o : Obj} (hj : j < 256)
    (ho : findObj i j = some o) :
    getBlob t i j = if (o.pers == .f || (w && o.pers == .w)) = true then getBlob s i j else defaultBlob i j := by
  unfold getBlob ngetD
  rw [ht]
  unfold keptDict
  rw [nget_filter_key, keyKept_objKey w hj ho]
  split <;> rfl

/-! ### The works that a loss of what is volatile keeps -/

theorem switchFunction_ids (s : State) (k : Nat) : (switchFunction s k).works.map (·.id) = s.works.map (·.id) := by
  unfold switchFunction
  extract_lets f
  split
  · rfl
  · next t _ =>
    have hmap : (s.works.map fun w => { w with oldSlots := k :: w.oldSlots.filter (· != k) }).map (·.id) = s.works.map (·.id) := by
      rw [List.map_map]
      rfl
    extract_lets busy f' s1 s2
    split <;> exact hmap

theorem settleFn_ids (s : State) (k : Nat) : (settleFn s k).works.map (·.id) = s.works.map (·.id) := by
  unfold settleFn
  extract_lets f
  split
  · exact switchFunction_ids s k
  · rfl

theorem rebuildBanks_ids (s : State) : (rebuildBanks s).works.map (·.id) = s.works.map (·.id) := by
  have h : ∀ l : List Work, (l.map fun w => { w with bank := if w.bank = s.cdf.active then 0 else 1 }).map (·.id) = l.map (·.id) := fun l => by
    rw [List.map_map]
    rfl
  exact h s.works

theorem foldl_ids {α : Type} (f : State → α → State) (hf : ∀ s a, (f s a).works.map (·.id) = s.works.map (·.id)) (l : List α) (s : State) :
    (l.foldl f s).works.map (·.id) = s.works.map (·.id) := by
  induction l generalizing s with
  | nil => rfl
  | cons a l ih => rw [List.foldl_cons, ih, hf]

theorem abandonCommands_ids (s0 s : State) : (abandonCommands s0 s).works.map (·.id) = s.works.map (·.id) := by
  unfold abandonCommands
  extract_lets s1 key s2 s3 s4 s5 s6
  have h1 : s1.works.map (·.id) = s.works.map (·.id) :=
    foldl_ids undoSlot (fun t k => congrArg _ (undoSlot_keeps t k .works (by decide))) _ s
  have h2 : s2.works.map (·.id) = s.works.map (·.id) := (rebuildBanks_ids _).trans h1
  have h3 : s3.works = s2.works := by unfold s3; split <;> rfl
  have h4 : s4.works.map (·.id) = s.works.map (·.id) := (foldl_ids settleFn settleFn_ids _ s3).trans (h3 ▸ h2)
  have h5 : s5.works = s4.works := by unfold s5; split <;> rfl
  have h6 : s6.works = s5.works := by unfold s6; split <;> rfl
  show s6.works.map (·.id) = _
  rw [h6, h5, h4]

theorem loseVolatile_ids (s : State) : (loseVolatile s).works.map (·.id) = s.works.map (·.id) := by
  unfold loseVolatile
  extract_lets s1 now c ctl fabric empty m s2
  rw [resumeCtxs_keeps s _ .works (by decide), abandonCommands_ids, restartClock_keeps _ now .works (by decide),
    resumeCopies_keeps s s2 .works (by decide)]
  rfl

/-! ### The reset taken -/

theorem takeReset_ctl (s : State) (k : Nat) : ∃ log msix, (takeReset s k).ctl = { s.ctl with log, msix } := by
  obtain ⟨log, msix, h, -, -⟩ := logFault_ctl (setBlob (setReg s 0x1200 0x04 k) 0x1200 0x05 (countedReset (getBlob s 0x1200 0x05) k))
    0x0408 2 0 0 0xFFFF k
  exact ⟨log, msix, h⟩

/-! ### The begins of a start closed -/

/-- The journal's entry that closes begin `b`. -/
def Closes (b e : JournalEntry) : Prop := e.step = b.step ∧ e.kind = b.kind ∧ e.unit = b.unit ∧ e.event ∈ [2, 3, 8]

/-- An entry is added at the end, and one that makes room leaves none out while the journal is not full. -/
theorem addJournal_journal (s : State) (step kind unit event detail : Nat) (h : s.ctl.journal.length < 65536) :
    ∃ e, (addJournal s step kind unit event detail).ctl.journal = s.ctl.journal ++ [e] ∧ e.step = step ∧ e.kind = kind ∧ e.unit = unit ∧
      e.event = event := by
  refine ⟨⟨step, kind, unit, event, detail % 2 ^ 24, getReg s 0x1200 0x0B + 1,
    getReg (setReg s 0x1200 0x0B (getReg s 0x1200 0x0B + 1)) 0x1200 0x06⟩, ?_, rfl, rfl, rfl, rfl⟩
  unfold addJournal
  extract_lets seq u kept
  have hk : kept = s.ctl.journal := if_neg (Nat.not_le.mpr h)
  show kept ++ _ = _
  rw [hk]

/-- Begins closed one after another: every entry that stood still stands, and each begin has its end. -/
theorem closeBegins_journal (l : List JournalEntry) (s : State) (h : s.ctl.journal.length + l.length ≤ 65536) :
    let t := l.foldl (fun s b => addJournal s b.step b.kind b.unit 8 0) s
    (∀ e, e ∈ s.ctl.journal → e ∈ t.ctl.journal) ∧ ∀ b, b ∈ l → ∃ e, e ∈ t.ctl.journal ∧ Closes b e := by
  induction l generalizing s with
  | nil => exact ⟨fun _ he => he, nofun⟩
  | cons b l ih =>
    rw [List.length_cons] at h
    obtain ⟨e, hj, hs, hk, hu, hv⟩ := addJournal_journal s b.step b.kind b.unit 8 0 (by omega)
    obtain ⟨hkeep, hclose⟩ := ih (addJournal s b.step b.kind b.unit 8 0) (by rw [hj, List.length_append, List.length_singleton]; omega)
    refine ⟨fun x hx => hkeep x (hj ▸ List.mem_append_left _ hx), fun x hx => ?_⟩
    rcases List.mem_cons.mp hx with rfl | hx
    · exact ⟨e, hkeep e (hj ▸ List.mem_concat_self), hs, hk, hu, by simp [hv]⟩
    · exact hclose x hx

/-- R472: every begin of the last start is closed, be it by an entry of its own or by one that stood already. -/
theorem abandonStart_closes (h : 2 * s.ctl.journal.length ≤ 65536) {b : JournalEntry} (hb : b ∈ s.ctl.journal) (hv : b.event = 1)
    (hs : b.start = getReg s 0x1200 0x06) : ∃ e, e ∈ (abandonStart s).ctl.journal ∧ Closes b e := by
  unfold abandonStart
  extract_lets n mine closed
  have hmine : b ∈ mine := List.mem_filter.mpr ⟨hb, by simp [hs, n]⟩
  have hlen : (mine.filter fun b => b.event == 1 && !closed b).length ≤ s.ctl.journal.length :=
    (List.length_filter_le _ _).trans (List.length_filter_le _ _)
  obtain ⟨hkeep, hclose⟩ := closeBegins_journal (mine.filter fun b => b.event == 1 && !closed b) s (by omega)
  by_cases hc : closed b = true
  · obtain ⟨e, he, hp⟩ := List.any_eq_true.mp hc
    refine ⟨e, hkeep e (List.mem_filter.mp he).1, ?_⟩
    simp only [Bool.and_eq_true, Bool.or_eq_true, beq_iff_eq] at hp
    obtain ⟨⟨⟨⟨hst, hk⟩, hu⟩, -⟩, hev⟩ := hp
    exact ⟨hst, hk, hu, by simpa [or_assoc] using hev⟩
  · exact hclose b (List.mem_filter.mpr ⟨hmine, by simp [hv, hc]⟩)

theorem abandonStart_of_no_begin (h : ∀ b, b ∈ s.ctl.journal → b.event = 1 → b.start ≠ getReg s 0x1200 0x06) : abandonStart s = s := by
  unfold abandonStart
  extract_lets n mine closed
  have hnone : (mine.filter fun b => b.event == 1 && !closed b) = [] := by
    refine List.filter_eq_nil_iff.mpr fun b hb hp => ?_
    obtain ⟨hj, hn⟩ := List.mem_filter.mp hb
    exact h b hj (by simpa using (Bool.and_eq_true_iff.mp hp).1) (by simpa using hn)
  rw [hnone]
  rfl

theorem abandonStart_regs (s : State) : RegsBut [(0x1200, 0x0B)] s (abandonStart s) := by
  unfold abandonStart
  extract_lets n mine closed
  generalize (mine.filter fun b => b.event == 1 && !closed b) = l
  clear_value mine n
  have h : ∀ t, RegsBut [(0x1200, 0x0B)] s t → RegsBut [(0x1200, 0x0B)] s (l.foldl (fun s b => addJournal s b.step b.kind b.unit 8 0) t) := by
    induction l with
    | nil => exact fun _ ht => ht
    | cons b l ih => exact fun t ht => ih _ (addJournal_regs ht (by simp) _ _ _ _ _)
  exact h s (.refl _ s)

/-- A start from cold: everything is lost, and the reset of its kind is taken. -/
theorem releasePerst_cold {held : Bool} (hp : s.ctl.phase = .reset) (hk : s.ctl.resetKind = 2 → held = false) :
    ∃ u, releasePerst s held = takeReset u (if s.ctl.resetKind = 2 then 0 else s.ctl.resetKind) ∧ u.ctl.phase = .starting ∧ u.ctl.kind = .cold ∧
      Kept [.dict, .ctl] (loseAll s) u := by
  have hkind : (if s.ctl.resetKind = 2 ∧ (!held) = true then 0 else s.ctl.resetKind) = if s.ctl.resetKind = 2 then 0 else s.ctl.resetKind := by
    by_cases h2 : s.ctl.resetKind = 2
    · simp [h2, hk h2]
    · simp [h2]
  unfold releasePerst
  rw [if_neg (by simp [hp])]
  extract_lets kind v w s1 off c s2
  have hs2 : Kept [.dict, .ctl] (loseAll s) s2 := ((settleCopies_keeps (loseAll s)).mono rfl).trans ((Kept.ctl s1 _).mono rfl)
  have hne : kind ≠ 2 := by
    unfold kind
    rw [hkind]
    split
    · decide
    · assumption
  rw [if_neg hne]
  refine ⟨if off then setReg s2 0x1200 0x0A 1 else s2, congrArg _ hkind, ?_, ?_, ?_⟩
  · split <;> rfl
  · split <;> rfl
  · split
    · exact hs2.trans ((setReg_keeps s2 _ _ _).mono rfl)
    · exact hs2

/-! ### The obligations -/

/-- Settles O47: the loss of all supplies keeps the entries of class f and builds every other part afresh. -/
theorem supplies : Obligations.Supplies := by
  unfold Obligations.Supplies
  refine ⟨⟨fun s hp => ?_, fun s hp => ?_, fun s hp => ⟨fun ht => ?_, fun ht => ?_, ?_⟩, fun s h hp ht => ?_, fun s h hp => ?_⟩,
    fun s hp => ?_, fun s hp => ?_, fun s hp => ?_⟩
  · refine ⟨_, congrArg Host.Outcome.next (if_neg hp), rfl, rfl, rfl, rfl, rfl, rfl, rfl, rfl, rfl, rfl, rfl, rfl, rfl, rfl, rfl, rfl, rfl, rfl, rfl,
      rfl, rfl, fun i j o hj ho => ?_, fun i j o hj ho => ?_, ?_⟩
    · rw [getReg_of_keptDict (s := s) (w := false) rfl hj ho]
      simp
    · rw [getBlob_of_keptDict (s := s) (w := false) rfl hj ho]
      simp
    · refine .of_kept (qs := loseAllParts) ?_ (by decide)
      exact ((Kept.ctl s _).mono rfl).trans (loseAll_keeps _)
  · exact congrArg Host.Outcome.next (if_pos hp)
  · show Host.Outcome.next (powerUp s true) = _
    simp [powerUp, hp, ht]
  · show Host.Outcome.next (powerUp s true) = _
    simp [powerUp, hp, ht]
  · show Host.Outcome.next (powerUp s false) = _
    simp [powerUp, hp]
  · have hoff : s.ctl.phase ≠ .off := by rcases hp with hp | hp <;> simp [hp]
    have heq : powerUp s h = { loseAll s with ctl := { (loseAll s).ctl with
        phase := .reset, resetKind := 0, lossOfW := true, vstbyOff := (loseAll s).ctl.vstbyOff || !h } } := by
      unfold powerUp
      rw [if_neg (by rcases hp with hp | hp <;> simp [hp]), if_neg hoff]
      refine if_neg fun hc => ?_
      have htrip : s.ctl.tripped.isSome = true := hc.1
      rcases ht with ht | ht
      · simp [ht] at htrip
      · simp [ht] at hc
    refine ⟨powerUp s h, rfl, ?_⟩
    refine ⟨by rw [heq], by rw [heq], by rw [heq]; rfl, by rw [heq]; rfl, by rw [heq]; rfl, by rw [heq]; rfl, ?_⟩
    exact .of_kept (powerUp_keeps s h) (by decide)
  · show Host.Outcome.next (powerUp s h) = _
    unfold powerUp
    rw [if_pos (by rcases hp with hp | hp | hp <;> simp [hp])]
  · exact congrArg Host.Outcome.next (if_neg hp)
  · exact congrArg Host.Outcome.next (if_pos hp)
  · exact congrArg Host.Outcome.next (if_neg (by simp [hp]))

/-- Settles O48. -/
theorem perst : Obligations.Perst := by
  unfold Obligations.Perst
  refine ⟨fun s ha hp => ?_, fun s hp hl => ?_, fun s hp hk => ?_, fun s held hp hk => ?_⟩
  · have heq : assertPerst s = { abandonStart s with ctl := { (abandonStart s).ctl with
        phase := .reset, resetKind := if getReg (abandonStart s) 0x4000 0x06 = 1 then 2 else 1, inCharge := none, recovering := none
        recoverQ := [], busMaster := false, d3hot := false } } := by
      refine if_neg ?_
      rintro (h | ⟨hf, hl⟩)
      · simp [ha] at h
      · simp [hp hf] at hl
    have hregs := abandonStart_regs s
    have h06 : getReg (abandonStart s) 0x4000 0x06 = getReg s 0x4000 0x06 := hregs _ _ (by decide) (by decide)
    rw [h06] at heq
    refine ⟨assertPerst s, rfl, ?_, ?_, ?_, ?_, ?_, ?_, fun hn => ?_, fun hl b hb hv hs => ?_, ?_, assertPerst_keeps s⟩
    · rw [heq]
    · rw [heq]
    · rw [heq]
    · rw [heq]
    · rw [heq]
    · rw [heq]
    · rw [heq, abandonStart_of_no_begin hn]
      exact ⟨rfl, rfl⟩
    · rw [heq]
      exact abandonStart_closes hl hb hv hs
    · rw [heq]
      exact hregs
  · show Host.Outcome.next (assertPerst s) = _
    unfold assertPerst
    rw [if_pos (.inr ⟨hp, hl⟩)]
  · have heq : releasePerst s true =
        takeReset { loseVolatile s with ctl := { (loseVolatile s).ctl with phase := .starting, kind := .warm, resetKind := 2 } } 2 := by
      unfold releasePerst
      rw [if_neg (by simp [hp])]
      extract_lets kind
      have hkind : kind = 2 := by simp [kind, hk]
      exact if_pos hkind
    obtain ⟨log, msix, hctl⟩ := takeReset_ctl { loseVolatile s with ctl := { (loseVolatile s).ctl with
      phase := .starting, kind := .warm, resetKind := 2 } } 2
    refine ⟨releasePerst s true, rfl, ?_⟩
    rw [heq]
    refine ⟨by rw [hctl], by rw [hctl], (takeReset_regs _ 2).1, (congrArg _ (takeReset_keeps _ 2 .works (by decide))).trans (loseVolatile_ids s), ?_⟩
    refine .of_kept (qs := loseVolatileParts) ?_ (by decide)
    exact (loseVolatile_keeps s).trans (((Kept.ctl _ _).mono rfl).trans ((takeReset_keeps _ 2).mono rfl))
  · obtain ⟨u, heq, hphase, hkind, hu⟩ := releasePerst_cold hp hk
    obtain ⟨log, msix, hctl⟩ := takeReset_ctl u (if s.ctl.resetKind = 2 then 0 else s.ctl.resetKind)
    have ht : Kept [.dict, .ctl] (loseAll s) (releasePerst s held) := heq ▸ hu.trans (takeReset_keeps u _)
    refine ⟨releasePerst s held, rfl, by rw [heq, hctl]; exact hphase, by rw [heq, hctl]; exact hkind, ht .mem (by decide), ht .jobs (by decide),
      ht .frames (by decide), ht .works (by decide), ht .ctxs (by decide), by rw [heq]; exact (takeReset_regs u _).1, ?_⟩
    exact .of_kept ((loseAll_keeps s).trans (ht.mono rfl)) (by decide)

end Sys2Proof.Machine
end
section
/-! Part-level commands, die recovery, park, bridge errors and the routes over bridges (O49). -/
namespace Sys2Proof.Machine
open Sys2Proof

variable {s t u : State}

/-! ### The objects of the timebase and of the units through a loss of what is volatile -/

/-- The subentries of #2000 to #3FFF read as they did. -/
def UnitRegs (s t : State) : Prop := ∀ i j, j < 256 → 0x2000 ≤ i → i < 0x4000 → getReg t i j = getReg s i j

theorem UnitRegs.refl (s : State) : UnitRegs s s := fun _ _ _ _ _ => rfl

theorem UnitRegs.trans (h : UnitRegs s t) (k : UnitRegs t u) : UnitRegs s u := fun i j hj hl hu => (k i j hj hl hu).trans (h i j hj hl hu)

theorem UnitRegs.congr (h : UnitRegs s t) (k : u.dict = t.dict) : UnitRegs s u := fun i j hj hl hu => (getReg_congr k i j).trans (h i j hj hl hu)

theorem UnitRegs.setReg {i j v : Nat} (h : UnitRegs s t) (hj : j < 256) (hi : 0x4000 ≤ i) : UnitRegs s (setReg t i j v) :=
  fun i' j' hj' hl hu => by rw [getReg_setReg_obj _ _ (by omega) hj hj', h i' j' hj' hl hu]

theorem UnitRegs.of_regsBut {ps : List (Nat × Nat)} (h : RegsBut ps s t) (hp : ∀ p, p ∈ ps → p.1 < 0x2000 ∨ 0x4000 ≤ p.1) : UnitRegs s t :=
  fun i j hj hl hu => h i j hj fun hm => by
    have hi := hp _ hm
    dsimp only at hi
    omega

theorem UnitRegs.foldl {α : Type} {f : State → α → State} (hf : ∀ t a, UnitRegs t (f t a)) (l : List α) (h : UnitRegs s t) :
    UnitRegs s (l.foldl f t) := by
  induction l generalizing t with
  | nil => exact h
  | cons a l ih => exact ih (h.trans (hf t a))

theorem showPackage_unitRegs (s : State) (k : Nat) (p : Option Pkg) : UnitRegs s (showPackage s k p) := by
  have hi : 0x4000 ≤ slotIndex k := by unfold slotIndex; omega
  unfold showPackage
  extract_lets i v s1 s2
  have h1 : UnitRegs s s1 := (((UnitRegs.refl s).setReg (by decide) hi).setReg (by decide) hi).setReg (by decide) hi
  have h2 : UnitRegs s s2 := ((h1.setReg (by decide) hi).setReg (by decide) hi).setReg (by decide) hi
  have h3 : UnitRegs s (setBlob s2 i 0x08 ((p.map (·.digest)).getD (List.replicate 48 0))) := h2
  exact h3.congr (toMirror_keeps _ _ .dict (by decide))

theorem undoSlot_unitRegs (s : State) (k : Nat) : UnitRegs s (undoSlot s k) := by
  have hi : 0x4000 ≤ slotIndex k := by unfold slotIndex; omega
  have hset : ∀ t v st, UnitRegs t (setSlotStatus (setSlotState t k v) k st) := fun t v st =>
    ((UnitRegs.refl t).setReg (by decide) hi).setReg (by decide) hi
  unfold undoSlot
  extract_lets st s1 unbind s2 stay s3
  have h1 : UnitRegs s s1 := by
    unfold s1
    split <;> exact .refl s
  have h2 : UnitRegs s s2 := h1
  split
  · exact (h2.trans (showPackage_unitRegs s2 k none)).trans (hset _ 0 stCancelled)
  · split
    · exact hset s3 3 stCancelled
    · exact .refl s

theorem switchFunction_unitRegs (s : State) (k : Nat) : UnitRegs s (switchFunction s k) := by
  unfold switchFunction
  extract_lets f
  split
  · exact .refl s
  · extract_lets busy f' s1 s2
    split
    · exact (UnitRegs.refl s).setReg (by decide) (by decide)
    · exact .refl s

theorem settleFn_unitRegs (s : State) (k : Nat) : UnitRegs s (settleFn s k) := by
  unfold settleFn
  extract_lets f
  split
  · exact switchFunction_unitRegs s k
  · exact .refl s

theorem UnitRegs.ite {c : Prop} [Decidable c] (h : UnitRegs s t) (k : UnitRegs s u) : UnitRegs s (if c then t else u) := by
  split <;> assumption

theorem abandonCommands_unitRegs (s0 s : State) : UnitRegs s (abandonCommands s0 s) := by
  unfold abandonCommands
  extract_lets s1 key s2 s3 s4 s5 s6
  have h1 : UnitRegs s s1 := .foldl undoSlot_unitRegs _ (.refl s)
  have h2 : UnitRegs s s2 := h1.congr (rebuildBanks_keeps _ .dict (by decide))
  have h3 : UnitRegs s s3 := (h2.setReg (by decide) (by decide)).ite h2
  have h4 : UnitRegs s s4 := .foldl settleFn_unitRegs _ h3
  have h5 : UnitRegs s s5 := (h4.setReg (by decide) (by decide)).ite h4
  have h6 : UnitRegs s s6 := (h5.setReg (by decide) (by decide)).ite h5
  exact h6

theorem resumeCtxs_unitRegs (s0 s : State) : UnitRegs s (resumeCtxs s0 s) := by
  unfold resumeCtxs
  extract_lets s1 rejoin
  refine (UnitRegs.foldl (fun t k => ?_) _ (.refl s) : UnitRegs s s1)
  unfold ownFlows
  refine .foldl (fun t f => ?_) _ ?_
  · exact (UnitRegs.refl t).setReg (by decide) (by unfold flowIndex; omega)
  · exact (UnitRegs.refl t).setReg (by decide) (by unfold ctxIndex; omega)

/-- R398, R475: what is of class v reads its default again, what is of class w or f as it did. -/
theorem loseVolatile_unitRegs (s : State) {i j : Nat} {o : Obj} (hj : j < 256) (hl : 0x2000 ≤ i) (hu : i < 0x4000) (ho : findObj i j = some o) :
    getReg (loseVolatile s) i j = if (o.pers == .f || o.pers == .w) = true then getReg s i j else defaultOf i j := by
  unfold loseVolatile
  extract_lets s1 now c ctl fabric empty m s2
  have hcopies : UnitRegs s2 (resumeCopies s s2) := by
    unfold resumeCopies
    extract_lets s3
    have h3 : UnitRegs s2 s3 := (UnitRegs.refl s2).setReg (by decide) (by decide)
    exact (h3.setReg (by decide) (by decide)).ite h3
  have hclock := hcopies.congr (restartClock_keeps (resumeCopies s s2) now .dict (by decide))
  rw [(hclock.trans (abandonCommands_unitRegs s _)).trans (resumeCtxs_unitRegs s _) i j hj hl hu,
    getReg_of_keptDict (s := s) (w := true) rfl hj ho]
  simp

theorem takeReset_unitRegs (s : State) (k : Nat) : UnitRegs s (takeReset s k) :=
  .of_regsBut (takeReset_regs s k).2.1 (by simp)

/-! ### The die that recovers -/

theorem replayWorks_regs (s : State) (pick : Work → Bool) : RegsBut [(0x4000, 0x0A)] s (replayWorks s pick) := by
  unfold replayWorks
  extract_lets ws
  have h : Kept [.mem, .tiles, .images, .sync, .syncWins, .works, .ctxs] s (ws.foldl restartWork s) := .foldl (fun t w => restartWork_keeps t w) _ (.refl _ s)
  exact (RegsBut.of_dict _ (h .dict (by decide))).addReg (by decide) (by simp)

/-- R475: what the stop of a die leaves of the dictionary, of the die's tiles, lanes and cache. -/
theorem stopDie_spec (s : State) (d : Nat) :
    (stopDie s d).ctl.recovering = some d ∧ getReg (stopDie s d) 0x1200 0x04 = 5 ∧
    RegsBut [(0x1200, 0x04), (0xE000, 0x01), (0xE000, 0x05), (0x4000, 0x0A)] s (stopDie s d) ∧
    (∀ x, dieOfTile x = d → nget (stopDie s d).tiles x = none) ∧ (∀ l, l / 16 = d → nget (stopDie s d).lanes l = none) ∧
    nget (stopDie s d).cache d = none ∧ (∀ l, l / 16 ≠ d → nget (stopDie s d).lanes l = nget s.lanes l) := by
  unfold stopDie
  extract_lets c s1 s2 onDie wipe s3
  obtain ⟨hkind, hregs, -⟩ := takeReset_regs { s with ctl := { s.ctl with recovering := some d } } 5
  obtain ⟨log, msix, hctl⟩ := takeReset_ctl { s with ctl := { s.ctl with recovering := some d } } 5
  obtain ⟨log', msix', hlog, -, -⟩ := logFault_ctl s1 0x020B 2 14 d 0xFFFF d
  have h2 : RegsBut [(0x1200, 0x04), (0xE000, 0x01), (0xE000, 0x05), (0x4000, 0x0A)] s1 s2 := (RegsBut.refl _ s1).logFault (by simp) (by simp) _ _ _ _ _ _
  have h3 : RegsBut [(0x1200, 0x04), (0xE000, 0x01), (0xE000, 0x05), (0x4000, 0x0A)] s s3 :=
    (((show RegsBut _ s s1 from hregs).trans h2).trans (replayWorks_regs s2 _)).mono (by simp)
  have hlanes : s3.lanes = s.lanes := by
    show (replayWorks s2 (dieShare s2 d)).lanes = _
    rw [replayWorks_keeps s2 _ .lanes (by decide), logFault_keeps _ _ _ _ _ _ _ .lanes (by decide), takeReset_keeps _ _ .lanes (by decide)]
  refine ⟨?_, ?_, h3, fun x hx => ?_, fun l hl => ?_, nget_ndel_same _ _, fun l hl => ?_⟩
  · show (replayWorks s2 (dieShare s2 d)).ctl.recovering = _
    rw [replayWorks_ctl, hlog, hctl]
  · show getReg (replayWorks s2 (dieShare s2 d)) 0x1200 0x04 = 5
    rw [replayWorks_regs s2 _ _ _ (by decide) (by decide), getReg_logFault (by decide) (by decide)]
    exact hkind
  · show nget (s3.tiles.filter fun e => !onDie e) x = none
    rw [nget_filter_key s3.tiles (fun y => !(dieOfTile y == d)), if_neg (by simp [hx])]
  · show nget (s3.lanes.filter fun e => e.1 / 16 != d) l = none
    rw [nget_filter_key s3.lanes (fun y => y / 16 != d), if_neg (by simp [hl])]
  · show nget (s3.lanes.filter fun e => e.1 / 16 != d) l = _
    rw [nget_filter_key s3.lanes (fun y => y / 16 != d), if_pos (by simp [hl]), hlanes]

/-! ### Transfers over bridges -/

theorem mem_of_nget {α : Type} {m : NMap α} {k : Nat} {a : α} (h : nget m k = some a) : (k, a) ∈ m := by
  induction m with
  | nil => cases h
  | cons e r ih =>
    obtain ⟨x, b⟩ := e
    rw [nget] at h
    split at h
    · next hx =>
      obtain rfl := Option.some.inj h
      simp [hx]
    · exact List.mem_cons_of_mem _ (ih h)

theorem mem_tiles_of_queue {x : Nat} {q : QDesc} (hq : q ∈ (tileOf s x).queue) : (x, tileOf s x) ∈ s.tiles := by
  unfold tileOf ngetD at hq ⊢
  cases h : nget s.tiles x with
  | none =>
    rw [h] at hq
    cases hq
  | some a => exact mem_of_nget h

/-- R18: a transfer waits for an earlier one between the same two units that goes over a bridge. -/
theorem aheadOf_of_earlier {x : Nat} {d q : QDesc} {a b : Nat × Nat} (hx : crossesBridge a.1 b.1 = true) (hd : transferUnits s x d = some (a, b))
    (hq : q ∈ (tileOf s x).queue) (hs : q.started = true) (ha : q.arrived < d.arrived) (ht : transferUnits s x q = some (a, b)) :
    aheadOf s x d = true := by
  have hearlier : (x, q) ∈ s.tiles.flatMap fun e => (e.2.queue.filter fun q => q.started && decide (q.arrived < d.arrived)).map fun q => (e.1, q) :=
    List.mem_flatMap.mpr ⟨(x, tileOf s x), mem_tiles_of_queue hq, List.mem_map.mpr ⟨q, List.mem_filter.mpr ⟨hq, by simp [hs, ha]⟩, rfl⟩⟩
  unfold aheadOf
  extract_lets earlier held
  have hheld : held = true := by
    unfold held
    rw [hd]
    exact Bool.and_eq_true_iff.mpr ⟨hx, List.any_eq_true.mpr ⟨(x, q), hearlier, by simp [ht]⟩⟩
  rw [hheld, Bool.true_or]

/-! ### The routes -/

theorem dieRoute_between_rows : ∀ a, a < 8 → ∀ b, b < 8 → (dieRoute a b).head? = some a ∧ (dieRoute a b).getLast? = some b ∧
    ∀ x, x ∈ dieRoute a b → x ≠ b → x / 4 = a / 4 := by decide

theorem routeBridges_length : ∀ a, a < 10 → ∀ b, b < 10 →
    (∀ x, x ∈ routeBridges a b → x.isSome = true) ∧ (routeBridges a b).length ≤ (if a < 8 ∨ b < 8 then 4 else 5) := by decide

/-! ### The obligation -/

theorem parked_refuses (hp : inService s = false ∨ parked s = true) :
    warmReset s = resetStatus s stBadState ∧ dieCommand s = resetStatus s stBadState ∧ enterPark s = resetStatus s stBadState := by
  have h : (!inService s) = true ∨ parked s = true := by rcases hp with hp | hp <;> simp [hp]
  have hpark : parkRefused s = true := by rcases hp with hp | hp <;> simp [parkRefused, hp]
  exact ⟨if_pos h, if_pos h, if_pos hpark⟩

theorem warmReset_of_running (hs : inService s = true) (hp : parked s = false) :
    warmReset s = (let u := loseVolatile (resetStatus (abandonStart s) stOk)
      takeReset { u with ctl := { u.ctl with phase := .starting, kind := .warm, resetKind := 3, inCharge := none } } 3) :=
  if_neg (by simp [hs, hp])

theorem loseVolatile_units (s : State) : (loseVolatile s).tiles = [] ∧ (loseVolatile s).lanes = [] ∧ (loseVolatile s).cache = [] := by
  unfold loseVolatile
  extract_lets s1 now c ctl fabric empty m s2
  have h : Kept [.dict, .clk, .flows, .cdf, .fns, .pkgs, .queue, .works, .allocs, .media, .fabric, .out] s2
      (resumeCtxs s (abandonCommands s (restartClock (resumeCopies s s2) now))) :=
    ((resumeCopies_keeps s s2).mono rfl).trans (((restartClock_keeps _ now).mono rfl).trans
      (((abandonCommands_keeps s _).mono rfl).trans ((resumeCtxs_keeps s _).mono rfl)))
  exact ⟨h .tiles (by decide), h .lanes (by decide), h .cache (by decide)⟩

/-- Settles O49. -/
theorem resetsAndBridges : Obligations.ResetsAndBridges := by
  unfold Obligations.ResetsAndBridges
  refine ⟨⟨fun s c hp hc => ?_, fun s c hs hp hc => ?_, fun s hs hp => ?_, fun s hs hp => ⟨fun hr => ?_, fun hr => ?_⟩,
    fun s hs => ⟨fun hp => ?_, fun hp => ?_, fun hp => ?_, fun hp => ?_, fun hp => ?_⟩⟩,
    fun s b hs hb => ⟨fun hr => ?_, fun hr => ?_⟩, by decide, by decide, fun a b ha hb => dieRoute_between_rows a ha b hb,
    fun a b ha hb => routeBridges_length a ha b hb, fun s t o d hs hd hu hq => ?_⟩
  · have hin : inService s = false := by simp [inService, hp]
    obtain ⟨hw, hd, he⟩ := parked_refuses (.inl hin)
    have hl : leavePark s = resetStatus s stBadState := if_pos (by simp [hin])
    have hst : (controlled s || s.ctl.phase == .starting) = true := by simp [hp]
    simp only [List.mem_cons, List.not_mem_nil, or_false] at hc
    rcases hc with rfl | rfl | rfl | rfl
    · exact congrArg Host.Outcome.next ((if_pos hst).trans hw)
    · exact congrArg Host.Outcome.next ((if_pos hst).trans hd)
    · exact congrArg Host.Outcome.next ((if_pos hst).trans he)
    · exact congrArg Host.Outcome.next ((if_pos hst).trans hl)
  · obtain ⟨hw, hd, he⟩ := parked_refuses (.inr hp)
    have hst : (controlled s || s.ctl.phase == .starting) = true := by simp [hs]
    simp only [List.mem_cons, List.not_mem_nil, or_false] at hc
    rcases hc with rfl | rfl | rfl
    · exact congrArg Host.Outcome.next ((if_pos hst).trans hw)
    · exact congrArg Host.Outcome.next ((if_pos hst).trans hd)
    · exact congrArg Host.Outcome.next ((if_pos hst).trans he)
  · refine ⟨_, congrArg Host.Outcome.next ((if_pos (by simp [hs])).trans (warmReset_of_running (inService_of_controlled hs) hp)), ?_⟩
    extract_lets u
    obtain ⟨log, msix, hctl⟩ := takeReset_ctl { u with ctl := { u.ctl with phase := .starting, kind := .warm, resetKind := 3, inCharge := none } } 3
    obtain ⟨hkind, -, -⟩ := takeReset_regs { u with ctl := { u.ctl with phase := .starting, kind := .warm, resetKind := 3, inCharge := none } } 3
    have hk := takeReset_keeps { u with ctl := { u.ctl with phase := .starting, kind := .warm, resetKind := 3, inCharge := none } } 3
    have hunits := loseVolatile_units (resetStatus (abandonStart s) stOk)
    have hstatus : RegsBut [(0x1200, 0x0B), (0x1200, 0x03)] s (resetStatus (abandonStart s) stOk) :=
      ((abandonStart_regs s).mono (by simp)).setReg (by decide) (by simp)
    have hregs : UnitRegs s (resetStatus (abandonStart s) stOk) := .of_regsBut hstatus (by simp)
    have hstart : Kept [.dict, .ctl] s (resetStatus (abandonStart s) stOk) := (abandonStart_keeps s).trans ((resetStatus_keeps _ _).mono rfl)
    refine ⟨by rw [hctl], by rw [hctl], by rw [hctl], hkind, (hk .tiles (by decide)).trans hunits.1, (hk .lanes (by decide)).trans hunits.2.1,
      (hk .cache (by decide)).trans hunits.2.2, fun i j o hj hl hu ho => ?_, ?_, ?_⟩
    · have hread := loseVolatile_unitRegs (resetStatus (abandonStart s) stOk) hj hl hu ho
      rw [takeReset_unitRegs _ 3 i j hj hl hu]
      refine ⟨fun hv => hread.trans (if_neg (by simp [hv])), fun hwf => (hread.trans (if_pos ?_)).trans (hregs i j hj hl hu)⟩
      rcases hwf with h | h <;> simp [h]
    · exact (congrArg _ (hk .works (by decide))).trans ((loseVolatile_ids _).trans (congrArg _ (hstart .works (by decide))))
    · refine .of_kept (qs := loseVolatileParts) ?_ (by decide)
      exact (hstart.mono rfl).trans ((loseVolatile_keeps _).trans (((Kept.ctl u _).mono rfl).trans (hk.mono rfl)))
  · have heq : dieCommand s = stopDie (resetStatus s stOk) (getReg s 0x1200 0x02) := by
      unfold dieCommand
      rw [if_neg (by simp [inService_of_controlled hs, hp])]
      exact if_neg (by simp [resetStatus, setReg, hr])
    obtain ⟨hrec, hkind, hregs, htiles, hlanes, hcache, hother⟩ := stopDie_spec (resetStatus s stOk) (getReg s 0x1200 0x02)
    refine ⟨_, congrArg Host.Outcome.next ((if_pos (by simp [hs])).trans heq), hrec, ?_, hkind, htiles, hlanes, hcache, hother, ?_⟩
    · rw [hregs _ _ (by decide) (by decide)]
      exact getReg_setReg_same ..
    · exact ((resetStatus_keeps s stOk).mono rfl).trans ((stopDie_keeps _ _).mono rfl)
  · refine congrArg Host.Outcome.next ((if_pos (by simp [hs])).trans ?_)
    unfold dieCommand
    rw [if_neg (by simp [inService_of_controlled hs, hp])]
    exact if_pos hr
  · refine congrArg Host.Outcome.next ((if_pos (by simp [hs])).trans (if_neg (by simp [hp])))
  · refine congrArg Host.Outcome.next ((if_pos (by simp [hs])).trans (if_pos hp))
  · refine ⟨_, (whenControlled_of_controlled hs fun s => if getReg s 0x1200 0x10 = 1 then
      logFault (setReg s 0x1200 0x10 2) 0x0406 0 0 0 0xFFFF 0 else s).trans (congrArg _ (if_pos hp)), ?_, ?_, ?_⟩
    · rw [getReg_logFault (by decide) (by decide), getReg_setReg_same]
    · exact ((RegsBut.refl _ s).setReg (by decide) (by simp)).logFault (by simp) (by simp) _ _ _ _ _ _
    · exact ((setReg_keeps s _ _ _).mono rfl).trans (logFault_keeps _ _ _ _ _ _ _)
  · have heq : leavePark s = takeReset (setReg (resetStatus s stOk) 0x1200 0x10 3) 6 :=
      if_neg (by simp [inService_of_controlled hs, hp])
    obtain ⟨hkind, hregs, -⟩ := takeReset_regs (setReg (resetStatus s stOk) 0x1200 0x10 3) 6
    refine ⟨_, congrArg Host.Outcome.next ((if_pos (by simp [hs])).trans heq), ?_, ?_, hkind, ?_, ?_⟩
    · rw [hregs _ _ (by decide) (by decide), getReg_setReg_same]
    · rw [hregs _ _ (by decide) (by decide), getReg_setReg_sub _ _ _ (by decide) (by decide) (by decide)]
      exact getReg_setReg_same ..
    · have hset : RegsBut [(0x1200, 0x03), (0x1200, 0x10)] s (setReg (resetStatus s stOk) 0x1200 0x10 3) :=
        ((RegsBut.refl _ s).setReg (by decide) (by simp)).setReg (by decide) (by simp)
      exact (hset.trans hregs).mono (by simp)
    · exact ((resetStatus_keeps s stOk).mono rfl).trans (((setReg_keeps _ _ _ _).mono rfl).trans (takeReset_keeps _ _))
  · refine congrArg Host.Outcome.next ((if_pos (by simp [hs])).trans (if_pos (.inr hp)))
  · have hrec : (logFault s 0x0010 2 11 b 0xFFFF b).ctl.recovering = none := by
      obtain ⟨log, msix, hctl, -, -⟩ := logFault_ctl s 0x0010 2 11 b 0xFFFF b
      rw [hctl]
      exact hr
    have heq : recoverDie (logFault s 0x0010 2 11 b 0xFFFF b) (bridgeDie b) = stopDie (logFault s 0x0010 2 11 b 0xFFFF b) (bridgeDie b) :=
      if_neg (by simp [hrec])
    obtain ⟨hstop, hkind, -, htiles, -, -, -⟩ := stopDie_spec (logFault s 0x0010 2 11 b 0xFFFF b) (bridgeDie b)
    refine ⟨_, (whenService_of_inService hs fun s => if b < 14 then recoverDie (logFault s 0x0010 2 11 b 0xFFFF b) (bridgeDie b) else s).trans
      (congrArg _ ((if_pos hb).trans heq)), hstop, hkind, htiles, ?_⟩
    exact ((logFault_keeps s _ _ _ _ _ _).mono rfl).trans ((stopDie_keeps _ _).mono rfl)
  · obtain ⟨log, msix, hctl, -, -⟩ := logFault_ctl s 0x0010 2 11 b 0xFFFF b
    obtain ⟨kept, hlog⟩ := logFault_log s 0x0010 2 11 b 0xFFFF b
    refine ⟨_, (whenService_of_inService hs fun s => if b < 14 then recoverDie (logFault s 0x0010 2 11 b 0xFFFF b) (bridgeDie b) else s).trans
      (congrArg _ ((if_pos hb).trans (if_pos (by rw [hctl]; exact hr)))), ?_, ?_, ?_, ?_⟩
    · show (logFault s 0x0010 2 11 b 0xFFFF b).ctl.recoverQ ++ _ = _
      rw [hctl]
    · exact ⟨⟨0x0010, 2, 11, b, 0xFFFF, getReg s 0xE000 0x01 + 1, b, counterOf s⟩, hlog ▸ List.mem_concat_self, rfl, rfl, rfl⟩
    · exact (RegsBut.refl _ s).logFault (by simp) (by simp) _ _ _ _ _ _
    · exact (logFault_keeps s _ _ _ _ _ _).trans ((Kept.ctl _ _).mono rfl)
  · obtain ⟨a, b, q, hx, htd, hm, hst, harr, htq⟩ := hq
    have hahead := aheadOf_of_earlier hx htd hm hst harr htq
    refine (whenService_of_inService hs fun s => completeDesc s t o).trans (congrArg _ ?_)
    have hnone : ((tileOf s t).queue.find? fun e => e.order == o && e.started && !aheadOf s t e) = none := by
      refine List.find?_eq_none.mpr fun e he hc => ?_
      simp only [Bool.and_eq_true, beq_iff_eq, Bool.not_eq_true'] at hc
      obtain ⟨⟨ho, -⟩, hna⟩ := hc
      rw [hu e he ho, hahead] at hna
      cases hna
    unfold completeDesc
    rw [hnone]

end Sys2Proof.Machine
end
section
/-! What the steps of a start leave of the control part and of the entries that a start's outcome is read from (O50). -/
namespace Sys2Proof.Machine
open Sys2Proof

/-! ### What no unit of a start moves -/

/-- What of the control part the units of a start leave as it was. -/
def steadyCore (c : Control) : Phase × Option Nat × Manifest × Manifest × List Byte × List Nat × Option Nat :=
  (c.phase, c.inCharge, c.copyA, c.copyB, c.helper, c.recoverQ, c.recovering)

/-- The bridges as trained, and the self-tests of the clusters. -/
def wiresOf (c : Control) : NMap Bridge × List Bool := (c.bridges, c.clusterOk)

/-- The entries that the units of a start write: neither the number and the time of the start, nor the state of a stack. -/
abbrev Clear (i j : Nat) : Prop := (i ≠ 0x1200 ∨ (j ≠ 0x06 ∧ j ≠ 0x08)) ∧ (i < 0x4001 ∨ 0x4018 < i ∨ j ≠ 0x01)

/-- From one state of a start to a later one: the core of the control part stands, with `wired` the bridges and the clusters too, and so do the
start's number and time and the states of the stacks of which `Q` speaks. -/
structure OnStart (wired : Bool) (Q : Nat → Prop) (s t : State) : Prop where
  core : steadyCore t.ctl = steadyCore s.ctl
  wires : wired = true → wiresOf t.ctl = wiresOf s.ctl
  start : ∀ j, j = 0x06 ∨ j = 0x08 → getReg t 0x1200 j = getReg s 0x1200 j
  stackStates : ∀ k, k < 24 → Q k → getReg t (stackIndex k) 0x01 = getReg s (stackIndex k) 0x01

section
variable {B : Bool} {Q : Nat → Prop} {s t u : State}

namespace OnStart

theorem refl (B : Bool) (Q : Nat → Prop) (s : State) : OnStart B Q s s := ⟨rfl, fun _ => rfl, fun _ _ => rfl, fun _ _ _ => rfl⟩

theorem trans (h : OnStart B Q s t) (k : OnStart B Q t u) : OnStart B Q s u :=
  ⟨k.core.trans h.core, fun hb => (k.wires hb).trans (h.wires hb), fun j hj => (k.start j hj).trans (h.start j hj),
    fun x hx hq => (k.stackStates x hx hq).trans (h.stackStates x hx hq)⟩

/-- The dictionary and what counts of the control part are the same. -/
theorem same (h : OnStart B Q s t) (hd : u.dict = t.dict) (hc : steadyCore u.ctl = steadyCore t.ctl) (hw : wiresOf u.ctl = wiresOf t.ctl) : OnStart B Q s u :=
  h.trans ⟨hc, fun _ => hw, fun j _ => getReg_congr hd _ j, fun _ _ _ => getReg_congr hd _ _⟩

theorem kept {ps : List Sys2Proof.Part} (h : OnStart B Q s t) (k : Kept ps t u) (hp : (ps.contains .dict || ps.contains .ctl) = false := by rfl) :
    OnStart B Q s u := by
  rw [Bool.or_eq_false_iff] at hp
  have hc : u.ctl = t.ctl := k .ctl (by simpa using hp.2)
  exact h.same (k .dict (by simpa using hp.1)) (by rw [hc]) (by rw [hc])

theorem reads (h : OnStart B Q s t) (hc : steadyCore u.ctl = steadyCore t.ctl) (hw : wiresOf u.ctl = wiresOf t.ctl)
    (hr : ∀ i j, j < 256 → ¬ Clear i j → getReg u i j = getReg t i j) : OnStart B Q s u :=
  h.trans ⟨hc, fun _ => hw, fun j hj => hr _ j (by omega) (by omega), fun k hk _ => hr _ _ (by decide) (by unfold stackIndex; omega)⟩

theorem setReg {i j v : Nat} (h : OnStart B Q s t) (hj : j < 256) (hi : Clear i j) : OnStart B Q s (setReg t i j v) :=
  h.reads rfl rfl fun i' j' hj' hn => by
    rw [getReg_setReg t i j v i' j' hj hj', if_neg]
    rintro ⟨rfl, rfl⟩
    exact hn hi

/-- A write to an entry of a later object. -/
theorem setHigh {i j v : Nat} (h : OnStart B Q s t) (hi : 0x4019 ≤ i) : OnStart B Q s (Machine.setReg t i j v) :=
  h.reads rfl rfl fun i' j' hj' hn => getReg_setReg_ne t v (by unfold objKey; omega)

theorem addHigh {i j n : Nat} (h : OnStart B Q s t) (hi : 0x4019 ≤ i) : OnStart B Q s (Machine.addReg t i j n) := by
  unfold Machine.addReg
  split
  · exact h.setHigh hi
  · exact h

theorem addReg {i j n : Nat} (h : OnStart B Q s t) (hj : j < 256) (hi : Clear i j) : OnStart B Q s (addReg t i j n) := by
  unfold Machine.addReg
  split
  · exact h.setReg hj hi
  · exact h

theorem setBlob (h : OnStart B Q s t) (i j : Nat) (bs : List Byte) : OnStart B Q s (setBlob t i j bs) :=
  h.reads rfl rfl fun _ _ _ _ => rfl

theorem raiseVector (h : OnStart B Q s t) (v : Nat) : OnStart B Q s (raiseVector t v) := by
  obtain ⟨msix, hc, -, -⟩ := raiseVector_ctl t v
  exact h.same (raiseVector_dict t v) (by rw [hc]; rfl) (by rw [hc]; rfl)

theorem logFault (h : OnStart B Q s t) (code severity kind unit ctx detail : Nat) : OnStart B Q s (logFault t code severity kind unit ctx detail) := by
  obtain ⟨log, msix, hc, -, -⟩ := logFault_ctl t code severity kind unit ctx detail
  refine h.reads (by rw [hc]; rfl) (by rw [hc]; rfl) fun i j hj hn => ?_
  refine (RegsBut.refl [(0xE000, 0x01), (0xE000, 0x05)] t).logFault (by simp) (by simp) _ _ _ _ _ _ i j hj ?_
  simp only [List.mem_cons, Prod.mk.injEq, List.not_mem_nil, or_false]
  omega

theorem addJournal (h : OnStart B Q s t) (step kind unit event detail : Nat) : OnStart B Q s (addJournal t step kind unit event detail) := by
  unfold Machine.addJournal
  extract_lets seq t1 kept
  have h1 : OnStart B Q s t1 := h.setReg (by decide) (by decide)
  exact h1.same rfl rfl rfl

theorem foldl {α : Type} {f : State → α → State} (hf : ∀ t a, OnStart B Q s t → OnStart B Q s (f t a)) (l : List α) (h : OnStart B Q s t) :
    OnStart B Q s (l.foldl f t) := by
  induction l generalizing t with
  | nil => exact h
  | cons a l ih => exact ih (hf t a h)

theorem ite {c : Prop} [Decidable c] {v : State} (h : OnStart B Q s u) (k : OnStart B Q s v) : OnStart B Q s (if c then u else v) := by
  split <;> assumption

theorem phase (h : OnStart B Q s t) : t.ctl.phase = s.ctl.phase := congrArg (·.1) h.core
theorem inCharge (h : OnStart B Q s t) : t.ctl.inCharge = s.ctl.inCharge := congrArg (·.2.1) h.core
theorem recoverQ (h : OnStart B Q s t) : t.ctl.recoverQ = s.ctl.recoverQ := congrArg (·.2.2.2.2.2.1) h.core
theorem bridges (h : OnStart true Q s t) : t.ctl.bridges = s.ctl.bridges := congrArg (·.1) (h.wires rfl)
theorem clusterOk (h : OnStart true Q s t) : t.ctl.clusterOk = s.ctl.clusterOk := congrArg (·.2) (h.wires rfl)

theorem manifestOk (h : OnStart B Q s t) (found : StartFindings) : manifestOk t found = manifestOk s found := by
  have hcore := h.core
  simp only [steadyCore, Prod.mk.injEq] at hcore
  obtain ⟨-, -, hA, hB, hh, -, -⟩ := hcore
  unfold Machine.manifestOk acceptsA acceptsB manifestFits
  rw [hA, hB, hh]

theorem weaken (h : OnStart true Q s t) : OnStart B Q s t := ⟨h.core, fun _ => h.wires rfl, h.start, h.stackStates⟩

theorem restrict {R : Nat → Prop} (h : OnStart B Q s t) (hq : ∀ k, R k → Q k) : OnStart B R s t :=
  ⟨h.core, h.wires, h.start, fun k hk hr => h.stackStates k hk (hq k hr)⟩

end OnStart

/-! ### The retirement of units -/

theorem retireTile_onStart (h : OnStart B Q s t) (x : Nat) : OnStart B Q s (retireTile t x) := by
  unfold retireTile
  split
  · exact h
  · extract_lets s1 spare owner
    have h1 : OnStart B Q s s1 := h.setBlob ..
    refine ((OnStart.addJournal ?_ ..).logFault ..)
    exact (h1.same rfl rfl rfl).same rfl rfl rfl

theorem retireLane_onStart (h : OnStart B Q s t) (lane : Nat) : OnStart B Q s (retireLane t lane) := by
  unfold retireLane
  split
  · exact h
  · split
    · exact h.same rfl rfl rfl
    · extract_lets sub s1 s2
      have hsub : sub < 256 ∧ Clear 0x5200 sub := by unfold sub; split <;> decide
      have h1 : OnStart B Q s s1 := h.setReg hsub.1 hsub.2
      exact ((h1.kept (putLane_keeps s1 lane {})).addJournal ..).logFault ..

theorem setRetiredBits_onStart (h : OnStart B Q s t) (kind v : Nat) : OnStart B Q s (setRetiredBits t kind v) := by
  unfold setRetiredBits
  exact (h.setHigh (by decide)).ite (h.setHigh (by decide))

theorem retireUnit_onStart (h : OnStart B Q s t) (kind unit : Nat) : OnStart B Q s (retireUnit t kind unit) := by
  unfold retireUnit
  split
  · exact h
  · extract_lets s1 s2 s3
    have h1 : OnStart B Q s s1 := setRetiredBits_onStart h _ _
    have h2 : OnStart B Q s s2 := (h1.kept (putCore_keeps s1 kind unit {})).addJournal ..
    have h3 : OnStart B Q s s3 := (h2.logFault ..).kept (moveCharges_keeps _ _ _)
    exact (h3.kept (moveTasks_keeps s3 _ _)).ite h3

theorem retireDue_onStart (h : OnStart B Q s t) : OnStart B Q s (retireDue t) := by
  unfold retireDue
  refine .foldl (fun t u ht => ?_) _ (h.same rfl rfl rfl)
  exact (retireTile_onStart ht _).ite ((retireLane_onStart ht _).ite (retireUnit_onStart ht _ _))

theorem exclude_onStart (h : OnStart B Q s t) (kind unit : Nat) : OnStart B Q s (exclude t kind unit) := by
  unfold exclude
  exact h.ite (h.same rfl rfl rfl)

theorem outTile_onStart (h : OnStart B Q s t) (x : Nat) : OnStart B Q s (outTile t x) := exclude_onStart (retireTile_onStart h x) 1 x

theorem reportTile_onStart (h : OnStart B Q s t) (found : StartFindings) (x : Nat) : OnStart B Q s (reportTile found t x) :=
  outTile_onStart (h.addJournal ..) x

theorem retireFine_onStart (h : OnStart B Q s t) (u : Nat × Nat) : OnStart B Q s (retireFine t u) :=
  exclude_onStart ((retireLane_onStart h _).ite (retireUnit_onStart h _ _)) _ _

/-! ### Stacks mapped out and brought back -/

theorem loseCopy_onStart (h : OnStart B Q s t) (k : Nat) : OnStart B Q s (loseCopy t k) := by
  have hset : OnStart B Q s (setReg t 0x4000 0x04 1) := h.setReg (by decide) (by decide)
  unfold loseCopy
  extract_lets c which
  clear_value which
  split
  · exact h
  · split
    · exact hset.same rfl rfl rfl
    · exact hset

/-- The state of a stack of which `Q` does not speak may be written. -/
theorem OnStart.setStack {k v : Nat} (h : OnStart B Q s t) (hq : ¬ Q k) : OnStart B Q s (Machine.setReg t (stackIndex k) 0x01 v) :=
  h.trans ⟨rfl, fun _ => rfl, fun j hj => getReg_setReg_obj _ _ (by unfold stackIndex; omega) (by decide) (by omega),
    fun x hx hqx => getReg_setReg_obj _ _ (fun he => by
      unfold stackIndex at he
      obtain rfl : k = x := by omega
      exact hq hqx) (by decide) (by decide)⟩

theorem mapOut_onStart (h : OnStart B Q s t) (step : Nat) {k : Nat} (hq : ¬ Q k) : OnStart B Q s (mapOut t step k) :=
  loseCopy_onStart (((h.setStack hq).addJournal ..).logFault ..) k

theorem readmitStack_onStart (h : OnStart B Q s t) {k : Nat} (hq : ¬ Q k) : OnStart B Q s (readmitStack t k) := by
  unfold readmitStack
  split
  · extract_lets c s1
    have h1 : OnStart B Q s s1 := h.same rfl rfl rfl
    exact (h1.setStack hq).addJournal ..
  · exact h

theorem spareTested_onStart (h : OnStart B Q s t) (k row : Nat) : OnStart B Q s (spareTested t k row) := by
  unfold spareTested
  split
  · exact h
  · extract_lets s1 p
    have h1 : OnStart B Q s s1 := h.addReg (by decide) (by unfold stackIndex; omega)
    refine OnStart.logFault ?_ ..
    exact h1.same rfl rfl rfl

/-! ### Discovery, the scorebook and service -/

theorem takeAddress_onStart (h : OnStart B Q s t) (a : Nat) : OnStart B Q s (takeAddress t a) := by
  unfold takeAddress
  extract_lets old s1
  have h1 : OnStart B Q s s1 := (h.setHigh (by decide)).setHigh (by decide)
  exact h.ite (h1.ite ((h1.addHigh (by decide)).logFault ..))

theorem findRoot_onStart (h : OnStart B Q s t) : OnStart B Q s (findRoot t) := by
  unfold findRoot
  extract_lets heard root key less parent hops changed f s1 s2
  have h1 : OnStart B Q s s1 := h.same rfl rfl rfl
  have h2 : OnStart B Q s s2 := OnStart.ite ((h1.setHigh (by decide)).logFault ..) h1
  exact (takeAddress_onStart h2 _).ite h2

theorem pumpLink_onStart (i n : Nat) (h : OnStart B Q s t) : OnStart B Q s (pumpLink i n t) := by
  induction n generalizing t with
  | zero => exact h
  | succ n ih =>
    unfold pumpLink
    extract_lets l
    split
    · exact h
    · extract_lets g turn s1
      have h1 : OnStart B Q s s1 := h.kept (putLink_keeps t i _)
      exact ih ((h1.addHigh (by unfold linkIndex; omega)).kept (emit_keeps _ _))

theorem sendKept_onStart (h : OnStart B Q s t) (k : KeptMsg) : OnStart B Q s (sendKept t k) := by
  unfold sendKept
  extract_lets me
  split
  · exact h
  · next i _ =>
    extract_lets s1
    have h1 : OnStart B Q s s1 := h.kept (pinFlow_keeps t _ _ _ _)
    exact .foldl (fun u f hu => pumpLink_onStart i _ (hu.kept (putLink_keeps u i _))) _ h1

theorem sendMessage_onStart (h : OnStart B Q s t) (peer flow : Nat) (data : List Byte) : OnStart B Q s (sendMessage t peer flow data).1 := by
  unfold sendMessage
  extract_lets n rest k f s1
  have h1 : OnStart B Q s s1 := h.same rfl rfl rfl
  exact sendKept_onStart (h1.kept (emit_keeps s1 _)) k

theorem noteDelivered_onStart (h : OnStart B Q s t) (f r : Nat) (e : FrameEntry) : OnStart B Q s (noteDelivered t f r e) := by
  unfold noteDelivered clearFlowBit
  have hi : 0x4019 ≤ flowIndex f := by unfold flowIndex; omega
  exact OnStart.ite (((h.setHigh hi).logFault ..).raiseVector 51) h

theorem sringPut_onStart (h : OnStart B Q s t) (r k : Nat) (f : FrameEntry) : OnStart B Q s (sringPut t r k f) := by
  unfold sringPut
  exact ((h.kept (sringWrite_keeps t _ _ _)).kept (putSring_keeps _ _ _)).raiseVector _

theorem deliverHeld_onStart (h : OnStart B Q s t) (f : Nat) (o : HeldOutput) : OnStart B Q s (deliverHeld t f o) := by
  unfold deliverHeld
  split
  · split
    · exact h
    · dsimp only
      split
      · exact noteDelivered_onStart ((sendMessage_onStart h _ _ _).kept (putFlow_keeps _ _ _)) _ _ _
      · exact (noteDelivered_onStart ((sringPut_onStart h _ _ _).kept (putFlow_keeps _ _ _)) _ _ _).ite h
  · exact h

theorem deliverFlow_onStart (h : OnStart B Q s t) (f : Nat) : OnStart B Q s (deliverFlow t f) := by
  unfold deliverFlow
  refine .foldl (fun u o hu => ?_) _ h
  split
  · exact (deliverHeld_onStart hu _ _).ite hu
  · exact hu

theorem releaseAgain_onStart (h : OnStart B Q s t) : OnStart B Q s (releaseAgain t) := by
  unfold releaseAgain
  extract_lets m s1 s2 s3
  have h2 : OnStart B Q s s2 := (h.same rfl rfl rfl : OnStart B Q s s1).same rfl rfl rfl
  have h3 : OnStart B Q s s3 := .foldl (fun u x hu => .foldl (fun v o hv => hv.kept (rewriteHeld_keeps v _ _)) _ hu) _ h2
  exact .foldl (fun u f hu => deliverFlow_onStart hu f) _ h3

theorem replayAll_onStart (h : OnStart B Q s t) : OnStart B Q s (replayAll t) := by
  unfold replayAll
  extract_lets n s1
  have h1 : OnStart B Q s s1 := releaseAgain_onStart (.foldl (fun u w hu => hu.kept (restartWork_keeps u w)) _ h)
  exact (h1.addReg (by decide) (by decide)).logFault ..

theorem loseJournal_onStart (h : OnStart B Q s t) : OnStart B Q s (loseJournal t) := by
  unfold loseJournal
  refine OnStart.logFault ?_ ..
  exact (h.setReg (by decide) (by decide) : OnStart B Q s (setReg t 0x4000 0x04 2)).same rfl rfl rfl

theorem startMirror_onStart (h : OnStart B Q s t) : OnStart B Q s (startMirror t) := by
  unfold startMirror
  extract_lets items f s1
  have h1 : OnStart B Q s s1 := by
    refine OnStart.setReg ?_ (by decide) (by decide)
    exact h.same rfl rfl rfl
  exact .foldl (fun u i hu => hu.kept (toMirror_keeps u i)) _ h1

theorem umpireOutcome_onStart (h : OnStart B Q s t) (state status : Nat) : OnStart B Q s (umpireOutcome t state status) := by
  unfold umpireOutcome setUmpireState
  refine OnStart.setHigh ?_ (by decide)
  exact h.same rfl rfl rfl

theorem tryPair_onStart (h : OnStart B Q s t) : OnStart B Q s (tryPair t) := by
  unfold tryPair
  extract_lets ps heard u s1
  have h1 : OnStart B Q s s1 := h.same rfl rfl rfl
  exact h.ite ((umpireOutcome_onStart h1 _ _).ite (umpireOutcome_onStart h1 _ _))

theorem enableUmpire_onStart (h : OnStart B Q s t) : OnStart B Q s (enableUmpire t) := by
  unfold enableUmpire
  extract_lets s1 ps s2
  have h1 : OnStart B Q s s1 := h.same rfl rfl rfl
  have h2 : OnStart B Q s s2 := umpireOutcome_onStart h1 _ _
  refine ((umpireOutcome_onStart h1 0 _).setHigh (by decide)).ite ((umpireOutcome_onStart h1 _ _).ite (tryPair_onStart ?_))
  exact .foldl (fun u p hu => hu.kept (emit_keeps u _)) _ h2

theorem resumeModes_onStart (h : OnStart B Q s t) : OnStart B Q s (resumeModes t) := by
  unfold resumeModes
  extract_lets s1
  have h1 : OnStart B Q s s1 := (startMirror_onStart h).ite h
  exact (enableUmpire_onStart h1).ite h1

theorem noteTrip_onStart (h : OnStart B Q s t) : OnStart B Q s (noteTrip t) := by
  unfold noteTrip
  split
  · refine (OnStart.addReg ?_ (by decide) (by decide)).logFault ..
    exact h.same rfl rfl rfl
  · exact h

end
end Sys2Proof.Machine
end
section
/-! The units and the steps of a start (O50): which go on, which stop it, and what they leave. -/
namespace Sys2Proof.Machine
open Sys2Proof

/-! ### One unit -/

/-- A unit's begin, shown as the current step during a start. -/
def beginUnit (step kind unit : Nat) (s : State) : State :=
  addJournal (if s.ctl.phase = .starting then setReg s 0x1200 0x07 (step * 65536 + unit) else s) step kind unit 1 0

/-- A unit's end: its entry, the log of a failure, and the failed part where the start stops. -/
def closeUnit (detail step kind unit : Nat) (r : StepEnd) : State × Bool :=
  let s := if r.2.1 then addJournal r.1 step kind unit 2 0 else addJournal r.1 step kind unit 3 detail
  let s := if r.2.1 then s else logFault s 0x0401 (if r.2.2 then 2 else 0) kind unit 0xFFFF (step * 65536 + unit)
  (if r.2.2 then { s with ctl := { s.ctl with phase := .failed, inCharge := none } } else s, r.2.2)

section
variable {B : Bool} {Q : Nat → Prop} {s t : State} {acc : State × Bool} {found : StartFindings} {detail step kind unit name : Nat}
  {act : State → StepEnd}

theorem runUnitWith_of_runs (ha : acc.2 = false) (hl : found.lockedAt ≠ some (step, name)) :
    runUnitWith detail found step kind unit name act acc = closeUnit detail step kind unit (act (beginUnit step kind unit acc.1)) := by
  unfold runUnitWith
  rw [if_neg (by simp [ha])]
  exact if_neg hl

theorem runUnitWith_of_locked (ha : acc.2 = false) (hl : found.lockedAt = some (step, name)) :
    runUnitWith detail found step kind unit name act acc = (beginUnit step kind unit acc.1, true) := by
  unfold runUnitWith
  rw [if_neg (by simp [ha])]
  exact if_pos hl

theorem runUnitWith_of_stopped (ha : acc.2 = true) : runUnitWith detail found step kind unit name act acc = acc := if_pos ha

theorem beginUnit_onStart (h : OnStart B Q s t) (step kind unit : Nat) : OnStart B Q s (beginUnit step kind unit t) :=
  (OnStart.ite (h.setReg (by decide) (by decide)) h).addJournal ..

theorem closeUnit_of_goes {r : StepEnd} (hr : r.2.2 = false) (h : OnStart B Q s r.1) (detail step kind unit : Nat) :
    (closeUnit detail step kind unit r).2 = false ∧ OnStart B Q s (closeUnit detail step kind unit r).1 := by
  unfold closeUnit
  extract_lets s1 s2
  have h1 : OnStart B Q s s1 := (h.addJournal ..).ite (h.addJournal ..)
  have h2 : OnStart B Q s s2 := h1.ite (h1.logFault ..)
  rw [hr]
  exact ⟨rfl, h2⟩

theorem closeUnit_of_stops {r : StepEnd} (hr : r.2.2 = true) (detail step kind unit : Nat) :
    (closeUnit detail step kind unit r).2 = true ∧ (closeUnit detail step kind unit r).1.ctl.phase = .failed ∧
      (closeUnit detail step kind unit r).1.ctl.inCharge = none := by
  unfold closeUnit
  extract_lets s1 s2
  rw [hr]
  exact ⟨rfl, rfl, rfl⟩

/-! ### Steps that go on -/

/-- The start goes on, and from `s` on the units have left what they leave. -/
def Goes (wired : Bool) (Q : Nat → Prop) (s : State) (acc : State × Bool) : Prop := acc.2 = false ∧ OnStart wired Q s acc.1

theorem Goes.refl (B : Bool) (Q : Nat → Prop) (s : State) : Goes B Q s (s, false) := ⟨rfl, .refl B Q s⟩

theorem Goes.ite {c : Prop} [Decidable c] {acc' : State × Bool} (h : Goes B Q s acc) (k : Goes B Q s acc') : Goes B Q s (if c then acc else acc') := by
  split <;> assumption

theorem Goes.foldl {α : Type} {f : State × Bool → α → State × Bool} (hf : ∀ acc a, Goes B Q s acc → Goes B Q s (f acc a)) (l : List α)
    (h : Goes B Q s acc) : Goes B Q s (l.foldl f acc) := by
  induction l generalizing acc with
  | nil => exact h
  | cons a l ih => exact ih (hf acc a h)

theorem runUnitWith_goes (h : Goes B Q s acc) (hl : found.lockedAt ≠ some (step, name))
    (hact : ∀ t, OnStart B Q s t → (act t).2.2 = false ∧ OnStart B Q s (act t).1) :
    Goes B Q s (runUnitWith detail found step kind unit name act acc) := by
  rw [runUnitWith_of_runs h.1 hl]
  obtain ⟨hgo, hon⟩ := hact _ (beginUnit_onStart h.2 step kind unit)
  exact closeUnit_of_goes hgo hon ..

theorem runUnit_goes (h : Goes B Q s acc) (hl : found.lockedAt ≠ some (step, name))
    (hact : ∀ t, OnStart B Q s t → (act t).2.2 = false ∧ OnStart B Q s (act t).1) : Goes B Q s (runUnit found step kind unit name act acc) :=
  runUnitWith_goes h hl hact

theorem noteUnit_goes (h : Goes B Q s acc) (step kind unit event detail : Nat) : Goes B Q s (noteUnit step kind unit event detail acc) := by
  unfold noteUnit
  rw [if_neg (by simp [h.1])]
  exact ⟨rfl, h.2.addJournal ..⟩

theorem runUnits_goes {f : Nat → State × Bool → State × Bool} {units : List Nat} (hf : ∀ u, u ∈ units → ∀ acc, Goes B Q s acc → Goes B Q s (f u acc))
    (h : Goes B Q s acc) : Goes B Q s (runUnits f units acc) := by
  unfold runUnits
  induction units generalizing acc with
  | nil => exact h
  | cons u l ih =>
    refine ih (fun v hv => hf v (List.mem_cons_of_mem _ hv)) ?_
    exact h.ite (hf u List.mem_cons_self acc h)

theorem noteSkipped_goes (h : Goes B Q s acc) (step : Nat) (mine : Nat × Nat → Bool) : Goes B Q s (noteSkipped step mine acc) :=
  .foldl (fun _ _ ha => noteUnit_goes ha ..) _ h

section
variable (hl : found.lockedAt = none) (prev : List JournalEntry)
include hl

theorem stepManifest_goes (h : Goes B Q s acc) (hm : manifestOk s found = true) : Goes B Q s (stepManifest found prev acc) := by
  refine runUnit_goes h (by simp [hl]) fun t ht => ?_
  extract_lets bFirst ok useB s1 m
  have hok : ok = true := by rw [← hm, ← ht.manifestOk found]
  have h1 : OnStart B Q s s1 := (ht.logFault ..).ite ht
  exact ⟨by simp [hok], h1.same rfl rfl rfl⟩

theorem stepSupplies_goes (h : Goes B Q s acc) (hf : failsAt found 3 0 = false) : Goes B Q s (stepSupplies found prev acc) := by
  unfold stepSupplies
  extract_lets acc1
  have h1 : Goes B Q s acc1 := (noteUnit_goes h ..).ite h
  exact runUnit_goes h1 (by simp [hl]) fun t ht => ⟨hf, (ht.kept (sendTables_keeps t)).ite ht⟩

theorem deriveIdentity_onStart (h : OnStart B Q s t) : OnStart B Q s (deriveIdentity t) := by
  clear hl
  unfold deriveIdentity
  extract_lets k c s1
  have h1 : OnStart B Q s s1 := by
    refine OnStart.setReg ?_ (by decide) (by decide)
    exact h.same rfl rfl rfl
  exact (h1.setBlob ..).setBlob ..

theorem stepIdentity_goes (h : Goes B Q s acc) : Goes B Q s (stepIdentity found prev acc) := by
  unfold stepIdentity
  refine (noteUnit_goes h ..).ite (runUnit_goes h (by simp [hl]) fun t ht => ?_)
  split
  · exact ⟨rfl, (ht.setReg (by decide) (by decide)).logFault ..⟩
  · exact ⟨rfl, deriveIdentity_onStart hl ht⟩

theorem stepBridges_goes (h : Goes false Q s acc) (units : List Nat)
    (hf : ∀ b, failsAt found 5 b = false ∧ found.failedTwice.contains (5, b) = false) : Goes false Q s (stepBridges found prev units acc) := by
  refine runUnits_goes (fun b _ acc ha => ?_) h
  extract_lets half acc1 full bad run
  have h1 : Goes false Q s acc1 := (noteUnit_goes ha ..).ite ha
  refine runUnit_goes h1 (by simp [hl]) fun t ht => ?_
  have hbad : bad = false := by
    obtain ⟨h1, h2⟩ := hf b
    unfold bad
    rw [h1, h2]
    simp
  exact ⟨hbad, ht.trans ⟨rfl, nofun, fun _ _ => rfl, fun _ _ _ => rfl⟩⟩

/-- One stack of step 0x06. -/
def trainStack (found : StartFindings) (prev : List JournalEntry) (k : Nat) (acc : State × Bool) : State × Bool :=
  let acc := if acc.2 then acc else (readmitStack acc.1 k, false)
  if stackState acc.1 k ≥ 2 then noteUnit 6 3 k 4 0 acc
  else
    let acc := if unended prev 6 3 k then noteUnit 6 3 k 5 0 acc else acc
    runUnit found 6 3 k k (fun s =>
      let bad := if unended prev 6 3 k then failsAt found 6 k else failsTwice found 6 k
      (if bad then mapOut s 6 k else s, !bad, false)) acc

theorem stepStacks_eq (units : List Nat) (acc : State × Bool) : stepStacks found prev units acc =
    runUnits (trainStack found prev) ((units.filter fun k => !unended prev 6 3 k) ++ units.filter fun k => unended prev 6 3 k) acc := by
  clear hl
  rfl

theorem trainStack_goes (h : Goes B Q s acc) {k : Nat} (hq : ¬ Q k) : Goes B Q s (trainStack found prev k acc) := by
  unfold trainStack
  extract_lets acc1 acc2
  have h1 : Goes B Q s acc1 := by
    unfold acc1
    rw [if_neg (by simp [h.1])]
    exact ⟨rfl, readmitStack_onStart h.2 hq⟩
  have h2 : Goes B Q s acc2 := (noteUnit_goes h1 ..).ite h1
  refine (noteUnit_goes h1 ..).ite (runUnit_goes h2 (by simp [hl]) fun t ht => ?_)
  extract_lets bad
  exact ⟨rfl, (mapOut_onStart ht 6 hq).ite ht⟩

theorem stepStacks_goes (h : Goes B Q s acc) {units : List Nat} (hq : ∀ k, k ∈ units → ¬ Q k) : Goes B Q s (stepStacks found prev units acc) := by
  rw [stepStacks_eq hl]
  refine runUnits_goes (fun k hk acc ha => trainStack_goes hl prev ha (hq k ?_)) h
  rcases List.mem_append.mp hk with hk | hk
  · exact (List.mem_filter.mp hk).1
  · exact (List.mem_filter.mp hk).1

theorem stepStackTest_goes (h : Goes B Q s acc) (hq : ∀ k, Q k → 2 ≤ stackState s k) : Goes B Q s (stepStackTest found prev acc) := by
  refine runUnits_goes (fun k hk acc ha => ?_) h
  split
  · exact ha
  · next hlive =>
    have hnq : ¬ Q k := fun hqk => hlive ((hq k hqk).trans_eq (ha.2.stackStates k (List.mem_range.mp hk) hqk).symm)
    extract_lets again acc1
    have h1 : Goes B Q s acc1 := (noteUnit_goes ha ..).ite ha
    refine runUnit_goes h1 (by simp [hl]) fun t ht => ?_
    extract_lets rows bad
    split
    · exact ⟨rfl, mapOut_onStart ht 7 hnq⟩
    · exact ⟨rfl, .foldl (fun u r hu => spareTested_onStart hu k r) _ ht⟩

theorem stepTiles_goes (h : Goes B Q s acc) (d : Nat) : Goes B Q s (stepTiles found prev d acc) := by
  unfold stepTiles
  rw [if_neg (by simp [h.1])]
  extract_lets acc1 hung acc2 acc3
  have h1 : Goes B Q s acc1 := noteSkipped_goes h ..
  have h2 : Goes B Q s acc2 := ⟨rfl, .foldl (fun t x ht => (outTile_onStart ht x).logFault ..) _ h1.2⟩
  have h3 : Goes B Q s acc3 := noteUnit_goes h2 ..
  refine Goes.ite ?_ (runUnit_goes h2 (by simp [hl]) fun t ht => ⟨rfl, .foldl (fun u x hu => reportTile_onStart hu found x) _ ht⟩)
  refine runUnits_goes (fun x _ acc ha => runUnitWith_goes ha (by simp [hl]) fun t ht => ?_) h3
  exact ⟨rfl, (outTile_onStart ht x).ite ht⟩

theorem stepUnits_goes (h : Goes B Q s acc) (d : Nat) : Goes B Q s (stepUnits found prev d acc) := by
  unfold stepUnits
  rw [if_neg (by simp [h.1])]
  extract_lets acc1 us acc2
  have h1 : Goes B Q s acc1 := noteSkipped_goes h ..
  have h2 : Goes B Q s acc2 := noteUnit_goes h1 ..
  refine Goes.ite ?_ (runUnit_goes h1 (by simp [hl]) fun t ht => ⟨rfl, .foldl (fun u x hu => retireFine_onStart hu x) _ ht⟩)
  exact .foldl (fun acc u ha => runUnit_goes ha (by simp [hl]) fun t ht => ⟨rfl, (retireFine_onStart ht u).ite ht⟩) _ h2

theorem stepTables_goes (h : Goes B Q s acc) : Goes B Q s (stepTables found acc) :=
  runUnit_goes h (by simp [hl]) fun _ ht => ⟨rfl, ht.same rfl rfl rfl⟩

theorem stepPorts_goes (h : Goes B Q s acc) : Goes B Q s (stepPorts found acc) := by
  refine runUnits_goes (fun p _ acc ha => ?_) h
  exact ha.ite (runUnit_goes ha (by simp [hl]) fun t ht => ⟨rfl, ht.setHigh (by unfold portIndex; omega)⟩)

theorem setLinkState_onStart (h : OnStart B Q s t) (i v : Nat) : OnStart B Q s (setLinkState t i v) := by
  clear hl
  exact h.setHigh (by unfold linkIndex; omega)

theorem stepLink_goes (h : Goes B Q s acc) (i : Nat) : Goes B Q s (stepLink found prev i acc) := by
  unfold stepLink
  rw [if_neg (by simp [h.1])]
  extract_lets s0 back c s1 low acc1
  have h1 : OnStart B Q s s1 := by
    refine OnStart.ite (OnStart.addJournal ?_ ..) h.2
    exact h.2.same rfl rfl rfl
  have hdown : Goes B Q s (setLinkState s1 i 0, false) := ⟨rfl, setLinkState_onStart hl h1 i 0⟩
  have hgo : Goes B Q s (s1, false) := ⟨rfl, h1⟩
  have h2 : Goes B Q s acc1 := (noteUnit_goes hgo ..).ite hgo
  refine hdown.ite ((noteUnit_goes hdown ..).ite (runUnit_goes h2 (by simp [hl]) fun t ht => ?_))
  extract_lets bad x y t1 fresh
  split
  · refine ⟨rfl, OnStart.logFault (OnStart.addJournal ?_ ..) ..⟩
    exact (setLinkState_onStart hl ht i 0).same rfl rfl rfl
  · exact ⟨rfl, setLinkState_onStart hl (ht.kept (putLink_keeps t i _)) i _⟩

theorem stepDiscovery_goes (h : Goes B Q s acc) : Goes B Q s (stepDiscovery found acc) := by
  refine runUnit_goes h (by simp [hl]) fun t ht => ⟨rfl, ?_⟩
  extract_lets t1
  have h1 : OnStart B Q s t1 := findRoot_onStart ht
  exact (h1.setHigh (by decide)).setHigh (by decide)

theorem stepScorebook_goes (h : Goes B Q s acc) (cold : Bool) : Goes B Q s (stepScorebook found cold acc) := by
  refine runUnit_goes h (by simp [hl]) fun t ht => ⟨rfl, ?_⟩
  refine OnStart.ite (ht.ite (ht.setReg (by decide) (by decide))) (OnStart.ite (replayAll_onStart ?_) (loseJournal_onStart ht))
  exact ht.same rfl rfl rfl

theorem plainStep_goes (h : Goes B Q s acc) (step : Nat) : Goes B Q s (plainStep found step acc) :=
  runUnit_goes h (by simp [hl]) fun _ ht => ⟨rfl, ht⟩

end
end
end Sys2Proof.Machine
end
section
/-! How a start, a die recovery and the way out of park end (O50). -/
namespace Sys2Proof.Machine
open Sys2Proof

section
variable {B : Bool} {Q : Nat → Prop} {s t : State} {acc : State × Bool} {found : StartFindings} {prev : List JournalEntry}

/-! ### A start that has stopped -/

/-- The start has stopped, and the part has failed. -/
def Stopped (acc : State × Bool) : Prop := acc.2 = true ∧ acc.1.ctl.phase = .failed ∧ acc.1.ctl.inCharge = none

theorem runUnits_of_stopped (f : Nat → State × Bool → State × Bool) (units : List Nat) (ha : acc.2 = true) : runUnits f units acc = acc := by
  unfold runUnits
  induction units with
  | nil => rfl
  | cons u l ih => rw [List.foldl_cons, if_pos ha, ih]

theorem foldl_of_stopped {α : Type} (f : State × Bool → α → State × Bool) (l : List α) (hf : ∀ a, f acc a = acc) : l.foldl f acc = acc := by
  induction l with
  | nil => rfl
  | cons a l ih => rw [List.foldl_cons, hf, ih]

theorem noteUnit_of_stopped (ha : acc.2 = true) (step kind unit event detail : Nat) : noteUnit step kind unit event detail acc = acc := if_pos ha

theorem stepManifest_of_stopped (ha : acc.2 = true) : stepManifest found prev acc = acc := by
  unfold stepManifest runUnit
  exact runUnitWith_of_stopped ha

theorem stepSupplies_of_stopped (ha : acc.2 = true) : stepSupplies found prev acc = acc := by
  unfold stepSupplies
  extract_lets acc1
  have h1 : acc1 = acc := by
    unfold acc1
    rw [noteUnit_of_stopped ha, ite_self]
  rw [h1]
  exact runUnitWith_of_stopped ha

theorem stepIdentity_of_stopped (ha : acc.2 = true) : stepIdentity found prev acc = acc := by
  unfold stepIdentity
  split
  · exact noteUnit_of_stopped ha ..
  · exact runUnitWith_of_stopped ha

theorem stepTiles_of_stopped (ha : acc.2 = true) (d : Nat) : stepTiles found prev d acc = acc := if_pos ha
theorem stepUnits_of_stopped (ha : acc.2 = true) (d : Nat) : stepUnits found prev d acc = acc := if_pos ha
theorem stepLink_of_stopped (ha : acc.2 = true) (i : Nat) : stepLink found prev i acc = acc := if_pos ha

/-! ### The clusters -/

theorem closeUnit_wires {r : StepEnd} (hr : r.2.2 = false) (detail step kind unit : Nat) :
    OnStart true (fun _ => True) r.1 (closeUnit detail step kind unit r).1 := (closeUnit_of_goes hr (.refl true _ r.1) detail step kind unit).2

/-- The self-test of one cluster (step 0x01). -/
def testCluster (found : StartFindings) (u : Nat) (acc : State × Bool) : State × Bool :=
  runUnit found 1 12 u u (fun s =>
    let bad := failsAt found 1 u
    ({ s with ctl := { s.ctl with clusterOk := s.ctl.clusterOk.set u (!bad) } }, !bad, false)) acc

theorem testCluster_spec (h : Goes false Q s acc) {u : Nat} (hl : found.lockedAt ≠ some (1, u)) :
    Goes false Q s (testCluster found u acc) ∧
      (testCluster found u acc).1.ctl.clusterOk = acc.1.ctl.clusterOk.set u (!failsAt found 1 u) := by
  refine ⟨runUnit_goes h hl fun t ht => ⟨rfl, ht.trans ⟨rfl, nofun, fun _ _ => rfl, fun _ _ _ => rfl⟩⟩, ?_⟩
  unfold testCluster runUnit
  rw [runUnitWith_of_runs h.1 hl, (closeUnit_wires rfl ..).clusterOk]
  have hb : (beginUnit 1 12 u acc.1).ctl.clusterOk = acc.1.ctl.clusterOk :=
    (beginUnit_onStart (.refl true (fun _ => True) acc.1) 1 12 u).clusterOk
  dsimp only
  rw [hb]

/-- The order of the clusters at a start. -/
def clusterOrder (prev : List JournalEntry) : List Nat := if unended prev 1 12 0 then [1, 0] else [0, 1]

theorem runUnits_cons (f : Nat → State × Bool → State × Bool) (u : Nat) (l : List Nat) (ha : acc.2 = false) :
    runUnits f (u :: l) acc = runUnits f l (f u acc) := by
  unfold runUnits
  rw [List.foldl_cons, if_neg (by simp [ha])]

theorem runUnits_append (f : Nat → State × Bool → State × Bool) (l m : List Nat) (acc : State × Bool) :
    runUnits f (l ++ m) acc = runUnits f m (runUnits f l acc) := List.foldl_append ..

theorem stepClusters_of_tested {a : State} (h : runUnits (testCluster found) (clusterOrder prev) (s, false) = (a, false)) :
    stepClusters found prev (s, false) = match (clusterOrder prev).find? fun u => a.ctl.clusterOk.getD u false with
      | some c => ({ a with ctl := { a.ctl with inCharge := some c } }, false)
      | none => ({ a with ctl := { a.ctl with phase := .failed, inCharge := none } }, true) := by
  unfold stepClusters
  extract_lets order one acc1 s1
  have hacc : acc1 = (a, false) := h
  have hs1 : s1 = a := congrArg Prod.fst hacc
  rw [if_neg (by simp [hacc])]
  clear_value s1
  subst hs1
  rfl

/-- Step 0x01: both clusters are tested, and the first of the order that passed takes control; without one the start stops. -/
theorem stepClusters_spec (hl : ∀ u, found.lockedAt ≠ some (1, u)) (hlen : s.ctl.clusterOk.length = 2) : ∃ a, OnStart false Q s a ∧
    (∀ c, ((clusterOrder prev).find? fun u => !failsAt found 1 u) = some c →
      stepClusters found prev (s, false) = ({ a with ctl := { a.ctl with inCharge := some c } }, false)) ∧
    (((clusterOrder prev).find? fun u => !failsAt found 1 u) = none →
      stepClusters found prev (s, false) = ({ a with ctl := { a.ctl with phase := .failed, inCharge := none } }, true)) := by
  obtain ⟨p, q, hpq⟩ : ∃ p q, s.ctl.clusterOk = [p, q] := by
    match h : s.ctl.clusterOk, hlen with
    | [p, q], _ => exact ⟨p, q, rfl⟩
  have hrun : ∃ a, runUnits (testCluster found) (clusterOrder prev) (s, false) = (a, false) ∧ OnStart false Q s a ∧
      a.ctl.clusterOk = [!failsAt found 1 0, !failsAt found 1 1] := by
    unfold clusterOrder
    split
    · obtain ⟨h1, hc1⟩ := testCluster_spec (Goes.refl false Q s) (hl 1)
      obtain ⟨h2, hc2⟩ := testCluster_spec h1 (hl 0)
      rw [runUnits_cons _ _ _ rfl, runUnits_cons _ _ _ h1.1]
      refine ⟨_, Prod.ext rfl h2.1, h2.2, ?_⟩
      show (testCluster found 0 _).1.ctl.clusterOk = _
      rw [hc2, hc1, hpq]
      rfl
    · obtain ⟨h1, hc1⟩ := testCluster_spec (Goes.refl false Q s) (hl 0)
      obtain ⟨h2, hc2⟩ := testCluster_spec h1 (hl 1)
      rw [runUnits_cons _ _ _ rfl, runUnits_cons _ _ _ h1.1]
      refine ⟨_, Prod.ext rfl h2.1, h2.2, ?_⟩
      show (testCluster found 1 _).1.ctl.clusterOk = _
      rw [hc2, hc1, hpq]
      rfl
  obtain ⟨a, hrun, ha, hok⟩ := hrun
  have hfind : ((clusterOrder prev).find? fun u => a.ctl.clusterOk.getD u false) = (clusterOrder prev).find? fun u => !failsAt found 1 u := by
    rw [hok]
    unfold clusterOrder
    split <;> simp [List.find?_cons]
  refine ⟨a, ha, fun c hc => ?_, fun hc => ?_⟩
  · rw [stepClusters_of_tested hrun]
    split
    · next d hd =>
      obtain rfl := Option.some.inj (hd.symm.trans (hfind.trans hc))
      rfl
    · next hd => exact absurd (hd.symm.trans (hfind.trans hc)) (by simp)
  · rw [stepClusters_of_tested hrun]
    split
    · next d hd => exact absurd (hd.symm.trans (hfind.trans hc)) (by simp)
    · rfl

/-! ### The bridges -/

/-- One bridge of step 0x05. -/
def trainBridge (found : StartFindings) (prev : List JournalEntry) (b : Nat) (acc : State × Bool) : State × Bool :=
  let half := unended prev 5 11 b
  let acc := if half then noteUnit 5 11 b 5 0 acc else acc
  runUnit found 5 11 b b (fun s =>
    let full := !half && !failsAt found 5 b && lanesSpared found b
    let bad := !full && (if half then failsAt found 5 b else found.failedTwice.contains (5, b))
    let run : Bridge := { half := !full, spared := if full then failedLanes found b else [] }
    ({ s with ctl := { s.ctl with bridges := nset s.ctl.bridges b run } }, !bad, bad)) acc

theorem stepBridges_eq (units : List Nat) (acc : State × Bool) : stepBridges found prev units acc = runUnits (trainBridge found prev) units acc := rfl

/-- A bridge that stops the start: it fails at half width, or twice. -/
def bridgeBad (found : StartFindings) (prev : List JournalEntry) (b : Nat) : Bool :=
  !(!unended prev 5 11 b && !failsAt found 5 b && lanesSpared found b) &&
    (if unended prev 5 11 b then failsAt found 5 b else found.failedTwice.contains (5, b))

theorem trainBridge_stops (hl : found.lockedAt = none) (ha : acc.2 = false) {b : Nat} (hb : bridgeBad found prev b = true) :
    Stopped (trainBridge found prev b acc) := by
  unfold trainBridge
  extract_lets half acc1 full bad run
  have h1 : acc1.2 = false := ((noteUnit_goes ⟨ha, .refl true (fun _ => True) acc.1⟩ 5 11 b 5 0).ite ⟨ha, .refl true _ acc.1⟩ :
    Goes true _ acc.1 acc1).1
  unfold runUnit
  rw [runUnitWith_of_runs h1 (by simp [hl])]
  exact closeUnit_of_stops hb ..

theorem trainBridge_goes (hl : found.lockedAt = none) (h : Goes false Q s acc) {b : Nat} (hb : bridgeBad found prev b = false) :
    Goes false Q s (trainBridge found prev b acc) ∧ ∃ run, (trainBridge found prev b acc).1.ctl.bridges = nset acc.1.ctl.bridges b run ∧
      (unended prev 5 11 b = false → failsAt found 5 b = false → lanesSpared found b = true → run = { half := false, spared := failedLanes found b }) := by
  unfold trainBridge
  extract_lets half acc1 full bad run
  have h1 : Goes false Q s acc1 := (noteUnit_goes h ..).ite h
  have hself : Goes true Q acc.1 acc1 := (noteUnit_goes ⟨h.1, .refl true Q acc.1⟩ ..).ite ⟨h.1, .refl true Q acc.1⟩
  refine ⟨runUnit_goes h1 (by simp [hl]) fun t ht => ⟨hb, ht.trans ⟨rfl, nofun, fun _ _ => rfl, fun _ _ _ => rfl⟩⟩, run, ?_, fun hu hf hs => ?_⟩
  · unfold runUnit
    have hbegin : (beginUnit 5 11 b acc1.1).ctl.bridges = acc.1.ctl.bridges := (beginUnit_onStart hself.2 5 11 b).bridges
    rw [runUnitWith_of_runs h1.1 (by simp [hl]), (closeUnit_wires (by exact hb) ..).bridges]
    dsimp only
    rw [hbegin]
  · have hfull : full = true := by
      unfold full half
      rw [hu, hf, hs]
      rfl
    unfold run
    rw [hfull]
    rfl

theorem stepBridges_stops (hl : found.lockedAt = none) (ha : acc.2 = false) {units : List Nat} (hb : ∃ b, b ∈ units ∧ bridgeBad found prev b = true) :
    Stopped (stepBridges found prev units acc) := by
  rw [stepBridges_eq]
  induction units generalizing acc with
  | nil => obtain ⟨b, hm, -⟩ := hb; cases hm
  | cons u l ih =>
    rw [runUnits_cons _ _ _ ha]
    cases hu : bridgeBad found prev u with
    | true =>
      have hs := trainBridge_stops hl ha hu
      rw [runUnits_of_stopped _ _ hs.1]
      exact hs
    | false =>
      have hg := (trainBridge_goes (Q := fun _ => True) hl (⟨ha, .refl false _ acc.1⟩ : Goes false _ acc.1 acc) hu).1
      refine ih hg.1 ?_
      obtain ⟨b, hm, hbad⟩ := hb
      rcases List.mem_cons.mp hm with rfl | hm
      · simp [hu] at hbad
      · exact ⟨b, hm, hbad⟩

/-- Bridges trained one after another leave a bridge that is not among them as it was. -/
theorem runBridges_bridge (hl : found.lockedAt = none) (ha : acc.2 = false) {units : List Nat} (hb : ∀ u, bridgeBad found prev u = false) {b : Nat}
    (hn : b ∉ units) : (runUnits (trainBridge found prev) units acc).2 = false ∧
      nget (runUnits (trainBridge found prev) units acc).1.ctl.bridges b = nget acc.1.ctl.bridges b := by
  induction units generalizing acc with
  | nil => exact ⟨ha, rfl⟩
  | cons u l ih =>
    rw [runUnits_cons _ _ _ ha]
    obtain ⟨hg, run, hrun, -⟩ := trainBridge_goes (Q := fun _ => True) (prev := prev) hl (⟨ha, .refl false _ acc.1⟩ : Goes false _ acc.1 acc) (hb u)
    obtain ⟨h2, hk⟩ := ih hg.1 (fun hm => hn (List.mem_cons_of_mem _ hm))
    refine ⟨h2, hk.trans ?_⟩
    rw [hrun, nget_nset_ne _ _ fun he => hn (by simp [he])]

theorem stepBridges_bridge (hl : found.lockedAt = none) (ha : acc.2 = false) {units : List Nat} (hd : units.Nodup)
    (hb : ∀ u, bridgeBad found prev u = false) {b : Nat} (hm : b ∈ units) (hu : unended prev 5 11 b = false) (hf : failsAt found 5 b = false)
    (hs : lanesSpared found b = true) :
    nget (stepBridges found prev units acc).1.ctl.bridges b = some { half := false, spared := failedLanes found b } := by
  rw [stepBridges_eq]
  induction units generalizing acc with
  | nil => cases hm
  | cons u l ih =>
    rw [runUnits_cons _ _ _ ha]
    obtain ⟨hnot, hd⟩ := List.nodup_cons.mp hd
    obtain ⟨hg, run, hrun, hfull⟩ := trainBridge_goes (Q := fun _ => True) (prev := prev) hl (⟨ha, .refl false _ acc.1⟩ : Goes false _ acc.1 acc) (hb u)
    rcases List.mem_cons.mp hm with rfl | hm
    · rw [(runBridges_bridge hl hg.1 hb hnot).2, hrun, nget_nset_same, hfull hu hf hs]
    · exact ih hg.1 hd hm

/-! ### A stack mapped out -/

theorem mapOut_state (s : State) (step k : Nat) (hk : k < 24) : stackState (mapOut s step k) k = 3 := by
  have h : OnStart true (fun _ => True) (setReg s (stackIndex k) 0x01 3) (mapOut s step k) :=
    loseCopy_onStart (((OnStart.refl ..).addJournal ..).logFault ..) k
  exact (h.stackStates k hk trivial).trans (getReg_setReg_same ..)

/-- R470: a stack in use that fails as its training asks is mapped out. -/
theorem trainStack_out (hl : found.lockedAt = none) (ha : acc.2 = false) {k : Nat} (hk : k < 24) (hlive : stackState acc.1 k < 2)
    (hbad : (if unended prev 6 3 k then failsAt found 6 k else failsTwice found 6 k) = true) : stackState (trainStack found prev k acc).1 k = 3 := by
  unfold trainStack
  extract_lets acc1 acc2 bad
  have h1 : acc1.2 = false ∧ stackState acc1.1 k < 2 := by
    unfold acc1
    rw [if_neg (by simp [ha])]
    refine ⟨rfl, ?_⟩
    dsimp only
    unfold readmitStack
    split
    · extract_lets c s1
      have h0 : OnStart true (fun _ => True) (setReg s1 (stackIndex k) 0x01 0) (addJournal (setReg s1 (stackIndex k) 0x01 0) 6 3 k 7 0) :=
        (OnStart.refl ..).addJournal ..
      exact lt_of_eq_of_lt ((h0.stackStates k hk trivial).trans (getReg_setReg_same ..)) (by decide)
    · exact hlive
  rw [if_neg (Nat.not_le.mpr h1.2)]
  have h2 : acc2.2 = false := ((noteUnit_goes ⟨h1.1, .refl true (fun _ => True) acc1.1⟩ ..).ite ⟨h1.1, .refl true _ acc1.1⟩ : Goes true _ acc1.1 acc2).1
  unfold runUnit
  rw [runUnitWith_of_runs h2 (by simp [hl])]
  refine ((closeUnit_wires (by rfl) ..).stackStates k hk trivial).trans ?_
  show stackState (if bad then _ else _) k = 3
  rw [if_pos hbad]
  exact mapOut_state _ 6 k hk

theorem stepStacks_out (hl : found.lockedAt = none) (ha : acc.2 = false) {units : List Nat} (hd : units.Nodup) {k : Nat} (hm : k ∈ units)
    (hk : k < 24) (hlive : stackState acc.1 k < 2)
    (hbad : (if unended prev 6 3 k then failsAt found 6 k else failsTwice found 6 k) = true) :
    stackState (stepStacks found prev units acc).1 k = 3 := by
  rw [stepStacks_eq hl]
  have hnodup : ((units.filter fun k => !unended prev 6 3 k) ++ units.filter fun k => unended prev 6 3 k).Nodup := by
    refine List.nodup_append.mpr ⟨hd.filter _, hd.filter _, fun a ha b hb hab => ?_⟩
    subst hab
    have h1 := (List.mem_filter.mp ha).2
    have h2 := (List.mem_filter.mp hb).2
    simp [h2] at h1
  have hmem : k ∈ (units.filter fun k => !unended prev 6 3 k) ++ units.filter fun k => unended prev 6 3 k := by
    cases hu : unended prev 6 3 k with
    | true => exact List.mem_append_right _ (List.mem_filter.mpr ⟨hm, hu⟩)
    | false => exact List.mem_append_left _ (List.mem_filter.mpr ⟨hm, by simp [hu]⟩)
  generalize (units.filter fun k => !unended prev 6 3 k) ++ units.filter (fun k => unended prev 6 3 k) = order at hnodup hmem
  obtain ⟨l, m, rfl⟩ := List.append_of_mem hmem
  have hl' : k ∉ l := fun h => (List.nodup_append.mp hnodup).2.2 k h k List.mem_cons_self rfl
  have hm' : k ∉ m := (List.nodup_cons.mp (List.nodup_append.mp hnodup).2.1).1
  have others : ∀ (us : List Nat) {a : State × Bool}, k ∉ us → a.2 = false → Goes true (· = k) a.1 (runUnits (trainStack found prev) us a) :=
    fun us a hn ha => runUnits_goes (fun u hu b hb => trainStack_goes hl prev hb fun he => hn (he ▸ hu)) ⟨ha, .refl ..⟩
  have hfirst := others l hl' ha
  have hlive' : stackState (runUnits (trainStack found prev) l acc).1 k < 2 := lt_of_eq_of_lt (hfirst.2.stackStates k hk rfl) hlive
  have hout := trainStack_out hl hfirst.1 hk hlive' hbad
  have hgo : (trainStack found prev k (runUnits (trainStack found prev) l acc)).2 = false :=
    (trainStack_goes (Q := fun _ => False) hl prev ⟨hfirst.1, .refl true _ _⟩ (not_false)).1
  rw [runUnits_append, runUnits_cons _ _ _ hfirst.1]
  exact ((others m hm' hgo).2.stackStates k hk rfl).trans hout

end
end Sys2Proof.Machine
end
section
/-! The start as a whole (O50). -/
namespace Sys2Proof.Machine
open Sys2Proof

/-- The start counted, the clock restarted, and the shadow settings noted as lost where their copies were bad. -/
def beginStart (s : State) (found : StartFindings) : State :=
  let s := restartClock (countStart s) (s.clk.now + 3000000 * found.timeMs)
  if !found.shadowOk then setReg { s with ctl := { s.ctl with revertAll := true } } 0x1200 0x0A 1 else s

/-- Steps 0x01 to 0x05, which may stop the start. -/
def startHead (found : StartFindings) (prev : List JournalEntry) (s : State) : State × Bool :=
  let acc := stepClusters found prev (s, false)
  let acc := if acc.2 then acc else (retireDue acc.1, false)
  let acc := stepSupplies found prev (stepManifest found prev acc)
  stepBridges found prev (List.range 14) (stepIdentity found prev acc)

/-- Steps 0x07 to 0x0E. -/
def startTail (found : StartFindings) (prev : List JournalEntry) (cold : Bool) (acc : State × Bool) : State × Bool :=
  let acc := if cold then stepStackTest found prev acc else acc
  let acc := (List.range 8).foldl (fun acc d => stepTiles found prev d acc) acc
  let acc := (List.range 10).foldl (fun acc d => stepUnits found prev d acc) acc
  let acc := if cold then acc else stepTables found acc
  let acc := stepPorts found acc
  let acc := (List.range 96).foldl (fun acc i => stepLink found prev i acc) acc
  stepScorebook found cold (stepDiscovery found acc)

/-- All the steps of a start. -/
def startRun (s : State) (found : StartFindings) : State × Bool :=
  stepService found (startTail found (lastStart (countStart s)) (s.ctl.kind == .cold)
    (stepStacks found (lastStart (countStart s)) (List.range 24) (startHead found (lastStart (countStart s)) (beginStart s found))))

theorem runStart_eq (s : State) (found : StartFindings) : runStart s found =
    if (startRun s found).1.ctl.phase = .service then setReg (startRun s found).1 0x1200 0x07 0 else (startRun s found).1 := by
  have hprev : ∀ n, lastStart (restartClock (countStart s) n) = lastStart (countStart s) := fun _ => rfl
  unfold runStart startRun startTail startHead beginStart
  simp only [hprev]

section
variable {B : Bool} {Q : Nat → Prop} {s t : State} {acc : State × Bool} {found : StartFindings} {prev : List JournalEntry}

theorem beginStart_onStart (s : State) (found : StartFindings) : OnStart true Q (countStart s) (beginStart s found) := by
  unfold beginStart
  extract_lets s1 c
  have h1 : OnStart true Q (countStart s) s1 := (OnStart.refl ..).kept (restartClock_keeps _ _)
  refine OnStart.ite (OnStart.setReg ?_ (by decide) (by decide)) h1
  exact h1.same rfl rfl rfl

theorem manifestOk_countStart (s : State) (found : StartFindings) : manifestOk (countStart s) found = manifestOk s found := by
  unfold manifestOk acceptsA acceptsB manifestFits
  rw [countStart_ctl]

theorem startTail_goes (hl : found.lockedAt = none) (h : Goes true Q s acc) (hq : ∀ k, Q k → 2 ≤ stackState s k) (cold : Bool) :
    Goes true Q s (startTail found prev cold acc) := by
  unfold startTail
  extract_lets a1 a2 a3 a4 a5 a6
  have h1 : Goes true Q s a1 := (stepStackTest_goes hl prev h hq).ite h
  have h2 : Goes true Q s a2 := .foldl (fun _ d ha => stepTiles_goes hl prev ha d) _ h1
  have h3 : Goes true Q s a3 := .foldl (fun _ d ha => stepUnits_goes hl prev ha d) _ h2
  have h4 : Goes true Q s a4 := h3.ite (stepTables_goes hl h3)
  have h5 : Goes true Q s a5 := stepPorts_goes hl h4
  have h6 : Goes true Q s a6 := by
    unfold a6
    exact .foldl (fun _ i ha => stepLink_goes hl prev ha i) _ h5
  exact stepScorebook_goes hl (stepDiscovery_goes hl h6) cold

theorem startTail_of_stopped (ha : acc.2 = true) (cold : Bool) : startTail found prev cold acc = acc := by
  have htest : stepStackTest found prev acc = acc := runUnits_of_stopped _ _ ha
  have htables : stepTables found acc = acc := by
    unfold stepTables runUnit
    exact runUnitWith_of_stopped ha
  have hports : stepPorts found acc = acc := runUnits_of_stopped _ _ ha
  have hdisc : stepDiscovery found acc = acc := by
    unfold stepDiscovery runUnit
    exact runUnitWith_of_stopped ha
  have hbook : stepScorebook found cold acc = acc := by
    unfold stepScorebook runUnit
    exact runUnitWith_of_stopped ha
  have htiles : (List.range 8).foldl (fun acc d => stepTiles found prev d acc) acc = acc := foldl_of_stopped _ _ fun d => stepTiles_of_stopped ha d
  have hunits : (List.range 10).foldl (fun acc d => stepUnits found prev d acc) acc = acc := foldl_of_stopped _ _ fun d => stepUnits_of_stopped ha d
  have hlinks : (List.range 96).foldl (fun acc i => stepLink found prev i acc) acc = acc := foldl_of_stopped _ _ fun i => stepLink_of_stopped ha i
  unfold startTail
  dsimp only
  rw [htest, ite_self, htiles, hunits, htables, ite_self, hports, hlinks, hdisc, hbook]

/-- A start that stops before its stacks are trained ends there. -/
theorem runStart_of_stopped (ha : (startHead found (lastStart (countStart s)) (beginStart s found)).2 = true)
    (hp : (startHead found (lastStart (countStart s)) (beginStart s found)).1.ctl.phase ≠ .service) :
    runStart s found = (startHead found (lastStart (countStart s)) (beginStart s found)).1 := by
  have hstacks : stepStacks found (lastStart (countStart s)) (List.range 24) (startHead found (lastStart (countStart s)) (beginStart s found)) =
      startHead found (lastStart (countStart s)) (beginStart s found) := runUnits_of_stopped _ _ ha
  have hservice : stepService found (startHead found (lastStart (countStart s)) (beginStart s found)) =
      startHead found (lastStart (countStart s)) (beginStart s found) := by
    unfold stepService runUnit
    exact runUnitWith_of_stopped ha
  have hrun : startRun s found = startHead found (lastStart (countStart s)) (beginStart s found) := by
    unfold startRun
    rw [hstacks, startTail_of_stopped ha, hservice]
  rw [runStart_eq, hrun, if_neg hp]

/-! ### The head of a start -/

/-- The clusters, and then the retirements that were due. -/
theorem clusters_go (hl : ∀ u, found.lockedAt ≠ some (1, u)) (hlen : s.ctl.clusterOk.length = 2) (hf : ∀ u, failsAt found 1 u = false) :
    ∃ a, OnStart false Q s a ∧ stepClusters found prev (s, false) =
      ({ a with ctl := { a.ctl with inCharge := some (if unended prev 1 12 0 then 1 else 0) } }, false) := by
  obtain ⟨a, ha, hc, -⟩ := stepClusters_spec (Q := Q) (prev := prev) hl hlen
  refine ⟨a, ha, hc _ ?_⟩
  unfold clusterOrder
  split <;> simp [hf]

theorem clusters_end (hl : ∀ u, found.lockedAt ≠ some (1, u)) (hlen : s.ctl.clusterOk.length = 2) :
    Stopped (stepClusters found prev (s, false)) ∨
      ((stepClusters found prev (s, false)).2 = false ∧ manifestOk (stepClusters found prev (s, false)).1 found = manifestOk s found) := by
  obtain ⟨a, ha, hc, hn⟩ := stepClusters_spec (Q := fun _ => True) (prev := prev) hl hlen
  cases h : (clusterOrder prev).find? fun u => !failsAt found 1 u with
  | none =>
    rw [hn h]
    exact .inl ⟨rfl, rfl, rfl⟩
  | some c =>
    rw [hc c h]
    exact .inr ⟨rfl, ha.manifestOk found⟩

theorem startHead_eq (found : StartFindings) (prev : List JournalEntry) (s : State) : startHead found prev s =
    stepBridges found prev (List.range 14) (stepIdentity found prev (stepSupplies found prev (stepManifest found prev
      (if (stepClusters found prev (s, false)).2 then stepClusters found prev (s, false)
       else (retireDue (stepClusters found prev (s, false)).1, false))))) := rfl

theorem stepBridges_of_stopped (ha : acc.2 = true) (units : List Nat) : stepBridges found prev units acc = acc := runUnits_of_stopped _ _ ha

/-- A start in which neither a cluster, the supplies nor a bridge fails trains its bridges and goes on. -/
theorem startHead_goes (hl : found.lockedAt = none) (hlen : s.ctl.clusterOk.length = 2) (hm : manifestOk s found = true)
    (h1 : ∀ u, failsAt found 1 u = false) (h3 : failsAt found 3 0 = false)
    (h5 : ∀ b, failsAt found 5 b = false ∧ found.failedTwice.contains (5, b) = false) :
    (startHead found prev s).2 = false ∧ (startHead found prev s).1.ctl.phase = s.ctl.phase ∧
    (startHead found prev s).1.ctl.inCharge = some (if unended prev 1 12 0 then 1 else 0) ∧
    getReg (startHead found prev s).1 0x1200 0x06 = getReg s 0x1200 0x06 ∧
    (∀ k, k < 24 → stackState (startHead found prev s).1 k = stackState s k) ∧
    (∀ b, b < 14 → unended prev 5 11 b = false → lanesSpared found b = true →
      nget (startHead found prev s).1.ctl.bridges b = some { half := false, spared := failedLanes found b }) := by
  obtain ⟨a, ha, hc⟩ := clusters_go (Q := fun _ => True) (prev := prev) (by simp [hl]) hlen h1
  rw [startHead_eq, hc, if_neg (by simp)]
  generalize hs3 : ({ a with ctl := { a.ctl with inCharge := some (if unended prev 1 12 0 then 1 else 0) } } : State) = s3
  have hm3 : manifestOk s3 found = true := by
    rw [← hs3, ← hm]
    exact ha.manifestOk found
  have hgo : Goes true (fun _ => True) s3 (retireDue s3, false) := ⟨rfl, retireDue_onStart (.refl ..)⟩
  have h4 := stepIdentity_goes hl prev (stepSupplies_goes hl prev (stepManifest_goes hl prev hgo hm3) h3)
  have hgood : ∀ u, bridgeBad found prev u = false := fun u => by
    obtain ⟨hf, hc⟩ := h5 u
    unfold bridgeBad
    rw [hf, hc]
    simp
  have h5' := stepBridges_goes hl prev (⟨h4.1, h4.2.weaken⟩ : Goes false (fun _ => True) s3 _) (List.range 14) h5
  have hcore3 : s3.ctl.phase = s.ctl.phase := by
    rw [← hs3]
    exact ha.phase
  have hreg3 : ∀ i j, getReg s3 i j = getReg a i j := fun i j => by rw [← hs3]; rfl
  refine ⟨h5'.1, h5'.2.phase.trans hcore3, ?_, ?_, fun k hk => ?_, fun b hb hu hs => ?_⟩
  · rw [h5'.2.inCharge, ← hs3]
  · rw [h5'.2.start _ (.inl rfl), hreg3, ha.start _ (.inl rfl)]
  · exact (h5'.2.stackStates k hk trivial).trans ((hreg3 _ _).trans (ha.stackStates k hk trivial))
  · exact stepBridges_bridge hl h4.1 List.nodup_range hgood (List.mem_range.mpr hb) hu (h5 b).1 hs

/-- A start stops where both clusters fail, no manifest copy is accepted, a rail is not right, or a bridge fails twice. -/
theorem startHead_stops (hl : found.lockedAt = none) (hlen : s.ctl.clusterOk.length = 2)
    (hbad : failsAt found 1 0 = true ∧ failsAt found 1 1 = true ∨ manifestOk s found = false ∨ failsAt found 3 0 = true ∨
      ∃ b, b < 14 ∧ failsAt found 5 b = true ∧ found.failedTwice.contains (5, b) = true) : Stopped (startHead found prev s) := by
  rw [startHead_eq]
  have skip : ∀ a : State × Bool, Stopped a → Stopped (stepBridges found prev (List.range 14) (stepIdentity found prev a)) := fun a ha => by
    rw [stepIdentity_of_stopped ha.1, stepBridges_of_stopped ha.1]
    exact ha
  rcases clusters_end (found := found) (prev := prev) (by simp [hl]) hlen with hstop | ⟨hgo, hmc⟩
  · rw [if_pos hstop.1, stepManifest_of_stopped hstop.1, stepSupplies_of_stopped hstop.1]
    exact skip _ hstop
  · rw [if_neg (by simp [hgo])]
    generalize hs3 : (stepClusters found prev (s, false)).1 = s3 at hmc
    have h2 : Goes true (fun _ => True) s3 (retireDue s3, false) := ⟨rfl, retireDue_onStart (.refl ..)⟩
    cases hm : manifestOk s found with
    | false =>
      have hstop : Stopped (stepManifest found prev (retireDue s3, false)) := by
        unfold stepManifest runUnit
        rw [runUnitWith_of_runs rfl (by simp [hl])]
        have hb := (beginUnit_onStart h2.2 2 0 0).manifestOk found
        refine closeUnit_of_stops ?_ ..
        show (!manifestOk (beginUnit 2 0 0 (retireDue s3)) found) = true
        rw [hb, hmc, hm]
        rfl
      rw [stepSupplies_of_stopped hstop.1]
      exact skip _ hstop
    | true =>
      have h3 := stepManifest_goes hl prev h2 (hmc.trans hm)
      cases hf3 : failsAt found 3 0 with
      | true =>
        refine skip _ ?_
        unfold stepSupplies runUnit
        extract_lets acc1
        have h4 : Goes true (fun _ => True) s3 acc1 := (noteUnit_goes h3 ..).ite h3
        rw [runUnitWith_of_runs h4.1 (by simp [hl])]
        exact closeUnit_of_stops hf3 ..
      | false =>
        have h4 := stepIdentity_goes hl prev (stepSupplies_goes hl prev h3 hf3)
        rcases hbad with ⟨h0, h1⟩ | hm' | hf | ⟨b, hb, hf, ht⟩
        · obtain ⟨a, -, -, hn⟩ := stepClusters_spec (Q := fun _ => True) (found := found) (prev := prev) (by simp [hl]) hlen
          rw [hn (by unfold clusterOrder; split <;> simp [h0, h1])] at hgo
          cases hgo
        · simp [hm] at hm'
        · simp [hf3] at hf
        · refine stepBridges_stops hl h4.1 ⟨b, List.mem_range.mpr hb, ?_⟩
          unfold bridgeBad
          rw [hf, ht]
          simp

/-! ### Service -/

theorem addJournal_entry (s : State) (step kind unit event detail : Nat) : ∃ e, e ∈ (addJournal s step kind unit event detail).ctl.journal ∧
    e.step = step ∧ e.event = event ∧ e.start = getReg (addJournal s step kind unit event detail) 0x1200 0x06 :=
  ⟨⟨step, kind, unit, event, detail % 2 ^ 24, getReg s 0x1200 0x0B + 1, getReg (setReg s 0x1200 0x0B (getReg s 0x1200 0x0B + 1)) 0x1200 0x06⟩,
    List.mem_concat_self, rfl, rfl, rfl⟩

theorem closeUnit_of_passed (t : State) (detail step kind unit : Nat) :
    closeUnit detail step kind unit (t, true, false) = (addJournal t step kind unit 2 0, false) := rfl

/-- Step 0x0F: the part is in service. -/
theorem stepService_spec (hl : found.lockedAt = none) (ha : acc.2 = false) :
    let r := (stepService found acc).1
    r.ctl.phase = .service ∧ r.ctl.inCharge = acc.1.ctl.inCharge ∧ r.ctl.bridges = acc.1.ctl.bridges ∧
    getReg r 0x1200 0x06 = getReg acc.1 0x1200 0x06 ∧ getReg r 0x1200 0x08 = found.timeMs ∧
    (∀ k, k < 24 → stackState r k = stackState acc.1 k) ∧
    ∃ e, e ∈ r.ctl.journal ∧ e.step = 15 ∧ e.event = 2 ∧ e.start = getReg r 0x1200 0x06 := by
  unfold stepService runUnit
  rw [runUnitWith_of_runs ha (by simp [hl])]
  intro r
  have hr : r = addJournal (resumeModes (logFault (noteTrip (setReg { beginUnit 15 0 0 acc.1 with ctl := { (beginUnit 15 0 0 acc.1).ctl with
      phase := .service } } 0x1200 0x08 found.timeMs)) 0x0400 0 0 0 0xFFFF found.timeMs)) 15 0 0 2 0 := by
    show (closeUnit 0 15 0 0 (_, true, false)).1 = _
    rw [closeUnit_of_passed]
  clear_value r
  have hb : OnStart true (fun _ => True) acc.1 (beginUnit 15 0 0 acc.1) := beginUnit_onStart (.refl ..) ..
  generalize beginUnit 15 0 0 acc.1 = b at hb hr
  generalize hv : setReg { b with ctl := { b.ctl with phase := .service } } 0x1200 0x08 found.timeMs = v at hr
  have hon : OnStart true (fun _ => True) v r := by
    rw [hr]
    exact (resumeModes_onStart ((noteTrip_onStart (.refl ..)).logFault ..)).addJournal ..
  have hvreg : ∀ i j, j < 256 → (i, j) ≠ (0x1200, 0x08) → getReg v i j = getReg b i j := fun i j hj hn => by
    rw [← hv, getReg_setReg _ _ _ _ _ _ (by decide) hj, if_neg (fun h => hn (Prod.ext h.1.symm h.2.symm))]
    rfl
  refine ⟨?_, ?_, ?_, ?_, ?_, fun k hk => ?_, ?_⟩
  · rw [hon.phase, ← hv]
    rfl
  · rw [hon.inCharge, ← hb.inCharge, ← hv]
    rfl
  · rw [hon.bridges, ← hb.bridges, ← hv]
    rfl
  · rw [hon.start _ (.inl rfl), hvreg _ _ (by decide) (by decide), hb.start _ (.inl rfl)]
  · rw [hon.start _ (.inr rfl), ← hv, getReg_setReg_same]
  · exact (hon.stackStates k hk trivial).trans ((hvreg _ _ (by decide) (by simp)).trans (hb.stackStates k hk trivial))
  · rw [hr]
    exact addJournal_entry ..

/-- A start that goes on to its end. -/
theorem runStart_serves (hp : s.ctl.phase = .starting) (hl : found.lockedAt = none) (hlen : s.ctl.clusterOk.length = 2)
    (hm : manifestOk s found = true) (h1 : ∀ u, failsAt found 1 u = false) (h3 : failsAt found 3 0 = false)
    (h5 : ∀ b, failsAt found 5 b = false ∧ found.failedTwice.contains (5, b) = false) :
    let t := runStart s found
    let prev := lastStart (countStart s)
    t.ctl.phase = .service ∧ t.ctl.inCharge = some (if unended prev 1 12 0 then 1 else 0) ∧
    getReg t 0x1200 0x06 = getReg (countStart s) 0x1200 0x06 ∧ getReg t 0x1200 0x08 = found.timeMs ∧ getReg t 0x1200 0x07 = 0 ∧
    (∃ e, e ∈ t.ctl.journal ∧ e.step = 15 ∧ e.event = 2 ∧ e.start = getReg t 0x1200 0x06) ∧
    (∀ b, b < 14 → unended prev 5 11 b = false → lanesSpared found b = true →
      nget t.ctl.bridges b = some { half := false, spared := failedLanes found b }) ∧
    (∀ k, k < 24 → stackState s k < 2 → failsAt found 6 k = true → failsTwice found 6 k = true → stackState t k = 3) := by
  intro t prev
  have hbegin : OnStart true (fun _ => True) (countStart s) (beginStart s found) := beginStart_onStart s found
  have hlen' : (beginStart s found).ctl.clusterOk.length = 2 := by rw [hbegin.clusterOk, countStart_ctl, hlen]
  have hm' : manifestOk (beginStart s found) found = true := by rw [hbegin.manifestOk, manifestOk_countStart, hm]
  obtain ⟨hgo, hphase, hcharge, hstart, hstates, hbridges⟩ := startHead_goes (prev := prev) hl hlen' hm' h1 h3 h5
  have ht : t = if (startRun s found).1.ctl.phase = .service then setReg (startRun s found).1 0x1200 0x07 0 else (startRun s found).1 := runStart_eq s found
  have hrun : startRun s found = stepService found (startTail found prev (s.ctl.kind == .cold)
      (stepStacks found prev (List.range 24) (startHead found prev (beginStart s found)))) := rfl
  rw [hrun] at ht
  clear_value t
  generalize startHead found prev (beginStart s found) = head at ht hgo hphase hcharge hstart hstates hbridges
  have htrained : Goes true (fun _ => False) head.1 (stepStacks found prev (List.range 24) head) :=
    stepStacks_goes hl prev ⟨hgo, .refl ..⟩ fun _ _ => not_false
  have hout : ∀ k, k < 24 → stackState s k < 2 → failsAt found 6 k = true → failsTwice found 6 k = true →
      stackState (stepStacks found prev (List.range 24) head).1 k = 3 := fun k hk hlive hf ht => by
    refine stepStacks_out hl hgo List.nodup_range (List.mem_range.mpr hk) hk ?_ (by rw [hf, ht, ite_self])
    have hcount : stackState (countStart s) k = stackState s k :=
      getReg_addReg_ne s _ fun he => by
        have := ((objKey_inj (by decide) (by decide)).mp he).1
        unfold stackIndex at this
        omega
    rw [hstates k hk, show stackState (beginStart s found) k = stackState (countStart s) k from hbegin.stackStates k hk trivial, hcount]
    exact hlive
  generalize stepStacks found prev (List.range 24) head = a5 at ht htrained hout
  have htail : Goes true (fun k => 2 ≤ stackState a5.1 k) a5.1 (startTail found prev (s.ctl.kind == .cold) a5) :=
    startTail_goes hl ⟨htrained.1, .refl ..⟩ (fun _ h => h) _
  obtain ⟨hsp, hsc, hsb, hs6, hs8, hsk, hsj⟩ := stepService_spec hl htail.1
  generalize startTail found prev (s.ctl.kind == .cold) a5 = a6 at ht htail hsp hsc hsb hs6 hs8 hsk hsj
  rw [if_pos hsp] at ht
  have hreg : ∀ i j, j < 256 → (i, j) ≠ (0x1200, 0x07) → getReg t i j = getReg (stepService found a6).1 i j := fun i j hj hn => by
    rw [ht, getReg_setReg _ _ _ _ _ _ (by decide) hj, if_neg (fun h => hn (Prod.ext h.1.symm h.2.symm))]
  refine ⟨by rw [ht]; exact hsp, ?_, ?_, ?_, ?_, ?_, fun b hb hu hsp => ?_, fun k hk hlive hf htw => ?_⟩
  · rw [ht]
    exact hsc.trans (htail.2.inCharge.trans (htrained.2.inCharge.trans hcharge))
  · rw [hreg _ _ (by decide) (by decide), hs6, htail.2.start _ (.inl rfl), htrained.2.start _ (.inl rfl), hstart, hbegin.start _ (.inl rfl)]
  · rw [hreg _ _ (by decide) (by decide), hs8]
  · rw [ht, getReg_setReg_same]
  · obtain ⟨e, hm, hst, hev, hn⟩ := hsj
    exact ⟨e, by rw [ht]; exact hm, hst, hev, hn.trans (hreg _ _ (by decide) (by decide)).symm⟩
  · rw [ht]
    show nget (stepService found a6).1.ctl.bridges b = _
    rw [hsb, htail.2.bridges, htrained.2.bridges]
    exact hbridges b hb hu hsp
  · have h5k := hout k hk hlive hf htw
    have hlast : stackState (stepService found a6).1 k = 3 := by
      rw [hsk k hk]
      exact (htail.2.stackStates k hk (by rw [h5k]; decide)).trans h5k
    exact (hreg _ _ (by decide) (by simp)).trans hlast

/-! ### A start that locks up -/

theorem beginUnit_shows (hp : s.ctl.phase = .starting) (step kind unit : Nat) :
    getReg (beginUnit step kind unit s) 0x1200 0x07 = step * 65536 + unit := by
  unfold beginUnit
  rw [if_pos hp, addJournal_regs (.refl [(0x1200, 0x0B)] _) (by simp) _ _ _ _ _ _ _ (by decide) (by decide), getReg_setReg_same]

/-- A lock-up at the supplies leaves the start there, its begin open. -/
theorem startHead_locks (hl : found.lockedAt = some (3, 0)) (hlen : s.ctl.clusterOk.length = 2) (hm : manifestOk s found = true)
    (h1 : ∀ u, failsAt found 1 u = false) (hp : s.ctl.phase = .starting) :
    (startHead found prev s).2 = true ∧ (startHead found prev s).1.ctl.phase = .starting ∧
    getReg (startHead found prev s).1 0x1200 0x07 = 3 * 65536 ∧
    ∃ e, e ∈ (startHead found prev s).1.ctl.journal ∧ e.step = 3 ∧ e.event = 1 ∧ e.start = getReg (startHead found prev s).1 0x1200 0x06 := by
  obtain ⟨a, ha, hc⟩ := clusters_go (Q := fun _ => True) (prev := prev) (by simp [hl]) hlen h1
  rw [startHead_eq, hc, if_neg (by simp)]
  generalize hs3 : ({ a with ctl := { a.ctl with inCharge := some (if unended prev 1 12 0 then 1 else 0) } } : State) = s3
  have hm3 : manifestOk s3 found = true := by
    rw [← hs3, ← hm]
    exact ha.manifestOk found
  have hp3 : s3.ctl.phase = .starting := by
    rw [← hs3, ← hp]
    exact ha.phase
  have hgo : Goes true (fun _ => True) s3 (retireDue s3, false) := ⟨rfl, retireDue_onStart (.refl ..)⟩
  have hman : Goes true (fun _ => True) s3 (stepManifest found prev (retireDue s3, false)) := by
    refine runUnit_goes hgo (by simp [hl]) fun t ht => ?_
    extract_lets bFirst ok useB s1 m
    have hok : ok = true := by rw [← hm3, ← ht.manifestOk found]
    have h1 : OnStart true (fun _ => True) s3 s1 := (ht.logFault ..).ite ht
    exact ⟨by simp [hok], h1.same rfl rfl rfl⟩
  have hsup : ∃ u, OnStart true (fun _ => True) s3 u ∧ stepSupplies found prev (stepManifest found prev (retireDue s3, false)) =
      (beginUnit 3 0 0 u, true) := by
    unfold stepSupplies runUnit
    extract_lets acc1
    have h4 : Goes true (fun _ => True) s3 acc1 := (noteUnit_goes hman ..).ite hman
    exact ⟨acc1.1, h4.2, runUnitWith_of_locked h4.1 hl⟩
  obtain ⟨u, hu, hsup⟩ := hsup
  rw [hsup, stepIdentity_of_stopped rfl, stepBridges_of_stopped rfl]
  have hpu : u.ctl.phase = .starting := hu.phase.trans hp3
  refine ⟨rfl, ?_, beginUnit_shows hpu 3 0 0, addJournal_entry ..⟩
  exact (beginUnit_onStart (.refl true (fun _ => True) u) 3 0 0).phase.trans hpu

/-! ### Die recovery and the way out of park -/

/-- The steps of a die recovery. -/
def recoveryRun (s : State) (d : Nat) (found : StartFindings) : State × Bool :=
  let s := countStart s
  let prev := lastStart s
  let acc := stepStacks found prev [3 * d, 3 * d + 1, 3 * d + 2] (stepBridges found prev (dieBridges d) (s, false))
  let acc := stepTables found (stepUnits found prev d (stepTiles found prev d acc))
  let acc := ((List.range 12).map fun i => 12 * d + i).foldl (fun acc i => stepLink found prev i acc) acc
  plainStep found 15 (plainStep found 14 acc)

/-- The steps of the way out of park. -/
def leaveRun (s : State) (found : StartFindings) : State × Bool :=
  let s := countStart s
  let prev := lastStart s
  let acc := stepStacks found prev (List.range 24) (s, false)
  let acc := (List.range 8).foldl (fun acc d => stepTiles found prev d acc) acc
  let acc := (List.range 10).foldl (fun acc d => stepUnits found prev d acc) acc
  plainStep found 15 (plainStep found 14 (stepTables found acc))

theorem recoveryRun_goes (hl : found.lockedAt = none) (h5 : ∀ b, failsAt found 5 b = false ∧ found.failedTwice.contains (5, b) = false) (d : Nat) :
    Goes false (fun _ => False) (countStart s) (recoveryRun s d found) := by
  unfold recoveryRun
  extract_lets s1 prev a1 a2 a3
  have h1 : Goes false (fun _ => False) s1 a1 := stepStacks_goes hl prev (stepBridges_goes hl prev (.refl ..) _ h5) fun _ _ => not_false
  have h2 : Goes false (fun _ => False) s1 a2 := stepTables_goes hl (stepUnits_goes hl prev (stepTiles_goes hl prev h1 d) d)
  have h3 : Goes false (fun _ => False) s1 a3 := by
    unfold a3
    exact .foldl (fun _ i ha => stepLink_goes hl prev ha i) _ h2
  exact plainStep_goes hl (plainStep_goes hl h3 14) 15

theorem leaveRun_goes (hl : found.lockedAt = none) : Goes false (fun _ => False) (countStart s) (leaveRun s found) := by
  unfold leaveRun
  extract_lets s1 prev a1 a2 a3
  have h1 : Goes false (fun _ => False) s1 a1 := stepStacks_goes hl prev (.refl ..) fun _ _ => not_false
  have h2 : Goes false (fun _ => False) s1 a2 := .foldl (fun _ d ha => stepTiles_goes hl prev ha d) _ h1
  have h3 : Goes false (fun _ => False) s1 a3 := by
    unfold a3
    exact .foldl (fun _ d ha => stepUnits_goes hl prev ha d) _ h2
  exact plainStep_goes hl (plainStep_goes hl (stepTables_goes hl h3) 14) 15

/-- The end of a die recovery: the die works again, and the start's time is kept. -/
def dieRecovered (s : State) (d : Nat) (found : StartFindings) : State :=
  setReg (logFault { s with ctl := { s.ctl with recovering := none } } 0x0400 0 14 d 0xFFFF found.timeMs) 0x1200 0x08 found.timeMs

theorem runRecovery_of_goes {d : Nat} (h : (recoveryRun s d found).2 = false) :
    ((dieRecovered (recoveryRun s d found).1 d found).ctl.recoverQ = [] → runRecovery s d found = dieRecovered (recoveryRun s d found).1 d found) ∧
    ∀ n r, (dieRecovered (recoveryRun s d found).1 d found).ctl.recoverQ = n :: r → runRecovery s d found =
      stopDie { dieRecovered (recoveryRun s d found).1 d found with ctl := { (dieRecovered (recoveryRun s d found).1 d found).ctl with
        recoverQ := r } } n := by
  have heq : ∀ t, dieRecovered (recoveryRun s d found).1 d found = t → runRecovery s d found = match t.ctl.recoverQ with
      | [] => t
      | n :: r => stopDie { t with ctl := { t.ctl with recoverQ := r } } n := by
    rintro t rfl
    have hrun : runRecovery s d found = if (recoveryRun s d found).2 then (recoveryRun s d found).1 else
      match (dieRecovered (recoveryRun s d found).1 d found).ctl.recoverQ with
      | [] => dieRecovered (recoveryRun s d found).1 d found
      | n :: r => stopDie { dieRecovered (recoveryRun s d found).1 d found with ctl := { (dieRecovered (recoveryRun s d found).1 d found).ctl with
          recoverQ := r } } n := rfl
    rw [hrun, if_neg (by simp [h])]
  generalize dieRecovered (recoveryRun s d found).1 d found = t at heq ⊢
  refine ⟨fun hq => ?_, fun n r hq => ?_⟩
  · rw [heq t rfl, hq]
  · rw [heq t rfl, hq]

theorem dieRecovered_ctl (s : State) (d : Nat) (found : StartFindings) : (dieRecovered s d found).ctl.recovering = none ∧
    (dieRecovered s d found).ctl.phase = s.ctl.phase ∧ (dieRecovered s d found).ctl.inCharge = s.ctl.inCharge ∧
    (dieRecovered s d found).ctl.recoverQ = s.ctl.recoverQ := by
  obtain ⟨log, msix, hc, -, -⟩ := logFault_ctl { s with ctl := { s.ctl with recovering := none } } 0x0400 0 14 d 0xFFFF found.timeMs
  have h : (dieRecovered s d found).ctl = { s.ctl with recovering := none, log, msix } := hc
  rw [h]
  exact ⟨rfl, rfl, rfl, rfl⟩

theorem stopDie_ctl (s : State) (d : Nat) : (stopDie s d).ctl.recoverQ = s.ctl.recoverQ ∧ (stopDie s d).ctl.phase = s.ctl.phase := by
  unfold stopDie
  extract_lets c s1 s2 onDie wipe s3
  obtain ⟨log, msix, hctl⟩ := takeReset_ctl { s with ctl := { s.ctl with recovering := some d } } 5
  obtain ⟨log', msix', hlog, -, -⟩ := logFault_ctl s1 0x020B 2 14 d 0xFFFF d
  have h3 : s3.ctl = s2.ctl := replayWorks_ctl ..
  show s3.ctl.recoverQ = _ ∧ s3.ctl.phase = _
  rw [h3, hlog, hctl]
  exact ⟨rfl, rfl⟩

theorem runLeave_of_goes (h : (leaveRun s found).2 = false) : runLeave s found =
    logFault (setReg (setReg (leaveRun s found).1 0x1200 0x10 0) 0x1200 0x08 found.timeMs) 0x0407 0 0 0 0xFFFF 0 := by
  have hrun : runLeave s found = if (leaveRun s found).2 then (leaveRun s found).1 else
      logFault (setReg (setReg (leaveRun s found).1 0x1200 0x10 0) 0x1200 0x08 found.timeMs) 0x0407 0 0 0 0xFFFF 0 := rfl
  rw [hrun, if_neg (by simp [h])]

end

/-! ### The obligation -/

theorem failsAt_of_none {found : StartFindings} (h : found.failed = []) (step unit : Nat) : failsAt found step unit = false := by simp [failsAt, h]

theorem exec_startSequence_starting {s : State} (hp : s.ctl.phase = .starting) (f : StartFindings) :
    exec (.startSequence f) s = .next (runStart s f) := congrArg Host.Outcome.next (if_pos hp)

theorem exec_startSequence_serving {s : State} (hs : controlled s = true) (f : StartFindings) :
    (∀ d, s.ctl.recovering = some d → exec (.startSequence f) s = .next (runRecovery s d f)) ∧
    (s.ctl.recovering = none → exec (.startSequence f) s = .next (if getReg s 0x1200 0x10 = 3 then runLeave s f else s)) := by
  have hp : s.ctl.phase ≠ .starting := by
    have h := inService_of_controlled hs
    simp only [inService, beq_iff_eq] at h
    simp [h]
  have heq : exec (.startSequence f) s = .next (runSequence s f) := rfl
  unfold runSequence at heq
  rw [if_neg hp, if_neg (by simp [hs])] at heq
  refine ⟨fun d hd => ?_, fun hn => ?_⟩
  · rw [heq, hd]
  · rw [heq, hn]

theorem phase_of_controlled {s : State} (hs : controlled s = true) : s.ctl.phase = .service := by
  simpa [inService] using inService_of_controlled hs

/-- Settles O50. -/
theorem starts : Obligations.Starts := by
  unfold Obligations.Starts
  refine ⟨fun s f hp hlen => ⟨fun hf ht hl hm => ?_, fun k hk hf ht hl hm hs => ?_, fun hl hbad => ?_, fun hf hl hm => ?_⟩,
    fun s f hs hf ht hl => ⟨fun d hd hq => ?_, fun d n r hd hq => ?_, fun hn h10 => ?_, fun hn h10 => ?_⟩⟩
  · have hnone := failsAt_of_none hf
    obtain ⟨hserv, hcharge, h6, h8, h7, he, hb, -⟩ :=
      runStart_serves hp hl hlen hm (hnone 1) (hnone 3 0) fun b => ⟨hnone 5 b, by simp [ht]⟩
    have hkept : Kept runSequenceParts s (runStart s f) := by
      have h := runSequence_keeps s f
      rwa [show runSequence s f = runStart s f from if_pos hp] at h
    exact ⟨_, exec_startSequence_starting hp f, hserv, hcharge, h6, h8, h7, he, hkept .pending (by decide), hb⟩
  · have hother : ∀ step u, step ≠ 6 → failsAt f step u = false := fun step u hn => by simp [failsAt, hf, hn]
    obtain ⟨hserv, -, -, -, -, -, -, hout⟩ := runStart_serves hp hl hlen hm (fun u => hother 1 u (by decide)) (hother 3 0 (by decide))
      fun b => ⟨hother 5 b (by decide), by simp [ht]⟩
    exact ⟨_, exec_startSequence_starting hp f, hserv, hout k hk hs (by simp [failsAt, hf]) (by simp [failsTwice, hf, ht])⟩
  · have hbegin : OnStart true (fun _ => True) (countStart s) (beginStart s f) := beginStart_onStart s f
    have hstop : Stopped (startHead f (lastStart (countStart s)) (beginStart s f)) := by
      refine startHead_stops hl (by rw [hbegin.clusterOk, countStart_ctl, hlen]) ?_
      rw [hbegin.manifestOk, manifestOk_countStart]
      simpa [failsAt] using hbad
    refine ⟨_, exec_startSequence_starting hp f, ?_⟩
    rw [runStart_of_stopped hstop.1 (by simp [hstop.2.1])]
    exact hstop.2
  · have hbegin : OnStart true (fun _ => True) (countStart s) (beginStart s f) := beginStart_onStart s f
    obtain ⟨hstop, hphase, h7, he⟩ := startHead_locks (prev := lastStart (countStart s)) hl (by rw [hbegin.clusterOk, countStart_ctl, hlen])
      (by rw [hbegin.manifestOk, manifestOk_countStart, hm]) (failsAt_of_none hf 1) (by rw [hbegin.phase, countStart_ctl, hp])
    refine ⟨_, exec_startSequence_starting hp f, ?_⟩
    rw [runStart_of_stopped hstop (by simp [hphase])]
    exact ⟨hphase, h7, he⟩
  · have hgo : Goes false (fun _ => False) (countStart s) (recoveryRun s d f) :=
      recoveryRun_goes hl (fun b => ⟨failsAt_of_none hf 5 b, by simp [ht]⟩) d
    obtain ⟨hrec, hphase, hcharge, hqueue⟩ := dieRecovered_ctl (recoveryRun s d f).1 d f
    have hq' := hqueue.trans (hgo.2.recoverQ.trans ((congrArg (·.recoverQ) (countStart_ctl s)).trans hq))
    refine ⟨_, (exec_startSequence_serving hs f).1 d hd, ?_⟩
    rw [(runRecovery_of_goes hgo.1).1 hq']
    refine ⟨hrec, ?_, ?_⟩
    · rw [hphase, hgo.2.phase, countStart_ctl]
      exact phase_of_controlled hs
    · rw [hcharge, hgo.2.inCharge, countStart_ctl]
  · have hgo : Goes false (fun _ => False) (countStart s) (recoveryRun s d f) :=
      recoveryRun_goes hl (fun b => ⟨failsAt_of_none hf 5 b, by simp [ht]⟩) d
    obtain ⟨-, hphase, -, hqueue⟩ := dieRecovered_ctl (recoveryRun s d f).1 d f
    have hq' := hqueue.trans (hgo.2.recoverQ.trans ((congrArg (·.recoverQ) (countStart_ctl s)).trans hq))
    refine ⟨_, (exec_startSequence_serving hs f).1 d hd, ?_⟩
    rw [(runRecovery_of_goes hgo.1).2 n r hq']
    refine ⟨(stopDie_spec _ n).1, (stopDie_ctl _ n).1, (stopDie_ctl _ n).2.trans (hphase.trans ?_)⟩
    rw [hgo.2.phase, countStart_ctl]
    exact phase_of_controlled hs
  · have hgo : Goes false (fun _ => False) (countStart s) (leaveRun s f) := leaveRun_goes hl
    refine ⟨_, (exec_startSequence_serving hs f).2 hn, ?_⟩
    obtain ⟨log, msix, hc, -, -⟩ := logFault_ctl (setReg (setReg (leaveRun s f).1 0x1200 0x10 0) 0x1200 0x08 f.timeMs) 0x0407 0 0 0 0xFFFF 0
    rw [if_pos h10, runLeave_of_goes hgo.1, hc, getReg_logFault (by decide) (by decide)]
    refine ⟨?_, ?_, ?_⟩
    · rw [getReg_setReg_sub _ _ _ (by decide) (by decide) (by decide), getReg_setReg_same]
    · refine hgo.2.phase.trans ?_
      rw [countStart_ctl]
      exact phase_of_controlled hs
    · refine hgo.2.inCharge.trans ?_
      rw [countStart_ctl]
  · rw [(exec_startSequence_serving hs f).2 hn, if_neg h10]

end Sys2Proof.Machine
end
section
/-! A job's completion posted, and a failed read of its input (O20). -/
namespace Sys2Proof.Machine
open Sys2Proof

variable {s : State} {r : Nat} {e : JobEntry}

theorem foldl_mem_of_choice {α : Type} (f : α → α → α) (hf : ∀ a b, f a b = a ∨ f a b = b) (a : α) (l : List α) : l.foldl f a ∈ a :: l := by
  induction l generalizing a with
  | nil => exact List.mem_singleton.mpr rfl
  | cons b l ih =>
    rw [List.foldl_cons]
    rcases List.mem_cons.mp (ih (f a b)) with h | h
    · rw [h]
      rcases hf a b with h' | h' <;> simp [h']
    · exact List.mem_cons_of_mem _ (List.mem_cons_of_mem _ h)

theorem nextToPost_mem (h : nextToPost s r = some e) : e ∈ s.jobs ∧ e.ring = r := by
  unfold nextToPost at h
  split at h
  · cases h
  · next b l hl =>
    have hm : e ∈ b :: l := by
      rw [← Option.some.inj h]
      refine foldl_mem_of_choice _ (fun a c => ?_) b l
      split <;> simp
    rw [← hl] at hm
    obtain ⟨hj, hp⟩ := List.mem_filter.mp hm
    exact ⟨hj, by simpa using (Bool.and_eq_true_iff.mp hp).1⟩

theorem length_completionBytes (c : Completion) : (completionBytes c).length = 64 := by
  simp [completionBytes]

theorem read_write_split {m : Memory} (hm : m.wf = true) (a : Nat) {bs : List Byte} {n : Nat} (hn : n ≤ bs.length) :
    ((m.write (a + n) (bs.drop n)).write a (bs.take n)).read a bs.length = bs := by
  refine List.ext_getElem (by simp) fun i h1 h2 => ?_
  rw [Memory.getElem_read]
  have hlen : (bs.take n).length = n := List.length_take_of_le hn
  by_cases hi : i < n
  · rw [Memory.get_write_in (Memory.wf_write hm _ _) a _ (by omega), List.getElem_take]
  · obtain ⟨j, rfl⟩ := Nat.exists_eq_add_of_le (Nat.le_of_not_lt hi)
    rw [Memory.get_write_out _ a _ (.inr (by omega)), ← Nat.add_assoc, Memory.get_write_in hm (a + n) _ (by rw [List.length_drop]; omega),
      List.getElem_drop]

/-- The 64 bytes of a record, its first 8 written last. -/
theorem read_putRecord (hw : s.host.wf = true) (pos : Nat) (c : Completion) :
    (putRecord s r pos c).host.read (ringReg s r 0x04 + ringSlot s r pos * 64) 64 = completionBytes c := by
  have hread := read_write_split hw (ringReg s r 0x04 + ringSlot s r pos * 64) (bs := completionBytes c) (n := 8) (by rw [length_completionBytes]; decide)
  rw [length_completionBytes] at hread
  unfold putRecord
  dsimp only
  rw [raiseVector_keeps _ _ .host (by decide)]
  dsimp only [hostWrite]
  exact hread

theorem findJob_putJob (h : ∃ x, x ∈ s.jobs ∧ x.ring = e.ring ∧ x.pos = e.pos) : findJob (putJob s e) e.ring e.pos = some e := by
  obtain ⟨x, hx, hr, hp⟩ := h
  unfold findJob putJob
  have hmem : e ∈ s.jobs.map fun x => if x.ring = e.ring ∧ x.pos = e.pos then e else x := List.mem_map.mpr ⟨x, hx, if_pos ⟨hr, hp⟩⟩
  cases hf : (s.jobs.map fun x => if x.ring = e.ring ∧ x.pos = e.pos then e else x).find? fun x => x.ring == e.ring && x.pos == e.pos with
  | none => exact absurd (List.find?_eq_none.mp hf e hmem) (by simp)
  | some f =>
    obtain ⟨y, -, hy⟩ := List.mem_map.mp (List.mem_of_find?_eq_some hf)
    have hk := List.find?_some hf
    by_cases hc : y.ring = e.ring ∧ y.pos = e.pos
    · rw [if_pos hc] at hy
      rw [hy]
    · rw [if_neg hc] at hy
      subst hy
      exact absurd (by simpa using hk) hc

theorem findJob_congr {t : State} (h : t.jobs = s.jobs) (r p : Nat) : findJob t r p = findJob s r p := by rw [findJob, findJob, h]

theorem findJob_setJobState (h : ∃ x, x ∈ s.jobs ∧ x.ring = e.ring ∧ x.pos = e.pos) (st : Nat) :
    findJob (setJobState s e st) e.ring e.pos = some { e with state := st } :=
  (findJob_congr (toMirror_keeps _ _ .jobs (by decide)) _ _).trans (findJob_putJob (e := { e with state := st }) h)

theorem mem_msix_raiseVector (s : State) (v : Nat) : v ∈ (raiseVector s v).ctl.msix := by
  obtain ⟨msix, hc, hv, -⟩ := raiseVector_ctl s v
  rw [hc]
  exact hv

/-- The writes of a job's outputs, its record, and the release of what it staged. -/
def postedRecord (s : State) (r : Nat) (e : JobEntry) : State :=
  let s := if e.job.space.testBit 1 then s else (jobWrites s e).foldl (fun s w => hostWrite s w.1 (w.2.1 ++ List.replicate w.2.2 0)) s
  let s := putRecord s r e.pos e.image
  (e.staged.filter fun x => x.1 != 0 || x.2.2 != 0).foldl (fun s x => releaseRange s x.1) s

theorem postJob_eq (h : nextToPost s r = some e) (hst : e.state = 3) (hd : dmaOk s = true) (hm : mirrorWaits s (.job r e.pos 0) 3 = false) :
    postJob s r =
      let t := setJobState (postedRecord s r e) { e with staged := [], output := [] } 4
      putRing t r { ringRun t r with posted := e.pos + 1, consumed := Nat.max (ringRun t r).consumed (ringConsumed t r) } := by
  unfold postJob
  rw [h]
  exact if_neg (by simp [hst, hd, hm])

theorem postedRecord_spec (hw : s.host.wf = true) : (postedRecord s r e).jobs = s.jobs ∧ r ∈ (postedRecord s r e).ctl.msix ∧
    (postedRecord s r e).host.read (ringReg s r 0x04 + ringSlot s r e.pos * 64) 64 = completionBytes e.image := by
  unfold postedRecord
  extract_lets s1 s2
  have h1 : Kept [.host] s s1 ∧ s1.host.wf = true := by
    unfold s1
    split
    · exact ⟨.refl _ s, hw⟩
    · generalize jobWrites s e = l
      have hfold : ∀ t : State, Kept [.host] s t ∧ t.host.wf = true →
          Kept [.host] s (l.foldl (fun s w => hostWrite s w.1 (w.2.1 ++ List.replicate w.2.2 0)) t) ∧
          (l.foldl (fun s w => hostWrite s w.1 (w.2.1 ++ List.replicate w.2.2 0)) t).host.wf = true := by
        induction l with
        | nil => exact fun _ h => h
        | cons w l ih => exact fun t h => ih _ ⟨h.1.trans (hostWrite_keeps t _ _), Memory.wf_write h.2 _ _⟩
      exact hfold s ⟨.refl _ s, hw⟩
  have h3 : Kept [.allocs] s2 ((e.staged.filter fun x => x.1 != 0 || x.2.2 != 0).foldl (fun s x => releaseRange s x.1) s2) :=
    Kept.foldl (fun t (x : Nat × Nat × Nat) => releaseRange_keeps t x.1) _ (.refl _ s2)
  have hrec := read_putRecord (r := r) h1.2 e.pos e.image
  have hreg : ∀ sub, ringReg s1 r sub = ringReg s r sub := fun sub => getReg_congr (h1.1 .dict (by decide)) _ _
  unfold ringSlot at hrec ⊢
  rw [hreg, hreg, hreg] at hrec
  refine ⟨(h3 .jobs (by decide)).trans ((putRecord_keeps s1 r e.pos e.image .jobs (by decide)).trans (h1.1 .jobs (by decide))), ?_, ?_⟩
  · rw [h3 .ctl (by decide)]
    exact mem_msix_raiseVector _ r
  · rw [h3 .host (by decide)]
    exact hrec

/-! ### A job whose input cannot be read -/

/-- Is this work one of the job's. -/
def workOfJob (e : JobEntry) (id : WorkId) : Bool := match id with
  | .job r p _ => r == e.ring && p == e.pos
  | .frame _ _ => false

/-- One work of a job dropped. -/
def dropJobWork (s : State) (w : Work) : State :=
  let s := match w.alloc with
    | some b => releaseRange s b
    | none => s
  dropWork { s with tiles := s.tiles.map (fun t => (t.1, dropFromTile w.id t.2)), images := s.images.filter (fun i => !(i.work == w.id))
                    syncWins := s.syncWins.filter fun x => !(x.work == w.id) } w.id

theorem dropJobWork_works (s : State) (w : Work) : (dropJobWork s w).works = s.works.filter fun x => !(x.id == w.id) := by
  unfold dropJobWork
  cases w.alloc <;> rfl

theorem mem_foldl_dropJobWork {l : List Work} {t : State} {x : Work} (h : x ∈ (l.foldl dropJobWork t).works) :
    x ∈ t.works ∧ ∀ w, w ∈ l → x.id ≠ w.id := by
  induction l generalizing t with
  | nil => exact ⟨h, fun w hw => absurd hw List.not_mem_nil⟩
  | cons w l ih =>
    obtain ⟨hm, hn⟩ := ih h
    rw [dropJobWork_works] at hm
    obtain ⟨hm, hw⟩ := List.mem_filter.mp hm
    refine ⟨hm, fun v hv => ?_⟩
    rcases List.mem_cons.mp hv with rfl | hv
    · simpa using hw
    · exact hn v hv

theorem dropJobWorks_eq (s : State) (e : JobEntry) : dropJobWorks s e = (s.works.filter fun w => workOfJob e w.id).foldl dropJobWork s := rfl

theorem findWork_dropJobWorks (s : State) (e : JobEntry) (n : Nat) : findWork (dropJobWorks s e) (.job e.ring e.pos n) = none := by
  refine List.find?_eq_none.mpr fun x hx hid => ?_
  rw [dropJobWorks_eq] at hx
  obtain ⟨hm, hn⟩ := mem_foldl_dropJobWork hx
  have hidx : x.id = .job e.ring e.pos n := by simpa using hid
  exact hn x (List.mem_filter.mpr ⟨hm, by rw [hidx]; simp [workOfJob]⟩) rfl

/-- R375: the job's outcome, fixed. -/
theorem findJob_finishJob (h : ∃ x, x ∈ s.jobs ∧ x.ring = e.ring ∧ x.pos = e.pos) :
    ∃ f, findJob (finishJob s e) e.ring e.pos = some f ∧ f.state = 3 ∧ f.image.status = e.image.status ∧ f.image.count = e.image.count ∧
      f.image.tick = counterOf s := by
  unfold finishJob
  extract_lets st c f s1 s2 s3 s4 s5
  have h1 : Kept [.dict, .mem, .ctl] s s1 := ((addReg_keeps s _ _ _).mono rfl).ite (.refl _ s)
  have h2 : Kept [.dict, .mem, .ctl] s s2 := h1.trans ((countLost_keeps s1 _ _ _).mono rfl)
  have h3 : Kept [.dict, .mem, .ctl] s s3 := (h2.trans ((addReg_keeps s2 _ _ _).mono rfl)).ite h2
  have h4 : Kept [.dict, .mem, .ctl] s s4 :=
    (h3.trans (((addReg_keeps s3 _ _ _).mono rfl).trans ((addReg_keeps _ _ _ _).mono rfl))).ite h3
  have h5 : Kept [.dict, .mem, .ctl] s s5 :=
    Kept.ite (.foldl (fun t w => (Kept.mem t _).mono rfl) _ h4) h4
  exact ⟨_, findJob_setJobState (e := f) (by rw [h5 .jobs (by decide)]; exact h) 3, rfl, rfl, rfl, rfl⟩

/-! ### The obligation -/

/-- Settles O20. -/
theorem completions : Obligations.Completions := by
  unfold Obligations.Completions
  refine ⟨fun s r e hs hn hst hd hm hw => ?_, fun s r p i e hs hwk hj hsp hst => ?_⟩
  · obtain ⟨hmem, rfl⟩ := nextToPost_mem hn
    obtain ⟨hjobs, hdue, hread⟩ := postedRecord_spec (r := e.ring) (e := e) hw
    have hkeep : Kept [.jobs, .fabric, .out] (postedRecord s e.ring e) (setJobState (postedRecord s e.ring e) { e with staged := [], output := [] } 4) :=
      (setJobState_keeps _ _ _).mono rfl
    refine ⟨postJob s e.ring, whenControlled_of_controlled hs fun s => postJob s e.ring, ?_, ?_, ?_, ?_, (postJob_keeps s e.ring).mono rfl⟩
    · rw [postJob_eq hn hst hd hm]
      show (setJobState _ _ _).host.read _ _ = _
      rw [hkeep .host (by decide)]
      exact hread
    · rw [postJob_eq hn hst hd hm]
      show RingRun.posted (ngetD (nset _ e.ring _) e.ring {}) = _
      rw [ngetD_nset_same]
    · refine ⟨{ e with staged := [], output := [], state := 4 }, ?_, rfl⟩
      rw [postJob_eq hn hst hd hm]
      show findJob (putRing _ _ _) _ _ = _
      rw [findJob_congr (putRing_keeps _ _ _ .jobs (by decide))]
      exact findJob_setJobState (e := { e with staged := [], output := [] }) ⟨e, by rw [hjobs]; exact hmem, rfl, rfl⟩ 4
    · rw [postJob_eq hn hst hd hm]
      show e.ring ∈ (setJobState _ _ _).ctl.msix
      rw [hkeep .ctl (by decide)]
      exact hdue
  · obtain ⟨w, hw⟩ := Option.isSome_iff_exists.mp hwk
    have hkey : e.ring = r ∧ e.pos = p := by simpa using List.find?_some hj
    obtain ⟨rfl, rfl⟩ := hkey
    have heq : dmaError s (.job e.ring e.pos i) = finishJob (dropJobWorks s e) { e with image := { e.image with status := stHostDmaError } } := by
      unfold dmaError
      dsimp only
      rw [hw, hj]
      exact if_neg (by simp [hsp]; omega)
    have hjobs : (dropJobWorks s e).jobs = s.jobs := dropJobWorks_keeps s e .jobs (by decide)
    obtain ⟨f, hf, hf3, hstat, -, -⟩ := findJob_finishJob (s := dropJobWorks s e) (e := { e with image := { e.image with status := stHostDmaError } })
      ⟨e, hjobs ▸ List.mem_of_find?_eq_some hj, rfl, rfl⟩
    refine ⟨_, whenControlled_of_controlled hs fun s => dmaError s (.job e.ring e.pos i), ?_, fun n => ?_, .of_kept (dmaError_keeps s _) (by decide)⟩
    · rw [heq]
      exact ⟨f, hf, hf3, hstat⟩
    · rw [heq, findWork_congr (finishJob_keeps _ _ .works (by decide))]
      exact findWork_dropJobWorks s e n

end Sys2Proof.Machine
end
section
/-! A flow's packets sent, and its receivers benched (O21). -/
namespace Sys2Proof.Machine
open Sys2Proof

variable {s t : State}

/-! ### What is emitted beside a packet -/

/-- No packet of a flow is among these. -/
def NoPacket (l : List Emission) : Prop := ∀ x, x ∈ l → ∀ a b c d e f g h i j k l, x ≠ Emission.rtp a b c d e f g h i j k l

theorem toMirror_out (s : State) (i : MirrorItem) : ∃ more, (toMirror s i).out = s.out ++ more ∧ NoPacket more := by
  unfold toMirror
  split
  · exact ⟨[.mirrorOut (getReg s 0x4100 0x09) i], rfl, fun x hx => by simp [List.mem_singleton.mp hx]⟩
  · exact ⟨[], (List.append_nil _).symm, nofun⟩

theorem freeFrame_out (s : State) (k j : Nat) : ∃ more, (freeFrame s k j).out = s.out ++ more ∧ NoPacket more := by
  unfold freeFrame
  extract_lets s1
  have h1 : s1.out = s.out := by
    unfold s1
    split <;> rfl
  obtain ⟨more, hm, hn⟩ := toMirror_out s1 (.entry (.frame k j) 4 0)
  exact ⟨more, by rw [← h1]; exact hm, hn⟩

theorem settleFrame_out (s : State) (k j : Nat) : ∃ more, (settleFrame s k j).out = s.out ++ more ∧ NoPacket more := by
  have hnone : ∃ more, s.out = s.out ++ more ∧ NoPacket more := ⟨[], (List.append_nil _).symm, nofun⟩
  unfold settleFrame
  split
  · split
    · exact freeFrame_out s k j
    · exact hnone
  · exact hnone

theorem noteDelivered_out (s : State) (f r : Nat) (e : FrameEntry) : (noteDelivered s f r e).out = s.out := noteDelivered_keeps s f r e .out (by decide)

theorem noteDelivered_count (s : State) (f r : Nat) (e : FrameEntry) :
    getReg (noteDelivered s f r e) (flowIndex f) 0x09 = getReg s (flowIndex f) 0x09 := by
  unfold noteDelivered
  split
  · rw [getReg_raiseVector]
    refine ((RegsBut.refl [(0xE000, 0x01), (0xE000, 0x05)] _).logFault (by simp) (by simp) _ _ _ _ _ _ _ _ (by decide) (by simp)).trans ?_
    exact getReg_setReg_sub _ _ _ (by decide) (by decide) (by decide)
  · rfl

/-- The packet `p` taken from the queue and put on the wire. -/
def sentPacket (s : State) (port : Nat) (p : OutPacket) : State :=
  let s := passTime s (p.time - nowNs s)
  let s : State := { s with media := { s.media with egress := s.media.egress.erase p } }
  if fitsMtu s p then
    addReg (emit s (.rtp port (egressTag s port) p.dst p.dscp p.hops p.udpPort p.ptype p.seq p.stamp (ssrcOf s p.flow) p.marker p.payload))
      (flowIndex p.flow) 0x09 1
  else s

/-- What follows the last packet of a receiver's output. -/
def afterPacket (s : State) (p : OutPacket) : State :=
  if s.media.egress.any fun q => q.flow == p.flow && q.recv == p.recv && q.ctx == p.ctx && q.j == p.j then s
  else
    let s := match findFrame s p.ctx p.j with
      | some e => noteDelivered s p.flow p.recv e
      | none => s
    settleFrame (clearWait s p.ctx p.j (p.flow, p.recv)) p.ctx p.j

theorem sentPacket_media (s : State) (port : Nat) (p : OutPacket) : (sentPacket s port p).media.egress = s.media.egress.erase p := by
  unfold sentPacket
  extract_lets s1 m s2
  have h2 : s2.media.egress = s.media.egress.erase p := rfl
  split
  · rw [← h2]
    exact congrArg (·.egress) (addReg_keeps _ _ _ _ .media (by decide))
  · exact h2

theorem sendPacket_eq {port : Nat} {p : OutPacket} (hp : s.media.egress.find? (fun q => q.port == port) = some p) (hu : portUp s port = true) :
    sendPacket s port = afterPacket (sentPacket s port p) p := by
  unfold sendPacket afterPacket
  rw [hp, sentPacket_media]
  dsimp only
  rw [if_neg (by simp [hu])]
  rfl

theorem afterPacket_spec (s : State) (p : OutPacket) : (afterPacket s p).media = s.media ∧
    (∃ more, (afterPacket s p).out = s.out ++ more ∧ NoPacket more) ∧
    getReg (afterPacket s p) (flowIndex p.flow) 0x09 = getReg s (flowIndex p.flow) 0x09 := by
  unfold afterPacket
  split
  · exact ⟨rfl, ⟨[], (List.append_nil _).symm, nofun⟩, rfl⟩
  · extract_lets s1
    have h1 : s1.media = s.media ∧ s1.out = s.out ∧ getReg s1 (flowIndex p.flow) 0x09 = getReg s (flowIndex p.flow) 0x09 := by
      unfold s1
      split
      · exact ⟨noteDelivered_keeps _ _ _ _ .media (by decide), noteDelivered_out .., noteDelivered_count ..⟩
      · exact ⟨rfl, rfl, rfl⟩
    obtain ⟨hm, ho, hr⟩ := h1
    have hc := clearWait_keeps s1 p.ctx p.j (p.flow, p.recv)
    obtain ⟨more, hout, hno⟩ := settleFrame_out (clearWait s1 p.ctx p.j (p.flow, p.recv)) p.ctx p.j
    have hs := settleFrame_keeps (clearWait s1 p.ctx p.j (p.flow, p.recv)) p.ctx p.j
    refine ⟨(hs .media (by decide)).trans ((hc .media (by decide)).trans hm), ⟨more, ?_, hno⟩, ?_⟩
    · rw [hout, hc .out (by decide), ho]
    · rw [getReg_congr (hs .dict (by decide)), getReg_congr (hc .dict (by decide)), hr]

theorem sentPacket_spec (s : State) (port : Nat) (p : OutPacket) :
    (sentPacket s port p).out = s.out ++ (if fitsMtu s p then [.rtp port (egressTag s port) p.dst p.dscp p.hops p.udpPort p.ptype p.seq p.stamp
      (s.ctl.manifest.serial % 65536 * 65536 + p.flow) p.marker p.payload] else []) ∧
    getReg (sentPacket s port p) (flowIndex p.flow) 0x09 =
      getReg (if fitsMtu s p then addReg s (flowIndex p.flow) 0x09 1 else s) (flowIndex p.flow) 0x09 := by
  unfold sentPacket
  extract_lets s1 m s2
  have hfit : fitsMtu s2 p = fitsMtu s p := rfl
  rw [hfit]
  split
  · exact ⟨addReg_keeps _ _ _ _ .out (by decide), getReg_congr (addReg_congr (s := s) (by rfl) _ _ _) _ _⟩
  · exact ⟨(List.append_nil _).symm, rfl⟩

/-! ### A receiver's outputs dropped -/

theorem ackHeld_flows (s : State) (f : Nat) (h : HeldOutput) : (ackHeld s f h).flows = nset s.flows f { flowOf s f with
    held := (flowOf s f).held.filter fun o => !(o.receiver == h.receiver && o.ctx == h.ctx && o.j == h.j) } := by
  unfold ackHeld
  extract_lets x s1
  rw [settleFrame_keeps _ _ _ .flows (by decide), clearWait_keeps _ _ _ _ .flows (by decide)]
  rfl

/-- From one state of a flow to a later one in which outputs held for receiver `r` have been dropped. -/
structure Dropped (f r : Nat) (s t : State) : Prop where
  other : ∀ g, g ≠ f → flowOf t g = flowOf s g
  fewer : ∀ h, h ∈ (flowOf t f).held → h ∈ (flowOf s f).held
  stays : ∀ h, h ∈ (flowOf s f).held → h.receiver ≠ r → h ∈ (flowOf t f).held

theorem flowOf_ackHeld_same (s : State) (f : Nat) (h : HeldOutput) : (flowOf (ackHeld s f h) f).held =
    (flowOf s f).held.filter fun o => !(o.receiver == h.receiver && o.ctx == h.ctx && o.j == h.j) := by
  unfold flowOf
  rw [ackHeld_flows, ngetD_nset_same]
  rfl

theorem flowOf_ackHeld_ne (s : State) {f g : Nat} (h : HeldOutput) (hn : g ≠ f) : flowOf (ackHeld s f h) g = flowOf s g := by
  unfold flowOf
  rw [ackHeld_flows, ngetD_nset_ne _ _ _ hn.symm]

theorem foldl_ackHeld (f r : Nat) (l : List HeldOutput) (hl : ∀ h, h ∈ l → h.receiver = r) (s : State) :
    Dropped f r s (l.foldl (fun s h => ackHeld s f h) s) ∧ ∀ h, h ∈ l → h ∉ (flowOf (l.foldl (fun s h => ackHeld s f h) s) f).held := by
  induction l generalizing s with
  | nil => exact ⟨⟨fun _ _ => rfl, fun _ h => h, fun _ h _ => h⟩, fun h hm => absurd hm List.not_mem_nil⟩
  | cons o l ih =>
    obtain ⟨hd, hgone⟩ := ih (fun h hm => hl h (List.mem_cons_of_mem _ hm)) (ackHeld s f o)
    refine ⟨⟨fun g hg => (hd.other g hg).trans (flowOf_ackHeld_ne s o hg), fun h hm => ?_, fun h hm hr => hd.stays h ?_ hr⟩, fun h hm => ?_⟩
    · have hm := hd.fewer h hm
      rw [flowOf_ackHeld_same] at hm
      exact (List.mem_filter.mp hm).1
    · rw [flowOf_ackHeld_same]
      refine List.mem_filter.mpr ⟨hm, ?_⟩
      simp [hl o List.mem_cons_self, hr]
    · rcases List.mem_cons.mp hm with rfl | hm
      · intro hin
        have hin := hd.fewer h hin
        rw [flowOf_ackHeld_same] at hin
        simpa using (List.mem_filter.mp hin).2
      · exact hgone h hm

theorem dropHeld_spec (s : State) (f r : Nat) : Dropped f r s (dropHeld s f r) ∧ ∀ h, h ∈ (flowOf (dropHeld s f r) f).held → h.receiver ≠ r := by
  obtain ⟨hd, hgone⟩ := foldl_ackHeld f r ((flowOf s f).held.filter fun h => h.receiver == r) (fun h hm => by simpa using (List.mem_filter.mp hm).2) s
  refine ⟨hd, fun h hm hr => hgone h ?_ hm⟩
  exact List.mem_filter.mpr ⟨hd.fewer h hm, by simp [hr]⟩

/-- R348, R349: the receiver takes nothing any more. -/
def benched (s : State) (f r : Nat) : State :=
  let x := flowOf s f
  let s := putFlow s f { x with active := x.active.filter (· != r), ready := x.ready.filter (· != r) }
  let s := addReg (clearFlowBit (setFlowBit s f 0x06 r) f 0x07 r) 0x6000 0x06 1
  raiseVector (logFault s 0x0070 0 13 f (getReg s (flowIndex f) 0x01) r) 51

theorem benchReceiver_eq {f r : Nat} {b : List Byte} (hb : nget (flowOf s f).recs r = some b)
    (hd : ((flowOf s f).held.any fun h => h.receiver == r && decide (h.round + recvWindow b ≤ counterOf s)) = true) :
    benchReceiver s f r = benched (dropHeld s f r) f r := by
  unfold benchReceiver
  rw [hb]
  exact if_pos hd

theorem benched_flows (s : State) (f r : Nat) : (benched s f r).flows = nset s.flows f { flowOf s f with
    active := (flowOf s f).active.filter (· != r), ready := (flowOf s f).ready.filter (· != r) } := by
  unfold benched
  extract_lets x s1 s2
  rw [raiseVector_keeps _ _ .flows (by decide), logFault_keeps _ _ _ _ _ _ _ .flows (by decide)]
  have h2 : s2.flows = (clearFlowBit (setFlowBit s1 f 0x06 r) f 0x07 r).flows := addReg_keeps _ _ _ _ .flows (by decide)
  rw [h2]
  rfl

theorem benched_bits (s : State) (f r : Nat) : flowBit (benched s f r) f 0x06 r = true ∧ flowBit (benched s f r) f 0x07 r = false := by
  have hread : ∀ sub, sub < 256 → sub = 6 ∨ sub = 7 → getReg (benched s f r) (flowIndex f) sub =
      getReg (clearFlowBit (setFlowBit s f 0x06 r) f 0x07 r) (flowIndex f) sub := fun sub hlt hsub => by
    unfold benched
    extract_lets x s1 s2
    rw [getReg_raiseVector, (RegsBut.refl [(0xE000, 0x01), (0xE000, 0x05)] s2).logFault (by simp) (by simp) _ _ _ _ _ _ _ _ hlt
      (by simp only [List.mem_cons, Prod.mk.injEq, List.not_mem_nil, or_false]; omega)]
    unfold s2
    rw [getReg_addReg_ne _ _ fun h => by
      have := ((objKey_inj (by decide) hlt).mp h).1
      unfold flowIndex at this
      omega]
    rfl
  unfold flowBit
  rw [hread _ (by decide) (.inl rfl), hread _ (by decide) (.inr rfl)]
  unfold clearFlowBit setFlowBit
  rw [getReg_setReg_same, getReg_setReg_sub _ _ _ (by decide) (by decide) (by decide), getReg_setReg_same, testBit_setBitAt, testBit_clearBitAt]
  simp

/-! ### The obligation -/

/-- Settles O21. -/
theorem egress : Obligations.Egress := by
  unfold Obligations.Egress
  refine ⟨⟨fun s port p hs hp hu => ?_, fun s port hs hu => ?_⟩, fun s f r b hs hb hd => ?_, fun s f r b hs hb h6 hr hroom => ?_,
    fun s f r hs hb => ⟨?_, ?_⟩⟩
  · obtain ⟨hm, ⟨more, hout, hno⟩, hreg⟩ := afterPacket_spec (sentPacket s port p) p
    obtain ⟨hsent, hcount⟩ := sentPacket_spec s port p
    refine ⟨_, whenService_of_inService hs fun s => sendPacket s port, ?_, ?_, ?_, .of_kept (sendPacket_keeps s port) (by decide)⟩
    · rw [sendPacket_eq hp hu, hm, sentPacket_media]
    · rw [sendPacket_eq hp hu, hout, hsent]
      exact ⟨more, rfl, hno⟩
    · rw [sendPacket_eq hp hu, hreg, hcount]
  · refine (whenService_of_inService hs fun s => sendPacket s port).trans (congrArg _ ?_)
    unfold sendPacket
    split
    · rfl
    · exact if_pos (by simp [hu])
  · obtain ⟨hdrop, hgone⟩ := dropHeld_spec s f r
    have hflow : flowOf (benched (dropHeld s f r) f r) f = { flowOf (dropHeld s f r) f with
        active := (flowOf (dropHeld s f r) f).active.filter (· != r), ready := (flowOf (dropHeld s f r) f).ready.filter (· != r) } := by
      show ngetD _ _ _ = _
      rw [benched_flows, ngetD_nset_same]
    obtain ⟨h6, h7⟩ := benched_bits (dropHeld s f r) f r
    refine ⟨_, (whenControlled_of_controlled hs fun s => benchReceiver s f r).trans (congrArg _ (benchReceiver_eq hb hd)), h6, h7, ?_, ?_, ?_, ?_, ?_,
      fun g hg => ?_, ?_⟩
    · rw [hflow]
      simp
    · rw [hflow]
      simp
    · rw [hflow]
      exact hgone
    · rw [hflow]
      exact hdrop.stays
    · exact mem_msix_raiseVector ..
    · refine Eq.trans ?_ (hdrop.other g hg)
      show ngetD _ _ _ = _
      rw [benched_flows, ngetD_nset_ne _ _ _ hg.symm]
      rfl
    · rw [← benchReceiver_eq hb hd]
      exact .of_kept (benchReceiver_keeps s f r) (by decide)
  · refine (whenControlled_of_controlled hs fun s => readyReceiver s f r).trans (congrArg _ ?_)
    unfold readyReceiver
    rw [hb]
    refine if_pos ?_
    rcases hroom with ⟨hk, hx⟩ | ⟨hk, hx⟩ <;> simp [h6, hr, hk, hx]
  · refine (whenControlled_of_controlled hs fun s => benchReceiver s f r).trans (congrArg _ ?_)
    unfold benchReceiver
    rw [hb]
  · refine (whenControlled_of_controlled hs fun s => readyReceiver s f r).trans (congrArg _ ?_)
    unfold readyReceiver
    rw [hb]

end Sys2Proof.Machine
end
section
/-! Received packets of every kind, port faults and link-up (O23). -/
namespace Sys2Proof.Machine
open Sys2Proof

variable {s t : State}

theorem addReg_out (s : State) (i j n : Nat) : (addReg s i j n).out = s.out := addReg_keeps s i j n .out (by decide)

/-- A good frame is counted, and its answer emitted. -/
theorem portAnswers_of_kept {port : Nat} {mld : Bool} {fr : PortFrame} (hu : portUp s port = true) (hk : portKeeps s port mld fr = true)
    (o : Option Emission) : portAnswers s port mld fr o =
      { addReg s (portIndex port) 0x0A 1 with out := s.out ++ o.toList } := by
  unfold portAnswers
  rw [if_neg (by simp [hu]), if_neg (by simp [hk])]
  have hout := addReg_out s (portIndex port) 0x0A 1
  generalize addReg s (portIndex port) 0x0A 1 = u at hout ⊢
  cases o with
  | none =>
    dsimp only
    rw [Option.toList_none, List.append_nil, ← hout]
  | some e =>
    dsimp only [emit]
    rw [hout]
    rfl

theorem portAnswers_of_dropped {port : Nat} {mld : Bool} {fr : PortFrame} (hu : portUp s port = true) (hk : portKeeps s port mld fr = false)
    (o : Option Emission) : portAnswers s port mld fr o = countDrop s port fr := by
  unfold portAnswers
  rw [if_neg (by simp [hu]), if_pos (by simp [hk])]

theorem portAnswers_of_down {port : Nat} (hu : portUp s port = false) (mld : Bool) (fr : PortFrame) (o : Option Emission) :
    portAnswers s port mld fr o = s := if_pos (by simp [hu])

theorem toList_ite {α : Type} (c : Prop) [Decidable c] (a : α) : (if c then some a else none).toList = if c then [a] else [] := by
  split <;> rfl

theorem mem_portV4 (s : State) (port target : Nat) : ((portV4 s port).contains target = true) ↔ target = getReg s (portIndex port) 0x04 ∧ target ≠ 0 := by
  unfold portV4
  split
  · next h =>
    rw [h]
    simp
  · next h =>
    rw [List.contains_iff_mem, List.mem_singleton]
    exact ⟨fun he => ⟨he, he ▸ h⟩, And.left⟩

theorem toList_groupReport (s : State) (port : Nat) (gs : List (Nat × Nat)) :
    (groupReport s port gs).toList = if gs = [] then [] else [.membershipReport port (egressTag s port) true gs] := by
  unfold groupReport
  split <;> rfl

theorem silencePort_spec (s : State) (port : Nat) : (silencePort s port).media.egress = s.media.egress.filter (fun p => p.port != port) ∧
    Kept [.frames, .allocs, .media, .fabric, .out] s (silencePort s port) := by
  unfold silencePort
  extract_lets mine m s1
  have h1 : Kept [.frames, .allocs, .fabric, .out] s1
      (mine.foldl (fun s p => settleFrame (clearWait s p.ctx p.j (p.flow, p.recv)) p.ctx p.j) s1) :=
    Kept.foldl (fun t (p : OutPacket) => ((clearWait_keeps t p.ctx p.j (p.flow, p.recv)).mono rfl).trans ((settleFrame_keeps _ p.ctx p.j).mono rfl)) _ (.refl _ s1)
  have h0 : Kept [.media] s s1 := by
    intro p hp
    cases p
    case media => simp at hp
    all_goals rfl
  exact ⟨congrArg (·.egress) (h1 .media (by decide)), (h0.mono rfl).trans (h1.mono rfl)⟩

/-- The media links that come up report the groups of both address families. -/
theorem raiseLink_of_enabled {port : Nat} (hp : port < 4) (he : getReg s (portIndex port) 0x01 = 1) :
    raiseLink s port = (let u := setReg s (portIndex port) 0x02 2
      { u with out := u.out ++ [false, true].filterMap fun v6 => groupReport u port (joinedGroups u port v6).eraseDups }) := by
  unfold raiseLink
  rw [if_pos ⟨hp, he⟩]
  extract_lets u
  have hstep : ∀ (l : List Emission) (v6 : Bool), groupReport { u with out := l } port (joinedGroups { u with out := l } port v6).eraseDups =
      groupReport u port (joinedGroups u port v6).eraseDups := fun _ _ => rfl
  rw [List.foldl_cons, List.foldl_cons, List.foldl_nil]
  cases h1 : groupReport u port (joinedGroups u port false).eraseDups with
  | none =>
    cases h2 : groupReport u port (joinedGroups u port true).eraseDups with
    | none => simp [h1, h2]
    | some e2 => simp [h1, h2, emit]
  | some e1 =>
    have hnext := hstep (u.out ++ [e1]) true
    cases h2 : groupReport u port (joinedGroups u port true).eraseDups with
    | none =>
      rw [h2] at hnext
      simp [h1, h2, emit, hnext]
    | some e2 =>
      rw [h2] at hnext
      simp [h1, h2, emit, hnext]

section
variable (hs : inService s = true) (port : Nat) (fr : PortFrame)
include hs

theorem exec_icmpEcho (src dst i q : Nat) (d : List Byte) : exec (.icmpEcho ⟨port, fr⟩ src dst i q d) s = .next (portAnswers s port false fr
    (if ((portV4 s port).map mapped ++ portV6 s port).contains dst then some (.echoReply port (egressTag s port) src i q d) else none)) :=
  whenService_of_inService hs fun s => portAnswers s port false fr
    (if ((portV4 s port).map mapped ++ portV6 s port).contains dst then some (.echoReply port (egressTag s port) src i q d) else none)

theorem exec_arpRequest (target sender mac : Nat) : exec (.arpRequest ⟨port, fr⟩ target sender mac) s = .next (portAnswers s port false fr
    (if (portV4 s port).contains target then some (.arpReply port (egressTag s port) sender mac (portMac s port)) else none)) :=
  whenService_of_inService hs fun s => portAnswers s port false fr
    (if (portV4 s port).contains target then some (.arpReply port (egressTag s port) sender mac (portMac s port)) else none)

theorem exec_neighbourDiscovery (target sender mac : Nat) : exec (.neighbourDiscovery ⟨port, fr⟩ target sender mac) s =
    .next (portAnswers s port false fr
      (if (portV6 s port).contains target then some (.neighbourAdvert port (egressTag s port) sender mac (portMac s port)) else none)) :=
  whenService_of_inService hs fun s => portAnswers s port false fr
    (if (portV6 s port).contains target then some (.neighbourAdvert port (egressTag s port) sender mac (portMac s port)) else none)

theorem exec_multicastQuery (g : Nat) (v6 : Bool) : exec (.multicastQuery ⟨port, fr⟩ g v6) s = .next (portAnswers s port v6 fr
    (groupReport s port ((joinedGroups s port v6).filter fun x => g == 0 || x.1 == g).eraseDups)) :=
  whenService_of_inService hs fun s => queryGroups s port fr g v6

end

/-! ### The obligation -/

/-- Settles O23. -/
theorem mediaPorts : Obligations.MediaPorts := by
  unfold Obligations.MediaPorts
  refine ⟨⟨fun s port fr src dst i q d hs hu hk => ?_, fun s port fr target sender mac hs hu hk => ⟨?_, ?_⟩, fun s port fr g v6 hs hu hk => ?_,
    fun s port fr a b c d bs hs hu hk => ⟨?_, ?_, ?_, ?_⟩, fun s port fr a b c d bs v6 hs hu => ⟨?_, ?_, ?_, ?_⟩⟩,
    fun s port hs hu => ?_, fun s port hs hp he => ?_⟩
  · rw [exec_icmpEcho hs, portAnswers_of_kept hu hk, toList_ite]
  · rw [exec_arpRequest hs, portAnswers_of_kept hu hk, toList_ite]
    simp only [mem_portV4]
  · rw [exec_neighbourDiscovery hs, portAnswers_of_kept hu hk, toList_ite]
    simp only [List.contains_iff_mem]
  · rw [exec_multicastQuery hs, portAnswers_of_kept hu hk, toList_groupReport]
  · rw [exec_icmpEcho hs, portAnswers_of_dropped hu hk]
  · rw [exec_arpRequest hs, portAnswers_of_dropped hu hk]
  · rw [exec_neighbourDiscovery hs, portAnswers_of_dropped hu hk]
  · rw [exec_multicastQuery hs, portAnswers_of_dropped hu hk]
  · rw [exec_icmpEcho hs, portAnswers_of_down hu]
  · rw [exec_arpRequest hs, portAnswers_of_down hu]
  · rw [exec_neighbourDiscovery hs, portAnswers_of_down hu]
  · rw [exec_multicastQuery hs, portAnswers_of_down hu]
  · have heq : faultPort s port = silencePort (logFault (setReg s (portIndex port) 0x02 0) 0x0080 0 6 port 0xFFFF 0) port := if_neg (by simp [hu])
    obtain ⟨hmedia, hkept⟩ := silencePort_spec (logFault (setReg s (portIndex port) 0x02 0) 0x0080 0 6 port 0xFFFF 0) port
    have hegress : (silencePort (logFault (setReg s (portIndex port) 0x02 0) 0x0080 0 6 port 0xFFFF 0) port).media.egress =
        s.media.egress.filter fun p => p.port != port := by
      rw [hmedia, logFault_keeps _ _ _ _ _ _ _ .media (by decide)]
      rfl
    have hp : port < 4 := by
      simp only [portUp, Bool.and_eq_true, decide_eq_true_eq] at hu
      exact hu.1.1
    obtain ⟨kept, hlog⟩ := logFault_log (setReg s (portIndex port) 0x02 0) 0x0080 0 6 port 0xFFFF 0
    obtain ⟨log, msix, hctl, hdue, -⟩ := logFault_ctl (setReg s (portIndex port) 0x02 0) 0x0080 0 6 port 0xFFFF 0
    refine ⟨faultPort s port, whenService_of_inService hs fun s => faultPort s port, ?_, fun p hm => ?_, fun p hm hn => ?_, ?_, ?_,
      .of_kept (faultPort_keeps s port) (by decide)⟩
    · rw [heq, getReg_congr (hkept .dict (by decide)), getReg_logFault (by decide) (by unfold portIndex; omega), getReg_setReg_same]
    · rw [heq, hegress] at hm
      simpa using (List.mem_filter.mp hm).2
    · rw [heq, hegress]
      exact List.mem_filter.mpr ⟨hm, by simp [hn]⟩
    · rw [heq, hkept .ctl (by decide), hlog]
      exact ⟨_, List.mem_concat_self, rfl, rfl, rfl, rfl⟩
    · rw [heq, hkept .ctl (by decide), hctl]
      exact hdue
  · exact (whenService_of_inService hs fun s => raiseLink s port).trans (congrArg _ (raiseLink_of_enabled hp he))

end Sys2Proof.Machine
end
section
/-! Taking packets for a frame (O22): the statement fails where the table of contexts is not in the order of its keys. -/
namespace Sys2Proof.Machine
open Sys2Proof

/-- A running context 3 with one complete frame of 10 bytes in the stream store and one frame that arrives, behind context 5 in a table that is
not in the order of its keys. The store holds 16 bytes. -/
def unorderedCtxs : State :=
  { dict := { regs := [(objKey 0x6000 0x01, 16), (objKey 0x8003 0x02, 3), (objKey 0x8003 0x06, 1), (objKey 0x8003 0x07, 1)] }
    clk := { now := 10 ^ 12 }
    ctl := { phase := .service, inCharge := some 0 }
    ctxs := [(5, {}), (3, { inputs := [{ j := 0, bytes := List.replicate 10 0, complete := true }, { j := 1, bytes := [], complete := false }]
                            nextIn := 2 })] }

/-- The frame that arrives. -/
def lateFrame : InFrame := { j := 1, bytes := [], complete := false }

/-- The frame's 6 bytes fit the store: 10 of its 16 are lent. -/
theorem storeRoom_unorderedCtxs : storeRoom unorderedCtxs 3 (frameBits unorderedCtxs 3 lateFrame).length = true := by decide

/-- Writing context 3 puts it before context 5, and leaves its old entry behind: the bytes it has on loan count twice, and the frame has no room. -/
theorem lateFrame_waits : ((ctxOf (timeoutInput unorderedCtxs 3) 3).inputs.all fun g => g.j != 1 || g.waits) = true := by decide

theorem exec_inputFrameTimeout {s : State} (hs : controlled s = true) (k : Nat) : exec (.inputFrameTimeout k) s = .next (timeoutInput s k) :=
  whenControlled_of_controlled hs fun s => timeoutInput s k

/-- Refutes O22: with the contexts out of order in their table, the frame that completes has room in the stream store as the statement asks for,
but not once its context has been written, so it waits and is not accepted. -/
theorem not_ingress : ¬ Obligations.Ingress := by
  unfold Obligations.Ingress
  rintro ⟨-, hcomplete, -⟩
  obtain ⟨t, ht, ⟨g, hg, hj, -, hw, -⟩, -⟩ := hcomplete unorderedCtxs 3 lateFrame (.inputFrameTimeout 3) (by decide) (by decide) (by decide) (by decide)
    (.inr ⟨rfl, by decide⟩) (by decide) (by decide) storeRoom_unorderedCtxs
  rw [exec_inputFrameTimeout (by decide)] at ht
  obtain rfl := Host.Outcome.next.inj ht
  have hall := List.all_eq_true.mp lateFrame_waits g hg
  have hj1 : g.j = 1 := hj
  simp [hj1, hw] at hall

end Sys2Proof.Machine
end
section
/-! What a pass of the service loop leaves (O3): no operation takes an emission back, nor a vector that is due. -/
namespace Sys2Proof.Machine
open Sys2Proof

/-- From one state to a later one: what has left the part stands, and what was due is due. -/
structure Grows (s t : State) : Prop where
  out : ∃ more, t.out = s.out ++ more
  due : ∀ v, v ∈ s.ctl.msix → v ∈ t.ctl.msix

variable {s t u : State}

namespace Grows

theorem refl (s : State) : Grows s s := ⟨⟨[], (List.append_nil _).symm⟩, fun _ h => h⟩

theorem trans (h : Grows s t) (k : Grows t u) : Grows s u := by
  obtain ⟨a, ha⟩ := h.out
  obtain ⟨b, hb⟩ := k.out
  exact ⟨⟨a ++ b, by rw [hb, ha, List.append_assoc]⟩, fun v hv => k.due v (h.due v hv)⟩

theorem same (h : Grows s t) (ho : u.out = t.out) (hc : u.ctl = t.ctl) : Grows s u :=
  h.trans ⟨⟨[], by rw [ho, List.append_nil]⟩, fun _ hv => hc ▸ hv⟩

theorem kept {ps : List Sys2Proof.Part} (h : Grows s t) (k : Kept ps t u) (hp : (ps.contains .out || ps.contains .ctl) = false := by rfl) :
    Grows s u := by
  rw [Bool.or_eq_false_iff] at hp
  exact h.same (k .out (by simpa using hp.1)) (k .ctl (by simpa using hp.2))

theorem ite {c : Prop} [Decidable c] (h : Grows s t) (k : Grows s u) : Grows s (if c then t else u) := by split <;> assumption

theorem foldl {α : Type} {f : State → α → State} (hf : ∀ t a, Grows s t → Grows s (f t a)) (l : List α) (h : Grows s t) : Grows s (l.foldl f t) := by
  induction l generalizing t with
  | nil => exact h
  | cons a l ih => exact ih (hf t a h)

theorem emit (h : Grows s t) (e : Emission) : Grows s (emit t e) := h.trans ⟨⟨[e], rfl⟩, fun _ hv => hv⟩

theorem raiseVector (h : Grows s t) (v : Nat) : Grows s (raiseVector t v) := by
  obtain ⟨msix, hc, -, hk⟩ := raiseVector_ctl t v
  exact h.trans ⟨⟨[], by rw [raiseVector_keeps t v .out (by decide), List.append_nil]⟩, fun x hx => by rw [hc]; exact hk x hx⟩

theorem logFault (h : Grows s t) (code severity kind unit ctx detail : Nat) : Grows s (logFault t code severity kind unit ctx detail) := by
  obtain ⟨log, msix, hc, -, hk⟩ := logFault_ctl t code severity kind unit ctx detail
  exact h.trans ⟨⟨[], by rw [logFault_keeps t _ _ _ _ _ _ .out (by decide), List.append_nil]⟩, fun x hx => by rw [hc]; exact hk x hx⟩

theorem toMirror (h : Grows s t) (i : MirrorItem) : Grows s (toMirror t i) := by
  obtain ⟨more, ho, -⟩ := toMirror_out t i
  exact h.trans ⟨⟨more, ho⟩, fun v hv => by rw [toMirror_ctl]; exact hv⟩

end Grows

/-! ### Frames, flows and messages -/

theorem settleFrame_grows (h : Grows s t) (k j : Nat) : Grows s (settleFrame t k j) := by
  obtain ⟨more, ho, -⟩ := settleFrame_out t k j
  exact h.trans ⟨⟨more, ho⟩, fun v hv => by rw [settleFrame_keeps t k j .ctl (by decide)]; exact hv⟩

theorem pumpLink_grows (i n : Nat) (h : Grows s t) : Grows s (pumpLink i n t) := by
  induction n generalizing t with
  | zero => exact h
  | succ n ih =>
    unfold pumpLink
    extract_lets l
    split
    · exact h
    · extract_lets g turn s1
      have h1 : Grows s s1 := h.kept (putLink_keeps t i _)
      exact ih ((h1.kept (addReg_keeps s1 _ _ _)).emit _)

theorem sendMessage_grows (h : Grows s t) (peer flow : Nat) (data : List Byte) : Grows s (sendMessage t peer flow data).1 := by
  unfold sendMessage sendKept
  extract_lets n rest k f s1 me
  have h1 : Grows s s1 := h.same rfl rfl
  split
  · exact h1.emit _
  · next i _ =>
    extract_lets s2
    have h2 : Grows s s2 := (h1.emit _).kept (pinFlow_keeps _ _ _ _ _)
    exact .foldl (fun u f hu => pumpLink_grows i _ (hu.kept (putLink_keeps u i _))) _ h2

theorem noteDelivered_grows (h : Grows s t) (f r : Nat) (e : FrameEntry) : Grows s (noteDelivered t f r e) := by
  unfold noteDelivered
  exact Grows.ite (((h.kept (clearFlowBit_keeps t _ _ _)).logFault ..).raiseVector 51) h

theorem deliverHeld_grows (h : Grows s t) (f : Nat) (o : HeldOutput) : Grows s (deliverHeld t f o) := by
  unfold deliverHeld
  split
  · split
    · exact h
    · dsimp only
      split
      · exact noteDelivered_grows ((sendMessage_grows h _ _ _).kept (putFlow_keeps _ _ _)) _ _ _
      · refine Grows.ite (noteDelivered_grows (Grows.kept ?_ (putFlow_keeps _ _ _)) _ _ _) h
        exact ((h.kept (sringWrite_keeps t _ _ _)).kept (putSring_keeps _ _ _)).raiseVector _
  · exact h

theorem deliverFlow_grows (h : Grows s t) (f : Nat) : Grows s (deliverFlow t f) := by
  unfold deliverFlow
  refine .foldl (fun u o hu => ?_) _ h
  split
  · exact (deliverHeld_grows hu _ _).ite hu
  · exact hu

theorem putRecord_grows (h : Grows s t) (r pos : Nat) (c : Completion) : Grows s (putRecord t r pos c) :=
  ((h.kept (hostWrite_keeps t _ _)).kept (hostWrite_keeps _ _ _)).raiseVector r

theorem postReports_grows (h : Grows s t) : Grows s (postReports t) := by
  unfold postReports
  refine h.ite (.foldl (fun u e hu => .foldl (fun v m hv => ?_) _ hu) _ h)
  exact settleFrame_grows ((putRecord_grows hv _ _ _).kept (clearWait_keeps _ _ _ _)) _ _

/-! ### The stream rings -/

theorem ackHeld_grows (h : Grows s t) (f : Nat) (o : HeldOutput) : Grows s (ackHeld t f o) := by
  unfold ackHeld
  exact settleFrame_grows ((h.kept (putFlow_keeps t f _)).kept (clearWait_keeps _ _ _ _)) _ _

theorem passOutput_grows (h : Grows s t) (r : Nat) : Grows s (passOutput t r) := by
  unfold passOutput
  extract_lets n x s1
  have h1 : Grows s s1 := h.kept (putSring_keeps t r _)
  exact .foldl (fun u f hu => .foldl (fun v o hv => ackHeld_grows hv f.1 o) _ hu) _ h1

theorem acceptInput_grows (h : Grows s t) (k : Nat) (bytes : List Byte) (stamp : Nat) (loss repeated : Bool) :
    Grows s (acceptInput t k bytes stamp loss repeated) := by
  unfold acceptInput
  extract_lets c j f s1
  have h1 : Grows s s1 := h.kept (putCtx_keeps t k _)
  exact (h.kept (addReg_keeps t _ _ _)).ite (((h1.same rfl rfl : Grows s (acceptFrame s1 k j)).toMirror _).toMirror _)

theorem takeSlots_grows (n : Nat) (h : Grows s t) (r k : Nat) : Grows s (takeSlots n t r k) := by
  induction n generalizing t with
  | zero => exact h
  | succ n ih =>
    unfold takeSlots
    split
    · split
      · next u hu =>
        refine ih ?_
        unfold takeSlot at hu
        extract_lets x slot bs data s1 at hu
        have h1 : Grows s s1 := h.kept (putSring_keeps t r _)
        split at hu
        · rw [← Option.some.inj hu]
          exact h1.kept (addReg_keeps s1 _ _ _)
        · split at hu
          · cases hu
          · rw [← Option.some.inj hu]
            exact (acceptInput_grows h1 _ _ _ _ _).kept (stopWaiting_keeps _ _ _)
      · exact h.kept (waitPool_keeps t k 2)
    · exact h

theorem passInput_grows (h : Grows s t) (r k : Nat) : Grows s (passInput t r k) := by
  unfold passInput
  extract_lets was s1
  have h1 : Grows s s1 := takeSlots_grows _ h r k
  exact h1.ite ((h1.kept (hostWrite_keeps s1 _ _)).raiseVector _)

theorem passSring_grows (failed : List Nat) (h : Grows s t) (r : Nat) : Grows s (passSring failed t r) := by
  unfold passSring
  refine h.ite ((h.logFault ..).ite ((passOutput_grows h r).ite ?_))
  split
  · exact passInput_grows h r _
  · exact h

/-! ### The job rings -/

theorem finishJob_grows (h : Grows s t) (e : JobEntry) : Grows s (finishJob t e) := by
  unfold finishJob
  extract_lets st c f s1 s2 s3 s4 s5
  have h1 : Grows s s1 := (h.kept (addReg_keeps t _ _ _)).ite h
  have h2 : Grows s s2 := by
    show Grows s (countLost s1 _ _ _)
    unfold countLost
    exact ((h1.kept (addReg_keeps s1 _ _ _)).logFault ..).ite h1
  have h3 : Grows s s3 := (h2.kept (addReg_keeps s2 _ _ _)).ite h2
  have h4 : Grows s s4 := ((h3.kept (addReg_keeps s3 _ _ _)).kept (addReg_keeps _ _ _ _)).ite h3
  have h5 : Grows s s5 := Grows.ite (.foldl (fun u w hu => hu.kept (Kept.mem u _)) _ h4) h4
  exact Grows.toMirror (t := putJob s5 { f with state := 3 }) (h5.same rfl rfl) _

theorem takeJob_grows (h : Grows s t) (r : Nat) : Grows s (takeJob t r) := by
  unfold takeJob
  extract_lets x p seq at' j bad e s1 s2 s3
  have h1 : Grows s s1 := (h.kept (putRing_keeps t r _)).kept (setReg_keeps _ _ _ _)
  have h2 : Grows s s2 := h1.same rfl rfl
  have h3 : Grows s s3 := by
    show Grows s (mirrorJob s2 e)
    unfold mirrorJob
    exact Grows.toMirror ((h2.toMirror _).ite h2) _
  exact (finishJob_grows h2 e).ite ((finishJob_grows h3 e).ite h3)

theorem takeJobs_grows (n : Nat) (h : Grows s t) (r top : Nat) : Grows s (takeJobs n t r top) := by
  induction n generalizing t with
  | zero => exact h
  | succ n ih =>
    unfold takeJobs
    exact (ih (takeJob_grows h r)).ite h

theorem showIndex_grows (h : Grows s t) (r : Nat) : Grows s (showIndex t r) := by
  unfold showIndex
  exact ((h.kept (hostWrite_keeps t _ _)).kept (putRing_keeps _ _ _)).ite h

theorem passRing_grows (failed : List Nat) (h : Grows s t) (r : Nat) : Grows s (passRing failed t r) := by
  unfold passRing
  extract_lets x y s1 top
  have h1 : Grows s s1 := (h.kept (putRing_keeps t r y)).same rfl rfl
  exact h.ite ((h.logFault ..).ite (showIndex_grows (takeJobs_grows _ h1 r _) r))

/-! ### The obligation -/

/-- A pass with DMA possible ends with the vectors sent, after all that it has emitted before. -/
theorem servicePass_of_dma (hd : dmaOk s = true) (failed : List Nat) : ∃ t, servicePass s failed = sendVectors t ∧ Grows s t := by
  unfold servicePass
  rw [if_neg (by simp [hd])]
  extract_lets s1 s2
  have h1 : Grows s s1 := (Grows.refl s).ite (.foldl (fun _ r h => passRing_grows failed h r) _ (.refl s))
  have h2 : Grows s s2 := h1.ite (.foldl (fun _ r h => passSring_grows failed h r) _ h1)
  exact ⟨_, rfl, postReports_grows (.foldl (fun _ f h => deliverFlow_grows h f) _ h2)⟩

theorem exec_serviceLoopPass (hs : controlled s = true) (ws : List (Nat × Byte)) (failed : List Nat) :
    exec (.serviceLoopPass ws failed) s = .next (servicePass (hostWrites s ws) failed) :=
  whenControlled_of_controlled (s := hostWrites s ws) hs fun s => servicePass s failed

/-- Settles O3. -/
theorem serviceLoop : Obligations.ServiceLoop := by
  unfold Obligations.ServiceLoop
  refine ⟨fun s ws failed hs hd => ?_, fun s ws failed hs hd hl => ?_, fun s ws failed hs hl => ?_⟩
  · obtain ⟨t, ht, hg⟩ := servicePass_of_dma (s := hostWrites s ws) hd failed
    obtain ⟨more, hout⟩ := hg.out
    refine ⟨_, exec_serviceLoopPass hs ws failed, ?_⟩
    have hkeeps : Kept servicePassParts s (servicePass (hostWrites s ws) failed) :=
      ((hostWrites_keeps s ws).mono rfl).trans (servicePass_keeps _ failed)
    refine ⟨by rw [ht]; rfl, fun v hv => ?_, ⟨more ++ t.ctl.msix.map Emission.msix, ?_⟩, .of_kept hkeeps (by decide)⟩
    · rw [ht]
      exact List.mem_append_right _ (List.mem_map.mpr ⟨v, hg.due v hv, rfl⟩)
    · rw [ht, ← List.append_assoc]
      exact congrArg (· ++ t.ctl.msix.map Emission.msix) hout
  · rw [exec_serviceLoopPass hs]
    have hw : dmaOk (hostWrites s ws) = false := hd
    have hup : (hostWrites s ws).ctl.linkUp = true := hl
    unfold servicePass
    rw [if_pos (by simp [hw]), if_pos hup]
    rfl
  · rw [exec_serviceLoopPass hs]
    unfold servicePass
    rw [if_pos (by simp [dmaOk, hostWrites, hl]), if_neg (by simp [hostWrites, hl])]
    rfl

end Sys2Proof.Machine
end
section
/-! Peer copies, their acknowledgements and the mirror store (O11). -/
namespace Sys2Proof.Machine
open Sys2Proof

variable {s t u : State}

/-! ### What a message's sending changes -/

/-- Every entry but the transmit counts of the links reads as before. -/
structure LinkCounts (s t : State) : Prop where
  reads : ∀ i j, j < 256 → (∀ l, (i, j) ≠ (linkIndex l, 0x07)) → getReg t i j = getReg s i j

theorem LinkCounts.refl (s : State) : LinkCounts s s := ⟨fun _ _ _ _ => rfl⟩

theorem LinkCounts.congr (h : LinkCounts s t) (hd : u.dict = t.dict) : LinkCounts s u :=
  ⟨fun i j hj hn => (getReg_congr hd i j).trans (h.reads i j hj hn)⟩

theorem LinkCounts.addReg (h : LinkCounts s t) (l n : Nat) : LinkCounts s (addReg t (linkIndex l) 0x07 n) := by
  refine ⟨fun i j hj hn => (getReg_addReg_ne t n ?_).trans (h.reads i j hj hn)⟩
  intro he
  refine hn l ?_
  unfold objKey at he
  exact Prod.ext (by omega) (by omega)

theorem pumpLink_counts (i n : Nat) (h : LinkCounts s t) : LinkCounts s (pumpLink i n t) := by
  induction n generalizing t with
  | zero => exact h
  | succ n ih =>
    unfold pumpLink
    extract_lets l
    split
    · exact h
    · extract_lets g turn t1
      have h1 : LinkCounts s t1 := h.congr rfl
      exact ih ((h1.addReg i 1).congr rfl)

theorem pumpLink_toMirror (i n : Nat) (s : State) : (pumpLink i n s).fabric.toMirror = s.fabric.toMirror := by
  induction n generalizing s with
  | zero => rfl
  | succ n ih =>
    unfold pumpLink
    extract_lets l
    split
    · rfl
    · extract_lets g turn t1
      have h1 : t1.fabric.toMirror = s.fabric.toMirror := rfl
      rw [ih, ← h1]
      exact congrArg (·.toMirror) (addReg_keeps t1 _ _ _ .fabric (by decide))

theorem sendKept_counts (h : LinkCounts s t) (k : KeptMsg) : LinkCounts s (sendKept t k) := by
  unfold sendKept
  extract_lets me
  split
  · exact h
  · next i _ =>
    extract_lets t1
    have h1 : LinkCounts s t1 := h.congr rfl
    clear_value t1
    refine List.foldlRecOn _ _ h1 fun u hu f _ => ?_
    exact pumpLink_counts i _ (hu.congr rfl)

theorem sendKept_toMirror (s : State) (k : KeptMsg) : (sendKept s k).fabric.toMirror = s.fabric.toMirror := by
  unfold sendKept
  extract_lets me
  split
  · rfl
  · next i _ =>
    extract_lets t1
    have h1 : t1.fabric.toMirror = s.fabric.toMirror := rfl
    clear_value t1
    refine List.foldlRecOn (motive := fun u : State => u.fabric.toMirror = s.fabric.toMirror) _ _ h1 fun u hu f _ => ?_
    exact (pumpLink_toMirror i _ _).trans hu

theorem sendKept_grows (h : Grows s t) (k : KeptMsg) : Grows s (sendKept t k) := by
  unfold sendKept
  extract_lets me
  split
  · exact h
  · next i _ =>
    extract_lets t1
    have h1 : Grows s t1 := h.kept (pinFlow_keeps _ _ _ _ _)
    exact .foldl (fun u f hu => pumpLink_grows i _ (hu.kept (putLink_keeps u i _))) _ h1

theorem sendMessage_counts (h : LinkCounts s t) (peer flow : Nat) (data : List Byte) : LinkCounts s (sendMessage t peer flow data).1 := by
  unfold sendMessage
  extract_lets n rest k f t1
  have h1 : LinkCounts s t1 := h.congr rfl
  have h2 : LinkCounts s (emit t1 (.fabricMessage peer flow n data)) := h1.congr rfl
  exact sendKept_counts h2 k

theorem sendMessage_toMirror (s : State) (peer flow : Nat) (data : List Byte) : (sendMessage s peer flow data).1.fabric.toMirror = s.fabric.toMirror :=
  sendKept_toMirror _ _

/-- The message a sending numbers leaves the part. -/
theorem sendMessage_emits (s : State) (peer flow : Nat) (data : List Byte) :
    Emission.fabricMessage peer flow (sendMessage s peer flow data).2 data ∈ (sendMessage s peer flow data).1.out := by
  unfold sendMessage
  extract_lets n rest k f s1
  obtain ⟨more, ho⟩ := (sendKept_grows (.refl (emit s1 (.fabricMessage peer flow n data))) k).out
  rw [ho]
  exact List.mem_append_left _ (List.mem_append_right _ List.mem_cons_self)

/-! ### Peer copies -/

theorem copyMessages_counts (h : LinkCounts s t) (peer remote fuel at' n : Nat) : LinkCounts s (copyMessages t peer remote fuel at' n).1 := by
  induction fuel generalizing t remote at' n with
  | zero => exact h
  | succ fuel ih =>
    unfold copyMessages
    split
    · exact h
    · exact ih (sendMessage_counts h ..) ..

theorem copyMessages_ne_nil (s : State) (peer remote fuel at' : Nat) {n : Nat} (hn : n ≠ 0) :
    (copyMessages s peer remote (fuel + 1) at' n).2 ≠ [] := by
  unfold copyMessages
  rw [if_neg hn]
  exact List.cons_ne_nil _ _

/-- A range of at most 16 MiB less 8 is one message. -/
theorem copyMessages_one (s : State) (peer remote fuel at' : Nat) {n : Nat} (hn : n ≠ 0) (hle : n ≤ 16777208) :
    copyMessages s peer remote (fuel + 1) at' n = ((sendMessage s peer 5 (leBytes 8 remote ++ s.mem.read at' n)).1,
      [(sendMessage s peer 5 (leBytes 8 remote ++ s.mem.read at' n)).2]) := by
  unfold copyMessages
  rw [if_neg hn]
  have hk : Nat.min n 16777208 = n := Nat.min_eq_left hle
  simp only [hk, Nat.sub_self]
  cases fuel with
  | zero => rfl
  | succ fuel =>
    unfold copyMessages
    rfl

/-- The state of a copy that is accepted: its messages are sent and pending. -/
def copyStarted (msgs : State × List Nat) : State :=
  setReg { msgs.1 with fabric := { msgs.1.fabric with copyMsgs := msgs.2 } } 0x4100 0x0F stPending

theorem startCopy_eq (hp : getReg s 0x4100 0x0F ≠ 1) (hn : getReg s 0x4100 0x0D ≠ 0) (ho : getReg s 0x4100 0x0A ≠ ownAddress s)
    (hr : reachable s (getReg s 0x4100 0x0A) = true) (ha : inHostAlloc s (getReg s 0x4100 0x0C) (getReg s 0x4100 0x0D) = true)
    (ht : getReg s 0x4100 0x0B + getReg s 0x4100 0x0D ≤ 1650000000000) :
    startCopy s = copyStarted (copyMessages s (getReg s 0x4100 0x0A) (getReg s 0x4100 0x0B) (getReg s 0x4100 0x0D / 16777208 + 1)
      (getReg s 0x4100 0x0C) (getReg s 0x4100 0x0D)) := by
  unfold startCopy
  have htop : ¬ getReg s 0x4100 0x0B + getReg s 0x4100 0x0D > allocTop := by unfold allocTop; omega
  rw [if_neg (show ¬ getReg s 0x4100 0x0F = stPending from hp)]
  rw [if_neg hn, if_neg (by simp [ho, hr]), if_neg (by simp [ha, htop])]
  rfl

theorem copyStarted_regs (m : State × List Nat) (h : LinkCounts s m.1) (i j : Nat) (hj : j < 256) (hn : (i, j) ≠ (0x4100, 0x0F))
    (hl : ∀ l, (i, j) ≠ (linkIndex l, 0x07)) : getReg (copyStarted m) i j = getReg s i j := by
  unfold copyStarted
  rw [getReg_setReg _ _ _ _ _ _ (by decide) hj, if_neg]
  · exact h.reads i j hj hl
  · rintro ⟨rfl, rfl⟩
    exact hn rfl

theorem receiveCopy_eq {sender a : Nat} {bs : List Byte} (hp : getReg s 0x1100 0x0A ≠ 0) (ha : inHostAlloc s a bs.length = true) :
    receiveCopy s sender a bs = ackTo { s with mem := s.mem.write a bs } sender 5 := by
  unfold receiveCopy
  rw [if_neg (by simp [hp, ha])]

theorem memory_write_bytesBut (m : Memory) (a : Nat) (bs : List Byte) : BytesBut a bs.length m (m.write a bs) := by
  intro x hx
  exact Memory.get_write_out _ _ _ (by simpa using hx)

theorem endCopy_eq (hp : getReg s 0x4100 0x0F = 1) (he : s.fabric.copyMsgs = []) : endCopy s = setReg s 0x4100 0x0F 0 := by
  unfold endCopy
  rw [if_pos ⟨hp, he⟩]
  rfl

/-! ### Acknowledgements -/

/-- The state in which the message that an acknowledgement names is no longer kept. -/
def unkept (s : State) (peer flow msg : Nat) : State :=
  { s with fabric := { s.fabric with kept := s.fabric.kept.filter fun k => !(k.peer == peer && k.flow == flow && k.msg == msg) } }

theorem ackMessage_other {peer flow msg : Nat} (h4 : flow ≠ 4) (h5 : flow ≠ 5) (hf : flow < 0x1000) : ackMessage s peer flow msg = unkept s peer flow msg := by
  unfold ackMessage
  dsimp only
  rw [if_neg h4, if_neg h5, if_neg (by omega)]
  rfl

theorem ackMirror_entry {i : MirrorItem} {r : List MirrorItem} (ht : s.fabric.toMirror = i :: r) (hr : r ≠ [])
    (hi : ∀ k j c, i ≠ .entry (.frame k j) 3 c) : ackMirror s = { s with fabric := { s.fabric with toMirror := r, mirrorGap := 0 } } := by
  unfold ackMirror
  rw [ht]
  dsimp only
  rw [if_neg (fun h => hr h.1)]
  split
  · next k j c => exact absurd rfl (hi k j c)
  · rfl

theorem ackMessage_egress (f peer msg : Nat) : ackMessage s peer (0x1000 + f) msg =
    ((flowOf s f).held.filter fun h => h.sent && h.msg == msg && ((nget (flowOf s f).recs h.receiver).any fun b =>
      recvKind b == 2 && recvTarget b == peer)).foldl (fun s h => ackHeld s f h) (unkept s peer (0x1000 + f) msg) := by
  unfold ackMessage
  dsimp only
  rw [if_neg (by omega), if_neg (by omega), if_pos (by omega), Nat.add_sub_cancel_left]
  rfl

/-! ### The mirror -/

/-- What releasing held outputs leaves: the entries below the egress flows' objects, the links' counts apart, and the items the mirror has yet to
acknowledge. -/
structure Released (s t : State) : Prop where
  low : ∀ i j, i < 0xC000 → j < 256 → j ≠ 0x07 → getReg t i j = getReg s i j
  items : t.fabric.toMirror = s.fabric.toMirror

namespace Released

theorem refl (s : State) : Released s s := ⟨fun _ _ _ _ _ => rfl, rfl⟩

theorem trans (h : Released s t) (k : Released t u) : Released s u :=
  ⟨fun i j hi hj hn => (k.low i j hi hj hn).trans (h.low i j hi hj hn), k.items.trans h.items⟩

theorem kept {ps : List Sys2Proof.Part} (h : Released s t) (k : Kept ps t u) (hp : (ps.contains .dict || ps.contains .fabric) = false := by rfl) :
    Released s u := by
  rw [Bool.or_eq_false_iff] at hp
  exact h.trans ⟨fun i j _ _ _ => getReg_congr (k .dict (by simpa using hp.1)) i j, congrArg (·.toMirror) (k .fabric (by simpa using hp.2))⟩

theorem setReg (h : Released s t) {i j v : Nat} (hi : 0xC000 ≤ i) : Released s (setReg t i j v) :=
  h.trans ⟨fun i' j' hi' hj' _ => getReg_setReg_ne t v (by unfold objKey; omega), rfl⟩

theorem addReg (h : Released s t) {i j n : Nat} (hi : 0xC000 ≤ i) : Released s (addReg t i j n) := by
  unfold Machine.addReg
  split
  · exact h.setReg hi
  · exact h

theorem ite {c : Prop} [Decidable c] (h : Released s t) (k : Released s u) : Released s (if c then t else u) := by split <;> assumption

theorem foldl {α : Type} {f : State → α → State} (hf : ∀ t a, Released s t → Released s (f t a)) (l : List α) (h : Released s t) :
    Released s (l.foldl f t) := List.foldlRecOn l f h fun t ht a _ => hf t a ht

theorem logFault (h : Released s t) (code severity kind unit ctx detail : Nat) : Released s (logFault t code severity kind unit ctx detail) := by
  refine h.trans ⟨fun i j hi hj _ => ?_, congrArg (·.toMirror) (logFault_keeps t _ _ _ _ _ _ .fabric (by decide))⟩
  refine (RegsBut.refl [(0xE000, 0x01), (0xE000, 0x05)] t).logFault (by simp) (by simp) _ _ _ _ _ _ i j hj ?_
  simp only [List.mem_cons, Prod.mk.injEq, List.not_mem_nil, or_false]
  omega

theorem raiseVector (h : Released s t) (v : Nat) : Released s (raiseVector t v) :=
  h.trans ⟨fun i j _ _ _ => getReg_congr (raiseVector_dict t v) i j, congrArg (·.toMirror) (raiseVector_keeps t v .fabric (by decide))⟩

end Released

theorem sendMessage_released (h : Released s t) (peer flow : Nat) (data : List Byte) : Released s (sendMessage t peer flow data).1 := by
  refine h.trans ⟨fun i j hi hj hn => ?_, sendMessage_toMirror t peer flow data⟩
  refine (sendMessage_counts (.refl t) peer flow data).reads i j hj fun l hl => hn (congrArg Prod.snd hl)

theorem noteDelivered_released (h : Released s t) (f r : Nat) (e : FrameEntry) : Released s (noteDelivered t f r e) := by
  unfold noteDelivered clearFlowBit
  have hi : 0xC000 ≤ flowIndex f := by unfold flowIndex; omega
  exact Released.ite (((h.setReg hi).logFault ..).raiseVector 51) h

theorem deliverHeld_released (h : Released s t) (f : Nat) (o : HeldOutput) : Released s (deliverHeld t f o) := by
  unfold deliverHeld
  split
  · split
    · exact h
    · dsimp only
      split
      · exact noteDelivered_released ((sendMessage_released h _ _ _).kept (putFlow_keeps _ _ _)) _ _ _
      · refine Released.ite (noteDelivered_released (Released.kept ?_ (putFlow_keeps _ _ _)) _ _ _) h
        exact ((h.kept (sringWrite_keeps t _ _ _)).kept (putSring_keeps _ _ _)).raiseVector _
  · exact h

theorem deliverFlow_released (h : Released s t) (f : Nat) : Released s (deliverFlow t f) := by
  unfold deliverFlow
  refine .foldl (fun u o hu => ?_) _ h
  split
  · exact (deliverHeld_released hu _ _).ite hu
  · exact hu

theorem resumeReceivers_released (h : Released s t) (f : Nat) (e : FrameEntry) : Released s (resumeReceivers t f e) := by
  unfold resumeReceivers setFlowBit clearFlowBit
  extract_lets x
  have hi : 0xC000 ≤ flowIndex f := by unfold flowIndex; omega
  refine Released.ite (Released.kept ?_ (putFlow_keeps _ _ _)) h
  exact .foldl (fun u r hu => (hu.setReg hi).setReg hi) _ h

theorem releaseFlow_released (h : Released s t) (e : FrameEntry) (f : Nat) : Released s (releaseFlow t e f) := by
  unfold releaseFlow
  extract_lets t1 x live held t2 t3
  have h1 : Released s t1 := resumeReceivers_released h f e
  have h2 : Released s t2 := .foldl (fun u r hu => hu.kept (addWait_keeps _ _ _ _)) _ h1
  have h3 : Released s t3 := (h2.addReg (by unfold flowIndex; omega)).ite h2
  exact deliverFlow_released (h3.kept (putFlow_keeps _ _ _)) f

theorem releaseOutput_released (h : Released s t) (k j : Nat) : Released s (releaseOutput t k j) := by
  unfold releaseOutput
  split
  · exact h.ite (.foldl (fun u f hu => releaseFlow_released hu _ f) _ h)
  · exact h

theorem unhold_released (h : Released s t) (k j m : Nat) : Released s (unhold t k j m) := by
  unfold unhold
  split
  · exact (releaseOutput_released (h.kept (clearWait_keeps t k j (m, 0))) k j).ite h
  · exact h

theorem dropMirror_spec (s : State) (st : Nat) : getReg (dropMirror s st) 0x4000 0x08 = st ∧ (dropMirror s st).fabric.toMirror = [] := by
  unfold dropMirror
  extract_lets f s1
  have h1 : getReg s1 0x4000 0x08 = st ∧ s1.fabric.toMirror = [] := ⟨getReg_setReg_same _ _ _ _, rfl⟩
  have h := Released.foldl (fun u (e : Nat × Nat) hu => unhold_released hu e.1 e.2 0xFFFC) (s1.frames.map fun f => (f.ctx, f.j)) (.refl s1)
  exact ⟨(h.low _ _ (by decide) (by decide) (by decide)).trans h1.1, h.items.trans h1.2⟩

theorem unprotectMirror_spec (hm : mirrorOn s = true) (hg : 8 ≤ s.fabric.mirrorGap) :
    getReg (unprotectMirror s) 0x4000 0x08 = 3 ∧ (unprotectMirror s).fabric.toMirror = [] ∧ (unprotectMirror s).fabric.resync = true := by
  unfold unprotectMirror
  rw [if_pos ⟨hm, hg⟩]
  extract_lets s1
  obtain ⟨hr, hi⟩ := dropMirror_spec s 3
  let s2 : State := { s1 with fabric := { s1.fabric with resync := true } }
  have h := Released.logFault (.refl s2) 0x0208 0 0 0 0xFFFF (getReg s1 0x4100 0x09)
  refine ⟨(h.low _ _ (by decide) (by decide) (by decide)).trans hr, h.items.trans hi, ?_⟩
  exact congrArg (·.resync) (logFault_keeps s2 0x0208 0 0 0 0xFFFF (getReg s1 0x4100 0x09) .fabric (by decide))

/-- What a message on the mirror's flow does. -/
def mirrorMessageOp (sender : Nat) (i : MirrorItem) (s : State) : State :=
  if getReg s 0x4000 0x08 = 4 ∧ sender = getReg s 0x4100 0x09 then ackTo (takeRestored s i) sender 4 else storeMirror s sender i

/-! ### The obligation -/

/-- Settles O11: a copy is its messages, each kept until it is acknowledged; the mirror's items go in and out of their lists one at a time. -/
theorem fabricMessages : Obligations.FabricMessages := by
  unfold Obligations.FabricMessages
  refine ⟨⟨?_, ?_, ?_⟩, ⟨?_, ?_, ?_, ?_⟩, ?_, ?_, ?_⟩
  · intro s hs hp hn ho hr ha ht
    refine ⟨_, whenControlled_of_controlled hs startCopy, ?_⟩
    have hkept := startCopy_keeps s
    rw [startCopy_eq hp hn ho hr ha ht] at hkept ⊢
    refine ⟨getReg_setReg_same _ _ _ _, copyMessages_ne_nil _ _ _ _ _ hn, fun hle => ?_, fun i j => ?_, hkept⟩
    · rw [copyMessages_one s _ _ _ _ hn hle]
      exact ⟨_, rfl, sendMessage_emits ..⟩
    · exact copyStarted_regs _ (copyMessages_counts (.refl s) ..) i j
  · intro s hs hp he
    exact (whenControlled_of_controlled hs endCopy).trans (congrArg Host.Outcome.next (endCopy_eq hp he))
  · intro s sender a bs hs hp ha hw
    refine ⟨_, whenControlled_of_controlled hs fun s => receiveCopy s sender a bs, ?_⟩
    have hkept := receiveCopy_keeps s sender a bs
    rw [receiveCopy_eq hp ha] at hkept ⊢
    exact ⟨Memory.read_write hw a bs, memory_write_bytesBut _ _ _, hkept, List.length_append⟩
  · intro s peer flow msg hs h4 h5 hf
    exact (whenService_of_inService hs fun s => ackMessage s peer flow msg).trans (congrArg Host.Outcome.next (ackMessage_other h4 h5 hf))
  · intro s msg hs peer
    refine (whenService_of_inService hs fun s => ackMessage s peer 5 msg).trans (congrArg Host.Outcome.next ?_)
    unfold ackMessage
    exact if_pos rfl
  · intro s msg i r hs ht hr hi peer
    refine (whenService_of_inService hs fun s => ackMessage s peer 4 msg).trans (congrArg Host.Outcome.next ?_)
    unfold ackMessage
    dsimp only
    rw [if_pos rfl]
    refine (if_pos (show peer = getReg s 0x4100 0x09 from rfl)).trans ?_
    exact ackMirror_entry (s := unkept s peer 4 msg) ht hr hi
  · intro s peer f msg h b hs hh hsent hmsg hb hk ht
    refine ⟨_, whenService_of_inService hs fun s => ackMessage s peer (0x1000 + f) msg, ?_⟩
    have hone : (flowOf s f).held.filter (fun h => h.sent && h.msg == msg && ((nget (flowOf s f).recs h.receiver).any fun b =>
        recvKind b == 2 && recvTarget b == peer)) = [h] := by
      rw [hh, List.filter_singleton]
      simp [hsent, hmsg, hb, hk, ht]
    have he : ackMessage s peer (0x1000 + f) msg = ackHeld (unkept s peer (0x1000 + f) msg) f h := by
      rw [ackMessage_egress, hone]
      rfl
    rw [he]
    refine ⟨?_, fun g hg => flowOf_ackHeld_ne _ h hg, ?_⟩
    · refine (flowOf_ackHeld_same _ f h).trans ?_
      have hu : (flowOf (unkept s peer (0x1000 + f) msg) f).held = [h] := hh
      rw [hu]
      simp
    · have hu : Kept [.fabric] s (unkept s peer (0x1000 + f) msg) := Kept.fabric s _
      exact (hu.mono (by decide)).trans ((ackHeld_keeps _ f h).mono (by decide))
  · intro s sender i hs h4 kept new hfit
    refine ⟨_, whenControlled_of_controlled hs (mirrorMessageOp sender i), ?_⟩
    have hkept := storeMirror_keeps s sender i
    rw [mirrorMessageOp, if_neg (fun h => h4 h.1)]
    unfold storeMirror at hkept ⊢
    rw [if_pos hfit] at hkept ⊢
    exact ⟨rfl, ⟨_, rfl⟩, hkept⟩
  · intro s w st c hs h4
    refine ⟨_, whenControlled_of_controlled hs (mirrorMessageOp (getReg s 0x4100 0x09) (.entry w st c)), ?_⟩
    rw [mirrorMessageOp, if_pos ⟨h4, rfl⟩]
    exact ⟨rfl, ⟨_, rfl⟩, ((Kept.fabric s { s.fabric with restored := s.fabric.restored ++ [.entry w st c] }).mono (by decide)).trans
      ((ackTo_keeps _ (getReg s 0x4100 0x09) 4).mono (by decide))⟩
  · intro s hs hm hg
    refine ⟨_, whenControlled_of_controlled hs unprotectMirror, ?_⟩
    obtain ⟨hr, hi, hz⟩ := unprotectMirror_spec hm hg
    exact ⟨hr, hi, hz, Same.of_kept (unprotectMirror_keeps s) (by decide)⟩

end Sys2Proof.Machine
end
section
/-! Hellos, the address map, floods, pins and tick offers (O26). -/
namespace Sys2Proof.Machine
open Sys2Proof

variable {s t u : State}

/-! ### What routing reads -/

/-- The entries of the links' objects read as before. -/
structure LinkRegs (s t : State) : Prop where
  reads : ∀ i j, i < 96 → j < 256 → getReg t (linkIndex i) j = getReg s (linkIndex i) j

theorem LinkRegs.of_regsBut {ps : List (Nat × Nat)} (h : RegsBut ps s t) (hp : (ps.all fun p => decide (p.1 ≤ 0x4100 ∨ 0x4160 < p.1)) = true := by decide) :
    LinkRegs s t := by
  refine ⟨fun i j hi hj => h _ j hj fun hm => ?_⟩
  have := of_decide_eq_true (List.all_eq_true.mp hp _ hm)
  simp only [linkIndex] at this
  omega

theorem LinkRegs.of_dict (h : t.dict = s.dict) : LinkRegs s t := ⟨fun _ j _ _ => getReg_congr h _ j⟩

theorem linkUp_congr (h : LinkRegs s t) (i : Nat) : linkUp t i = linkUp s i := by
  unfold linkUp linkState
  by_cases hi : i < 96
  · rw [h.reads i 0x02 hi (by decide)]
  · simp [hi]

theorem upLinks_congr (h : LinkRegs s t) : upLinks t = upLinks s := by
  unfold upLinks
  rw [funext (linkUp_congr h)]

theorem lt_of_linkUp {i : Nat} (h : linkUp s i = true) : i < 96 := by
  unfold linkUp at h
  simp only [Bool.and_eq_true, decide_eq_true_eq] at h
  exact h.1

theorem mem_upLinks {i : Nat} : i ∈ upLinks s ↔ linkUp s i = true := by
  unfold upLinks
  rw [List.mem_filter, List.mem_range]
  exact ⟨And.right, fun h => ⟨lt_of_linkUp h, h⟩⟩

theorem heardLinks_congr (h : LinkRegs s t) : heardLinks t = heardLinks s := by
  unfold heardLinks
  rw [upLinks_congr h]
  refine List.filter_congr fun i hi => ?_
  rw [h.reads i 0x03 (lt_of_linkUp (mem_upLinks.mp hi)) (by decide)]

theorem linkOf_congr (h : t.fabric.links = s.fabric.links) (i : Nat) : linkOf t i = linkOf s i := congrArg (fun l : NMap Link => ngetD l i {}) h

theorem childLinks_congr (h : LinkRegs s t) (hl : t.fabric.links = s.fabric.links) (hr : getReg t 0x4100 0x04 = getReg s 0x4100 0x04)
    (hh : t.fabric.hops = s.fabric.hops) : childLinks t = childLinks s := by
  unfold childLinks
  rw [heardLinks_congr h, hr, hh, funext (linkOf_congr hl)]

theorem fabricState_congr (h : LinkRegs s t) (hq : t.fabric.quiet = s.fabric.quiet) : fabricState t = fabricState s := by
  have hany : (List.range 96).any (fun i => linkState t i == 1) = (List.range 96).any (fun i => linkState s i == 1) := by
    rw [Bool.eq_iff_iff, List.any_eq_true, List.any_eq_true]
    refine exists_congr fun i => and_congr_right fun hi => ?_
    unfold linkState
    rw [h.reads i 0x02 (List.mem_range.mp hi) (by decide)]
  unfold fabricState
  rw [heardLinks_congr h, upLinks_congr h, hq, hany]

/-! ### Emissions -/

/-- What a pass over a list emits, where no emission depends on those before it. -/
theorem foldl_emit {α : Type} (g : State → α → Emission) (hg : ∀ s o a, g { s with out := o } a = g s a) (l : List α) (s : State) :
    l.foldl (fun s a => emit s (g s a)) s = { s with out := s.out ++ l.map (g s) } := by
  induction l generalizing s with
  | nil => simp
  | cons a l ih =>
    rw [List.foldl_cons, ih]
    have hg' : g (emit s (g s a)) = g s := funext fun b => hg s _ b
    rw [hg']
    simp [emit]

/-! ### Addresses and the root -/

theorem logFault_manifest (s : State) (code severity kind unit ctx detail : Nat) :
    (logFault s code severity kind unit ctx detail).ctl.manifest = s.ctl.manifest := by
  obtain ⟨log, msix, hc, -, -⟩ := logFault_ctl s code severity kind unit ctx detail
  rw [hc]

/-- The entries that taking an address writes. -/
abbrev addressEntries : List (Nat × Nat) := [(0x4100, 0x01), (0x4100, 0x02), (0x4100, 0x07), (0xE000, 0x01), (0xE000, 0x05)]

theorem takeAddress_regs (s : State) (a : Nat) : RegsBut addressEntries s (takeAddress s a) := by
  unfold takeAddress
  extract_lets old s1
  have h1 : RegsBut addressEntries s s1 :=
    ((RegsBut.refl _ s).setReg (by decide) (by decide)).setReg (by decide) (by decide)
  split
  · exact .refl _ s
  · split
    · exact h1
    · exact (h1.addReg (i := 0x4100) (j := 0x07) (by decide) (by decide)).logFault (by decide) (by decide) _ _ _ _ _ _

theorem takeAddress_manifest (s : State) (a : Nat) : (takeAddress s a).ctl.manifest = s.ctl.manifest := by
  unfold takeAddress
  extract_lets old s1
  split
  · rfl
  · split
    · rfl
    · rw [logFault_manifest, addReg_ctl]
      rfl

theorem ownAddress_takeAddress (s : State) (a : Nat) : ownAddress (takeAddress s a) = a := by
  unfold takeAddress
  extract_lets old s1
  have h1 : getReg s1 0x4100 0x01 = a := (getReg_setReg_ne _ _ (by decide)).trans (getReg_setReg_same _ _ _ _)
  split
  · next h => exact h.symm
  · split
    · exact h1
    · have hl := ((RegsBut.refl [(0x4100, 0x07), (0xE000, 0x01), (0xE000, 0x05)] s1).addReg (i := 0x4100) (j := 0x07) (n := 1) (by decide) (by decide)).logFault
        (by decide) (by decide) 0x0102 0 0 0 0xFFFF (old * 65536 + a)
      exact (hl 0x4100 0x01 (by decide) (by decide)).trans h1

/-- The lowest root that this part has heard of, its own serial number included. -/
def lowestRoot (s : State) : Nat := ((heardLinks s).map fun i => (linkOf s i).root).foldl Nat.min (ownSerial s)

theorem foldl_min_le (l : List Nat) (n : Nat) : l.foldl Nat.min n ≤ n ∧ ∀ x, x ∈ l → l.foldl Nat.min n ≤ x := by
  induction l generalizing n with
  | nil => exact ⟨le_refl _, fun x hx => absurd hx List.not_mem_nil⟩
  | cons a l ih =>
    obtain ⟨hn, hl⟩ := ih (Nat.min n a)
    refine ⟨hn.trans (Nat.min_le_left n a), fun x hx => ?_⟩
    rcases List.mem_cons.mp hx with rfl | hx
    · exact hn.trans (Nat.min_le_right n x)
    · exact hl x hx

theorem lowestRoot_le_own (s : State) : lowestRoot s ≤ s.ctl.manifest.serial := (foldl_min_le _ _).1

theorem lowestRoot_le {i : Nat} (hi : i ∈ heardLinks s) : lowestRoot s ≤ (linkOf s i).root :=
  (foldl_min_le _ _).2 _ (List.mem_map.mpr ⟨i, hi, rfl⟩)

/-- What finding the root leaves. -/
structure RootFound (s t : State) : Prop where
  root : getReg t 0x4100 0x04 = lowestRoot s
  regs : RegsBut ((0x4100, 0x04) :: addressEntries) s t
  links : t.fabric.links = s.fabric.links
  manifest : t.ctl.manifest = s.ctl.manifest

theorem findRoot_found (s : State) : RootFound s (findRoot s) := by
  unfold findRoot
  extract_lets heard root key less parent hops changed f s1 s2
  have h1 : s1.dict = s.dict := rfl
  have hl1 : s1.fabric.links = s.fabric.links := rfl
  have hc1 : s1.ctl = s.ctl := rfl
  have h2 : RootFound s s2 := by
    unfold s2
    split
    · have hr := (((RegsBut.of_dict ((0x4100, 0x04) :: addressEntries) h1).setReg (i := 0x4100) (j := 0x04) (v := root) (by decide) (by decide)).logFault
        (by decide) (by decide) 0x0105 0 0 0 0xFFFF root)
      refine ⟨?_, hr, ?_, ?_⟩
      · have hl := (RegsBut.refl [(0xE000, 0x01), (0xE000, 0x05)] (setReg s1 0x4100 0x04 root)).logFault (by decide) (by decide) 0x0105 0 0 0 0xFFFF root
        exact (hl 0x4100 0x04 (by decide) (by decide)).trans (getReg_setReg_same _ _ _ _)
      · rw [logFault_keeps _ _ _ _ _ _ _ .fabric (by decide)]
        exact hl1
      · rw [logFault_manifest]
        exact congrArg (·.manifest) hc1
    · next hch =>
      refine ⟨?_, .of_dict _ h1, hl1, congrArg (·.manifest) hc1⟩
      rw [getReg_congr h1]
      exact of_not_not fun h => hch (bne_iff_ne.mpr h)
  clear_value s2
  split
  · refine ⟨?_, ?_, ?_, ?_⟩
    · exact (takeAddress_regs s2 _ 0x4100 0x04 (by decide) (by decide)).trans h2.root
    · exact (h2.regs.trans (takeAddress_regs s2 _)).mono (by decide)
    · rw [takeAddress_keeps s2 _ .fabric (by decide)]
      exact h2.links
    · rw [takeAddress_manifest]
      exact h2.manifest
  · exact h2

theorem countReachable_regs (s : State) : RegsBut [(0x4100, 0x05)] s (countReachable s) := (RegsBut.refl _ s).setReg (by decide) (by decide)

/-- Floods of this device's own links change the flooded list, a count and nothing else but what they emit. -/
structure Flooded (s t : State) : Prop where
  regs : RegsBut [(0x4100, 0x05)] s t
  fabric : t.fabric = { s.fabric with flooded := edgesOf s (ownAddress s) }
  out : ∃ l, t.out = s.out ++ List.map (fun i => Emission.flood i (ownAddress s) (edgesOf s (ownAddress s))) l

theorem floodOwn_flooded (s : State) : Flooded s (floodOwn s) := by
  unfold floodOwn
  extract_lets own f s1
  split
  · next h => exact ⟨.refl _ s, congrArg (fun x => { s.fabric with flooded := x }) h, [], (List.append_nil _).symm⟩
  · rw [foldl_emit (fun s i => .flood i (ownAddress s) own) (fun _ _ _ => rfl)]
    generalize hl : treeLinks s1 = l
    let u : State := { s1 with out := s1.out ++ l.map fun i => .flood i (ownAddress s) own }
    have hd : u.dict = s.dict := rfl
    have hf : u.fabric = { s.fabric with flooded := own } := rfl
    have ho : u.out = s.out ++ l.map fun i => .flood i (ownAddress s) own := rfl
    change Flooded s (countReachable u)
    clear_value u
    exact ⟨(RegsBut.of_dict [(0x4100, 0x05)] hd).trans (countReachable_regs u) |>.mono (by decide), hf, l, ho⟩

/-! ### Hellos sent -/

/-- The hellos and the report of a state whose root is found. -/
def hellosOut (s : State) : List Emission :=
  (upLinks s).map (fun i => .helloOut i (helloData s i)) ++
    (match s.fabric.parent with
      | some i => [.reportUp i (ownSerial s) (getReg s 0x4100 0x02)]
      | none => [])

/-- The state in which the hellos of a pass are sent. -/
def helloState (s : State) : State := floodOwn (findRoot { s with fabric := { s.fabric with quiet := Nat.min 16 (s.fabric.quiet + 1) } })

/-- What a pass of hellos leaves of the entries and of the emissions before it. -/
structure HellosReady (s t : State) : Prop where
  regs : RegsBut ([(0x4100, 0x04), (0x4100, 0x05)] ++ addressEntries) s t
  manifest : t.ctl.manifest = s.ctl.manifest
  clk : t.clk = s.clk
  out : ∀ e, e ∈ t.out → e ∈ s.out ∨ ∃ i a l, e = .flood i a l

theorem helloState_ready (s : State) : HellosReady s (helloState s) := by
  unfold helloState
  generalize hf : { s.fabric with quiet := Nat.min 16 (s.fabric.quiet + 1) } = f
  have hr := findRoot_found { s with fabric := f }
  have hk := findRoot_keeps { s with fabric := f }
  generalize findRoot { s with fabric := f } = r at hr hk
  have hfl := floodOwn_flooded r
  have hfk := floodOwn_keeps r
  obtain ⟨l, ho⟩ := hfl.out
  refine ⟨(hr.regs.trans hfl.regs).mono (by decide), ?_, ?_, fun e he => ?_⟩
  · rw [hfk .ctl (by decide)]
    exact hr.manifest
  · exact (hfk .clk (by decide)).trans (hk .clk (by decide))
  · rw [ho, hk .out (by decide)] at he
    refine (List.mem_append.mp he).imp_right fun hm => ?_
    obtain ⟨i, -, rfl⟩ := List.mem_map.mp hm
    exact ⟨i, _, _, rfl⟩

theorem sendHellos_eq (s : State) : sendHellos s =
    setReg { helloState s with out := (helloState s).out ++ hellosOut (helloState s) } 0x4100 0x06 (fabricState (helloState s)) := by
  unfold sendHellos
  extract_lets f s1 s2 s3
  have hup : upLinks s1 = upLinks (helloState s) := (upLinks_congr (.of_regsBut (floodOwn_flooded s1).regs)).symm
  have h2 : s2 = { helloState s with out := (helloState s).out ++ (upLinks (helloState s)).map fun i => .helloOut i (helloData (helloState s) i) } := by
    unfold s2
    rw [hup]
    exact foldl_emit (fun s i => .helloOut i (helloData s i)) (fun _ _ _ => rfl) _ _
  have h3 : s3 = { helloState s with out := (helloState s).out ++ hellosOut (helloState s) } := by
    unfold s3 hellosOut
    rw [h2]
    dsimp only
    generalize helloState s = u
    cases u.fabric.parent with
    | none => simp
    | some i => simp [emit, ownSerial, getReg]
  rw [h3]
  rfl

theorem mem_hellosOut {i : Nat} {d : HelloData} : Emission.helloOut i d ∈ hellosOut s ↔ i ∈ upLinks s ∧ d = helloData s i := by
  unfold hellosOut
  rw [List.mem_append, List.mem_map]
  constructor
  · rintro (⟨i', hi, he⟩ | hm)
    · cases he
      exact ⟨hi, rfl⟩
    · split at hm
      · exact absurd (List.mem_singleton.mp hm) (by nofun)
      · exact absurd hm List.not_mem_nil
  · rintro ⟨hi, rfl⟩
    exact .inl ⟨i, hi, rfl⟩

/-- Hellos sent on every link that is up: the first clause on discovery. -/
theorem sendHellos_spec (s : State) :
    (∀ i, i ∈ upLinks s → ∃ d, Emission.helloOut i d ∈ (sendHellos s).out ∧ d.serial = s.ctl.manifest.serial ∧
      d.address = ownAddress (sendHellos s) ∧ d.link = i ∧ d.root = getReg (sendHellos s) 0x4100 0x04 ∧ d.rate = s.clk.rate ∧
      d.precedence = getReg s 0x2000 0x07) ∧
    (∀ i d, Emission.helloOut i d ∈ (sendHellos s).out → Emission.helloOut i d ∈ s.out ∨ i ∈ upLinks s) ∧
    (∀ i, (sendHellos s).fabric.parent = some i →
      Emission.reportUp i s.ctl.manifest.serial (getReg (sendHellos s) 0x4100 0x02) ∈ (sendHellos s).out) ∧
    getReg (sendHellos s) 0x4100 0x06 = fabricState (sendHellos s) := by
  have hready := helloState_ready s
  have hup : upLinks (helloState s) = upLinks s := upLinks_congr (.of_regsBut hready.regs)
  rw [sendHellos_eq]
  generalize helloState s = h at hready hup
  generalize hu : setReg { h with out := h.out ++ hellosOut h } 0x4100 0x06 (fabricState h) = u
  have hd : RegsBut [(0x4100, 0x06)] h u := by
    rw [← hu]
    exact (RegsBut.of_dict (t := { h with out := h.out ++ hellosOut h }) _ rfl).setReg (by decide) (by decide)
  have hout : u.out = h.out ++ hellosOut h := by rw [← hu]; rfl
  have hf : u.fabric = h.fabric := by rw [← hu]; rfl
  have h6 : getReg u 0x4100 0x06 = fabricState h := by rw [← hu]; exact getReg_setReg_same _ _ _ _
  refine ⟨fun i hi => ⟨helloData h i, ?_, congrArg (·.serial) hready.manifest, (hd _ _ (by decide) (by decide)).symm, rfl,
    (hd _ _ (by decide) (by decide)).symm, congrArg (·.rate) hready.clk, hready.regs _ _ (by decide) (by decide)⟩, fun i d hm => ?_, fun i hp => ?_, ?_⟩
  · rw [hout]
    exact List.mem_append_right _ (mem_hellosOut.mpr ⟨hup ▸ hi, rfl⟩)
  · rw [hout] at hm
    rcases List.mem_append.mp hm with hm | hm
    · refine (hready.out _ hm).imp_right ?_
      rintro ⟨_, _, _, he⟩
      nomatch he
    · exact .inr (hup ▸ (mem_hellosOut.mp hm).1)
  · rw [hf] at hp
    rw [hout, hd _ _ (by decide) (by decide)]
    refine List.mem_append_right _ (List.mem_append_right _ ?_)
    rw [hp]
    exact List.mem_singleton.mpr (congrArg (Emission.reportUp i · _) (congrArg (·.serial) hready.manifest).symm)
  · rw [h6]
    exact (fabricState_congr (.of_regsBut hd) (congrArg (·.quiet) hf)).symm

/-! ### Hellos received -/

/-- The entries that the change of the tick source writes. -/
abbrev sourceEntries : List (Nat × Nat) := [(0x2000, 0x07), (0x2000, 0x0A), (0x2000, 0x0B), (0x2000, 0x0C), (0xE000, 0x01), (0xE000, 0x05)]

theorem turnSource_regs (s : State) (next : Nat) : RegsBut sourceEntries s (turnSource s next) := by
  unfold turnSource
  extract_lets cur s1
  have h1 : RegsBut sourceEntries s s1 :=
    (((RegsBut.refl _ s).setReg (i := 0x2000) (j := 0x07) (by decide) (by decide)).addReg (i := 0x2000) (j := 0x0B) (by decide) (by decide)).logFault
      (by decide) (by decide) _ _ _ _ _ _
  split
  · exact .refl _ s
  · exact h1.setReg (by decide) (by decide)

theorem settleHoldover_regs (s : State) : RegsBut sourceEntries s (settleHoldover s) := by
  unfold settleHoldover endHoldover
  split
  · exact .refl _ s
  · split
    · exact .refl _ s
    · extract_lets clear
      exact RegsBut.addReg (RegsBut.of_dict _ rfl) (by decide) (by decide)

theorem loseSource_regs (s : State) (i : Nat) : RegsBut sourceEntries s (loseSource s i) := by
  unfold loseSource
  extract_lets mine s1 c s2 c' s3
  have h2 : RegsBut sourceEntries s s2 := by
    unfold s2
    split <;> exact .of_dict _ rfl
  have h3 : RegsBut sourceEntries s s3 := h2.congr rfl
  split
  · exact .refl _ s
  · split
    · exact ((h3.trans (turnSource_regs s3 _)).trans (settleHoldover_regs _)).mono (by decide)
    · exact h2

theorem pruneOffers_regs (s : State) (keep : Nat × Nat × Nat × Nat → Bool) : RegsBut sourceEntries s (pruneOffers s keep) := by
  unfold pruneOffers
  extract_lets offers held c s1
  have h1 : RegsBut sourceEntries s s1 := .of_dict _ rfl
  split
  · exact .refl _ s
  · split
    · exact (h1.trans (loseSource_regs s1 2)).mono (by decide)
    · exact h1

theorem turnSource_manifest (s : State) (next : Nat) : (turnSource s next).ctl.manifest = s.ctl.manifest := by
  unfold turnSource
  extract_lets cur s1
  have h1 : s1.ctl.manifest = s.ctl.manifest := by
    unfold s1
    rw [logFault_manifest, addReg_ctl]
    rfl
  split
  · rfl
  · exact h1

theorem loseSource_manifest (s : State) (i : Nat) : (loseSource s i).ctl.manifest = s.ctl.manifest := by
  unfold loseSource
  extract_lets mine s1 c s2 c' s3
  have h2 : s2.ctl = s.ctl := by
    unfold s2
    split <;> rfl
  have h3 : s3.ctl = s.ctl := h2
  split
  · rfl
  · split
    · rw [settleHoldover_ctl, turnSource_manifest, h3]
    · rw [h2]

theorem pruneOffers_manifest (s : State) (keep : Nat × Nat × Nat × Nat → Bool) : (pruneOffers s keep).ctl.manifest = s.ctl.manifest := by
  unfold pruneOffers
  extract_lets offers held c s1
  split
  · rfl
  · split
    · rw [loseSource_manifest]
    · rfl

/-- What a hello leaves of its link's record. -/
structure HelloNoted (s : State) (i : Nat) (d : HelloData) (t : State) : Prop where
  serial : getReg t (linkIndex i) 0x03 = d.serial
  address : getReg t (linkIndex i) 0x04 = d.address
  link : getReg t (linkIndex i) 0x05 = d.link
  up : linkState t i = linkState s i
  silent : d.echo = 0 → getReg t (linkIndex i) 0x0C = getReg s (linkIndex i) 0x0C
  first : d.echo ≠ 0 → (linkOf s i).delays = [] → getReg t (linkIndex i) 0x0C = (nowNs s - d.echo - d.hold) / 2
  record : (linkOf t i).root = d.root ∧ (linkOf t i).hops = d.hops ∧ (linkOf t i).rate = d.rate
  others : ∀ x, x ≠ i → linkOf t x = linkOf s x
  manifest : t.ctl.manifest = s.ctl.manifest

/-- Entries of other objects, and the control part but for the manifest, do not matter. -/
theorem HelloNoted.congr {i : Nat} {d : HelloData} (h : HelloNoted s i d t) (hi : i < 96) (hr : LinkRegs t u) (hl : u.fabric.links = t.fabric.links)
    (hm : u.ctl.manifest = t.ctl.manifest) : HelloNoted s i d u where
  serial := (hr.reads i _ hi (by decide)).trans h.serial
  address := (hr.reads i _ hi (by decide)).trans h.address
  link := (hr.reads i _ hi (by decide)).trans h.link
  up := (hr.reads i _ hi (by decide)).trans h.up
  silent he := (hr.reads i _ hi (by decide)).trans (h.silent he)
  first he hd := (hr.reads i _ hi (by decide)).trans (h.first he hd)
  record := by rw [linkOf_congr hl]; exact h.record
  others x hx := (linkOf_congr hl x).trans (h.others x hx)
  manifest := hm.trans h.manifest

theorem linkOf_putLink_same (s : State) (i : Nat) (l : Link) : linkOf (putLink s i l) i = l := ngetD_nset_same ..

theorem linkOf_putLink_ne (s : State) {i x : Nat} (l : Link) (h : x ≠ i) : linkOf (putLink s i l) x = linkOf s x := ngetD_nset_ne _ _ _ h.symm

/-- The state in which a hello stands in its link's record. -/
def helloNoted (s : State) (i : Nat) (d : HelloData) : State :=
  let s := setReg (setReg (setReg s (linkIndex i) 0x03 d.serial) (linkIndex i) 0x04 d.address) (linkIndex i) 0x05 d.link
  let s := noteDelay s i d
  putLink s i { linkOf s i with echo := d.txTime, echoAt := nowNs s, rate := d.rate, freeRate := d.free, root := d.root
                                hops := d.hops, prec := d.precedence }

theorem noteDelay_regs (s : State) (i : Nat) (d : HelloData) : RegsBut [(linkIndex i, 0x0C)] s (noteDelay s i d) := by
  unfold noteDelay
  extract_lets l one kept
  split
  · exact .refl _ s
  · exact RegsBut.setReg (RegsBut.of_dict _ rfl) (by decide) (by simp)

theorem linkOf_noteDelay_ne (s : State) {i x : Nat} (d : HelloData) (h : x ≠ i) : linkOf (noteDelay s i d) x = linkOf s x := by
  unfold noteDelay
  extract_lets l one kept
  split
  · rfl
  · exact linkOf_putLink_ne s _ h

theorem noteDelay_silent {i : Nat} {d : HelloData} (he : d.echo = 0) : noteDelay s i d = s := if_pos he

theorem noteDelay_first {i : Nat} {d : HelloData} (he : d.echo ≠ 0) (hd : (linkOf s i).delays = []) :
    getReg (noteDelay s i d) (linkIndex i) 0x0C = (nowNs s - d.echo - d.hold) / 2 := by
  unfold noteDelay
  extract_lets l one kept
  have hk : kept = [one] := by
    unfold kept l
    rw [hd]
    rfl
  rw [if_neg he, getReg_setReg_same, hk]
  simp [one]

theorem helloNoted_noted (s : State) (i : Nat) (d : HelloData) : HelloNoted s i d (helloNoted s i d) := by
  unfold helloNoted
  extract_lets s1 s2
  have hr1 : ∀ j, j < 256 → getReg s1 (linkIndex i) j =
      if j = 5 then d.link else if j = 4 then d.address else if j = 3 then d.serial else getReg s (linkIndex i) j := by
    intro j hj
    unfold s1
    rw [getReg_setReg _ _ _ _ _ _ (by decide) hj, getReg_setReg _ _ _ _ _ _ (by decide) hj, getReg_setReg _ _ _ _ _ _ (by decide) hj]
    simp only [true_and, eq_comm]
  have hr2 : ∀ j, j < 256 → j ≠ 0x0C → getReg s2 (linkIndex i) j = getReg s1 (linkIndex i) j := by
    intro j hj hn
    exact noteDelay_regs s1 i d _ _ hj (by simpa using hn)
  have hd1 : linkOf s1 = linkOf s := rfl
  have hn1 : nowNs s1 = nowNs s := rfl
  have hm2 : s2.ctl.manifest = s.ctl.manifest := congrArg (·.manifest) (noteDelay_keeps s1 i d .ctl (by decide))
  constructor
  case serial => exact (hr2 3 (by decide) (by decide)).trans (hr1 3 (by decide))
  case address => exact (hr2 4 (by decide) (by decide)).trans (hr1 4 (by decide))
  case link => exact (hr2 5 (by decide) (by decide)).trans (hr1 5 (by decide))
  case up => exact (hr2 2 (by decide) (by decide)).trans (hr1 2 (by decide))
  case silent =>
    intro he
    have h2 : s2 = s1 := noteDelay_silent he
    exact (congrArg (getReg · (linkIndex i) 0x0C) h2).trans (hr1 12 (by decide))
  case first => exact fun he hd => noteDelay_first (s := s1) he hd
  case record =>
    rw [linkOf_putLink_same]
    exact ⟨rfl, rfl, rfl⟩
  case others => exact fun x hx => (linkOf_putLink_ne _ _ hx).trans (linkOf_noteDelay_ne s1 d hx)
  case manifest => exact hm2

/-- A hello received: its link's record, and a root no higher than the one it names. -/
theorem takeHello_spec {i : Nat} {d : HelloData} (hu : linkUp s i = true) (hs : d.serial ≠ 0) : HelloNoted s i d (takeHello s i d) ∧
    getReg (takeHello s i d) 0x4100 0x04 ≤ d.root ∧ getReg (takeHello s i d) 0x4100 0x04 ≤ s.ctl.manifest.serial := by
  have hi := lt_of_linkUp hu
  have hn := helloNoted_noted s i d
  have he : takeHello s i d = takeHello s i d := rfl
  conv_rhs at he => unfold takeHello
  rw [if_neg (by simp [hu])] at he
  extract_lets new a1 a2 l a3 a4 f a5 at he
  have h3 : HelloNoted s i d a3 := hn
  have h4 : HelloNoted s i d a4 := by
    unfold a4
    split
    · exact h3
    · have hk := pruneOffers_keeps a3 fun o => o.2.2.1 != i
      exact h3.congr hi (.of_regsBut (pruneOffers_regs a3 _)) (congrArg (·.links) (hk .fabric (by decide))) (pruneOffers_manifest _ _)
  clear_value a4
  have hquiet : HelloNoted s i d (if new = true then { a4 with fabric := { a4.fabric with quiet := 0 } } else a4) := by
    split
    · exact h4.congr hi (.of_dict rfl) rfl rfl
    · exact h4
  have hf : RootFound (if new = true then { a4 with fabric := { a4.fabric with quiet := 0 } } else a4) a5 := findRoot_found _
  clear_value a5
  generalize (if new = true then { a4 with fabric := { a4.fabric with quiet := 0 } } else a4) = q at he hquiet hf
  have h5 : HelloNoted s i d a5 := hquiet.congr hi (.of_regsBut hf.regs) hf.links hf.manifest
  generalize hw : (if new = true then a5.fabric.graph.foldl (fun s e => emit s (.flood i e.1 e.2)) a5 else a5) = w at he
  have hsame : w.dict = a5.dict ∧ w.fabric = a5.fabric ∧ w.ctl = a5.ctl := by
    rw [← hw]
    split
    · rw [foldl_emit (fun _ (e : Nat × List (Nat × Nat)) => .flood i e.1 e.2) (fun _ _ _ => rfl)]
      exact ⟨rfl, rfl, rfl⟩
    · exact ⟨rfl, rfl, rfl⟩
  obtain ⟨hd, hfab, hctl⟩ := hsame
  have h6 : HelloNoted s i d w := h5.congr hi (.of_dict hd) (congrArg (·.links) hfab) (congrArg (·.manifest) hctl)
  have hfl := floodOwn_flooded w
  have hroot : getReg (floodOwn w) 0x4100 0x04 = lowestRoot q :=
    (hfl.regs _ _ (by decide) (by decide)).trans ((getReg_congr hd _ _).trans hf.root)
  have hheard : i ∈ heardLinks q := by
    unfold heardLinks
    rw [List.mem_filter, mem_upLinks, hquiet.serial]
    refine ⟨?_, bne_iff_ne.mpr hs⟩
    unfold linkUp at hu ⊢
    rwa [hquiet.up]
  rw [he, hroot, ← hquiet.record.1, ← hquiet.manifest]
  refine ⟨h6.congr hi (.of_regsBut hfl.regs) (congrArg (·.links) hfl.fabric) ?_, lowestRoot_le hheard, lowestRoot_le_own q⟩
  rw [floodOwn_ctl]

/-! ### The address map -/

/-- What taking a map leaves of the addresses, and what it emits. -/
theorem takeMap_spec {root : Nat} {m all : List (Nat × Nat)} (hr : root = getReg s 0x4100 0x04)
    (hall : (if root = s.ctl.manifest.serial then
        grantAddresses s (((s.ctl.manifest.serial, getReg s 0x4100 0x02) :: m.filter fun e => e.1 != s.ctl.manifest.serial).foldr insertSerial []) []
      else m) = all) :
    (takeMap s root m).fabric.map = all ∧ (takeMap s root m).out = s.out ++ (childLinks s).map (fun i => .mapDown i root all) ∧
    ∀ a, all.find? (fun e => e.1 == s.ctl.manifest.serial) = some (s.ctl.manifest.serial, a) → ownAddress (takeMap s root m) = a := by
  unfold takeMap ownSerial
  rw [if_neg (not_not.mpr hr), hall]
  extract_lets all' f s1 s2 s3
  have h1 : s1.dict = s.dict ∧ s1.fabric = { s.fabric with map := all } ∧ s1.out = s.out := ⟨rfl, rfl, rfl⟩
  obtain ⟨hd1, hf1, ho1⟩ := h1
  have h2 : RegsBut addressEntries s1 s2 ∧ s2.fabric = s1.fabric ∧ s2.out = s1.out ∧
      ∀ a, all.find? (fun e => e.1 == s.ctl.manifest.serial) = some (s.ctl.manifest.serial, a) → ownAddress s2 = a := by
    unfold s2
    split
    · next e he =>
      refine ⟨takeAddress_regs s1 _, takeAddress_keeps s1 _ .fabric (by decide), takeAddress_keeps s1 _ .out (by decide), fun a ha => ?_⟩
      rw [ownAddress_takeAddress]
      exact congrArg Prod.snd (Option.some.inj (he.symm.trans ha))
    · next he => exact ⟨.refl _ s1, rfl, rfl, fun a ha => absurd (he.symm.trans ha) (by nofun)⟩
  obtain ⟨hr2, hf2, ho2, ha2⟩ := h2
  have hr12 : RegsBut addressEntries s s2 := (RegsBut.trans (.of_dict [] hd1) hr2).mono (by decide)
  have hchild : childLinks s2 = childLinks s :=
    childLinks_congr (.of_regsBut hr12) (congrArg (·.links) (hf2.trans hf1)) (hr12 _ _ (by decide) (by decide)) (congrArg (·.hops) (hf2.trans hf1))
  have h3 : s3 = { s2 with out := s2.out ++ (childLinks s).map fun i => .mapDown i root all } := by
    rw [← hchild]
    exact foldl_emit (fun _ i => .mapDown i root all) (fun _ _ _ => rfl) _ _
  clear_value s3 s2 s1
  subst h3
  refine ⟨congrArg (·.map) (hf2.trans hf1), ?_, fun a ha => ?_⟩
  · rw [countReachable_keeps _ .out (by decide), ho2, ho1]
  · exact (countReachable_regs _ 0x4100 0x01 (by decide) (by decide)).trans (ha2 a ha)

/-! ### Floods -/

theorem pumpLink_routes (i n : Nat) (s : State) : (pumpLink i n s).fabric.graph = s.fabric.graph ∧ (pumpLink i n s).fabric.quiet = s.fabric.quiet := by
  induction n generalizing s with
  | zero => exact ⟨rfl, rfl⟩
  | succ n ih =>
    unfold pumpLink
    extract_lets l
    split
    · exact ⟨rfl, rfl⟩
    · extract_lets g turn t1
      obtain ⟨hg, hq⟩ := ih (emit (addReg t1 (linkIndex i) 0x07 1) (.palton i g))
      have hf : (emit (addReg t1 (linkIndex i) 0x07 1) (.palton i g)).fabric = t1.fabric := addReg_keeps t1 _ _ _ .fabric (by decide)
      rw [hf] at hg hq
      exact ⟨hg, hq⟩

theorem sendKept_routes (s : State) (k : KeptMsg) : (sendKept s k).fabric.graph = s.fabric.graph ∧ (sendKept s k).fabric.quiet = s.fabric.quiet := by
  unfold sendKept
  extract_lets me
  split
  · exact ⟨rfl, rfl⟩
  · next i _ =>
    extract_lets t1
    have h1 : t1.fabric.graph = s.fabric.graph ∧ t1.fabric.quiet = s.fabric.quiet := ⟨rfl, rfl⟩
    clear_value t1
    refine List.foldlRecOn (motive := fun u : State => u.fabric.graph = s.fabric.graph ∧ u.fabric.quiet = s.fabric.quiet) _ _ h1 fun u hu f _ => ?_
    obtain ⟨hg, hq⟩ := pumpLink_routes i (linkOf (putLink u i { linkOf u i with queue := (linkOf u i).queue ++ [f] }) i).queue.length
      (putLink u i { linkOf u i with queue := (linkOf u i).queue ++ [f] })
    exact ⟨hg.trans hu.1, hq.trans hu.2⟩

theorem foldl_sendKept_routes (l : List KeptMsg) (s : State) : (l.foldl sendKept s).fabric.graph = s.fabric.graph ∧
    (l.foldl sendKept s).fabric.quiet = s.fabric.quiet :=
  List.foldlRecOn (motive := fun u : State => u.fabric.graph = s.fabric.graph ∧ u.fabric.quiet = s.fabric.quiet) _ _ ⟨rfl, rfl⟩ fun u hu k _ =>
    ⟨(sendKept_routes u k).1.trans hu.1, (sendKept_routes u k).2.trans hu.2⟩

theorem foldl_sendKept_out (l : List KeptMsg) (s : State) : ∃ more, (l.foldl sendKept s).out = s.out ++ more :=
  (Grows.foldl (fun _ k hu => sendKept_grows hu k) l (.refl s)).out

theorem treeLinks_congr (h : LinkRegs s t) (hp : t.fabric.parent = s.fabric.parent) (hl : t.fabric.links = s.fabric.links)
    (hr : getReg t 0x4100 0x04 = getReg s 0x4100 0x04) (hh : t.fabric.hops = s.fabric.hops) : treeLinks t = treeLinks s := by
  unfold treeLinks
  rw [hp, childLinks_congr h hl hr hh]

/-- The state in which a flood is kept and passed along the tree. -/
def floodKept (s : State) (src : Nat) (ups : List (Nat × Nat)) : State :=
  { s with fabric := { s.fabric with graph := nset s.fabric.graph src ups, quiet := 0 }
           out := s.out ++ (treeLinks s).map fun i => .flood i src ups }

theorem takeFlood_eq {src : Nat} {ups : List (Nat × Nat)} (hs : src ≠ ownAddress s) (hn : ngetD s.fabric.graph src [] ≠ ups) :
    ∃ stuck : List KeptMsg, takeFlood s src ups = countReachable (stuck.foldl sendKept (floodKept s src ups)) := by
  unfold takeFlood
  extract_lets before fewer stuck f s1 s2
  refine ⟨stuck, ?_⟩
  rw [if_neg (by simp [hs, hn, before])]
  congr 2
  unfold s2
  rw [foldl_emit (fun _ i => .flood i src ups) (fun _ _ _ => rfl)]
  rfl

theorem takeFlood_spec {src : Nat} {ups : List (Nat × Nat)} (hs : src ≠ ownAddress s) (hn : ngetD s.fabric.graph src [] ≠ ups) :
    (takeFlood s src ups).fabric.graph = nset s.fabric.graph src ups ∧ (takeFlood s src ups).fabric.quiet = 0 ∧
    ∀ i, i ∈ treeLinks s → Emission.flood i src ups ∈ (takeFlood s src ups).out := by
  obtain ⟨stuck, he⟩ := takeFlood_eq hs hn
  obtain ⟨hg, hq⟩ := foldl_sendKept_routes stuck (floodKept s src ups)
  obtain ⟨more, hout⟩ := foldl_sendKept_out stuck (floodKept s src ups)
  have hc := countReachable_keeps (stuck.foldl sendKept (floodKept s src ups))
  rw [he, hc .fabric (by decide), hc .out (by decide), hout]
  exact ⟨hg, hq, fun i hi => List.mem_append_left _ (List.mem_append_right _ (List.mem_map.mpr ⟨i, hi, rfl⟩))⟩

/-! ### Tick offers -/

theorem takeTick_spec {i counter rate prec serial ptp free : Nat} (hu : linkUp s i = true) (hr : sameRate s rate free = true) (hp : prec = 1 ∨ prec = 3) :
    (takeTick s i counter rate prec serial ptp free).clk.offers = (s.clk.offers.filter fun o => o.2.2.1 != i) ++ [(prec, serial, i, counter)] ∧
    (takeTick s i counter rate prec serial ptp free).clk.now = s.clk.now ∧
    (∀ x, x ∈ upLinks s → x ≠ i → sameRate s (linkOf s x).rate (linkOf s x).freeRate = true →
      Emission.tickMessage x counter rate prec serial (ptp + getReg s (linkIndex i) 0x0C) free ∈ (takeTick s i counter rate prec serial ptp free).out) ∧
    RegsBut [(0x2000, 0x0A)] s (takeTick s i counter rate prec serial ptp free) ∧
    (getReg s 0x2000 0x07 ≠ 2 → getReg (takeTick s i counter rate prec serial ptp free) 0x2000 0x0A = getReg s 0x2000 0x0A) := by
  have hi := lt_of_linkUp hu
  unfold takeTick
  have hcond : ¬ ((!linkUp s i) = true ∨ (!sameRate s rate free) = true ∨ (!(prec == 1 || prec == 3)) = true) := by
    simp only [hu, hr, Bool.not_true, Bool.false_eq_true, false_or]
    rcases hp with rfl | rfl <;> decide
  rw [if_neg hcond]
  extract_lets offers c s1 off c' s2
  have hd : RegsBut [(0x2000, 0x0A)] s s2 ∧ (getReg s 0x2000 0x07 ≠ 2 → getReg s2 0x2000 0x0A = getReg s 0x2000 0x0A) ∧ s2.clk.offers = offers ∧
      s2.clk.now = s.clk.now ∧ s2.clk.rate = s.clk.rate ∧ s2.clk.free = s.clk.free ∧ s2.out = s.out ∧ s2.fabric = s.fabric := by
    unfold s2
    split
    · next h => exact ⟨RegsBut.setReg (RegsBut.of_dict _ rfl) (by decide) (by decide), fun hn => absurd h.1 hn, rfl, rfl, rfl, rfl, rfl, rfl⟩
    · exact ⟨.of_dict _ rfl, fun _ => rfl, rfl, rfl, rfl, rfl, rfl, rfl⟩
  obtain ⟨hregs, hoff, hoffers, hnow, hrate, hfree, hout, hfab⟩ := hd
  clear_value s2
  rw [foldl_emit (fun s x => .tickMessage x counter rate prec serial (ptp + getReg s (linkIndex i) 0x0C) free) (fun _ _ _ => rfl)]
  refine ⟨hoffers, hnow, fun x hx hn hsame => List.mem_append_right _ (List.mem_map.mpr ⟨x, List.mem_filter.mpr ⟨?_, ?_⟩, ?_⟩), hregs, hoff⟩
  · rw [upLinks_congr (.of_regsBut hregs)]
    exact hx
  · unfold sameRate at hsame ⊢
    rw [linkOf_congr (congrArg (·.links) hfab), hrate, hfree, hsame]
    simp [hn]
  · rw [(LinkRegs.of_regsBut hregs).reads i 0x0C hi (by decide)]

/-! ### The obligation -/

/-- Settles O26: every operation emits one message per link of its list, after the entries that the messages carry are written. -/
theorem fabricRouting : Obligations.FabricRouting := by
  unfold Obligations.FabricRouting
  refine ⟨⟨?_, ?_, ?_⟩, ⟨?_, ?_, ?_, ?_, ?_, ?_⟩, ?_, ?_⟩
  · intro s dt hs
    refine ⟨_, whenControlled_of_controlled hs fun s => sendHellos (passTime s dt), ?_⟩
    obtain ⟨hsent, honly, hreport, hstate⟩ := sendHellos_spec (passTime s dt)
    rw [upLinks_congr (.of_dict (passTime_dict s dt))] at hsent honly
    exact ⟨hsent, honly, hreport, hstate, ((passTime_keeps s dt).mono (by decide)).trans ((sendHellos_keeps _).mono (by decide))⟩
  · intro s i d dt hs hu hd
    refine ⟨_, whenControlled_of_controlled hs fun s => takeHello (passTime s dt) i d, ?_⟩
    obtain ⟨hn, hroot, hown⟩ := takeHello_spec (s := passTime s dt) (i := i) (d := d) hu hd
    obtain ⟨hr, hh, hrate⟩ := hn.record
    exact ⟨hn.serial, hn.address, hn.link, hr, hh, hrate, hroot, hown, hn.silent, hn.first, hn.others,
      ((passTime_keeps s dt).mono (by decide)).trans ((takeHello_keeps _ i d).mono (by decide))⟩
  · intro s i d dt hs hu
    refine (whenControlled_of_controlled hs fun s => takeHello (passTime s dt) i d).trans (congrArg Host.Outcome.next ?_)
    have hu' : linkUp (passTime s dt) i = false := hu
    unfold takeHello
    rw [if_pos (by simp [hu'])]
  · intro s root m a hs hr hn hm
    refine ⟨_, whenControlled_of_controlled hs fun s => takeMap s root m, ?_⟩
    obtain ⟨hmap, hout, haddr⟩ := takeMap_spec (s := s) (m := m) hr (if_neg hn)
    refine ⟨haddr a hm, hmap, fun e he => ?_, fun i hi => ?_, (takeMap_keeps s root m).mono (by decide)⟩
    · rw [hout] at he
      refine (List.mem_append.mp he).imp_right fun he => ?_
      obtain ⟨i, -, rfl⟩ := List.mem_map.mp he
      exact ⟨i, rfl⟩
    · rw [hout]
      exact List.mem_append_right _ (List.mem_map.mpr ⟨i, hi, rfl⟩)
  · intro s m hs hr
    refine ⟨_, whenControlled_of_controlled hs fun u => takeMap u s.ctl.manifest.serial m, ?_⟩
    obtain ⟨hmap, hout, -⟩ := takeMap_spec (s := s) (m := m) hr.symm (if_pos rfl)
    refine ⟨fun i hi => ?_, hmap, (takeMap_keeps s _ m).mono (by decide)⟩
    rw [hout, hmap]
    exact List.mem_append_right _ (List.mem_map.mpr ⟨i, hi, rfl⟩)
  · intro s root m hs hr
    exact (whenControlled_of_controlled hs fun s => takeMap s root m).trans (congrArg Host.Outcome.next (if_pos hr))
  · intro s src ups hs ho hn
    refine ⟨_, whenControlled_of_controlled hs fun s => takeFlood s src ups, ?_⟩
    obtain ⟨hg, hq, hout⟩ := takeFlood_spec ho hn
    refine ⟨?_, fun a ha => ?_, hout, hq, takeFlood_keeps s src ups⟩
    · rw [hg]
      exact ngetD_nset_same ..
    · rw [hg]
      exact ngetD_nset_ne _ _ _ ha.symm
  · intro s src ups hs h
    exact (whenControlled_of_controlled hs fun s => takeFlood s src ups).trans (congrArg Host.Outcome.next (if_pos h))
  · intro s src flow hs
    refine ⟨_, whenService_of_inService hs fun s => unpinFlow s src flow, fun p => ?_, unpinFlow_keeps s src flow⟩
    unfold unpinFlow
    simp only [List.mem_filter, Bool.not_eq_true', Bool.and_eq_false_iff, beq_eq_false_iff_ne, decide_eq_false_iff_not]
    tauto
  · intro s i counter rate prec serial ptp free hs hu hr hp
    refine ⟨_, whenControlled_of_controlled hs fun s => takeTick s i counter rate prec serial ptp free, ?_⟩
    obtain ⟨ho, hn, he, hregs, hoff⟩ := takeTick_spec (counter := counter) (serial := serial) (ptp := ptp) hu hr hp
    exact ⟨ho, hn, he, hregs, hoff, (takeTick_keeps s i counter rate prec serial ptp free).mono (by decide)⟩
  · intro s i counter rate prec serial ptp free hs h
    refine (whenControlled_of_controlled hs fun s => takeTick s i counter rate prec serial ptp free).trans (congrArg Host.Outcome.next (if_pos ?_))
    rcases h with h | h | ⟨h1, h3⟩
    · exact .inl (by rw [h]; rfl)
    · exact .inr (.inl (by rw [h]; rfl))
    · exact .inr (.inr (by simp [h1, h3]))

end Sys2Proof.Machine
end
section
/-! What a collective leaves (O28). -/
namespace Sys2Proof.Machine
open Sys2Proof

variable {s t : State} {id : WorkId} {w : Work} {g : CollRec}

/-- Only the five collectives run one, each with its operation. -/
theorem exec_collective (hs : inService s = true) {i : Nat} {others : Entered} {e : Instr × Nat}
    (he : e ∈ [(.collectiveMaxAnchors id i others, 1), (.collectiveSumExact id i others, 2), (.collectiveSumAnchored id i others, 3),
      (.collectiveBroadcast id i others, 4), (.collectiveElementwiseMax id i others, 5)]) :
    exec e.1 s = .next (runCollective s id i e.2 others) := by
  have h op := whenService_of_inService hs fun s => runCollective s id i op others
  simp only [List.mem_cons, List.not_mem_nil, or_false] at he
  rcases he with rfl | rfl | rfl | rfl | rfl
  · exact h 1
  · exact h 2
  · exact h 3
  · exact h 4
  · exact h 5

theorem findWork_of_collReady {i op : Nat} (h : collReady s id i op = some (w, g)) : findWork s id = some w := by
  unfold collReady at h
  split at h
  · exact absurd h (by nofun)
  · next v hv =>
    split at h
    · exact absurd h (by nofun)
    · split at h
      · exact absurd h (by nofun)
      · extract_lets before at h
        split at h
        · exact absurd h (by nofun)
        · split at h
          · exact absurd h (by nofun)
          · split at h
            · exact absurd h (by nofun)
            · cases h
              exact hv

/-! ### The end of a collective -/

/-- Work `w` with a collective's outcome added. -/
def collEnded (w : Work) (outcomes : List (Nat × Nat)) (flags : Nat) : Work :=
  { w with colls := w.colls ++ outcomes, flags := w.flags ||| flags, started := true }

/-- A collective that succeeds: its bytes stand at its location, and its work has its outcome and flags. -/
structure EndedOk (s : State) (w : Work) (g : CollRec) (i : Nat) (bytes : List Byte) (flags : Nat) (t : State) : Prop where
  mem : t.mem = s.mem.write (collBase w g) bytes
  work : ∃ v, findWork t w.id = some v ∧ v.colls = w.colls ++ [(i, stOk)] ∧ v.flags = (w.flags ||| flags) ∧ v.parts = w.parts
  sync : g.ctl.testBit 6 = false → t.sync = s.sync
  kept : Kept [.mem, .works, .sync] s t

theorem endCollective_ok (hw : findWork s w.id = some w) (i : Nat) (bytes : List Byte) (flags : Nat) :
    EndedOk s w g i bytes flags (endCollective s w g i (bytes, stOk) flags) := by
  have hkept := endCollective_keeps s w g i (bytes, stOk) flags
  unfold endCollective at hkept ⊢
  rw [if_pos rfl, if_neg (not_not.mpr rfl), List.append_nil] at hkept ⊢
  dsimp only at hkept ⊢
  have hput : SignalledWork { putWork s (collEnded w [(i, stOk)] flags) with mem := s.mem.write (collBase w g) bytes } w.id
      (collEnded w [(i, stOk)] flags) := .congr (.of_findWork (findWork_putWork hw rfl)) rfl
  split
  · next h6 =>
    rw [if_pos h6] at hkept
    obtain ⟨d, hd⟩ := hput.deliver (collPart i) 0 g.sigObj
    exact ⟨deliver_keeps _ _ _ _ _ .mem (by decide), ⟨_, hd, rfl, rfl, rfl⟩, fun h => absurd h6 (by simp [h]), hkept.mono (by decide)⟩
  · next h6 =>
    rw [if_neg h6] at hkept
    obtain ⟨d, hd⟩ := hput
    exact ⟨rfl, ⟨_, hd, rfl, rfl, rfl⟩, fun _ => rfl, hkept.mono (by decide)⟩

/-- A collective that fails: nothing is written, and its run ends. -/
theorem endCollective_failed (hw : findWork s w.id = some w) (i flags : Nat) (bytes : List Byte) {st : Nat} (hst : st ≠ stOk) :
    (∃ v rest, findWork (endCollective s w g i (bytes, st) flags) w.id = some v ∧ v.colls = w.colls ++ [(i, st)] ++ rest) ∧
    Kept [.works] s (endCollective s w g i (bytes, st) flags) := by
  unfold endCollective
  extract_lets rest s1
  rw [if_pos hst]
  refine ⟨⟨{ w with colls := w.colls ++ [(i, st)] ++ rest, flags := w.flags ||| flags, started := true }, rest, findWork_putWork hw rfl, rfl⟩, putWork_keeps s _⟩

/-! ### The members' result -/

/-- The state in which a collective's result is sent to the members and kept for a replay. -/
def resultKept (s : State) (id : WorkId) (g : CollRec) (own : List Byte) (all : List (List Byte)) (times : List (Nat × Nat)) (r : List Byte × Nat)
    (i flags : Nat) : State :=
  let s := sendCollective (noteCollWait s id times) id g own all r.1
  { s with fabric := { s.fabric with results := s.fabric.results ++ [(id, i, r.1, r.2, flags)] } }

theorem resultKept_keeps (s : State) (id : WorkId) (g : CollRec) (own : List Byte) (all : List (List Byte)) (times : List (Nat × Nat))
    (r : List Byte × Nat) (i flags : Nat) : Kept [.dict, .ctl, .out, .fabric] s (resultKept s id g own all times r i flags) := by
  unfold resultKept
  extract_lets s1
  have h1 : Kept [.dict, .ctl, .out] s s1 :=
    ((noteCollWait_keeps s id times).mono (by decide)).trans ((sendCollective_keeps _ id g own all r.1).mono (by decide))
  exact (h1.mono (by decide)).trans ((Kept.fabric s1 _).mono (by decide))

theorem keptResult_resultKept {i : Nat} (hk : keptResult s id i = none) (own : List Byte) (all : List (List Byte)) (times : List (Nat × Nat))
    (r : List Byte × Nat) (flags : Nat) : keptResult (resultKept s id g own all times r i flags) id i = some (r.1, r.2, flags) := by
  have hf : (sendCollective (noteCollWait s id times) id g own all r.1).fabric = s.fabric :=
    (sendCollective_keeps _ id g own all r.1 .fabric (by decide)).trans (noteCollWait_keeps s id times .fabric (by decide))
  unfold keptResult at hk ⊢
  rw [Option.map_eq_none_iff] at hk
  unfold resultKept
  dsimp only
  rw [hf, List.find?_append, hk]
  simp

theorem lt_of_spanGroupOf {k gr : Nat} {ranks : List Nat} (h : spanGroupOf s k = some (gr, ranks)) : gr < 32 := by
  unfold spanGroupOf at h
  obtain ⟨x, hx, he⟩ := List.exists_of_findSome?_eq_some h
  dsimp only at he
  split at he
  · cases he
    exact List.mem_range.mp hx
  · cases he

/-- The wait is read from the dictionary alone. -/
theorem Waited.congr {times : List (Nat × Nat)} {u : State} (h : Waited s id times t) (hd : u.dict = t.dict) : Waited s id times u := by
  obtain ⟨hgroup, hnone⟩ := h
  refine ⟨fun k j gr ranks hid hs => ?_, fun hno => hd.trans (hnone hno)⟩
  obtain ⟨hadd, hzero, hregs, hblobs⟩ := hgroup k j gr ranks hid hs
  exact ⟨fun hw => (getReg_congr hd _ _).trans (hadd hw), fun hw => hd.trans (hzero hw), hregs.congr hd, hblobs.congr hd⟩

theorem noteCollWait_waited (s : State) (id : WorkId) (times : List (Nat × Nat)) : Waited s id times (noteCollWait s id times) := by
  cases id with
  | job r p n => exact ⟨fun _ _ _ _ hid => (by nomatch hid), fun _ => rfl⟩
  | frame k j =>
    cases hs : spanGroupOf s k with
    | none =>
      have he : noteCollWait s (.frame k j) times = s := by
        unfold noteCollWait
        dsimp only
        rw [hs]
      rw [he]
      refine ⟨fun k' j' gr ranks hid hg => ?_, fun _ => rfl⟩
      cases hid
      exact absurd (hs.symm.trans hg) (by nofun)
    | some x =>
      obtain ⟨gr, ranks⟩ := x
      have he : noteCollWait s (.frame k j) times = noteGroupWait s gr ranks times := by
        unfold noteCollWait
        dsimp only
        rw [hs]
      rw [he]
      refine ⟨fun k' j' gr' ranks' hid hg => ?_, fun hno => absurd (hs.symm.trans (hno k j rfl)) (by nofun)⟩
      cases hid
      cases hs.symm.trans hg
      exact noteGroupWait_spec (lt_of_spanGroupOf hs) s ranks times

theorem resultKept_waited (s : State) (id : WorkId) (g : CollRec) (own : List Byte) (all : List (List Byte)) (times : List (Nat × Nat))
    (r : List Byte × Nat) (i flags : Nat) : Waited s id times (resultKept s id g own all times r i flags) :=
  Waited.congr (noteCollWait_waited s id times) (sendCollective_keeps _ id g own all r.1 .dict (by decide))

/-- A collective's bytes, status and flags. -/
def outcomeOf : Except Nat (List Byte × Nat) → (List Byte × Nat) × Nat
  | .ok x => ((x.1, stOk), x.2)
  | .error e => (([], e), 0)

theorem keptResult_congr (h : t.fabric = s.fabric) (id : WorkId) (i : Nat) : keptResult t id i = keptResult s id i := by
  unfold keptResult
  rw [h]

theorem runCollective_of_entered {i op : Nat} {others : Entered} (hr : collReady s id i op = some (w, g)) (hc : g.count ≠ 0) (hk : keptResult s id i = none)
    (hlen : others.others.length + 1 = (rankOf s id).2) (own : List Byte) (ho : s.mem.read (collBase w g) (g.count * collUnit g) = own)
    (all : List (List Byte)) (ha : others.others.take (rankOf s id).1 ++ [own] ++ others.others.drop (rankOf s id).1 = all)
    {res : Except Nat (List Byte × Nat)} (hres : collectiveResult g own all = res) :
    runCollective s id i op others =
      endCollective (resultKept s id g own all others.times (outcomeOf res).1 i (outcomeOf res).2) w g i (outcomeOf res).1 (outcomeOf res).2 := by
  unfold runCollective
  rw [hr]
  dsimp only
  rw [if_neg hc, hk]
  dsimp only
  rw [if_neg (not_not.mpr hlen), ho, ha, hres]
  cases res <;> rfl

/-! ### The obligation -/

/-- Settles O28: every outcome of a collective is the end of it on the state in which the members' result is kept. -/
theorem collectives : Obligations.Collectives := by
  unfold Obligations.Collectives
  intro s id i others e hs he
  rw [exec_collective hs he]
  have hrun (t : State) (P : State → Prop) (ht : runCollective s id i e.2 others = t) (hp : P t) : Runs e.1 s P :=
    ⟨t, (exec_collective hs he).trans (congrArg _ ht), hp⟩
  refine ⟨fun hn => ?_, fun w g hr hc hk hlen => ?_, fun w g bytes fl hr hc hk => ?_, fun w g hr hc => ?_⟩
  · unfold runCollective
    rw [hn]
  · have hw := findWork_of_collReady hr
    have hid := id_of_findWork hw
    subst hid
    intro own parts
    have hfind (r : List Byte × Nat) (fl : Nat) : findWork (resultKept s w.id g own parts others.times r i fl) w.id = some w :=
      (findWork_congr (resultKept_keeps s w.id g own parts others.times r i fl .works (by decide)) _).trans hw
    refine ⟨fun bytes fl hres => ?_, fun st hst hres => ?_⟩
    · refine hrun _ _ (runCollective_of_entered hr hc hk hlen own rfl parts rfl hres) ?_
      obtain ⟨hmem, hv, hsync, hkept⟩ := endCollective_ok (g := g) (hfind (bytes, stOk) fl) i bytes fl
      have hrk := resultKept_keeps s w.id g own parts others.times (bytes, stOk) i fl
      refine ⟨hmem.trans ?_, ?_, hv, fun h6 => (hsync h6).trans (hrk .sync (by decide)), (hrk.mono (by decide)).trans (hkept.mono (by decide)), ?_⟩
      · rw [hrk .mem (by decide)]
      · exact (keptResult_congr (hkept .fabric (by decide)) w.id i).trans (keptResult_resultKept hk own parts others.times (bytes, stOk) fl)
      · exact Waited.congr (resultKept_waited s w.id g own parts others.times (bytes, stOk) i fl) (hkept .dict (by decide))
    · refine hrun _ _ (runCollective_of_entered hr hc hk hlen own rfl parts rfl hres) ?_
      obtain ⟨hv, hkept⟩ := endCollective_failed (g := g) (hfind ([], st) 0) i 0 [] hst
      have hrk := resultKept_keeps s w.id g own parts others.times ([], st) i 0
      refine ⟨?_, hv, (hrk.mono (by decide)).trans (hkept.mono (by decide)), ?_⟩
      · exact (keptResult_congr (hkept .fabric (by decide)) w.id i).trans (keptResult_resultKept hk own parts others.times ([], st) 0)
      · exact Waited.congr (resultKept_waited s w.id g own parts others.times ([], st) i 0) (hkept .dict (by decide))
  · have hw := findWork_of_collReady hr
    have hid := id_of_findWork hw
    subst hid
    refine hrun (endCollective s w g i (bytes, stOk) fl) _ ?_ ?_
    · unfold runCollective
      rw [hr]
      dsimp only
      rw [if_neg hc, hk]
    · obtain ⟨hmem, ⟨v, hv, hcolls, hflags, -⟩, -, hkept⟩ := endCollective_ok (g := g) hw i bytes fl
      exact ⟨hmem, ⟨v, hv, hcolls, hflags⟩, hkept⟩
  · have hw := findWork_of_collReady hr
    have hid := id_of_findWork hw
    subst hid
    refine hrun (endCollective s w g i ([], stOk) 0) _ ?_ ?_
    · unfold runCollective
      rw [hr]
      exact if_pos hc
    · obtain ⟨hmem, ⟨v, hv, hcolls, -, -⟩, -, hkept⟩ := endCollective_ok (g := g) hw i [] 0
      exact ⟨⟨v, hv, hcolls⟩, hmem, hkept⟩

end Sys2Proof.Machine
end
section
/-! Dictionary requests of the window, the network and peers (O53). -/
namespace Sys2Proof.Machine
open Sys2Proof

variable {s t : State}

/-! ### A request's operations -/

/-- The operations that `runOps` answers: those it ran, the one it stopped at and the rest. -/
theorem runOps_length (serves : Nat → Bool) (flash : Bool) (org : Origin) (s : State) (room : Nat) (ops : List DtpOp) :
    (runOps serves flash org s room ops).2.1.length + ((runOps serves flash org s room ops).2.2.map fun x => x.2.2.length + 1).getD 0 = ops.length := by
  induction ops generalizing s room with
  | nil => rfl
  | cons p r ih =>
    unfold runOps
    split
    · simp
    · next t data _ =>
      extract_lets need x
      split
      · simp
      · have h : x.2.1.length + (x.2.2.map fun x => x.2.2.length + 1).getD 0 = r.length := ih t (room - need)
        simp only [List.length_cons, ← h]
        omega

theorem runRequest_length (s : State) (flash : Bool) (org : Origin) (room : Nat) (ops : List DtpOp) :
    (runRequest s flash org room ops).2.length = ops.length := by
  unfold runRequest
  extract_lets x
  have h : x.2.1.length + (x.2.2.map fun x => x.2.2.length + 1).getD 0 = ops.length := runOps_length ..
  split
  · next hx =>
    rw [hx] at h
    simpa using h
  · next p e rest hx =>
    rw [hx] at h
    simp only [Option.map_some, Option.getD_some] at h
    simp only [List.length_append, List.length_map, List.length_singleton]
    omega

/-- A request of which an operation was refused has changed nothing. -/
theorem runRequest_refused {flash : Bool} {org : Origin} {room : Nat} {ops : List DtpOp}
    (h : ∃ x, x ∈ (runRequest s flash org room ops).2 ∧ x.2.1 ≠ 0) : (runRequest s flash org room ops).1 = s := by
  unfold runRequest at h ⊢
  extract_lets x at h ⊢
  split at h
  · obtain ⟨y, hy, hn⟩ := h
    obtain ⟨d, -, rfl⟩ := List.mem_map.mp hy
    exact absurd rfl hn
  · rfl

theorem countRequest_refused {r : List (DtpOp × Nat × List Byte)} (h : ∃ x, x ∈ r ∧ x.2.1 ≠ 0) : countRequest s r = addReg s 0x1100 0x0C 1 := by
  obtain ⟨x, hx, hn⟩ := h
  refine if_neg fun hall => hn ?_
  exact eq_of_beq (List.all_eq_true.mp hall x hx)

theorem plainRequest_of_parsed {flash : Bool} {org : Origin} {f : List Byte} {ops : List DtpOp} (hp : parseFrame org f = some ops) :
    plainRequest s flash org f = (countRequest (runRequest s flash org 1440 ops).1 (runRequest s flash org 1440 ops).2,
      some (responseFrame (frameTransaction f) 0 none (runRequest s flash org 1440 ops).2)) := by
  unfold plainRequest
  rw [hp]

/-! ### The window -/

theorem windowRequest_repeated {flash : Bool} {token : Nat} (f : List Byte) (h : token % 2 ^ 32 = s.ctl.reqToken) : windowRequest s flash token f = s := by
  unfold windowRequest
  rw [if_pos (by rw [h]; simp)]

/-- The state in which a token of the window is taken. -/
def tokenTaken (s : State) (token : Nat) : State := { s with ctl := { s.ctl with reqToken := token % 2 ^ 32 } }

theorem windowRequest_busy {flash : Bool} {token : Nat} (f : List Byte) (ha : portAlive s = true) (hd : s.ctl.d3hot = false) (hl : s.ctl.linkUp = true)
    (h : token % 2 ^ 32 ≠ s.ctl.reqToken) (hc : noCluster s = true) :
    windowRequest s flash token f = showResponse (tokenTaken s token) (token % 2 ^ 32) (busyAnswer f) := by
  unfold windowRequest
  rw [if_neg (by rw [beq_eq_false_iff_ne.mpr h]; simp [ha, hd, hl])]
  exact if_pos hc

/-- What an answer in the window leaves. -/
theorem showResponse_spec (s : State) (token : Nat) (a : List Byte) : (showResponse s token a).ctl.respToken = token ∧
    (showResponse s token a).ctl.response = a ∧ 48 ∈ (showResponse s token a).ctl.msix := by
  unfold showResponse
  obtain ⟨msix, hc, hm, -⟩ := raiseVector_ctl { s with ctl := { s.ctl with response := a, respToken := token } } 48
  rw [hc]
  exact ⟨rfl, rfl, hm⟩

theorem windowRequest_answered {flash : Bool} {token : Nat} {f : List Byte} {ops : List DtpOp} (ha : portAlive s = true) (hd : s.ctl.d3hot = false)
    (hl : s.ctl.linkUp = true) (h : token % 2 ^ 32 ≠ s.ctl.reqToken) (hc : noCluster s = false) (hp : parseFrame .host f = some ops)
    {x : State × List (DtpOp × Nat × List Byte)} (hx : runRequest (tokenTaken s token) flash .host 1440 ops = x) :
    windowRequest s flash token f = showResponse (countRequest x.1 x.2) (token % 2 ^ 32) (responseFrame (frameTransaction f) 0 none x.2) := by
  have hplain := plainRequest_of_parsed (s := tokenTaken s token) (flash := flash) hp
  rw [hx] at hplain
  unfold windowRequest
  rw [if_neg (by rw [beq_eq_false_iff_ne.mpr h]; simp [ha, hd, hl])]
  refine (if_neg (show ¬ noCluster (tokenTaken s token) = true from fun ht => Bool.false_ne_true (hc.symm.trans ht))).trans ?_
  extract_lets c y
  have hy : y = _ := hplain
  rw [hy]

/-! ### The field network -/

theorem dtpNet_answered {flash : Bool} {port : Nat} {f a : List Byte} {u : State} (ha : portAlive s = true) (hc : noCluster s = false)
    (ho : netPortOpen s port = true) (hx : netRequest s flash f = (u, some a)) : dtpNet s flash port f = emit u (.dtpResponse .net port a) := by
  unfold dtpNet
  refine (if_neg (by simp [ha, hc, ho])).trans ?_
  rw [hx]

theorem dtpNet_silent {flash : Bool} {port : Nat} {f : List Byte} {u : State} (ha : portAlive s = true) (hc : noCluster s = false)
    (ho : netPortOpen s port = true) (hx : netRequest s flash f = (u, none)) : dtpNet s flash port f = u := by
  unfold dtpNet
  refine (if_neg (by simp [ha, hc, ho])).trans ?_
  rw [hx]

theorem dtpNet_shut {flash : Bool} {port : Nat} {f : List Byte} (h : portAlive s = false ∨ noCluster s = true ∨ netPortOpen s port = false) :
    dtpNet s flash port f = s := by
  unfold dtpNet
  rw [if_pos ?_]
  rcases h with h | h | h <;> simp [h]

/-- The frame's tag is right. -/
def tagRight (s : State) (f : List Byte) : Bool :=
  frameTagged f && (hmac256 (getBlob s 0x1100 0x08) (f.take (f.length - 32)) == f.drop (f.length - 32))

variable {flash : Bool} {f : List Byte} {ops : List DtpOp}

theorem netRequest_wrong (hp : parseFrame .net f = some ops) (ht : tagRight s f = false) (hw : frameTagged f = true ∨ getReg s 0x1100 0x07 ≠ 0) :
    netRequest s flash f = (addReg s 0x1100 0x0C 1, none) := by
  unfold netRequest
  rw [hp]
  dsimp only
  unfold tagRight at ht
  cases htag : frameTagged f with
  | false =>
    have hstrict : getReg s 0x1100 0x07 ≠ 0 := hw.resolve_left (by simp [htag])
    rw [if_pos (by rfl), if_pos (bne_iff_ne.mpr hstrict)]
  | true =>
    rw [htag, Bool.true_and] at ht
    rw [if_neg (by decide), if_pos (ne_of_beq_false ht)]

theorem netRequest_untagged (hp : parseFrame .net f = some ops) (ht : frameTagged f = false) (hs : getReg s 0x1100 0x07 = 0) :
    netRequest s flash f = plainRequest s flash .net f := by
  unfold netRequest
  rw [hp]
  dsimp only
  rw [ht, if_pos (by rfl), if_neg (by simp [hs])]

theorem netRequest_old (hp : parseFrame .net f = some ops) (ht : tagRight s f = true) (hc : frameCounter f ≤ s.ctl.counterTop) :
    netRequest s flash f = (addReg s 0x1100 0x0C 1, some (responseFrame (frameTransaction f) 0 none (refuseAll ops abCounter))) := by
  unfold tagRight at ht
  obtain ⟨htag, hmac⟩ := Bool.and_eq_true_iff.mp ht
  unfold netRequest
  rw [hp]
  dsimp only
  rw [htag, if_neg (by decide), if_neg (not_not.mpr (eq_of_beq hmac)), if_pos hc]

theorem netRequest_passed (hp : parseFrame .net f = some ops) (ht : tagRight s f = true) (hc : s.ctl.counterTop < frameCounter f)
    {x : State × List (DtpOp × Nat × List Byte)} (hx : runRequest (acceptCounter s (frameCounter f)) flash .net 1408 ops = x) :
    netRequest s flash f = (countRequest x.1 x.2,
      some (responseFrame (frameTransaction f) (frameCounter f) (some (getBlob s 0x1100 0x08)) x.2)) := by
  unfold tagRight at ht
  obtain ⟨htag, hmac⟩ := Bool.and_eq_true_iff.mp ht
  unfold netRequest
  rw [hp]
  dsimp only
  rw [htag, if_neg (by decide), if_neg (not_not.mpr (eq_of_beq hmac)), if_neg (by omega), hx]

/-! ### Peers -/

theorem dtpPeer_answered {peer : Nat} {a : List Byte} {u : State} (h : peerRequest (ackTo s peer 1) flash f = (u, some a)) :
    dtpPeer s flash peer f = (sendMessage (emit u (.dtpResponse .peer peer a)) peer 1 a).1 := by
  unfold dtpPeer
  extract_lets v x
  have hx : x = (u, some a) := h
  rw [hx]

theorem dtpPeer_emits {peer : Nat} {a : List Byte} {u : State} (h : peerRequest (ackTo s peer 1) flash f = (u, some a)) :
    Emission.dtpResponse .peer peer a ∈ (dtpPeer s flash peer f).out := by
  rw [dtpPeer_answered h]
  obtain ⟨more, ho⟩ := (sendMessage_grows (.refl (emit u (.dtpResponse .peer peer a))) peer 1 a).out
  rw [ho]
  exact List.mem_append_left _ (List.mem_append_right _ List.mem_cons_self)

theorem parseFrame_peer_tagged (h : frameTagged f = true) : parseFrame .peer f = none := by
  unfold parseFrame
  refine if_pos ?_
  simp [h]

/-! ### The obligation -/

/-- Settles O53: each request is parsed, checked and run by one function, whose answer is shown in the window or emitted. -/
theorem dtpRequests : Obligations.DtpRequests := by
  unfold Obligations.DtpRequests
  refine ⟨fun s token f w ha hd hl => ⟨fun h => ?_, fun h hc => ?_, fun ops h hc hp => ?_⟩, ⟨fun s port f w ops ha hc ho hp => ?_, ?_, ?_, ?_, ?_⟩⟩
  · exact congrArg Host.Outcome.next (windowRequest_repeated f h)
  · refine ⟨_, rfl, ?_⟩
    have hkept : Kept [.ctl] s (showResponse (tokenTaken s token) (token % 2 ^ 32) (busyAnswer f)) :=
      Kept.trans (t := tokenTaken s token) (Kept.ctl s _) (showResponse_keeps _ _ _)
    obtain ⟨ht, hr, hv⟩ := showResponse_spec (tokenTaken s token) (token % 2 ^ 32) (busyAnswer f)
    rw [windowRequest_busy f ha hd hl h hc]
    exact ⟨ht, hr, hv, hkept⟩
  · intro u r
    refine ⟨_, rfl, ?_⟩
    have he := windowRequest_answered (flash := w) ha hd hl h hc hp rfl
    obtain ⟨ht, hr, hv⟩ := showResponse_spec (countRequest (runRequest u w .host 1440 ops).1 r) (token % 2 ^ 32) (responseFrame (frameTransaction f) 0 none r)
    rw [he]
    refine ⟨ht, hr, runRequest_length .., hv, fun hbad => ?_⟩
    have hx : runRequest (tokenTaken s token) w .host 1440 ops = (tokenTaken s token, r) := Prod.ext (runRequest_refused hbad) rfl
    rw [hx, countRequest_refused hbad]
    have h1 : Kept [.ctl] s (tokenTaken s token) := Kept.ctl s _
    have hregs : RegsBut [(0x1100, 0x0C)] s (addReg (tokenTaken s token) 0x1100 0x0C 1) := (RegsBut.of_dict _ rfl).addReg (by decide) (by decide)
    have hblobs : BlobsBut [] s (addReg (tokenTaken s token) 0x1100 0x0C 1) := (BlobsBut.refl [] (tokenTaken s token)).addReg _ _ _
    have hshow := showResponse_keeps (addReg (tokenTaken s token) 0x1100 0x0C 1) (token % 2 ^ 32) (responseFrame (frameTransaction f) 0 none r)
    exact ⟨hregs.congr (hshow .dict (by decide)), hblobs.congr (hshow .dict (by decide)),
      ((h1.mono (by decide)).trans ((addReg_keeps _ _ _ _).mono (by decide))).trans (hshow.mono (by decide))⟩
  · intro tagOk
    refine ⟨fun ht hw => ?_, fun ht hcount => ?_, fun ht hcount => ?_, fun ht hs => ?_⟩
    · exact congrArg Host.Outcome.next (dtpNet_silent ha hc ho (netRequest_wrong hp ht hw))
    · exact congrArg Host.Outcome.next (dtpNet_answered ha hc ho (netRequest_old hp ht hcount))
    · refine ⟨_, rfl, ?_, dtpNet_keeps s w port f .pending (by decide)⟩
      rw [dtpNet_answered ha hc ho (netRequest_passed hp ht hcount rfl)]
      exact List.mem_append_right _ List.mem_cons_self
    · refine ⟨_, rfl, ?_, dtpNet_keeps s w port f .pending (by decide)⟩
      rw [dtpNet_answered ha hc ho ((netRequest_untagged hp ht hs).trans (plainRequest_of_parsed hp))]
      exact List.mem_append_right _ List.mem_cons_self
  · intro s port f w h
    exact congrArg Host.Outcome.next (dtpNet_shut h)
  · intro s peer f w ops hs hp ha
    refine ⟨_, whenControlled_of_controlled hs fun s => dtpPeer s w peer f, ?_⟩
    have he : peerRequest (ackTo s peer 1) w f =
        (addReg (ackTo s peer 1) 0x1100 0x0C 1, some (responseFrame (frameTransaction f) 0 none (refuseAll ops abOrigin))) := by
      unfold peerRequest
      rw [hp]
      exact if_pos ha
    refine ⟨dtpPeer_emits he, ?_⟩
    rw [dtpPeer_answered he]
    have h1 : Kept [.dict, .fabric, .out] s (addReg (ackTo s peer 1) 0x1100 0x0C 1) :=
      ((ackTo_keeps s peer 1).mono (by decide)).trans ((addReg_keeps _ _ _ _).mono (by decide))
    exact Same.of_kept ((h1.trans ((emit_keeps _ _).mono (by decide))).trans (sendMessage_keeps _ _ _ _).fst) (by decide)
  · exact ⟨rfl, fun f => parseFrame_peer_tagged⟩
  · intro s peer f w ops hs hp ha
    refine ⟨_, whenControlled_of_controlled hs fun s => dtpPeer s w peer f, ?_⟩
    refine dtpPeer_emits (u := countRequest (runRequest (ackTo s peer 1) w .peer 1440 ops).1 (runRequest (ackTo s peer 1) w .peer 1440 ops).2) ?_
    unfold peerRequest
    rw [hp]
    exact (if_neg ha).trans (plainRequest_of_parsed hp)

end Sys2Proof.Machine
end
section
/-! What a committed frame leaves (O19). -/
namespace Sys2Proof.Machine
open Sys2Proof

variable {s t u : State} {k j : Nat}

/-! ### The table of frames -/

theorem Kept.frames (s : State) (fs : List FrameEntry) : Kept [.frames] s { s with frames := fs } := by
  intro p hp
  cases p
  case frames => simp at hp
  all_goals rfl

theorem Kept.umpire (s : State) (x : Umpire) : Kept [.umpire] s { s with umpire := x } := by
  intro p hp
  cases p
  case umpire => simp at hp
  all_goals rfl

theorem key_of_findFrame {f : FrameEntry} (h : findFrame s k j = some f) : f.ctx = k ∧ f.j = j := by simpa using List.find?_some h

theorem findFrame_putFrame_same {f g : FrameEntry} (hg : findFrame s f.ctx f.j = some g) : findFrame (putFrame s f) f.ctx f.j = some f := by
  have hkey : ((fun x : FrameEntry => x.ctx == f.ctx && x.j == f.j) ∘ fun x => if x.ctx = f.ctx ∧ x.j = f.j then f else x) =
      fun x => x.ctx == f.ctx && x.j == f.j := by
    funext x
    by_cases hx : x.ctx = f.ctx ∧ x.j = f.j <;> simp [hx]
  obtain ⟨hc, hj⟩ := key_of_findFrame hg
  rw [findFrame, putFrame, List.find?_map, hkey, ← findFrame, hg, Option.map_some, if_pos ⟨hc, hj⟩]

theorem findFrame_putFrame_ne (s : State) {f : FrameEntry} (hn : ¬(f.ctx = k ∧ f.j = j)) : findFrame (putFrame s f) k j = findFrame s k j := by
  have hkey : ((fun x : FrameEntry => x.ctx == k && x.j == j) ∘ fun x => if x.ctx = f.ctx ∧ x.j = f.j then f else x) =
      fun x => x.ctx == k && x.j == j := by
    funext x
    by_cases hx : x.ctx = f.ctx ∧ x.j = f.j
    · simp [hx]
    · simp [hx]
  rw [findFrame, putFrame, List.find?_map, hkey, ← findFrame]
  cases hf : findFrame s k j with
  | none => rfl
  | some g =>
    obtain ⟨hc, hj⟩ := key_of_findFrame hf
    rw [Option.map_some, if_neg]
    rintro ⟨h1, h2⟩
    exact hn ⟨h1.symm.trans hc, h2.symm.trans hj⟩

/-! ### What follows a commit -/

/-- What the operations after a frame's commit leave: the context's counters, and of the frame's entry, while it stands, its outcome. -/
structure AfterCommit (k j : Nat) (s t : State) : Prop where
  counters : ∀ sub, sub = 0x3A ∨ sub = 0x3C → getReg t (ctxIndex k) sub = getReg s (ctxIndex k) sub
  entry : ∀ f, findFrame t k j = some f →
    ∃ g, findFrame s k j = some g ∧ f.status = g.status ∧ f.lag = g.lag ∧ f.tick = g.tick ∧ f.outLen = g.outLen

namespace AfterCommit

theorem refl (k j : Nat) (s : State) : AfterCommit k j s s := ⟨fun _ _ => rfl, fun f hf => ⟨f, hf, rfl, rfl, rfl, rfl⟩⟩

theorem trans (h : AfterCommit k j s t) (h' : AfterCommit k j t u) : AfterCommit k j s u := by
  refine ⟨fun sub hs => (h'.counters sub hs).trans (h.counters sub hs), fun f hf => ?_⟩
  obtain ⟨g, hg, a, b, c, d⟩ := h'.entry f hf
  obtain ⟨e, he, a', b', c', d'⟩ := h.entry g hg
  exact ⟨e, he, a.trans a', b.trans b', c.trans c', d.trans d'⟩

/-- The frames are the same, and so are the counters. -/
theorem reads (h : AfterCommit k j s t) (hf : u.frames = t.frames)
    (hc : ∀ sub, sub = 0x3A ∨ sub = 0x3C → getReg u (ctxIndex k) sub = getReg t (ctxIndex k) sub) : AfterCommit k j s u := by
  refine h.trans ⟨hc, fun f hfind => ⟨f, ?_, rfl, rfl, rfl, rfl⟩⟩
  unfold findFrame at hfind ⊢
  rwa [hf] at hfind

theorem kept {ps : List Sys2Proof.Part} (h : AfterCommit k j s t) (hk : Kept ps t u) (hp : (ps.contains .dict || ps.contains .frames) = false := by rfl) :
    AfterCommit k j s u := by
  rw [Bool.or_eq_false_iff] at hp
  exact h.reads (hk .frames (by simpa using hp.2)) fun sub _ => getReg_congr (hk .dict (by simpa using hp.1)) _ _

theorem setReg (h : AfterCommit k j s t) {i sub v : Nat} (hn : 0xC000 ≤ i ∨ (sub < 256 ∧ sub ≠ 0x3A ∧ sub ≠ 0x3C)) (hk : k < 16384) :
    AfterCommit k j s (setReg t i sub v) :=
  h.reads rfl fun sub' hs => getReg_setReg_ne t v (by unfold objKey ctxIndex; omega)

theorem foldl {α : Type} {f : State → α → State} (hf : ∀ t a, AfterCommit k j s t → AfterCommit k j s (f t a)) (l : List α)
    (h : AfterCommit k j s t) : AfterCommit k j s (l.foldl f t) := List.foldlRecOn l f h fun t ht a _ => hf t a ht

theorem ite {c : Prop} [Decidable c] (h : AfterCommit k j s t) (h' : AfterCommit k j s u) : AfterCommit k j s (if c then t else u) := by
  split <;> assumption

/-- A frame's entry is rewritten with the outcome it has. -/
theorem putFrame (h : AfterCommit k j s t) {f g : FrameEntry} (hg : findFrame t f.ctx f.j = some g) (hst : f.status = g.status) (hl : f.lag = g.lag)
    (ht : f.tick = g.tick) (ho : f.outLen = g.outLen) : AfterCommit k j s (putFrame t f) := by
  refine h.trans ⟨fun _ _ => rfl, fun e he => ?_⟩
  by_cases hk : f.ctx = k ∧ f.j = j
  · obtain ⟨rfl, rfl⟩ := hk
    cases (findFrame_putFrame_same hg).symm.trans he
    exact ⟨g, hg, hst, hl, ht, ho⟩
  · rw [findFrame_putFrame_ne t hk] at he
    exact ⟨e, he, rfl, rfl, rfl, rfl⟩

/-- Entries of frames go. -/
theorem filter (h : AfterCommit k j s t) (a b : Nat) : AfterCommit k j s { t with frames := t.frames.filter fun f => !(f.ctx == a && f.j == b) } := by
  refine h.trans ⟨fun _ _ => rfl, fun e he => ⟨e, ?_, rfl, rfl, rfl, rfl⟩⟩
  obtain ⟨hc, hj⟩ := key_of_findFrame he
  unfold findFrame at he ⊢
  rw [List.find?_filter] at he
  have hgone : ¬k = a ∨ ¬j = b := by
    have := List.find?_some he
    simpa [hc, hj] using this
  have hp : (fun x : FrameEntry => decide ((!(x.ctx == a && x.j == b)) = true ∧ (x.ctx == k && x.j == j) = true)) = fun x => x.ctx == k && x.j == j := by
    funext x
    by_cases hx : x.ctx = k ∧ x.j = j
    · obtain ⟨h1, h2⟩ := hx
      simpa [h1, h2] using hgone
    · have hne : (x.ctx == k && x.j == j) = false := by simpa using hx
      simp [hne]
  rwa [hp] at he

theorem clearWait (h : AfterCommit k j s t) (a b : Nat) (m : Nat × Nat) : AfterCommit k j s (clearWait t a b m) := by
  unfold Machine.clearWait
  split
  · next f hf =>
    obtain ⟨rfl, rfl⟩ := key_of_findFrame hf
    exact h.putFrame hf rfl rfl rfl rfl
  · exact h

theorem addWait (h : AfterCommit k j s t) (a b : Nat) (m : Nat × Nat) : AfterCommit k j s (addWait t a b m) := by
  unfold Machine.addWait
  split
  · next f hf =>
    obtain ⟨rfl, rfl⟩ := key_of_findFrame hf
    exact h.ite (h.putFrame hf rfl rfl rfl rfl)
  · exact h

theorem freeFrame (h : AfterCommit k j s t) (a b : Nat) : AfterCommit k j s (freeFrame t a b) := by
  unfold Machine.freeFrame
  extract_lets t1 t2
  have h1 : AfterCommit k j s t1 := by
    unfold t1
    split
    · exact h.kept (releaseRange_keeps _ _)
    · exact h
  have h2 : AfterCommit k j s t2 := h1.kept (toMirror_keeps _ _)
  exact h2.filter a b

theorem settleFrame (h : AfterCommit k j s t) (a b : Nat) : AfterCommit k j s (settleFrame t a b) := by
  unfold Machine.settleFrame
  split
  · exact (h.freeFrame a b).ite h
  · exact h

theorem logFault (h : AfterCommit k j s t) (hk : k < 16384) (code severity kind unit ctx detail : Nat) :
    AfterCommit k j s (logFault t code severity kind unit ctx detail) := by
  refine h.reads (logFault_keeps t _ _ _ _ _ _ .frames (by decide)) fun sub hs => ?_
  refine (RegsBut.refl [(0xE000, 0x01), (0xE000, 0x05)] t).logFault (by simp) (by simp) _ _ _ _ _ _ _ _ (by omega) ?_
  simp only [List.mem_cons, Prod.mk.injEq, List.not_mem_nil, or_false, ctxIndex]
  omega

theorem addReg (h : AfterCommit k j s t) {i sub n : Nat} (hn : 0xC000 ≤ i ∨ i < 0x8000) (hs : sub < 256) (hk : k < 16384) :
    AfterCommit k j s (addReg t i sub n) :=
  h.reads (addReg_keeps t _ _ _ .frames (by decide)) fun sub' hs' => getReg_addReg_ne t n (by unfold objKey ctxIndex; omega)

theorem released (h : AfterCommit k j s t) (hr : Released t u) (hf : u.frames = t.frames) (hk : k < 16384) : AfterCommit k j s u :=
  h.reads hf fun sub hs => hr.low _ _ (by unfold ctxIndex; omega) (by omega) (by omega)

theorem releaseOutput (h : AfterCommit k j s t) (hk : k < 16384) (a b : Nat) : AfterCommit k j s (releaseOutput t a b) := by
  unfold Machine.releaseOutput
  split
  · next e _ =>
    refine h.ite (.foldl (fun u f hu => ?_) _ h)
    unfold releaseFlow
    extract_lets t1 x live held t2 t3
    have h1 : AfterCommit k j s t1 := hu.released (resumeReceivers_released (.refl u) f e) (resumeReceivers_keeps u f e .frames (by decide)) hk
    have h2 : AfterCommit k j s t2 := .foldl (fun v r hv => hv.addWait _ _ _) _ h1
    have h3 : AfterCommit k j s t3 := (h2.addReg (.inl (by unfold flowIndex; omega)) (by decide) hk).ite h2
    have h4 := h3.kept (putFlow_keeps t3 f { x with held := x.held ++ held })
    exact h4.released (deliverFlow_released (.refl _) f) (deliverFlow_keeps _ f .frames (by decide)) hk
  · exact h

theorem postReports (h : AfterCommit k j s t) : AfterCommit k j s (postReports t) := by
  unfold Machine.postReports
  refine h.ite (.foldl (fun u e hu => .foldl (fun v m hv => ?_) _ hu) _ h)
  exact ((hv.kept (putRecord_keeps v _ _ _)).clearWait _ _ _).settleFrame _ _

theorem settleStop (h : AfterCommit k j s t) (hk : k < 16384) (a : Nat) : AfterCommit k j s (settleStop t a) := by
  unfold Machine.settleStop
  refine AfterCommit.ite ?_ h
  unfold leaveService
  extract_lets t1 t2 c
  have h1 : AfterCommit k j s t1 := by
    refine AfterCommit.kept ?_ (leaveLegs_keeps _ a)
    refine .foldl (fun u f hu => hu.setReg (.inl (by unfold flowIndex; omega)) hk) _ ?_
    refine AfterCommit.kept ?_ (dropBuffers_keeps _ a)
    unfold dropWaiting
    exact .foldl (fun u f hu => (hu.freeFrame _ _).ite hu) _ h
  have h2 : AfterCommit k j s t2 :=
    (h1.setReg (i := ctxIndex a) (sub := 0x02) (.inr (by decide)) hk).setReg (.inr (by decide)) hk
  exact h2.kept (putCtx_keeps _ _ _)

end AfterCommit

/-! ### A frame's commit -/

theorem addReg_ctxCount (s : State) (hk : k < 16384) : addReg s (ctxIndex k) 0x3C 1 =
    setReg s (ctxIndex k) 0x3C ((getReg s (ctxIndex k) 0x3C + 1) % 2 ^ 64) := by
  have hrec : recordOf (ctxIndex k) = some 0x8000 := by
    unfold recordOf ctxIndex
    repeat rw [if_neg (by omega)]
    rw [if_pos (by omega)]
  have hobj : findObj (ctxIndex k) 0x3C = (objsOf 0x8000).find? fun o => decide (o.first ≤ 0x3C) && decide (0x3C ≤ o.last) := by
    unfold findObj
    rw [hrec]
  have hw : (((objsOf 0x8000).find? fun o => decide (o.first ≤ 0x3C) && decide (0x3C ≤ o.last)).map fun o => o.ty.width.getD 8) = some 8 := by decide
  obtain ⟨o, ho, hwo⟩ := Option.map_eq_some_iff.mp hw
  unfold addReg
  rw [hobj, ho]
  dsimp only
  rw [hwo, show (256 : Nat) ^ 8 = 2 ^ 64 by norm_num]

theorem findWork_none_iff (s : State) (id : WorkId) : findWork s id = none ↔ id ∉ s.works.map (·.id) := by
  unfold findWork
  rw [List.find?_eq_none, List.mem_map]
  simp

theorem putWork_ids (s : State) (w : Work) : (putWork s w).works.map (·.id) = s.works.map (·.id) := by
  unfold putWork
  rw [List.map_map]
  refine List.map_congr_left fun x _ => ?_
  by_cases hx : x.id = w.id <;> simp [hx]

theorem deliver_ids (s : State) (id : WorkId) (idx pos obj : Nat) : (deliver s id idx pos obj).works.map (·.id) = s.works.map (·.id) := by
  unfold deliver
  split
  · split
    · rfl
    · exact putWork_ids _ _
  · rfl

theorem deliverVectors_ids (s : State) (k j : Nat) : (deliverVectors s k j).works.map (·.id) = s.works.map (·.id) := by
  unfold deliverVectors
  extract_lets open_
  split
  · rfl
  · next w _ =>
    split
    · rfl
    · next p c _ =>
      have hform (vs) : (signalMotion (formVideo s k j w p c vs) w p).works.map (·.id) = s.works.map (·.id) := by
        have hf : (formVideo s k j w p c vs).works = s.works := formVideo_keeps s k j w p c vs .works (by decide)
        unfold signalMotion
        split
        · rw [deliver_ids, hf]
        · rw [hf]
      split
      · rfl
      · split
        · split
          · exact (putWork_ids _ _).trans (hform _)
          · rfl
        · refine (putWork_ids _ _).trans ?_
          split
          · rw [clearPrevious_keeps s k j .works (by decide)]
          · rfl

theorem deliverVectors_of_none (h : findWork s (.frame k j) = none) : deliverVectors s k j = s := by
  unfold deliverVectors
  extract_lets open_
  rw [h]

/-- What a frame's commit leaves of its work, of its context's counters, of its entry and of device memory. -/
structure Committed (s : State) (k j : Nat) (w : Work) (st : Nat) (outs : List (List Byte)) (t : State) : Prop where
  work : findWork t (.frame k j) = none
  count : getReg t (ctxIndex k) 0x3C = (getReg s (ctxIndex k) 0x3C + 1) % 2 ^ 64
  lag : getReg t (ctxIndex k) 0x3A = w.lag
  entry : ∀ f, findFrame t k j = some f → f.status = st ∧ f.lag = w.lag ∧ f.tick = counterOf s ∧ (statusCommits st = false → f.outLen = 0)
  mem : (∀ v, v ∈ s.works → v.id ≠ .frame k (j + 1)) → statusCommits st = true → t.mem = s.mem.write (outputPlace w).1 (outs.flatMap id)

/-- The state in which a frame's outputs are written, and what its context keeps of it. -/
def commitStored (s : State) (k j : Nat) (w : Work) (st : Nat) (outs : List (List Byte)) : State :=
  let kind := ctxKind s k
  if statusCommits st then
    let s := { s with mem := s.mem.write (outputPlace w).1 (if statusCommits st then outs.flatMap id else []) }
    if isService w.slot then s
    else if kind = 1 ∨ kind = 3 then encodeEnd s k j w (if statusCommits st then outs.flatMap id else []) else decodeEnd s k j w
  else
    let s := keepState s k j w
    if isService w.slot then s else if kind = 1 ∨ kind = 3 then encodeFailed s k j w else decodeFailed s k j

/-- The entry of a frame that has ended. -/
def commitEntry (s : State) (k j : Nat) (w : Work) (st : Nat) (outs : List (List Byte)) : FrameEntry :=
  let b (v : Bool) (i : Nat) : Nat := if v then 2 ^ i else 0
  { (findFrame s k j).getD { ctx := k, j, state := 2 } with
      state := 3, card := if statusCommits st then workCard w outs else 0, status := st, lag := w.lag
      oflags := b (w.lag != 0) 0 + b (workConcealed s k j w) 1 + b w.inputLoss 2 + b w.repeated 3
      flags := workFlags w % 16 + b w.nonStrict 4 + b ((ctxReg s k 0x3B).testBit 0) 5 + 64 * workDetail w
      outBase := (outputPlace w).1, outLen := (if statusCommits st then outs.flatMap id else []).length, tick := counterOf s
      waiting := frameMarks s k (statusCommits st), units := workUnits w, place := ctxReg s k 0x3C
      kind := outputKind s k j w, stamp := outputStamp s k j w }

/-- The state in which the work is gone and the entry stands. -/
def commitEntered (s : State) (k j : Nat) (w : Work) (e : FrameEntry) : State :=
  let s := dropWork (mirrorState s k j w) w.id
  if (findFrame s k j).isSome then putFrame s e else { s with frames := s.frames ++ [e] }

/-- The state in which the context's counters show the frame. -/
def commitCounted (s : State) (k j : Nat) (w : Work) (card : Nat) (limit : Bool) : State :=
  let s := toMirror s (.entry (.frame k j) 3 card)
  let s := setReg (addReg s (ctxIndex k) 0x3C 1) (ctxIndex k) 0x3A w.lag
  setReg s (ctxIndex k) 0x3B ((if limit then 2 ^ 0 else 0) + (if w.lag != 0 then 2 ^ 1 else 0))

/-- The state in which the frame's output is on its way, and the context has stopped where it was stopping. -/
def commitSettled (s : State) (k j : Nat) (w : Work) (st card : Nat) (conc : Bool) : State :=
  let s := countLost s st k j
  let s :=
    if statusCommits st ∧ umpireCompares s k then
      { s with umpire := { s.umpire with
          fresh := s.umpire.fresh ++ [⟨card, j, (if conc then 2 ^ 0 else 0) + (if w.lag != 0 then 2 ^ 1 else 0), k⟩] } }
    else s
  let s := if statusCommits st then releaseOutput s k j else s
  settleFrame (settleStop (postReports s) k) k j

theorem commitFrame_eq (s : State) (k j : Nat) (w : Work) (st : Nat) (outs : List (List Byte)) :
    commitFrame s k j w st outs = deliverVectors (commitSettled
      (commitCounted (commitEntered (commitStored s k j w st outs) k j w (commitEntry s k j w st outs)) k j w
        (if statusCommits st then workCard w outs else 0) ((ctxReg s k 0x3B).testBit 0))
      k j w st (if statusCommits st then workCard w outs else 0) (workConcealed s k j w)) k (j + 1) := by
  unfold commitFrame
  extract_lets commits data card place b conc limit old e kind sb sk s2 s3 s4 s5 s6 s7 s8 s9 um s11 s12 s13
  have h2 : s2 = commitStored s k j w st outs := rfl
  have he : e = commitEntry s k j w st outs := rfl
  have h5 : s5 = commitEntered s2 k j w e := rfl
  have h8 : s8 = commitCounted s5 k j w card limit := rfl
  have hz : settleFrame (settleStop s13 k) k j = commitSettled s8 k j w st card conc := rfl
  rw [hz, h8, h5, h2, he]

theorem commitStored_spec (s : State) (k j : Nat) (w : Work) (st : Nat) (outs : List (List Byte)) :
    Kept [.mem, .ctxs] s (commitStored s k j w st outs) ∧
    (statusCommits st = true → (commitStored s k j w st outs).mem = s.mem.write (outputPlace w).1 (outs.flatMap id)) := by
  unfold commitStored
  extract_lets kind sb sk
  split
  · next hc =>
    have hb : Kept [.mem] s sb := Kept.mem s _
    have hbm : sb.mem = s.mem.write (outputPlace w).1 (outs.flatMap id) := by
      unfold sb
      dsimp only
      rw [if_pos hc]
    refine ⟨Kept.ite (hb.mono (by decide)) (Kept.ite ((hb.mono (by decide)).trans ((encodeEnd_keeps sb k j w _).mono (by decide)))
      ((hb.mono (by decide)).trans ((decodeEnd_keeps sb k j w).mono (by decide)))), fun _ => ?_⟩
    split
    · exact hbm
    · split
      · exact (encodeEnd_keeps sb k j w _ .mem (by decide)).trans hbm
      · exact (decodeEnd_keeps sb k j w .mem (by decide)).trans hbm
  · next hc =>
    have hkeep : Kept [.mem, .ctxs] s sk := (keepState_keeps s k j w).mono (by decide)
    exact ⟨Kept.ite hkeep (Kept.ite (hkeep.trans ((encodeFailed_keeps sk k j w).mono (by decide)))
      (hkeep.trans ((decodeFailed_keeps sk k j).mono (by decide)))), fun h => absurd h hc⟩

theorem commitEntry_spec (s : State) (k j : Nat) (w : Work) (st : Nat) (outs : List (List Byte)) :
    (commitEntry s k j w st outs).ctx = k ∧ (commitEntry s k j w st outs).j = j ∧ (commitEntry s k j w st outs).status = st ∧
    (commitEntry s k j w st outs).lag = w.lag ∧ (commitEntry s k j w st outs).tick = counterOf s ∧
    (statusCommits st = false → (commitEntry s k j w st outs).outLen = 0) := by
  have hkey : ((findFrame s k j).getD { ctx := k, j, state := 2 }).ctx = k ∧ ((findFrame s k j).getD { ctx := k, j, state := 2 }).j = j := by
    cases hf : findFrame s k j with
    | none => exact ⟨rfl, rfl⟩
    | some f => exact key_of_findFrame hf
  refine ⟨hkey.1, hkey.2, rfl, rfl, rfl, fun hc => ?_⟩
  show (if statusCommits st then outs.flatMap id else []).length = 0
  rw [hc]
  rfl

theorem commitEntered_spec {e : FrameEntry} (hc : e.ctx = k) (hj : e.j = j) (s : State) (w : Work) :
    findFrame (commitEntered s k j w e) k j = some e ∧ Kept [.fabric, .out, .works, .frames] s (commitEntered s k j w e) ∧
    (commitEntered s k j w e).works = s.works.filter fun v => !(v.id == w.id) := by
  unfold commitEntered
  extract_lets t
  have ht : Kept [.fabric, .out, .works] s t := ((mirrorState_keeps s k j w).mono (by decide)).trans ((dropWork_keeps _ w.id).mono (by decide))
  have hw : t.works = s.works.filter fun v => !(v.id == w.id) := congrArg (List.filter _) (mirrorState_keeps s k j w .works (by decide))
  clear_value t
  subst hc hj
  cases hf : findFrame t e.ctx e.j with
  | some f =>
    rw [if_pos (by simp)]
    exact ⟨findFrame_putFrame_same hf, (ht.mono (by decide)).trans ((putFrame_keeps t e).mono (by decide)), hw⟩
  | none =>
    rw [if_neg (by simp)]
    have happ : Kept [.frames] t { t with frames := t.frames ++ [e] } := Kept.frames t _
    refine ⟨?_, (ht.mono (by decide)).trans (happ.mono (by decide)), hw⟩
    unfold findFrame at hf ⊢
    dsimp only
    rw [List.find?_append, hf]
    simp

theorem commitCounted_spec (hk : k < 16384) (s : State) (j : Nat) (w : Work) (card : Nat) (limit : Bool) :
    getReg (commitCounted s k j w card limit) (ctxIndex k) 0x3C = (getReg s (ctxIndex k) 0x3C + 1) % 2 ^ 64 ∧
    getReg (commitCounted s k j w card limit) (ctxIndex k) 0x3A = w.lag ∧ Kept [.dict, .fabric, .out] s (commitCounted s k j w card limit) := by
  unfold commitCounted
  extract_lets s6 s7
  have hdict : s6.dict = s.dict := toMirror_keeps s _ .dict (by decide)
  have h6 : Kept [.dict, .fabric, .out] s s6 := (toMirror_keeps s _).mono (by decide)
  have hne : ∀ a b, a < 256 → b < 256 → a ≠ b → objKey (ctxIndex k) a ≠ objKey (ctxIndex k) b := fun a b _ _ hn => by unfold objKey; omega
  refine ⟨?_, ?_, ((h6.trans ((addReg_keeps s6 _ _ _).mono (by decide))).trans ((setReg_keeps _ _ _ _).mono (by decide))).trans
    ((setReg_keeps s7 _ _ _).mono (by decide))⟩
  · unfold s7
    rw [getReg_setReg_ne _ _ (hne _ _ (by decide) (by decide) (by decide)), getReg_setReg_ne _ _ (hne _ _ (by decide) (by decide) (by decide)),
      addReg_ctxCount s6 hk, getReg_setReg_same, getReg_congr hdict]
  · unfold s7
    rw [getReg_setReg_ne _ _ (hne _ _ (by decide) (by decide) (by decide)), getReg_setReg_same]

theorem commitSettled_spec (hk : k < 16384) (s : State) (j : Nat) (w : Work) (st card : Nat) (conc : Bool) :
    AfterCommit k j s (commitSettled s k j w st card conc) ∧
    Kept [.dict, .host, .ctl, .frames, .allocs, .ctxs, .srings, .flows, .fabric, .umpire, .out] s (commitSettled s k j w st card conc) := by
  unfold commitSettled
  extract_lets s9 um s11 s12
  have ha9 : AfterCommit k j s s9 := by
    unfold s9 countLost
    exact (((AfterCommit.refl k j s).addReg (.inr (by decide)) (by decide) hk).logFault hk _ _ _ _ _ _).ite (.refl k j s)
  have hk9 : Kept [.dict, .ctl] s s9 := countLost_keeps s st k j
  have h11 : AfterCommit k j s s11 ∧ Kept [.umpire] s9 s11 := by
    unfold s11
    split
    · exact ⟨ha9.reads rfl fun _ _ => rfl, Kept.umpire s9 _⟩
    · exact ⟨ha9, .refl _ s9⟩
  obtain ⟨ha11, hk11⟩ := h11
  clear_value s11
  have ha12 : AfterCommit k j s s12 := (ha11.releaseOutput hk k j).ite ha11
  have hk12 : Kept releaseFlowParts s11 s12 := Kept.ite (releaseOutput_keeps s11 k j) (.refl _ s11)
  refine ⟨(ha12.postReports.settleStop hk k).settleFrame k j, ?_⟩
  exact (((((hk9.mono (by decide)).trans (hk11.mono (by decide))).trans (hk12.mono (by decide))).trans ((postReports_keeps s12).mono (by decide))).trans
    ((settleStop_keeps _ k).mono (by decide))).trans ((settleFrame_keeps _ k j).mono (by decide))

theorem commitFrame_committed {w : Work} (hk : k < 16384) (hw : w.id = .frame k j) (s : State) (st : Nat) (outs : List (List Byte)) :
    Committed s k j w st outs (commitFrame s k j w st outs) := by
  rw [commitFrame_eq]
  obtain ⟨hk2, hm2⟩ := commitStored_spec s k j w st outs
  obtain ⟨hec, hej, hstatus, hlag, htick, hlen⟩ := commitEntry_spec s k j w st outs
  generalize commitStored s k j w st outs = s2 at hk2 hm2 ⊢
  generalize commitEntry s k j w st outs = e at hec hej hstatus hlag htick hlen ⊢
  obtain ⟨hf5, hk5, hw5⟩ := commitEntered_spec hec hej s2 w
  generalize commitEntered s2 k j w e = s5 at hf5 hk5 hw5 ⊢
  obtain ⟨h3C, h3A, hk8⟩ := commitCounted_spec hk s5 j w (if statusCommits st then workCard w outs else 0) ((ctxReg s k 0x3B).testBit 0)
  generalize commitCounted s5 k j w (if statusCommits st then workCard w outs else 0) ((ctxReg s k 0x3B).testBit 0) = s8 at h3C h3A hk8 ⊢
  obtain ⟨hlast, hkz⟩ := commitSettled_spec hk s8 j w st (if statusCommits st then workCard w outs else 0) (workConcealed s k j w)
  generalize commitSettled s8 k j w st (if statusCommits st then workCard w outs else 0) (workConcealed s k j w) = z at hlast hkz ⊢
  have hz : AfterCommit k j s8 (deliverVectors z k (j + 1)) := hlast.kept (deliverVectors_keeps z k (j + 1))
  have hworks : z.works = s.works.filter fun v => !(v.id == w.id) := by
    rw [hkz .works (by decide), hk8 .works (by decide), hw5, hk2 .works (by decide)]
  have hf8 : findFrame s8 k j = some e := by
    unfold findFrame at hf5 ⊢
    rw [hk8 .frames (by decide)]
    exact hf5
  have hcount : getReg s5 (ctxIndex k) 0x3C = getReg s (ctxIndex k) 0x3C := getReg_congr ((hk5 .dict (by decide)).trans (hk2 .dict (by decide))) _ _
  refine ⟨?_, (hz.counters _ (.inr rfl)).trans (h3C.trans (by rw [hcount])), (hz.counters _ (.inl rfl)).trans h3A, fun f hf => ?_, fun hno hc => ?_⟩
  · rw [findWork_none_iff, deliverVectors_ids, hworks, List.mem_map]
    rintro ⟨v, hv, hid⟩
    have := (List.mem_filter.mp hv).2
    simp [hid, hw] at this
  · obtain ⟨g, hg, a, b, c, d⟩ := hz.entry f hf
    cases hg.symm.trans hf8
    exact ⟨a.trans hstatus, b.trans hlag, c.trans htick, fun hn => d.trans (hlen hn)⟩
  · have hnone : findWork z (.frame k (j + 1)) = none := by
      rw [findWork_none_iff, hworks, List.mem_map]
      rintro ⟨v, hv, hid⟩
      exact hno v (List.mem_filter.mp hv).1 hid
    rw [deliverVectors_of_none hnone, hkz .mem (by decide), hk8 .mem (by decide), hk5 .mem (by decide), hm2 hc]

/-! ### The commit of a work -/

/-- The state in which a stream frame's output is formed. -/
def formedState (s : State) (k j : Nat) (w : Work) : State :=
  if statusCommits (workStatus w) = true ∧ isService w.slot = false then formOutput s k j w else s

/-- A work's status, once its outputs are known to fit or not. -/
def fittedStatus (w : Work) (outs : List (List Byte)) : Nat :=
  if statusCommits (workStatus w) = true ∧ w.slot ≠ 0xFFFF ∧ (outputPlace w).2 < (outs.map (·.length)).foldl (· + ·) 0 then stOutputOverflow else workStatus w

theorem formedState_keeps (s : State) (k j : Nat) (w : Work) : Kept [.mem] s (formedState s k j w) := by
  unfold formedState
  exact (formOutput_keeps s k j w).ite (.refl _ s)

theorem replayStatus_of_none {w : Work} (h : w.oldCard = none) (st : Nat) (outs : List (List Byte)) : replayStatus w st outs = st := by
  unfold replayStatus
  rw [h]

variable {w : Work}

theorem commitWork_frame (hw : findWork s (.frame k j) = some w) (he : earlierOpen s (.frame k j) = false) (hs : w.stopped = false)
    (hd : workDone s w = true) (ho : w.oldCard = none) :
    commitWork s (.frame k j) = commitFrame (formedState s k j w) k j w (fittedStatus w (workOutputs (formedState s k j w) w))
      (workOutputs (formedState s k j w) w) := by
  have hform : (if statusCommits (workStatus w) = true ∧ (!isService w.slot) = true then formOutput s k j w else s) = formedState s k j w := by
    unfold formedState
    simp only [Bool.not_eq_true']
  unfold commitWork
  rw [hw]
  dsimp only
  rw [if_neg (by simp [he, hs]), if_neg (by simp [hd]), hform, replayStatus_of_none ho]
  exact congrArg (fun u => commitFrame u k j w _ _) (if_neg fun h => h.2 rfl)

theorem commitWork_idle {id : WorkId} (hw : findWork s id = some w)
    (h : earlierOpen s id = true ∨ w.stopped = true ∨ (workDone s w = false ∧ spanCancelled s w = false)) : commitWork s id = s := by
  unfold commitWork
  rw [hw]
  dsimp only
  split
  · rfl
  · next hopen =>
    rw [not_or] at hopen
    obtain ⟨hd, hc⟩ := (h.resolve_left hopen.1).resolve_left hopen.2
    rw [if_pos (by simp [hd]), if_neg (by simp [hc])]

theorem commitWork_cancelled {id : WorkId} (hw : findWork s id = some w) (he : earlierOpen s id = false) (hs : w.stopped = false)
    (hd : workDone s w = false) (hc : spanCancelled s w = true) : commitWork s id = cancelFrame s w := by
  unfold commitWork
  rw [hw]
  dsimp only
  rw [if_neg (by simp [he, hs]), if_pos (by simp [hd]), if_pos hc]

/-- The state in which a frame that cannot end has left the tiles and its sync window. -/
def spanLeft (s : State) (id : WorkId) : State :=
  { s with tiles := s.tiles.map fun (e : Nat × Tile) => (e.1, dropFromTile id e.2)
           syncWins := s.syncWins.filter fun x => !(x.work == id) }

theorem cancelFrame_eq (hid : w.id = .frame k j) : cancelFrame s w = commitFrame (spanLeft s (.frame k j)) k j w stCancelled [] := by
  unfold cancelFrame
  rw [hid]
  rfl

/-! ### A package job's frames -/

variable {r p i : Nat} {e : JobEntry}

theorem commitWork_job (hw : findWork s (.job r p i) = some w) (he : earlierOpen s (.job r p i) = false) (hs : w.stopped = false)
    (hd : workDone s w = true) (ho : w.oldCard = none) (hj : findJob s r p = some e) :
    commitWork s (.job r p i) = commitJobFrame s e i w (fittedStatus w (workOutputs s w)) (workOutputs s w) := by
  unfold commitWork
  rw [hw]
  dsimp only
  rw [if_neg (by simp [he, hs]), if_neg (by simp [hd]), hj, replayStatus_of_none ho]
  exact congrArg (fun u => commitJobFrame u e i w _ _) (if_neg fun h => h.2 rfl)

/-- The state in which a job's frame has written its outputs and left the table of work. -/
def jobFrameEnded (s : State) (m : Memory) (id : WorkId) : State := dropWork { s with mem := m } id

/-- A frame that is not the last is added to its job's entry. -/
theorem commitJobFrame_open (hen : isEngineJob e.job = false) (hcut : e.cut = false) (hl : i + 1 ≠ e.job.frames) (s : State) (w : Work) (st : Nat)
    (outs : List (List Byte)) : ∃ f m, commitJobFrame s e i w st outs = putJob (jobFrameEnded s m w.id) f ∧ f.ring = e.ring ∧ f.pos = e.pos ∧
      f.done = i + 1 ∧ f.state = e.state ∧ f.staged.length = e.staged.length + 1 ∧ f.job = e.job := by
  unfold commitJobFrame
  extract_lets engine last data place s1 m card image keep f s2 s3 again
  have hengine : engine = false := hen
  have hlast : last = false := by
    unfold last
    rw [hengine, hcut]
    simpa using hl
  have hagain : again = false := by
    unfold again
    rw [hlast]
    split <;> rfl
  have hs3 : s3 = s2 := if_neg (by simp [hengine])
  have hstaged : f.staged.length = e.staged.length + 1 := by
    show (if engine then [] else e.staged ++ keep).length = _
    rw [hengine, if_neg (by decide), List.length_append]
    congr 1
    unfold keep
    split <;> rfl
  rw [hagain, hlast, if_neg (by decide), if_neg (by decide), hs3]
  exact ⟨f, _, rfl, rfl, rfl, rfl, rfl, hstaged, rfl⟩

/-- The last frame ends its job. -/
theorem commitJobFrame_last (hen : isEngineJob e.job = false) (hl : i + 1 = e.job.frames) (ho : e.oldCard = none) (s : State) (w : Work) (st : Nat)
    (outs : List (List Byte)) : ∃ f m, commitJobFrame s e i w st outs = finishJob (jobFrameEnded s m w.id) f ∧ f.ring = e.ring ∧ f.pos = e.pos ∧
      f.image.count = i + 1 := by
  unfold commitJobFrame
  extract_lets engine last data place s1 m card image keep f s2 s3 again
  have hengine : engine = false := hen
  have hlast : last = true := by
    unfold last
    rw [hengine]
    simp [hl]
  have hagain : again = false := by
    have hold : f.oldCard = none := ho
    unfold again
    rw [hold]
  have hs3 : s3 = s2 := if_neg (by simp [hengine])
  have hcount : f.image.count = i + 1 := by
    show (if engine then (if last then 1 else 0) else i + 1) = i + 1
    rw [hengine]
    rfl
  rw [hagain, hlast, if_neg (by decide), if_pos rfl, hs3]
  exact ⟨f, _, rfl, rfl, rfl, hcount⟩

theorem jobFrameEnded_keeps (s : State) (m : Memory) (id : WorkId) : Kept [.works, .mem] s (jobFrameEnded s m id) := by
  have h : Kept [.mem] s { s with mem := m } := Kept.mem s m
  exact (h.mono (by decide)).trans ((dropWork_keeps _ id).mono (by decide))

theorem findWork_jobFrameEnded (s : State) (m : Memory) (id : WorkId) : findWork (jobFrameEnded s m id) id = none := by
  rw [findWork_none_iff, List.mem_map]
  rintro ⟨v, hv, hid⟩
  have := (List.mem_filter.mp hv).2
  simp [hid] at this

theorem mem_jobFrameEnded (h : findJob s r p = some e) (m : Memory) (id : WorkId) : e ∈ (jobFrameEnded s m id).jobs := List.mem_of_find?_eq_some h

theorem key_of_findJob (h : findJob s r p = some e) : e.ring = r ∧ e.pos = p := by simpa using List.find?_some h

/-! ### The obligation -/

/-- Settles O19: a frame's commit is followed by operations that keep its counters and its outcome, and a job's frame only drops its work and
rewrites its job's entry. -/
theorem commits : Obligations.Commits := by
  unfold Obligations.Commits
  refine ⟨⟨fun s k j w hs hk hw he hst hd ho => ?_, fun s k j w hs hk hw he hst hd hc hid => ?_, fun s k j w hs hw h => ?_⟩,
    fun s r p i w e hs hw he hst hd ho hj hen hcut => ⟨fun hl => ?_, fun hl hoc => ?_⟩⟩
  · refine ⟨_, whenControlled_of_controlled hs fun s => commitWork s (.frame k j), ?_⟩
    rw [commitWork_frame hw he hst hd ho]
    extract_lets u outs total st
    have hc := commitFrame_committed hk (id_of_findWork hw) u st outs
    have hu : Kept [.mem] s u := formedState_keeps s k j w
    have hwork : u.works = s.works := hu .works (by decide)
    have hclk : counterOf u = counterOf s := congrArg (fun c : Timebase => c.now / periodOf c.rate c.free) (hu .clk (by decide))
    have hreg := getReg_congr (hu .dict (by decide)) (ctxIndex k) 0x3C
    have hkept := Same.of_kept (ps := [.pending, .clk, .tiles, .flags, .libero, .images, .cache, .windows, .syncWins, .lanes, .cdf, .fns, .pkgs,
      .queue, .jobs, .rings, .media, .cores, .power, .protect, .carried, .traceAt, .free])
      ((hu.mono (by decide)).trans (commitFrame_keeps u k j w st outs)) (by decide)
    refine ⟨hc.work, hc.count.trans (by rw [hreg]), hc.lag, fun hno hcom => hc.mem (hwork ▸ hno) hcom, fun f hf => ?_, hkept⟩
    obtain ⟨a, b, c, -⟩ := hc.entry f hf
    exact ⟨a, b, c.trans hclk⟩
  · refine ⟨_, whenControlled_of_controlled hs fun s => commitWork s (.frame k j), ?_⟩
    rw [commitWork_cancelled hw he hst hd hc, cancelFrame_eq hid]
    have hcom := commitFrame_committed hk hid (spanLeft s (.frame k j)) stCancelled []
    have hwins : (commitFrame (spanLeft s (.frame k j)) k j w stCancelled []).syncWins = s.syncWins.filter fun x => !(x.work == .frame k j) :=
      commitFrame_keeps _ k j w stCancelled [] .syncWins (by decide)
    refine ⟨hcom.work, hcom.count, fun f hf => ?_, fun x hx => ?_⟩
    · obtain ⟨a, -, -, d⟩ := hcom.entry f hf
      exact ⟨a, d (by decide)⟩
    · rw [hwins] at hx
      have := (List.mem_filter.mp hx).2
      simpa using this
  · exact (whenControlled_of_controlled hs fun s => commitWork s (.frame k j)).trans (congrArg Host.Outcome.next (commitWork_idle hw h))
  · refine ⟨_, whenControlled_of_controlled hs fun s => commitWork s (.job r p i), ?_⟩
    obtain ⟨f, m, heq, hr, hp, hdone, hstate, hstaged, hjob⟩ := commitJobFrame_open hen hcut hl s w (fittedStatus w (workOutputs s w)) (workOutputs s w)
    rw [commitWork_job hw he hst hd ho hj, heq]
    obtain ⟨her, hep⟩ := key_of_findJob hj
    have hid := id_of_findWork hw
    have hk := jobFrameEnded_keeps s m w.id
    refine ⟨?_, ⟨f, ?_, hdone, hstate, hstaged, hjob⟩, (hk.mono (by decide)).trans ((putJob_keeps _ f).mono (by decide))⟩
    · rw [← hid]
      exact findWork_jobFrameEnded s m w.id
    · have hput := findJob_putJob (s := jobFrameEnded s m w.id) (e := f) ⟨e, mem_jobFrameEnded hj m w.id, hr.symm, hp.symm⟩
      rwa [hr, hp, her, hep] at hput
  · refine ⟨_, whenControlled_of_controlled hs fun s => commitWork s (.job r p i), ?_⟩
    obtain ⟨f, m, heq, hr, hp, hcount⟩ := commitJobFrame_last hen hl hoc s w (fittedStatus w (workOutputs s w)) (workOutputs s w)
    rw [commitWork_job hw he hst hd ho hj, heq]
    obtain ⟨her, hep⟩ := key_of_findJob hj
    have hid := id_of_findWork hw
    have hk := jobFrameEnded_keeps s m w.id
    have hfin := finishJob_keeps (jobFrameEnded s m w.id) f
    obtain ⟨g, hg, hstate, -, hgcount, hgtick⟩ :=
      findJob_finishJob (s := jobFrameEnded s m w.id) (e := f) ⟨e, mem_jobFrameEnded hj m w.id, hr.symm, hp.symm⟩
    rw [hr, hp, her, hep] at hg
    refine ⟨?_, ⟨g, hg, hstate, hgcount.trans hcount, hgtick⟩, (hk.mono (by decide)).trans (hfin.mono (by decide))⟩
    rw [findWork_congr (hfin .works (by decide)), ← hid]
    exact findWork_jobFrameEnded s m w.id

end Sys2Proof.Machine
end
